-- ==== Sys2Proof/Word.lean ====
section
/-! DEFINITION. The word types of the Dargar and the sparse table that every store of the model is held in. -/

namespace Sys2Proof

/-- A byte of memory. -/
abbrev W8 := BitVec 8
/-- A vector lane or accumulator word (R9, R193). -/
abbrev W32 := BitVec 32
/-- A scalar register, an instruction word or a clause header (R42, R104). -/
abbrev W64 := BitVec 64
/-- A 56-bit virtual address: program counters and clause headers (R58). -/
abbrev Va := BitVec 56
/-- One bit per lane, up to the widest thread of 1024 lanes (R9). Bits at or beyond L are zero. -/
abbrev Mask := BitVec 1024
/-- The six sticky bits of csr.fflags (R125): 0 inexact, 1 underflow, 2 overflow, 3 divzero, 4 invalid, 5 NF. -/
abbrev Flags := BitVec 6

/-- A sparse store: keys strictly rising, and no entry equal to what an unlisted key reads as. -/
abbrev Tbl (α : Type) := List (Nat × α)

end Sys2Proof
end

