-- ==== Sys2Proof/Syntax.lean ====
section
/-! DEFINITION. The instructions and events of the Dargar: one constructor of `Instr` per row of the opcode table. -/

namespace Sys2Proof

/-- The scalar register number of a checked field (R54). -/
abbrev SReg := BitVec 5
/-- A vector register number, checked against the register count at issue (R118). -/
abbrev VReg := BitVec 6
/-- A lane or scalar predicate number (R73). -/
abbrev PReg := BitVec 3

/-- The guard of an instruction word (R52, R53). -/
structure Guard where
  tt : BitVec 8
  ga : PReg
  gb : PReg
  gc : PReg
  deriving DecidableEq, Repr

/-- The source modifier of formats R and C (R59, Table 02-5): segment code and distance. -/
inductive Amod where
  | none
  | rot (seg : BitVec 4) (dist : BitVec 6)
  | bfly (seg : BitVec 4) (dist : BitVec 6)
  | bcast (seg : BitVec 4) (dist : BitVec 6)
  deriving DecidableEq, Repr

/-- SALU functions (Table 04-2). -/
inductive SaluOp where
  | add | sub | and | or | xor | andn | shl | shr | sra | min | max | minn | maxn | slt | sltn
  | mul | mulh | mulhn | div | divn | rem | remn | clz | popc
  deriving DecidableEq, Repr

/-- The CSRs of Table 04-5. -/
inductive Csr where
  | rowid | width | placement | groups | taskpool | fflags | mflags | rng | plive | tokdepth
  | cause | epc | tval | tvec | hamper | pwd | pegmiss | pegstale | cyc | pclass | pweight
  deriving DecidableEq, Repr

/-- How SCSW and SCSX combine the source with the CSR (R112). -/
inductive CsrMode where
  | write | set | clr
  deriving DecidableEq, Repr

/-- Integer element widths (Table 05-3). -/
inductive VW where
  | w32 | w16 | w8
  deriving DecidableEq, Repr

/-- VIALU operations (Table 05-4). -/
inductive VOp where
  | add | sub | adds | addns | subs | subns | and | or | xor | andn | shl | shr | sra
  | min | max | minn | maxn | mul | mulh | mulhn | muls | abs | clz | popc | avgn
  deriving DecidableEq, Repr

/-- VMAD operations (R122). -/
inductive MadOp where
  | mad | mads | madns | dot
  deriving DecidableEq, Repr

/-- Integer reductions (Table 05-8). -/
inductive RedOp where
  | add | and | or | xor | min | max | minn | maxn
  deriving DecidableEq, Repr

/-- Float types of the vector unit (R126). -/
inductive FTy where
  | f32 | f16 | bf16
  deriving DecidableEq, Repr

/-- Rounding modes (R126). -/
inductive Rnd where
  | rne | rtz | rup | rdn
  deriving DecidableEq, Repr

/-- VFALU operations (R127). -/
inductive FaluOp where
  | add | sub | mul | min | max | abs | neg | copysign
  deriving DecidableEq, Repr

/-- VFMA operations (R128). -/
inductive FmaOp where
  | fma | fms | fnma
  deriving DecidableEq, Repr

/-- VFUN functions (Table 05-6). -/
inductive FunOp where
  | rcp | rsq | sqrt | exp2 | log2
  deriving DecidableEq, Repr

/-- Which value of a paired lane VFCLASS tests (R131). -/
inductive Half where
  | lo | hi | either
  deriving DecidableEq, Repr

/-- VFRED combines (R134). -/
inductive FredOp where
  | add | min | max
  deriving DecidableEq, Repr

/-- VCVT types (Table 06-3). -/
inductive CTy where
  | f32 | f16 | bf16 | i32 | i16 | i8
  deriving DecidableEq, Repr

/-- The conditions of Table 03-2, read as integer or float conditions by the instruction. -/
inductive Cond where
  | eq | ne | lt | le | gt | ge | c6 | c7
  deriving DecidableEq, Repr

/-- How a compare combines with the predicate pair (R75). -/
inductive Cmb where
  | write | and | or
  deriving DecidableEq, Repr

/-- PMOV forms (Table 03-6). -/
inductive PmovForm where
  | pv (d : PReg) (a : VReg) (m : Amod)
  | vp (d : VReg) (a : PReg) (m : Amod)
  | pp (d a : PReg) (m : Amod)
  | qs (d : PReg) (a : SReg)
  | sq (d : SReg) (a : PReg)
  | qq (d a : PReg)
  | get (d : SReg) (a : PReg) (k : BitVec 6)
  | set (d : PReg) (a : SReg) (k : BitVec 6)
  | any (d a : PReg)
  | all (d a : PReg)
  deriving DecidableEq, Repr

/-- The mask that EMGET reads (R83). -/
inductive EmSel where
  | em | live | held
  deriving DecidableEq, Repr

/-- BR conditions (R88). -/
inductive BrCond where
  | always | any | all | none
  deriving DecidableEq, Repr

/-- The address fields of format M (R55). -/
structure Mem where
  base : SReg
  idx : VReg
  sz : BitVec 3
  sc : BitVec 3
  off : BitVec 12
  deriving DecidableEq, Repr

/-- The fields of MMAC (Table 08-4); `pair` is ak = 1. -/
structure MmacF where
  d : BitVec 7
  dk : BitVec 2
  pair : Bool
  a : VReg
  n : BitVec 8
  fmt : BitVec 3
  sa : Bool
  ss : SReg
  nk : BitVec 2
  fs : Bool
  deriving DecidableEq, Repr

/-- FENCE kinds (Table 10-7). -/
inductive FKind where
  | full | rel | acq
  deriving DecidableEq, Repr

/-- Ordering scopes (R252). -/
inductive Scope where
  | vault | die | device | system
  deriving DecidableEq, Repr

/-- Atomic operations (Table 11-3). -/
inductive AFn where
  | add | and | or | xor | min | max | minn | maxn | swap | cas | fadd | fmin | fmax
  deriving DecidableEq, Repr

/-- The ordering an atomic carries (Table 11-2). -/
inductive AOrd where
  | relaxed
  | acq (sc : Scope)
  | rel (sc : Scope)
  | acqrel (sc : Scope)
  deriving DecidableEq, Repr

/-- Barrier operators (Table 13-3). -/
inductive BarOp where
  | none | or | and | maxn | minn | add
  deriving DecidableEq, Repr

/-- A 3-way form code of MSTAT, CSEQ and RPOS (Tables 08-6, 12-7, R220). -/
inductive Form3 where
  | f0 | f1 | f2
  deriving DecidableEq, Repr

/-- An Adyan cell: payload, tag (Table 01-5) and CRC (R24). -/
structure Cell where
  payload : BitVec 512
  tag : W64
  crc : BitVec 24
  deriving DecidableEq, Repr

/-- A 64-byte command record: words 0 to 7 (R398). -/
structure CmdRec where
  w0 : W64
  w1 : W64
  w2 : W64
  w3 : W64
  w4 : W64
  w5 : W64
  w6 : W64
  w7 : W64
  deriving DecidableEq, Repr

/-- The steps of the Dargar. Up to `halt` a constructor is an instruction word's meaning, `g` its guard; from
`clauseIssue` on it is an event of the opcode table, naming the row, die, engine or domain it happens at. -/
inductive Instr where
  | nop (g : Guard)
  | salu (g : Guard) (op : SaluOp) (d a b : SReg)
  | saddi (g : Guard) (d a : SReg) (imm : BitVec 27)
  | sandi (g : Guard) (d a : SReg) (imm : BitVec 27)
  | sori (g : Guard) (d a : SReg) (imm : BitVec 27)
  | sxori (g : Guard) (d a : SReg) (imm : BitVec 27)
  | sshli (g : Guard) (d a : SReg) (n : BitVec 6)
  | sshri (g : Guard) (d a : SReg) (n : BitVec 6)
  | ssrai (g : Guard) (d a : SReg) (n : BitVec 6)
  | sli (g : Guard) (d : SReg) (imm : BitVec 27)
  | slui (g : Guard) (d a : SReg) (imm : BitVec 27)
  | slhi (g : Guard) (d a : SReg) (imm : BitVec 10)
  | sadda (g : Guard) (d a b : SReg) (a56 w : Bool) (sh : BitVec 3)
  | smovv (g : Guard) (d : SReg) (a : VReg) (m : Amod) (b : SReg) (first sx : Bool)
  | scsr (g : Guard) (d : SReg) (c : Csr)
  | scsw (g : Guard) (a : SReg) (mode : CsrMode) (c : Csr)
  | scsx (g : Guard) (d a : SReg) (mode : CsrMode) (c : Csr)
  | sld (g : Guard) (d : SReg) (m : Mem) (vol fs : Bool)
  | sst (g : Guard) (d : SReg) (m : Mem) (vol : Bool)
  | vialu (g : Guard) (op : VOp) (w : VW) (d a : VReg) (m : Amod) (b : VReg)
  | vialus (g : Guard) (op : VOp) (w : VW) (d a : VReg) (m : Amod) (b : SReg)
  | vaddi (g : Guard) (d a : VReg) (imm : BitVec 27)
  | vandi (g : Guard) (d a : VReg) (imm : BitVec 27)
  | vori (g : Guard) (d a : VReg) (imm : BitVec 27)
  | vxori (g : Guard) (d a : VReg) (imm : BitVec 27)
  | vshli (g : Guard) (d a : VReg) (n : BitVec 5)
  | vshri (g : Guard) (d a : VReg) (n : BitVec 5)
  | vsrai (g : Guard) (d a : VReg) (n : BitVec 5)
  | vli (g : Guard) (d : VReg) (imm : BitVec 27)
  | vmad (g : Guard) (op : MadOp) (w : VW) (d a : VReg) (m : Amod) (b : VReg)
  | vsel (g : Guard) (c : PReg) (d a : VReg) (m : Amod) (b : VReg)
  | vidx (g : Guard) (d : VReg) (a : SReg) (imm : BitVec 27)
  | vbcast (g : Guard) (d : VReg) (a : SReg) (hi : Bool)
  | vmov (g : Guard) (d a : VReg) (m : Amod)
  | vred (g : Guard) (op : RedOp) (d a : VReg) (m : Amod) (seg : BitVec 6)
  | vscan (g : Guard) (op : RedOp) (excl : Bool) (d a : VReg) (m : Amod) (seg : BitVec 6)
  | vperm (g : Guard) (d a b : VReg) (inn : Bool) (seg : BitVec 4)
  | vfalu (g : Guard) (op : FaluOp) (t : FTy) (r : Rnd) (d a : VReg) (m : Amod) (b : VReg)
  | vfma (g : Guard) (op : FmaOp) (t : FTy) (r : Rnd) (d a : VReg) (m : Amod) (b : VReg)
  | vfmas (g : Guard) (op : FmaOp) (t : FTy) (r : Rnd) (d a : VReg) (m : Amod) (b : SReg)
  | vfun (g : Guard) (op : FunOp) (t : FTy) (r : Rnd) (d a : VReg) (m : Amod)
  | vfdiv (g : Guard) (t : FTy) (r : Rnd) (d a : VReg) (m : Amod) (b : VReg)
  | vfclass (g : Guard) (t : FTy) (half : Half) (d : PReg) (a : VReg) (m : Amod) (b : SReg)
  | vfclassTrap (g : Guard) (t : FTy) (half : Half) (a : VReg) (m : Amod) (b : SReg)
  | vfred (g : Guard) (op : FredOp) (t : FTy) (r : Rnd) (d a : VReg) (m : Amod) (seg : BitVec 6)
  | vcvt (g : Guard) (st dt : CTy) (r : Rnd) (sgn : Bool) (ed es : BitVec 2) (d a : VReg) (m : Amod)
  | vsrnd (g : Guard) (bf : Bool) (k : BitVec 4) (d a : VReg) (m : Amod) (b : VReg)
  | vqnt (g : Guard) (j : BitVec 2) (r : Rnd) (sgn : Bool) (w : BitVec 3) (d a : VReg) (m : Amod) (b : SReg)
  | vdqnt (g : Guard) (j : BitVec 2) (sgn : Bool) (d a : VReg) (b : SReg)
  | vreq (g : Guard) (sto : Bool) (k : BitVec 4) (sgn : Bool) (w : BitVec 3) (d a b : VReg)
  | vbmax (g : Guard) (sgn : Bool) (w : BitVec 3) (d : SReg) (a : VReg) (m : Amod)
  | vpln (g : Guard) (sgn : Bool) (w : BitVec 3) (d a : VReg)
  | vupln (g : Guard) (sgn : Bool) (w : BitVec 3) (d a : VReg)
  | vfli (g : Guard) (form : BitVec 2) (h : BitVec 16) (d : VReg)
  | vicmp (g : Guard) (pt pf : PReg) (a : VReg) (m : Amod) (b : BitVec 6) (sb : Bool) (c : Cond) (ty : BitVec 2) (k : Cmb)
  | vfcmp (g : Guard) (pt pf : PReg) (a : VReg) (m : Amod) (b : BitVec 6) (sb : Bool) (c : Cond) (ty : FTy) (k : Cmb)
  | sicmp (g : Guard) (pt pf : PReg) (a b : SReg) (c : Cond) (ty : BitVec 2) (k : Cmb)
  | plop (g : Guard) (q : Bool) (fn : BitVec 4) (d a b : PReg)
  | pmov (g : Guard) (f : PmovForm)
  | plive (g : Guard) (mask : BitVec 8)
  | emset (g : Guard) (a : PReg)
  | emsetAll (g : Guard)
  | emget (g : Guard) (d : PReg) (sel : EmSel)
  | br (g : Guard) (c : BrCond) (pr : PReg) (off : BitVec 33)
  | brv (g : Guard) (pr : PReg) (neg : Bool) (off : BitVec 33)
  | join (g : Guard) (off : BitVec 33)
  | brk (g : Guard) (pr : PReg) (neg : Bool)
  | cont (g : Guard) (pr : PReg) (neg : Bool)
  | loops (g : Guard) (off : BitVec 33)
  | call (g : Guard) (off : BitVec 33)
  | ret (g : Guard)
  | jmpr (g : Guard) (a : SReg)
  | jmprCall (g : Guard) (a : SReg)
  | lexit (g : Guard)
  | exit (g : Guard)
  | pwr (g : Guard) (a : VReg) (m : Amod)
  | prd (g : Guard) (d : VReg) (pv : PReg)
  | prdn (g : Guard) (d : VReg) (pv qt qs : PReg)
  | pseal (g : Guard)
  | pstat (g : Guard) (d : SReg) (south : Bool)
  | pxfer (g : Guard) (qs : PReg) (n : BitVec 5)
  | wld (g : Guard) (a : VReg) (n : BitVec 8) (fmt : BitVec 3) (sa : Bool) (ss : SReg) (fs : Bool)
  | wswap (g : Guard)
  | mmac (g : Guard) (f : MmacF)
  | accrd (g : Guard) (d : VReg) (a : SReg) (h : BitVec 2) (e : BitVec 7)
  | accwr (g : Guard) (d : VReg) (a : SReg) (h : BitVec 2) (e : BitVec 7)
  | accz (g : Guard) (f cnt : BitVec 7)
  | mdrain (g : Guard) (a : SReg)
  | mfill (g : Guard) (a : SReg)
  | mstat (g : Guard) (d : SReg) (f : Form3)
  | ldv (g : Guard) (d : VReg) (m : Mem) (fs : Bool)
  | stv (g : Guard) (d : VReg) (m : Mem)
  | ldx (g : Guard) (d : VReg) (m : Mem) (fs : Bool)
  | stx (g : Guard) (d : VReg) (m : Mem)
  | ldt (g : Guard) (d : VReg) (m : Mem) (fs : Bool)
  | ldm (g : Guard) (d : PReg) (base : SReg) (off : BitVec 12) (fs : Bool)
  | ldvol (g : Guard) (d : VReg) (m : Mem) (fs : Bool)
  | stvol (g : Guard) (d : VReg) (m : Mem)
  | fence (g : Guard) (k : FKind) (sc : Scope)
  | ldacq (g : Guard) (d : VReg) (m : Mem) (fs : Bool)
  | strel (g : Guard) (d : VReg) (m : Mem)
  | amo (g : Guard) (d : VReg) (base : SReg) (idx : VReg) (sc : BitVec 3) (fn : AFn) (ret : Bool) (o : AOrd) (fs : Bool)
  | red (g : Guard) (d : VReg) (base : SReg) (idx : VReg) (sc : BitVec 3) (fn : AFn) (o : AOrd)
  | amos (g : Guard) (d base : SReg) (wide : Bool) (fn : AFn) (ret : Bool) (o : AOrd) (fs : Bool)
  | own (g : Guard) (d base : SReg) (off : BitVec 12) (many : Bool)
  | disown (g : Guard) (d base : SReg) (off : BitVec 12) (many : Bool)
  | peg (g : Guard) (a b c : SReg) (flag : BitVec 4) (act : Bool) (i : BitVec 4)
  | unpeg (g : Guard) (mask : BitVec 16)
  | pegw (g : Guard) (a : SReg) (i : BitVec 4) (fs : Bool)
  | pegq (g : Guard) (d : SReg) (tag : Bool) (i : BitVec 4)
  | rpos (g : Guard) (d : SReg) (f : Form3)
  | ctail (g : Guard) (a : SReg) (die : BitVec 2) (eng : BitVec 3)
  | ctailRetry (g : Guard) (die : BitVec 2) (eng : BitVec 3)
  | ctailSkip (g : Guard) (die : BitVec 2) (eng : BitVec 3)
  | ctailStart (g : Guard) (a b : SReg) (die : BitVec 2) (eng : BitVec 3)
  | cseq (g : Guard) (d : SReg) (f : Form3) (die : BitVec 2) (eng : BitVec 3)
  | cwait (g : Guard) (b : SReg) (die : BitVec 2) (eng : BitVec 3) (fs : Bool)
  | cbacq (g : Guard) (a b : SReg) (die : BitVec 2) (buf : BitVec 6)
  | cbrel (g : Guard) (a : SReg) (die : BitVec 2) (buf : BitVec 6)
  | cbpub (g : Guard) (a b : SReg) (fin : Bool) (die : BitVec 2) (buf : BitVec 6)
  | cbpubGet (g : Guard) (a : SReg) (die : BitVec 2) (buf : BitVec 6)
  | spawn (g : Guard) (a b c : SReg) (inc : Bool) (pri : BitVec 2) (vf : VReg) (nargs : BitVec 4) (va : VReg)
  | tjoin (g : Guard) (a : SReg)
  | targ (g : Guard) (d : VReg) (k : BitVec 4)
  | tend (g : Guard)
  | desc (g : Guard) (a b : SReg)
  | bar (g : Guard) (d b : SReg) (op : BarOp) (grp : BitVec 8)
  | bara (g : Guard) (b : SReg) (op : BarOp) (grp : BitVec 8)
  | barw (g : Guard) (d : SReg) (grp : BitVec 8)
  | trig (g : Guard)
  | flwait (g : Guard) (all : Bool) (mask : BitVec 12)
  | trap (g : Guard) (code : BitVec 16)
  | eret (g : Guard)
  | idem (g : Guard) (m : SReg)
  | idend (g : Guard)
  | phint (g : Guard) (wake : Bool) (units : BitVec 2) (n : BitVec 24)
  | yield (g : Guard)
  | rdcyc (g : Guard) (d : SReg) (run : Bool)
  | halt (g : Guard) (code : BitVec 16)
  -- events
  | clauseIssue (row : Nat)
  | deferredTrap (row : Nat)
  | operationComplete (row id sel : Nat) (ecc : Bool)
  | storePerform (row id sel : Nat) (ecc : Bool)
  | atomicPerform (row id sel : Nat) (ecc : Bool)
  | rowRetire (row : Nat)
  | portEntryArrive (row : Nat)
  | portWaitEnd (row : Nat)
  | portStarved (row : Nat)
  | cbEdgeTransfer (row : Nat) (south : Bool)
  | vectorEnter (row : Nat)
  | vectorWrite (row : Nat)
  | swapPoint (row : Nat)
  | shadowFillStart (row : Nat)
  | arrayPortStop (row : Nat) (ecc : Option Nat)
  | arrayWatchdog (row : Nat)
  | revolutionStart
  | feederInsert (ecc : Bool)
  | tilePass (die : Nat) (bad : Bool)
  | pegFireComplete (row i : Nat)
  | ringWatchdog (row i : Nat)
  | commitPoint
  | engineCommandStart (die eng : Nat) (ecc : Bool)
  | engineCommandComplete (die eng : Nat)
  | nopCommand (die eng : Nat)
  | copy (die eng : Nat) (ecc : Bool)
  | tile (die eng : Nat) (ecc : Bool)
  | gather (die eng : Nat) (ecc : Bool)
  | transpose (die eng : Nat) (ecc : Bool)
  | fill (die eng : Nat)
  | pairedCommit (die eng : Nat) (ecc : Bool)
  | edgeFeed (die eng : Nat) (ecc : Bool)
  | edgeDrain (die eng : Nat)
  | bufferSetUp (die eng : Nat)
  | followOnMmac (die eng : Nat)
  | send (die eng : Nat) (ecc : Bool)
  | recv (die eng : Nat)
  | reduceStep (die eng : Nat) (ecc : Bool)
  | xorReduce (die eng : Nat) (ecc : Bool)
  | allreduce (die eng : Nat) (ecc : Bool)
  | linkAbort (comm tag : Nat)
  | adyanCell (port : Nat) (c : Cell)
  | replay (port : Nat) (seq : BitVec 16)
  | windowFill (die : Nat)
  | waveDispatch (die row : Nat)
  | stealRequest (die : Nat)
  | taskEnqueue (die : Nat)
  | joinDecrement (row : Nat)
  | continuationEnqueue (die pri : Nat)
  | partSecure (die : Nat)
  | domainReassign (dom : Nat)
  | gangStart (pl : Nat)
  | allowanceTick (dom : Nat)
  | thermal (dom : Nat) (reading : BitVec 16)
  | laggardTransferEnd (dom : Nat)
  | bank (row : Nat) (fp : Bool)
  | stokeRequest (row : Nat) (fp : Bool)
  | inrushGrant (die : Nat)
  | stokeComplete (row : Nat) (fp : Bool)
  | preemptArrive (die : Nat)
  | hamperSave (row : Nat)
  | start
  | featuresTimeout
  | fatal (cause : BitVec 8)
  | eventDeliver
  | cmdTail (r : CmdRec) (v : Nat)
  | evtHead (v : Nat)
  | windowWrite (off : Nat) (v : W64)
  | features
  | attest (ecc : Bool)
  | status
  | jobOpen
  | jobClose
  | allocSet (ecc : Bool)
  | sideCheck
  | xlateInval
  | place (ecc : Bool)
  | poolBind (ecc : Bool)
  | poolUnbind
  | preempt
  | resume (ecc : Bool)
  | checkpoint (ecc : Bool)
  | restore (ecc : Bool)
  | ringLoad (ecc : Bool)
  | linkUp
  | commLoad (ecc : Bool)
  | powerSet
  | clearStart
  | mgmtStatus
  | mgmtAttest
  | mgmtReadStart
  | mgmtReadEvents
  | mgmtReset
  deriving DecidableEq, Repr

/-- What moves next: a row issues the next word of its clause, or an event of the table happens. -/
inductive Move where
  | issue (row : Nat)
  | event (i : Instr)
  deriving DecidableEq, Repr, Inhabited

end Sys2Proof
end

