-- ==== Sys2Proof/WellFormed.lean ====
section
/-! DEFINITION. Which terms of `Instr` are instructions of the Dargar: the limits that the field types alone do not give.
Limits that depend on the running width (R60 S > L, R118, R142, R177, R188) are checked when the instruction runs. -/

namespace Sys2Proof

/-- The modifier values R60 admits at every width: kind 00 aside, seg below 10, dist at most seg for a butterfly,
dist below the segment size for a broadcast. -/
def Amod.wf : Amod → Bool
  | .none => true
  | .rot seg _ => seg.toNat < 10
  | .bfly seg dist => seg.toNat < 10 && dist.toNat ≤ seg.toNat
  | .bcast seg dist => seg.toNat < 10 && dist.toNat < 2 ^ (seg.toNat + 1)

/-- Contiguous form: idx and sc zero (Table 10-5). -/
def Mem.plain (m : Mem) : Bool := m.idx == 0 && m.sc == 0
/-- Indexed form: idx nonzero (Table 10-5). -/
def Mem.indexed (m : Mem) : Bool := m.idx != 0
/-- Either form (R55: sc must be 0 when idx = 0). -/
def Mem.either (m : Mem) : Bool := m.idx != 0 || m.sc == 0
/-- The sz codes of the vector loads (Table 10-6). -/
def Mem.loadSz (m : Mem) : Bool := m.sz == 0 || m.sz == 1 || m.sz == 2 || m.sz == 4 || m.sz == 5
/-- The sz codes of the vector stores (Table 10-6). -/
def Mem.storeSz (m : Mem) : Bool := m.sz == 0 || m.sz == 1 || m.sz == 2
/-- The sz codes of LDACQ and STREL, which name a scope (Table 10-6). -/
def Mem.scopeSz (m : Mem) : Bool := 4 ≤ m.sz.toNat

/-- The element positions Table 06-3 gives a VCVT type. -/
def CTy.positions : CTy → Nat
  | .f32 | .i32 => 1
  | .f16 | .bf16 | .i16 => 2
  | .i8 => 4

/-- Whether a VCVT type is an integer type (R143). -/
def CTy.isInt : CTy → Bool
  | .i32 | .i16 | .i8 => true
  | _ => false

/-- The limits of R188 that no width enters. -/
def MmacF.wf (f : MmacF) : Bool :=
  f.fmt != 0 && f.nk != 3 && (f.dk != 1 || f.d == 0) && (f.dk != 2 || f.d.toNat < 64) &&
  (if f.pair then 1 ≤ f.a.toNat && f.a.toNat ≤ 30 else f.ss != 0) &&
  (f.nk != 2 || (f.dk != 1 && f.dk != 2))

/-- Atomic operations that work on FP32 only (R263). -/
def AFn.isFp : AFn → Bool
  | .fadd | .fmin | .fmax => true
  | _ => false

/-- Well-formedness of an instruction or event. -/
def Instr.wf : Instr → Bool
  | .salu _ op _ _ b => !(op == .clz || op == .popc) || b == 0
  | .smovv _ _ _ m b first _ => m.wf && (!first || b == 0)
  | .sld _ _ m _ _ => m.plain && m.sz != 7
  | .sst _ _ m _ => m.plain && m.sz.toNat < 4
  | .vialu _ op _ _ _ m b => m.wf && (!(op == .abs || op == .clz || op == .popc) || b == 0)
  | .vialus _ op _ _ _ m b => m.wf && (!(op == .abs || op == .clz || op == .popc) || b == 0)
  | .vmad _ op w _ _ m _ => m.wf && !(op == .dot && w == .w32)
  | .vsel _ _ _ _ m _ => m.wf
  | .vmov _ _ _ m => m.wf
  | .vred _ _ _ _ m seg => m.wf && seg.toNat < 10
  | .vscan _ _ _ _ _ m seg => m.wf && seg.toNat < 10
  | .vperm _ _ _ _ inn seg => if inn then seg.toNat < 10 else seg == 0
  | .vfalu _ op _ r _ _ m b =>
    m.wf && (op == .add || op == .sub || op == .mul || r == .rne) && (!(op == .abs || op == .neg) || b == 0)
  | .vfma _ _ _ _ _ _ m _ => m.wf
  | .vfmas _ _ _ _ _ _ m _ => m.wf
  | .vfun _ _ _ _ _ _ m => m.wf
  | .vfdiv _ _ _ _ _ m _ => m.wf
  | .vfclass _ t h _ _ m _ => m.wf && (h == .lo || t != .f32)
  | .vfclassTrap _ t h _ m _ => m.wf && (h == .lo || t != .f32)
  | .vfred _ op _ r _ _ m seg => m.wf && seg.toNat < 10 && (op == .add || r == .rne)
  | .vcvt _ st dt _ sgn ed es _ _ m =>
    m.wf && ed.toNat < dt.positions && es.toNat < st.positions && (!sgn || st.isInt || dt.isInt)
  | .vsrnd _ _ _ _ _ m _ => m.wf
  | .vqnt _ _ _ _ w _ _ m _ => m.wf && w != 0
  | .vreq _ sto k _ w _ _ _ => w != 0 && (sto || k == 0)
  | .vbmax _ _ w _ _ m => m.wf && w != 0
  | .vpln _ _ w _ _ => w != 0 && w != 7
  | .vupln _ _ w _ _ => w != 0 && w != 7
  | .vicmp _ pt pf _ m b sb _ _ _ => m.wf && (pt != pf || pt == 0) && (!sb || b.toNat < 32)
  | .vfcmp _ pt pf _ m b sb _ _ _ => m.wf && (pt != pf || pt == 0) && (!sb || b.toNat < 32)
  | .sicmp _ pt pf _ _ _ _ _ => pt != pf || pt == 0
  | .pmov _ (.pv _ _ m) => m.wf
  | .pmov _ (.vp _ _ m) => m.wf
  | .pmov _ (.pp _ _ m) => m.wf
  | .br _ c pr _ => c != .always || pr == 0
  | .pwr _ _ m => m.wf
  | .wld _ a n fmt _ _ _ => 1 ≤ a.toNat && a.toNat ≤ 30 && n.toNat < 128 && fmt != 0
  | .mmac _ f => f.wf
  | .ldv _ _ m _ => m.plain && m.loadSz
  | .stv _ _ m => m.plain && m.storeSz
  | .ldx _ _ m _ => m.indexed && m.loadSz
  | .stx _ _ m => m.indexed && m.storeSz
  | .ldt _ _ m _ => m.indexed && m.loadSz
  | .ldm _ d _ _ _ => d != 0
  | .ldvol _ _ m _ => m.either && m.loadSz
  | .stvol _ _ m => m.either && m.storeSz
  | .ldacq _ _ m _ => m.either && m.scopeSz
  | .strel _ _ m => m.either && m.scopeSz
  | .amo _ _ _ idx sc _ _ _ _ => idx != 0 || sc == 0
  | .red _ _ _ idx sc fn o =>
    (idx != 0 || sc == 0) && fn != .swap && fn != .cas &&
    (match o with | .acq _ | .acqrel _ => false | _ => true)
  | .amos _ d _ wide fn _ _ _ => d != 31 && !(wide && fn.isFp)
  | .own _ d _ _ many => many || d == 0
  | .disown _ d _ _ many => many || d == 0
  | .peg _ _ b _ flag act _ => (flag.toNat < 12 || flag == 15) && (act == (b != 0))
  | .spawn _ _ b _ inc _ _ nargs va => nargs.toNat ≤ 10 && (nargs != 0 || va == 0) && (!inc || b != 0)
  | .bar _ _ b op _ => op != .none || b == 0
  | .bara _ b op _ => op != .none || b == 0
  | .phint _ wake units n => units != 0 && (!wake || n == 0)
  | .clauseIssue r | .deferredTrap r | .operationComplete r _ _ _ | .storePerform r _ _ _ | .atomicPerform r _ _ _
  | .rowRetire r | .portEntryArrive r | .portWaitEnd r | .portStarved r | .cbEdgeTransfer r _ | .vectorEnter r
  | .vectorWrite r | .swapPoint r | .shadowFillStart r | .arrayPortStop r _ | .arrayWatchdog r | .joinDecrement r
  | .bank r _ | .stokeRequest r _ | .stokeComplete r _ | .hamperSave r => r < 512
  | .pegFireComplete r i | .ringWatchdog r i => r < 512 && i < 16
  | .tilePass d _ | .windowFill d | .stealRequest d | .taskEnqueue d | .partSecure d | .inrushGrant d
  | .preemptArrive d => d < 4
  | .engineCommandStart d e _ | .engineCommandComplete d e | .nopCommand d e | .copy d e _ | .tile d e _ | .gather d e _
  | .transpose d e _ | .fill d e | .pairedCommit d e _ | .edgeFeed d e _ | .edgeDrain d e | .bufferSetUp d e
  | .followOnMmac d e | .send d e _ | .recv d e | .reduceStep d e _ | .xorReduce d e _ | .allreduce d e _ => d < 4 && e < 8
  | .linkAbort c t => c < 64 && t < 2 ^ 32
  | .adyanCell p _ | .replay p _ => p < 38
  | .waveDispatch d r => d < 4 && r / 128 == d
  | .continuationEnqueue d pri => d < 4 && pri < 4
  | .domainReassign d | .allowanceTick d | .thermal d _ | .laggardTransferEnd d => d < 16
  | .cmdTail _ v => v < 256
  | .evtHead v => v < 4096
  | .windowWrite off _ => off < 4096
  | _ => true

/-- Whether a constructor is an event: it has no word of its own and is never fetched. -/
def Instr.isEvent : Instr → Bool
  | .clauseIssue _ | .deferredTrap _ | .operationComplete .. | .storePerform .. | .atomicPerform .. | .rowRetire _
  | .portEntryArrive _ | .portWaitEnd _ | .portStarved _ | .cbEdgeTransfer .. | .vectorEnter _ | .vectorWrite _
  | .swapPoint _ | .shadowFillStart _ | .arrayPortStop .. | .arrayWatchdog _ | .revolutionStart | .feederInsert _
  | .tilePass .. | .pegFireComplete .. | .ringWatchdog .. | .commitPoint | .engineCommandStart ..
  | .engineCommandComplete .. | .nopCommand .. | .copy .. | .tile .. | .gather .. | .transpose .. | .fill ..
  | .pairedCommit .. | .edgeFeed .. | .edgeDrain .. | .bufferSetUp .. | .followOnMmac .. | .send .. | .recv ..
  | .reduceStep .. | .xorReduce .. | .allreduce .. | .linkAbort .. | .adyanCell .. | .replay .. | .windowFill _
  | .waveDispatch .. | .stealRequest _ | .taskEnqueue _ | .joinDecrement _ | .continuationEnqueue .. | .partSecure _
  | .domainReassign _ | .gangStart _ | .allowanceTick _ | .thermal .. | .laggardTransferEnd _ | .bank ..
  | .stokeRequest .. | .inrushGrant _ | .stokeComplete .. | .preemptArrive _ | .hamperSave _ | .start
  | .featuresTimeout | .fatal _ | .eventDeliver | .cmdTail .. | .evtHead _ | .windowWrite .. | .features | .attest _
  | .status | .jobOpen | .jobClose | .allocSet _ | .sideCheck | .xlateInval | .place _ | .poolBind _ | .poolUnbind
  | .preempt | .resume _ | .checkpoint _ | .restore _ | .ringLoad _ | .linkUp | .commLoad _ | .powerSet | .clearStart
  | .mgmtStatus | .mgmtAttest | .mgmtReadStart | .mgmtReadEvents | .mgmtReset => true
  | _ => false

end Sys2Proof
end

