-- ==== Sys2Proof/Decode.lean ====
section
/-! DEFINITION. From instruction words to instructions and back (R52 to R61): formats, field checks, the decoder, which is
total and refuses by name, and after it the encoder. -/

namespace Sys2Proof

/-- Why a word is no instruction (R61, R413). -/
inductive Reject where
  /-- A major opcode of 0xDC to 0xDF, which only a header holds: the step traps ILL_CLAUSE (R44). -/
  | marker
  /-- A major opcode Table 02-6 does not assign: the step traps ILL_ENC (R61). -/
  | opcode
  /-- A field value that the format or the entry forbids: the step traps ILL_ENC (R54). -/
  | field
  /-- Fewer than eight bytes were given. -/
  | short
  deriving DecidableEq, Repr

/-! ### Formats (Table 02-4) -/

structure FmtR where
  d : BitVec 6
  a : BitVec 6
  m : BitVec 12
  b : BitVec 6
  fn : BitVec 9
  deriving DecidableEq, Repr

structure FmtI where
  d : BitVec 6
  a : BitVec 6
  imm : BitVec 27
  deriving DecidableEq, Repr

structure FmtC where
  pt : BitVec 3
  pf : BitVec 3
  a : BitVec 6
  m : BitVec 12
  b : BitVec 6
  cond : BitVec 4
  ty : BitVec 3
  cmb : BitVec 2
  deriving DecidableEq, Repr

structure FmtB where
  pr : BitVec 3
  k : BitVec 3
  off : BitVec 33
  deriving DecidableEq, Repr

structure FmtM where
  d : BitVec 6
  base : BitVec 5
  idx : BitVec 6
  sz : BitVec 3
  sc : BitVec 3
  off : BitVec 12
  vol : Bool
  own : Bool
  rsv : Bool
  fs : Bool
  deriving DecidableEq, Repr

structure FmtX where
  d : BitVec 7
  dk : BitVec 2
  ak : BitVec 2
  a : BitVec 6
  n : BitVec 8
  fmt : BitVec 3
  sa : Bool
  ss : BitVec 5
  nk : BitVec 2
  rsv : BitVec 2
  fs : Bool
  deriving DecidableEq, Repr

structure FmtE where
  a : BitVec 5
  b : BitVec 5
  c : BitVec 5
  imm : BitVec 23
  fs : Bool
  deriving DecidableEq, Repr

structure FmtS where
  fn : BitVec 12
  imm : BitVec 27
  deriving DecidableEq, Repr

/-- The 39 format bits of a word. -/
abbrev Body := BitVec 39

/-- Field [lo+n-1 : lo]. -/
def fieldAt {k : Nat} (lo n : Nat) (x : BitVec k) : BitVec n := x.extractLsb' lo n

def FmtR.unpack (x : Body) : FmtR :=
  ⟨fieldAt 33 6 x, fieldAt 27 6 x, fieldAt 15 12 x, fieldAt 9 6 x, fieldAt 0 9 x⟩
def FmtI.unpack (x : Body) : FmtI := ⟨fieldAt 33 6 x, fieldAt 27 6 x, fieldAt 0 27 x⟩
def FmtC.unpack (x : Body) : FmtC :=
  ⟨fieldAt 36 3 x, fieldAt 33 3 x, fieldAt 27 6 x, fieldAt 15 12 x, fieldAt 9 6 x, fieldAt 5 4 x, fieldAt 2 3 x,
    fieldAt 0 2 x⟩
def FmtB.unpack (x : Body) : FmtB := ⟨fieldAt 36 3 x, fieldAt 33 3 x, fieldAt 0 33 x⟩
def FmtM.unpack (x : Body) : FmtM :=
  ⟨fieldAt 33 6 x, fieldAt 28 5 x, fieldAt 22 6 x, fieldAt 19 3 x, fieldAt 16 3 x, fieldAt 4 12 x, x.getLsbD 3,
    x.getLsbD 2, x.getLsbD 1, x.getLsbD 0⟩
def FmtX.unpack (x : Body) : FmtX :=
  ⟨fieldAt 32 7 x, fieldAt 30 2 x, fieldAt 28 2 x, fieldAt 22 6 x, fieldAt 14 8 x, fieldAt 11 3 x, x.getLsbD 10,
    fieldAt 5 5 x, fieldAt 3 2 x, fieldAt 1 2 x, x.getLsbD 0⟩
def FmtE.unpack (x : Body) : FmtE :=
  ⟨fieldAt 34 5 x, fieldAt 29 5 x, fieldAt 24 5 x, fieldAt 1 23 x, x.getLsbD 0⟩
def FmtS.unpack (x : Body) : FmtS := ⟨fieldAt 27 12 x, fieldAt 0 27 x⟩

/-! ### Codes of the enumerated fields: the position in the list is the code. -/

def SaluOp.all : List SaluOp :=
  [.add, .sub, .and, .or, .xor, .andn, .shl, .shr, .sra, .min, .max, .minn, .maxn, .slt, .sltn, .mul, .mulh, .mulhn, .div,
    .divn, .rem, .remn, .clz, .popc]
def VOp.all : List VOp :=
  [.add, .sub, .adds, .addns, .subs, .subns, .and, .or, .xor, .andn, .shl, .shr, .sra, .min, .max, .minn, .maxn, .mul,
    .mulh, .mulhn, .muls, .abs, .clz, .popc, .avgn]
def VW.all : List VW := [.w32, .w16, .w8]
def MadOp.all : List MadOp := [.mad, .mads, .madns, .dot]
def RedOp.all : List RedOp := [.add, .and, .or, .xor, .min, .max, .minn, .maxn]
def FTy.all : List FTy := [.f32, .f16, .bf16]
def Rnd.all : List Rnd := [.rne, .rtz, .rup, .rdn]
def FaluOp.all : List FaluOp := [.add, .sub, .mul, .min, .max, .abs, .neg, .copysign]
def FmaOp.all : List FmaOp := [.fma, .fms, .fnma]
def FunOp.all : List FunOp := [.rcp, .rsq, .sqrt, .exp2, .log2]
def Half.all : List Half := [.lo, .hi, .either]
def FredOp.all : List FredOp := [.add, .min, .max]
def CTy.all : List CTy := [.f32, .f16, .bf16, .i32, .i16, .i8]
def Cond.all : List Cond := [.eq, .ne, .lt, .le, .gt, .ge, .c6, .c7]
def Cmb.all : List Cmb := [.write, .and, .or]
def EmSel.all : List EmSel := [.em, .live, .held]
def BrCond.codes : List BrCond := [.always, .any, .all, .none]
def FKind.all : List FKind := [.full, .rel, .acq]
/-- Scope codes begin at 1 (Tables 10-7 and 11-2). -/
def Scope.all : List Scope := [.vault, .die, .device, .system]
def AFn.all : List AFn := [.add, .and, .or, .xor, .min, .max, .minn, .maxn, .swap, .cas, .fadd, .fmin, .fmax]
def BarOp.all : List BarOp := [.none, .or, .and, .maxn, .minn, .add]
def Form3.all : List Form3 := [.f0, .f1, .f2]
def CsrMode.all : List CsrMode := [.write, .set, .clr]
/-- CSR numbers (Table 04-5). -/
def Csr.numbers : List (Nat × Csr) :=
  [(0x000, .rowid), (0x001, .width), (0x002, .placement), (0x003, .groups), (0x004, .taskpool), (0x010, .fflags),
    (0x011, .mflags), (0x012, .rng), (0x020, .plive), (0x021, .tokdepth), (0x030, .cause), (0x031, .epc), (0x032, .tval),
    (0x033, .tvec), (0x034, .hamper), (0x040, .pwd), (0x041, .pegmiss), (0x042, .pegstale), (0x050, .cyc),
    (0x051, .pclass), (0x052, .pweight)]

/-- The code of a name: its position in the list. -/
def codeIn {α : Type} [DecidableEq α] (l : List α) (x : α) : Nat := l.idxOf x

/-- The name a field's code stands for. -/
def named {α : Type} {n : Nat} (l : List α) (x : BitVec n) : Option α := l[x.toNat]?

/-- The CSR with a number. -/
def Csr.ofNumber (n : BitVec 12) : Option Csr := (Csr.numbers.find? (fun e => e.1 == n.toNat)).map (·.2)
/-- The number of a CSR. -/
def Csr.number (c : Csr) : Nat := ((Csr.numbers.find? (fun e => e.2 == c)).map (·.1)).getD 0

/-- A 6-bit field that names a scalar register: 32 to 63 are refused (R54). -/
def sregOf (x : BitVec 6) : Option SReg := if x.toNat < 32 then some (x.setWidth 5) else none
/-- A 6-bit field that names a predicate: 8 to 63 are refused (R77, R78, R157). -/
def predOf (x : BitVec 6) : Option PReg := if x.toNat < 8 then some (x.setWidth 3) else none

/-- The source modifier (Table 02-5): kind 00 with a nonzero seg or dist is refused (R60). -/
def amodOf (x : BitVec 12) : Option Amod :=
  let seg := fieldAt 6 4 x
  let dist := fieldAt 0 6 x
  match (fieldAt 10 2 x).toNat with
  | 0 => if x == 0 then some .none else none
  | 1 => some (.rot seg dist)
  | 2 => some (.bfly seg dist)
  | _ => some (.bcast seg dist)

/-- The order and scope of an atomic (Table 11-2). -/
def aordOf (ord : BitVec 2) (sc : BitVec 3) : Option AOrd :=
  match ord.toNat with
  | 0 => if sc == 0 then some .relaxed else none
  | 1 => (named Scope.all (sc - 1)).bind (fun s => if sc == 0 then none else some (.acq s))
  | 2 => (named Scope.all (sc - 1)).bind (fun s => if sc == 0 then none else some (.rel s))
  | _ => (named Scope.all (sc - 1)).bind (fun s => if sc == 0 then none else some (.acqrel s))

/-- The address fields of format M. -/
def FmtM.mem (f : FmtM) : Mem := ⟨f.base, f.idx, f.sz, f.sc, f.off⟩

/-- Refuse unless the condition holds. -/
def need (b : Bool) : Option Unit := if b then some () else none

/-! ### Decoding by format -/

/-- SALU, SADDA, SMOVV (R106, R110, R111). -/
def decScalarR (g : Guard) (op : Nat) (f : FmtR) : Option Instr := do
  let d ← sregOf f.d
  let b ← sregOf f.b
  match op with
  | 0x01 =>
    need (f.m == 0)
    let a ← sregOf f.a
    let o ← named SaluOp.all f.fn
    some (.salu g o d a b)
  | 0x0C =>
    need (f.m == 0 && fieldAt 5 4 f.fn == 0)
    let a ← sregOf f.a
    some (.sadda g d a b (f.fn.getLsbD 4) (f.fn.getLsbD 3) (fieldAt 0 3 f.fn))
  | _ =>
    need (fieldAt 2 7 f.fn == 0)
    let m ← amodOf f.m
    some (.smovv g d f.a m b (f.fn.getLsbD 1) (f.fn.getLsbD 0))

/-- Scalar immediates and CSR access (R108, R112). -/
def decScalarI (g : Guard) (op : Nat) (f : FmtI) : Option Instr := do
  let d ← sregOf f.d
  let a ← sregOf f.a
  let imm := f.imm
  match op with
  | 0x02 => some (.saddi g d a imm)
  | 0x03 => some (.sandi g d a imm)
  | 0x04 => some (.sori g d a imm)
  | 0x05 => some (.sxori g d a imm)
  | 0x06 => need (fieldAt 6 21 imm == 0); some (.sshli g d a (fieldAt 0 6 imm))
  | 0x07 => need (fieldAt 6 21 imm == 0); some (.sshri g d a (fieldAt 0 6 imm))
  | 0x08 => need (fieldAt 6 21 imm == 0); some (.ssrai g d a (fieldAt 0 6 imm))
  | 0x09 => need (a == 0); some (.sli g d imm)
  | 0x0A => some (.slui g d a imm)
  | 0x0B => need (fieldAt 10 17 imm == 0); some (.slhi g d a (fieldAt 0 10 imm))
  | 0x0F =>
    need (a == 0 && fieldAt 12 15 imm == 0)
    let c ← Csr.ofNumber (fieldAt 0 12 imm)
    some (.scsr g d c)
  | 0x10 =>
    need (d == 0 && fieldAt 14 13 imm == 0)
    let k ← named CsrMode.all (fieldAt 12 2 imm)
    let c ← Csr.ofNumber (fieldAt 0 12 imm)
    some (.scsw g a k c)
  | _ =>
    need (fieldAt 14 13 imm == 0)
    let k ← named CsrMode.all (fieldAt 12 2 imm)
    let c ← Csr.ofNumber (fieldAt 0 12 imm)
    some (.scsx g d a k c)

/-- Integer vector format R: VIALU, VIALUS, VMAD, VSEL, VBCAST, VMOV, VRED, VSCAN, VPERM (R120 to R133). -/
def decVectorR (g : Guard) (op : Nat) (f : FmtR) : Option Instr := do
  let fn := f.fn
  match op with
  | 0x20 =>
    need (!fn.getLsbD 8)
    let m ← amodOf f.m
    let w ← named VW.all (fieldAt 6 2 fn)
    let o ← named VOp.all (fieldAt 0 6 fn)
    some (.vialu g o w f.d f.a m f.b)
  | 0x21 =>
    need (!fn.getLsbD 8)
    let m ← amodOf f.m
    let w ← named VW.all (fieldAt 6 2 fn)
    let o ← named VOp.all (fieldAt 0 6 fn)
    let b ← sregOf f.b
    some (.vialus g o w f.d f.a m b)
  | 0x2A =>
    need (!fn.getLsbD 8 && fieldAt 2 4 fn == 0)
    let m ← amodOf f.m
    let w ← named VW.all (fieldAt 6 2 fn)
    let o ← named MadOp.all (fieldAt 0 2 fn)
    some (.vmad g o w f.d f.a m f.b)
  | 0x2B =>
    need (fieldAt 3 6 fn == 0)
    let m ← amodOf f.m
    some (.vsel g (fieldAt 0 3 fn) f.d f.a m f.b)
  | 0x2D =>
    need (f.m == 0 && f.b == 0 && fieldAt 1 8 fn == 0)
    let a ← sregOf f.a
    some (.vbcast g f.d a (fn.getLsbD 0))
  | 0x2E =>
    need (f.b == 0 && fn == 0)
    let m ← amodOf f.m
    some (.vmov g f.d f.a m)
  | 0x2F =>
    need (fieldAt 3 6 fn == 0)
    let m ← amodOf f.m
    let o ← named RedOp.all (fieldAt 0 3 fn)
    some (.vred g o f.d f.a m f.b)
  | 0x30 =>
    need (fieldAt 4 5 fn == 0)
    let m ← amodOf f.m
    let o ← named RedOp.all (fieldAt 0 3 fn)
    some (.vscan g o (fn.getLsbD 3) f.d f.a m f.b)
  | _ =>
    need (f.m == 0 && fieldAt 5 4 fn == 0)
    some (.vperm g f.d f.a f.b (fn.getLsbD 4) (fieldAt 0 4 fn))

/-- Vector immediates, VIDX and VFLI (R121, R123, R145). -/
def decVectorI (g : Guard) (op : Nat) (f : FmtI) : Option Instr := do
  let imm := f.imm
  match op with
  | 0x22 => some (.vaddi g f.d f.a imm)
  | 0x23 => some (.vandi g f.d f.a imm)
  | 0x24 => some (.vori g f.d f.a imm)
  | 0x25 => some (.vxori g f.d f.a imm)
  | 0x26 => need (fieldAt 5 22 imm == 0); some (.vshli g f.d f.a (fieldAt 0 5 imm))
  | 0x27 => need (fieldAt 5 22 imm == 0); some (.vshri g f.d f.a (fieldAt 0 5 imm))
  | 0x28 => need (fieldAt 5 22 imm == 0); some (.vsrai g f.d f.a (fieldAt 0 5 imm))
  | 0x29 => need (f.a == 0); some (.vli g f.d imm)
  | 0x2C =>
    let a ← sregOf f.a
    some (.vidx g f.d a imm)
  | _ =>
    need (f.a == 0 && fieldAt 18 9 imm == 0)
    some (.vfli g (fieldAt 16 2 imm) (fieldAt 0 16 imm) f.d)

/-- Float arithmetic (R126 to R134). -/
def decFloatR (g : Guard) (op : Nat) (f : FmtR) : Option Instr := do
  let fn := f.fn
  let m ← amodOf f.m
  let t ← named FTy.all (fieldAt 4 2 fn)
  match op with
  | 0x40 =>
    need (!fn.getLsbD 8)
    let r ← named Rnd.all (fieldAt 6 2 fn)
    let o ← named FaluOp.all (fieldAt 0 4 fn)
    some (.vfalu g o t r f.d f.a m f.b)
  | 0x41 =>
    need (!fn.getLsbD 8 && fieldAt 2 2 fn == 0)
    let r ← named Rnd.all (fieldAt 6 2 fn)
    let o ← named FmaOp.all (fieldAt 0 2 fn)
    some (.vfma g o t r f.d f.a m f.b)
  | 0x42 =>
    need (!fn.getLsbD 8 && fieldAt 2 2 fn == 0)
    let r ← named Rnd.all (fieldAt 6 2 fn)
    let o ← named FmaOp.all (fieldAt 0 2 fn)
    let b ← sregOf f.b
    some (.vfmas g o t r f.d f.a m b)
  | 0x43 =>
    need (!fn.getLsbD 8 && !fn.getLsbD 3 && f.b == 0)
    let r ← named Rnd.all (fieldAt 6 2 fn)
    let o ← named FunOp.all (fieldAt 0 3 fn)
    some (.vfun g o t r f.d f.a m)
  | 0x44 =>
    need (!fn.getLsbD 8 && fieldAt 0 4 fn == 0)
    let r ← named Rnd.all (fieldAt 6 2 fn)
    some (.vfdiv g t r f.d f.a m f.b)
  | 0x45 =>
    need (fieldAt 6 3 fn == 0 && !fn.getLsbD 1)
    let h ← named Half.all (fieldAt 2 2 fn)
    let b ← sregOf f.b
    if fn.getLsbD 0 then
      need (f.d == 0)
      some (.vfclassTrap g t h f.a m b)
    else
      let d ← predOf f.d
      some (.vfclass g t h d f.a m b)
  | _ =>
    need (!fn.getLsbD 8 && fieldAt 2 2 fn == 0)
    let r ← named Rnd.all (fieldAt 6 2 fn)
    let o ← named FredOp.all (fieldAt 0 2 fn)
    some (.vfred g o t r f.d f.a m f.b)

/-- Conversion (Table 06-2). -/
def decConvR (g : Guard) (op : Nat) (f : FmtR) : Option Instr := do
  let fn := f.fn
  match op with
  | 0x47 =>
    need (fieldAt 4 2 f.b == 0)
    let m ← amodOf f.m
    let st ← named CTy.all (fieldAt 6 3 fn)
    let dt ← named CTy.all (fieldAt 3 3 fn)
    let r ← named Rnd.all (fieldAt 1 2 fn)
    some (.vcvt g st dt r (fn.getLsbD 0) (fieldAt 2 2 f.b) (fieldAt 0 2 f.b) f.d f.a m)
  | 0x48 =>
    need (fieldAt 5 4 fn == 0)
    let m ← amodOf f.m
    some (.vsrnd g (fn.getLsbD 4) (fieldAt 0 4 fn) f.d f.a m f.b)
  | 0x49 =>
    need (!fn.getLsbD 8)
    let m ← amodOf f.m
    let r ← named Rnd.all (fieldAt 4 2 fn)
    let b ← sregOf f.b
    some (.vqnt g (fieldAt 6 2 fn) r (fn.getLsbD 3) (fieldAt 0 3 fn) f.d f.a m b)
  | 0x4A =>
    need (f.m == 0 && !fn.getLsbD 8 && fieldAt 4 2 fn == 0 && fieldAt 0 3 fn == 0)
    let b ← sregOf f.b
    some (.vdqnt g (fieldAt 6 2 fn) (fn.getLsbD 3) f.d f.a b)
  | 0x4B =>
    need (f.m == 0)
    some (.vreq g (fn.getLsbD 4) (fieldAt 5 4 fn) (fn.getLsbD 3) (fieldAt 0 3 fn) f.d f.a f.b)
  | 0x4C =>
    need (f.b == 0 && fieldAt 4 5 fn == 0)
    let m ← amodOf f.m
    let d ← sregOf f.d
    some (.vbmax g (fn.getLsbD 3) (fieldAt 0 3 fn) d f.a m)
  | 0x4D =>
    need (f.m == 0 && f.b == 0 && fieldAt 4 5 fn == 0)
    some (.vpln g (fn.getLsbD 3) (fieldAt 0 3 fn) f.d f.a)
  | _ =>
    need (f.m == 0 && f.b == 0 && fieldAt 4 5 fn == 0)
    some (.vupln g (fn.getLsbD 3) (fieldAt 0 3 fn) f.d f.a)

/-- Compares (R74). -/
def decC (g : Guard) (op : Nat) (f : FmtC) : Option Instr := do
  let c ← named Cond.all f.cond
  let k ← named Cmb.all f.cmb
  match op with
  | 0x60 =>
    let m ← amodOf f.m
    some (.vicmp g f.pt f.pf f.a m f.b (f.ty.getLsbD 2) c (fieldAt 0 2 f.ty) k)
  | 0x61 =>
    let m ← amodOf f.m
    let t ← named FTy.all (fieldAt 0 2 f.ty)
    some (.vfcmp g f.pt f.pf f.a m f.b (f.ty.getLsbD 2) c t k)
  | _ =>
    need (f.m == 0 && !f.ty.getLsbD 2)
    let a ← sregOf f.a
    let b ← sregOf f.b
    some (.sicmp g f.pt f.pf a b c (fieldAt 0 2 f.ty) k)

/-- PLOP, PMOV, EMSET, EMGET, JMPR (R77, R78, R82, R83, R94). -/
def decPredR (g : Guard) (op : Nat) (f : FmtR) : Option Instr := do
  let fn := f.fn
  match op with
  | 0x64 =>
    need (f.m == 0 && fieldAt 4 4 fn == 0)
    let d ← predOf f.d
    let a ← predOf f.a
    let b ← predOf f.b
    some (.plop g (fn.getLsbD 8) (fieldAt 0 4 fn) d a b)
  | 0x65 =>
    match fn.toNat with
    | 0x000 =>
      need (f.b == 0)
      let m ← amodOf f.m
      let d ← predOf f.d
      some (.pmov g (.pv d f.a m))
    | 0x001 =>
      need (f.b == 0)
      let m ← amodOf f.m
      let a ← predOf f.a
      some (.pmov g (.vp f.d a m))
    | 0x002 =>
      need (f.b == 0)
      let m ← amodOf f.m
      let d ← predOf f.d
      let a ← predOf f.a
      some (.pmov g (.pp d a m))
    | 0x100 =>
      need (f.m == 0 && f.b == 0)
      let d ← predOf f.d
      let a ← sregOf f.a
      some (.pmov g (.qs d a))
    | 0x101 =>
      need (f.m == 0 && f.b == 0)
      let d ← sregOf f.d
      let a ← predOf f.a
      some (.pmov g (.sq d a))
    | 0x102 =>
      need (f.m == 0 && f.b == 0)
      let d ← predOf f.d
      let a ← predOf f.a
      some (.pmov g (.qq d a))
    | 0x103 =>
      need (f.m == 0)
      let d ← sregOf f.d
      let a ← predOf f.a
      some (.pmov g (.get d a f.b))
    | 0x104 =>
      need (f.m == 0)
      let d ← predOf f.d
      let a ← sregOf f.a
      some (.pmov g (.set d a f.b))
    | 0x105 =>
      need (f.m == 0 && f.b == 0)
      let d ← predOf f.d
      let a ← predOf f.a
      some (.pmov g (.any d a))
    | 0x106 =>
      need (f.m == 0 && f.b == 0)
      let d ← predOf f.d
      let a ← predOf f.a
      some (.pmov g (.all d a))
    | _ => none
  | 0x66 =>
    need (f.d == 0 && f.m == 0 && f.b == 0)
    match fn.toNat with
    | 0 =>
      let a ← predOf f.a
      some (.emset g a)
    | 1 => need (f.a == 0); some (.emsetAll g)
    | _ => none
  | 0x67 =>
    need (f.a == 0 && f.m == 0 && f.b == 0)
    let d ← predOf f.d
    let e ← named EmSel.all fn
    some (.emget g d e)
  | _ =>
    need (f.d == 0 && f.m == 0 && f.b == 0)
    let a ← sregOf f.a
    match fn.toNat with
    | 0 => some (.jmpr g a)
    | 1 => some (.jmprCall g a)
    | _ => none

/-- Format B (Table 03-11). -/
def decB (g : Guard) (op : Nat) (f : FmtB) : Option Instr := do
  match op with
  | 0x68 =>
    let c ← named BrCond.codes f.k
    some (.br g c f.pr f.off)
  | 0x69 => need (f.k.toNat < 2); some (.brv g f.pr (f.k.getLsbD 0) f.off)
  | 0x6A => need (f.pr == 0 && f.k == 0); some (.join g f.off)
  | 0x6B => need (f.k.toNat < 2 && f.off == 0); some (.brk g f.pr (f.k.getLsbD 0))
  | 0x6C => need (f.k.toNat < 2 && f.off == 0); some (.cont g f.pr (f.k.getLsbD 0))
  | 0x6D => need (f.pr == 0 && f.k == 0); some (.loops g f.off)
  | _ => need (f.pr == 0 && f.k == 0); some (.call g f.off)

/-- Format S (R79, R93, R95, R96, R161, R187, R242, R314, Table 15-2, R387). -/
def decS (g : Guard) (op : Nat) (f : FmtS) : Option Instr := do
  let z := f.fn == 0 && f.imm == 0
  match op with
  | 0x6F => need z; some (.ret g)
  | 0x71 => need z; some (.lexit g)
  | 0x72 => need z; some (.exit g)
  | 0x73 => need (f.fn == 0 && fieldAt 8 19 f.imm == 0); some (.plive g (fieldAt 0 8 f.imm))
  | 0x83 => need z; some (.pseal g)
  | 0x89 => need z; some (.wswap g)
  | 0xA8 =>
    need (fieldAt 5 7 f.fn == 0 && f.imm == 0 && fieldAt 0 3 f.fn != 0)
    let k ← named FKind.all (fieldAt 3 2 f.fn)
    let sc ← named Scope.all (fieldAt 0 3 f.fn - 1)
    some (.fence g k sc)
  | 0xE4 =>
    need (fieldAt 1 11 f.fn == 0 && fieldAt 12 15 f.imm == 0)
    some (.flwait g (f.fn.getLsbD 0) (fieldAt 0 12 f.imm))
  | 0xE5 => need (f.fn == 0 && fieldAt 16 11 f.imm == 0); some (.trap g (fieldAt 0 16 f.imm))
  | 0xE6 => need z; some (.eret g)
  | 0xE7 => need (fieldAt 5 7 f.fn == 0 && f.imm == 0); some (.idem g (fieldAt 0 5 f.fn))
  | 0xE8 => need z; some (.idend g)
  | 0xE9 =>
    need (fieldAt 3 9 f.fn == 0 && fieldAt 24 3 f.imm == 0)
    some (.phint g (f.fn.getLsbD 2) (fieldAt 0 2 f.fn) (fieldAt 0 24 f.imm))
  | 0xEA => need z; some (.yield g)
  | 0xEB => need (fieldAt 6 6 f.fn == 0 && f.imm == 0); some (.rdcyc g (fieldAt 0 5 f.fn) (f.fn.getLsbD 5))
  | _ => need (f.fn == 0 && fieldAt 16 11 f.imm == 0); some (.halt g (fieldAt 0 16 f.imm))

/-- Ports and matrix in formats R and I (Tables 07-1 and 08-5, R194, R195). -/
def decPortR (g : Guard) (op : Nat) (f : FmtR) : Option Instr := do
  let fn := f.fn
  match op with
  | 0x80 =>
    need (f.d == 0 && f.b == 0 && fn == 0)
    let m ← amodOf f.m
    some (.pwr g f.a m)
  | 0x81 =>
    need (f.m == 0 && f.b == 0 && fn == 0)
    let pv ← predOf f.a
    some (.prd g f.d pv)
  | 0x82 =>
    need (f.m == 0 && fn == 0)
    let pv ← predOf f.a
    some (.prdn g f.d pv (fieldAt 0 3 f.b) (fieldAt 3 3 f.b))
  | 0x84 =>
    need (f.a == 0 && f.m == 0 && f.b == 0 && fieldAt 1 8 fn == 0)
    let d ← sregOf f.d
    some (.pstat g d (fn.getLsbD 0))
  | 0x8B =>
    need (f.m == 0 && f.b == 0)
    let a ← sregOf f.a
    some (.accrd g f.d a (fieldAt 7 2 fn) (fieldAt 0 7 fn))
  | 0x8C =>
    need (f.m == 0 && f.b == 0)
    let a ← sregOf f.a
    some (.accwr g f.d a (fieldAt 7 2 fn) (fieldAt 0 7 fn))
  | _ =>
    need (f.a == 0 && f.m == 0 && f.b == 0)
    let d ← sregOf f.d
    let k ← named Form3.all fn
    some (.mstat g d k)

/-- PXFER and ACCZ (Table 07-1, R194). -/
def decPortI (g : Guard) (op : Nat) (f : FmtI) : Option Instr := do
  match op with
  | 0x85 =>
    need (fieldAt 3 3 f.d == 0 && f.a == 0 && fieldAt 5 22 f.imm == 0)
    some (.pxfer g (fieldAt 0 3 f.d) (fieldAt 0 5 f.imm))
  | _ =>
    need (f.d == 0 && f.a == 0 && fieldAt 14 13 f.imm == 0)
    some (.accz g (fieldAt 0 7 f.imm) (fieldAt 7 7 f.imm))

/-- Format X (R186, R188). -/
def decX (g : Guard) (op : Nat) (f : FmtX) : Option Instr := do
  need (f.rsv == 0)
  match op with
  | 0x88 =>
    need (f.d == 0 && f.dk == 0 && f.ak == 1 && f.nk == 0)
    some (.wld g f.a f.n f.fmt f.sa f.ss f.fs)
  | _ =>
    need (f.ak.toNat < 2)
    some (.mmac g ⟨f.d, f.dk, f.ak == 1, f.a, f.n, f.fmt, f.sa, f.ss, f.nk, f.fs⟩)

/-- Format M (Tables 10-5 and 11-1, R232, R263). -/
def decM (g : Guard) (op : Nat) (f : FmtM) : Option Instr := do
  need (!f.rsv)
  let m := f.mem
  match op with
  | 0x12 =>
    need (!f.own)
    let d ← sregOf f.d
    some (.sld g d m f.vol f.fs)
  | 0x13 =>
    need (!f.own && !f.fs)
    let d ← sregOf f.d
    some (.sst g d m f.vol)
  | 0xA0 => need (!f.own && !f.vol); some (.ldv g f.d m f.fs)
  | 0xA1 => need (!f.own && !f.vol && !f.fs); some (.stv g f.d m)
  | 0xA2 => need (!f.own && !f.vol); some (.ldx g f.d m f.fs)
  | 0xA3 => need (!f.own && !f.vol && !f.fs); some (.stx g f.d m)
  | 0xA4 => need (!f.own && !f.vol); some (.ldt g f.d m f.fs)
  | 0xA5 =>
    need (!f.own && !f.vol && f.idx == 0 && f.sz == 0 && f.sc == 0)
    let d ← predOf f.d
    some (.ldm g d f.base f.off f.fs)
  | 0xA6 => need (!f.own && f.vol); some (.ldvol g f.d m f.fs)
  | 0xA7 => need (!f.own && f.vol && !f.fs); some (.stvol g f.d m)
  | 0xA9 => need (!f.own && !f.vol); some (.ldacq g f.d m f.fs)
  | 0xAA => need (!f.own && !f.vol && !f.fs); some (.strel g f.d m)
  | 0xAD =>
    need (!f.vol && !f.fs && f.idx == 0 && f.sz == 0 && f.sc == 0)
    let d ← sregOf f.d
    some (.own g d f.base f.off f.own)
  | 0xAE =>
    need (!f.vol && !f.fs && f.idx == 0 && f.sz == 0 && f.sc == 0)
    let d ← sregOf f.d
    some (.disown g d f.base f.off f.own)
  | 0xAB =>
    need (!f.own && !f.vol && f.sz == 2 && !f.off.getLsbD 6 && !f.off.getLsbD 0)
    let fn ← named AFn.all (fieldAt 8 4 f.off)
    let o ← aordOf (fieldAt 4 2 f.off) (fieldAt 1 3 f.off)
    some (.amo g f.d f.base f.idx f.sc fn (f.off.getLsbD 7) o f.fs)
  | 0xAC =>
    need (!f.own && !f.vol && !f.fs && f.sz == 2 && !f.off.getLsbD 7 && !f.off.getLsbD 6 && !f.off.getLsbD 0)
    let fn ← named AFn.all (fieldAt 8 4 f.off)
    let o ← aordOf (fieldAt 4 2 f.off) (fieldAt 1 3 f.off)
    some (.red g f.d f.base f.idx f.sc fn o)
  | _ =>
    need (!f.own && !f.vol && (f.sz == 2 || f.sz == 3) && f.idx == 0 && f.sc == 0 && !f.off.getLsbD 6 &&
      !f.off.getLsbD 0)
    let d ← sregOf f.d
    let fn ← named AFn.all (fieldAt 8 4 f.off)
    let o ← aordOf (fieldAt 4 2 f.off) (fieldAt 1 3 f.off)
    some (.amos g d f.base (f.sz == 3) fn (f.off.getLsbD 7) o f.fs)

/-- MDRAIN, MFILL and the ring instructions, format E (Tables 08-7 and 09-4). -/
def decRingE (g : Guard) (op : Nat) (f : FmtE) : Option Instr := do
  let imm := f.imm
  match op with
  | 0x8E => need (f.b == 0 && f.c == 0 && imm == 0 && !f.fs); some (.mdrain g f.a)
  | 0x8F => need (f.b == 0 && f.c == 0 && imm == 0 && !f.fs); some (.mfill g f.a)
  | 0xC0 =>
    need (fieldAt 9 14 imm == 0 && !f.fs)
    some (.peg g f.a f.b f.c (fieldAt 5 4 imm) (imm.getLsbD 4) (fieldAt 0 4 imm))
  | 0xC1 =>
    need (f.a == 0 && f.b == 0 && f.c == 0 && fieldAt 16 7 imm == 0 && !f.fs)
    some (.unpeg g (fieldAt 0 16 imm))
  | 0xC2 =>
    need (f.b == 0 && f.c == 0 && fieldAt 4 19 imm == 0)
    some (.pegw g f.a (fieldAt 0 4 imm) f.fs)
  | 0xC3 =>
    need (f.b == 0 && f.c == 0 && fieldAt 5 18 imm == 0 && !f.fs)
    some (.pegq g f.a (imm.getLsbD 4) (fieldAt 0 4 imm))
  | _ =>
    need (f.b == 0 && f.c == 0 && fieldAt 2 21 imm == 0 && !f.fs)
    let k ← named Form3.all (fieldAt 0 2 imm)
    some (.rpos g f.a k)

/-- Engine, buffer and descriptor instructions, format E (Tables 12-7 and 12-8, DESC). -/
def decEngineE (g : Guard) (op : Nat) (f : FmtE) : Option Instr := do
  let imm := f.imm
  let die := fieldAt 3 2 imm
  let eng := fieldAt 0 3 imm
  let cdie := fieldAt 6 2 imm
  let buf := fieldAt 0 6 imm
  match op with
  | 0xC8 =>
    need (f.c == 0 && fieldAt 7 16 imm == 0 && !f.fs)
    match (fieldAt 5 2 imm).toNat with
    | 0 => need (f.b == 0); some (.ctail g f.a die eng)
    | 1 => need (f.a == 0 && f.b == 0); some (.ctailRetry g die eng)
    | 2 => need (f.a == 0 && f.b == 0); some (.ctailSkip g die eng)
    | _ => some (.ctailStart g f.a f.b die eng)
  | 0xC9 =>
    need (f.b == 0 && f.c == 0 && fieldAt 7 16 imm == 0 && !f.fs)
    let k ← named Form3.all (fieldAt 5 2 imm)
    some (.cseq g f.a k die eng)
  | 0xCA =>
    need (f.a == 0 && f.c == 0 && fieldAt 5 18 imm == 0)
    some (.cwait g f.b die eng f.fs)
  | 0xCB =>
    need (f.c == 0 && fieldAt 8 15 imm == 0 && !f.fs)
    some (.cbacq g f.a f.b cdie buf)
  | 0xCC =>
    need (f.b == 0 && f.c == 0 && fieldAt 8 15 imm == 0 && !f.fs)
    some (.cbrel g f.a cdie buf)
  | 0xCD =>
    need (f.c == 0 && fieldAt 10 13 imm == 0 && !f.fs)
    if imm.getLsbD 8 then
      need (f.b == 0 && !imm.getLsbD 9)
      some (.cbpubGet g f.a cdie buf)
    else
      some (.cbpub g f.a f.b (imm.getLsbD 9) cdie buf)
  | _ => need (f.c == 0 && imm == 0 && !f.fs); some (.desc g f.a f.b)

/-- Task and barrier instructions, format E (Tables 14-3 and 13-2, R312). -/
def decTaskE (g : Guard) (op : Nat) (f : FmtE) : Option Instr := do
  let imm := f.imm
  need (!f.fs)
  match op with
  | 0xD0 =>
    need (fieldAt 19 4 imm == 0)
    some (.spawn g f.a f.b f.c (imm.getLsbD 18) (fieldAt 16 2 imm) (fieldAt 10 6 imm) (fieldAt 6 4 imm) (fieldAt 0 6 imm))
  | 0xD1 => need (f.b == 0 && f.c == 0 && imm == 0); some (.tjoin g f.a)
  | 0xD2 =>
    need (f.a == 0 && f.b == 0 && f.c == 0 && fieldAt 10 13 imm == 0)
    some (.targ g (fieldAt 4 6 imm) (fieldAt 0 4 imm))
  | 0xD3 => need (f.a == 0 && f.b == 0 && f.c == 0 && imm == 0); some (.tend g)
  | 0xE0 =>
    need (f.c == 0 && fieldAt 11 12 imm == 0)
    let o ← named BarOp.all (fieldAt 8 3 imm)
    some (.bar g f.a f.b o (fieldAt 0 8 imm))
  | 0xE1 =>
    need (f.a == 0 && f.c == 0 && fieldAt 11 12 imm == 0)
    let o ← named BarOp.all (fieldAt 8 3 imm)
    some (.bara g f.b o (fieldAt 0 8 imm))
  | 0xE2 =>
    need (f.b == 0 && f.c == 0 && fieldAt 8 15 imm == 0)
    some (.barw g f.a (fieldAt 0 8 imm))
  | _ => need (f.a == 0 && f.b == 0 && f.c == 0 && imm == 0); some (.trig g)

/-- The format and class of a major opcode (Table 02-6). -/
inductive Fmt where
  | nop | scalarR | scalarI | vectorR | vectorI | floatR | convR | cmp | predR | ctl | sys | portR | portI | mat | mem
  | ringE | engineE | taskE
  deriving DecidableEq, Repr

/-- Table 02-6: the format that each major opcode's fields follow; none where the table assigns nothing (R61). -/
def opFormat (op : Nat) : Option Fmt :=
  if op = 0x00 then some .nop
  else if op = 0x01 || op = 0x0C || op = 0x0D then some .scalarR
  else if op ≤ 0x0B || (0x0F ≤ op && op ≤ 0x11) then some .scalarI
  else if op = 0x0E then none
  else if op = 0x12 || op = 0x13 then some .mem
  else if op ≤ 0x1F then none
  else if (0x22 ≤ op && op ≤ 0x29) || op = 0x2C || op = 0x4F then some .vectorI
  else if op ≤ 0x31 then some .vectorR
  else if op ≤ 0x3F then none
  else if op ≤ 0x46 then some .floatR
  else if op ≤ 0x4E then some .convR
  else if op ≤ 0x5F then none
  else if op ≤ 0x62 then some .cmp
  else if op = 0x63 then none
  else if op ≤ 0x67 || op = 0x70 then some .predR
  else if op ≤ 0x6E then some .ctl
  else if op ≤ 0x73 || op = 0x83 || op = 0x89 || op = 0xA8 || (0xE4 ≤ op && op ≤ 0xEC) then some .sys
  else if op ≤ 0x7F then none
  else if op = 0x85 || op = 0x8D then some .portI
  else if op = 0x86 || op = 0x87 then none
  else if op = 0x88 || op = 0x8A then some .mat
  else if op = 0x8E || op = 0x8F || (0xC0 ≤ op && op ≤ 0xC4) then some .ringE
  else if op ≤ 0x90 then some .portR
  else if op ≤ 0x9F then none
  else if op ≤ 0xAF then some .mem
  else if op ≤ 0xC7 then none
  else if op ≤ 0xCD || op = 0xD4 then some .engineE
  else if op ≤ 0xCF then none
  else if op ≤ 0xD3 || (0xE0 ≤ op && op ≤ 0xE3) then some .taskE
  else none

/-- The class bit b0 to b3 of an assigned major opcode; none for NOP, which every clause admits (R44). -/
def opClass (op : Nat) : Option Nat :=
  if op = 0x00 then none
  else if op = 0x12 || op = 0x13 then some 2
  else if op ≤ 0x73 then some 0
  else if op ≤ 0x87 then some 2
  else if op ≤ 0x90 then some 1
  else if op ≤ 0xC4 then some 2
  else some 3

/-- The instructions that stand only last in their clause (R45, R341, R344). -/
def mustBeLast (op : Nat) : Bool :=
  (0x68 ≤ op && op ≤ 0x6C) || op = 0x6E || op = 0x6F || op = 0x70 || op = 0x72 || op = 0xD3 || op = 0xE6 || op = 0xE7
    || op = 0xEA

/-- Opcodes that only a clause header may hold (R44). -/
def isMarker (op : Nat) : Bool := 0xDC ≤ op && op ≤ 0xDF

/-- The fields of a word by its opcode's format. -/
def decFields (g : Guard) (op : Nat) (x : Body) : Fmt → Option Instr
  | .nop => if x == 0 then some (.nop g) else none
  | .scalarR => decScalarR g op (FmtR.unpack x)
  | .scalarI => decScalarI g op (FmtI.unpack x)
  | .vectorR => decVectorR g op (FmtR.unpack x)
  | .vectorI => decVectorI g op (FmtI.unpack x)
  | .floatR => decFloatR g op (FmtR.unpack x)
  | .convR => decConvR g op (FmtR.unpack x)
  | .cmp => decC g op (FmtC.unpack x)
  | .predR => decPredR g op (FmtR.unpack x)
  | .ctl => decB g op (FmtB.unpack x)
  | .sys => decS g op (FmtS.unpack x)
  | .portR => decPortR g op (FmtR.unpack x)
  | .portI => decPortI g op (FmtI.unpack x)
  | .mat => decX g op (FmtX.unpack x)
  | .mem => decM g op (FmtM.unpack x)
  | .ringE => decRingE g op (FmtE.unpack x)
  | .engineE => decEngineE g op (FmtE.unpack x)
  | .taskE => decTaskE g op (FmtE.unpack x)

/-- The guard bits of a word (Table 02-3). -/
def wordGuard (w : W64) : Guard := ⟨fieldAt 48 8 w, fieldAt 45 3 w, fieldAt 42 3 w, fieldAt 39 3 w⟩

/-- The major opcode of a word. -/
def wordOp (w : W64) : Nat := (fieldAt 56 8 w).toNat

/-- The instruction a word holds, or why it holds none (R52 to R61). -/
def decode (w : W64) : Except Reject Instr :=
  let op := wordOp w
  if isMarker op then .error .marker
  else match opFormat op with
    | none => .error .opcode
    | some k =>
      match decFields (wordGuard w) op (fieldAt 0 39 w) k with
      | some i => if i.wf then .ok i else .error .field
      | none => .error .field

/-- The little-endian value of a list of bytes (R1). -/
def leNat : List W8 → Nat
  | [] => 0
  | b :: bs => b.toNat + 256 * leNat bs

/-- The n low bytes of a number, lowest first (R1). -/
def leBytes : Nat → Nat → List W8
  | 0, _ => []
  | n + 1, x => BitVec.ofNat 8 x :: leBytes n (x / 256)

/-- The instruction that the first eight bytes of a stream hold, and the bytes after it. -/
def decodeBytes (bs : List W8) : Except Reject (Instr × List W8) :=
  if bs.length < 8 then .error .short
  else match decode (BitVec.ofNat 64 (leNat (bs.take 8))) with
    | .ok i => .ok (i, bs.drop 8)
    | .error r => .error r

/-- The host's question: the instruction that a word of the opcode table's numbering decodes to. An instruction is one
64-bit word, and bits above nbits are zero. -/
def decodeTableWord (nbits w : Nat) : Option Instr :=
  match decodeBytes (leBytes 8 (w % 2 ^ nbits)) with
  | .ok (i, _) => some i
  | .error _ => none

/-! ### The encoder, from the same tables -/

def FmtR.pack (f : FmtR) : Body := f.d ++ f.a ++ f.m ++ f.b ++ f.fn
def FmtI.pack (f : FmtI) : Body := f.d ++ f.a ++ f.imm
def FmtC.pack (f : FmtC) : Body := f.pt ++ f.pf ++ f.a ++ f.m ++ f.b ++ f.cond ++ f.ty ++ f.cmb
def FmtB.pack (f : FmtB) : Body := f.pr ++ f.k ++ f.off
def FmtM.pack (f : FmtM) : Body :=
  f.d ++ f.base ++ f.idx ++ f.sz ++ f.sc ++ f.off ++ BitVec.ofBool f.vol ++ BitVec.ofBool f.own ++ BitVec.ofBool f.rsv
    ++ BitVec.ofBool f.fs
def FmtX.pack (f : FmtX) : Body :=
  f.d ++ f.dk ++ f.ak ++ f.a ++ f.n ++ f.fmt ++ BitVec.ofBool f.sa ++ f.ss ++ f.nk ++ f.rsv ++ BitVec.ofBool f.fs
def FmtE.pack (f : FmtE) : Body := f.a ++ f.b ++ f.c ++ f.imm ++ BitVec.ofBool f.fs
def FmtS.pack (f : FmtS) : Body := f.fn ++ f.imm

/-- A word from its opcode, guard and format bits (Table 02-3). -/
def mkWord (op : BitVec 8) (g : Guard) (x : Body) : W64 := op ++ g.tt ++ g.ga ++ g.gb ++ g.gc ++ x

/-- The amod field of a modifier (Table 02-5). -/
def Amod.bits : Amod → BitVec 12
  | .none => 0
  | .rot s d => 1#2 ++ s ++ d
  | .bfly s d => 2#2 ++ s ++ d
  | .bcast s d => 3#2 ++ s ++ d

/-- The ord and scope fields of an atomic (Table 11-2). -/
def AOrd.bits : AOrd → BitVec 5
  | .relaxed => 0
  | .acq s => 1#2 ++ BitVec.ofNat 3 (codeIn Scope.all s + 1)
  | .rel s => 2#2 ++ BitVec.ofNat 3 (codeIn Scope.all s + 1)
  | .acqrel s => 3#2 ++ BitVec.ofNat 3 (codeIn Scope.all s + 1)

/-- The function fields of an atomic (Table 11-2). -/
def atomicOff (fn : AFn) (ret : Bool) (o : AOrd) : BitVec 12 :=
  BitVec.ofNat 4 (codeIn AFn.all fn) ++ BitVec.ofBool ret ++ 0#1 ++ o.bits ++ 0#1

/-- A code in an n-bit field. -/
def enc {α : Type} [DecidableEq α] (n : Nat) (l : List α) (x : α) : BitVec n := BitVec.ofNat n (codeIn l x)

def bit (b : Bool) : BitVec 1 := BitVec.ofBool b
/-- A scalar or predicate number in a 6-bit field. -/
def six {n : Nat} (x : BitVec n) : BitVec 6 := x.setWidth 6

def wordR (op : BitVec 8) (g : Guard) (d a : BitVec 6) (m : BitVec 12) (b : BitVec 6) (fn : BitVec 9) : Option W64 :=
  some (mkWord op g (FmtR.pack ⟨d, a, m, b, fn⟩))
def wordI (op : BitVec 8) (g : Guard) (d a : BitVec 6) (imm : BitVec 27) : Option W64 :=
  some (mkWord op g (FmtI.pack ⟨d, a, imm⟩))
def wordB (op : BitVec 8) (g : Guard) (pr k : BitVec 3) (off : BitVec 33) : Option W64 :=
  some (mkWord op g (FmtB.pack ⟨pr, k, off⟩))
def wordM (op : BitVec 8) (g : Guard) (d : BitVec 6) (m : Mem) (vol own fs : Bool) : Option W64 :=
  some (mkWord op g (FmtM.pack ⟨d, m.base, m.idx, m.sz, m.sc, m.off, vol, own, false, fs⟩))
def wordE (op : BitVec 8) (g : Guard) (a b c : SReg) (imm : BitVec 23) (fs : Bool) : Option W64 :=
  some (mkWord op g (FmtE.pack ⟨a, b, c, imm, fs⟩))
def wordS (op : BitVec 8) (g : Guard) (fn : BitVec 12) (imm : BitVec 27) : Option W64 :=
  some (mkWord op g (FmtS.pack ⟨fn, imm⟩))
def wordC (op : BitVec 8) (g : Guard) (pt pf : PReg) (a : BitVec 6) (m : BitVec 12) (b : BitVec 6) (c : Cond)
    (ty : BitVec 3) (k : Cmb) : Option W64 :=
  some (mkWord op g (FmtC.pack ⟨pt, pf, a, m, b, enc 4 Cond.all c, ty, enc 2 Cmb.all k⟩))

/-- The function field of the float instructions: rounding, type, operation. -/
def fnFloat (r : Rnd) (t : FTy) (o : BitVec 4) : BitVec 9 := 0#1 ++ enc 2 Rnd.all r ++ enc 2 FTy.all t ++ o

/-- The word of a PMOV form (Table 03-6). -/
def encPmov (g : Guard) : PmovForm → Option W64
  | .pv d a m => wordR 0x65 g (six d) a m.bits 0 0
  | .vp d a m => wordR 0x65 g d (six a) m.bits 0 1
  | .pp d a m => wordR 0x65 g (six d) (six a) m.bits 0 2
  | .qs d a => wordR 0x65 g (six d) (six a) 0 0 0x100
  | .sq d a => wordR 0x65 g (six d) (six a) 0 0 0x101
  | .qq d a => wordR 0x65 g (six d) (six a) 0 0 0x102
  | .get d a k => wordR 0x65 g (six d) (six a) 0 k 0x103
  | .set d a k => wordR 0x65 g (six d) (six a) 0 k 0x104
  | .any d a => wordR 0x65 g (six d) (six a) 0 0 0x105
  | .all d a => wordR 0x65 g (six d) (six a) 0 0 0x106

/-- The word of an instruction; none for an event, which has no encoding. -/
def encode : Instr → Option W64
  | .nop g => some (mkWord 0x00 g 0)
  | .salu g o d a b => wordR 0x01 g (six d) (six a) 0 (six b) (enc 9 SaluOp.all o)
  | .saddi g d a i => wordI 0x02 g (six d) (six a) i
  | .sandi g d a i => wordI 0x03 g (six d) (six a) i
  | .sori g d a i => wordI 0x04 g (six d) (six a) i
  | .sxori g d a i => wordI 0x05 g (six d) (six a) i
  | .sshli g d a n => wordI 0x06 g (six d) (six a) (n.setWidth 27)
  | .sshri g d a n => wordI 0x07 g (six d) (six a) (n.setWidth 27)
  | .ssrai g d a n => wordI 0x08 g (six d) (six a) (n.setWidth 27)
  | .sli g d i => wordI 0x09 g (six d) 0 i
  | .slui g d a i => wordI 0x0A g (six d) (six a) i
  | .slhi g d a i => wordI 0x0B g (six d) (six a) (i.setWidth 27)
  | .sadda g d a b x w sh => wordR 0x0C g (six d) (six a) 0 (six b) (0#4 ++ bit x ++ bit w ++ sh)
  | .smovv g d a m b f s => wordR 0x0D g (six d) a m.bits (six b) (0#7 ++ bit f ++ bit s)
  | .scsr g d c => wordI 0x0F g (six d) 0 (BitVec.ofNat 27 c.number)
  | .scsw g a k c => wordI 0x10 g 0 (six a) (0#13 ++ enc 2 CsrMode.all k ++ BitVec.ofNat 12 c.number)
  | .scsx g d a k c => wordI 0x11 g (six d) (six a) (0#13 ++ enc 2 CsrMode.all k ++ BitVec.ofNat 12 c.number)
  | .sld g d m vol fs => wordM 0x12 g (six d) m vol false fs
  | .sst g d m vol => wordM 0x13 g (six d) m vol false false
  | .vialu g o w d a m b => wordR 0x20 g d a m.bits b (0#1 ++ enc 2 VW.all w ++ enc 6 VOp.all o)
  | .vialus g o w d a m b => wordR 0x21 g d a m.bits (six b) (0#1 ++ enc 2 VW.all w ++ enc 6 VOp.all o)
  | .vaddi g d a i => wordI 0x22 g d a i
  | .vandi g d a i => wordI 0x23 g d a i
  | .vori g d a i => wordI 0x24 g d a i
  | .vxori g d a i => wordI 0x25 g d a i
  | .vshli g d a n => wordI 0x26 g d a (n.setWidth 27)
  | .vshri g d a n => wordI 0x27 g d a (n.setWidth 27)
  | .vsrai g d a n => wordI 0x28 g d a (n.setWidth 27)
  | .vli g d i => wordI 0x29 g d 0 i
  | .vmad g o w d a m b => wordR 0x2A g d a m.bits b (0#1 ++ enc 2 VW.all w ++ 0#4 ++ enc 2 MadOp.all o)
  | .vsel g c d a m b => wordR 0x2B g d a m.bits b (0#6 ++ c)
  | .vidx g d a i => wordI 0x2C g d (six a) i
  | .vbcast g d a h => wordR 0x2D g d (six a) 0 0 (0#8 ++ bit h)
  | .vmov g d a m => wordR 0x2E g d a m.bits 0 0
  | .vred g o d a m s => wordR 0x2F g d a m.bits s (0#6 ++ enc 3 RedOp.all o)
  | .vscan g o x d a m s => wordR 0x30 g d a m.bits s (0#5 ++ bit x ++ enc 3 RedOp.all o)
  | .vperm g d a b n s => wordR 0x31 g d a 0 b (0#4 ++ bit n ++ s)
  | .vfalu g o t r d a m b => wordR 0x40 g d a m.bits b (fnFloat r t (enc 4 FaluOp.all o))
  | .vfma g o t r d a m b => wordR 0x41 g d a m.bits b (fnFloat r t (enc 4 FmaOp.all o))
  | .vfmas g o t r d a m b => wordR 0x42 g d a m.bits (six b) (fnFloat r t (enc 4 FmaOp.all o))
  | .vfun g o t r d a m => wordR 0x43 g d a m.bits 0 (fnFloat r t (enc 4 FunOp.all o))
  | .vfdiv g t r d a m b => wordR 0x44 g d a m.bits b (fnFloat r t 0)
  | .vfclass g t h d a m b => wordR 0x45 g (six d) a m.bits (six b) (0#3 ++ enc 2 FTy.all t ++ enc 2 Half.all h ++ 0#2)
  | .vfclassTrap g t h a m b => wordR 0x45 g 0 a m.bits (six b) (0#3 ++ enc 2 FTy.all t ++ enc 2 Half.all h ++ 1#2)
  | .vfred g o t r d a m s => wordR 0x46 g d a m.bits s (fnFloat r t (enc 4 FredOp.all o))
  | .vcvt g st dt r sgn ed es d a m =>
    wordR 0x47 g d a m.bits (0#2 ++ ed ++ es) (enc 3 CTy.all st ++ enc 3 CTy.all dt ++ enc 2 Rnd.all r ++ bit sgn)
  | .vsrnd g bf k d a m b => wordR 0x48 g d a m.bits b (0#4 ++ bit bf ++ k)
  | .vqnt g j r sgn w d a m b => wordR 0x49 g d a m.bits (six b) (0#1 ++ j ++ enc 2 Rnd.all r ++ bit sgn ++ w)
  | .vdqnt g j sgn d a b => wordR 0x4A g d a 0 (six b) (0#1 ++ j ++ 0#2 ++ bit sgn ++ 0#3)
  | .vreq g sto k sgn w d a b => wordR 0x4B g d a 0 b (k ++ bit sto ++ bit sgn ++ w)
  | .vbmax g sgn w d a m => wordR 0x4C g (six d) a m.bits 0 (0#5 ++ bit sgn ++ w)
  | .vpln g sgn w d a => wordR 0x4D g d a 0 0 (0#5 ++ bit sgn ++ w)
  | .vupln g sgn w d a => wordR 0x4E g d a 0 0 (0#5 ++ bit sgn ++ w)
  | .vfli g f h d => wordI 0x4F g d 0 (0#9 ++ f ++ h)
  | .vicmp g pt pf a m b sb c ty k => wordC 0x60 g pt pf a m.bits b c (bit sb ++ ty) k
  | .vfcmp g pt pf a m b sb c ty k => wordC 0x61 g pt pf a m.bits b c (bit sb ++ enc 2 FTy.all ty) k
  | .sicmp g pt pf a b c ty k => wordC 0x62 g pt pf (six a) 0 (six b) c (0#1 ++ ty) k
  | .plop g q fn d a b => wordR 0x64 g (six d) (six a) 0 (six b) (bit q ++ 0#4 ++ fn)
  | .pmov g f => encPmov g f
  | .plive g x => wordS 0x73 g 0 (x.setWidth 27)
  | .emset g a => wordR 0x66 g 0 (six a) 0 0 0
  | .emsetAll g => wordR 0x66 g 0 0 0 0 1
  | .emget g d s => wordR 0x67 g (six d) 0 0 0 (enc 9 EmSel.all s)
  | .br g c pr off => wordB 0x68 g pr (enc 3 BrCond.codes c) off
  | .brv g pr n off => wordB 0x69 g pr (0#2 ++ bit n) off
  | .join g off => wordB 0x6A g 0 0 off
  | .brk g pr n => wordB 0x6B g pr (0#2 ++ bit n) 0
  | .cont g pr n => wordB 0x6C g pr (0#2 ++ bit n) 0
  | .loops g off => wordB 0x6D g 0 0 off
  | .call g off => wordB 0x6E g 0 0 off
  | .ret g => wordS 0x6F g 0 0
  | .jmpr g a => wordR 0x70 g 0 (six a) 0 0 0
  | .jmprCall g a => wordR 0x70 g 0 (six a) 0 0 1
  | .lexit g => wordS 0x71 g 0 0
  | .exit g => wordS 0x72 g 0 0
  | .pwr g a m => wordR 0x80 g 0 a m.bits 0 0
  | .prd g d pv => wordR 0x81 g d (six pv) 0 0 0
  | .prdn g d pv qt qs => wordR 0x82 g d (six pv) 0 (qs ++ qt) 0
  | .pseal g => wordS 0x83 g 0 0
  | .pstat g d s => wordR 0x84 g (six d) 0 0 0 (0#8 ++ bit s)
  | .pxfer g qs n => wordI 0x85 g (six qs) 0 (n.setWidth 27)
  | .wld g a n fmt sa ss fs => some (mkWord 0x88 g (FmtX.pack ⟨0, 0, 1, a, n, fmt, sa, ss, 0, 0, fs⟩))
  | .wswap g => wordS 0x89 g 0 0
  | .mmac g f =>
    some (mkWord 0x8A g (FmtX.pack ⟨f.d, f.dk, 0#1 ++ bit f.pair, f.a, f.n, f.fmt, f.sa, f.ss, f.nk, 0, f.fs⟩))
  | .accrd g d a h e => wordR 0x8B g d (six a) 0 0 (h ++ e)
  | .accwr g d a h e => wordR 0x8C g d (six a) 0 0 (h ++ e)
  | .accz g f c => wordI 0x8D g 0 0 (0#13 ++ c ++ f)
  | .mdrain g a => wordE 0x8E g a 0 0 0 false
  | .mfill g a => wordE 0x8F g a 0 0 0 false
  | .mstat g d f => wordR 0x90 g (six d) 0 0 0 (enc 9 Form3.all f)
  | .ldv g d m fs => wordM 0xA0 g d m false false fs
  | .stv g d m => wordM 0xA1 g d m false false false
  | .ldx g d m fs => wordM 0xA2 g d m false false fs
  | .stx g d m => wordM 0xA3 g d m false false false
  | .ldt g d m fs => wordM 0xA4 g d m false false fs
  | .ldm g d b off fs => wordM 0xA5 g (six d) ⟨b, 0, 0, 0, off⟩ false false fs
  | .ldvol g d m fs => wordM 0xA6 g d m true false fs
  | .stvol g d m => wordM 0xA7 g d m true false false
  | .fence g k sc => wordS 0xA8 g (0#7 ++ enc 2 FKind.all k ++ BitVec.ofNat 3 (codeIn Scope.all sc + 1)) 0
  | .ldacq g d m fs => wordM 0xA9 g d m false false fs
  | .strel g d m => wordM 0xAA g d m false false false
  | .amo g d b x sc fn ret o fs => wordM 0xAB g d ⟨b, x, 2, sc, atomicOff fn ret o⟩ false false fs
  | .red g d b x sc fn o => wordM 0xAC g d ⟨b, x, 2, sc, atomicOff fn false o⟩ false false false
  | .amos g d b w fn ret o fs =>
    wordM 0xAF g (six d) ⟨b, 0, if w then 3 else 2, 0, atomicOff fn ret o⟩ false false fs
  | .own g d b off many => wordM 0xAD g (six d) ⟨b, 0, 0, 0, off⟩ false many false
  | .disown g d b off many => wordM 0xAE g (six d) ⟨b, 0, 0, 0, off⟩ false many false
  | .peg g a b c fl act i => wordE 0xC0 g a b c (0#14 ++ fl ++ bit act ++ i) false
  | .unpeg g x => wordE 0xC1 g 0 0 0 (x.setWidth 23) false
  | .pegw g a i fs => wordE 0xC2 g a 0 0 (i.setWidth 23) fs
  | .pegq g d t i => wordE 0xC3 g d 0 0 (0#18 ++ bit t ++ i) false
  | .rpos g d f => wordE 0xC4 g d 0 0 (enc 23 Form3.all f) false
  | .ctail g a die e => wordE 0xC8 g a 0 0 (0#16 ++ 0#2 ++ die ++ e) false
  | .ctailRetry g die e => wordE 0xC8 g 0 0 0 (0#16 ++ 1#2 ++ die ++ e) false
  | .ctailSkip g die e => wordE 0xC8 g 0 0 0 (0#16 ++ 2#2 ++ die ++ e) false
  | .ctailStart g a b die e => wordE 0xC8 g a b 0 (0#16 ++ 3#2 ++ die ++ e) false
  | .cseq g d f die e => wordE 0xC9 g d 0 0 (0#16 ++ enc 2 Form3.all f ++ die ++ e) false
  | .cwait g b die e fs => wordE 0xCA g 0 b 0 (0#18 ++ die ++ e) fs
  | .cbacq g a b die u => wordE 0xCB g a b 0 (0#15 ++ die ++ u) false
  | .cbrel g a die u => wordE 0xCC g a 0 0 (0#15 ++ die ++ u) false
  | .cbpub g a b fin die u => wordE 0xCD g a b 0 (0#13 ++ bit fin ++ 0#1 ++ die ++ u) false
  | .cbpubGet g a die u => wordE 0xCD g a 0 0 (0#13 ++ 0#1 ++ 1#1 ++ die ++ u) false
  | .spawn g a b c inc pri vf n va => wordE 0xD0 g a b c (0#4 ++ bit inc ++ pri ++ vf ++ n ++ va) false
  | .tjoin g a => wordE 0xD1 g a 0 0 0 false
  | .targ g d k => wordE 0xD2 g 0 0 0 (0#13 ++ d ++ k) false
  | .tend g => wordE 0xD3 g 0 0 0 0 false
  | .desc g a b => wordE 0xD4 g a b 0 0 false
  | .bar g d b o n => wordE 0xE0 g d b 0 (0#12 ++ enc 3 BarOp.all o ++ n) false
  | .bara g b o n => wordE 0xE1 g 0 b 0 (0#12 ++ enc 3 BarOp.all o ++ n) false
  | .barw g d n => wordE 0xE2 g d 0 0 (n.setWidth 23) false
  | .trig g => wordE 0xE3 g 0 0 0 0 false
  | .flwait g all x => wordS 0xE4 g (0#11 ++ bit all) (x.setWidth 27)
  | .trap g c => wordS 0xE5 g 0 (c.setWidth 27)
  | .eret g => wordS 0xE6 g 0 0
  | .idem g m => wordS 0xE7 g (m.setWidth 12) 0
  | .idend g => wordS 0xE8 g 0 0
  | .phint g wake u n => wordS 0xE9 g (0#9 ++ bit wake ++ u) (n.setWidth 27)
  | .yield g => wordS 0xEA g 0 0
  | .rdcyc g d run => wordS 0xEB g (0#6 ++ bit run ++ d) 0
  | .halt g c => wordS 0xEC g 0 (c.setWidth 27)
  | _ => none

end Sys2Proof
end

