-- ==== Sys2Proof/Machine/State.lean ====
section
/-! DEFINITION. The state of the Dargar as plain data, its reasons to stop, and the state after reset. -/

namespace Sys2Proof.Machine

/-- Reasons the model could stop with a fault. -/
inductive Fault where
  /-- An agent reached an address that the map does not hold. No meaning raises it: R224, R230 and R278 turn every such
  access into a trap, an engine fault or a refusal before it is made. Safe. -/
  | absentAddress
  deriving DecidableEq, Repr

/-- Reasons the model could refuse a step. -/
inductive Refusal where
  /-- An arm of `exec` that has no meaning yet. Safe. -/
  | notModelled (mnemonic : String)
  deriving DecidableEq, Repr

/-! ### Row threads (Table 01-3) -/

/-- Whether a row runs, and how it stopped: R34 (retiring), R335 (failed), R343 (stopped by HALT). -/
inductive Life where
  | idle | running | retiring | stopped | failed
  deriving DecidableEq, Repr

/-- Which arm issues (R85): the only one, T or F. -/
inductive ArmId where
  | single | t | f
  deriving DecidableEq, Repr

/-- R351: an arm runs, is finished, is parked at JOIN, or is parked at a BAR. -/
inductive ArmSt where
  | running | finished | joinPark | barPark
  deriving DecidableEq, Repr

/-- Tokens of one arm above the ARMS token (Table 03-10). -/
inductive TokKind where
  | split | loop | call
  deriving DecidableEq, Repr

/-- A reconvergence token (R84); `serial` orders pushes across both arms (R351). -/
structure Token where
  kind : TokKind
  pca : Option Va
  pcb : Va
  wait : Mask
  park : Mask
  serial : Nat
  deriving DecidableEq, Repr

/-- The ARMS token (R84): the reconvergence address once set, and each arm's parked lanes. -/
structure ArmsTok where
  pca : Option Va
  parkT : Mask
  parkF : Mask
  serial : Nat
  deriving DecidableEq, Repr

/-- A clause (Table 02-1): the header's address, its fields, and its instruction words. -/
structure Clause where
  hdr : Va
  cls : BitVec 4
  wait : BitVec 12
  fa : BitVec 4
  fb : BitVec 4
  y : Bool
  words : List W64
  deriving DecidableEq, Repr

/-- One arm (R85). At a clause boundary `clause.words` is empty and `clause.hdr = pc`. Lanes parked at a BAR (R100) keep
its address and clause, how many tokens were held there, whether later lanes parked under other tokens, and the innermost of
their tokens, set aside while waiting lanes of an outer SPLIT run (R101). -/
structure Arm where
  pc : Va
  clause : Clause
  em : Mask
  held : Mask
  flags : BitVec 12
  st : ArmSt
  toks : List Token
  barAt : Va
  barPark : Mask
  barClause : Clause
  barDepth : Nat
  barMix : Bool
  barToks : List Token
  deriving DecidableEq, Repr

/-- The CSRs a row holds (Table 04-5); rowid, width, tokdepth and cyc are read from other state. -/
structure Csrs where
  placement : W64
  groups : W64
  taskpool : W8
  fflags : Flags
  mflags : W8
  rng : W64
  plive : W8
  cause : W8
  epc : Va
  tval : W64
  tvec : Va
  hamper : Va
  pwd : W32
  pegmiss : W32
  pegstale : W32
  pclass : BitVec 2
  pweight : BitVec 4
  deriving DecidableEq, Repr

/-- A cause raised after its instruction has issued (R336). -/
structure Deferred where
  cause : W8
  tval : W64
  deriving DecidableEq, Repr

/-- The snapshot of an open idempotent region (R344). -/
structure Region where
  s : Tbl W64
  q : BitVec 8
  em : Mask
  held : Mask
  p : Tbl Mask
  fflags : Flags
  mflags : W8
  rng : W64
  depth : Nat
  live : W64
  entry : Va
  deriving DecidableEq, Repr

/-- Where a long-latency read puts its elements. -/
inductive Dst where
  | vreg (d : Nat)
  | sreg (d : Nat)
  | hreg (d : Nat)
  | preg (d : Nat)
  | none
  deriving DecidableEq, Repr

/-- How an access takes part in ordering: ordinary, volatile (R240), or synchronising at a scope (R241, R271). -/
inductive AccKind where
  | ordinary
  | volatile
  | acquire (s : Scope)
  | release (s : Scope)
  | both (s : Scope)
  deriving DecidableEq, Repr

/-- One element of a load: its lane, address, value once performed, and whether an error kept it from its lane. -/
structure LoadElem where
  lane : Nat
  addr : Nat
  val : Option W64
  bad : Bool
  deriving DecidableEq, Repr

/-- One element of a store: its lane, address and value; `done` once performed. -/
structure StoreElem where
  lane : Nat
  addr : Nat
  val : W64
  done : Bool
  deriving DecidableEq, Repr

/-- One element of an atomic: lane, key, address as the row formed it, operands, and the old value once performed. -/
structure AtomElem where
  lane : Nat
  addr : Nat
  va : W64
  x : W64
  y : W64
  old : Option W64
  bad : Bool
  deriving DecidableEq, Repr

/-- What an outstanding operation of a row is. -/
inductive OpKind where
  /-- A load of R236 to R241: bytes per element, sign extension, elements. `mask` is LDM, which takes one bit a lane. -/
  | load (dst : Dst) (size : Nat) (sx mask : Bool) (ord : AccKind) (elems : List LoadElem)
  /-- A store of R237 to R241 in the store buffer; `passes` entries of the 32. -/
  | store (size passes : Nat) (ord : AccKind) (elems : List StoreElem)
  /-- An atomic (R264); `passes` is 0 where it returns its old value, and so is not in the store buffer. -/
  | atomic (fn : AFn) (dst : Dst) (size passes : Nat) (ord : AccKind) (elems : List AtomElem)
  /-- WLD (R186): pair words, columns minus one, width minus one, signedness, scale word when ss is not 0; `begun` once
  the fill has taken the shadow, `col` the next column to read. -/
  | wld (sA sB : W64) (n fmt : Nat) (sgn : Bool) (ss : Option W64) (begun : Bool) (col : Nat)
  /-- MMAC (R189): completes with the array's last result. -/
  | mmac
  /-- CWAIT (R290): `told` marks the fault already reported. -/
  | cwait (die eng : Nat) (target : BitVec 48) (told : Bool)
  /-- PEGW (R218): entry, limit, and the clk its count started. -/
  | pegw (i : Nat) (limit : W64) (since : W64)
  /-- FENCE (R242). -/
  | fence (k : FKind) (s : Scope)
  /-- A TJOIN decrement still to perform (R327): the TJOIN's number, the counter's address and its key. -/
  | join (num : Nat) (addr : W64) (key : Nat)
  deriving DecidableEq, Repr

/-- An outstanding operation: serial, the arm whose flag it set (R98), the flag, and what it is. -/
structure Op where
  id : Nat
  arm : ArmId
  flag : Option Nat
  kind : OpKind
  deriving DecidableEq, Repr

/-- What a row waits for before an instruction (R16, R336, R347, R384); `behind` is R170's wait for an MMAC, `operands` the wait
for the reads of a queued MMAC or of a WLD (R191). -/
inductive Wait where
  | portNorth | portSouth | behind | operands | barrier | buffer | flags | queue | opLimit | memory | contBuf | array
  | stoke (fp : Bool)
  | pegs (mask : BitVec 16)
  deriving DecidableEq, Repr

/-- A port entry: 32 words and 32 valid bits (R155). -/
structure PEntry where
  words : Tbl W32
  valid : BitVec 32
  deriving DecidableEq, Repr

/-- Where a FIFO's seal is (R155, R161): none, on its way, or behind the entries. -/
inductive Seal where
  | none | flying | present
  deriving DecidableEq, Repr

/-- The FIFO at a row's north port (R15): poppable entries, entries in flight, seal. -/
structure Fifo where
  entries : List PEntry
  flight : List PEntry
  sealAt : Seal
  deriving DecidableEq, Repr

/-- What a band edge, or a row inside a band, has at a port (R17). -/
inductive Bind where
  | row | closed | cb (buf : Nat) | link (port : Nat)
  deriving DecidableEq, Repr

/-- Latch states of Table 08-1; `filling` of the shadow also covers reserved. -/
inductive LatchSt where
  | empty | filling | full | swapQueued
  deriving DecidableEq, Repr

/-- A weight latch (R174): weights as bytes keyed 256 times column plus K-position, scales by column. -/
structure Latch where
  st : LatchSt
  w : Nat
  sgn : Bool
  scales : Tbl W8
  tag : W32
  version : W32
  q : Tbl W8
  deriving DecidableEq, Repr

/-- A slot of the array queue (R190). -/
inductive SlotKind where
  /-- An MMAC: word, fields, pair words, scale word, next vector, and the source: 0 the row, e + 1 engine e. -/
  | mmac (w : W64) (f : MmacF) (sA sB sc : W64) (next src : Nat)
  | swap
  deriving DecidableEq, Repr

/-- A slot with its place among the row's operations: the number of the operation that an MMAC of the row completes, or the
number that came next when a follow-on or a swap point entered the queue. An MMAC keeps its slot until it completes. -/
structure Slot where
  seq : Nat
  kind : SlotKind
  deriving DecidableEq, Repr

/-- A vector inside the array (R189): where its 128 results go, the flags they raise, and the MMAC it belongs to by its
slot's number and source. -/
structure VecFlight where
  acc : Option Nat
  vdst : Option (Nat × Nat)
  push : Bool
  vals : List W32
  mflags : W8
  last : Bool
  seq : Nat
  src : Nat
  deriving DecidableEq, Repr

/-- An entry of the array's output buffer (R196): the place of the MMAC it belongs to, and the MMACs that complete once it
has been pushed. -/
structure OutEntry where
  entry : PEntry
  seq : Nat
  ends : List Nat
  deriving DecidableEq, Repr

/-- Why the array stopped before a vector (R192). -/
inductive ArrStop where
  | run | sealMet (k : Nat) | ecc
  deriving DecidableEq, Repr

/-- States of a peg entry (R207). -/
inductive PegSt where
  | free | armed | spent
  deriving DecidableEq, Repr

/-- A fire under way (R209): the tile, the 8-byte pieces of a side-memory target still to be written, and whether it took
the last of the entry's count. -/
structure Fire where
  bytes : List W8
  left : List Nat
  last : Bool
  deriving DecidableEq, Repr

/-- A byte that a fire of an entry has written to side memory (R248): how many fires of the entry that no PEGW has taken come
before it, the number of the PEGW that has taken it, the byte before and after. -/
structure Landed where
  peg : Nat
  ahead : Nat
  taken : Option Nat
  addr : Nat
  old : W8
  new : W8
  deriving DecidableEq, Repr

/-- A peg entry (Table 09-3) with its fires under way, oldest first. -/
structure Peg where
  tag : W32
  mask : W32
  target : W64
  minver : W32
  count : Nat
  st : PegSt
  side : Bool
  flag : Option Nat
  unc : Nat
  arm : ArmId
  lastver : W32
  fires : List Fire
  deriving DecidableEq, Repr

/-- The predictor and power state of a unit that can be banked (R382); `asked` once something needs it stoked. -/
structure Bank where
  idleSince : Option W64
  last : Nat
  conf : Nat
  hint : Option Nat
  hold : Option W64
  banked : Bool
  asked : Bool
  deriving DecidableEq, Repr

/-- A task record (R316): entry, frame, join and ten argument words. -/
structure TaskRec where
  entry : W64
  frame : W64
  join : W64
  args : Tbl W32
  deriving DecidableEq, Repr

/-- A SPAWN whose tests have passed (R326): its queue, the counter to be raised, and its records. -/
structure Spawn where
  pri : Nat
  key : Option Nat
  recs : List TaskRec
  deriving DecidableEq, Repr

structure Row where
  life : Life
  L : Nat
  v : Tbl W32
  s : Tbl W64
  h : Tbl W64
  p : Tbl Mask
  q : BitVec 8
  exited : Mask
  arm : Arm
  other : Option Arm
  armId : ArmId
  armsTok : Option ArmsTok
  tokSerial : Nat
  ac : Tbl W32
  csr : Csrs
  handler : Bool
  trapClause : Clause
  deferred : List Deferred
  /-- A deferred trap was left pending when the row took the last; and, at ERET, is to be taken at once (R336). -/
  again : Bool
  retake : Bool
  /-- MDRAIN or MFILL is moving the array's image: the row issues nothing, and its shadow is reserved (R197). -/
  transfer : Bool
  region : Option Region
  ops : List Op
  nextId : Nat
  wait : Option Wait
  waitSince : W64
  north : Fifo
  southSealed : Bool
  southGone : Bool
  nbind : Bind
  sbind : Bind
  /-- Entries on their way to a circular buffer at the south edge, the slot being filled and its bytes (R165). -/
  edgeOut : List PEntry
  edgeSlot : Option Nat
  edgeFill : Nat
  /-- Slots taken at a circular-buffer north edge with the entries of each not yet popped, and how many entries of the last
  of them have been loaded (R165). -/
  edgeIn : List (Nat × Nat)
  edgeNext : Nat
  /-- Pops from a north port at a die boundary that the producer has not seen yet (R156). -/
  unseen : Nat
  active : Latch
  shadow : Latch
  queue : List Slot
  inflight : List VecFlight
  outBuf : List OutEntry
  frozen : Bool
  arrStop : ArrStop
  arrSince : W64
  peg : Tbl Peg
  /-- Bytes of side memory that fires have written, the latest first (R248). -/
  landed : List Landed
  taskBuf : Tbl TaskRec
  resident : List W64
  triggered : Bool
  pl : Option Nat
  pool : Option Nat
  unbind : Bool
  /-- The clk of the row's domain at which the run count of R342 last started, and the count kept before it. -/
  runBase : W64
  runAcc : Nat
  /-- The lane at which a TJOIN waits, and the lanes left with their counters as its checks found them (R327, R414). -/
  tjoin : Option Nat
  tjoinLeft : List (Nat × W64 × Nat)
  /-- The number under which the decrements of the TJOIN that waits are held (R269). -/
  tjoinNum : Nat
  /-- A SPAWN that has reserved its slots and waits for its release (R326). -/
  spawn : Option Spawn
  haltPc : Va
  haltVal : W64
  failCause : W8
  icache : Tbl Clause
  req : Option Clause
  granted : Bool
  vgranted : Bool
  /-- clk for which the row's clause request, and its array's vector request, have been withheld (R378). -/
  withheld : Nat
  vwithheld : Nat
  /-- Units of a granted clause's first issue cycle, which the grant has debited (R376). -/
  prepaid : Nat
  deficit : Nat
  mat : Bank
  fp : Bank
  deriving DecidableEq, Repr

/-! ### Compute dies -/

/-- A descriptor (Table 12-4) with its role and binding (R286). -/
structure Desc where
  base : W64
  fmt : Nat
  rc : Nat
  size : Tbl Nat
  stride : Tbl Int
  padlo : Tbl Nat
  padhi : Tbl Nat
  pad : W32
  isDst : Bool
  bound : Option Nat
  valid : Bool
  deriving DecidableEq, Repr

/-- A command that an engine has begun (R277): the record's sixteen words and the descriptors as it read them at the
start, the pieces already done, and its phase: 0 at work, 1 all written, 2 the follow-on queued. -/
structure Cmd where
  w : Tbl W64
  src : Option Desc
  dst : Option Desc
  pos : Nat
  phase : Nat
  /-- The slot that an edge command works on and its bytes done; for GATHER, the index of the slice. -/
  slot : Option Nat
  fill : Nat
  /-- The follow-on MMAC has completed. -/
  fodone : Bool
  /-- A link command's bytes computed and still to be written, and the compressed block, scale first, to be sent after them. -/
  buf : List W8
  held : List W8
  /-- A link command's serial number once it has started, and those of the peers' commands that it has matched, by rank. -/
  ser : Nat
  mates : List (Nat × Nat)
  /-- What the bytes of HBM that the command has written held before it, for instruction fetch (R47), each with its place
  among the commands at work that have written the byte: 1 the earliest. -/
  undo : Tbl (Option (Nat × W8))
  deriving DecidableEq, Repr

/-- A copy engine (R275). `byRow` is the row that last advanced the tail, `issuers` the placements whose rows have advanced it
and the tails they set, oldest first, up to which their commands are still to be executed (R35). -/
structure Engine where
  head : W64
  tail : W64
  seq : BitVec 48
  fault : Nat
  failAddr : W64
  failRec : W64
  cmd : Option Cmd
  byRow : Nat
  issuers : List (Nat × W64)
  deriving DecidableEq, Repr

inductive SlotSt where
  | free | held | filled | taken
  deriving DecidableEq, Repr

/-- A circular buffer (R291). -/
structure CBuf where
  base : W64
  size : Nat
  n : Nat
  slots : Tbl SlotSt
  counts : Tbl Nat
  p : Nat
  c : Nat
  ended : Bool
  setUp : Bool
  deriving DecidableEq, Repr

/-- A task queue (R318): its ring, whose memory holds the records, the slot of the oldest, how many there are, and slots
reserved by SPAWN. -/
structure TQueue where
  base : W64
  k : Nat
  head : Nat
  count : Nat
  reserved : Nat
  deriving DecidableEq, Repr

/-- A record in the window with its priority and the clk it entered (R320). -/
structure WinRec where
  task : TaskRec
  pri : Nat
  since : W64
  deriving DecidableEq, Repr

/-- Records of one SPAWN or one continuation on their way to a queue (R333). -/
structure Arriving where
  pri : Nat
  recs : List TaskRec
  deriving DecidableEq, Repr

/-- The steal requests of a die (R324): dies that forwarded nothing, and the clk at which it gave up. -/
structure Steal where
  asked : Nat
  idleFrom : Option W64
  deriving DecidableEq, Repr

/-- A byte of a die's far cache (R227): `at_` is the draw at which a clean one last agreed with its home (R268). -/
structure FarByte where
  val : W8
  dirty : Bool
  at_ : Nat
  deriving DecidableEq, Repr

/-- A stoke request before the in-rush arbiter (R385): row, vector FP or array, slots still needed, the clk at which the
arbiter received it, and the clk at which the unit is usable once admitted. -/
structure Stoke where
  row : Nat
  fp : Bool
  left : Nat
  since : W64
  ready : Option W64
  deriving DecidableEq, Repr

structure Die where
  clk : W64
  engines : Tbl Engine
  bufs : Tbl CBuf
  queues : Tbl TQueue
  window : List WinRec
  cont : List (Nat × TaskRec)
  contReserved : Nat
  arriving : List Arriving
  steal : Steal
  far : Tbl (Option FarByte)
  inrush : List Stoke
  inrushAt : W64
  /-- The four placement queues (R31): placement numbers by priority, oldest first. -/
  plq : Tbl (List Nat)
  ringRev : W32
  ringSeg : W8
  ringMark : W64
  /-- How many of the ring's items have passed this die. -/
  ringPos : Nat
  halted : Bool
  haltAt : W64
  deriving DecidableEq, Repr

/-! ### Placements and barriers -/

/-- A member's slot of a barrier (R306), with the address of the BAR that arrived; none for a BARA. -/
inductive BarSlot where
  | idle
  | arrived (op : BarOp) (bar : Option Va)
  | complete (result : W64) (bar : Option Va)
  deriving DecidableEq, Repr

/-- A group and its barrier (R306): membership by band row, slots by rowid, and the record of R381: the domains of the
first and the latest arrival of the phase, and how many completions in a row domain `lastDom` was the last at. -/
structure Group where
  num : BitVec 8
  members : BitVec 512
  slots : Tbl BarSlot
  expected : Nat
  phase : Nat
  red : Tbl W32
  firstDom : Option Nat
  lateDom : Option Nat
  lastRun : Nat
  lastDom : Nat
  deriving DecidableEq, Repr

inductive PlSt where
  /-- Accepted, dependencies open. -/
  | waiting
  /-- Ready, not yet in its queues; the number is the order in which it became ready (R303). -/
  | ready (order : Nat)
  | queued
  | running
  | ended
  deriving DecidableEq, Repr

/-- A placement (Table 13-1) with its progress. -/
structure Pl where
  num : Nat
  entry : Va
  param : W64
  top : Option Nat
  rows : Nat
  width : Nat
  cls : Nat
  pri : Nat
  die : Nat
  weight : Nat
  north : Bind
  south : Bind
  groups : List Group
  deps : List (Nat × Bool)
  st : PlSt
  /-- Dies whose part has secured its rows (R304), with the band's top once known. -/
  secured : List Nat
  topAt : Option Nat
  early : Bool
  deriving DecidableEq, Repr

/-! ### Ring, domains, links -/

/-- A revolution table entry (Table 09-2) with the width and address found at RING_LOAD. -/
inductive RingEnt where
  | tile (pa : Nat) (w : Nat)
  | gap (cells : Nat)
  | segment (n : Nat)
  deriving DecidableEq, Repr

/-- What the ring carries past the dies, in order (R200, R204), each with the revolution, the segment and the position of its
first cell: a marker, a run of gap cells, a tile with its index in the table and its cells as the feeder completed them, and
the idle cells that end a revolution. -/
inductive RingItem where
  | marker (rev : W32)
  | gap (rev : W32) (segment position cells : Nat)
  | tile (rev : W32) (segment position idx : Nat) (bytes : List W8)
  | idle (segment : Nat)
  deriving DecidableEq, Repr

/-- The Mangle (R203 to R206): the table in use, a table that waits, the latest revolution begun, the feeders' place in the
table, their segment and the position of the next cell, and the cells on the ring that some die has still to see; `base`
counts those that all have seen. `got` is the tile image that a feeder is reading, as far as it has read it (R214). -/
structure Ring where
  table : List RingEnt
  next : Option (List RingEnt)
  running : Bool
  rev : W32
  pos : Nat
  seg : Nat
  cell : Nat
  got : List W8
  items : List RingItem
  base : Nat
  deriving DecidableEq, Repr

/-- The commit buffer on X (R282): the engine that holds it, the images read, and the keys of each target's bytes as phase 1
translated them. -/
structure Commit where
  die : Nat
  eng : Nat
  images : List (List W8)
  targets : List (List Nat)
  fixed : Bool
  deriving DecidableEq, Repr

/-- A transfer of allowance (R381): group, receiver, giver, units, clk it ends. -/
structure Transfer where
  pl : Nat
  group : BitVec 8
  gainer : Nat
  giver : Nat
  units : Nat
  ends : W64
  deriving DecidableEq, Repr

/-- A power domain (R373, R376, R380) with the clk count of its class, the part of its next clk that has passed, and the count
at which PREEMPT reached it (R2, R374; log entry 3). -/
structure Domain where
  cls : Nat
  clk : W64
  phase : Nat
  haltAt : W64
  A : Int
  refill : Nat
  cap : Nat
  /-- Issue cycles under way: how many are left of each instruction, and the units each takes in its clk. -/
  due : List (Nat × Nat)
  /-- How much further Mbabo has lowered refill (R380). -/
  cut : Nat
  heat : Nat
  reading : Nat
  reassign : Option Nat
  transfers : List Transfer
  /-- Its controller has had its turn in the domain's present clk (R376). -/
  ticked : Bool
  deriving DecidableEq, Repr

/-- A communicator (R358). -/
structure Comm where
  n : Nat
  rank : Nat
  succ : BitVec 16
  pred : BitVec 16
  idents : Tbl (BitVec 17)
  masks : Tbl (BitVec 16)
  deriving DecidableEq, Repr

/-- A link message (R361, R363): communicator, peer rank, tag, and what it is. `kind` 0 announces a command that has
started: `cmd` its kind, `len` its B, `blk` what else must agree; kinds 1 to 3 carry the 64 bytes of cell `blk` of raw data,
of a partial block, or of a result block, with the 32 bits of aux; kind 4 is an abort, of the command of rank `blk` whose serial
number is `ser`, to be passed on where aux is 1; kind 5 carries cell `blk` of block `ser` of the exchange for a parity stream,
the checkpoint's number in the tag (R368). `ser` is the serial number of the sender's command. -/
structure Msg where
  comm : Nat
  peer : Nat
  tag : W32
  kind : Nat
  cmd : Nat
  len : Nat
  blk : Nat
  data : List W8
  aux : W32
  ser : Nat
  deriving DecidableEq, Repr

/-- A range of the allocation table (R404). -/
structure Range where
  base : Nat
  len : Nat
  write : Bool
  deriving DecidableEq, Repr

/-- Pre-emption (R348, R349): not asked, asked and dies still to be reached, halted, or resuming. -/
inductive Pre where
  | none | asked | halted
  deriving DecidableEq, Repr

structure Job where
  mem : List Host.Cell
  /-- The draw at which HBM last took another key: 0, and nothing has been written under an earlier one (R408; log entry 12). -/
  era : Nat
  root : Nat
  tvec : Va
  hamper : Va
  /-- Pinned physical base of each 64 KiB page of the hamper region (R407). -/
  pinned : Tbl Nat
  tier : W64
  rows : Tbl Row
  dies : Tbl Die
  doms : Tbl Domain
  alloc : List Range
  desc : Tbl Desc
  checked : Tbl Bool
  owner : Tbl (BitVec 10)
  pls : List Pl
  nextPl : Nat
  readySerial : Nat
  ring : Ring
  commit : Option Commit
  comms : Tbl Comm
  /-- Messages of link commands still to be sent, messages received, and how many link commands have started. -/
  linkTx : List Msg
  linkRx : List Msg
  linkStarts : Nat
  /-- Aborts that have been passed on (R369): communicator, tag, rank and serial number of the command that faulted. -/
  aborts : List (Nat × Nat × Nat × Nat)
  /-- A link-bound south end (R166): entries still to be sent, and a seal still to be sent behind them. -/
  chainOut : List PEntry
  chainSeal : Bool
  /-- Chain cells that row 0's link had delivered when it went down under a halt, with the seal behind them (R369). -/
  chainOld : List Cell
  /-- Cached page-table entries (R231), by `tlbKey`: unit, level and the part of the address that the level spans. -/
  tlb : Tbl (Option W64)
  poolPar : Tbl W64
  pre : Pre
  /-- Rows whose hampers the pre-emption under way has written (R349). -/
  saved : Tbl Bool
  deriving DecidableEq, Repr

/-! ### The device and Mbabo -/

inductive Mode where
  | normal | minimal | fatal | starting
  deriving DecidableEq, Repr

/-- A start (R395): none begun since the reset; the system cores run; or it has failed. -/
inductive Phase where
  | off | up | failed
  deriving DecidableEq, Repr

inductive JobSt where
  | none | opened | halted | closing
  deriving DecidableEq, Repr

/-- An event record (R410). -/
structure Evt where
  kind : Nat
  source : Nat
  payload : W32
  extra : W64
  /-- ROW_FAULT's second record (kind 10) carries this word. -/
  second : Option W64
  clk : W64
  ns : W64
  dropped : Nat
  deriving DecidableEq, Repr

/-- A link at one of its ends: an external port (R357), or one direction of a link inside the package. -/
structure Port where
  up : Bool
  peer : BitVec 17
  latency : W32
  chainEnd : Nat
  rxSeq : BitVec 16
  txSeq : BitVec 16
  /-- Cells sent and not acknowledged (R27). -/
  copies : List Cell
  /-- Cells still to be sent, in order, by virtual channel. -/
  out : Tbl (List Cell)
  /-- By virtual channel: the peer's free buffers as this end knows them, this end's as the peer knows them, and this end's
  freed since it last said so (R25). -/
  credit : Tbl Nat
  room : Tbl Nat
  freed : Tbl Nat
  /-- Failures of the number expected, whether a replay of it has been asked for, and whether the request is still to be sent;
  and how often the peer has asked for the oldest copy (R27). -/
  rxFails : Nat
  asked : Bool
  ask : Bool
  txFails : Nat
  /-- By virtual channel, the cells of a message whose last cell is still to come; chain cells still to be delivered. -/
  parts : Tbl (List Cell)
  chainIn : List Cell
  /-- Cells taken since this end last said which number it expects next (R27). -/
  due : Nat
  /-- Chain cells sent that the peer has not freed, oldest first: whether each is of an entry of the placement that runs. -/
  trail : List Bool
  deriving DecidableEq, Repr

/-- A checkpoint stream at a safe tier (R371, R409). -/
structure Stream where
  tier : W64
  ident : BitVec 17
  num : W64
  key : List W8
  job : Job
  deriving DecidableEq, Repr

/-- A parity stream that this device, as the holder, has written to a parity endpoint (R368): the identities of the group's
members, the checkpoint number and the bytes. -/
structure Shard where
  endpoint : BitVec 17
  members : List (BitVec 17)
  num : W64
  bytes : List W8
  deriving DecidableEq, Repr

/-- A CHECKPOINT whose tests have passed (R368, R398): its key, the job as its streams hold it once it stands halted, the blocks
exchanged for the parity stream so far, and that stream's bytes where this device is its holder. -/
structure Ckpt where
  key : List W8
  job : Option Job
  blocks : Nat
  parity : List W8
  deriving DecidableEq, Repr

/-- What an attestation report holds (R397), in the order listed. -/
structure Report where
  mbabo : BitVec 512
  os : BitVec 512
  accepted : W64
  ident : BitVec 17
  failCount : Nat
  nonce : List W8
  deriving DecidableEq, Repr

structure Dev where
  mode : Mode
  /-- Minimal mode has been entered, which CLEAR_START alone leaves (R396). -/
  minimal : Bool
  phase : Phase
  offered : W64
  accepted : W64
  featDone : Bool
  failCount : Nat
  lastReason : W8
  fatalCause : W8
  jobSt : JobSt
  cmds : Tbl CmdRec
  cmdTail : Nat
  cmdHead : Nat
  /-- What a scan made of the PREEMPT in a slot (R399): 0 not seen, 1 accepted, k + 1 refused with reason k. -/
  preAns : Tbl Nat
  /-- The words of the event ring: word j of slot i at 4i + j (R410). -/
  evts : Tbl W64
  evtTail : Nat
  evtHead : Nat
  evtDrop : W64
  dropRun : Nat
  raised : List Evt
  ports : Tbl Port
  ident : BitVec 17
  /-- The AES-256-XTS key that every memory die's encryption engine holds (R407); all zero once overwritten. -/
  jobKey : BitVec 512
  tierStore : List Stream
  shards : List Shard
  ckpt : Option Ckpt
  mgmtOut : List W64
  starts : Nat
  /-- SHA3-512 digests of the images that the start has read (R395, R397). -/
  mbaboDigest : BitVec 512
  osDigest : BitVec 512
  /-- Register a0 of system core 0 as step 4 leaves it, the window's address, and those of the two rings (R399). -/
  a0 : W64
  cmdRing : W64
  evtRing : W64
  /-- External ports that have a peer (R357). -/
  wired : BitVec 16
  /-- The clk counts of X and M0 to M3, dies 0 to 4 of a source (R2, R410), and every die's corrected errors since its last
  CORRECTED event (R411). -/
  clks : Tbl W64
  /-- Nanoseconds since Mbabo started (R410). -/
  ns : W64
  /-- Mbabo's next read of a job's page table meets an uncorrectable error (R402; log entry 25). -/
  readBad : Bool
  corrected : Tbl Nat
  /-- Interrupts that Mbabo has raised on system core 0 (R399). -/
  irqs : Nat
  /-- SRAM on X, outside the rings (R399). -/
  sram : List Host.Cell
  deriving DecidableEq, Repr

/-- The whole machine. `agenda`, `cur`, `drawn` and `turn` are the model's own: what moves next, the row whose word runs, how
many free values have been drawn, and how often the free schedule has been asked. -/
structure State where
  agenda : List Move
  cur : Nat
  drawn : Nat
  turn : Nat
  job : Job
  dev : Dev
  deriving DecidableEq, Repr

/-! ### Values at reset -/

def Clause.none : Clause := ⟨0, 0, 0, 0, 0, false, []⟩
def Arm.reset : Arm := ⟨0, .none, 0, 0, 0, .running, [], 0, 0, .none, 0, false, []⟩
/-- Table 01-3's values at start, where it gives them; 0 elsewhere (log entry 4). -/
def Csrs.reset : Csrs := ⟨0, 0, 0, 0, 0, 1, 0xFF, 0, 0, 0, 0, 0, 0, 0, 0, 0, 0⟩
def Fifo.reset : Fifo := ⟨[], [], .none⟩
def Latch.reset : Latch := ⟨.empty, 0, false, [], 0, 0, []⟩
/-- R382: the confidence starts at 3. A unit that nothing has used is idle. -/
def Bank.reset : Bank := ⟨some 0, 0, 3, none, none, false, false⟩
def Peg.free : Peg := ⟨0, 0, 0, 0, 0, .free, false, none, 0, .single, 0, []⟩
def TaskRec.zero : TaskRec := ⟨0, 0, 0, []⟩

/-- A row before any work: no row thread, every register zero (R13, R395 step 2; log entry 4). -/
def Row.reset : Row where
  life := .idle
  L := 32
  v := []
  s := []
  h := []
  p := []
  q := 0
  exited := 0
  arm := .reset
  other := none
  armId := .single
  armsTok := none
  tokSerial := 0
  ac := []
  csr := .reset
  handler := false
  trapClause := .none
  deferred := []
  again := false
  retake := false
  transfer := false
  region := none
  ops := []
  nextId := 0
  wait := none
  waitSince := 0
  north := .reset
  southSealed := false
  southGone := false
  nbind := .closed
  sbind := .closed
  edgeOut := []
  edgeSlot := none
  edgeFill := 0
  edgeIn := []
  edgeNext := 0
  unseen := 0
  active := .reset
  shadow := .reset
  queue := []
  inflight := []
  outBuf := []
  frozen := false
  arrStop := .run
  arrSince := 0
  peg := []
  landed := []
  taskBuf := []
  resident := []
  triggered := false
  pl := none
  pool := none
  unbind := false
  runBase := 0
  runAcc := 0
  tjoin := none
  tjoinLeft := []
  tjoinNum := 0
  spawn := none
  haltPc := 0
  haltVal := 0
  failCause := 0
  icache := []
  req := none
  granted := false
  vgranted := false
  withheld := 0
  vwithheld := 0
  prepaid := 0
  deficit := 0
  mat := .reset
  fp := .reset

def Engine.reset : Engine := ⟨0, 0, 0, 0, 0, 0, none, 0, []⟩
def CBuf.reset : CBuf := ⟨0, 0, 0, [], [], 0, 0, false, false⟩
def TQueue.reset : TQueue := ⟨0, 0, 0, 0, 0⟩

def Die.reset : Die where
  clk := 0
  engines := []
  bufs := []
  queues := []
  window := []
  cont := []
  contReserved := 0
  arriving := []
  steal := ⟨0, none⟩
  far := []
  inrush := []
  inrushAt := 0
  plq := []
  ringRev := 0
  ringSeg := 0
  ringMark := 0
  ringPos := 0
  halted := false
  haltAt := 0

/-- R376's figures at design power; class 0 (R373). -/
def Domain.reset : Domain := ⟨0, 0, 0, 0, 98304, 1536, 98304, [], 0, 0, 0, none, [], false⟩
def Ring.reset : Ring := ⟨[], none, false, 0, 0, 0, 0, [], [], 0⟩
def Desc.reset : Desc := ⟨0, 0, 0, [], [], [], [], 0, false, none, false⟩
def Comm.reset : Comm := ⟨0, 0, 0, 0, [], []⟩
def Port.reset : Port where
  up := false
  peer := 0
  latency := 0
  chainEnd := 0
  rxSeq := 0
  txSeq := 0
  copies := []
  out := []
  credit := []
  room := []
  freed := []
  rxFails := 0
  asked := false
  ask := false
  txFails := 0
  parts := []
  chainIn := []
  due := 0
  trail := []


/-- What JOB_OPEN leaves (R13, R228, R275, R283, R407), and what a reset leaves of it: nothing is open. -/
def Job.reset : Job where
  mem := []
  era := 0
  root := 0
  tvec := 0
  hamper := 0
  pinned := []
  tier := 0
  rows := []
  dies := []
  doms := []
  alloc := []
  desc := []
  checked := []
  owner := []
  pls := []
  nextPl := 1
  readySerial := 0
  ring := .reset
  commit := none
  comms := []
  linkTx := []
  linkRx := []
  linkStarts := 0
  aborts := []
  chainOut := []
  chainSeal := false
  chainOld := []
  tlb := []
  poolPar := []
  pre := .none
  saved := []

def CmdRec.zero : CmdRec := ⟨0, 0, 0, 0, 0, 0, 0, 0⟩
def Evt.zero : Evt := ⟨0, 0, 0, 0, none, 0, 0, 0⟩

def Dev.reset : Dev where
  mode := .starting
  minimal := false
  phase := .off
  offered := 0
  accepted := 0
  featDone := false
  failCount := 0
  lastReason := 0
  fatalCause := 0
  jobSt := .none
  cmds := []
  cmdTail := 0
  cmdHead := 0
  preAns := []
  evts := []
  evtTail := 0
  evtHead := 0
  evtDrop := 0
  dropRun := 0
  raised := []
  ports := []
  ident := 0
  jobKey := 0
  tierStore := []
  shards := []
  ckpt := none
  mgmtOut := []
  starts := 0
  mbaboDigest := 0
  osDigest := 0
  a0 := 0
  cmdRing := 0
  evtRing := 0
  wired := 0
  clks := []
  ns := 0
  readBad := false
  corrected := []
  irqs := 0
  sram := []

/-- The machine right after reset, before START runs (R395, R396). -/
def State.reset : State := ⟨[], 0, 0, 0, .reset, .reset⟩

end Sys2Proof.Machine
end

