-- ==== Sys2Proof/Config.lean ====
section
/-! DEFINITION. What the spec leaves open: free values, as constants without a body, that no proof can evaluate. A free
value is drawn with the counter `State.drawn`, so that two draws need not agree (log entry 7). -/

namespace Sys2Proof.Config

/-- Which agent moves next when nothing is under way: the free schedule of every unit of the device and of the outside
world (log entry 1). -/
opaque nextMove : Nat → Move

/-- How many free moves there are from one row's turn to the next row's (R37; log entry 1). -/
opaque patience : Nat

/-- How many clk pass on X, die 0, or M0 to M3, dies 1 to 4, before a scheduled move, and at 5 how many ns (R2, R410; log entry 3):
draw, die. -/
opaque elapsed : Nat → Nat → Nat

/-- A free choice of one bit: draw, index (R5, R50, R227, R231, R47; log entry 7). -/
opaque freeBit : Nat → Nat → Bool

/-- A free number: draw, index (log entry 7). -/
opaque freeNat : Nat → Nat → Nat

/-- Whether a clk passes on a compute die before a scheduled move (R2; log entry 3): draw, die. -/
opaque clkPasses : Nat → Nat → Bool

/-- Whether memory reports an uncorrectable error to an access that its instruction performs at issue, or that an engine
makes at an edge, or to Mbabo's next read of a page table (R235, R267, R278, R402): draw, index. -/
opaque eccError : Nat → Nat → Bool

/-- Whether the checks of a start's step succeed (R395): start number, step (log entry 13). -/
opaque startStep : Nat → Nat → Bool

/-- The feature word that the device offers (R400). -/
opaque offered : W64

/-- The device identity set at provisioning (R397). -/
opaque ident : BitVec 17

/-- SHA3-512, and the signature under the device identity key of a digest (R397; log entry 13). -/
opaque sha3 : List W8 → BitVec 512
opaque sign : BitVec 512 → List W8

/-- The images that a start reads: Mbabo's from ROM, and the operating system's from the boot flash (R395): start number. -/
opaque mbaboImage : Nat → List W8
opaque osImage : Nat → List W8

/-- The bytes of a report's fields in the order listed, and of the report that holds them and their signature: neither coding is
given (R397). -/
opaque fieldBytes : Machine.Report → List W8
opaque reportBytes : Machine.Report → List W8 → List W8

/-- The bytes of saved state in a stream's first 64 blocks (R409), whose coding is not given: the job, and the offset. -/
opaque savedState : Machine.Job → Nat → W8
/-- AES-256-GCM of a block (R409): key, nonce, the block's bytes; byte i of the block encrypted and, from 1 MiB on, of its tag. -/
opaque gcm : List W8 → BitVec 96 → (Nat → W8) → Nat → W8

/-- Where Mbabo's window and its command and event rings lie on X (R399): start number. -/
opaque mboxAt : Nat → Nat × Nat × Nat

/-- The two 256-bit keys, as one AES-256-XTS key, that the random-bit generator draws (R407): draw. -/
opaque randomKey : Nat → BitVec 512

/-- The byte of HBM at an address as it reads under another key than it was written under (R407, R408, R411): the draw at which the
key changed, and the address (log entry 12). -/
opaque rekeyed : Nat → Nat → W8

/-- Which external ports have a peer when a start finds them (R357): start number. -/
opaque wired : Nat → BitVec 16

/-- The CRC-24 of a cell's payload and tag, whose polynomial the spec does not give (R24). -/
opaque crc24 : BitVec 512 → W64 → BitVec 24

/-- The message kind of a chain entry and of a seal on virtual channel 2 (R24 gives no numbers). -/
opaque chainKind : BitVec 6
opaque sealKind : BitVec 6

/-- How a cell names a link message or a message of virtual channel 3, whose coding the spec does not give (R24, R25, R27). A
message's numbers to the kind and, where it carries no data, the payload of its cell; and back. The numbers are, for a link
message, communicator, rank, tag, kind, command, length, block and serial number; on virtual channel 3, 0 with the
communicator, tag, rank and serial number of an abort and whether it is to be passed on, 1 with the number expected next and the
buffers freed on each channel, or 2 with the number that a replay is to begin at. -/
opaque cellKind : List Nat → BitVec 6
opaque cellHead : List Nat → BitVec 512
opaque cellNums : W64 → BitVec 512 → List Nat

/-- Whether link messages go on the response channel rather than the request channel (R24 does not say). -/
opaque linkVc : Bool

/-- The free buffers that each end of a link advertises for a virtual channel when it comes up (R25): this end, channel. -/
opaque linkBuffers : Bool → Nat → Nat

/-- The peer identity and one-way latency that LINK_UP finds on a port (R357): draw, port. -/
opaque linkProbe : Nat → Nat → BitVec 17 × BitVec 32

/-- The stream of another device that RESTORE finds at this device's tier, such as one rebuilt from a parity stream (R368,
R409): draw, identity, checkpoint number, key (log entry 63). -/
opaque foreignStream : Nat → BitVec 17 → BitVec 64 → List (BitVec 8) → Option Machine.Job

/-- Which physical addresses beyond HBM are SRAM on X that the system cores share with Mbabo (R399, R402 give no map). -/
opaque xSram : Nat → Bool

end Sys2Proof.Config
end

