-- ==== Sys2Proof/Machine/Table.lean ====
section
/-! DEFINITION. Sparse tables: strictly rising keys, no entry equal to the default. Every register file, the memory and
every indexed unit of the machine is read and written through these. -/

namespace Sys2Proof.Machine

/-- The entry at a key, or the default. -/
def tget {α : Type} (d : α) : Tbl α → Nat → α
  | [], _ => d
  | (k, x) :: r, n => if n = k then x else tget d r n

/-- A table without a key. -/
def tdel {α : Type} : Tbl α → Nat → Tbl α
  | [], _ => []
  | (k, x) :: r, n => if n = k then tdel r n else (k, x) :: tdel r n

/-- A key put before the first greater one. -/
def tput {α : Type} : Tbl α → Nat → α → Tbl α
  | [], n, x => [(n, x)]
  | (k, y) :: r, n, x => if n < k then (n, x) :: (k, y) :: r else (k, y) :: tput r n x

/-- Replace the entry at a key; the default removes it. -/
def tset {α : Type} [DecidableEq α] (d : α) (t : Tbl α) (n : Nat) (x : α) : Tbl α :=
  if x = d then tdel t n else tput (tdel t n) n x

/-- Update the entry at a key by a function. -/
def tmod {α : Type} [DecidableEq α] (d : α) (t : Tbl α) (n : Nat) (f : α → α) : Tbl α := tset d t n (f (tget d t n))

/-- Write each key of a list in turn. -/
def tsets {α : Type} [DecidableEq α] (d : α) (t : Tbl α) (l : List (Nat × α)) : Tbl α :=
  l.foldl (fun t e => tset d t e.1 e.2) t

/-- The table of a function on the keys below n. -/
def tabulate {α : Type} [DecidableEq α] (d : α) (n : Nat) (f : Nat → α) : Tbl α :=
  ((List.range n).map (fun k => (k, f k))).filter (fun e => e.2 ≠ d)

/-- Every key exceeds a bound and keys rise strictly, and no entry is the default. -/
def twfFrom {α : Type} [DecidableEq α] (d : α) : Option Nat → Tbl α → Bool
  | _, [] => true
  | lo, (k, x) :: r => (match lo with | none => true | some b => b < k) && x ≠ d && twfFrom d (some k) r

/-- The canonical form of a table. -/
def twf {α : Type} [DecidableEq α] (d : α) (t : Tbl α) : Bool := twfFrom d none t

end Sys2Proof.Machine
end

