-- ==== Sys2Proof/Machine/Ops.lean ====
section
/-! DEFINITION. The named operations that every meaning uses: the parts of the machine, a row's registers, guards, pending
writes (R50, R51), taking an exception and returning from one (R334, R335, R340), and the frame of an issued word (R413). -/

namespace Sys2Proof.Machine

/-! ### Parts of the machine -/

def State.row (s : State) (n : Nat) : Row := tget .reset s.job.rows n
def State.setRow (s : State) (n : Nat) (r : Row) : State :=
  { s with job := { s.job with rows := tset .reset s.job.rows n r } }
def State.modRow (s : State) (n : Nat) (f : Row → Row) : State := s.setRow n (f (s.row n))
def State.die (s : State) (d : Nat) : Die := tget .reset s.job.dies d
def State.setDie (s : State) (d : Nat) (x : Die) : State :=
  { s with job := { s.job with dies := tset .reset s.job.dies d x } }
def State.modDie (s : State) (d : Nat) (f : Die → Die) : State := s.setDie d (f (s.die d))
def State.dom (s : State) (d : Nat) : Domain := tget .reset s.job.doms d
def State.setDom (s : State) (d : Nat) (x : Domain) : State :=
  { s with job := { s.job with doms := tset .reset s.job.doms d x } }
def State.modDom (s : State) (d : Nat) (f : Domain → Domain) : State := s.setDom d (f (s.dom d))
def State.modJob (s : State) (f : Job → Job) : State := { s with job := f s.job }
def State.modDev (s : State) (f : Dev → Dev) : State := { s with dev := f s.dev }
/-- One more free value drawn. -/
def State.draw (s : State) : State := { s with drawn := s.drawn + 1 }

/-- The compute die of a row (R15) and its power domain (R373). -/
def dieOf (n : Nat) : Nat := n / 128
def domOf (n : Nat) : Nat := n / 32
/-- The clk count of a row's die, which csr.cyc reads (R113). -/
def State.clkOf (s : State) (n : Nat) : W64 := (s.die (dieOf n)).clk
/-- The clk count of a row's domain, by which its waits, its run and its banked units go (R2, R374; log entry 3). -/
def State.rowClk (s : State) (n : Nat) : W64 := (s.dom (domOf n)).clk

/-! ### Registers of a row -/

/-- All lanes of a thread of width L. -/
def laneMask (L : Nat) : Mask := BitVec.ofNat 1024 (2 ^ L - 1)

/-- R12, R118: the number of vector registers. -/
def Row.vcount (r : Row) : Nat := min 64 (16384 / r.L)

/-- Lane l of vN is word L·N + l of the file (R12). -/
def Row.vreg (r : Row) (n l : Nat) : W32 := tget 0 r.v (r.L * n + l)
def Row.setV (r : Row) (n l : Nat) (x : W32) : Row := { r with v := tset 0 r.v (r.L * n + l) x }

/-- s0 reads zero; in handler mode s24 to s31 name h0 to h7 (R104, R334). -/
def Row.sreg (r : Row) (n : Nat) : W64 :=
  if n = 0 then 0 else if r.handler && 24 ≤ n then tget 0 r.h (n - 24) else tget 0 r.s n
/-- Writes to s0 are discarded (R104). -/
def Row.setS (r : Row) (n : Nat) (x : W64) : Row :=
  if n = 0 then r
  else if r.handler && 24 ≤ n then { r with h := tset 0 r.h (n - 24) x }
  else { r with s := tset 0 r.s n x }

/-- p0 reads all ones (R73). -/
def Row.preg (r : Row) (n : Nat) : Mask := if n = 0 then laneMask r.L else tget 0 r.p n
/-- Writes to p0 are discarded (R73); no bit at or beyond L is kept. -/
def Row.setP (r : Row) (n : Nat) (m : Mask) : Row :=
  if n = 0 then r else { r with p := tset 0 r.p n (m &&& laneMask r.L) }

/-- q0 reads true (R73). -/
def Row.qreg (r : Row) (n : Nat) : Bool := n = 0 || r.q.getLsbD n
/-- Writes to q0 are discarded (R73). -/
def Row.setQ (r : Row) (n : Nat) (b : Bool) : Row :=
  if n = 0 then r
  else { r with q := if b then r.q ||| BitVec.ofNat 8 (2 ^ n) else r.q &&& ~~~(BitVec.ofNat 8 (2 ^ n)) }

/-- A mask with lane l set or cleared. -/
def setLane (m : Mask) (l : Nat) (b : Bool) : Mask :=
  if b then m ||| BitVec.ofNat 1024 (2 ^ l) else m &&& ~~~(BitVec.ofNat 1024 (2 ^ l))

/-- The mask of a predicate on lanes below L. -/
def maskOf (L : Nat) (f : Nat → Bool) : Mask :=
  (List.range L).foldl (fun m l => if f l then setLane m l true else m) 0

/-- Lanes not exited (R33). -/
def Row.live (r : Row) : Mask := laneMask r.L &&& ~~~r.exited

/-! ### Guards (R53) -/

/-- The scalar guard. -/
def Row.guardQ (r : Row) (g : Guard) : Bool :=
  g.tt.getLsbD (4 * (r.qreg g.ga.toNat).toNat + 2 * (r.qreg g.gb.toNat).toNat + (r.qreg g.gc.toNat).toNat)

/-- Guard(l). -/
def Row.guardL (r : Row) (g : Guard) (l : Nat) : Bool :=
  g.tt.getLsbD (4 * ((r.preg g.ga.toNat).getLsbD l).toNat + 2 * ((r.preg g.gb.toNat).getLsbD l).toNat
    + ((r.preg g.gc.toNat).getLsbD l).toNat)

/-- Active(l) and Guard(l): the instruction acts in lane l. -/
def Row.acts (r : Row) (g : Guard) (l : Nat) : Bool := r.arm.em.getLsbD l && r.guardL g l

/-- The lanes that act, ascending. -/
def Row.actLanes (r : Row) (g : Guard) : List Nat := (List.range r.L).filter (r.acts g)

/-- Whether some lane acts. -/
def Row.anyActs (r : Row) (g : Guard) : Bool := !(r.actLanes g).isEmpty

/-! ### Pending writes (R50, R51, R191) -/

/-- The register an operation writes. -/
def OpKind.dst : OpKind → Dst
  | .load d .. => d
  | .atomic _ d .. => d
  | _ => .none

/-- The row's operation that a slot's MMAC completes, and that of a vector in flight: none for a follow-on. -/
def Slot.op : Slot → Option Nat
  | ⟨n, .mmac _ _ _ _ _ _ 0⟩ => some n
  | _ => none
def VecFlight.op (x : VecFlight) : Option Nat := if x.src = 0 then some x.seq else none
/-- No vector of the slot's MMAC is left to enter. -/
def Slot.spent : Slot → Bool
  | ⟨_, .mmac _ f _ _ _ next _⟩ => f.n.toNat < next
  | _ => false
/-- The slots that the array has still to take, in order: those before them have only to complete (R190). -/
def Row.entering (r : Row) : List Slot := r.queue.dropWhile Slot.spent

/-- Entries of the accumulator and registers that the vectors a queued MMAC slot has still to take write or read. -/
def Slot.writesV (L : Nat) (n : Nat) : Slot → Bool
  | ⟨_, .mmac _ f _ _ _ next _⟩ =>
    f.dk == 2 && next ≤ f.n.toNat && f.d.toNat + next / (L / 128) ≤ n && n ≤ f.d.toNat + f.n.toNat / (L / 128)
  | _ => false
def Slot.readsV (L : Nat) (n : Nat) : Slot → Bool
  | ⟨_, .mmac _ f _ _ _ next _⟩ =>
    !f.pair && next ≤ f.n.toNat && f.a.toNat + next / (L / 64) ≤ n && n ≤ f.a.toNat + f.n.toNat / (L / 64)
  | _ => false
def Slot.writesAc (e : Nat) : Slot → Bool
  | ⟨_, .mmac _ f _ _ _ next _⟩ =>
    (f.dk == 0 || f.dk == 3) && next ≤ f.n.toNat
      && (128 ≤ f.n.toNat + 1 - next || (e + 256 - f.d.toNat - next % 128) % 128 ≤ f.n.toNat - next)
  | _ => false

/-- A write to vn is pending. -/
def Row.pendV (r : Row) (n : Nat) : Bool :=
  r.ops.any (fun o => o.kind.dst == .vreg n) || r.queue.any (Slot.writesV r.L n)
    || r.inflight.any (fun x => match x.vdst with | some (d, _) => d == n | none => false)
/-- The destination that a scalar register number names now: none for s0, a banked register in handler mode (R334). -/
def Row.dstS (r : Row) (n : Nat) : Dst :=
  if n = 0 then .none else if r.handler && 24 ≤ n then .hreg (n - 24) else .sreg n
def Row.pendS (r : Row) (n : Nat) : Bool := n != 0 && r.ops.any (fun o => o.kind.dst == r.dstS n)
def Row.pendP (r : Row) (n : Nat) : Bool := n != 0 && r.ops.any (fun o => o.kind.dst == .preg n)
/-- A write to entry e, or a read of it as an addend, is pending in the array. -/
def Row.pendAc (r : Row) (e : Nat) : Bool :=
  r.queue.any (Slot.writesAc e) || r.inflight.any (fun x => x.acc == some e)
/-- A queued MMAC still has to read vn (R191). -/
def Row.readV (r : Row) (n : Nat) : Bool := r.queue.any (Slot.readsV r.L n)
/-- A write of vn must wait (R51, R191). -/
def Row.holdV (r : Row) (n : Nat) : Bool := r.pendV n || r.readV n

/-- Put a performed value of a pending write in place, in lane l. -/
def Row.putDst (r : Row) (d : Dst) (l : Nat) (x : W64) : Row :=
  match d with
  | .vreg n => r.setV n l (x.setWidth 32)
  | .sreg n => { r with s := tset 0 r.s n x }
  | .hreg n => { r with h := tset 0 r.h n x }
  | .preg n => r.setP n (setLane (r.preg n) l (x.getLsbD 0))
  | .none => r

/-- The performed elements of a pending operation: lane and value. -/
def OpKind.results : OpKind → List (Nat × W64)
  | .load _ _ _ _ _ es => es.filterMap (fun e => if e.bad then none else e.val.map (fun v => (e.lane, v)))
  | .atomic _ _ _ _ _ es => es.filterMap (fun e => if e.bad then none else e.old.map (fun v => (e.lane, v)))
  | _ => []

/-- Write the results of a vector that left the array (R189): entry or register lanes. -/
def Row.putVec (r : Row) (x : VecFlight) : Row :=
  let r := match x.acc with
    | some e => { r with ac := tsets 0 r.ac ((List.range 128).map (fun c => (128 * e + c, x.vals.getD c 0))) }
    | none => r
  match x.vdst with
  | some (d, g) => { r with v := tsets 0 r.v ((List.range 128).map (fun c => (r.L * d + 128 * g + c, x.vals.getD c 0))) }
  | none => r

/-- R50: what an instruction reads of a row with pending writes: each pending lane, independently, the old value or the
written one, by free bits of the current draw. -/
def Row.view (draw : Nat) (r : Row) : Row :=
  let r1 := (r.ops.zipIdx.foldl (fun q (o, k) =>
    (o.kind.results).foldl (fun q (l, x) =>
      if Config.freeBit draw (1024 * k + l) then q.putDst o.kind.dst l x else q) q) r)
  r.inflight.zipIdx.foldl (fun q (x, k) =>
    (List.range 128).foldl (fun q c =>
      if Config.freeBit draw (65536 + 128 * k + c) then
        let q := match x.acc with
          | some e => { q with ac := tset 0 q.ac (128 * e + c) (x.vals.getD c 0) }
          | none => q
        match x.vdst with
        | some (d, g) => q.setV d (128 * g + c) (x.vals.getD c 0)
        | none => q
      else q) q) r1

/-! ### Accesses to memory that a row has outstanding (R241, R242, R248) -/

/-- Whether an operation still has a memory access to perform. -/
def OpKind.open_ : OpKind → Bool
  | .load _ _ _ _ _ es => es.any (fun e => e.val.isNone && !e.bad)
  | .store _ _ _ es => es.any (fun e => !e.done)
  | .atomic _ _ _ _ _ es => es.any (fun e => e.old.isNone && !e.bad)
  | .wld .. | .join .. => true
  | _ => false

/-- Whether an operation is a read, for acquire fences (R242). -/
def OpKind.reads : OpKind → Bool
  | .load .. | .wld .. | .join .. => true
  | .atomic _ _ _ p _ _ => p == 0
  | _ => false

/-- An MMAC of the row in this slot still reads memory. -/
def Slot.reads : Slot → Bool
  | ⟨_, .mmac _ f _ _ _ next 0⟩ => f.pair && next ≤ f.n.toNat
  | _ => false
def Row.mmacReads (r : Row) : Bool := r.queue.any Slot.reads

/-- R254, R310: every access that the row issued earlier has been performed. -/
def Row.drained (r : Row) : Bool := !(r.ops.any (fun o => o.kind.open_)) && !r.mmacReads

/-- How an operation takes part in ordering. -/
def OpKind.ord : OpKind → AccKind
  | .load _ _ _ _ o _ => o
  | .store _ _ o _ => o
  | .atomic _ _ _ _ o _ => o
  | .join .. => .both .device
  | _ => .ordinary

/-- An acquire that is no access of its own finds the row's earlier volatile accesses still to be performed (R240). -/
def Row.volatileOpen (r : Row) : Bool := r.ops.any (fun o => o.kind.open_ && o.kind.ord == .volatile)

/-- R241, R242: an outstanding acquire or fence holds the issue of an access. -/
def Row.heldBy (r : Row) : Bool :=
  r.ops.any (fun o => match o.kind with
    | .load _ _ _ _ (.acquire _) _ => true
    | .atomic _ _ _ _ (.acquire _) _ => true
    | .atomic _ _ _ _ (.both _) _ => true
    | .fence .. | .join .. => true
    | _ => false)

/-! ### Clauses and arms -/

/-- A clause boundary at an address: the word there is still to be read as a header. -/
def Clause.at (a : Va) : Clause := { Clause.none with hdr := a }

/-- Address of word i of the clause, and of the word after the clause (R42). -/
def Clause.last (c : Clause) : Va := c.hdr + BitVec.ofNat 56 (8 * c.words.length)

/-- The unissued word at the arm's pc. -/
def Arm.word (a : Arm) : Option W64 :=
  if a.clause.words.isEmpty then none else a.clause.words[((a.pc - a.clause.hdr).toNat / 8) - 1]?

/-- The instruction at the pc stands last in its clause. -/
def Arm.atLast (a : Arm) : Bool := a.pc == a.clause.last

/-- The arm stands at a clause boundary at an address. -/
def Arm.goto (a : Arm) (t : Va) : Arm := { a with pc := t, clause := .at t }

/-- The other arm may issue: neither finished nor parked (R97). -/
def Row.otherRuns (r : Row) : Bool := match r.other with | some o => o.st == .running | none => false

/-- The name of the arm that does not issue. -/
def Row.otherId (r : Row) : ArmId := if r.armId == .t then .f else .t

/-- Issue passes to the other arm. -/
def Row.switch (r : Row) : Row :=
  match r.other with
  | some o => { r with arm := o, other := some r.arm, armId := r.otherId, req := none, granted := false }
  | none => r

/-- End of a clause: an arm switch where y permits it (R97); a handler runs in the arm that trapped until ERET (R99). -/
def Row.endClause (y : Bool) (r : Row) : Row := if y && !r.handler && r.otherRuns then r.switch else r

/-- The instruction at the pc has issued: on to the next word, or past the clause. -/
def Row.advance (r : Row) : Row :=
  let a := r.arm
  if a.atLast then Row.endClause a.clause.y { r with arm := a.goto (a.pc + 8) }
  else { r with arm := { a with pc := a.pc + 8 } }

/-- csr.tokdepth: the ARMS token and the current arm's own tokens (R84). -/
def Row.tokdepth (r : Row) : Nat := r.arm.toks.length + r.armsTok.isSome.toNat
/-- Tokens that an arm holds: its own, and those set aside under lanes parked at a BAR (R101). -/
def Arm.tokens (a : Arm) : Nat := a.toks.length + a.barToks.length
/-- Tokens held by the row, both arms together (R84). -/
def Row.tokTotal (r : Row) : Nat :=
  r.armsTok.isSome.toNat + r.arm.tokens + (match r.other with | some o => o.tokens | none => 0)

/-- Set a completion flag in the current arm's copy (R49). -/
def Arm.setFlag (a : Arm) (f : Nat) : Arm := { a with flags := a.flags ||| BitVec.ofNat 12 (2 ^ f) }
def Arm.clrFlag (a : Arm) (f : Nat) : Arm := { a with flags := a.flags &&& ~~~(BitVec.ofNat 12 (2 ^ f)) }

/-- The flag that fs selects in the current clause: none when the field is 15 (R49). -/
def Row.flagSel (r : Row) (fs : Bool) : Option Nat :=
  let f := (if fs then r.arm.clause.fb else r.arm.clause.fa).toNat
  if f < 12 then some f else none

/-- Whether an operation other than `id`, or an armed peg, still marks flag f in the copy of arm `a`: it was set there, or
before the split (R49, R98, R216). -/
def Row.flagHeld (r : Row) (id : Nat) (a : ArmId) (f : Nat) : Bool :=
  r.ops.any (fun o => o.id != id && o.flag == some f && (o.arm == a || o.arm == .single))
    || r.peg.any (fun e => e.2.st == .armed && e.2.flag == some f && (e.2.arm == a || e.2.arm == .single))

/-- R49, R98: an operation of arm `a` completes, and flag f clears in that arm's copy, in both for one issued before the
split, unless another operation that set it there is outstanding. -/
def Row.dropFlag (r : Row) (id : Nat) (a : ArmId) (f : Nat) : Row :=
  let r := if (a == .single || a == r.armId) && !r.flagHeld id r.armId f then { r with arm := r.arm.clrFlag f } else r
  match r.other with
  | some o =>
    if (a == .single || a == r.otherId) && !r.flagHeld id r.otherId f then { r with other := some (o.clrFlag f) } else r
  | none => r

/-- Add an outstanding operation, setting the flag it selects. -/
def Row.addOp (r : Row) (flag : Option Nat) (k : OpKind) : Row :=
  let r := match flag with | some f => { r with arm := r.arm.setFlag f } | none => r
  { r with ops := r.ops ++ [⟨r.nextId, r.armId, flag, k⟩], nextId := r.nextId + 1 }

/-- Remove an operation that has completed and clear its flag. -/
def Row.endOp (r : Row) (o : Op) : Row :=
  let r := match o.flag with | some f => r.dropFlag o.id o.arm f | none => r
  { r with ops := r.ops.filter (fun x => x.id != o.id) }

/-! ### Events to the operating system (R410) -/

/-- The clk count of the die that a unit source names, in ring order: X, M0 to M3, C0 to C3. -/
def State.unitClk (s : State) (source : Nat) : W64 :=
  let d := (source - 0x8000) / 16
  if 5 ≤ d then (s.die (d - 5)).clk else tget 0 s.dev.clks d
/-- Mbabo is given an event to deliver. -/
def State.raise (s : State) (e : Evt) : State := s.modDev (fun d => { d with raised := d.raised ++ [e] })

/-! ### Exceptions (R334, R335, R340) -/

/-- Causes of Table 15-1. -/
def cIllEnc : W8 := 0x01
def cIllClause : W8 := 0x02
def cPriv : W8 := 0x03
def cMisalign : W8 := 0x04
def cXlate : W8 := 0x05
def cProt : W8 := 0x06
def cBounds : W8 := 0x07
def cOwner : W8 := 0x08
def cPortStarved : W8 := 0x09
def cPortDrained : W8 := 0x0A
def cBarDiverge : W8 := 0x0B
def cTokenOverflow : W8 := 0x0C
def cFpTrap : W8 := 0x0D
def cIntDivzero : W8 := 0x0E
def cMatrixFmt : W8 := 0x0F
def cPegFull : W8 := 0x10
def cRingWatchdog : W8 := 0x11
def cCbError : W8 := 0x12
def cCopyFault : W8 := 0x13
def cTaskQueueFull : W8 := 0x14
def cEccUncorr : W8 := 0x15
def cSoftware : W8 := 0x16
def cWaveBarrier : W8 := 0x18
def cPortClosed : W8 := 0x19
def cIdemNest : W8 := 0x1A

/-- R335: the row fails; the CSRs keep their values. -/
def Row.fail (r : Row) (cause : W8) (tval : W64) (pc : Va) : Row :=
  { r with life := .failed, failCause := cause, haltVal := tval, haltPc := pc, wait := none, req := none, granted := false }

/-- R334: cause, epc and tval are written, handler mode begins, the array freezes, and the pc becomes csr.tvec. -/
def Row.enterTrap (r : Row) (cause : W8) (tval : W64) (epc : Va) (held : Clause) : Row :=
  { r with
    csr := { r.csr with cause := cause, epc := epc, tval := tval }
    handler := true
    again := false
    retake := false
    frozen := true
    trapClause := held
    arm := r.arm.goto r.csr.tvec
    wait := none
    req := none
    granted := false }

/-- Taking an exception in row n: entry, or failure in handler mode with its ROW_FAULT event. -/
def State.trap (s : State) (n : Nat) (cause : W8) (tval : W64) (epc : Va) (held : Clause) : State :=
  let r := s.row n
  if r.handler then
    (s.setRow n (r.fail cause tval r.arm.pc)).raise
      ⟨1, n, cause.setWidth 32, tval, some (r.arm.pc.setWidth 64), s.clkOf n, 0, 0⟩
  else s.setRow n (r.enterTrap cause tval epc held)

/-- A cause at the instruction at the current arm's pc. -/
def State.trapHere (s : State) (n : Nat) (cause : W8) (tval : W64) : State :=
  let a := (s.row n).arm
  s.trap n cause tval a.pc a.clause

/-- R336: a deferred trap becomes pending; one equal to a pending one merges, a ninth is lost and logged. -/
def State.defer (s : State) (n : Nat) (cause : W8) (tval : W64) : State :=
  let r := s.row n
  if r.deferred.contains ⟨cause, tval⟩ then s
  else if r.deferred.length < 8 then s.setRow n { r with deferred := r.deferred ++ [⟨cause, tval⟩] }
  else s.raise ⟨7, n, cause.setWidth 32, tval, none, s.clkOf n, 0, 0⟩

/-- The row may act at all: it runs, and PREEMPT has not reached its die (R348). -/
def State.live (s : State) (n : Nat) : Bool := (s.row n).life == .running && !(s.die (dieOf n)).halted

/-- The pending deferred trap with the lowest code; handler mode holds them all (R336). -/
def Row.nextDeferred (r : Row) : Option Deferred :=
  if r.handler then none
  else r.deferred.foldl (fun b x => match b with
    | none => some x
    | some y => if x.cause.ult y.cause then some x else some y) none

/-- The word at the pc is of a port, a barrier or a circular buffer, whichever it waits for first (R336). -/
def Row.atPortWord (r : Row) : Bool :=
  match r.arm.word.map decode with
  | some (.ok i) => (match i with
    | .pwr .. | .prd .. | .prdn .. | .pseal .. | .pxfer .. | .bar .. | .bara .. | .barw .. | .cbacq .. | .cbrel .. | .cbpub .. | .cbpubGet .. =>
      true
    | _ => false)
  | _ => false

/-- R336: the waits before an instruction at which a deferred trap is taken at once. -/
def Row.waitsAtOnce (r : Row) : Bool :=
  match r.wait with
  | some .portNorth | some .portSouth | some .behind | some .barrier | some .buffer | some .queue | some .opLimit => true
  | some .flags => !r.arm.clause.words.isEmpty
  | some .memory => r.atPortWord
  | _ => false

/-- The deferred trap that a row takes now: it waits before an instruction, stands at a clause boundary, or has come back by ERET
from one with others pending (R336). -/
def Row.dueTrap (r : Row) : Option Deferred :=
  if r.waitsAtOnce || r.retake || (r.arm.clause.words.isEmpty && r.arm.clause.hdr == r.arm.pc && !r.granted) then r.nextDeferred
  else none

/-- The row takes a deferred trap at its pc: a clause header, or the instruction it waits before. -/
def State.takeDeferred (s : State) (n : Nat) (d : Deferred) : State :=
  let l := (s.row n).deferred.erase d
  ((s.modRow n (fun r => { r with deferred := l })).trapHere n d.cause d.tval).modRow n (fun r => { r with again := !l.isEmpty })

/-- A live row takes the deferred trap that is due. -/
def State.takeDue (s : State) (n : Nat) : State :=
  match s.live n, (s.row n).dueTrap with
  | true, some d => s.takeDeferred n d
  | _, _ => s

/-- A word of a clause stands at an address. -/
def Clause.inside (c : Clause) (a : Va) : Bool :=
  let k := (a - c.hdr).toNat
  8 ≤ k && k ≤ 8 * c.words.length && k % 8 == 0

/-- R336, R340: leaving handler mode, with the deferred traps due that the one taken left pending; unfreezing the array, and
where the arm resumes: inside the clause given, or at a branch target. -/
def Row.leaveTrap (r : Row) (c : Clause) : Row :=
  { r with
    handler := false
    again := false
    retake := r.again
    frozen := false
    arrStop := .run
    arm := if c.inside r.csr.epc then { r.arm with pc := r.csr.epc, clause := c } else r.arm.goto r.csr.epc
    wait := none }

/-! ### The frame of an issued word -/

/-- What the body of an instruction comes to. -/
inductive Res where
  /-- It has acted; the pc moves on. -/
  | done (s : State)
  /-- It has acted and set the arm's pc itself; whether the clause's y still permits a switch. -/
  | jump (s : State) (sw : Bool)
  /-- It raises a cause with a tval, over the state given (nearly always unchanged). -/
  | trap (c : W8) (tval : W64) (s : State)
  /-- It waits before issue, having done nothing but what the state given holds. -/
  | wait (w : Wait) (s : State)
  /-- It has acted, and its row has stopped or retires: nothing moves on. -/
  | halt (s : State)

/-- Conditions that an instruction is tested for before its own body (R413). -/
structure Plan where
  /-- A field value that the running width forbids (R60, R142, R177): ILL_ENC with the word. -/
  illegal : Row → Bool := fun _ => false
  /-- Vector register numbers to hold against the count, in the order of R118, and those that the width enters. -/
  regs : List Nat := []
  regsOf : Row → List Nat := fun _ => []
  /-- An interlock that keeps it from issuing (R51, R191). -/
  hold : Row → Bool := fun _ => false
  /-- Refused with IDEM_NEST 1 in an open region (R345). -/
  nest : Bool := false
  /-- Raises PRIV in handler mode (R335). -/
  priv : Bool := false
  /-- Needs the vector FP datapath (R382). -/
  fp : Bool := false
  /-- Makes an access that outstanding acquires and fences hold (R241, R242). -/
  access : Bool := false
  /-- Allowance units of one issue cycle or pass (Table 17-1). -/
  units : Nat := 1
  /-- Issue cycles it takes (R10). -/
  cycles : Row → Nat := fun _ => 1

/-- R10: the passes of a sweep, at least one issue cycle. -/
def Row.passes (r : Row) : Nat :=
  max 1 ((List.range (r.L / 32)).countP (fun k => (r.arm.em >>> (32 * k)).setWidth 32 != (0 : W32)))

/-- The row has paid for what a grant debited. -/
def Row.paid (r : Row) : Row := { r with prepaid := 0 }
/-- The row waits for nothing. -/
def Row.ready (r : Row) : Row := { r with wait := none }

/-- R376, R377: the row's domain owes the units of each issue cycle in its own clk; a grant has debited the first. -/
def State.charge (s : State) (n units cycles : Nat) : State :=
  (s.modDom (domOf n) (fun d => { d with
    due := d.due ++ [(cycles - (if (s.row n).prepaid = 0 then 0 else 1), units)] })).modRow n Row.paid

/-- The state of an instruction that has acted, changed. -/
def Res.after (f : State → State) : Res → Res
  | .done s => .done (f s)
  | .jump s sw => .jump (f s) sw
  | .halt s => .halt (f s)
  | r => r

/-- The word at the pc, as csr.tval of ILL_ENC holds it. -/
def Row.curWord (r : Row) : W64 := (r.arm.word).getD 0

/-- A new wait begins, or the same one goes on (R167). -/
def State.waitFor (s : State) (n : Nat) (w : Wait) : State :=
  s.modRow n (fun r => if r.wait == some w then r else { r with wait := some w, waitSince := s.rowClk n })

/-- The outcome of a body, for row n. -/
def settle (n : Nat) (y : Bool) : Res → Host.Outcome State Fault Refusal
  | .done s => .next (s.modRow n (fun r => r.advance.ready))
  | .jump s sw => .next (s.modRow n (fun r => (if sw then r.endClause y else r).ready))
  | .trap c t s => .next (s.trapHere n c t)
  | .wait w s => .next (s.waitFor n w)
  | .halt s => .next (s.modRow n Row.ready)

/-- The first register number at or above the count (R118). -/
def Row.badReg (r : Row) (l : List Nat) : Option Nat := l.find? (fun x => r.vcount ≤ x)

/-- R383: a unit becomes idle at `clk`; without a hint it may start its hold. -/
def Bank.rest (E H : Nat) (clk : W64) (b : Bank) : Bank :=
  { b with
    idleSince := some clk
    hold := if b.hint.isNone && E ≤ b.last && 2 ≤ b.conf then some (clk + BitVec.ofNat 64 H) else none }

/-- R383: a use ends an idle interval; within a hold the confidence falls. -/
def Bank.use (clk : W64) (b : Bank) : Bank :=
  { b with
    last := (match b.idleSince with | some t => (clk - t).toNat | none => b.last)
    conf := if b.hold.isSome then b.conf - 1 else b.conf
    hint := if b.idleSince.isSome then none else b.hint
    hold := none
    idleSince := none }

/-- R383, R384: something needs a banked unit, which is to be stoked: its idle interval ends and updates the predictor. -/
def Bank.ask (E : Nat) (clk : W64) (b : Bank) : Bank :=
  if b.banked && !b.asked then
    let len := match b.idleSince with | some t => (clk - t).toNat | none => b.last
    { b with asked := true, idleSince := none, hint := none, hold := none, last := len
             conf := if E ≤ len then min 3 (b.conf + 1) else b.conf - 1 }
  else b

/-- Constants of Table 17-2. -/
def fpE : Nat := 512
def fpH : Nat := 64
def matE : Nat := 2048
def matH : Nat := 256

def Row.askFp (clk : W64) (r : Row) : Row := { r with fp := r.fp.ask fpE clk }
def Row.askMat (clk : W64) (r : Row) : Row := { r with mat := r.mat.ask matE clk }

/-- A use of the vector FP datapath at a clk, after which it is idle (R382, R383). -/
def Row.useFp (clk : W64) (r : Row) : Row := { r with fp := (r.fp.use clk).rest fpE fpH clk }

/-- An issued word: encoding causes, then, where `go` says that it acts, IDEM_NEST, PRIV, interlocks and the body, which
reads registers through the view of R50. Where it does not act, the pc moves on. -/
def issueWord (p : Plan) (go : Row → Bool) (body : State → Nat → Row → Res) (s : State) :
    Host.Outcome State Fault Refusal :=
  let n := s.cur
  let r := s.row n
  let y := r.arm.clause.y
  let v := r.view s.drawn
  let s1 := s.draw
  if p.illegal r then settle n y (.trap cIllEnc r.curWord s1)
  else match r.badReg (p.regs ++ p.regsOf r) with
    | some k => settle n y (.trap cIllEnc (BitVec.ofNat 64 k) s1)
    | none =>
      let pay := fun s => State.charge s n p.units (p.cycles v)
      if !go v then settle n y (.done (pay s1))
      else if p.nest && r.region.isSome && !r.handler then settle n y (.trap cIdemNest 1 s1)
      else if p.priv && r.handler then settle n y (.trap cPriv 0 s1)
      else if p.hold r then settle n y (.wait .array s1)
      else if p.access && r.heldBy then settle n y (.wait .memory s1)
      else if p.fp && r.fp.banked then settle n y (.wait (.stoke true) (s1.modRow n (Row.askFp (s1.rowClk n))))
      else
        let s2 := if p.fp then s1.modRow n (Row.useFp (s1.rowClk n)) else s1
        settle n y ((body s2 n v).after pay)

/-- A scalar-class word: its guard decides (R53). -/
def issueQ (p : Plan) (g : Guard) (body : State → Nat → Row → Res) : State → Host.Outcome State Fault Refusal :=
  issueWord p (fun r => r.guardQ g) body

/-- A lane-class word that acts where some lane acts (R80). -/
def issueL (p : Plan) (g : Guard) (body : State → Nat → Row → Res) : State → Host.Outcome State Fault Refusal :=
  issueWord p (fun r => r.anyActs g) body

/-- A word with an effect whatever its lanes hold (R80, R81). -/
def issueAll (p : Plan) (body : State → Nat → Row → Res) : State → Host.Outcome State Fault Refusal :=
  issueWord p (fun _ => true) body

/-- The body of a word that only changes its row. -/
def onRow (f : Row → Row → Row) : State → Nat → Row → Res := fun s n v => .done (s.modRow n (fun r => f r v))

/-- Write vd in each of the lanes given. -/
def Row.setLanes (r : Row) (d : Nat) (ls : List Nat) (f : Nat → W32) : Row :=
  { r with v := tsets 0 r.v (ls.map (fun l => (r.L * d + l, f l))) }

/-- Write predicate pd in each of the lanes given. -/
def Row.setPreds (r : Row) (d : Nat) (ls : List Nat) (f : Nat → Bool) : Row :=
  if d = 0 then r else { r with p := tset 0 r.p d (ls.foldl (fun m l => setLane m l (f l)) (tget 0 r.p d)) }

/-- OR bits into csr.fflags (R125). -/
def Row.orFlags (r : Row) (f : Flags) : Row := { r with csr := { r.csr with fflags := r.csr.fflags ||| f } }

end Sys2Proof.Machine
end

