-- ==== Sys2Proof/Machine/Operands.lean ====
section
/-! DEFINITION. Operand forms: immediates, source modifiers (R59, R60), integer elements of a lane (Table 05-3), and
saturation. -/

namespace Sys2Proof.Machine

/-- SExt(imm, 27) in 64 bits. -/
def imm64 (i : BitVec 27) : W64 := i.signExtend 64
/-- SExt(imm, 27)[31:0]. -/
def imm32 (i : BitVec 27) : W32 := i.signExtend 32

/-- Segment size of a modifier (Table 05-2), 0 for none. -/
def amodSeg : Amod → Nat
  | .none => 0
  | .rot s _ => 2 ^ (s.toNat + 1)
  | .bfly s _ => 2 ^ (s.toNat + 1)
  | .bcast s _ => 2 ^ (s.toNat + 1)

/-- R60: a segment wider than the thread is refused at issue. -/
def amodWide (m : Amod) (r : Row) : Bool := r.L < amodSeg m

/-- The lane that Src(a, l) reads (R59). -/
def srcLane (m : Amod) (l : Nat) : Nat :=
  match m with
  | .none => l
  | .rot s d => let S := 2 ^ (s.toNat + 1); let base := l - l % S; base + (l - base + d.toNat) % S
  | .bfly _ d => l ^^^ 2 ^ d.toNat
  | .bcast s d => let S := 2 ^ (s.toNat + 1); l - l % S + d.toNat

/-- Src(a, l) of a vector register (R59). -/
def Row.src (r : Row) (a : VReg) (m : Amod) (l : Nat) : W32 := r.vreg a.toNat (srcLane m l)
/-- Src(a, l) of a lane predicate (Table 03-6). -/
def Row.srcP (r : Row) (a : PReg) (m : Amod) (l : Nat) : Bool := (r.preg a.toNat).getLsbD (srcLane m l)

/-- A segment code of VRED, VSCAN, VFRED or VPERM names more lanes than the thread has (R124, R132). -/
def segWide {n : Nat} (code : BitVec n) (r : Row) : Bool := r.L < 2 ^ (code.toNat + 1)

/-- Sat(x, -2^(w-1), 2^(w-1)-1). -/
def satS (w : Nat) (x : Int) : BitVec w :=
  if x < -(2 ^ (w - 1) : Int) then BitVec.ofInt w (-(2 ^ (w - 1) : Int))
  else if (2 ^ (w - 1) : Int) - 1 < x then BitVec.ofInt w ((2 ^ (w - 1) : Int) - 1)
  else BitVec.ofInt w x

/-- Sat(x, 0, 2^w-1). -/
def satU (w : Nat) (x : Int) : BitVec w :=
  if x < 0 then 0 else if (2 ^ w : Int) - 1 < x then BitVec.ofInt w ((2 ^ w : Int) - 1) else BitVec.ofInt w x

/-- Leading zero bits of a value, w for zero. -/
def clzOf {w : Nat} (x : BitVec w) : Nat := if x = 0 then w else w - 1 - Nat.log2 x.toNat
/-- One bits of a value. -/
def popcOf {w : Nat} (x : BitVec w) : Nat := (List.range w).countP (fun i => x.getLsbD i)

/-- Bits of an element (Table 05-3). -/
def vwBits : VW → Nat
  | .w32 => 32
  | .w16 => 16
  | .w8 => 8

/-- Element e of a lane word, for w bits an element. -/
def elemAt (w : Nat) (x : W32) (e : Nat) : BitVec w := x.extractLsb' (w * e) w

/-- A lane word with element e replaced. -/
def setElem (w : Nat) (x : W32) (e : Nat) (v : BitVec w) : W32 :=
  (x &&& ~~~(BitVec.ofNat 32 ((2 ^ w - 1) * 2 ^ (w * e)))) ||| BitVec.ofNat 32 (v.toNat * 2 ^ (w * e))

/-- A function applied to each pair of elements of two lane words (R120). -/
def zipElems (w : Nat) (f : BitVec w → BitVec w → BitVec w) (x y : W32) : W32 :=
  (List.range (32 / w)).foldl (fun acc e => setElem w acc e (f (elemAt w x e) (elemAt w y e))) 0

end Sys2Proof.Machine
end

