-- ==== Sys2Proof/Machine/Flags.lean ====
section
/-! DEFINITION. Float formats, exact values, the one rounding of every float instruction and the flags it raises
(R125, R126, R136, R147). -/

namespace Sys2Proof.Machine

/-! ### csr.fflags (R125) -/

def fInexact : Flags := 1
def fUnderflow : Flags := 2
def fOverflow : Flags := 4
def fDivzero : Flags := 8
def fInvalid : Flags := 16
def fNF : Flags := 32

/-- A flag bit raised where a condition holds. -/
def flagIf (b : Bool) (f : Flags) : Flags := if b then f else 0

/-! ### Formats (Table 06-1) -/

/-- Exponent and fraction widths of a format. -/
structure FFmt where
  eb : Nat
  mb : Nat
  deriving DecidableEq, Repr

def fmt32 : FFmt := ⟨8, 23⟩
def fmt16 : FFmt := ⟨5, 10⟩
def fmtB16 : FFmt := ⟨8, 7⟩
def ftyFmt : FTy → FFmt
  | .f32 => fmt32
  | .f16 => fmt16
  | .bf16 => fmtB16

def FFmt.bias (f : FFmt) : Int := 2 ^ (f.eb - 1) - 1
def FFmt.width (f : FFmt) : Nat := 1 + f.eb + f.mb
/-- Exponent of the smallest subnormal's unit. -/
def FFmt.umin (f : FFmt) : Int := 1 - f.bias - f.mb
/-- Exponent of the largest finite value's unit. -/
def FFmt.umax (f : FFmt) : Int := f.bias - f.mb
/-- The bits of +Inf, the largest finite value, and the canonical quiet NaN (R126). -/
def FFmt.infBits (f : FFmt) : Nat := (2 ^ f.eb - 1) * 2 ^ f.mb
def FFmt.maxBits (f : FFmt) : Nat := f.infBits - 1
def FFmt.nanBits (f : FFmt) : Nat := f.infBits + 2 ^ (f.mb - 1)
def FFmt.signBit (f : FFmt) : Nat := 2 ^ (f.eb + f.mb)
def FFmt.signed (f : FFmt) (neg : Bool) (b : Nat) : Nat := if neg then b + f.signBit else b

/-- A decoded float: a NaN and whether it signals, an infinity, or (-1)^neg · m · 2^e. -/
inductive FVal where
  | nan (sig : Bool)
  | inf (neg : Bool)
  | fin (neg : Bool) (m : Nat) (e : Int)
  deriving DecidableEq, Repr

/-- R136. -/
def FFmt.decode (f : FFmt) (b : Nat) : FVal :=
  let neg := f.signBit ≤ b % (2 * f.signBit)
  let x := b % f.signBit
  let ex := x / 2 ^ f.mb
  let fr := x % 2 ^ f.mb
  if ex = 2 ^ f.eb - 1 then (if fr = 0 then .inf neg else .nan (fr < 2 ^ (f.mb - 1)))
  else if ex = 0 then .fin neg fr f.umin
  else .fin neg (fr + 2 ^ f.mb) (f.umin + ex - 1)

def FVal.isNan : FVal → Bool
  | .nan _ => true
  | _ => false
def FVal.isSNan : FVal → Bool
  | .nan s => s
  | _ => false
def FVal.isInf : FVal → Bool
  | .inf _ => true
  | _ => false
def FVal.finite : FVal → Bool
  | .fin .. => true
  | _ => false
def FVal.isZero : FVal → Bool
  | .fin _ m _ => m = 0
  | _ => false
def FVal.neg : FVal → Bool
  | .nan _ => false
  | .inf n => n
  | .fin n _ _ => n
def FVal.flip : FVal → FVal
  | .nan s => .nan s
  | .inf n => .inf !n
  | .fin n m e => .fin (!n) m e

/-- Bits of a number: floor(log2) + 1, 0 for 0. -/
def bitLen (m : Nat) : Nat := if m = 0 then 0 else Nat.log2 m + 1

/-! ### Rounding (R126) -/

/-- Whether a magnitude rounds up: q kept, rem of 2^shift discarded, sticky below that. -/
def roundsUp (mode : Rnd) (neg : Bool) (q rem shift : Nat) (sticky : Bool) : Bool :=
  match mode with
  | .rne =>
    if shift = 0 then false
    else 2 ^ (shift - 1) < rem || (rem == 2 ^ (shift - 1) && (sticky || q % 2 == 1))
  | .rtz => false
  | .rup => !neg && (rem != 0 || sticky)
  | .rdn => neg && (rem != 0 || sticky)

/-- m · 2^e (plus something below its last bit when sticky) brought to unit 2^u: the integer and whether it is inexact. -/
def roundAt (mode : Rnd) (neg : Bool) (m : Nat) (e u : Int) (sticky : Bool) : Nat × Bool :=
  if u ≤ e then (m * 2 ^ (e - u).toNat, sticky)
  else
    let sh := (u - e).toNat
    let q := m / 2 ^ sh
    let rem := m % 2 ^ sh
    (q + (roundsUp mode neg q rem sh sticky).toNat, rem != 0 || sticky)

/-- An overflowing result (R126). -/
def FFmt.overflowBits (f : FFmt) (mode : Rnd) (neg : Bool) : Nat :=
  match mode with
  | .rne => f.signed neg f.infBits
  | .rtz => f.signed neg f.maxBits
  | .rup => if neg then f.signed neg f.maxBits else f.infBits
  | .rdn => if neg then f.signed neg f.infBits else f.maxBits

/-- The bits of q · 2^u, for a q of at most p bits, or 2^p, and u at least the smallest unit. -/
def FFmt.pack (f : FFmt) (neg : Bool) (q : Nat) (u : Int) : Nat :=
  f.signed neg (if q < 2 ^ f.mb then q else ((u - f.umin).toNat + 1) * 2 ^ f.mb + (q - 2 ^ f.mb))

/-- An exact value rounded once (R126): its bits and the flags it raises, NF among them. -/
def FFmt.round (f : FFmt) (mode : Rnd) (neg : Bool) (m : Nat) (e : Int) (sticky : Bool := false) : Nat × Flags :=
  if m = 0 && !sticky then (f.signed neg 0, 0)
  else
    let un := e + bitLen m - (f.mb + 1)
    let u := max un f.umin
    let (q, inex) := roundAt mode neg m e u sticky
    if f.umax < u || (u = f.umax && 2 ^ (f.mb + 1) ≤ q) then
      let b := f.overflowBits mode neg
      (b, fOverflow ||| fInexact ||| flagIf (f.infBits ≤ b % f.signBit) fNF)
    else
      -- tiny: rounded as though the exponent range were unbounded, below the smallest normal value
      let (qn, _) := roundAt mode neg m e un sticky
      let tiny := un < f.umin && (bitLen qn : Int) + un ≤ f.umin + f.mb
      (f.pack neg q u, flagIf inex fInexact ||| flagIf (inex && tiny) fUnderflow)

/-- The canonical NaN with the flags of an operation: invalid where it is set, and NF. -/
def FFmt.nanOut (f : FFmt) (invalid : Bool) : Nat × Flags := (f.nanBits, flagIf invalid fInvalid ||| fNF)
def FFmt.infOut (f : FFmt) (neg : Bool) : Nat × Flags := (f.signed neg f.infBits, fNF)

/-- NF for operands that are not finite (R125). -/
def nfOf (l : List FVal) : Flags := flagIf (l.any (fun x => !x.finite)) fNF

/-- The sum of two signed finite values: sign, magnitude and exponent, with the zero sign of R126. -/
def addFin (mode : Rnd) (n1 : Bool) (m1 : Nat) (e1 : Int) (n2 : Bool) (m2 : Nat) (e2 : Int) : Bool × Nat × Int :=
  let e := min e1 e2
  let a : Int := (if n1 then -1 else 1) * (m1 * 2 ^ (e1 - e).toNat : Nat)
  let b : Int := (if n2 then -1 else 1) * (m2 * 2 ^ (e2 - e).toNat : Nat)
  let c := a + b
  if c = 0 then ((if n1 == n2 then n1 else mode == .rdn), 0, e) else (decide (c < 0), c.natAbs, e)

/-- A + B (R127). -/
def FFmt.add (f : FFmt) (mode : Rnd) (x y : FVal) : Nat × Flags :=
  match x, y with
  | .nan s, y => f.nanOut (s || y.isSNan)
  | _, .nan s => f.nanOut s
  | .inf a, .inf b => if a == b then f.infOut a else f.nanOut true
  | .inf a, _ => f.infOut a
  | _, .inf b => f.infOut b
  | .fin n1 m1 e1, .fin n2 m2 e2 =>
    let (n, m, e) := addFin mode n1 m1 e1 n2 m2 e2
    f.round mode n m e

/-- A × B (R127). -/
def FFmt.mul (f : FFmt) (mode : Rnd) (x y : FVal) : Nat × Flags :=
  match x, y with
  | .nan s, y => f.nanOut (s || y.isSNan)
  | _, .nan s => f.nanOut s
  | .inf a, y => if y.isZero then f.nanOut true else f.infOut (a != y.neg)
  | x, .inf b => if x.isZero then f.nanOut true else f.infOut (x.neg != b)
  | .fin n1 m1 e1, .fin n2 m2 e2 => f.round mode (n1 != n2) (m1 * m2) (e1 + e2)

/-- A × B + D, rounded once (R128). -/
def FFmt.fma (f : FFmt) (mode : Rnd) (x y d : FVal) : Nat × Flags :=
  let bad := (x.isInf && y.isZero) || (x.isZero && y.isInf)
  let sig := x.isSNan || y.isSNan || d.isSNan
  if x.isNan || y.isNan || d.isNan || bad then f.nanOut (sig || bad)
  else
    let pn := x.neg != y.neg
    if x.isInf || y.isInf then (match d with | .inf b => if b == pn then f.infOut pn else f.nanOut true | _ => f.infOut pn)
    else match x, y, d with
      | .fin _ m1 e1, .fin _ m2 e2, .fin n3 m3 e3 =>
        let (n, m, e) := addFin mode pn (m1 * m2) (e1 + e2) n3 m3 e3
        f.round mode n m e
      | _, _, .inf b => f.infOut b
      | _, _, _ => f.nanOut false

/-- x < y for two numbers, with −0 = +0. -/
def FVal.lt (x y : FVal) : Bool :=
  match x, y with
  | .nan _, _ | _, .nan _ => false
  | .inf a, .inf b => a && !b
  | .inf a, _ => a
  | _, .inf b => !b
  | .fin n1 m1 e1, .fin n2 m2 e2 =>
    let e := min e1 e2
    let a : Int := (if n1 then -1 else 1) * (m1 * 2 ^ (e1 - e).toNat : Nat)
    let b : Int := (if n2 then -1 else 1) * (m2 * 2 ^ (e2 - e).toNat : Nat)
    a < b
def FVal.numEq (x y : FVal) : Bool := !x.isNan && !y.isNan && !x.lt y && !y.lt x

/-- The smaller or larger value (R127): a NaN yields the other operand, −0 < +0, two NaNs give NaN. -/
def FFmt.minmax (f : FFmt) (wantMax : Bool) (xb yb : Nat) : Nat × Flags :=
  let x := f.decode xb
  let y := f.decode yb
  let sig := flagIf (x.isSNan || y.isSNan) fInvalid ||| nfOf [x, y]
  if x.isNan && y.isNan then (f.nanBits, sig)
  else if x.isNan then (yb, sig)
  else if y.isNan then (xb, sig)
  else
    let xLess := x.lt y || (!y.lt x && x.neg && !y.neg)
    (if xLess != wantMax then xb else yb, sig)

/-- A / B (R130). -/
def FFmt.div (f : FFmt) (mode : Rnd) (x y : FVal) : Nat × Flags :=
  match x, y with
  | .nan s, y => f.nanOut (s || y.isSNan)
  | _, .nan s => f.nanOut s
  | .inf _, .inf _ => f.nanOut true
  | .inf a, y => f.infOut (a != y.neg)
  | x, .inf b => (f.signed (x.neg != b) 0, fNF)
  | .fin n1 m1 e1, .fin n2 m2 e2 =>
    if m2 = 0 then
      if m1 = 0 then f.nanOut true
      else let (b, fl) := f.infOut (n1 != n2); (b, fl ||| fDivzero)
    else
      let k : Nat := 160
      f.round mode (n1 != n2) (m1 * 2 ^ k / m2) (e1 - e2 - (k : Int)) (m1 * 2 ^ k % m2 != 0)

/-! ### Elementary functions (R129) -/

/-- floor(√n), by the k low bits of the root, from the value r found so far. -/
def isqrtFrom : Nat → Nat → Nat → Nat
  | 0, _, r => r
  | k + 1, n, r => isqrtFrom k n (if (r + 2 ^ k) * (r + 2 ^ k) ≤ n then r + 2 ^ k else r)
def isqrt (n : Nat) : Nat := isqrtFrom (bitLen n / 2 + 1) n 0

/-- m · 2^e with an even exponent. -/
def evenExp (m : Nat) (e : Int) : Nat × Int := if e % 2 = 0 then (m, e) else (2 * m, e - 1)

/-- √(m · 2^e): digits, exponent, inexact. -/
def sqrtDigits (m : Nat) (e : Int) : Nat × Int × Bool :=
  let (m, e) := evenExp m e
  let r := isqrt (m * 2 ^ 160)
  (r, e / 2 - 80, r * r != m * 2 ^ 160)

/-- 1 / √(m · 2^e). -/
def rsqDigits (m : Nat) (e : Int) : Nat × Int × Bool :=
  let (m, e) := evenExp m e
  let r := isqrt (2 ^ 320 / m)
  (r, -(e / 2) - 160, r * r * m != 2 ^ 320)

/-- ln 2 · 2^512, rounded down. -/
def ln2Fix : Nat := 0xb17217f7d1cf79abc9e3b39803f2f6af40f343267298b62d8a0d175b8baafa2be7b876206debac98559552fb4afa1b10ed2eae35c138214427573b291169b825

/-- Σ of the terms x^k / k! from k on, in units of 2^-512, with t the term of k - 1. -/
def expSum : Nat → Nat → Nat → Nat → Nat
  | 0, _, _, _ => 0
  | fuel + 1, k, x, t => let t' := t * x / 2 ^ 512 / k; t' + expSum fuel (k + 1) x t'

/-- 2^(f / 2^n) in units of 2^-512 for 0 ≤ f < 2^n (log entry 18). -/
def exp2Fix (f n : Nat) : Nat :=
  let x := f * ln2Fix / 2 ^ n
  2 ^ 512 + expSum 120 1 x (2 ^ 512)

/-- The k binary digits of log2 of y / 2^1024, for 1 ≤ y / 2^1024 < 2, after the digits found so far (log entry 18). -/
def log2Digits : Nat → Nat → Nat → Nat
  | 0, _, acc => acc
  | k + 1, y, acc =>
    let z := y * y / 2 ^ 1024
    if 2 ^ 1025 ≤ z then log2Digits k (z / 2) (2 * acc + 1) else log2Digits k z (2 * acc)

/-- 2^x for a finite x (R129). -/
def FFmt.exp2 (f : FFmt) (mode : Rnd) (neg : Bool) (m : Nat) (e : Int) : Nat × Flags :=
  if 0 ≤ e || m = 0 then
    let k : Int := if 20 < e then 1048576 else m * 2 ^ e.toNat
    f.round mode false 1 (max (-2000) (min 2000 (if neg then -k else k)))
  else
    let n := (-e).toNat
    let v : Int := if neg then -(m : Int) else m
    let i := v / (2 ^ n : Int)
    let fr := (v % (2 ^ n : Int)).toNat
    if fr = 0 then f.round mode false 1 (max (-2000) (min 2000 i))
    else f.round mode false (exp2Fix fr n) (max (-2000) (min 2000 i) - 512) true

/-- log2 of a positive finite value (R129). -/
def FFmt.log2 (f : FFmt) (mode : Rnd) (m : Nat) (e : Int) : Nat × Flags :=
  let len := bitLen m
  let n : Int := e + len - 1
  if m = 2 ^ (len - 1) then f.round mode (decide (n < 0)) n.natAbs 0
  else
    let v : Int := n * 2 ^ 400 + log2Digits 400 (m * 2 ^ (1024 + 1 - len)) 0
    if v < 0 then f.round mode true (v.natAbs - 1) (-400) true else f.round mode false v.toNat (-400) true

/-- Table 05-7 and R129. -/
def FFmt.fun_ (f : FFmt) (op : FunOp) (mode : Rnd) (x : FVal) : Nat × Flags :=
  let nf := nfOf [x]
  match op, x with
  | _, .nan s => f.nanOut s
  | .rcp, .inf n => (f.signed n 0, nf)
  | .rsq, .inf n => if n then f.nanOut true else (0, nf)
  | .sqrt, .inf n => if n then f.nanOut true else f.infOut false
  | .exp2, .inf n => if n then (0, nf) else f.infOut false
  | .log2, .inf n => if n then f.nanOut true else f.infOut false
  | .rcp, .fin n m e =>
    if m = 0 then let (b, fl) := f.infOut n; (b, fl ||| fDivzero)
    else f.round mode n (2 ^ 200 / m) (-e - 200) (2 ^ 200 % m != 0)
  | .rsq, .fin n m e =>
    if m = 0 then let (b, fl) := f.infOut n; (b, fl ||| fDivzero)
    else if n then f.nanOut true
    else let (q, e', st) := rsqDigits m e; f.round mode false q e' st
  | .sqrt, .fin n m e =>
    if m = 0 then (f.signed n 0, 0)
    else if n then f.nanOut true
    else let (q, e', st) := sqrtDigits m e; f.round mode false q e' st
  | .exp2, .fin n m e => f.exp2 mode n m e
  | .log2, .fin n m e =>
    if m = 0 then let (b, fl) := f.infOut true; (b, fl ||| fDivzero)
    else if n then f.nanOut true
    else f.log2 mode m e

/-! ### Integers and integral values -/

/-- A finite value rounded to an integer: magnitude, and whether it changed. -/
def toIntegral (mode : Rnd) (neg : Bool) (m : Nat) (e : Int) : Nat × Bool := roundAt mode neg m e 0 false

/-- An exact integer scaled by 2^k and rounded to a format. -/
def FFmt.ofInt (f : FFmt) (mode : Rnd) (x : Int) (k : Int := 0) : Nat × Flags :=
  f.round mode (decide (x < 0)) x.natAbs k

/-! ### Stochastic rounding (R147) -/

/-- The integer part that RoundSto keeps of |x| = m · 2^e at unit 2^u, with k random bits r; e is x's own unit. -/
def stoInt (m : Nat) (e u : Int) (k r : Nat) : Nat :=
  if u ≤ e then m * 2 ^ (e - u).toNat
  else
    let d := (u - e).toNat
    let j := min k d
    let i := m / 2 ^ d
    let fr := m % 2 ^ d
    let up := decide (2 ^ j ≤ fr * 2 ^ j / 2 ^ d + r / 2 ^ (k - j))
    i + up.toNat

/-- RoundSto to a float format: bits and flags. -/
def FFmt.roundSto (f : FFmt) (neg : Bool) (m : Nat) (e : Int) (k r : Nat) : Nat × Flags :=
  if m = 0 then (f.signed neg 0, 0)
  else
    let u := max (e + bitLen m - (f.mb + 1)) f.umin
    let q := stoInt m e u k r
    let inex := decide (u > e) && m % 2 ^ (u - e).toNat != 0
    if f.umax < u || (u = f.umax && 2 ^ (f.mb + 1) ≤ q) then
      (f.signed neg f.infBits, fOverflow ||| fInexact ||| fNF)
    else
      let tiny := decide ((bitLen q : Int) + u ≤ f.umin + f.mb)
      (f.pack neg q u, flagIf inex fInexact ||| flagIf (inex && tiny) fUnderflow)

end Sys2Proof.Machine
end

