-- ==== Sys2Proof/Machine/Memory.lean ====
section
/-! DEFINITION. Side memory and HBM as bytes, far caches, owner tags, translation and clause fetch (R224 to R231, R244,
R42, R43). A byte of HBM has its physical address as its key; a byte of side memory its address of Table 10-1. -/

namespace Sys2Proof.Machine

/-! ### Home memory: each byte at its own vault or memory die -/

/-- Bit 55 as a number: the first byte of side memory. -/
def sideBase : Nat := 2 ^ 55
/-- What a byte reads that nothing has written: zero, and, of HBM once its key has changed, a free value (R228, R408; log entries 5
and 12). -/
def Job.unwritten (j : Job) (a : Nat) : W8 := if j.era = 0 || sideBase ≤ a then 0 else Config.rekeyed j.era a
/-- A byte of memory, which the list holds as its difference from an unwritten one. -/
def Job.byte (j : Job) (a : Nat) : W8 := tget 0 j.mem a ^^^ j.unwritten a
def State.byte (s : State) (a : Nat) : W8 := s.job.byte a
def State.setByte (s : State) (a : Nat) (b : W8) : State :=
  s.modJob (fun j => { j with mem := tset 0 j.mem a (b ^^^ j.unwritten a) })
/-- The n bytes from an address, lowest first. -/
def State.bytes (s : State) (a n : Nat) : List W8 := (List.range n).map (fun i => s.byte (a + i))
/-- Bytes written at consecutive addresses. -/
def State.setBytes (s : State) : Nat → List W8 → State
  | _, [] => s
  | a, b :: l => (s.setByte a b).setBytes (a + 1) l

/-- R1: multi-byte values are little-endian. -/
def leVal (l : List W8) : Nat := l.foldr (fun b acc => b.toNat + 256 * acc) 0
def leList : Nat → Nat → List W8
  | 0, _ => []
  | n + 1, x => BitVec.ofNat 8 x :: leList n (x / 256)

def State.word (s : State) (a n : Nat) : Nat := leVal (s.bytes a n)
def State.w64 (s : State) (a : Nat) : W64 := BitVec.ofNat 64 (s.word a 8)
def State.setWord (s : State) (a n x : Nat) : State := s.setBytes a (leList n x)

/-! ### Side-memory addresses (Table 10-1) -/

/-- R224: the cause of an address that a row cannot load or store. -/
def sideFault (a : W64) : Option W8 :=
  if a.extractLsb' 56 8 != 0 then some cBounds
  else if !a.getLsbD 55 then some cProt
  else if a.extractLsb' 34 21 != 0 || a.extractLsb' 29 3 != 0 then some cBounds
  else none

/-- The die whose stack holds a side-memory byte. -/
def sideDie (a : Nat) : Nat := a / 2 ^ 32 % 4
/-- The page number of R243. -/
def sidePage (a : Nat) : Nat := 8192 * (a / 2 ^ 32 % 4) + 256 * (a / 2 ^ 24 % 32) + a / 2 ^ 16 % 256
/-- The granule of a page that holds a byte, as a key of `Job.owner`. -/
def granuleOf (a : Nat) : Nat := 1024 * sidePage a + a / 64 % 1024

/-- No owner (R243). -/
def noOwner : BitVec 10 := 0x3FF
def State.checked (s : State) (a : Nat) : Bool := tget false s.job.checked (sidePage a)
def State.owner (s : State) (a : Nat) : BitVec 10 := tget noOwner s.job.owner (granuleOf a)
def State.setOwner (s : State) (a : Nat) (o : BitVec 10) : State :=
  s.modJob (fun j => { j with owner := tset noOwner j.owner (granuleOf a) o })
/-- R244: an access on behalf of row n meets a granule of another row. -/
def State.denied (s : State) (n : Nat) (a : Nat) : Bool :=
  s.checked a && s.owner a != noOwner && s.owner a != BitVec.ofNat 10 n

/-! ### Far caches (R227; log entry 10) -/

/-- Die d's far cache serves this byte: another die's side memory, in a page that is not checked. -/
def State.cacheable (s : State) (d a : Nat) : Bool := sideBase ≤ a && sideDie a != d && !s.checked a
def State.farAt (s : State) (d a : Nat) : Option FarByte := tget none (s.die d).far a
def State.setFar (s : State) (d a : Nat) (x : Option FarByte) : State :=
  s.modDie d (fun y => { y with far := tset none y.far a x })

/-- The bytes of a 64-byte line. -/
def lineOf (a : Nat) : List Nat := (List.range 64).map (fun i => a / 64 * 64 + i)

/-- A line that the cache does not hold whole is read from home, but for its dirty bytes, and its clean bytes are of one draw
(R268). -/
def State.fillLine (s : State) (d a : Nat) : State :=
  if (lineOf a).all (fun b => (s.farAt d b).isSome) then s
  else ((lineOf a).foldl (fun s b => match s.farAt d b with
    | some ⟨_, true, _⟩ => s
    | _ => s.setFar d b (some ⟨s.byte b, false, s.drawn⟩)) s).draw

/-- Dirty bytes of die d that `keep` names go home; they stay as clean copies. -/
def State.writeBackIf (s : State) (d : Nat) (f : Nat → Bool) : State :=
  ((s.die d).far.foldl (fun s e =>
    match e.2 with
    | some ⟨v, true, _⟩ => if f e.1 then (s.setByte e.1 v).setFar d e.1 (some ⟨v, false, s.drawn⟩) else s
    | _ => s) s).draw
def State.writeBack (s : State) (d : Nat) : State := s.writeBackIf d (fun _ => true)
/-- Clean bytes that `f` names are dropped. -/
def State.dropIf (s : State) (d : Nat) (f : Nat → Bool) : State :=
  s.modDie d (fun y => { y with far := y.far.filter (fun e => match e.2 with | some x => x.dirty || !f e.1 | none => false) })
def State.dropClean (s : State) (d : Nat) : State := s.dropIf d (fun _ => true)
/-- Bytes leave the cache, written back first where dirty. -/
def State.flushIf (s : State) (d : Nat) (f : Nat → Bool) : State := (s.writeBackIf d f).dropIf d f

/-- Whether an operation at a scope reaches beyond the die. -/
def Scope.wide : Sys2Proof.Scope → Bool
  | .device | .system => true
  | _ => false

/-- Release and acquire of an agent of die d at a scope: the far cache's part (R241). -/
def State.releaseAt (s : State) (d : Nat) (sc : Sys2Proof.Scope) : State := if Scope.wide sc then s.writeBack d else s
def State.acquireAt (s : State) (d : Nat) (sc : Sys2Proof.Scope) : State := if Scope.wide sc then s.dropClean d else s

/-! ### Translation (R229 to R231) -/

inductive Use where
  | read | write | fetch | atomic
  deriving DecidableEq, Repr

/-- What a leaf must allow for a use. -/
def leafAllows (e : W64) : Use → Bool
  | .read => true
  | .write => e.getLsbD 2
  | .fetch => e.getLsbD 3
  | .atomic => e.getLsbD 4

/-- The physical address of an entry. -/
def entryPa (e : W64) : Nat := (e.extractLsb' 8 44).toNat * 256
/-- Reserved fields of an entry. -/
def entryClean (e : W64) : Bool := e.extractLsb' 5 3 == 0 && e.extractLsb' 52 12 == 0

/-- The lower end, the width and the next table's alignment of each level below the root (Table 10-3). -/
structure PtLevel where
  lo : Nat
  bits : Nat
  /-- Alignment of the table an entry points at, none at level 5. -/
  next : Option Nat
  /-- Size of the page an entry may map. -/
  page : Option Nat

def ptLevels : List PtLevel :=
  [⟨48, 7, some 4096, none⟩, ⟨39, 9, some 4096, none⟩, ⟨30, 9, some 4096, none⟩, ⟨21, 9, some 256, some (2 ^ 21)⟩,
   ⟨16, 5, none, some (2 ^ 16)⟩]

/-- Key of a cached entry: unit 0 to 3 a die, 4 X; the level; and the part of the address that chooses the entry. -/
def tlbKey (u lo va : Nat) : Nat := (u * 64 + lo) * 2 ^ 56 + va / 2 ^ lo

/-- An entry of the table as a unit finds it: as it stands in memory, which the unit then holds, or as the unit held it
(R231). -/
def State.entryAt (s : State) (u lo va at_ : Nat) : W64 × State :=
  match tget none s.job.tlb (tlbKey u lo va), Config.freeBit s.drawn lo with
  | some e, true => (e, s)
  | _, _ =>
    let e := s.w64 at_
    (e, s.modJob (fun j => { j with tlb := tset none j.tlb (tlbKey u lo va) (some e) }))

/-- A walk from a table (R229, R230): the leaf with the physical address of the 64 KiB page, none for XLATE. -/
def walk (u va : Nat) : List PtLevel → Nat → State → Option W64 × State
  | [], _, s => (none, s)
  | l :: rest, table, s =>
    let (e, s) := s.entryAt u l.lo va (table + 8 * (va / 2 ^ l.lo % 2 ^ l.bits))
    if !e.getLsbD 0 || !entryClean e then (none, s)
    else if e.getLsbD 1 then
      match l.page with
      | some size =>
        if entryPa e % size = 0 && entryPa e < 2 ^ 39 then
          (some (BitVec.ofNat 64 ((e.toNat % 32) + (entryPa e + va % size / 65536 * 65536))), s)
        else (none, s)
      | none => (none, s)
    else
      match l.next with
      | some al => if e.extractLsb' 2 3 == 0 && entryPa e % al = 0 then walk u va rest (entryPa e) s else (none, s)
      | none => (none, s)

/-- A walk by unit u from the root. -/
def State.lookup (s : State) (u va : Nat) : Option W64 × State :=
  let (e, s) := walk u va ptLevels s.job.root s
  (e, s.draw)

/-- The physical address of a global address for a use, or the cause (R230). -/
def State.translate (s : State) (u va : Nat) (use : Use) : Except W8 Nat × State :=
  match s.lookup u va with
  | (none, s) => (.error cXlate, s)
  | (some e, s) =>
    if leafAllows e use then (.ok (e.toNat / 65536 * 65536 + va % 65536), s) else (.error cProt, s)

/-! ### Addresses of agents that reach both spaces (R19) -/

/-- The key of a byte: translated where global, itself where side memory; BOUNDS for neither. -/
def State.reach (s : State) (u : Nat) (a : W64) (use : Use) : Except W8 Nat × State :=
  if a.getLsbD 55 then (match sideFault a with | some c => (.error c, s) | none => (.ok a.toNat, s))
  else if a.extractLsb' 56 8 != 0 then (.error cBounds, s)
  else s.translate u a.toNat use

/-! ### Clauses in memory (R42, R43, R47) -/

/-- The clause that a header word at an address begins, without its words, and its count (Table 02-1); none where R43
refuses it. -/
def headerOf (a : Va) (h : W64) : Option (Clause × Nat) :=
  let cls := h.extractLsb' 54 4
  let cnt := (h.extractLsb' 50 4).toNat
  let fa := h.extractLsb' 34 4
  let fb := h.extractLsb' 30 4
  let badFlag (f : BitVec 4) : Bool := f == 12 || f == 13 || f == 14
  let x := a.toNat
  if h.extractLsb' 58 6 != 0x37 || cls == 0 || badFlag fa || badFlag fb || h.extractLsb' 0 29 != 0
    || x % 8 != 0 || (x + 8 * (cnt + 2) - 1) / 4096 != x / 4096 then none
  else some (⟨a, cls, h.extractLsb' 38 12, fa, fb, h.getLsbD 29, []⟩, cnt)

/-- Commands that engines are at work on. -/
def State.cmdsNow (s : State) : List Cmd := s.job.dies.flatMap (fun d => d.2.engines.filterMap (fun e => e.2.cmd))

/-- Place and former value of each write to a byte by a command at work. -/
def State.undoAt (s : State) (a : Nat) : List (Nat × W8) := s.cmdsNow.filterMap (fun c => tget none c.undo a)

/-- A byte as it stood before the writes at places beyond `lo`, by the earliest of them. -/
def State.codeByte (s : State) (lo a : Nat) : W8 :=
  (((s.undoAt a).filter (fun x => lo < x.1)).foldl (fun b x => match b with
    | some y => if x.1 < y.1 then some x else some y
    | none => some x) none).elim (s.byte a) Prod.snd

/-- A clause read through a view of memory, without its words where its header is refused. -/
def clauseFrom (f : Nat → W8) (a : Va) (pa : Nat) : Option Clause :=
  let w (i : Nat) : W64 := BitVec.ofNat 64 (leVal ((List.range 8).map (fun k => f (pa + 8 * i + k))))
  (headerOf a (w 0)).map (fun (c, cnt) => { c with words := (List.range (cnt + 1)).map (fun i => w (i + 1)) })

/-- Code with the writes of one command, and without those that came after them. -/
def State.codeOver (s : State) (c : Cmd) (a : Nat) : W8 := s.codeByte (((tget none c.undo a).map Prod.fst).getD 0) a

/-- Only those of a command's writes are remembered that `keep` names by their byte and place. -/
def Cmd.forget (c : Cmd) (keep : Nat → Nat → Bool) : Cmd :=
  { c with undo := c.undo.filter (fun e => match e.2 with | some x => keep e.1 x.1 | none => false) }

/-- Every engine's command, changed. -/
def State.modCmds (s : State) (f : Cmd → Cmd) : State :=
  s.modJob (fun j => { j with dies := j.dies.map (fun d => (d.1, { d.2 with
    engines := d.2.engines.map (fun e => (e.1, { e.2 with cmd := e.2.cmd.map f })) })) })

/-- A write of code has completed at once: what stood at its bytes before is gone for every fetch (R47). -/
def State.codeLands (s : State) (a n : Nat) : State :=
  if a < sideBase && !s.cmdsNow.isEmpty then s.modCmds (fun c => c.forget (fun b _ => !(a ≤ b && b < a + n))) else s

/-- A command's writes of code are over: at each of its bytes no earlier write is remembered (R47). -/
def State.codeDone (s : State) (c : Cmd) : State :=
  if c.undo.isEmpty then s
  else s.modCmds (fun x => x.forget (fun b k => match tget none c.undo b with | some y => y.1 < k | none => true))

end Sys2Proof.Machine
end

