-- ==== Sys2Proof/Machine/Access.lean ====
section
/-! DEFINITION. How a row's outstanding accesses are performed: what each must wait for (R240, R241, R250), forwarding from
the store buffer (R237), the far cache (R227), and the atomic step (R264 to R270). -/

namespace Sys2Proof.Machine

/-- Two byte ranges meet. -/
def meets (a n b m : Nat) : Bool := a < b + m && b < a + n

/-! ### Matrix operands in memory (R178) -/

/-- Bytes of a block (R140, R176). -/
def blockBytes (fmt : Nat) : Nat := if fmt = 7 then 256 else 32 * (fmt + 1)

/-- Row pitch, tile pitch and rotation code of a layout word. -/
def pitchOf (sB : W64) : Nat := (sB.extractLsb' 0 24).toNat
def tileOf (sB : W64) : Nat := (sB.extractLsb' 24 24).toNat
def rotOf (sB : W64) : Nat := (sB.extractLsb' 48 4).toNat

/-- Address of byte b of block j (R178). -/
def blockAddr (sA sB : W64) (j b : Nat) : Nat :=
  let x := sA + BitVec.ofNat 64 (j * pitchOf sB + b)
  let g := ((x.extractLsb' 6 4).toNat + rotOf sB * (j % 16)) % 16
  (x.extractLsb' 10 54 ++ BitVec.ofNat 4 g ++ x.extractLsb' 0 6).toNat

/-- Address of block j's scale in the scale array (R178). -/
def scaleAddr (sA sB : W64) (j : Nat) : Nat := (sA + BitVec.ofNat 64 (tileOf sB + j)).toNat

/-- Block j, or its scale in the scale array, holds a byte of a range. -/
def blockMeets (sA sB : W64) (fmt : Nat) (arr : Bool) (a n j : Nat) : Bool :=
  (List.range (blockBytes fmt / 32)).any (fun c => meets (blockAddr sA sB j (32 * c)) 32 a n)
    || (arr && meets (scaleAddr sA sB j) 1 a n)

/-- An MMAC queued before operation `id` still has to read a byte of a range (R191). -/
def Row.mmacMeets (r : Row) (id a n : Nat) : Bool :=
  r.queue.any (fun q => match q.kind with
    | .mmac _ f sA sB _ next _ =>
      q.seq < id && f.pair && ((List.range (f.n.toNat + 1)).drop next).any (blockMeets sA sB f.fmt.toNat (f.ss == 0) a n)
    | .swap => false)

/-! ### Tile images (R200, R209) -/

def tileAt (t : List W8) (o : Nat) : W8 := t.getD o 0
def tileW (t : List W8) : Nat := (tileAt t 9).toNat
/-- Bytes of the image that a side-memory fire writes. -/
def tileSideLen (t : List W8) : Nat := 128 * blockBytes (tileW t - 1) + 128
def Fire.size (f : Fire) : Nat := tileSideLen f.bytes

/-! ### Elements still to perform -/

/-- An element of an operation that meets a range is still to be performed. -/
def OpKind.openAt (a n : Nat) : OpKind → Bool
  | .load _ sz _ _ _ es => es.any (fun e => e.val.isNone && !e.bad && meets e.addr sz a n)
  | .store sz _ _ es => es.any (fun e => !e.done && meets e.addr sz a n)
  | .atomic _ _ sz _ _ es => es.any (fun e => e.old.isNone && !e.bad && meets e.addr sz a n)
  | .wld sA sB cols fmt _ ss _ col =>
    ((List.range (cols + 1)).drop col).any (blockMeets sA sB fmt ss.isNone a n)
  | .join _ _ key => meets key 8 a n
  | _ => false

def OpKind.isFence : OpKind → Bool
  | .fence .. => true
  | _ => false

def AccKind.releases : AccKind → Bool
  | .release _ | .both _ => true
  | _ => false
def AccKind.acquires : AccKind → Bool
  | .acquire _ | .both _ => true
  | _ => false
/-- The scope of a synchronising access. -/
def AccKind.scope : AccKind → Option Sys2Proof.Scope
  | .acquire s | .release s | .both s => some s
  | _ => none

/-- Operations issued before one. -/
def Row.earlier (r : Row) (id : Nat) : List Op := r.ops.filter (fun o => o.id < id)

/-- R254: every access issued before operation `id` has been performed. -/
def Row.drainedTo (r : Row) (id : Nat) : Bool :=
  (r.earlier id).all (fun o => !o.kind.open_) && r.queue.all (fun q => !(q.reads && q.seq < id))

/-- A row as its order stands (R260, R273): once PREEMPT has reached its die, queued MMACs, WLDs whose fill has not begun and CWAITs
stand until RESUME, and its accesses wait for none of them. -/
def State.orderRow (s : State) (n : Nat) : Row :=
  let r := s.row n
  if (s.die (dieOf n)).halted then
    { r with frozen := true, queue := [], ops := r.ops.filter (fun o => match o.kind with
      | .wld _ _ _ _ _ _ b _ => b
      | .cwait .. => false
      | _ => true) }
  else r

/-- An acquire or release of the row that is no access of its own stands before operation `id`: that of an outstanding CWAIT, and
those of a queued MMAC's pops and pushes (R171, R290), which a frozen array makes no more before ERET (log entry 9). -/
def Row.portOrder (r : Row) (id : Nat) : Bool :=
  (r.earlier id).any (fun x => match x.kind with | .cwait .. => true | _ => false)
    || (!r.frozen && r.queue.any (fun q => match q.kind with
      | .mmac _ f _ _ _ _ 0 => q.seq < id && (f.nk == 1 || f.dk == 1 || f.dk == 3)
      | _ => false))

/-- What operation `id` owes to its order (R240, R241): a release waits for everything before it, a volatile access for the volatile
and synchronising ones, an acquire for the volatile ones and fences. -/
def Row.inTurn (r : Row) (id : Nat) (o : AccKind) : Bool :=
  if o.releases then r.drainedTo id
  else match o with
    | .ordinary => true
    | .volatile => (r.earlier id).all (fun x => !(x.kind.open_ && x.kind.ord != .ordinary) && !x.kind.isFence) && !r.portOrder id
    | _ => (r.earlier id).all (fun x => !(x.kind.open_ && x.kind.ord == .volatile) && !x.kind.isFence)

/-- The addresses of an operation's elements, and the bytes of each. -/
def OpKind.addrs : OpKind → List Nat
  | .load _ _ _ _ _ es => es.map LoadElem.addr
  | .store _ _ _ es => es.map StoreElem.addr
  | .atomic _ _ _ _ _ es => es.map AtomElem.addr
  | .join _ _ key => [key]
  | _ => []
def OpKind.width : OpKind → Nat
  | .load _ sz _ _ _ _ | .store sz _ _ _ | .atomic _ _ sz _ _ _ => sz
  | .join .. => 8
  | _ => 0

/-- A byte of the range is still to be read by a queued MMAC or by a WLD. -/
def Row.operandMeets (r : Row) (a n : Nat) : Bool :=
  r.mmacMeets r.nextId a n || r.ops.any (fun o => match o.kind with | .wld .. => o.kind.openAt a n | _ => false)

/-- R191, R250: an access to bytes that a queued MMAC or a WLD has not yet read does not issue, in a handler either, though its
frozen array reads nothing before ERET (log entry 9). -/
def Row.operandsHold (r : Row) (k : OpKind) : Bool := k.addrs.any (fun a => r.operandMeets a k.width)

/-- PEGW operations outstanding on an entry, oldest first. -/
def Row.pegws (r : Row) (i : Nat) : List Op :=
  r.ops.filter (fun o => match o.kind with | .pegw k _ _ => k == i | _ => false)

/-- The bytes that PEG checks for a side-memory target, which hold every image (R209, R216). -/
def pegSpan : Nat := 32896

/-- An access of an operation to a range is still to be performed. An outstanding PEGW stands where the fire that it will take is
still to write (R248); while the array is frozen no fire begins (R196), and only one under way counts. -/
def Row.opMeets (r : Row) (o : Op) (a n : Nat) : Bool :=
  match o.kind with
  | .pegw i _ _ =>
    let e := tget .free r.peg i
    let k := (r.pegws i).findIdx (fun x => x.id == o.id)
    e.side && e.unc ≤ k && (k < e.unc + e.fires.length || (e.st == .armed && !r.frozen)) && meets e.target.toNat pegSpan a n
  | k => k.openAt a n

/-- An earlier access to the same bytes is still to be performed (R248, R250). `fwd` lets ordinary stores pass their bytes
on. -/
def Row.blocked (r : Row) (id a n : Nat) (fwd : Bool) : Bool :=
  (r.earlier id).any (fun x => match x.kind with
    | .store _ _ .ordinary _ => !fwd && x.kind.openAt a n
    | _ => r.opMeets x a n)

/-- The byte that the youngest buffered store before `id` holds for an address (R237). -/
def Row.buffered (r : Row) (id a : Nat) : Option W8 :=
  (r.earlier id).foldl (fun acc x => match x.kind with
    | .store sz _ _ es => es.foldl (fun acc e =>
        if !e.done && e.addr ≤ a && a < e.addr + sz then some (e.val.extractLsb' (8 * (a - e.addr)) 8) else acc) acc
    | _ => acc) none

/-- The buffered store element that supplies that byte: its operation and its address. -/
def Row.source (r : Row) (id a : Nat) : Option (Nat × Nat) :=
  (r.earlier id).foldl (fun acc x => match x.kind with
    | .store sz _ _ es => es.foldl (fun acc e => if !e.done && e.addr ≤ a && a < e.addr + sz then some (x.id, e.addr) else acc) acc
    | _ => acc) none
/-- R268: one store element, or memory alone, supplies all n bytes of a load, which no atomic can then fall between. -/
def Row.oneSource (r : Row) (id a n : Nat) : Bool := (List.range n).all (fun k => r.source id (a + k) == r.source id a)

/-- The PEGW that has taken the fire of a landed byte, or that will. -/
def Row.takenBy (r : Row) (x : Landed) : Option Nat :=
  match x.taken with
  | some t => some t
  | none => ((r.pegws x.peg)[x.ahead]?).map Op.id
/-- The fire is a later write than the row's access `k`: it counts as one at the PEGW that takes it (R248). -/
def Row.hides (r : Row) (k : Nat) (x : Landed) : Bool := match r.takenBy x with | some t => k < t | none => true

/-- A byte that holds x as the row's access `k` finds it: without the fires that come after the access (R248, R250). -/
def Row.peel (r : Row) (k a : Nat) : List Landed → W8 → W8
  | [], x => x
  | e :: l, x => if e.addr = a then (if x = e.new && r.hides k e then r.peel k a l e.old else x) else r.peel k a l x
/-- A byte that access `k` writes under the fires that come after it, which have landed over it; none where there are none. -/
def Row.tuck (r : Row) (k a : Nat) (b : W8) : List Landed → W8 → Option (List Landed)
  | [], _ => none
  | e :: l, x =>
    if e.addr = a then
      (if x = e.new && r.hides k e then some (match r.tuck k a b l e.old with
        | some l => e :: l
        | none => { e with old := b } :: l.filter (fun y => y.addr != a))
       else none)
    else (r.tuck k a b l x).map (e :: ·)

/-! ### Reading and writing on behalf of a row -/

/-- Lines that an ordinary access to n bytes at a needs. -/
def State.fillFor (s : State) (d a n : Nat) : State :=
  if s.cacheable d a then (if a / 64 = (a + n - 1) / 64 then s.fillLine d a else (s.fillLine d a).fillLine d (a + n - 1)) else s

/-- Of n bytes a die's far cache holds some that are dirty and some that are not, or that agreed with their home at different
times. -/
def State.farMixed (s : State) (d a n : Nat) : Bool :=
  let sort (k : Nat) : Option (Bool × Nat) := (s.farAt d (a + k)).map (fun x => (x.dirty, if x.dirty then 0 else x.at_))
  (List.range n).any (fun k => sort k != sort 0)

/-- A byte as an ordinary access of die d finds it. -/
def State.nearByte (s : State) (d a : Nat) : W8 :=
  if s.cacheable d a then (match s.farAt d a with | some x => x.val | none => s.byte a) else s.byte a

/-- A byte written as an ordinary access of die d writes it. -/
def State.setNear (s : State) (d a : Nat) (b : W8) : State :=
  if s.cacheable d a then s.setFar d a (some ⟨b, true, s.drawn⟩) else s.setByte a b
def State.setNears (s : State) (d : Nat) : Nat → List W8 → State
  | _, [] => s
  | a, b :: l => (s.setNear d a b).setNears d (a + 1) l
/-- A byte as access `k` of row n finds it. -/
def State.ownByte (s : State) (n k a : Nat) : W8 := (s.row n).peel k a (s.row n).landed (s.nearByte (dieOf n) a)
def State.ownBytes (s : State) (n k a len : Nat) : List W8 := (List.range len).map (fun i => s.ownByte n k (a + i))
/-- A byte that access `k` of row n writes, through the far cache or at home. -/
def State.setOwn (s : State) (n k : Nat) (near : Bool) (a : Nat) (b : W8) : State :=
  let l := (s.row n).landed
  let at_ (y : Landed) : Bool := y.addr == a
  match (s.row n).tuck k a b l (s.nearByte (dieOf n) a) with
  | some l => s.modRow n (fun r => { r with landed := l })
  | none =>
    let s1 := if l.any at_ then s.modRow n (fun r => { r with landed := l.filter (fun y => !at_ y) }) else s
    if near then s1.setNear (dieOf n) a b else s1.setByte a b
/-- The bytes that access `k` of row n writes. -/
def State.storeBytes (s : State) (n k : Nat) (near : Bool) : Nat → List W8 → State
  | _, [] => s
  | a, b :: l => (s.setOwn n k near a b).storeBytes n k near (a + 1) l

/-- Before an access at the byte's own vault, the die's copies of its lines go home and are dropped (R270; log entry 10). -/
def State.flushFor (s : State) (d a n : Nat) : State := s.flushIf d (fun x => x / 64 == a / 64 || x / 64 == (a + n - 1) / 64)
/-- The lines of an ordinary load: where they hold its bytes as of different times they go home first, and are read again, for
another die's atomic must come before or after all of the load (R268). -/
def State.fillLoad (s : State) (d a n : Nat) : State := (if s.farMixed d a n then s.flushFor d a n else s).fillFor d a n

/-- A granule that a row may no longer reach: its page has been checked, and the granule taken, since the access issued
(R244; log entry 48). -/
def State.barred (s : State) (n a : Nat) : Bool := sideBase ≤ a && s.denied n a

/-- The memory word that holds a byte (R235; log entry 49). -/
def wordOf (a : Nat) : Nat := a / 8 * 8

/-- Replace an operation's body. -/
def Row.setOp (r : Row) (id : Nat) (k : OpKind) : Row :=
  { r with ops := r.ops.map (fun o => if o.id == id then { o with kind := k } else o) }
def Row.findOp (r : Row) (id : Nat) : Option Op := r.ops.find? (fun o => o.id == id)
def Row.dropOp (r : Row) (id : Nat) : Row := { r with ops := r.ops.filter (fun o => o.id != id) }

/-- The value a load gives its register: extended, or one bit for LDM. -/
def loadVal (sx mask : Bool) (sz lane x : Nat) : W64 :=
  if mask then (if x / 2 ^ (lane % 8) % 2 = 1 then 1 else 0)
  else if sx && 2 ^ (8 * sz - 1) ≤ x then BitVec.ofInt 64 ((x : Int) - 2 ^ (8 * sz))
  else BitVec.ofNat 64 x

/-! ### Performing one element -/

/-- Load element i of operation `id` of row n may be performed now. -/
def Row.loadReady (r : Row) (id : Nat) (o : AccKind) (sz : Nat) (es : List LoadElem) (i : Nat) : Bool :=
  match es[i]? with
  | none => false
  | some e =>
    e.val.isNone && !e.bad && r.inTurn id o && !r.blocked id e.addr sz (o == .ordinary && r.oneSource id e.addr sz)
      && !r.mmacMeets id e.addr sz && (o != .volatile || (es.take i).all (fun e => e.val.isSome || e.bad))

/-- Perform load element i (R236): the value that its bytes have, or an uncorrectable error in their word, which keeps every
lane with an element there from its value (R235). -/
def performLoad (s : State) (n id i : Nat) (ecc : Bool) : Option State :=
  let r := s.orderRow n
  match r.findOp id with
  | some ⟨_, _, _, .load dst sz sx mask o es⟩ =>
    if !r.loadReady id o sz es i then none
    else match es[i]? with
      | none => none
      | some e =>
        let d := dieOf n
        let put (s : State) (l : List LoadElem) : State := s.modRow n (fun r => r.setOp id (.load dst sz sx mask o l))
        if s.barred n e.addr then some (put s (es.set i { e with bad := true }))
        else
          let s1 := if o == .ordinary then s.fillLoad d e.addr sz else s.flushFor d e.addr sz
          if ecc && sz != 0 then
            some ((put s1 (es.map (fun x => if wordOf x.addr == wordOf e.addr then { x with bad := true } else x))).defer n cEccUncorr
              (BitVec.ofNat 64 (wordOf e.addr)))
          else
            let bs := (List.range sz).map (fun k =>
              match r.buffered id (e.addr + k) with | some b => b | none => s1.ownByte n id (e.addr + k))
            some (put s1 (es.set i { e with val := some (loadVal sx mask sz e.lane (leVal bs)) }))
  | _ => none

/-- Store element i may be performed now. -/
def Row.storeReady (r : Row) (id : Nat) (o : AccKind) (sz : Nat) (es : List StoreElem) (i : Nat) : Bool :=
  match es[i]? with
  | none => false
  | some e =>
    !e.done && r.inTurn id o && !r.blocked id e.addr sz false && !r.mmacMeets id e.addr sz
      && (o != .volatile || (es.take i).all (fun e => e.done))

/-- A store whose elements are all performed leaves the buffer. -/
def Row.endStore (r : Row) (id : Nat) : Row :=
  match r.findOp id with
  | some ⟨_, _, _, .store _ _ _ es⟩ => if es.all (fun e => e.done) then r.dropOp id else r
  | _ => r

/-- Perform store element i (R237, R241). An uncorrectable error in the word keeps the bytes that would merge into it from
being written, a whole word being no merge (R235). -/
def performStore (s : State) (n id i : Nat) (ecc : Bool) : Option State :=
  let r := s.orderRow n
  match r.findOp id with
  | some ⟨_, _, _, .store sz p o es⟩ =>
    if !r.storeReady id o sz es i then none
    else match es[i]? with
      | none => none
      | some e =>
        let d := dieOf n
        let put (s : State) (l : List StoreElem) : State := s.modRow n (fun r => (r.setOp id (.store sz p o l)).endStore id)
        let s0 := match o.scope with | some sc => s.releaseAt d sc | none => s
        if s.barred n e.addr then some (put s0 (es.set i { e with done := true }))
        else
          let s1 := if o == .ordinary then s0 else s0.flushFor d e.addr sz
          if ecc && 0 < sz && sz < 8 then
            some ((put s1 (es.map (fun x => if wordOf x.addr == wordOf e.addr then { x with done := true } else x))).defer n
              cEccUncorr (BitVec.ofNat 64 (wordOf e.addr)))
          else some (put (s1.storeBytes n id (o == .ordinary) e.addr (leList sz e.val.toNat)) (es.set i { e with done := true }))
  | _ => none

/-! ### Atomics (R264, R266) -/

/-- The new element value (Table 11-3), for an element of sz bytes. -/
def atomNew (fn : AFn) (sz old x y : Nat) : Nat :=
  let w := 8 * sz
  let o := BitVec.ofNat w old
  let p := BitVec.ofNat w x
  let canon (v : Nat) : Nat := if (fmt32.decode v).isNan then fmt32.nanBits else v
  match fn with
  | .add => (o + p).toNat
  | .and => (o &&& p).toNat
  | .or => (o ||| p).toNat
  | .xor => (o ^^^ p).toNat
  | .min => (if o.slt p then o else p).toNat
  | .max => (if o.slt p then p else o).toNat
  | .minn => (if o.ult p then o else p).toNat
  | .maxn => (if o.ult p then p else o).toNat
  | .swap => p.toNat
  | .cas => if o = p then (BitVec.ofNat w y).toNat else o.toNat
  | .fadd => (fmt32.add .rne (fmt32.decode old) (fmt32.decode x)).1
  | .fmin => canon (fmt32.minmax false old x).1
  | .fmax => canon (fmt32.minmax true old x).1

/-- An atomic element may be performed now. -/
def Row.atomReady (r : Row) (id : Nat) (o : AccKind) (sz : Nat) (e : AtomElem) : Bool :=
  e.old.isNone && !e.bad && r.inTurn id o && !r.blocked id e.addr sz false && !r.mmacMeets id e.addr sz

/-- The lanes of one instruction that name one element, in ascending order (R269). -/
def atomSteps (fn : AFn) (sz addr : Nat) : List AtomElem → Nat → List AtomElem × Nat
  | [], m => ([], m)
  | e :: rest, m =>
    if e.addr = addr && e.old.isNone && !e.bad then
      let (l, m') := atomSteps fn sz addr rest (atomNew fn sz m e.x.toNat e.y.toNat)
      ({ e with old := some (BitVec.ofNat 64 m) } :: l, m')
    else
      let (l, m') := atomSteps fn sz addr rest m
      (e :: l, m')

/-- An atomic that returns nothing leaves the store buffer once performed. -/
def Row.endAtomic (r : Row) (id : Nat) : Row :=
  match r.findOp id with
  | some ⟨_, _, _, .atomic _ _ _ p _ es⟩ =>
    if p ≠ 0 && es.all (fun e => e.old.isSome || e.bad) then r.dropOp id else r
  | _ => r

/-- After an acquiring operation's last element, its die drops its clean lines (R241). -/
def State.acquired (s : State) (n : Nat) (o : AccKind) : State :=
  if o.acquires then (match o.scope with | some sc => s.acquireAt (dieOf n) sc | none => s) else s

/-- Perform the atomic on the element that element i names (R264, R268, R269); an error leaves it unchanged (R267). -/
def performAtomic (s : State) (n id i : Nat) (ecc : Bool) : Option State :=
  let r := s.orderRow n
  match r.findOp id with
  | some ⟨_, _, _, .atomic fn dst sz p o es⟩ =>
    match es[i]? with
    | none => none
    | some e =>
      if !r.atomReady id o sz e then none
      else
        let d := dieOf n
        let s0 := if o.releases then (match o.scope with | some sc => s.releaseAt d sc | none => s) else s
        let s1 := s0.flushFor d e.addr sz
        let fin (s : State) (es' : List AtomElem) : State :=
          let s := s.modRow n (fun r => (r.setOp id (.atomic fn dst sz p o es')).endAtomic id)
          if es'.all (fun e => e.old.isSome || e.bad) then s.acquired n o else s
        let failed := es.map (fun x => if x.addr = e.addr && x.old.isNone then { x with bad := true } else x)
        if s.barred n e.addr then some (fin s1 failed)
        else if ecc && sz != 0 then some ((fin s1 failed).defer n cEccUncorr e.va)
        else
          let (es', m) := atomSteps fn sz e.addr es (leVal (s1.ownBytes n id e.addr sz))
          some (fin ((s1.storeBytes n id false e.addr (leList sz m)).codeLands e.addr sz) es')
  | _ => none

/-! ### Completion (R49) -/

/-- All results of an operation are in place and its flag clears. -/
def Row.complete (r : Row) (o : Op) : Row :=
  (o.kind.results.foldl (fun q (l, x) => q.putDst o.kind.dst l x) r).endOp o

/-- Element i of an operation is still to be performed. -/
def OpKind.pending (i : Nat) : OpKind → Bool
  | .load _ _ _ _ _ es => match es[i]? with | some e => e.val.isNone && !e.bad | none => false
  | .store _ _ _ es => match es[i]? with | some e => !e.done | none => false
  | .atomic _ _ _ _ _ es => match es[i]? with | some e => e.old.isNone && !e.bad | none => false
  | _ => false

/-- Perform element i of an operation, whatever it is. -/
def performElem (s : State) (n id i : Nat) (ecc : Bool) : Option State :=
  match (s.row n).findOp id with
  | some ⟨_, _, _, .load ..⟩ => performLoad s n id i ecc
  | some ⟨_, _, _, .store ..⟩ => performStore s n id i ecc
  | some ⟨_, _, _, .atomic ..⟩ => performAtomic s n id i ecc
  | _ => none

/-- Elements performed in turn: none where one of them must still wait. -/
def performEach (n id : Nat) : List Nat → State → Option State
  | [], s => some s
  | i :: l, s =>
    if match (s.row n).findOp id with | some o => o.kind.pending i | none => false then
      (performElem s n id i (Config.eccError s.drawn i)).bind (fun s => performEach n id l s.draw)
    else performEach n id l s

/-- The elements that an instruction performs as it issues: those that lie in checked pages, and, of a volatile access, all up
to the last of them (R235, R240). -/
def checkedElems (s : State) (k : OpKind) : List Nat :=
  let l := (k.addrs.zipIdx.filter (fun x => sideBase ≤ x.1 && s.checked x.1)).map Prod.snd
  if k.ord == .volatile then List.range (l.foldl (fun _ i => i + 1) 0) else l

/-- Those elements are performed with their owner check, before the row issues anything further (R235, R265). -/
def performChecked (s : State) (n id : Nat) : Option State :=
  match (s.row n).findOp id with
  | some o => performEach n id (checkedElems s o.kind) s
  | none => some s

end Sys2Proof.Machine
end

