-- ==== Sys2Proof/Machine/LoadStore.lean ====
section
/-! DEFINITION. Loads, stores, fences and ownership of side memory (R224, R232 to R246), and the events that perform and
complete them. -/

namespace Sys2Proof.Machine

/-! ### Forms (Table 10-6, R233) -/

/-- Element size in bytes of an sz code; 4 for the codes that name a scope. -/
def szSize (sz : BitVec 3) : Nat := if sz.toNat < 4 then 2 ^ sz.toNat else 2 ^ (sz.toNat - 4)
/-- The codes that extend their sign. -/
def szSigned (sz : BitVec 3) : Bool := 4 ≤ sz.toNat

/-- s[base] + SExt(off,12)·F. -/
def Row.baseAddr (v : Row) (base : SReg) (off : BitVec 12) (F : Nat) : W64 :=
  v.sreg base.toNat + off.signExtend 64 * BitVec.ofNat 64 F

/-- a(l) of the contiguous and indexed forms. -/
def Row.elemAddr (v : Row) (m : Mem) (E : Nat) (l : Nat) : W64 :=
  let b := v.baseAddr m.base m.off E
  if m.idx = 0 then b + BitVec.ofNat 64 (l * E)
  else b + (((v.vreg m.idx.toNat l).signExtend 64) <<< m.sc.toNat)

/-- a(l) of the runs form, LDT. -/
def Row.runAddr (v : Row) (m : Mem) (E : Nat) (l : Nat) : W64 :=
  let l0 := l / 32 * 32
  v.baseAddr m.base m.off E + (((v.vreg m.idx.toNat l0).signExtend 64) <<< m.sc.toNat) + BitVec.ofNat 64 ((l - l0) * E)

/-- R234: the cause that the address of one element raises. -/
def State.elemFault (s : State) (n E : Nat) (a : W64) : Option W8 :=
  match sideFault a with
  | some c => some c
  | none =>
    if a.toNat % E ≠ 0 then some cMisalign
    else if s.denied n a.toNat then some cOwner
    else none

/-- The first element, in the order given, that fails its check: its cause and address, for OWNER too (R234; log entry 70). -/
def State.firstFault (s : State) (n E : Nat) (as : List W64) : Option (W8 × W64) :=
  as.findSome? (fun a => (s.elemFault n E a).map (fun c => (c, a)))

/-- Vector registers that a format-M word names. -/
def memRegs (d : VReg) (m : Mem) : List Nat := d.toNat :: (if m.idx = 0 then [] else [m.idx.toNat])

/-- Passes in the store buffer (R237). -/
def Row.bufferUse (r : Row) : Nat :=
  (r.ops.map (fun o => match o.kind with | .store _ p _ _ => p | .atomic _ _ _ p _ _ => p | _ => 0)).sum

/-- Issue an operation whose checks have passed. -/
def issueOp (s : State) (n : Nat) (flag : Option Nat) (k : OpKind) : Res :=
  let id := (s.row n).nextId
  if (s.row n).operandsHold k then .wait .operands s
  else match performChecked (s.modRow n (fun r => r.addOp flag k)) n id with
    | some s2 => .done s2
    | none => .wait .memory s

/-- A synchronising access in which no lane acts keeps its place in order through one element of no bytes (R241, R271). -/
def AccKind.marks (o : AccKind) (none_ : Bool) : Bool := none_ && o.scope.isSome

/-! ### Loads -/

/-- A lane-class load: the address of each acting lane checked, then one operation (R234, R236). -/
def loadBody (g : Guard) (dst : Dst) (E : Nat) (sx : Bool) (ord : AccKind) (fs : Bool) (addr : Row → Nat → W64)
    (s : State) (n : Nat) (v : Row) : Res :=
  let ls := v.actLanes g
  match s.firstFault n E (ls.map (addr v)) with
  | some (c, a) => .trap c a s
  | none => issueOp s n (v.flagSel fs)
      (if ord.marks ls.isEmpty then .load .none 0 false false ord [⟨0, 0, none, false⟩]
       else .load dst E sx false ord (ls.map (fun l => ⟨l, (addr v l).toNat, none, false⟩)))

/-- The plan of a lane-class load. -/
def planLoad (d : VReg) (m : Mem) : Plan :=
  { regs := memRegs d m, hold := fun r => r.holdV d.toNat, access := true, units := 3, cycles := Row.passes }

def execLdv (g : Guard) (d : VReg) (m : Mem) (fs : Bool) (s : State) : Host.Outcome State Fault Refusal :=
  issueAll (planLoad d m) (loadBody g (.vreg d.toNat) (szSize m.sz) (szSigned m.sz) .ordinary fs
    (fun v l => v.elemAddr m (szSize m.sz) l)) s
def execLdx (g : Guard) (d : VReg) (m : Mem) (fs : Bool) (s : State) : Host.Outcome State Fault Refusal :=
  issueAll (planLoad d m) (loadBody g (.vreg d.toNat) (szSize m.sz) (szSigned m.sz) .ordinary fs
    (fun v l => v.elemAddr m (szSize m.sz) l)) s
def execLdt (g : Guard) (d : VReg) (m : Mem) (fs : Bool) (s : State) : Host.Outcome State Fault Refusal :=
  issueAll (planLoad d m) (loadBody g (.vreg d.toNat) (szSize m.sz) (szSigned m.sz) .ordinary fs
    (fun v l => v.runAddr m (szSize m.sz) l)) s
def execLdvol (g : Guard) (d : VReg) (m : Mem) (fs : Bool) (s : State) : Host.Outcome State Fault Refusal :=
  issueAll (planLoad d m) (loadBody g (.vreg d.toNat) (szSize m.sz) (szSigned m.sz) .volatile fs
    (fun v l => v.elemAddr m (szSize m.sz) l)) s

/-- The scope that sz names in LDACQ and STREL (R241). -/
def szScope (sz : BitVec 3) : Sys2Proof.Scope :=
  if sz = 4 then .vault else if sz = 5 then .die else if sz = 6 then .device else .system

def execLdacq (g : Guard) (d : VReg) (m : Mem) (fs : Bool) (s : State) : Host.Outcome State Fault Refusal :=
  issueAll (planLoad d m) (loadBody g (.vreg d.toNat) 4 false (.acquire (szScope m.sz)) fs
    (fun v l => v.elemAddr m 4 l)) s

/-- R238. -/
def execSld (g : Guard) (d : SReg) (m : Mem) (vol fs : Bool) (s : State) : Host.Outcome State Fault Refusal :=
  issueQ { hold := fun r => r.pendS d.toNat, access := true, units := 1 } g (fun s n v =>
    let E := szSize m.sz
    let a := v.baseAddr m.base m.off E
    match s.firstFault n E [a] with
    | some (c, a) => .trap c a s
    | none => issueOp s n (v.flagSel fs)
        (.load (v.dstS d.toNat) E (szSigned m.sz) false (if vol then .volatile else .ordinary) [⟨0, a.toNat, none, false⟩])) s

/-- R239. -/
def execLdm (g : Guard) (d : PReg) (base : SReg) (off : BitVec 12) (fs : Bool) (s : State) :
    Host.Outcome State Fault Refusal :=
  issueAll { hold := fun r => r.pendP d.toNat, access := true, units := 3, cycles := Row.passes } (fun s n v =>
    let a (l : Nat) : W64 := v.baseAddr base off 1 + BitVec.ofNat 64 (l / 8)
    let ls := v.actLanes g
    match s.firstFault n 1 (ls.map a) with
    | some (c, a) => .trap c a s
    | none => issueOp s n (v.flagSel fs)
        (.load (.preg d.toNat) 1 false true .ordinary (ls.map (fun l => ⟨l, (a l).toNat, none, false⟩)))) s

/-! ### Stores -/

/-- Only the highest lane's write is kept where lanes write the same byte, which R237 gives for STX and the model takes for
STREL too (log entry 9). -/
def highestOnly (E : Nat) : List StoreElem → List StoreElem
  | [] => []
  | e :: rest => if rest.any (fun x => meets e.addr E x.addr E) then highestOnly E rest else e :: highestOnly E rest

/-- A lane-class store: checks, then one entry of the store buffer for each pass. -/
def storeBody (g : Guard) (d : VReg) (m : Mem) (E : Nat) (ord : AccKind) (s : State) (n : Nat) (v : Row) : Res :=
  let ls := v.actLanes g
  match s.firstFault n E (ls.map (v.elemAddr m E)) with
  | some (c, a) => .trap c a s
  | none =>
    let es := ls.map (fun l => ⟨l, (v.elemAddr m E l).toNat, (v.vreg d.toNat l).setWidth 64, false⟩)
    if es.isEmpty && !ord.marks true then .done s
    else if 32 < (s.row n).bufferUse + v.passes then .wait .memory s
    else if es.isEmpty then issueOp s n none (.store 0 v.passes ord [⟨0, 0, 0, false⟩])
    else issueOp s n none (.store E v.passes ord (if ord == .volatile then es else highestOnly E es))

/-- The plan of a lane-class store. -/
def planStore (d : VReg) (m : Mem) : Plan :=
  { regs := memRegs d m, access := true, units := 3, cycles := Row.passes }

def execStv (g : Guard) (d : VReg) (m : Mem) (s : State) : Host.Outcome State Fault Refusal :=
  issueAll (planStore d m) (storeBody g d m (szSize m.sz) .ordinary) s
def execStx (g : Guard) (d : VReg) (m : Mem) (s : State) : Host.Outcome State Fault Refusal :=
  issueAll (planStore d m) (storeBody g d m (szSize m.sz) .ordinary) s
def execStvol (g : Guard) (d : VReg) (m : Mem) (s : State) : Host.Outcome State Fault Refusal :=
  issueAll (planStore d m) (storeBody g d m (szSize m.sz) .volatile) s
/-- R241: with no acting lane it still orders, and writes nothing. -/
def execStrel (g : Guard) (d : VReg) (m : Mem) (s : State) : Host.Outcome State Fault Refusal :=
  issueAll (planStore d m) (storeBody g d m 4 (.release (szScope m.sz))) s

def execSst (g : Guard) (d : SReg) (m : Mem) (vol : Bool) (s : State) : Host.Outcome State Fault Refusal :=
  issueQ { access := true } g (fun s n v =>
    let E := szSize m.sz
    let a := v.baseAddr m.base m.off E
    match s.firstFault n E [a] with
    | some (c, a) => .trap c a s
    | none =>
      if 32 < (s.row n).bufferUse + 1 then .wait .memory s
      else issueOp s n none (.store E 1 (if vol then .volatile else .ordinary) [⟨0, a.toNat, v.sreg d.toNat, false⟩])) s

/-! ### Fences (R242) -/

def execFence (g : Guard) (k : FKind) (sc : Sys2Proof.Scope) (s : State) : Host.Outcome State Fault Refusal :=
  issueQ {} g (fun s n _ => .done (s.modRow n (fun r => r.addOp none (.fence k sc)))) s

/-- A fence is satisfied: the accesses it orders have been performed. -/
def Row.fenceReady (r : Row) (id : Nat) (k : FKind) : Bool :=
  match k with
  | .acq => (r.earlier id).all (fun o => !(o.kind.open_ && (o.kind.reads || o.kind.ord == .volatile)) && !o.kind.isFence)
      && r.queue.all (fun q => !(q.reads && q.seq < id))
  | _ => r.drainedTo id && (r.earlier id).all (fun o => !o.kind.isFence)

/-- The far cache's part in a satisfied fence. -/
def fenceEffect (s : State) (d : Nat) (k : FKind) (sc : Sys2Proof.Scope) : State :=
  match k with
  | .full => (s.releaseAt d sc).acquireAt d sc
  | .rel => s.releaseAt d sc
  | .acq => s.acquireAt d sc

/-! ### Ownership (R245, R246) -/

/-- The granules an OWN or DISOWN names, lowest first. -/
def ownAddrs (a : W64) (k : Nat) : List W64 := (List.range k).map (fun i => a + BitVec.ofNat 64 (64 * i))

/-- R245's checks: the cause and its value. -/
def ownFault (s : State) (n : Nat) (a : W64) (k : Nat) : Option (W8 × W64) :=
  if a &&& 63 != 0 then some (cMisalign, a)
  else match (ownAddrs a k).findSome? (fun x => match sideFault x with
      | some c => some (c, x)
      | none => if s.checked x.toNat then none else some (cProt, x)) with
    | some f => some f
    | none => (ownAddrs a k).findSome? (fun x => if s.denied n x.toNat then some (cOwner, x) else none)

/-- The common part of OWN and DISOWN: how many granules, the checks, then the tags. -/
def ownBody (d base : SReg) (off : BitVec 12) (many : Bool) (act : State → Nat → List W64 → Res)
    (s : State) (n : Nat) (v : Row) : Res :=
  let cnt : W64 := if many then v.sreg d.toNat else 1
  if many && (cnt == 0 || (1024 : W64).ult cnt) then .trap cBounds cnt s
  else
    let a := v.baseAddr base off 1
    match ownFault s n a cnt.toNat with
    | some (c, t) => .trap c t s
    | none => act s n (ownAddrs a cnt.toNat)

def execOwn (g : Guard) (d base : SReg) (off : BitVec 12) (many : Bool) (s : State) : Host.Outcome State Fault Refusal :=
  issueQ { nest := true } g (ownBody d base off many (fun s n as =>
    if (s.row n).volatileOpen then .wait .memory s
    else .done ((as.foldl (fun s a => s.setOwner a.toNat (BitVec.ofNat 10 n)) s).acquireAt (dieOf n) .device))) s

def execDisown (g : Guard) (d base : SReg) (off : BitVec 12) (many : Bool) (s : State) : Host.Outcome State Fault Refusal :=
  issueQ { nest := true } g (ownBody d base off many (fun s n as =>
    if !(s.row n).drained then .wait .memory s
    else .done (as.foldl (fun s a =>
      if s.owner a.toNat == BitVec.ofNat 10 n then s.setOwner a.toNat noOwner else s) (s.releaseAt (dieOf n) .device)))) s

/-! ### Events -/

/-- STORE_PERFORM: element `sel` of a store of the row is performed. -/
def execStorePerform (row id sel : Nat) (ecc : Bool) (s : State) : Host.Outcome State Fault Refusal :=
  .next ((performStore s row id sel ecc).getD s)

/-- ATOMIC_PERFORM: the unit performs the element that `sel` names. -/
def execAtomicPerform (row id sel : Nat) (ecc : Bool) (s : State) : Host.Outcome State Fault Refusal :=
  .next ((performAtomic s row id sel ecc).getD s)

end Sys2Proof.Machine
end

