-- ==== Sys2Proof/Machine/Atomics.lean ====
section
/-! DEFINITION. Atomics and memory-side reductions (R262 to R273). -/

namespace Sys2Proof.Machine

/-- The ordering an atomic carries, as its accesses hold it (R271). -/
def aordKind : AOrd → AccKind
  | .relaxed => .ordinary
  | .acq s => .acquire s
  | .rel s => .release s
  | .acqrel s => .both s

/-- R265: the key of an element, or the cause its address raises, for an element of E bytes. -/
def atomKey (n E : Nat) (o : AOrd) (s : State) (a : W64) : Except W8 Nat × State :=
  if a.getLsbD 55 || a.extractLsb' 56 8 != 0 then
    match s.elemFault n E a with
    | some c => (.error c, s)
    | none => (.ok a.toNat, s)
  else
    match s.translate (dieOf n) a.toNat .atomic with
    | (.error c, s) => (.error c, s)
    | (.ok pa, s) =>
      if a.toNat % E ≠ 0 then (.error cMisalign, s)
      else if (match (aordKind o).scope with | some .vault => true | _ => false) then (.error cProt, s)
      else (.ok pa, s)

/-- The keys of the acting lanes in ascending order, or the first failing lane's cause and address, for OWNER too (R265; log
entry 70). -/
def atomKeys (n E : Nat) (o : AOrd) : State → List W64 → Except (W8 × W64) (List Nat) × State
  | s, [] => (.ok [], s)
  | s, a :: rest =>
    match atomKey n E o s a with
    | (.error c, s) => (.error (c, a), s)
    | (.ok k, s) =>
      match atomKeys n E o s rest with
      | (.error e, s) => (.error e, s)
      | (.ok ks, s) => (.ok (k :: ks), s)

/-- Issue an atomic: its checks, then one operation; without return it takes entries of the store buffer (R264). -/
def atomBody (fn : AFn) (E : Nat) (o : AOrd) (dst : Dst) (ret : Bool) (flag : Option Nat) (passes : Nat)
    (lanes : List (Nat × W64 × W64 × W64)) (s : State) (n : Nat) : Res :=
  let ord := aordKind o
  let left := if ret then 0 else passes
  match atomKeys n E o s (lanes.map (fun l => l.2.1)) with
  | (.error (c, a), s) => .trap c a s
  | (.ok ks, s) =>
    let es := (lanes.zip ks).map (fun (l, k) => ⟨l.1, k, l.2.1, l.2.2.1, l.2.2.2, none, false⟩)
    if !ret && es.isEmpty && !ord.marks true then .done s
    else if !ret && 32 < (s.row n).bufferUse + passes then .wait .memory s
    else issueOp s n (if ret then flag else none)
      (if ord.marks es.isEmpty then .atomic fn .none 0 left ord [⟨0, 0, 0, 0, 0, none, false⟩] else .atomic fn dst E left ord es)

/-- Address and operands of each acting lane of AMO and RED. -/
def atomLanes (v : Row) (g : Guard) (d : VReg) (base : SReg) (idx : VReg) (sc : BitVec 3) :
    List (Nat × W64 × W64 × W64) :=
  (v.actLanes g).map (fun l =>
    (l, v.elemAddr ⟨base, idx, 2, sc, 0⟩ 4 l, (v.vreg d.toNat l).setWidth 64, (v.vreg (d.toNat + 1) l).setWidth 64))

/-- Vector registers an atomic names: d, d + 1 for cas (R263), and the index. -/
def atomRegs (fn : AFn) (d idx : VReg) : List Nat :=
  [d.toNat] ++ (if fn == .cas then [d.toNat + 1] else []) ++ (if idx = 0 then [] else [idx.toNat])

def execAmo (g : Guard) (d : VReg) (base : SReg) (idx : VReg) (sc : BitVec 3) (fn : AFn) (ret : Bool) (o : AOrd)
    (fs : Bool) (s : State) : Host.Outcome State Fault Refusal :=
  issueWord { regs := atomRegs fn d idx, nest := ((s.row s.cur).view s.drawn).anyActs g, access := true, units := 3
              cycles := Row.passes, hold := fun r => ret && r.holdV d.toNat } (fun r => r.arm.em != 0)
    (fun s n v => atomBody fn 4 o (if ret then .vreg d.toNat else .none) ret (v.flagSel fs) v.passes
      (atomLanes v g d base idx sc) s n) s

def execRed (g : Guard) (d : VReg) (base : SReg) (idx : VReg) (sc : BitVec 3) (fn : AFn) (o : AOrd) (s : State) :
    Host.Outcome State Fault Refusal :=
  issueWord { regs := atomRegs fn d idx, nest := ((s.row s.cur).view s.drawn).anyActs g, access := true, units := 3
              cycles := Row.passes } (fun r => r.arm.em != 0)
    (fun s n v => atomBody fn 4 o .none false none v.passes (atomLanes v g d base idx sc) s n) s

def execAmos (g : Guard) (d base : SReg) (wide : Bool) (fn : AFn) (ret : Bool) (o : AOrd) (fs : Bool) (s : State) :
    Host.Outcome State Fault Refusal :=
  issueQ { nest := true, access := true, hold := fun r => ret && r.pendS d.toNat } g (fun s n v =>
    atomBody fn (if wide then 8 else 4) o (if ret then v.dstS d.toNat else .none) ret (v.flagSel fs) 1
      [(0, v.sreg base.toNat, v.sreg d.toNat, v.sreg (d.toNat + 1))] s n) s

end Sys2Proof.Machine
end

