-- ==== Sys2Proof/Machine/FloatOps.lean ====
section
/-! DEFINITION. Float vector arithmetic: VFALU, VFMA, VFMAS, VFUN, VFDIV, VFCLASS and VFRED (R125 to R134). -/

namespace Sys2Proof.Machine

/-- The plan of an instruction of the vector FP datapath: `w` pairs halves where set, `k` issue clk a pass. -/
def fpPlan (paired : Bool) (k : Nat := 1) : Plan :=
  { fp := true, units := if paired then 5 else 3, cycles := fun r => if r.arm.em == 0 then 1 else k * r.passes }

/-- A function of lane words, with flags, over the lanes given: vd written and flags raised (R125). -/
def Row.floatLanes (r : Row) (d : Nat) (ls : List Nat) (f : Nat → W32 × Flags) : Row :=
  (r.setLanes d ls (fun l => (f l).1)).orFlags (ls.foldl (fun a l => a ||| (f l).2) 0)

/-- A float instruction that writes vd in each lane that acts. -/
def floatTo (p : Plan) (g : Guard) (d : VReg) (f : Row → Nat → W32 × Flags) : State → Host.Outcome State Fault Refusal :=
  issueL { p with hold := fun r => r.holdV d.toNat } g (onRow (fun r v => r.floatLanes d.toNat (v.actLanes g) (f v)))

/-- Value k of a lane word in a float type (R126). -/
def fpart (t : FTy) (k : Nat) (x : W32) : Nat :=
  match t with
  | .f32 => x.toNat
  | _ => (x.extractLsb' (16 * k) 16).toNat

/-- A function of values applied to each value of a lane (R126). -/
def perValue (t : FTy) (f : Nat → Nat × Flags) : W32 × Flags :=
  match t with
  | .f32 => (BitVec.ofNat 32 (f 0).1, (f 0).2)
  | _ => (BitVec.ofNat 16 (f 1).1 ++ BitVec.ofNat 16 (f 0).1, (f 0).2 ||| (f 1).2)

/-- A with its sign replaced: a NaN gives the canonical NaN (R127). -/
def FFmt.resign (f : FFmt) (a : Nat) (neg : Bool) : Nat :=
  if (f.decode a).isNan then f.nanBits else f.signed neg (a % f.signBit)

/-- Table of R127. -/
def faluVal (f : FFmt) (op : FaluOp) (r : Rnd) (a b : Nat) : Nat × Flags :=
  let x := f.decode a
  let y := f.decode b
  match op with
  | .add => let (v, fl) := f.add r x y; (v, fl ||| nfOf [x, y])
  | .sub => let (v, fl) := f.add r x y.flip; (v, fl ||| nfOf [x, y])
  | .mul => let (v, fl) := f.mul r x y; (v, fl ||| nfOf [x, y])
  | .min => f.minmax false a b
  | .max => f.minmax true a b
  | .abs => (f.resign a false, nfOf [x])
  | .neg => (f.resign a (!x.neg), nfOf [x])
  | .copysign => (f.resign a (decide (f.signBit ≤ b % (2 * f.signBit))), nfOf [x, y])

def execVfalu (g : Guard) (op : FaluOp) (t : FTy) (r : Rnd) (d a : VReg) (m : Amod) (b : VReg) (s : State) :
    Host.Outcome State Fault Refusal :=
  floatTo { fpPlan (t != .f32) with illegal := amodWide m, regs := [d.toNat, a.toNat, b.toNat] } g d
    (fun v l => let x := v.src a m l; let y := v.vreg b.toNat l
      perValue t (fun k => faluVal (ftyFmt t) op r (fpart t k x) (fpart t k y))) s

/-- Table of R128. -/
def fmaVal (f : FFmt) (op : FmaOp) (r : Rnd) (a b d : Nat) : Nat × Flags :=
  let x := f.decode a
  let y := f.decode b
  let z := f.decode d
  let (v, fl) := match op with
    | .fma => f.fma r x y z
    | .fms => f.fma r x y z.flip
    | .fnma => f.fma r x.flip y z
  (v, fl ||| nfOf [x, y, z])

def execVfma (g : Guard) (op : FmaOp) (t : FTy) (r : Rnd) (d a : VReg) (m : Amod) (b : VReg) (s : State) :
    Host.Outcome State Fault Refusal :=
  floatTo { fpPlan (t != .f32) with illegal := amodWide m, regs := [d.toNat, a.toNat, b.toNat] } g d
    (fun v l => let x := v.src a m l; let y := v.vreg b.toNat l; let z := v.vreg d.toNat l
      perValue t (fun k => fmaVal (ftyFmt t) op r (fpart t k x) (fpart t k y) (fpart t k z))) s

/-- The scalar is s[b][31:0], read once (R128). -/
def execVfmas (g : Guard) (op : FmaOp) (t : FTy) (r : Rnd) (d a : VReg) (m : Amod) (b : SReg) (s : State) :
    Host.Outcome State Fault Refusal :=
  floatTo { fpPlan (t != .f32) with illegal := amodWide m, regs := [d.toNat, a.toNat] } g d
    (fun v l => let x := v.src a m l; let y := (v.sreg b.toNat).setWidth 32; let z := v.vreg d.toNat l
      perValue t (fun k => fmaVal (ftyFmt t) op r (fpart t k x) (fpart t k y) (fpart t k z))) s

def execVfun (g : Guard) (op : FunOp) (t : FTy) (r : Rnd) (d a : VReg) (m : Amod) (s : State) :
    Host.Outcome State Fault Refusal :=
  floatTo { fpPlan (t != .f32) 2 with illegal := amodWide m, regs := [d.toNat, a.toNat] } g d
    (fun v l => let x := v.src a m l
      perValue t (fun k => (ftyFmt t).fun_ op r ((ftyFmt t).decode (fpart t k x)))) s

/-- R130. -/
def fdivVal (f : FFmt) (r : Rnd) (a b : Nat) : Nat × Flags :=
  let x := f.decode a
  let y := f.decode b
  let (v, fl) := f.div r x y
  (v, fl ||| nfOf [x, y])

def execVfdiv (g : Guard) (t : FTy) (r : Rnd) (d a : VReg) (m : Amod) (b : VReg) (s : State) :
    Host.Outcome State Fault Refusal :=
  floatTo { fpPlan (t != .f32) 12 with illegal := amodWide m, regs := [d.toNat, a.toNat, b.toNat] } g d
    (fun v l => let x := v.src a m l; let y := v.vreg b.toNat l
      perValue t (fun k => fdivVal (ftyFmt t) r (fpart t k x) (fpart t k y))) s

/-- The class bit of a value (R131). -/
def fclass (f : FFmt) (b : Nat) : Nat :=
  match f.decode b with
  | .nan s => if s then 8 else 9
  | .inf n => if n then 0 else 7
  | .fin n m _ =>
    if m = 0 then (if n then 3 else 4)
    else if m < 2 ^ f.mb then (if n then 2 else 5)
    else (if n then 1 else 6)

/-- Whether a lane word matches a class mask (R131). -/
def classMatch (t : FTy) (h : Half) (x : W32) (mask : W64) : Bool :=
  let one (k : Nat) := mask.getLsbD (fclass (ftyFmt t) (fpart t k x))
  match h with
  | .lo => one 0
  | .hi => one 1
  | .either => one 0 || one 1

def execVfclass (g : Guard) (t : FTy) (h : Half) (d : PReg) (a : VReg) (m : Amod) (b : SReg) (s : State) :
    Host.Outcome State Fault Refusal :=
  issueL { fpPlan (t != .f32) with
    illegal := amodWide m, regs := [a.toNat], hold := fun r => r.pendP d.toNat } g
    (onRow (fun r v => r.setPreds d.toNat (v.actLanes g)
      (fun l => classMatch t h (v.src a m l) (v.sreg b.toNat)))) s

/-- The trap form: FP_TRAP with the lowest matching lane. -/
def execVfclassTrap (g : Guard) (t : FTy) (h : Half) (a : VReg) (m : Amod) (b : SReg) (s : State) :
    Host.Outcome State Fault Refusal :=
  issueL { fpPlan (t != .f32) with illegal := amodWide m, regs := [a.toNat] } g
    (fun s _ v => match (v.actLanes g).find? (fun l => classMatch t h (v.src a m l) (v.sreg b.toNat)) with
      | some l => .trap cFpTrap (BitVec.ofNat 64 l) s
      | none => .done s) s

/-! ### VFRED (R134) -/

/-- One Comb: FP32 bits with flags, an sNaN's own invalid left to the caller. -/
def fredComb (op : FredOp) (r : Rnd) (x y : Nat) : Nat × Flags :=
  faluVal fmt32 (match op with | .add => .add | .min => .min | .max => .max) r x y

/-- One level of the tree. -/
def fredLevel (op : FredOp) (r : Rnd) : List (Option Nat) → List (Option Nat) × Flags
  | some x :: some y :: rest =>
    let (z, f) := fredComb op r x y
    let (q, f') := fredLevel op r rest
    (some z :: q, f ||| f')
  | x :: y :: rest => let (q, f) := fredLevel op r rest; ((if x.isSome then x else y) :: q, f)
  | l => (l, 0)

/-- The whole tree over 2^k positions. -/
def fredTree (op : FredOp) (r : Rnd) : Nat → List (Option Nat) → Option Nat × Flags
  | 0, l => (l.headD none, 0)
  | k + 1, l =>
    let (l', f) := fredLevel op r l
    let (x, f') := fredTree op r k l'
    (x, f ||| f')

/-- A present value of any type as FP32 bits, with the flags of R134 for it. -/
def fredIn (t : FTy) (b : Nat) : Nat × Flags :=
  match (ftyFmt t).decode b with
  | .nan s => (if t == .f32 then b else fmt32.nanBits, fNF ||| flagIf s fInvalid)
  | .inf n => (fmt32.signed n fmt32.infBits, fNF)
  | .fin n m e => ((fmt32.round .rne n m e).1, 0)

/-- The reduction of the segment of base lane `base`, of 2^(seg+1) lanes. -/
def fredSeg (v : Row) (g : Guard) (op : FredOp) (t : FTy) (r : Rnd) (a : VReg) (m : Amod) (seg base : Nat) :
    Nat × Flags :=
  let halves := if t == .f32 then 1 else 2
  let pos : List (Option (Nat × Flags)) := (List.range (2 ^ (seg + 1) * halves)).map (fun i =>
    let l := base + i / halves
    if v.acts g l then some (fredIn t (fpart t (i % halves) (v.src a m l))) else none)
  let fl := pos.foldl (fun f x => match x with | some (_, f') => f ||| f' | none => f) 0
  let (x, f) := fredTree op r (seg + halves) (pos.map (fun x => x.map Prod.fst))
  let b := x.getD 0
  (if (fmt32.decode b).isNan then fmt32.nanBits else b, fl ||| f)

def execVfred (g : Guard) (op : FredOp) (t : FTy) (r : Rnd) (d a : VReg) (m : Amod) (seg : BitVec 6) (s : State) :
    Host.Outcome State Fault Refusal :=
  issueL { fpPlan (t != .f32) with
    illegal := fun r => amodWide m r || segWide seg r, regs := [d.toNat, a.toNat], hold := fun r => r.holdV d.toNat } g
    (onRow (fun rw v =>
      let S := 2 ^ (seg.toNat + 1)
      (List.range (v.L / S)).foldl (fun q k =>
        let ls := (v.actLanes g).filter (fun l => l / S == k)
        if ls.isEmpty then q
        else
          let (x, f) := fredSeg v g op t r a m seg.toNat (k * S)
          (q.setLanes d.toNat ls (fun _ => BitVec.ofNat 32 x)).orFlags f) rw)) s

end Sys2Proof.Machine
end

