-- ==== Sys2Proof/Machine/Predicate.lean ====
section
/-! DEFINITION. Compares, predicate logic and moves, and the execute mask (R73 to R83). -/

namespace Sys2Proof.Machine

/-! ### Compares (R74 to R76) -/

/-- Integer conditions of Table 03-2 on operands as integers and as bits. -/
def condInt {w : Nat} (c : Cond) (signed : Bool) (x y : BitVec w) : Bool :=
  let lt (p q : BitVec w) := if signed then p.slt q else p.ult q
  match c with
  | .eq => x == y
  | .ne => x != y
  | .lt => lt x y
  | .le => !lt y x
  | .gt => lt y x
  | .ge => !lt x y
  | .c6 => x &&& y != 0
  | .c7 => x &&& y == 0

/-- Float conditions of Table 03-2. -/
def condFp (c : Cond) (x y : FVal) : Bool :=
  match c with
  | .eq => x.numEq y
  | .ne => !x.numEq y
  | .lt => x.lt y
  | .le => x.lt y || x.numEq y
  | .gt => y.lt x
  | .ge => y.lt x || x.numEq y
  | .c6 => x.isNan || y.isNan
  | .c7 => !(x.isNan || y.isNan)

/-- R76. -/
def condFlags (c : Cond) (x y : FVal) : Flags :=
  flagIf ((x.isNan || y.isNan) && (c == .lt || c == .le || c == .gt || c == .ge)) fInvalid
    ||| flagIf (x.isSNan || y.isSNan) fInvalid ||| nfOf [x, y]

/-- VICMP's types of Table 03-3. -/
def vicond (c : Cond) (ty : BitVec 2) (x y : W32) : Bool :=
  if ty.getLsbD 1 then condInt c (!ty.getLsbD 0) (x.setWidth 16) (y.setWidth 16) else condInt c (!ty.getLsbD 0) x y

/-- SICMP's types of Table 03-3. -/
def sicond (c : Cond) (ty : BitVec 2) (x y : W64) : Bool :=
  if ty.getLsbD 1 then condInt c (!ty.getLsbD 0) (x.setWidth 32) (y.setWidth 32) else condInt c (!ty.getLsbD 0) x y

/-- R75: the new pair from the condition and the old pair. -/
def combine (k : Cmb) (c t f : Bool) : Bool × Bool :=
  match k with
  | .write => (c, !c)
  | .and => (t && c, f || !c)
  | .or => (t || c, f && !c)

/-- b's value in a lane: a vector register, or the low word of a scalar read once (R74). -/
def Row.cmpB (v : Row) (b : BitVec 6) (sb : Bool) (l : Nat) : W32 :=
  if sb then (v.sreg b.toNat).setWidth 32 else v.vreg b.toNat l

/-- The pair written in each lane that acts. -/
def Row.setPair (r v : Row) (k : Cmb) (pt pf : PReg) (ls : List Nat) (c : Nat → Bool) : Row :=
  let pair (l : Nat) := combine k (c l) ((v.preg pt.toNat).getLsbD l) ((v.preg pf.toNat).getLsbD l)
  (r.setPreds pt.toNat ls (fun l => (pair l).1)).setPreds pf.toNat ls (fun l => (pair l).2)

/-- Vector registers that a compare names. -/
def cmpRegs (a b : BitVec 6) (sb : Bool) : List Nat := if sb then [a.toNat] else [a.toNat, b.toNat]

def execVicmp (g : Guard) (pt pf : PReg) (a : VReg) (m : Amod) (b : BitVec 6) (sb : Bool) (c : Cond) (ty : BitVec 2)
    (k : Cmb) (s : State) : Host.Outcome State Fault Refusal :=
  issueL { illegal := amodWide m, regs := cmpRegs a b sb, units := 2, cycles := Row.passes,
           hold := fun r => r.pendP pt.toNat || r.pendP pf.toNat } g
    (onRow (fun r v => r.setPair v k pt pf (v.actLanes g) (fun l => vicond c ty (v.src a m l) (v.cmpB b sb l)))) s

def execVfcmp (g : Guard) (pt pf : PReg) (a : VReg) (m : Amod) (b : BitVec 6) (sb : Bool) (c : Cond) (ty : FTy)
    (k : Cmb) (s : State) : Host.Outcome State Fault Refusal :=
  issueL { fpPlan (ty != .f32) with
    illegal := amodWide m, regs := cmpRegs a b sb, hold := fun r => r.pendP pt.toNat || r.pendP pf.toNat } g
    (onRow (fun r v =>
      let val (x : W32) := (ftyFmt ty).decode (fpart ty 0 x)
      let ls := v.actLanes g
      (r.setPair v k pt pf ls (fun l => condFp c (val (v.src a m l)) (val (v.cmpB b sb l)))).orFlags
        (ls.foldl (fun f l => f ||| condFlags c (val (v.src a m l)) (val (v.cmpB b sb l))) 0))) s

def execSicmp (g : Guard) (pt pf : PReg) (a b : SReg) (c : Cond) (ty : BitVec 2) (k : Cmb) (s : State) :
    Host.Outcome State Fault Refusal :=
  issueQ {} g (onRow (fun r v =>
    let p := combine k (sicond c ty (v.sreg a.toNat) (v.sreg b.toNat)) (v.qreg pt.toNat) (v.qreg pf.toNat)
    (r.setQ pt.toNat p.1).setQ pf.toNat p.2)) s

/-! ### Predicate logic and moves (R77 to R79) -/

/-- fn[(A<<1)|B] (R77). -/
def plopVal (fn : BitVec 4) (a b : Bool) : Bool := fn.getLsbD (2 * a.toNat + b.toNat)

def execPlop (g : Guard) (q : Bool) (fn : BitVec 4) (d a b : PReg) (s : State) : Host.Outcome State Fault Refusal :=
  if q then
    issueQ {} g (onRow (fun r v => r.setQ d.toNat (plopVal fn (v.qreg a.toNat) (v.qreg b.toNat)))) s
  else
    issueL { units := 2, cycles := Row.passes, hold := fun r => r.pendP d.toNat } g
      (onRow (fun r v => r.setPreds d.toNat (v.actLanes g)
        (fun l => plopVal fn ((v.preg a.toNat).getLsbD l) ((v.preg b.toNat).getLsbD l)))) s

/-- pd[64k+63 : 64k] := x, bits at or above L ignored (Table 03-6). -/
def setWord64 (m : Mask) (k : Nat) (x : W64) : Mask :=
  (m &&& ~~~(((BitVec.allOnes 64).setWidth 1024) <<< (64 * k))) ||| ((x.setWidth 1024) <<< (64 * k))

/-- Table 03-6. -/
def execPmov (g : Guard) (f : PmovForm) (s : State) : Host.Outcome State Fault Refusal :=
  match f with
  | .pv d a m =>
    issueL { illegal := amodWide m, regs := [a.toNat], units := 2, cycles := Row.passes,
             hold := fun r => r.pendP d.toNat } g
      (onRow (fun r v => r.setPreds d.toNat (v.actLanes g) (fun l => v.src a m l != 0))) s
  | .vp d a m =>
    issueL { illegal := amodWide m, regs := [d.toNat], units := 2, cycles := Row.passes,
             hold := fun r => r.holdV d.toNat } g
      (onRow (fun r v => r.setLanes d.toNat (v.actLanes g) (fun l => if v.srcP a m l then 1 else 0))) s
  | .pp d a m =>
    issueL { illegal := amodWide m, units := 2, cycles := Row.passes, hold := fun r => r.pendP d.toNat } g
      (onRow (fun r v => r.setPreds d.toNat (v.actLanes g) (fun l => v.srcP a m l))) s
  | .qs d a => issueQ {} g (onRow (fun r v => r.setQ d.toNat (v.sreg a.toNat != 0))) s
  | .sq d a =>
    issueQ { hold := fun r => r.pendS d.toNat } g
      (onRow (fun r v => r.setS d.toNat (if v.qreg a.toNat then 1 else 0))) s
  | .qq d a => issueQ {} g (onRow (fun r v => r.setQ d.toNat (v.qreg a.toNat))) s
  | .get d a k =>
    issueQ { illegal := fun r => r.L ≤ 64 * k.toNat, hold := fun r => r.pendS d.toNat } g
      (onRow (fun r v => r.setS d.toNat ((v.preg a.toNat >>> (64 * k.toNat)).setWidth 64))) s
  | .set d a k =>
    issueQ { illegal := fun r => r.L ≤ 64 * k.toNat, hold := fun r => r.pendP d.toNat } g
      (onRow (fun r v => r.setP d.toNat (setWord64 (r.preg d.toNat) k.toNat (v.sreg a.toNat)))) s
  | .any d a => issueQ {} g (onRow (fun r v => r.setQ d.toNat (v.arm.em &&& v.preg a.toNat != 0))) s
  | .all d a => issueQ {} g (onRow (fun r v => r.setQ d.toNat (v.arm.em &&& ~~~(v.preg a.toNat) == 0))) s

def execPlive (g : Guard) (mask : BitVec 8) (s : State) : Host.Outcome State Fault Refusal :=
  issueQ {} g (onRow (fun r _ => { r with csr := { r.csr with plive := mask ||| 1 } })) s

/-! ### The execute mask (R82, R83) -/

/-- Lanes l below L where Guard(l) holds, whatever `em` holds. -/
def Row.guardMask (r : Row) (g : Guard) : Mask := maskOf r.L (r.guardL g)

/-- Widen: held lanes whose guard holds come back. -/
def execEmsetAll (g : Guard) (s : State) : Host.Outcome State Fault Refusal :=
  issueWord { cycles := fun r => r.L / 32, priv := true } (fun r => r.guardMask g != 0) (onRow (fun r v =>
    let back := r.arm.held &&& v.guardMask g
    { r with arm := { r.arm with em := r.arm.em ||| back, held := r.arm.held &&& ~~~back } })) s

/-- The mask that EMGET reads. -/
def emSel (v : Row) : EmSel → Mask
  | .em => v.arm.em
  | .live => v.live
  | .held => v.arm.held

def execEmget (g : Guard) (d : PReg) (sel : EmSel) (s : State) : Host.Outcome State Fault Refusal :=
  issueAll { cycles := fun r => r.L / 32, hold := fun r => r.pendP d.toNat } (onRow (fun r v =>
    let gm := v.guardMask g
    r.setP d.toNat ((r.preg d.toNat &&& ~~~gm) ||| (emSel v sel &&& gm)))) s

end Sys2Proof.Machine
end

