-- ==== Sys2Proof/Machine/Control.lean ====
section
/-! DEFINITION. Branches, arms, tokens and reconvergence (R84 to R101), and the end of lanes and of the row (R33, R34). -/

namespace Sys2Proof.Machine

/-- The target of format B (R58). -/
def Row.target (r : Row) (off : BitVec 33) : Va := r.arm.clause.hdr + (off.signExtend 56 <<< 3)

/-- R345: a token at depth `k` lies at or below the open region's snapshot depth, outside handler mode. -/
def Row.below (r : Row) (k : Nat) : Bool :=
  !r.handler && (match r.region with | some g => decide (k ≤ g.depth) | none => false)

/-- Lanes parked at a BAR in either arm (R100). -/
def Row.barParked (r : Row) : Mask := r.arm.barPark ||| (match r.other with | some o => o.barPark | none => 0)
/-- Held lanes of either arm. -/
def Row.heldLanes (r : Row) : Mask := r.arm.held ||| (match r.other with | some o => o.held | none => 0)
/-- The last BAR executed (R101): every parked lane stands at one address. -/
def Row.lastBar (r : Row) : Va :=
  if r.arm.barPark != 0 then r.arm.barAt else match r.other with | some o => o.barAt | none => r.arm.pc

/-- R84: the trap of a push with 32 tokens held. -/
def Row.overflow (r : Row) : W8 × W64 :=
  if r.barParked != 0 then (cBarDiverge, r.arm.pc.setWidth 64) else (cTokenOverflow, 0)

/-- Push a token of the current arm. -/
def Row.push (r : Row) (k : TokKind) (pca : Option Va) (pcb : Va) (wait : Mask) : Row :=
  { r with arm := { r.arm with toks := ⟨k, pca, pcb, wait, 0, r.tokSerial⟩ :: r.arm.toks }, tokSerial := r.tokSerial + 1 }

/-- An operation or peg that belonged to an arm belongs to the whole row after a merge (R98). -/
def Row.retag (r : Row) : Row :=
  { r with
    ops := r.ops.map (fun o => { o with arm := .single })
    peg := r.peg.map (fun e => (e.1, { e.2 with arm := .single })) }

/-- R86, R98: two finished arms become one. -/
def Row.merge (r : Row) (t : ArmsTok) (o : Arm) : Row :=
  let a := { r.arm with
    em := t.parkT ||| t.parkF, held := r.arm.held ||| o.held, flags := r.arm.flags ||| o.flags
    st := .running, toks := [] }
  { r.retag with
    arm := (match t.pca with | some p => a.goto p | none => a), other := none, armId := .single, armsTok := none }

/-- R100: the BAR that the parked lanes wait at is due, because no other lane is left; the arm that holds it. -/
def Row.barDue (r : Row) : Bool := r.barParked != 0 && r.live &&& ~~~r.heldLanes &&& ~~~r.barParked == 0

/-- R100, R101: the arm goes back to its BAR, with the tokens that were held when its lanes parked. -/
def Arm.toBar (a : Arm) (shared : Nat) : Arm :=
  { a with
    pc := a.barAt, clause := a.barClause, st := .running
    toks := a.barToks ++ a.toks.drop (a.toks.length - (a.barDepth - shared - a.barToks.length))
    barToks := [] }

/-- R101: with lanes parked, the waiting lanes of the innermost SPLIT that has any run. The tokens above it that the parked
lanes hold are set aside; others are dropped where they hold no lane. -/
def Arm.runWaiting (a : Arm) (shared : Nat) : Option Arm :=
  match a.toks.findIdx? (fun t => t.kind == .split && t.wait != 0) with
  | none => none
  | some i => match a.toks.drop i with
    | t :: rest =>
      let fresh := a.toks.length - (a.barDepth - shared - a.barToks.length)
      let aside := (a.toks.take fresh |>.take i |>.filter (fun x => x.park != 0 || x.wait != 0)) ++ (a.toks.take i).drop fresh
      some ({ a with em := t.wait, toks := { t with wait := 0 } :: rest, barToks := a.barToks ++ aside }.goto t.pcb)
    | [] => none

/-- R100: the parked lanes' BAR is due; none where they lie under different tokens (R101). -/
def Row.goBar (r : Row) : Option Row :=
  let n := r.armsTok.isSome.toNat
  match r.other with
  | none => if r.arm.barMix then none else some { r with arm := r.arm.toBar n }
  | some o =>
    let both := r.arm.barPark != 0 && o.barPark != 0
    if r.arm.barMix || o.barMix || (both && !(r.arm.toks.isEmpty && o.toks.isEmpty)) then none
    else if r.arm.barPark != 0 && (o.barPark == 0 || r.armId == .t) then some { r with arm := r.arm.toBar n }
    else
      let r1 := { r with arm := { r.arm with st := if both then .barPark else .finished } }.switch
      some { r1 with arm := r1.arm.toBar n }

/-- Resume (R86) with no lane parked at a BAR in the current arm: the row, and whether its pc was set; none where the row
finds no lane it may run. -/
def resumeLoop : Nat → Row → Bool → Option (Row × Bool)
  | 0, r, moved => some (r, moved)
  | k + 1, r, moved =>
    let a := r.arm
    match a.toks with
    | t :: rest =>
      if t.kind != .call && t.wait != 0 then
        some ({ r with arm := { a with em := t.wait, toks := { t with wait := 0 } :: rest }.goto t.pcb }, true)
      else match t.kind with
        | .call =>
          let a := { a with toks := rest }
          resumeLoop k { r with arm := (match t.pca with | some p => a.goto p | none => a) } true
        | _ =>
          if t.park != 0 then
            let a := { a with em := t.park, toks := rest }
            some ({ r with arm := (match t.pca with | some p => a.goto p | none => a) }, t.pca.isSome)
          else resumeLoop k { r with arm := { a with toks := rest } } moved
    | [] =>
      match r.armsTok, r.other with
      | none, _ => some (r, moved)
      | some t, none =>
        let a := { a with em := t.parkT ||| t.parkF, st := .running }
        some ({ r with arm := (match t.pca with | some p => a.goto p | none => a), armsTok := none },
          moved || t.pca.isSome)
      | some t, some o =>
        let r1 := { r with arm := { a with st := if a.st == ArmSt.joinPark then ArmSt.joinPark else ArmSt.finished } }
        if o.st == .running then some (r1.switch, true)
        else if o.st == .barPark then none
        else some (r1.merge t o, moved || t.pca.isSome)

/-- Resume with lanes parked at a BAR in the current arm (R101): the waiting lanes of a SPLIT, or the other arm. -/
def Row.resumeParked (r : Row) : Option (Row × Bool) :=
  match r.arm.runWaiting r.armsTok.isSome.toNat with
  | some a => some ({ r with arm := a }, true)
  | none => if r.otherRuns then some ({ r with arm := { r.arm with st := .barPark } }.switch, true) else none

/-- Resume, or the BAR that has become due (R100). Until ERET the other arm does not issue (R99): a handler's lanes that
park leave none but it to run, and the row finds no lane (R101). -/
def Row.resume (r : Row) : Option (Row × Bool) :=
  (if r.barDue then r.goBar.map (fun r => (r, true))
   else if r.arm.barPark != 0 then r.resumeParked
   else resumeLoop (r.tokTotal + 2) r false).filter (fun x => !r.handler || x.1.armId == r.armId)

/-- The outcome of an instruction after which Resume runs: BAR_DIVERGE, with no effect, where it finds no lane (R101). -/
def resumed (s : State) (n : Nat) (r : Row) : Res :=
  match r.resume with
  | none => .trap cBarDiverge (r.lastBar.setWidth 64) s
  | some (r', moved) => if moved then .jump (s.setRow n r') (r'.armId == r.armId) else .done (s.setRow n r')

/-- EMSET narrowing (R82): the lanes that act and are clear in pa become held. A BAR at which every other lane is parked is
then due (R100). -/
def execEmset (g : Guard) (a : PReg) (s : State) : Host.Outcome State Fault Refusal :=
  issueL { cycles := Row.passes, priv := true } g (fun s n v =>
    let r := s.row n
    let out := r.arm.em &&& v.guardMask g &&& ~~~(v.preg a.toNat)
    let r1 := { r with arm := { r.arm with em := r.arm.em &&& ~~~out, held := r.arm.held ||| out } }
    if r1.barDue then resumed s n r1 else .done (s.setRow n r1)) s

/-- The current arm branches. -/
def branch (s : State) (n : Nat) (t : Va) : Res := .jump (s.modRow n (fun r => { r with arm := r.arm.goto t })) true

/-- R88. -/
def brTaken (c : BrCond) (em p : Mask) : Bool :=
  match c with
  | .always => true
  | .any => em &&& p != 0
  | .all => em &&& ~~~p == 0
  | .none => em &&& p == 0

def execBr (g : Guard) (c : BrCond) (pr : PReg) (off : BitVec 33) (s : State) : Host.Outcome State Fault Refusal :=
  issueQ {} g (fun s n v =>
    if brTaken c v.arm.em (v.preg pr.toNat) then branch s n (v.target off) else .done s) s

/-- The moving lanes (R87). -/
def Row.moving (v : Row) (g : Guard) (pr : PReg) (neg : Bool) : Mask :=
  v.arm.em &&& v.guardMask g &&& (if neg then ~~~(v.preg pr.toNat) else v.preg pr.toNat)

/-- R89: a row with an empty stack splits into arms T and F. -/
def Row.split (r : Row) (m f : Mask) (t : Va) : Row :=
  { r with
    arm := { r.arm with em := m, held := 0 }.goto t
    other := some ({ r.arm with em := f }.goto (r.arm.pc + 8))
    armId := .t
    armsTok := some ⟨none, 0, 0, r.tokSerial⟩
    tokSerial := r.tokSerial + 1 }

/-- R89. -/
def execBrv (g : Guard) (pr : PReg) (neg : Bool) (off : BitVec 33) (s : State) : Host.Outcome State Fault Refusal :=
  issueL { priv := true, cycles := Row.passes } g (fun s n v =>
    let r := s.row n
    let m := v.moving g pr neg
    let f := v.arm.em &&& ~~~m
    let t := v.target off
    if m == 0 then .done s
    else if f == 0 then branch s n t
    else if r.tokdepth = 0 then
      if r.region.isSome && !r.handler then .trap cIdemNest 5 s else .jump (s.setRow n (r.split m f t)) false
    else if 32 ≤ r.tokTotal then .trap r.overflow.1 r.overflow.2 s
    else
      let r1 := r.push .split none (r.arm.pc + 8) f
      .jump (s.setRow n { r1 with arm := { r1.arm with em := m }.goto t }) true) s

/-- R90 on the innermost token: the row with its lanes parked; none where BAR_DIVERGE is raised. -/
def Row.park (r : Row) (x : Va) : Option Row :=
  let a := r.arm
  match a.toks with
  | t :: rest =>
    if t.kind == .split && (t.pca.isNone || t.pca == some x) then
      some { r with arm := { a with em := 0, toks := { t with pca := some x, park := t.park ||| a.em } :: rest } }
    else none
  | [] =>
    match r.armsTok with
    | some t =>
      if t.pca.isNone || t.pca == some x then
        let t := { t with pca := some x }
        let t := if r.armId == .f then { t with parkF := t.parkF ||| a.em } else { t with parkT := t.parkT ||| a.em }
        some { r with armsTok := some t, arm := { a with em := 0, st := .joinPark } }
      else none
    | none => none

/-- R90. csr.tval of its BAR_DIVERGE on a LOOP or CALL token, for which the spec gives no value, is the JOIN's address (log entry
19). -/
def execJoin (g : Guard) (off : BitVec 33) (s : State) : Host.Outcome State Fault Refusal :=
  issueQ { priv := true } g (fun s n v =>
    let r := s.row n
    let x := v.target off
    if r.tokdepth = 0 then branch s n x
    else if r.below r.tokdepth then .trap cIdemNest 5 s
    else match r.park x with
      | some r' => resumed s n r'
      | none => .trap cBarDiverge (r.arm.pc.setWidth 64) s) s

/-- Index of the innermost LOOP token of the current arm with no CALL token above it (R92). -/
def findLoop : List Token → Option Nat
  | [] => none
  | t :: rest => match t.kind with
    | .loop => some 0
    | .call => none
    | .split => (findLoop rest).map (· + 1)

/-- Index of the innermost LOOP token, whatever lies above it. -/
def anyLoop (l : List Token) : Option Nat := l.findIdx? (fun t => t.kind == .loop)

/-- BRK and CONT (R92), with how the LOOP token takes the moving lanes. csr.tval of their BAR_DIVERGE, for which the spec gives no
value, is the instruction's address (log entry 19). -/
def leaveLoop (g : Guard) (pr : PReg) (neg : Bool) (f : Mask → Token → Token) :
    State → Host.Outcome State Fault Refusal :=
  issueL { priv := true, cycles := Row.passes } g (fun s n v =>
    let r := s.row n
    let m := v.moving g pr neg
    if m == 0 then .done s
    else if (match anyLoop r.arm.toks with | some i => r.below (r.tokdepth - i) | none => false) then .trap cIdemNest 5 s
    else match findLoop r.arm.toks with
      | none => .trap cBarDiverge (r.arm.pc.setWidth 64) s
      | some i =>
        let em := r.arm.em &&& ~~~m
        let r' := { r with arm := { r.arm with em := em, toks := r.arm.toks.modify i (f m) } }
        if em == 0 then resumed s n r' else .done (s.setRow n r'))

def execBrk (g : Guard) (pr : PReg) (neg : Bool) (s : State) : Host.Outcome State Fault Refusal :=
  leaveLoop g pr neg (fun m t => { t with park := t.park ||| m }) s
def execCont (g : Guard) (pr : PReg) (neg : Bool) (s : State) : Host.Outcome State Fault Refusal :=
  leaveLoop g pr neg (fun m t => { t with wait := t.wait ||| m }) s

/-- R91. -/
def execLoops (g : Guard) (off : BitVec 33) (s : State) : Host.Outcome State Fault Refusal :=
  issueQ { priv := true } g (fun s n v =>
    let r := s.row n
    if 32 ≤ r.tokTotal then .trap r.overflow.1 r.overflow.2 s
    else .done (s.setRow n (r.push .loop (some (v.target off)) (r.arm.clause.last + 8) 0))) s

/-- R93: a call to a target. -/
def callTo (s : State) (n : Nat) (t : Va) : Res :=
  let r := s.row n
  if 32 ≤ r.tokTotal then .trap r.overflow.1 r.overflow.2 s
  else
    let r1 := r.push .call (some (r.arm.pc + 8)) 0 0
    .jump (s.setRow n { r1 with arm := r1.arm.goto t }) true

def execCall (g : Guard) (off : BitVec 33) (s : State) : Host.Outcome State Fault Refusal :=
  issueQ { priv := true } g (fun s n v => callTo s n (v.target off)) s

/-- R93. csr.tval of its BAR_DIVERGE, for which the spec gives no value, is the RET's address (log entry 19). -/
def execRet (g : Guard) (s : State) : Host.Outcome State Fault Refusal :=
  issueQ { priv := true } g (fun s n _ =>
    let r := s.row n
    if r.tokdepth ≠ 0 && r.below r.tokdepth then .trap cIdemNest 5 s
    else match r.arm.toks with
      | ⟨.call, some p, _, _, _, _⟩ :: rest =>
        .jump (s.setRow n { r with arm := { r.arm with toks := rest }.goto p }) true
      | _ => .trap cBarDiverge (r.arm.pc.setWidth 64) s) s

/-- R94: the target of a register jump, or the misaligned value. -/
def jumpReg (v : Row) (a : SReg) : Va × Bool :=
  let t : Va := (v.sreg a.toNat).setWidth 56
  (t, t &&& 7 == 0)

def execJmpr (g : Guard) (a : SReg) (s : State) : Host.Outcome State Fault Refusal :=
  issueQ {} g (fun s n v =>
    let t := jumpReg v a
    if t.2 then branch s n t.1 else .trap cMisalign (t.1.setWidth 64) s) s
def execJmprCall (g : Guard) (a : SReg) (s : State) : Host.Outcome State Fault Refusal :=
  issueQ { priv := true } g (fun s n v =>
    let t := jumpReg v a
    if t.2 then callTo s n t.1 else .trap cMisalign (t.1.setWidth 64) s) s

/-- Lanes that exit leave every mask of the row (R33, R95). -/
def Row.exitLanes (r : Row) (m : Mask) : Row :=
  let tok (t : Token) : Token := { t with wait := t.wait &&& ~~~m, park := t.park &&& ~~~m }
  let arm (a : Arm) : Arm := { a with
    em := a.em &&& ~~~m, held := a.held &&& ~~~m, barPark := a.barPark &&& ~~~m
    toks := a.toks.map tok, barToks := a.barToks.map tok }
  { r with
    exited := r.exited ||| m
    arm := arm r.arm
    other := r.other.map arm
    armsTok := r.armsTok.map (fun t => { t with parkT := t.parkT &&& ~~~m, parkF := t.parkF &&& ~~~m }) }

/-- R34: the row thread issues nothing more and retires once its operations complete. An array that a handler's EXIT
finds frozen runs on, so that they can complete. -/
def Row.retiring (r : Row) : Row :=
  { r with life := .retiring, region := none, wait := none, req := none, granted := false, frozen := false, arrStop := .run }

/-- R95. -/
def execLexit (g : Guard) (s : State) : Host.Outcome State Fault Refusal :=
  issueL { priv := true, nest := true, cycles := Row.passes } g (fun s n v =>
    let r := (s.row n).exitLanes (v.arm.em &&& v.guardMask g)
    if r.live == 0 then .halt (s.setRow n r.retiring)
    else if r.arm.em == 0 then resumed s n r
    else .done (s.setRow n r)) s

/-- R96. -/
def execExit (g : Guard) (s : State) : Host.Outcome State Fault Refusal :=
  issueQ { nest := true } g (fun s n _ =>
    .halt (s.modRow n (fun r => (r.exitLanes (laneMask r.L)).retiring))) s

end Sys2Proof.Machine
end

