-- ==== Sys2Proof/Machine/Buffers.lean ====
section
/-! DEFINITION. Circular buffers: the four slot operations of every agent (R291 to R293), and CBACQ, CBREL and CBPUB
(R294, R295). -/

namespace Sys2Proof.Machine

def State.buf (s : State) (d b : Nat) : CBuf := tget .reset (s.die d).bufs b
def State.setBuf (s : State) (d b : Nat) (x : CBuf) : State :=
  s.modDie d (fun y => { y with bufs := tset .reset y.bufs b x })

def CBuf.slot (c : CBuf) (i : Nat) : SlotSt := tget .free c.slots i
def CBuf.setSlot (c : CBuf) (i : Nat) (x : SlotSt) : CBuf := { c with slots := tset .free c.slots i x }
def CBuf.count (c : CBuf) (i : Nat) : Nat := tget 0 c.counts i
def CBuf.addr (c : CBuf) (i : Nat) : W64 := c.base + BitVec.ofNat 64 (i * c.size)
/-- The slot at an address in a state. -/
def CBuf.find (c : CBuf) (a : W64) (x : SlotSt) : Option Nat :=
  (List.range c.n).find? (fun i => c.addr i == a && c.slot i == x)
def CBuf.noHeld (c : CBuf) : Bool := (List.range c.n).all (fun i => c.slot i != .held)
/-- Consecutive slots in a state, from an index (R291). -/
def CBuf.run (c : CBuf) (x : SlotSt) (i : Nat) : Nat :=
  ((List.range c.n).takeWhile (fun k => c.slot ((i + k) % c.n) == x)).length

/-- Producer take: the slot at P, or none where it is not free. -/
def CBuf.prodTake (c : CBuf) : Option (CBuf × Nat) :=
  if c.slot c.p == .free then some ({ c.setSlot c.p .held with p := (c.p + 1) % c.n }, c.p) else none
/-- Publish a held slot. -/
def CBuf.publish (c : CBuf) (i bytes : Nat) (fin : Bool) : CBuf :=
  { c.setSlot i .filled with counts := tset 0 c.counts i bytes, ended := c.ended || fin }
/-- The end of the buffer as a consumer meets it (R293). -/
def CBuf.atEnd (c : CBuf) : Bool := c.ended && c.noHeld && c.slot c.c != .filled
/-- Consumer take: the slot at C, or none where it is not filled. -/
def CBuf.consTake (c : CBuf) : Option (CBuf × Nat) :=
  if c.slot c.c == .filled then some ({ c.setSlot c.c .taken with c := (c.c + 1) % c.n }, c.c) else none
/-- Release a taken slot. -/
def CBuf.release (c : CBuf) (i : Nat) : CBuf := c.setSlot i .free

/-- The band's first row: the fixed top, or for a band that lies in one die alone the row it was secured at (R299, R304). -/
def Pl.first (p : Pl) : Nat := match p.top with | some t => t | none => p.topAt.getD 0

/-- A side of a buffer belongs to an edge of a running placement (R293): the producer's side a south edge, the consumer's a
north edge. -/
def State.bufBound (s : State) (d b : Nat) (producer : Bool) : Bool :=
  s.job.pls.any (fun p => p.st == .running &&
    (if producer then p.south == .cb b && dieOf (p.first + p.rows - 1) == d else p.north == .cb b && dieOf p.first == d))

/-- R295's tests 1 and 2. -/
def bufFault (s : State) (d b : Nat) (producer : Bool) : Option W64 :=
  if !(s.buf d b).setUp then some 1 else if s.bufBound d b producer then some 2 else none

/-- A buffer instruction under its guard. -/
def bufInstr (g : Guard) (die : BitVec 2) (buf : BitVec 6) (producer : Bool) (hold : Row → Bool)
    (body : State → Nat → Row → CBuf → Res) : State → Host.Outcome State Fault Refusal :=
  issueQ { nest := true, access := true, hold := hold } g (fun s n v =>
    match bufFault s die.toNat buf.toNat producer with
    | some t => .trap cCbError t s
    | none => body s n v (s.buf die.toNat buf.toNat))

def execCbacq (g : Guard) (a b : SReg) (die : BitVec 2) (buf : BitVec 6) (s : State) : Host.Outcome State Fault Refusal :=
  bufInstr g die buf false (fun r => r.pendS a.toNat || r.pendS b.toNat) (fun s n _ c =>
    let put (s : State) (x y : W64) : State := s.modRow n (fun r => (r.setS a.toNat x).setS b.toNat y)
    if c.atEnd then .done (put s 0 0x8000000000000000)
    else if (s.row n).volatileOpen then .wait .memory s
    else match c.consTake with
      | some (c', i) =>
        .done (put ((s.setBuf die.toNat buf.toNat c').acquireAt (dieOf n) .device) (c.addr i) (BitVec.ofNat 64 (c.count i)))
      | none => .wait .buffer s) s

def execCbrel (g : Guard) (a : SReg) (die : BitVec 2) (buf : BitVec 6) (s : State) : Host.Outcome State Fault Refusal :=
  bufInstr g die buf false (fun _ => false) (fun s n v c =>
    match c.find (v.sreg a.toNat) .taken with
    | none => .trap cCbError 4 s
    | some i =>
      if !(s.row n).drained then .wait .memory s
      else .done ((s.releaseAt (dieOf n) .device).setBuf die.toNat buf.toNat (c.release i))) s

def execCbpub (g : Guard) (a b : SReg) (fin : Bool) (die : BitVec 2) (buf : BitVec 6) (s : State) :
    Host.Outcome State Fault Refusal :=
  bufInstr g die buf true (fun _ => false) (fun s n v c =>
    let bytes := (v.sreg b.toNat).toNat
    if c.ended then .trap cCbError 3 s
    else match c.find (v.sreg a.toNat) .held with
      | none => .trap cCbError 4 s
      | some i =>
        if c.size < bytes then .trap cCbError 5 s
        else if !(s.row n).drained then .wait .memory s
        else .done ((s.releaseAt (dieOf n) .device).setBuf die.toNat buf.toNat (c.publish i bytes fin))) s

def execCbpubGet (g : Guard) (a : SReg) (die : BitVec 2) (buf : BitVec 6) (s : State) : Host.Outcome State Fault Refusal :=
  bufInstr g die buf true (fun r => r.pendS a.toNat) (fun s n _ c =>
    if c.ended then .trap cCbError 3 s
    else if (s.row n).volatileOpen then .wait .memory s
    else match c.prodTake with
      | some (c', i) =>
        .done (((s.setBuf die.toNat buf.toNat c').acquireAt (dieOf n) .device).modRow n (fun r => r.setS a.toNat (c.addr i)))
      | none => .wait .buffer s) s

end Sys2Proof.Machine
end

