-- ==== Sys2Proof/Machine/Ports.lean ====
section
/-! DEFINITION. Ports and the column chain (R15 to R17, R155 to R171): pushing, popping and seals, shared by the port
instructions, the array and the edges. -/

namespace Sys2Proof.Machine

/-! ### Links (R24, R25) -/

def State.port (s : State) (p : Nat) : Port := tget .reset s.dev.ports p
def State.setPort (s : State) (p : Nat) (x : Port) : State := s.modDev (fun d => { d with ports := tset .reset d.ports p x })
def State.modPort (s : State) (p : Nat) (f : Port → Port) : State := s.setPort p (f (s.port p))

/-- Buffers of a virtual channel are free again. -/
def Port.free (x : Port) (vc k : Nat) : Port := { x with freed := tset 0 x.freed vc (tget 0 x.freed vc + k) }

/-- Row n's south port is a chain end whose link has gone down (R369). -/
def State.southDown (s : State) (n : Nat) : Bool :=
  match (s.row n).sbind with | .link p => !(s.port p).up | _ => false
/-- A push at row n's south port traps: it is sealed, or its link has gone down. -/
def State.southShut (s : State) (n : Nat) : Bool := (s.row n).southSealed || s.southDown n

/-! ### Edges -/

/-- Depth of the FIFO at row n's south port (Table 01-4). -/
def portDepth (n : Nat) : Nat := if n % 128 = 127 then 128 else 32
/-- Entries that a north edge bound to a circular buffer makes poppable at once (log entry 27). -/
def edgeDepth : Nat := 32

/-- Entries pushed at row n's south port that it has not seen popped: a die boundary shows a pop late (R156), and a link-bound
end counts what the peer has not freed (R166). -/
def State.southHeld (s : State) (n : Nat) : Nat :=
  let r := s.row n
  match r.sbind with
  | .row => let q := s.row (n + 1); q.north.entries.length + q.north.flight.length + q.unseen
  | .cb _ => r.edgeOut.length
  | .link p => s.job.chainOut.length + ((s.port p).trail.count true + 1) / 2
  | .closed => 0

/-- Entries that a circular-buffer south edge can still place: in its current slot and the free slots that follow (R165). -/
def State.edgeRoom (s : State) (n b : Nat) : Nat :=
  let r := s.row n
  let c := s.buf (dieOf n) b
  (if r.edgeSlot.isSome then (c.size - r.edgeFill) / 128 else 0) + c.run .free c.p * (c.size / 128)

/-- The south port of row n has room for k entries (R158, R164). That a consumer beyond a link has retired
is not known at this end, since R166 has no cell for it (log entry 24). -/
def State.southRoom (s : State) (n k : Nat) : Bool :=
  let r := s.row n
  r.southGone || (match r.sbind with
    | .row => s.southHeld n + k ≤ portDepth n
    | .cb b => s.southHeld n + k ≤ s.edgeRoom n b
    | .link _ => s.southDown n || s.southHeld n + k ≤ 128
    | .closed => true)

/-- PushPort: entries leave row n's south port in order; a consumer that has retired discards them (R164). The array's own pushes
at a link that has gone down trap (R369; log entry 54). -/
def State.pushSouth (s : State) (n : Nat) (es : List PEntry) : State :=
  let r := s.row n
  if r.southGone then s
  else match r.sbind with
    | .row => s.modRow (n + 1) (fun q => { q with north := { q.north with flight := q.north.flight ++ es } })
    | .cb _ => s.modRow n (fun q => { q with edgeOut := q.edgeOut ++ es })
    | .link _ => if s.southDown n then s.defer n cPortClosed 1 else s.modJob (fun j => { j with chainOut := j.chainOut ++ es })
    | .closed => s

/-- A seal on row n's south port (R161): none at a closed edge, no second one; at a link it goes out behind the entries. -/
def State.sealSouth (s : State) (n : Nat) : State :=
  let r := s.row n
  if r.sbind == .closed || r.southSealed then s
  else
    let s1 := s.modRow n (fun q => { q with southSealed := true })
    match r.sbind with
    | .row =>
      if r.southGone then s1 else s1.modRow (n + 1) (fun q => { q with north := { q.north with sealAt := .flying } })
    | .link _ => s1.modJob (fun j => { j with chainSeal := true })
    | _ => s1

/-- Slots of a circular-buffer north edge whose last entry has been popped: those left, and those to release (R165). -/
def edgePop : List (Nat × Nat) → Nat → List (Nat × Nat) × List Nat
  | [], _ => ([], [])
  | (i, c) :: rest, k => if c ≤ k then let (l, f) := edgePop rest (k - c); (l, i :: f) else ((i, c - k) :: rest, [])

/-- PopPort: the k oldest entries leave row n's north port; an edge releases the slots that they end, and the producer across
a die boundary sees the pops later (R156). -/
def State.dropNorth (s : State) (n k : Nat) : State :=
  let r := s.row n
  let (left, free) := edgePop r.edgeIn k
  let s1 := s.modRow n (fun q => { q with
    north := { q.north with entries := q.north.entries.drop k }, edgeIn := left
    unseen := if q.nbind == .row && n % 128 = 0 then q.unseen + min k q.north.entries.length else q.unseen })
  match r.nbind with
  | .cb b =>
    if free.isEmpty then s1
    else (s1.releaseAt (dieOf n) .device).setBuf (dieOf n) b (free.foldl CBuf.release (s1.buf (dieOf n) b))
  | .link p => s1.modPort p (fun x => x.free 2 (2 * min k r.north.entries.length))
  | _ => s1

/-- A seal stands behind the entries that are present (R159). -/
def Row.sealed (r : Row) : Bool := r.north.sealAt == .present && r.north.flight.isEmpty

/-- Scope of the ordering that the boundary below row n carries (R171). -/
def State.southScope (s : State) (n : Nat) : Sys2Proof.Scope :=
  match (s.row n).sbind with
  | .link _ => .system
  | .row => if n % 128 = 127 then .device else .die
  | _ => .device
/-- The same for the boundary above row n. -/
def State.northScope (s : State) (n : Nat) : Sys2Proof.Scope :=
  match (s.row n).nbind with
  | .link _ => .system
  | .row => if n % 128 = 0 then .device else .die
  | _ => .device

/-- Release of a push and acquire of a pop (R171). -/
def State.releaseSouth (s : State) (n : Nat) : State := s.releaseAt (dieOf n) (s.southScope n)
def State.acquireNorth (s : State) (n : Nat) : State := s.acquireAt (dieOf n) (s.northScope n)

/-- R170: an MMAC that the row issued still has to push at the south port, or to pop at the north port. -/
def Row.arrayPushes (r : Row) : Bool :=
  r.queue.any (fun q => !q.spent && (match q.kind with
    | .mmac _ f _ _ _ _ src => src == 0 && (f.dk == 1 || f.dk == 3) | .swap => false))
    || r.inflight.any (fun x => x.push && x.src == 0) || !r.outBuf.isEmpty
def Row.arrayPops (r : Row) : Bool :=
  r.queue.any (fun q => !q.spent && (match q.kind with
    | .mmac _ f _ _ _ _ src => src == 0 && f.nk == 1 | .swap => false))

/-! ### Instructions -/

/-- Entry k of a push of va (R158): lanes that do not act carry zero with their valid bit clear. -/
def pushEntry (v : Row) (g : Guard) (a : VReg) (m : Amod) (k : Nat) : PEntry :=
  ⟨tabulate 0 32 (fun c => if v.acts g (32 * k + c) then v.src a m (32 * k + c) else 0),
   (List.range 32).foldl (fun b c => if v.acts g (32 * k + c) then b ||| BitVec.ofNat 32 (2 ^ c) else b) 0⟩

def execPwr (g : Guard) (a : VReg) (m : Amod) (s : State) : Host.Outcome State Fault Refusal :=
  issueAll { illegal := amodWide m, regs := [a.toNat], nest := true, access := true, units := 3,
             cycles := Row.passes } (fun s n v =>
    let r := s.row n
    if r.sbind == .closed then .trap cPortClosed 0 s
    else if s.southShut n then .trap cPortClosed 1 s
    else if r.arrayPushes then .wait .behind s
    else if !s.southRoom n (r.L / 32) then .wait .portSouth s
    else if !r.drained then .wait .memory s
    else .done ((s.releaseSouth n).pushSouth n ((List.range (r.L / 32)).map (pushEntry v g a m)))) s

/-- The first k entries delivered into passes 0 to k - 1 (R158): vd and pv in the lanes that act. -/
def Row.deliver (r v : Row) (g : Guard) (d : VReg) (pv : PReg) (es : List PEntry) : Row :=
  es.zipIdx.foldl (fun q (e, k) =>
    let ls := (v.actLanes g).filter (fun l => l / 32 == k)
    (q.setLanes d.toNat ls (fun l => tget 0 e.words (l % 32))).setPreds pv.toNat ls (fun l => e.valid.getLsbD (l % 32))) r

/-- Pop k entries into vd and pv: an acquire. -/
def popInto (s : State) (n : Nat) (v : Row) (g : Guard) (d : VReg) (pv : PReg) (k : Nat) : State :=
  let es := (s.row n).north.entries.take k
  if es.isEmpty then s
  else ((s.modRow n (fun r => r.deliver v g d pv es)).dropNorth n k).acquireNorth n

/-- PRD or PRDN would pop, and so acquire, while an earlier volatile access is still to be performed (R240). -/
def Row.popHeld (r : Row) : Bool :=
  r.volatileOpen && (r.L / 32 ≤ r.north.entries.length || (r.sealed && !r.north.entries.isEmpty))

/-- The plan of PRD and PRDN. -/
def planPop (d : VReg) (pv : PReg) : Plan :=
  { regs := [d.toNat], nest := true, hold := fun r => r.holdV d.toNat || r.pendP pv.toNat, units := 3, cycles := Row.passes }

def execPrd (g : Guard) (d : VReg) (pv : PReg) (s : State) : Host.Outcome State Fault Refusal :=
  issueAll (planPop d pv) (fun s n v =>
    let r := s.row n
    let have_ := r.north.entries.length
    if r.nbind == .closed then .trap cPortClosed 0 s
    else if r.arrayPops then .wait .behind s
    else if r.popHeld then .wait .memory s
    else if r.L / 32 ≤ have_ then .done (popInto s n v g d pv (r.L / 32))
    else if r.sealed then .trap cPortDrained (BitVec.ofNat 64 have_) (popInto s n v g d pv have_)
    else .wait .portNorth s) s

/-- R159. Where qt and qs name one predicate the write of qs stands, which the spec leaves open (log entry 50). -/
def execPrdn (g : Guard) (d : VReg) (pv qt qs : PReg) (s : State) : Host.Outcome State Fault Refusal :=
  issueAll (planPop d pv) (fun s n v =>
    let r := s.row n
    let have_ := r.north.entries.length
    let flags (s : State) (t u : Bool) : State := s.modRow n (fun r => (r.setQ qt.toNat t).setQ qs.toNat u)
    if r.nbind == .closed then .trap cPortClosed 0 s
    else if r.arrayPops then .wait .behind s
    else if r.popHeld then .wait .memory s
    else if r.L / 32 ≤ have_ then .done (flags (popInto s n v g d pv (r.L / 32)) true false)
    else if r.sealed then .done (flags (popInto s n v g d pv have_) false true)
    else .done (flags s false false)) s

def execPseal (g : Guard) (s : State) : Host.Outcome State Fault Refusal :=
  issueQ { nest := true } g (fun s n _ =>
    if (s.row n).arrayPushes then .wait .behind s else .done (s.sealSouth n)) s

/-- Codes of Table 07-2. -/
def bindCode : Bind → Nat
  | .row => 0
  | .closed => 1
  | .cb _ => 2
  | .link _ => 3

/-- Table 07-2. -/
def pstatVal (s : State) (n : Nat) (south : Bool) : W64 :=
  let r := s.row n
  let b := if south then r.sbind else r.nbind
  let cnt := if south then s.southHeld n else r.north.entries.length
  let sl := if south then r.southSealed else r.sealed
  let depth := match b with
    | .row => if south then portDepth n else portDepth (n - 1)
    | .link _ => 128
    | _ => 0
  BitVec.ofNat 64 (min cnt 255 + 256 * sl.toNat + 512 * (south && r.southGone).toNat + 1024 * bindCode b + 4096 * depth)

def execPstat (g : Guard) (d : SReg) (south : Bool) (s : State) : Host.Outcome State Fault Refusal :=
  issueQ { nest := true, hold := fun r => r.pendS d.toNat } g (fun s n _ =>
    .done (s.modRow n (fun r => r.setS d.toNat (pstatVal s n south)))) s

/-- R162. One that lacks both entries and room waits at the north port first, then, counted anew, at the south port; one whose
consumer has retired still waits for its entries, where R164 would let it complete at once; and a closed edge at either port is
tested before a sealed south port, as R162's prose has it and its pseudocode has not (log entry 51). -/
def execPxfer (g : Guard) (qs : PReg) (n : BitVec 5) (s : State) : Host.Outcome State Fault Refusal :=
  issueQ { nest := true, access := true, cycles := fun _ => (n.toNat + 4) / 4 } g (fun s i _ =>
    let r := s.row i
    let want := n.toNat + 1
    let k := r.north.entries.length
    if r.nbind == .closed || r.sbind == .closed then .trap cPortClosed 0 s
    else if s.southShut i then .trap cPortClosed 1 s
    else if r.arrayPushes || r.arrayPops then .wait .behind s
    else if k < want && !r.sealed then .wait .portNorth s
    else if !s.southRoom i (min want k) then .wait .portSouth s
    else if !r.drained then .wait .memory s
    else
      let es := r.north.entries.take want
      let s1 := if es.isEmpty then s else (s.dropNorth i want).acquireNorth i
      let s2 := (s1.releaseSouth i).pushSouth i es
      let s3 := if k < want then s2.sealSouth i else s2
      .done (s3.modRow i (fun r => r.setQ qs.toNat (decide (k < want))))) s

/-! ### Events -/

/-- PORT_ENTRY_ARRIVE: the oldest entry on its way, or the seal behind them all, reaches the consumer. -/
def execPortEntryArrive (row : Nat) (s : State) : Host.Outcome State Fault Refusal :=
  .next (s.modRow row (fun r => match r.north.flight with
    | e :: rest => { r with north := { r.north with entries := r.north.entries ++ [e], flight := rest } }
    | [] => if r.north.sealAt == .flying then { r with north := { r.north with sealAt := .present } } else r))

/-- Entries that the port instruction at the pc needs (R158, R162). -/
def Row.portNeed (r : Row) : Nat :=
  match decode r.curWord with
  | .ok (.pxfer _ _ n) => n.toNat + 1
  | _ => r.L / 32

/-- The wait of the port instruction at row n's pc can end. -/
def State.portReady (s : State) (n : Nat) : Bool :=
  let r := s.row n
  match r.wait with
  | some .portNorth => r.portNeed ≤ r.north.entries.length || r.sealed
  | some .portSouth => s.southRoom n (match decode r.curWord with
    | .ok (.pxfer _ _ k) => min (k.toNat + 1) r.north.entries.length
    | _ => r.L / 32)
  | _ => false

/-- PORT_WAIT_END: the row takes a deferred trap that is due (R336), or stops waiting and issues its port instruction next. -/
def execPortWaitEnd (row : Nat) (s : State) : Host.Outcome State Fault Refusal :=
  if s.live row && (s.row row).dueTrap.isSome then .next (s.takeDue row)
  else if s.portReady row then
    .next { s.modRow row (fun r => { r with wait := none }) with agenda := .issue row :: s.agenda }
  else .next s

/-- A row's wait has lasted csr.pwd clk (R167, R192). -/
def State.lateFor (s : State) (n : Nat) (since : W64) : Bool :=
  let p := (s.row n).csr.pwd
  p != 0 && p.toNat ≤ (s.rowClk n - since).toNat
/-- The wait at a port has lasted csr.pwd clk, and cannot end (R167). -/
def State.starved (s : State) (n : Nat) : Bool :=
  let r := s.row n
  s.live n && s.lateFor n r.waitSince && (r.wait == some .portNorth || r.wait == some .portSouth) && !s.portReady n

/-- PORT_STARVED (R167), behind a deferred trap that is due (R336, R337). -/
def execPortStarved (row : Nat) (s : State) : Host.Outcome State Fault Refusal :=
  let r := s.row row
  if !s.starved row then .next s
  else if r.dueTrap.isSome then .next (s.takeDue row)
  else match r.wait with
    | some .portNorth => .next (s.trapHere row cPortStarved 0)
    | some .portSouth => .next (s.trapHere row cPortStarved 1)
    | _ => .next s

/-- The next step of a south edge at a circular buffer (R165): one entry written, or the seal's last publication. -/
def edgeSouth (s : State) (n b : Nat) : State :=
  let r := s.row n
  let d := dieOf n
  let c := s.buf d b
  match r.edgeOut with
  | e :: rest =>
    match (match r.edgeSlot with | some i => some (c, i) | none => c.prodTake) with
    | none => s
    | some (c1, i) =>
      let s := if r.edgeSlot.isNone then s.acquireAt d .device else s
      let bytes := (List.range 32).flatMap (fun k => leList 4 (tget 0 e.words k).toNat)
      let s1 := s.setBytes ((c.addr i).toNat + r.edgeFill) bytes
      let full := r.edgeFill + 128 == c.size
      let c2 := if full then c1.publish i c.size false else c1
      let s2 := (if full then s1.releaseAt d .device else s1).setBuf d b c2
      s2.modRow n (fun q => { q with
        edgeOut := rest, edgeSlot := if full then none else some i, edgeFill := if full then 0 else r.edgeFill + 128 })
  | [] =>
    if r.southSealed && !c.ended then
      let c1 := match r.edgeSlot with | some i => c.publish i r.edgeFill true | none => { c with ended := true }
      ((s.releaseAt d .device).setBuf d b c1).modRow n (fun q => { q with edgeSlot := none, edgeFill := 0 })
    else s

/-- Entry k of a slot of c bytes at an address (R165). -/
def slotEntry (s : State) (a c k : Nat) : PEntry :=
  ⟨tabulate 0 32 (fun i => BitVec.ofNat 32 (leVal ((List.range 4).map (fun b =>
      let o := 128 * k + 4 * i + b; if o < c then s.byte (a + o) else 0)))),
   (List.range 32).foldl (fun v i => if 128 * k + 4 * i + 4 ≤ c then v ||| BitVec.ofNat 32 (2 ^ i) else v) 0⟩

/-- Entries of a slot (R165). -/
def CBuf.entries (c : CBuf) (i : Nat) : Nat := (c.count i + 127) / 128

/-- The next step of a north edge at a circular buffer: the next entry of the slot in hand, a filled slot taken, or the end of
the buffer reached. Entries are made poppable while fewer than 32 are (log entry 27). -/
def edgeNorth (s : State) (n b : Nat) : State :=
  let r := s.row n
  let d := dieOf n
  let c := s.buf d b
  match r.edgeIn.getLast?.filter (fun x => r.edgeNext < c.entries x.1) with
  | some (i, _) =>
    if edgeDepth ≤ r.north.entries.length then s
    else s.modRow n (fun q => { q with
      north := { q.north with entries := q.north.entries ++ [slotEntry s (c.addr i).toNat (c.count i) q.edgeNext] }
      edgeNext := q.edgeNext + 1 })
  | none =>
    match c.consTake with
    | some (c1, i) =>
      let s1 := s.acquireAt d .device
      if c.entries i = 0 then (s1.releaseAt d .device).setBuf d b (c1.release i)
      else (s1.setBuf d b c1).modRow n (fun q => { q with edgeIn := q.edgeIn ++ [(i, c.entries i)], edgeNext := 0 })
    | none =>
      if c.atEnd then s.modRow n (fun q => { q with north := { q.north with sealAt := .present } }) else s

/-- CB_EDGE_TRANSFER: one step of a band edge at a circular buffer. Once PREEMPT has reached its die, an edge only writes the
entries already pushed (R169). -/
def execCbEdgeTransfer (row : Nat) (south : Bool) (s : State) : Host.Outcome State Fault Refusal :=
  let r := s.row row
  if r.life == .idle || ((s.die (dieOf row)).halted && !(south && !r.edgeOut.isEmpty)) then .next s
  else match (if south then r.sbind else r.nbind) with
    | .cb b => .next (if south then edgeSouth s row b else edgeNorth s row b)
    | _ => .next s

end Sys2Proof.Machine
end

