-- ==== Sys2Proof/Machine/Groups.lean ====
section
/-! DEFINITION. Placements and their groups as the rest of the machine meets them (R300, R302, R306 to R311), the transfer of
allowance to a group's laggard (R381), and the readiness and queues of placements (R301, R303, R36). -/

namespace Sys2Proof.Machine

/-! ### Placements -/

def State.findPl (s : State) (num : Nat) : Option Pl := s.job.pls.find? (fun p => p.num == num)
def State.setPl (s : State) (p : Pl) : State :=
  s.modJob (fun j => { j with pls := j.pls.map (fun x => if x.num == p.num then p else x) })

/-- The band's rowids, and those on one die. -/
def Pl.band (p : Pl) : List Nat := (List.range p.rows).map (fun i => p.first + i)
def Pl.bandOn (p : Pl) (d : Nat) : List Nat := p.band.filter (fun n => dieOf n == d)
/-- The dies that hold rows of the band (R23). -/
def Pl.dies (p : Pl) : List Nat :=
  match p.top with
  | some t => (List.range 4).filter (fun d => t / 128 ≤ d && d ≤ (t + p.rows - 1) / 128)
  | none => [p.die]

/-- The row's placement is this one, and the row has not retired. -/
def State.member (s : State) (p : Pl) (n : Nat) : Bool := (s.row n).pl == some p.num && (s.row n).life != .idle

/-! ### Groups -/

/-- Row n of the band lies in the group. -/
def Group.has (g : Group) (p : Pl) (n : Nat) : Bool := p.first ≤ n && g.members.getLsbD (n - p.first)
/-- The rowids of a group. -/
def Group.rows (g : Group) (p : Pl) : List Nat := p.band.filter (g.has p)
/-- R310: the scope of a group's arrivals and completions. -/
def Group.scope (g : Group) (p : Pl) : Sys2Proof.Scope :=
  match (g.rows p).map dieOf with
  | [] => .die
  | d :: ds => if ds.all (· == d) then .die else .device

/-- Groups of row n of a placement, in ascending number (R302). -/
def Pl.groupsOf (p : Pl) (n : Nat) : List Group := p.groups.filter (fun g => g.has p n)

/-- The group that a barrier instruction of row n names (R307). -/
def State.groupOf (s : State) (n g : Nat) : Option (Pl × Group) :=
  match (s.row n).pl.bind s.findPl with
  | none => none
  | some p => (p.groupsOf n).find? (fun x => x.num.toNat == g) |>.map (fun x => (p, x))

def Pl.setGroup (p : Pl) (g : Group) : Pl := { p with groups := p.groups.map (fun x => if x.num == g.num then g else x) }

/-! ### The barrier (R306 to R308) -/

/-- Table 13-3: codes, identities and combines. -/
def barCode : BarOp → Nat
  | .none => 0
  | .or => 1
  | .and => 2
  | .maxn => 3
  | .minn => 4
  | .add => 5
def barIdent : BarOp → W32
  | .and | .minn => 0xFFFFFFFF
  | _ => 0
def barComb : BarOp → W32 → W32 → W32
  | .none, x, _ => x
  | .or, x, y => x ||| y
  | .and, x, y => x &&& y
  | .maxn, x, y => if x.ult y then y else x
  | .minn, x, y => if y.ult x then y else x
  | .add, x, y => x + y
/-- What sd receives. -/
def barExtend (o : BarOp) (x : W32) : W64 := match o with | .none => 0 | .add => x.signExtend 64 | _ => x.setWidth 64
def barOps : List BarOp := [.or, .and, .maxn, .minn, .add]

/-- The running reductions of a new phase. -/
def redFresh : Tbl W32 := [(2, 0xFFFFFFFF), (4, 0xFFFFFFFF)]

def Group.slot (g : Group) (n : Nat) : BarSlot := tget .idle g.slots n
def Group.setSlot (g : Group) (n : Nat) (x : BarSlot) : Group := { g with slots := tset .idle g.slots n x }

/-- One arrival's contribution. -/
def Group.combine (g : Group) (o : BarOp) (v : W32) : Group :=
  { g with red := barOps.foldl (fun r q =>
      tset 0 r (barCode q) (barComb q (tget 0 r (barCode q)) (if q == o then v else barIdent q))) g.red }

/-- Complete(g) but for the laggard's transfer; `left` is how many members have not retired. -/
def Group.finish (g : Group) (left : Nat) : Group :=
  { g with
    slots := g.slots.map (fun e => match e.2 with
      | .arrived o b => (e.1, .complete (barExtend o (tget 0 g.red (barCode o))) b)
      | _ => e)
    phase := g.phase + 1
    expected := left
    red := redFresh }

/-! ### Barrier laggards (R381) -/

/-- Units that domain d gives away, and receives. -/
def State.given (s : State) (d : Nat) : Nat :=
  ((List.range 16).flatMap (fun x => (s.dom x).transfers.map (fun t => if t.giver == d then t.units else 0))).sum
def State.received (s : State) (d : Nat) : Nat := ((s.dom d).transfers.map (fun t => t.units)).sum

/-- A group's transfers end, but for those to a domain to keep. -/
def State.endTransfers (s : State) (pl : Nat) (g : BitVec 8) (keep : Option Nat) : State :=
  (List.range 16).foldl (fun s d => s.modDom d (fun x => { x with
    transfers := x.transfers.filter (fun t => !(t.pl == pl && t.group == g) || keep == some d) })) s

/-- The units of a transfer from F to L, cut to the limits; none is made where they leave nothing, or where L = F. -/
def State.transferUnits (s : State) (L F : Nat) : Nat :=
  let a := (s.dom F).refill
  if L == F then 0 else min (a / 8) (min (a / 4 - s.given F) ((s.dom L).refill / 2 - s.received L))
def State.transfer (s : State) (pl : Nat) (g : BitVec 8) (L F : Nat) : State :=
  s.modDom L (fun x => { x with
    transfers := x.transfers ++ [⟨pl, g, L, F, s.transferUnits L F, (s.dom L).clk + 65536⟩] })

/-- What a completion records, and the transfer it ends, renews or begins. A phase that retirements alone complete has no last
arrival, and ends the group's transfer (log entry 37). -/
def State.laggard (s : State) (p : Pl) (g : Group) : State × Group :=
  let g0 := { g with firstDom := none, lateDom := none }
  match g.lateDom, g.firstDom with
  | some L, some F =>
    let doms := (g.rows p).map domOf
    if doms.all (· == L) then (s, g0)
    else
      let run := if L == g.lastDom then g.lastRun + 1 else 1
      let s1 := s.endTransfers p.num g.num (some L)
      let s2 := s.endTransfers p.num g.num none
      (if 3 ≤ run && s2.transferUnits L F != 0 then s2.transfer p.num g.num L F else s1,
        { g0 with lastDom := L, lastRun := run })
  | _, _ => (s.endTransfers p.num g.num none, { g0 with lastRun := 0 })

/-- Complete(g) (R308), where nobody is expected any more. -/
def State.settleGroup (s : State) (p : Pl) (g : Group) : State :=
  if g.expected = 0 then
    let (s1, g1) := s.laggard p g
    s1.setPl (p.setGroup (g1.finish ((g.rows p).countP (s.member p))))
  else s.setPl (p.setGroup g)

/-- Arrive(g, op, v) by row n (R308), with its release (R310). -/
def State.arrive (s : State) (n : Nat) (p : Pl) (g : Group) (o : BarOp) (v : W32) (bar : Option Va) : State :=
  let s1 := s.releaseAt (dieOf n) (g.scope p)
  let g1 := (g.combine o v).setSlot n (.arrived o bar)
  s1.settleGroup p { g1 with
    expected := g1.expected - 1
    firstDom := (match g1.firstDom with | some d => some d | none => some (domOf n))
    lateDom := some (domOf n) }

/-- R309: row n, which no longer counts as a member, leaves a group. -/
def State.leaveGroup (s : State) (n pl g : Nat) : State :=
  match s.findPl pl with
  | none => s
  | some p => match p.groups.find? (fun x => x.num.toNat == g) with
    | none => s
    | some x => match x.slot n with
      | .arrived _ _ => s
      | _ => s.settleGroup p { x with expected := x.expected - 1 }

/-! ### Readiness and queues (R303) -/

/-- An engine still executes copy commands that rows of a placement have issued (R35; log entry 55). -/
def State.copying (s : State) (num : Nat) : Bool :=
  s.job.dies.any (fun d => d.2.engines.any (fun e => e.2.head != e.2.tail && e.2.fault = 0 && e.2.issuers.any (fun x => x.1 == num)))

/-- The dependency is satisfied (R300, R301, R35, R36): the producer has ended, or, for kind 1, it has triggered. -/
def State.depMet (s : State) (d : Nat × Bool) : Bool :=
  match s.findPl d.1 with
  | none => true
  | some p => p.st == .ended || (d.2 && p.early)

def State.plq (s : State) (d pri : Nat) : List Nat := tget [] (s.die d).plq pri

/-- Every placement whose dependencies are satisfied becomes ready, in order of number. -/
def State.wake (s : State) : State :=
  s.job.pls.foldl (fun s p =>
    match p.st with
    | .waiting =>
      if p.deps.all s.depMet then
        (s.setPl { p with st := .ready s.job.readySerial }).modJob (fun j => { j with readySerial := j.readySerial + 1 })
      else s
    | _ => s) s

/-- A key put in its place in a list sorted by key, after equal keys. -/
def insertKey {α : Type} (k : Nat) (x : α) : List (Nat × α) → List (Nat × α)
  | [] => [(k, x)]
  | (j, y) :: r => if k < j then (k, x) :: (j, y) :: r else (j, y) :: insertKey k x r
/-- A list in rising order of a key; equal keys keep their order. -/
def sortKey {α : Type} (f : α → Nat) (l : List α) : List α :=
  (l.foldl (fun acc x => insertKey (f x) x acc) []).map (fun e => e.2)

/-- The ready placements that stand outside the queues, in the order in which they became ready. -/
def State.readyOrder (s : State) : List Pl :=
  sortKey (fun p => match p.st with | .ready k => k | _ => 0)
    (s.job.pls.filter (fun p => match p.st with | .ready _ => true | _ => false))

/-- Ready placements enter the queues of all of their dies in one step, none before an earlier one that needs the same
queue (R303). -/
def State.enterQueues (s : State) : State :=
  (s.readyOrder.foldl (fun (acc : State × List (Nat × Nat)) p =>
    let s := acc.1
    let need := p.dies.map (fun d => (d, p.pri))
    if need.all (fun q => !acc.2.contains q && (s.plq q.1 q.2).length < 64) then
      (need.foldl (fun s q => s.modDie q.1 (fun x => { x with plq := tset [] x.plq q.2 (tget [] x.plq q.2 ++ [p.num]) }))
        (s.setPl { p with st := .queued }), acc.2)
    else (s, need ++ acc.2)) (s, [])).1

/-- What follows when a dependency may have been satisfied or a queue has room. -/
def State.pump (s : State) : State := s.wake.enterQueues

/-- R36: every row of the placement has triggered or retired, and its early dependants are released. -/
def State.releaseEarly (s : State) (num : Nat) : State :=
  match s.findPl num with
  | none => s
  | some p =>
    if p.st == .running && !p.early && p.band.all (fun n => !s.member p n || (s.row n).triggered) then
      (s.setPl { p with early := true }).pump
    else s

end Sys2Proof.Machine
end

