-- ==== Sys2Proof/Machine/Barriers.lean ====
section
/-! DEFINITION. The barrier instructions BAR, BARA and BARW, with the parking and merging of lanes at a BAR (R100, R101,
R306 to R310), TRIG (R312) and FLWAIT (R314). -/

namespace Sys2Proof.Machine

/-- The BAR at the pc is the one that the parked lanes wait at, with no lane left to run it (R100). -/
def Row.barForced (r : Row) : Bool := r.arm.em == 0 && r.arm.barPark != 0 && r.arm.pc == r.arm.barAt

/-- R307's tests 1 and 2 and the slot: the cause and tval, or the group. -/
def barTest (s : State) (n g : Nat) : Except (W8 × W64) (Pl × Group) :=
  if (s.row n).pool.isSome then .error (cWaveBarrier, 0)
  else match s.groupOf n g with
    | none => .error (cProt, BitVec.ofNat 64 g)
    | some x => .ok x

/-- The current lanes park at the BAR at the pc (R100). -/
def Row.parkAtBar (r : Row) : Row :=
  let a := r.arm
  { r with arm := { a with
      barAt := a.pc, barClause := a.clause, barPark := a.barPark ||| a.em, em := 0
      barDepth := if a.barPark == 0 then r.tokdepth else a.barDepth
      barMix := a.barPark != 0 && (a.barMix || a.barDepth != r.tokdepth || !a.barToks.isEmpty)
      barToks := if a.barPark == 0 then [] else a.barToks } }

/-- Lanes that must still come to the BAR: neither exited, held, parked nor current. -/
def Row.barAbsent (r : Row) : Bool := r.live &&& ~~~r.heldLanes &&& ~~~(r.arm.em ||| r.barParked) != 0

/-- R101: the lanes that meet at the BAR lie under different tokens. -/
def Row.barUneven (r : Row) : Bool :=
  let a := r.arm
  (match r.other with | some o => o.barPark != 0 && !(a.toks.isEmpty && o.toks.isEmpty) | none => false)
    || (a.barPark != 0 && (a.barMix || a.barDepth != r.tokdepth || !a.barToks.isEmpty))

/-- R100: lanes become one group as they continue after the BAR. An arm whose lanes have all exited counts as parked, and
leaves the tokens of the arm that remains. -/
def Row.barMerge (r : Row) : Row :=
  let a := r.arm
  let toks := match a.toks with
    | t :: rest => if t.kind == .split && a.barPark != 0 then { t with wait := 0 } :: rest else a.toks
    | [] => []
  let plain (a : Arm) (em : Mask) : Arm :=
    { a with em := em, barPark := 0, barMix := false, barDepth := 0, barToks := [], st := .running }
  match r.other with
  | some o =>
    if o.st == .running then { r with arm := { plain a (a.em ||| a.barPark) with toks := toks } }
    else
      { r.retag with
        arm := { plain a (a.em ||| a.barPark ||| o.barPark) with
          held := a.held ||| o.held, flags := a.flags ||| o.flags, toks := toks }
        other := none, armId := .single }
  | none => { r with arm := { plain a (a.em ||| a.barPark) with toks := toks } }

/-- Wait(g, sd) (R308): sd and the slot once the phase is complete. -/
def barWait (s : State) (n : Nat) (p : Pl) (g : Group) (d : SReg) (fin : Row → Row) : Res :=
  match g.slot n with
  | .complete x _ =>
    if (s.row n).volatileOpen then .wait .barrier s
    else .done (((s.setPl (p.setGroup (g.setSlot n .idle))).acquireAt (dieOf n) (g.scope p)).modRow n
      (fun r => (fin r).setS d.toNat x))
  | _ => .wait .barrier s

def execBar (g : Guard) (d b : SReg) (op : BarOp) (grp : BitVec 8) (s : State) : Host.Outcome State Fault Refusal :=
  issueWord { nest := true, hold := fun r => r.pendS d.toNat } (fun r => r.guardQ g || r.barForced) (fun s n v =>
    let r := s.row n
    let pc := r.arm.pc
    match barTest s n grp.toNat with
    | .error (c, t) => .trap c t s
    | .ok (p, x) =>
      match x.slot n with
      | .arrived _ (some a) | .complete _ (some a) =>
        if a == pc then barWait s n p x d Row.barMerge else .trap cBarDiverge (pc.setWidth 64) s
      | .arrived _ none | .complete _ none => .trap cBarDiverge (pc.setWidth 64) s
      | .idle =>
        if r.barParked != 0 && r.lastBar != pc then .trap cBarDiverge (pc.setWidth 64) s
        else if r.barAbsent then resumed s n r.parkAtBar
        else if r.barUneven then .trap cBarDiverge (pc.setWidth 64) s
        else if !r.drained then .wait .memory s
        else
          let s1 := s.arrive n p x op ((v.sreg b.toNat).setWidth 32) (some pc)
          match s1.groupOf n grp.toNat with
          | some (p1, x1) => barWait s1 n p1 x1 d Row.barMerge
          | none => .wait .barrier s1) s

def execBara (g : Guard) (b : SReg) (op : BarOp) (grp : BitVec 8) (s : State) : Host.Outcome State Fault Refusal :=
  issueQ { nest := true } g (fun s n v =>
    match barTest s n grp.toNat with
    | .error (c, t) => .trap c t s
    | .ok (p, x) =>
      if x.slot n != .idle then .trap cBarDiverge ((s.row n).arm.pc.setWidth 64) s
      else if !(s.row n).drained then .wait .memory s
      else .done (s.arrive n p x op ((v.sreg b.toNat).setWidth 32) none)) s

def execBarw (g : Guard) (d : SReg) (grp : BitVec 8) (s : State) : Host.Outcome State Fault Refusal :=
  issueQ { nest := true, hold := fun r => r.pendS d.toNat } g (fun s n _ =>
    match barTest s n grp.toNat with
    | .error (c, t) => .trap c t s
    | .ok (p, x) =>
      if x.slot n == .idle then .trap cBarDiverge ((s.row n).arm.pc.setWidth 64) s
      else barWait s n p x d id) s

/-- R312. A second TRIG has no further effect. -/
def execTrig (g : Guard) (s : State) : Host.Outcome State Fault Refusal :=
  issueQ { nest := true } g (fun s n _ =>
    let r := s.row n
    if r.pool.isSome then .trap cWaveBarrier 0 s
    else if r.triggered then .done s
    else if !r.drained then .wait .memory s
    else
      let s1 := (s.releaseAt (dieOf n) .device).modRow n (fun r => { r with triggered := true })
      .done (match r.pl with | some k => s1.releaseEarly k | none => s1)) s

/-- R314: flags that are set among those named. -/
def Row.flagsSet (r : Row) (all : Bool) (mask : BitVec 12) : Bool :=
  let f := if all then r.arm.flags ||| (match r.other with | some o => o.flags | none => 0) else r.arm.flags
  f &&& mask != 0

/-- R314. -/
def execFlwait (g : Guard) (all : Bool) (mask : BitVec 12) (s : State) : Host.Outcome State Fault Refusal :=
  issueQ {} g (fun s n _ => if (s.row n).flagsSet all mask then .wait .flags s else .done s) s

end Sys2Proof.Machine
end

