-- ==== Sys2Proof/Machine/Convert.lean ====
section
/-! DEFINITION. Conversions, block scaling and planar packing (R136 to R153). -/

namespace Sys2Proof.Machine

/-! ### VCVT (R143, R144) -/

/-- Bits of a VCVT type (Table 06-3). -/
def ctyBits : CTy → Nat
  | .f32 | .i32 => 32
  | .f16 | .bf16 | .i16 => 16
  | .i8 => 8

/-- The float format of a VCVT type, none for an integer type. -/
def ctyFmt : CTy → Option FFmt
  | .f32 => some fmt32
  | .f16 => some fmt16
  | .bf16 => some fmtB16
  | _ => none

/-- Ends of an integer range of w bits (R138, R139). -/
def rangeLo (w : Nat) (sgn : Bool) : Int := if sgn then -(2 ^ (w - 1) : Int) else 0
def rangeHi (w : Nat) (sgn : Bool) : Int := if sgn then (2 ^ (w - 1) : Int) - 1 else (2 ^ w : Int) - 1

/-- Sat with the flags of R142: invalid where it saturates, else inexact where rounding changed the value. -/
def satRange (w : Nat) (sgn : Bool) (x : Int) (inexact : Bool) : Int × Flags :=
  if x < rangeLo w sgn then (rangeLo w sgn, fInvalid)
  else if rangeHi w sgn < x then (rangeHi w sgn, fInvalid)
  else (x, flagIf inexact fInexact)

/-- The low w bits of an integer, as two's complement. -/
def bitsOf (w : Nat) (x : Int) : Nat := (x % (2 ^ w : Int)).toNat

/-- The integer that w bits hold. -/
def intOf (w : Nat) (sgn : Bool) (b : Nat) : Int := if sgn && 2 ^ (w - 1) ≤ b then (b : Int) - 2 ^ w else b

/-- A signed integer from a sign and a magnitude. -/
def signedInt (neg : Bool) (m : Nat) : Int := if neg then -(m : Int) else m

/-- A float value rounded to an integer range. -/
def floatToRange (w : Nat) (sgn : Bool) (mode : Rnd) : FVal → Int × Flags
  | .nan _ => (0, fInvalid ||| fNF)
  | .inf n => (if n then rangeLo w sgn else rangeHi w sgn, fInvalid ||| fNF)
  | .fin n m e =>
    let (q, inex) := toIntegral mode n m e
    satRange w sgn (signedInt n q) inex

/-- A float value converted to another float type. -/
def floatToFloat (f : FFmt) (mode : Rnd) : FVal → Nat × Flags
  | .nan s => f.nanOut s
  | .inf n => f.infOut n
  | .fin n m e => f.round mode n m e

/-- A float value rounded to an integral value of its own type. -/
def floatIntegral (f : FFmt) (mode : Rnd) : FVal → Nat × Flags
  | .nan s => f.nanOut s
  | .inf n => f.infOut n
  | .fin n m e =>
    let (q, inex) := toIntegral mode n m e
    ((f.round .rne n q 0).1, flagIf inex fInexact)

/-- Conv (R144): the destination's bits and flags. -/
def convVal (st dt : CTy) (mode : Rnd) (sgn : Bool) (b : Nat) : Nat × Flags :=
  match ctyFmt st, ctyFmt dt with
  | some fs, some fd => if st == dt then floatIntegral fd mode (fs.decode b) else floatToFloat fd mode (fs.decode b)
  | some fs, none => let (q, fl) := floatToRange (ctyBits dt) sgn mode (fs.decode b); (bitsOf (ctyBits dt) q, fl)
  | none, some fd => fd.ofInt mode (intOf (ctyBits st) sgn b)
  | none, none =>
    let (q, fl) := satRange (ctyBits dt) sgn (intOf (ctyBits st) sgn b) false
    (bitsOf (ctyBits dt) q, fl)

/-- One lane of VCVT: the word of vd from its old word and the source word. -/
def cvtLane (st dt : CTy) (mode : Rnd) (sgn : Bool) (ed es : Nat) (old x : W32) : W32 × Flags :=
  let b := (elemAt (ctyBits st) x es).toNat
  let (y, fl) := convVal st dt mode sgn b
  (setElem (ctyBits dt) old ed (BitVec.ofNat _ y), fl)

/-- Units of a VCVT pass (Table 17-1). -/
def cvtUnits (st dt : CTy) : Nat :=
  if st == .f16 || st == .bf16 || dt == .f16 || dt == .bf16 then 5
  else if st == .f32 || dt == .f32 then 3 else 2

def execVcvt (g : Guard) (st dt : CTy) (r : Rnd) (sgn : Bool) (ed es : BitVec 2) (d a : VReg) (m : Amod) (s : State) :
    Host.Outcome State Fault Refusal :=
  floatTo { fpPlan false with units := cvtUnits st dt, illegal := amodWide m, regs := [d.toNat, a.toNat] } g d
    (fun v l => cvtLane st dt r sgn ed.toNat es.toNat (v.vreg d.toNat l) (v.src a m l)) s

/-! ### VFLI (R145) -/

/-- The lane word of a form and a pattern. -/
def vfliVal (form : BitVec 2) (h : BitVec 16) : W32 :=
  let f16 : BitVec 16 := if (fmt16.decode h.toNat).isNan then 0x7E00 else h
  let b16 : BitVec 16 := if (fmtB16.decode h.toNat).isNan then 0x7FC0 else h
  if form = 0 then b16 ++ (0 : BitVec 16)
  else if form = 1 then f16 ++ f16
  else if form = 2 then b16 ++ b16
  else BitVec.ofNat 32 (floatToFloat fmt32 .rne (fmt16.decode h.toNat)).1

def execVfli (g : Guard) (form : BitVec 2) (h : BitVec 16) (d : VReg) (s : State) : Host.Outcome State Fault Refusal :=
  floatTo { fpPlan (form == 1 || form == 2) with regs := [d.toNat] } g d (fun _ _ => (vfliVal form h, 0)) s

/-! ### Stochastic rounding (R146 to R148) -/

/-- One advance of csr.rng (R146). -/
def rngNext (x : W64) : W64 :=
  let x := x ^^^ (x <<< 13)
  let x := x ^^^ (x >>> 7)
  x ^^^ (x <<< 17)

/-- The k bits of a state whose highest is bit `top` - 1. -/
def rngField (st : W64) (top k : Nat) : Nat := (st.toNat / 2 ^ (top - k)) % 2 ^ k

/-- Cvt (R148). -/
def srndVal (f : FFmt) (k r : Nat) (b : Nat) : Nat × Flags :=
  match fmt32.decode b with
  | .nan s => f.nanOut s
  | .inf n => f.infOut n
  | .fin n m e => f.roundSto n m e k r

/-- A sweep that advances csr.rng once in each lane that acts, ascending: the new lane words, flags and state. -/
def rngSweep (ls : List Nat) (x : W64) (f : Nat → W64 → W32 × Flags) : List (Nat × W32) × Flags × W64 :=
  ls.foldl (fun (acc, fl, x) l =>
    let x := rngNext x
    let (w, f') := f l x
    (acc ++ [(l, w)], fl ||| f', x)) ([], 0, x)

/-- The sweep's effects on the row. -/
def Row.rngLanes (r : Row) (d : Nat) (ls : List Nat) (f : Nat → W64 → W32 × Flags) : Row :=
  let (ws, fl, x) := rngSweep ls r.csr.rng f
  let r := { r with v := tsets 0 r.v (ws.map (fun (e : Nat × W32) => (r.L * d + e.1, e.2))), csr := { r.csr with rng := x } }
  r.orFlags fl

def execVsrnd (g : Guard) (bf : Bool) (k : BitVec 4) (d a : VReg) (m : Amod) (b : VReg) (s : State) :
    Host.Outcome State Fault Refusal :=
  issueL { fpPlan true with
    illegal := amodWide m, regs := [d.toNat, a.toNat, b.toNat], hold := fun r => r.holdV d.toNat } g
    (onRow (fun r v =>
      let n := k.toNat + 1
      let f := if bf then fmtB16 else fmt16
      r.rngLanes d.toNat (v.actLanes g) (fun l st =>
        let (lo, f0) := srndVal f n (rngField st 64 n) (v.src a m l).toNat
        let (hi, f1) := srndVal f n (rngField st 48 n) (v.vreg b.toNat l).toNat
        (BitVec.ofNat 16 hi ++ BitVec.ofNat 16 lo, f0 ||| f1)))) s

/-! ### Block scaling (R149 to R152) -/

/-- Byte g of a scale register. -/
def scaleByte (x : W64) (g : Nat) : Nat := (x.extractLsb' (8 * g) 8).toNat

/-- VQNT's element: q and its flags. -/
def qntVal (w : Nat) (sgn : Bool) (mode : Rnd) (e : Nat) (b : Nat) : Int × Flags :=
  let x := fmt32.decode b
  if e = 255 then (0, fInvalid ||| nfOf [x])
  else match x with
    | .fin n m ex => floatToRange w sgn mode (.fin n m (ex + 127 - e))
    | x => floatToRange w sgn mode x

/-- Bytes of a lane word replaced where a function gives one. -/
def patchBytes (old : W32) (f : Nat → Option Nat) : W32 :=
  (List.range 4).foldl (fun acc b => match f b with | some q => setElem 8 acc b (BitVec.ofNat 8 q) | none => acc) old

def execVqnt (g : Guard) (j : BitVec 2) (r : Rnd) (sgn : Bool) (w : BitVec 3) (d a : VReg) (m : Amod) (b : SReg)
    (s : State) : Host.Outcome State Fault Refusal :=
  issueL { fpPlan false with
    illegal := fun r => amodWide m r || r.L < 256, regs := [d.toNat, a.toNat], hold := fun r => r.holdV d.toNat } g
    (onRow (fun rw v =>
      let q (l : Nat) := qntVal (w.toNat + 1) sgn r (scaleByte (v.sreg b.toNat) (l / 256)) (v.src a m l).toNat
      let fl := (v.actLanes g).foldl (fun f l => f ||| (q l).2) 0
      let ts := (List.range (v.L / 256)).flatMap (fun k => (List.range 64).map (fun i => (k, i)))
      (ts.foldl (fun rw (k, i) =>
        let t := 256 * k + 64 * j.toNat + i
        rw.setV d.toNat t (patchBytes (rw.vreg d.toNat t) (fun c =>
          let l := 256 * k + 4 * i + c
          if v.acts g l then some (bitsOf 8 (q l).1) else none))) rw).orFlags fl)) s

/-- VDQNT's element. It sets the flags that R151 names and no others (R142): overflow and inexact where the product overflows, and
NF for e = 255 alone (log entry 68). -/
def dqntVal (sgn : Bool) (e : Nat) (b : Nat) : Nat × Flags :=
  if e = 255 then (fmt32.nanBits, fInvalid ||| fNF)
  else let (y, fl) := fmt32.ofInt .rne (intOf 8 sgn b) ((e : Int) - 127); (y, fl &&& ~~~fNF)

def execVdqnt (g : Guard) (j : BitVec 2) (sgn : Bool) (d a : VReg) (b : SReg) (s : State) :
    Host.Outcome State Fault Refusal :=
  floatTo { fpPlan false with illegal := fun r => r.L < 256, regs := [d.toNat, a.toNat] } g d
    (fun v l =>
      let i := l % 256
      let w := v.vreg a.toNat (l - i + 64 * j.toNat + i / 4)
      let (y, fl) := dqntVal sgn (scaleByte (v.sreg b.toNat) (l / 256)) (elemAt 8 w (i % 4)).toNat
      (BitVec.ofNat 32 y, fl)) s

/-- VREQ's element: the stored byte and its flags; `rnd` rounds |y| of a given magnitude and exponent. -/
def reqVal (w : Nat) (sgn : Bool) (old new : Nat) (rnd : Bool → Nat → Int → Nat) (b : Nat) : Nat × Flags :=
  if old = 255 || new = 255 then (0, fInvalid)
  else
    let q := intOf 8 sgn b
    let e : Int := (old : Int) - new
    let y := rnd (decide (q < 0)) q.natAbs e
    let inex := e < 0 && q.natAbs % 2 ^ (-e).toNat != 0
    let (z, fl) := satRange w sgn (signedInt (decide (q < 0)) y) inex
    (bitsOf 8 z, fl)

/-- One lane of VREQ: the four bytes of va requantised. -/
def reqLane (w : Nat) (sgn : Bool) (scales x : W32) (rnd : Nat → Bool → Nat → Int → Nat) : W32 × Flags :=
  let old := (elemAt 8 scales 0).toNat
  let new := (elemAt 8 scales 1).toNat
  (List.range 4).foldl (fun (acc, fl) b =>
    let (y, f) := reqVal w sgn old new (rnd b) (elemAt 8 x b).toNat
    (setElem 8 acc b (BitVec.ofNat 8 y), fl ||| f)) (0, 0)

def execVreq (g : Guard) (sto : Bool) (k : BitVec 4) (sgn : Bool) (w : BitVec 3) (d a b : VReg) (s : State) :
    Host.Outcome State Fault Refusal :=
  issueL { fpPlan false with
    units := 2, illegal := fun r => r.L < 64, regs := [d.toNat, a.toNat, b.toNat], hold := fun r => r.holdV d.toNat } g
    (onRow (fun r v =>
      let lane (l : Nat) := reqLane (w.toNat + 1) sgn (v.vreg b.toNat (l - l % 64)) (v.vreg a.toNat l)
      if sto then
        let n := k.toNat + 1
        r.rngLanes d.toNat (v.actLanes g) (fun l st =>
          lane l (fun c _ m e => stoInt m e 0 n (rngField st (64 - 16 * c) n)))
      else r.floatLanes d.toNat (v.actLanes g) (fun l => lane l (fun _ neg m e => (roundAt .rne neg m e 0 false).1)))) s

/-- m · 2^e ≤ q for a natural q. -/
def scaledLe (m : Nat) (e : Int) (q : Nat) : Bool := if 0 ≤ e then m * 2 ^ e.toNat ≤ q else m ≤ q * 2 ^ (-e).toNat

/-- The scale that the values of a segment need (R149), and whether one of them is not finite. -/
def bmaxVal (w : Nat) (sgn : Bool) (xs : List FVal) : Nat × Bool :=
  if xs.any (fun x => !x.finite) then (255, true)
  else
    let mags := xs.filterMap (fun x => match x with | .fin n m e => if n && !sgn then none else some (m, e) | _ => none)
    let q := 2 ^ (if sgn then w - 1 else w) - 1
    if mags.all (fun x => x.1 = 0) then (0, false)
    else (((List.range 255).find? (fun (e : Nat) => mags.all (fun x => scaledLe x.1 (x.2 + 127 - (e : Nat)) q))).getD 254, false)

/-- VBMAX writes its scalar unless `em` is zero (R81, R149). -/
def execVbmax (g : Guard) (sgn : Bool) (w : BitVec 3) (d : SReg) (a : VReg) (m : Amod) (s : State) :
    Host.Outcome State Fault Refusal :=
  issueWord { fpPlan false with
    illegal := fun r => amodWide m r || r.L < 256, regs := [a.toNat], hold := fun r => r.pendS d.toNat }
    (fun r => r.arm.em != 0)
    (onRow (fun r v =>
      let es := (List.range (v.L / 256)).map (fun k =>
        bmaxVal (w.toNat + 1) sgn (((v.actLanes g).filter (fun l => l / 256 == k)).map
          (fun l => fmt32.decode (v.src a m l).toNat)))
      let x := es.zipIdx.foldl (fun acc (e, k) => acc + e.1 * 2 ^ (8 * k)) 0
      (r.setS d.toNat (BitVec.ofNat 64 x)).orFlags (flagIf (es.any (fun e => e.2)) fNF))) s

/-! ### Planar packing (R141, R153) -/

/-- The block groups whose first lane acts. -/
def groupsOf (v : Row) (g : Guard) : List Nat := (List.range (v.L / 64)).filter (fun n => v.acts g (64 * n))

/-- Element i of group n of va in byte form, saturated to w bits. -/
def plnElem (v : Row) (w : Nat) (sgn : Bool) (a : VReg) (n i : Nat) : Int × Flags :=
  satRange w sgn (intOf 8 sgn (elemAt 8 (v.vreg a.toNat (64 * n + i / 4)) (i % 4)).toNat) false

/-- Lane 64n + k of the planar form. -/
def plnLane (v : Row) (w : Nat) (sgn : Bool) (a : VReg) (n k : Nat) : W32 :=
  if k < 8 * w then
    BitVec.ofNat 32 ((List.range 32).foldl (fun acc u =>
      acc + (bitsOf 8 (plnElem v w sgn a n (32 * (k % 8) + u)).1 / 2 ^ (k / 8) % 2) * 2 ^ u) 0)
  else 0

/-- R153. The bytes of a converted group that lie in lanes that act raise their flags (R142, log entry 65). -/
def execVpln (g : Guard) (sgn : Bool) (w : BitVec 3) (d a : VReg) (s : State) : Host.Outcome State Fault Refusal :=
  issueL { fpPlan false with
    units := 2, illegal := fun r => r.L < 64, regs := [d.toNat, a.toNat], hold := fun r => r.holdV d.toNat } g
    (onRow (fun r v => (groupsOf v g).foldl (fun q n =>
      (q.setLanes d.toNat ((List.range 64).map (64 * n + ·)) (fun l => plnLane v (w.toNat + 1) sgn a n (l % 64))).orFlags
        (((List.range 256).filter (fun i => v.acts g (64 * n + i / 4))).foldl
          (fun f i => f ||| (plnElem v (w.toNat + 1) sgn a n i).2) 0)) r)) s

/-- Element i of group n from planar form. -/
def uplnElem (v : Row) (w : Nat) (sgn : Bool) (a : VReg) (n i : Nat) : Nat :=
  let q := (List.range w).foldl (fun acc p =>
    acc + ((v.vreg a.toNat (64 * n + 8 * p + i / 32)).getLsbD (i % 32)).toNat * 2 ^ p) 0
  bitsOf 8 (intOf w sgn q)

def execVupln (g : Guard) (sgn : Bool) (w : BitVec 3) (d a : VReg) (s : State) : Host.Outcome State Fault Refusal :=
  issueL { fpPlan false with
    units := 2, illegal := fun r => r.L < 64, regs := [d.toNat, a.toNat], hold := fun r => r.holdV d.toNat } g
    (onRow (fun r v => (groupsOf v g).foldl (fun q n =>
      q.setLanes d.toNat ((List.range 64).map (64 * n + ·)) (fun l =>
        patchBytes 0 (fun b => some (uplnElem v (w.toNat + 1) sgn a n (4 * (l % 64) + b))))) r)) s

end Sys2Proof.Machine
end

