-- ==== Sys2Proof/Machine/Matrix.lean ====
section
/-! DEFINITION. The matrix array: operands, the residue pipeline, WLD, WSWAP, MMAC, the accumulator store and MSTAT, and the
array's own events (R173 to R196). -/

namespace Sys2Proof.Machine

/-! ### csr.mflags (Table 08-2) -/

def mOvf : W8 := 1
def mUnf : W8 := 2
def mInx : W8 := 4
def mAovf : W8 := 8
def mInv : W8 := 16
def mNf : W8 := 32
def mIf (b : Bool) (f : W8) : W8 := if b then f else 0

/-! ### The residue pipeline (R181 to R183) -/

/-- The exact dot product, which the three residues recover (R181). -/
def dotProduct (qa qw : Nat → Int) : Int := ((List.range 256).map (fun k => qa k * qw k)).sum

/-- R182: the scaled value of column col, and the flags it raises. -/
def scaled (x : Int) (ea ew : Nat) : Nat × W8 :=
  if ea = 255 || ew = 255 then (fmt32.nanBits, mInv)
  else
    let (b, fl) := fmt32.ofInt .rne x ((ea : Int) + ew - 254)
    let small := b % fmt32.signBit < 2 ^ fmt32.mb
    (b, mIf (fl &&& fOverflow != 0) mOvf ||| mIf (small && fl &&& fInexact != 0) mUnf)

/-- R183: the result of a column with its addend, and its flags. -/
def combined (x : Int) (ea ew : Nat) (addend : Option W32) : W32 × W8 :=
  let (b, f1) := scaled x ea ew
  let (r, f2) := match addend with
    | none => (b, 0)
    | some w =>
      let p := fmt32.decode b
      let q := fmt32.decode w.toNat
      let (y, fl) := fmt32.add .rne p q
      (y, mIf (fl &&& fInexact != 0) mInx ||| mIf (fl &&& fOverflow != 0) mAovf
        ||| mIf (p.isInf && q.isInf && p.neg != q.neg) mInv ||| mIf (!q.finite) mNf)
  (BitVec.ofNat 32 r, f1 ||| f2 ||| mIf (!(fmt32.decode r).finite) mNf)

/-! ### Blocks (R139 to R141, R176) -/

/-- Element i of a block whose bytes are given (R140). -/
def blockElem (fmt : Nat) (sgn : Bool) (get : Nat → W8) (i : Nat) : Int :=
  if fmt = 7 then intOf 8 sgn (get i).toNat
  else intOf (fmt + 1) sgn ((List.range (fmt + 1)).foldl (fun acc p =>
    acc + ((get (32 * p + i / 8)).getLsbD (i % 8)).toNat * 2 ^ p) 0)

/-- Element i of block group n of a register (R141). -/
def regElem (v : Row) (fmt : Nat) (sgn : Bool) (reg n i : Nat) : Int :=
  if fmt = 7 then intOf 8 sgn (elemAt 8 (v.vreg reg (64 * n + i / 4)) (i % 4)).toNat
  else intOf (fmt + 1) sgn ((List.range (fmt + 1)).foldl (fun acc p =>
    acc + ((v.vreg reg (64 * n + 8 * p + i / 32)).getLsbD (i % 32)).toNat * 2 ^ p) 0)

/-- Weight k of column col of a latch (R174). -/
def Latch.weight (t : Latch) (col k : Nat) : Int := intOf 8 t.sgn (tget 0 t.q (256 * col + k)).toNat

/-- R180: the scale of block j from a scale word. -/
def wordScale (x : W64) (j : Nat) : Nat := (x.extractLsb' (8 * (j % 8)) 8).toNat

/-! ### Operand checks at issue (R179) -/

/-- The first fault of the operand bytes of blocks 0 to n. -/
def operandFault (s : State) (row : Nat) (sA sB : W64) (fmt n : Nat) (arr : Bool) : Option (W8 × W64) :=
  if sB.extractLsb' 52 12 != 0 then some (cMatrixFmt, sB)
  else if sA.toNat % 32 ≠ 0 then some (cMisalign, sA)
  else if pitchOf sB % 32 ≠ 0 then some (cMisalign, BitVec.ofNat 64 (pitchOf sB))
  else if tileOf sB % 32 ≠ 0 then some (cMisalign, BitVec.ofNat 64 (tileOf sB))
  else
    let blocks := (List.range (n + 1)).flatMap (fun j => [blockAddr sA sB j 0, blockAddr sA sB j (blockBytes fmt - 1)])
    let scales := if arr then [scaleAddr sA sB 0, scaleAddr sA sB n] else []
    s.firstFault row 1 ((blocks ++ scales).map (BitVec.ofNat 64))

/-! ### State of the array -/

/-- A fill of the shadow latch is under way. -/
def Row.filling (r : Row) : Bool :=
  r.ops.any (fun o => match o.kind with | .wld _ _ _ _ _ _ b _ => b | _ => false)
    || r.peg.any (fun e => !e.2.fires.isEmpty && !e.2.side)
/-- The oldest WLD that waits for the shadow. -/
def Row.wldNext (r : Row) : Option Op := r.ops.find? (fun o => match o.kind with | .wld _ _ _ _ _ _ b _ => !b | _ => false)
/-- A WLD waits for the shadow. -/
def Row.wldWaits (r : Row) : Bool :=
  r.ops.any (fun o => match o.kind with | .wld _ _ _ _ _ _ b _ => !b | _ => false)
/-- A store in the buffer. -/
def OpKind.buffers : OpKind → Bool
  | .store .. => true
  | _ => false
/-- Column `col` of WLD `id` cannot be read yet: an earlier access of the row to its bytes is still to be performed (R250).
While the array is frozen the bytes of a buffered store are passed on, so that a fill under way ends (R196). -/
def Row.wldBusy (r : Row) (id : Nat) (sA sB : W64) (fmt : Nat) (arr : Bool) (col : Nat) : Bool :=
  let reads (f : Nat → Nat → Bool) : Bool :=
    (List.range (blockBytes fmt / 32)).any (fun c => f (blockAddr sA sB col (32 * c)) 32) || (arr && f (scaleAddr sA sB col) 1)
  (r.earlier id).any (fun x => !(r.frozen && x.kind.buffers) && reads (r.opMeets x)) || (!r.frozen && reads (r.mmacMeets id))
/-- A WLD may begin its fill: no fill is under way and no swap point queued (R186), and the array is stoked (R191). -/
def Row.wldReady (r : Row) : Bool := !r.filling && r.shadow.st != .swapQueued && !r.mat.banked && r.wldNext.isSome
/-- A fill is under way, or a WLD has been issued whose fill only has to begin (R186). -/
def Row.fillDue (r : Row) : Bool := r.filling || r.wldReady
/-- R196: the entered vectors and the fill have finished. -/
def Row.settled (r : Row) : Bool := r.inflight.isEmpty && !r.fillDue
/-- R382: the array is idle. -/
def Row.matIdle (r : Row) : Bool := r.queue.isEmpty && r.outBuf.isEmpty && r.settled && !r.wldWaits
/-- R383: an array that has become idle starts its interval. -/
def Row.matRest (r : Row) (clk : W64) : Row :=
  if r.matIdle && r.mat.idleSince.isNone then { r with mat := r.mat.rest matE matH clk } else r

/-- MMAC, WLD and WSWAP in handler mode wait for the freeze, then trap MATRIX_FMT 2 (R196). -/
def whenRunning (body : State → Nat → Row → Res) : State → Nat → Row → Res := fun s n v =>
  let r := s.row n
  if r.handler then (if r.settled then .trap cMatrixFmt 2 s else .wait .array s) else body s n v

/-- The other matrix instructions in handler mode only wait for the freeze. -/
def freezeHold (r : Row) : Bool := r.handler && !r.settled

/-! ### WLD and WSWAP -/

/-- A shadow reserved for a WLD (R175). -/
def Latch.reserved : Latch := { Latch.reset with st := .filling }

/-- R186: the shadow is reserved where it is free or full. -/
def Row.reserve (r : Row) : Row :=
  match r.shadow.st with
  | .empty | .full => { r with shadow := .reserved }
  | _ => r

/-- A latch after a fill or a swap point has left it so: reserved at once where a WLD waits for it (R175, R186). -/
def Row.shadowNext (r : Row) (t : Latch) : Latch := if r.wldWaits then .reserved else t

def execWld (g : Guard) (a : VReg) (n : BitVec 8) (fmt : BitVec 3) (sa : Bool) (ss : SReg) (fs : Bool) (s : State) :
    Host.Outcome State Fault Refusal :=
  issueQ { nest := true, access := true } g (whenRunning (fun s row v =>
    let sA := v.sreg a.toNat
    let sB := v.sreg (a.toNat + 1)
    let arr := ss == 0
    match operandFault s row sA sB fmt.toNat n.toNat arr with
    | some (c, t) => .trap c t s
    | none =>
      if (s.row row).mat.banked then .wait (.stoke false) (s.modRow row (Row.askMat (s.rowClk row)))
      else
        let k := OpKind.wld sA sB n.toNat fmt.toNat sa (if arr then none else some (v.sreg ss.toNat)) false 0
        .done (s.modRow row (fun r => { (r.reserve).addOp (v.flagSel fs) k with mat := r.mat.use (s.rowClk row) })))) s

def execWswap (g : Guard) (s : State) : Host.Outcome State Fault Refusal :=
  issueQ { nest := true } g (whenRunning (fun s n _ =>
    let r := s.row n
    match r.shadow.st with
    | .filling | .swapQueued => .wait .array s
    | .empty => .trap cMatrixFmt 1 s
    | .full =>
      if 4 ≤ r.queue.length then .wait .queue s
      else .done (s.setRow n { r with
        shadow := { r.shadow with st := .swapQueued }, queue := r.queue ++ [⟨r.nextId, .swap⟩]
        mat := r.mat.use (s.rowClk n) }))) s

/-! ### MMAC -/

/-- Destination and source registers, each range in ascending order (R118, R177, R188). Where a range passes the register count,
csr.tval is the lowest number beyond it, and the range of d is tested before that of a: the spec names neither (log entry
66). -/
def mmacRegs (f : MmacF) (r : Row) : List Nat :=
  (if f.dk == 2 then (List.range (f.n.toNat / (r.L / 128) + 1)).map (fun i => f.d.toNat + i) else [])
    ++ (if f.pair then [] else (List.range (f.n.toNat / (r.L / 64) + 1)).map (fun i => f.a.toNat + i))

/-- Field values that the running width forbids (R177, R188). -/
def mmacIllegal (f : MmacF) (r : Row) : Bool :=
  (!f.pair && r.L < 64) || (f.dk == 2 && r.L < 128)
    || (f.dk == 2 && !f.pair && f.d.toNat ≤ f.a.toNat + f.n.toNat / (r.L / 64)
        && f.a.toNat ≤ f.d.toNat + f.n.toNat / (r.L / 128))

/-- Destination registers with a pending write or a pending read (R51, R191). -/
def mmacHold (f : MmacF) (r : Row) : Bool :=
  f.dk == 2 && (List.range (f.n.toNat / (r.L / 128) + 1)).any (fun i => r.holdV (f.d.toNat + i))

/-- R188's tests 1 to 4 under a true guard. -/
def mmacFault (s : State) (row : Nat) (f : MmacF) (sA sB : W64) : Option (W8 × W64) :=
  let r := s.row row
  if r.active.st == .empty && r.shadow.st != .swapQueued then some (cMatrixFmt, 0)
  else match (if f.pair then operandFault s row sA sB f.fmt.toNat f.n.toNat (f.ss == 0) else none) with
    | some e => some e
    | none =>
      let south := f.dk == 1 || f.dk == 3
      if (f.nk == 1 && r.nbind == .closed) || (south && r.sbind == .closed) then some (cPortClosed, 0)
      else if south && s.southShut row then some (cPortClosed, 1)
      else none

def execMmac (g : Guard) (f : MmacF) (s : State) : Host.Outcome State Fault Refusal :=
  issueQ { illegal := mmacIllegal f, regsOf := mmacRegs f, hold := mmacHold f, nest := true, access := true } g
    (whenRunning (fun s row v =>
      let r := s.row row
      let sA := if f.pair then v.sreg f.a.toNat else 0
      let sB := if f.pair then v.sreg (f.a.toNat + 1) else 0
      match mmacFault s row f sA sB with
      | some (c, t) => .trap c t s
      | none =>
        if r.mat.banked then .wait (.stoke false) (s.modRow row (Row.askMat (s.rowClk row)))
        else if 4 ≤ r.queue.length then .wait .queue s
        else
          let slot : Slot := ⟨r.nextId, .mmac r.curWord f sA sB (v.sreg f.ss.toNat) 0 0⟩
          .done (s.modRow row (fun r => { r.addOp (v.flagSel f.fs) .mmac with
            queue := r.queue ++ [slot], mat := r.mat.use (s.rowClk row), arrSince := s.rowClk row })))) s

/-! ### Vectors -/

/-- The block and scale of vector j are in hand: no access of the row before the slot to their bytes is still to be
performed. -/
def Row.operandReady (r : Row) (seq : Nat) (f : MmacF) (sA sB : W64) (j : Nat) : Bool :=
  !f.pair || (r.earlier seq).all (fun o =>
    !((List.range (blockBytes f.fmt.toNat / 32)).any (fun c => r.opMeets o (blockAddr sA sB j (32 * c)) 32)
      || (f.ss == 0 && r.opMeets o (scaleAddr sA sB j) 1)))

/-- R189, R190: the next vector may enter. A pop is an acquire, which the row's earlier volatile accesses precede (R240). -/
def State.vectorReady (s : State) (n : Nat) : Bool :=
  let r := s.row n
  match r.entering with
  | ⟨seq, .mmac _ f sA sB _ j _⟩ :: _ =>
    !r.frozen && !(s.die (dieOf n)).halted && r.arrStop == .run && !r.mat.banked && r.outBuf.isEmpty
      && r.active.st == .full && r.inflight.length < 12
      && (f.nk != 1 || (4 ≤ r.north.entries.length
        && (r.earlier seq).all (fun o => !(o.kind.open_ && o.kind.ord == .volatile))))
      && (f.nk != 2 || !r.inflight.any (fun x => x.acc == some ((f.d.toNat + j) % 128)))
      && r.operandReady seq f sA sB j
  | _ => false

/-- A byte of an operand of the row's instruction `k`, or of an engine's follow-on, as the array reads it; one that the row may
no longer reach gives no value (R244). -/
def State.operandByte (s : State) (n : Nat) (k : Option Nat) (a : Nat) : W8 :=
  if s.barred n a then BitVec.ofNat 8 (Config.freeNat s.drawn a)
  else match k with
    | some k => ((s.row n).buffered k a).getD (s.ownByte n k a)
    | none => s.nearByte (dieOf n) a

/-- The lines of n bytes of an operand, in its 8-byte pieces. -/
def State.fillOperand (s : State) (d a n : Nat) : State :=
  (List.range ((n + 7) / 8)).foldl (fun s i => s.fillLoad d (a + 8 * i) (min 8 n)) s

/-- The activation element k of vector j, and its scale, with the far cache filled for its bytes, for the row's instruction
`id` or for a follow-on. -/
def vectorOperand (s : State) (n : Nat) (id : Option Nat) (f : MmacF) (sA sB sc : W64) (j : Nat) : (Nat → Int) × Nat × State :=
  if f.pair then
    let d := dieOf n
    let s1 := (List.range (blockBytes f.fmt.toNat / 32)).foldl (fun s c => s.fillOperand d (blockAddr sA sB j (32 * c)) 32) s
    let s2 := if f.ss == 0 then s1.fillOperand d (scaleAddr sA sB j) 1 else s1
    let e := if f.ss == 0 then (s2.operandByte n id (scaleAddr sA sB j)).toNat else wordScale sc j
    (blockElem f.fmt.toNat f.sa (fun b => s2.operandByte n id (blockAddr sA sB j b)), e, s2.draw)
  else
    let v := (s.row n).view s.drawn
    let G := (s.row n).L / 64
    (regElem v f.fmt.toNat f.sa (f.a.toNat + j / G) (j % G), wordScale sc j, s.draw)

/-- The 128 results of a vector and their flags (R189). -/
def vectorResults (t : Latch) (qa : Nat → Int) (ea : Nat) (addend : Nat → Option W32) : List W32 × W8 :=
  (List.range 128).foldl (fun (l, fl) col =>
    let (x, f) := combined (dotProduct qa (t.weight col)) ea (tget 0 t.scales col).toNat (addend col)
    (l ++ [x], fl ||| f)) ([], 0)

/-- VECTOR_ENTER: the head vector's operands are taken, and its results set going. -/
def execVectorEnter (row : Nat) (s : State) : Host.Outcome State Fault Refusal :=
  let r := s.row row
  match r.entering with
  | ⟨seq, .mmac w f sA sB sc j src⟩ :: rest =>
    if !s.vectorReady row || !r.vgranted then .next s
    else
      let (qa, ea, s1) := vectorOperand s row (if src = 0 then some seq else none) f sA sB sc j
      let north := r.north.entries.take 4
      let e := (f.d.toNat + j) % 128
      let addend (col : Nat) : Option W32 :=
        if f.nk == 1 then (north[col / 32]?).map (fun x => tget 0 x.words (col % 32))
        else if f.nk == 2 then some (tget 0 r.ac (128 * e + col)) else none
      let (vals, fl) := vectorResults r.active qa ea addend
      let s2 := if f.nk == 1 then (s1.dropNorth row 4).acquireNorth row else s1
      let last := j == f.n.toNat
      let q := r.L / 128
      let x : VecFlight :=
        ⟨if f.dk == 0 || f.dk == 3 then some e else none,
         if f.dk == 2 then some (f.d.toNat + j / q, j % q) else none,
         f.dk == 1 || f.dk == 3, vals, fl, last, seq, src⟩
      .next (s2.modRow row (fun r => { r with
        inflight := r.inflight ++ [x]
        queue := r.queue.takeWhile Slot.spent ++ ⟨seq, .mmac w f sA sB sc (j + 1) src⟩ :: rest
        vgranted := false, arrSince := s.rowClk row }))
  | _ => .next s

/-- The four entries of a result (R189). -/
def resultEntries (vals : List W32) : List PEntry :=
  (List.range 4).map (fun i => ⟨tabulate 0 32 (fun c => vals.getD (32 * i + c) 0), 0xFFFFFFFF⟩)

/-- The same as the output buffer holds them: the MMAC completes with the last of its last vector. -/
def outEntries (x : VecFlight) : List OutEntry :=
  (resultEntries x.vals).zipIdx.map (fun (e, i) => ⟨e, x.seq, if x.last && i == 3 then [x.seq] else []⟩)

/-- A follow-on MMAC has completed at its engine (R281). -/
def State.followDone (s : State) (d e : Nat) : State :=
  s.modDie d (fun x => { x with engines := tmod .reset x.engines e (fun g =>
    { g with cmd := g.cmd.map (fun c => { c with fodone := true }) }) })

/-- The MMAC of a slot has completed: it leaves the queue, and its flag clears or its engine is told. -/
def State.endMmac (s : State) (n seq : Nat) : State :=
  match (s.row n).queue.find? (fun q => q.seq == seq) with
  | some ⟨_, .mmac _ _ _ _ _ _ src⟩ =>
    let s1 := s.modRow n (fun r => { r with queue := r.queue.filter (fun q => q.seq != seq) })
    if src ≠ 0 then s1.followDone (dieOf n) (src - 1)
    else s1.modRow n (fun r => match r.findOp seq with | some o => r.endOp o | none => r)
  | _ => s

/-- The results of a vector may be pushed: room, and every access that the row issued before the MMAC performed (R171). -/
def State.pushReady (s : State) (n : Nat) (x : VecFlight) : Bool :=
  (s.row n).outBuf.isEmpty && s.southRoom n 4 && (match x.op with | some id => (s.row n).drainedTo id | none => true)

/-- The oldest entered vector's results may be written: pushed results at the port, or in the output buffer of a frozen
array. -/
def State.writeReady (s : State) (n : Nat) (x : VecFlight) : Bool :=
  !x.push || s.pushReady n x || ((s.row n).frozen && (s.row n).outBuf.length + 4 ≤ 64)

/-- VECTOR_WRITE: the output buffer's oldest entry is pushed after an ERET, or the oldest entered vector is written. An MMAC
completes with its last results in place and its last entries pushed (R189). -/
def execVectorWrite (row : Nat) (s : State) : Host.Outcome State Fault Refusal :=
  let r := s.row row
  match r.outBuf, r.inflight with
  | e :: rest, l =>
    if !r.frozen && s.southRoom row 1 && r.drainedTo e.seq then
      let s1 := ((s.modRow row (fun r => { r with outBuf := rest })).releaseSouth row).pushSouth row [e.entry]
      .next ((e.ends.foldl (fun s q => s.endMmac row q) s1).modRow row (fun r => r.matRest (s.rowClk row)))
    else match l with
      | x :: xs => if s.writeReady row x then .next (writeVector s row x xs) else .next s
      | [] => .next s
  | [], x :: xs => if s.writeReady row x then .next (writeVector s row x xs) else .next s
  | [], [] => .next s
where
  /-- The results in place: registers, entries, flags, and pushes. -/
  writeVector (s : State) (n : Nat) (x : VecFlight) (xs : List VecFlight) : State :=
    let s1 := s.modRow n (fun r => { r.putVec x with
      inflight := xs, csr := { r.csr with mflags := r.csr.mflags ||| x.mflags } })
    let done (s : State) : State := if x.last then s.endMmac n x.seq else s
    let s2 :=
      if !x.push then done s1
      else if s.pushReady n x then done ((s1.releaseSouth n).pushSouth n (resultEntries x.vals))
      else s1.modRow n (fun r => { r with outBuf := r.outBuf ++ outEntries x })
    s2.modRow n (fun r => { r.matRest (s.rowClk n) with arrSince := s.rowClk n })

/-- SWAP_POINT (R187, R196): once the output buffer is empty the active latch takes the shadow, which a waiting WLD reserves at
once (R175). The emptied or reserved shadow keeps no tag and no version, which Table 08-6 does not say (log entry 64). -/
def execSwapPoint (row : Nat) (s : State) : Host.Outcome State Fault Refusal :=
  let r := s.row row
  match r.entering with
  | ⟨_, .swap⟩ :: rest =>
    if r.frozen || (s.die (dieOf row)).halted || !r.outBuf.isEmpty then .next s
    else if r.mat.banked then .next (s.modRow row (Row.askMat (s.rowClk row)))
    else .next (s.setRow row ({ r with
      active := { r.shadow with st := .full }
      shadow := r.shadowNext .reset
      queue := r.queue.takeWhile Slot.spent ++ rest }.matRest (s.rowClk row)))
  | _ => .next s

/-- SHADOW_FILL_START (R186): the oldest waiting WLD begins its fill, which waits for a fill under way and a queued swap point
alone, and for the array's stoking. -/
def execShadowFillStart (row : Nat) (s : State) : Host.Outcome State Fault Refusal :=
  let r := s.row row
  match r.wldNext with
  | some ⟨id, _, _, .wld sA sB n fmt sgn ss _ _⟩ =>
    if r.mat.banked then .next (s.modRow row (Row.askMat (s.rowClk row)))
    else if !r.wldReady then .next s
    else .next (s.setRow row { r.setOp id (.wld sA sB n fmt sgn ss true 0) with
      shadow := { Latch.reserved with w := fmt + 1, sgn := sgn } })
  | _ => .next s

/-- One column of a WLD, or its end (R186). -/
def wldStep (s : State) (n : Nat) (o : Op) (ecc : Bool) : State :=
  let r := s.row n
  match o.kind with
  | .wld sA sB cols fmt sgn ss true col =>
    let clk := s.rowClk n
    if cols < col then
      s.modRow n (fun r => ({ r.endOp o with
        shadow := (r.dropOp o.id).shadowNext { r.shadow with st := .full } }
        ).matRest clk)
    else
      let d := dieOf n
      let chunks := (List.range (blockBytes fmt / 32)).map (fun c => blockAddr sA sB col (32 * c))
      if r.wldBusy o.id sA sB fmt ss.isNone col then s
      else
        let s1 := chunks.foldl (fun s a => s.fillOperand d a 32) s
        let s2 := if ss.isNone then s1.fillOperand d (scaleAddr sA sB col) 1 else s1
        let get (b : Nat) : W8 :=
          if ecc then BitVec.ofNat 8 (Config.freeNat s.drawn b) else s2.operandByte n (some o.id) (blockAddr sA sB col b)
        let sc : W8 := match ss with
          | some x => BitVec.ofNat 8 (wordScale x col)
          | none => s2.operandByte n (some o.id) (scaleAddr sA sB col)
        let s3 := s2.draw.modRow n (fun r => { r.setOp o.id (.wld sA sB cols fmt sgn ss true (col + 1)) with
          shadow := { r.shadow with
            scales := tset 0 r.shadow.scales col sc
            q := tsets 0 r.shadow.q ((List.range 256).map (fun k =>
              (256 * col + k, BitVec.ofInt 8 (blockElem fmt sgn get k)))) } })
        if ecc then s3.defer n cEccUncorr (BitVec.ofNat 64 (blockAddr sA sB col 0)) else s3
  | _ => s

/-- The head MMAC waits at a port: 2 for north entries, 3 for south room (R192). -/
def State.arrayStalled (s : State) (n : Nat) : Option Nat :=
  let r := s.row n
  match r.outBuf, r.inflight with
  | _ :: _, _ => if !s.southRoom n 1 then some 3 else none
  | [], x :: _ => if x.push && !s.southRoom n 4 then some 3 else none
  | [], [] => match r.entering with
    | ⟨_, .mmac _ f _ _ _ _ _⟩ :: _ => if f.nk == 1 && r.north.entries.length < 4 then some 2 else none
    | _ => none

/-- ARRAY_PORT_STOP (R192): a seal before the next vector, or an uncorrectable error at an operand byte. -/
def execArrayPortStop (row : Nat) (ecc : Option Nat) (s : State) : Host.Outcome State Fault Refusal :=
  let r := s.row row
  match r.entering with
  | ⟨_, .mmac _ f sA sB _ j _⟩ :: _ =>
    if r.frozen || r.arrStop != .run || !r.outBuf.isEmpty then .next s
    else match ecc with
      | none =>
        let k := r.north.entries.length
        if f.nk == 1 && k < 4 && r.sealed then
          .next ((s.setRow row { r with arrStop := .sealMet k }).defer row cPortDrained (BitVec.ofNat 64 (256 + k)))
        else .next s
      | some a =>
        if f.pair && blockMeets sA sB f.fmt.toNat (f.ss == 0) a 1 j then
          .next ((s.setRow row { r with arrStop := .ecc }).defer row cEccUncorr (BitVec.ofNat 64 a))
        else .next s
  | _ => .next s

/-- The operation of the head MMAC: the oldest that has results to write or to push, or the next to enter. -/
def Row.headOp (r : Row) : Option Op :=
  let q := if r.inflight.isEmpty && r.outBuf.isEmpty then r.entering.head?
    else r.queue.find? (fun q => match q.kind with | .mmac .. => true | .swap => false)
  (q.bind Slot.op).bind r.findOp

/-- The row waits for the head MMAC: behind it, for its queue, or for its flag, in the arm's own copy or, with FLWAIT.all, in
either (R98, R192, R314). -/
def Row.waitsForArray (r : Row) : Bool :=
  match r.wait with
  | some .behind | some .queue => true
  | some .flags =>
    let (all, mask) : Bool × BitVec 12 :=
      if r.arm.clause.words.isEmpty then (false, match r.req with | some c => c.wait | none => 0)
      else match decode r.curWord with | .ok (.flwait _ a m) => (a, m) | _ => (false, 0)
    (match r.headOp with
      | some ⟨_, a, some f, _⟩ => mask.getLsbD f && (all || a == r.armId || a == .single)
      | _ => false)
  | _ => false

/-- The head MMAC and the row have both waited csr.pwd clk: the port at which the MMAC waits (R192). -/
def State.arrayLate (s : State) (n : Nat) : Option Nat :=
  let r := s.row n
  if s.live n && s.lateFor n r.waitSince && s.lateFor n r.arrSince && r.waitsForArray then s.arrayStalled n else none

/-- ARRAY_WATCHDOG (R192). The trap is a deferred one, taken at once where the row is not in its handler (R336). -/
def execArrayWatchdog (row : Nat) (s : State) : Host.Outcome State Fault Refusal :=
  match s.arrayLate row with
    | some t =>
      .next (((s.modRow row (fun r => { r with arrSince := s.rowClk row })).defer row cPortStarved (BitVec.ofNat 64 t)).takeDue row)
    | none => .next s

/-! ### The accumulator store (R193 to R195) -/

/-- The word of lane l (R193). -/
def accWord (v : Row) (a : SReg) (h : BitVec 2) (e : BitVec 7) (l : Nat) : Nat :=
  (128 * e.toNat + 32 * h.toNat + 32 * ((v.sreg a.toNat).toNat % 512) + l) % 16384

def execAccrd (g : Guard) (d : VReg) (a : SReg) (h : BitVec 2) (e : BitVec 7) (s : State) :
    Host.Outcome State Fault Refusal :=
  issueL { regs := [d.toNat], nest := true, hold := fun r => r.holdV d.toNat || freezeHold r, units := 2,
           cycles := Row.passes } g
    (onRow (fun r v => r.setLanes d.toNat (v.actLanes g) (fun l => tget 0 v.ac (accWord v a h e l)))) s

def execAccwr (g : Guard) (d : VReg) (a : SReg) (h : BitVec 2) (e : BitVec 7) (s : State) :
    Host.Outcome State Fault Refusal :=
  issueL { regs := [d.toNat], nest := true, hold := freezeHold, units := 2, cycles := Row.passes } g (fun s n v =>
    let ls := v.actLanes g
    if !(s.row n).frozen && ls.any (fun l => (s.row n).pendAc (accWord v a h e l / 128)) then .wait .array s
    else .done (s.modRow n (fun r => { r with
      ac := tsets 0 r.ac (ls.map (fun l => (accWord v a h e l, v.vreg d.toNat l))) }))) s

def execAccz (g : Guard) (f cnt : BitVec 7) (s : State) : Host.Outcome State Fault Refusal :=
  let es := (List.range (cnt.toNat + 1)).map (fun i => (f.toNat + i) % 128)
  issueQ { nest := true, hold := fun r => freezeHold r || (!r.frozen && es.any r.pendAc) } g
    (onRow (fun r _ => { r with ac := r.ac.filter (fun x => !es.contains (x.1 / 128)) })) s

/-- State codes of Table 08-1. -/
def latchCode : LatchSt → Nat
  | .empty => 0
  | .filling => 1
  | .full => 2
  | .swapQueued => 3

/-- Table 08-6. Of a latch that is empty or filling, w and sgn read 0, which the table states of the active w alone; and no MMAC
is the head where a swap point stands first in the queue, so that its count reads 0 (log entry 64). -/
def mstatVal (r : Row) : Form3 → W64
  | .f0 =>
    let full := r.active.st != .empty
    let head := match r.queue with | ⟨_, .mmac _ f _ _ _ j _⟩ :: _ => f.n.toNat + 1 - j | _ => 0
    let sh := r.shadow.st == .full || r.shadow.st == .swapQueued
    BitVec.ofNat 64 (full.toNat + (if full then 4 * r.active.w + 64 * r.active.sgn.toNat else 0)
      + 128 * latchCode r.shadow.st + (if sh then 512 * r.shadow.w + 8192 * r.shadow.sgn.toNat else 0)
      + 16384 * r.queue.length + 131072 * head + 2 ^ 26 * r.frozen.toNat + 2 ^ 27 * r.mat.banked.toNat)
  | .f1 => r.active.version ++ r.active.tag
  | .f2 => r.shadow.version ++ r.shadow.tag

/-- R195. In handler mode it does not wait for the freeze to complete, where R195 and R196 differ (log entry 64). -/
def execMstat (g : Guard) (d : SReg) (f : Form3) (s : State) : Host.Outcome State Fault Refusal :=
  issueQ { nest := true, hold := fun r => r.pendS d.toNat } g
    (fun s n _ => .done (s.modRow n (fun r => r.setS d.toNat (mstatVal r f)))) s

end Sys2Proof.Machine
end

