-- ==== Sys2Proof/Machine/RingOps.lean ====
section
/-! DEFINITION. Pegs and the ring instructions PEG, UNPEG, PEGW, PEGQ and RPOS (R207 to R222), and the Mangle's own events:
revolutions, feeders, tiles passing a die, fires and the ring watchdog (R200 to R214). -/

namespace Sys2Proof.Machine

/-! ### Tiles (R200, R209) -/

def tileCells (w : Nat) : Nat := 3 + 64 * w
def tileNum (t : List W8) (o : Nat) : W32 := BitVec.ofNat 32 (leVal ((t.drop o).take 4))

/-- Byte o of column col as a WLD operand holds it (R140, R209). -/
def tileCol (t : List W8) (col o : Nat) : W8 :=
  if tileW t = 8 then
    BitVec.ofNat 8 ((List.range 8).foldl (fun acc p =>
      acc + ((tileAt t (192 + 4096 * p + 32 * col + o / 8)).getLsbD (o % 8)).toNat * 2 ^ p) 0)
  else tileAt t (192 + 4096 * (o / 32) + 32 * col + o % 32)

/-- Byte o of the image that a side-memory fire writes. -/
def tileSide (t : List W8) (o : Nat) : W8 :=
  let B := blockBytes (tileW t - 1)
  if o < 128 * B then tileCol t (o / B) (o % B) else tileAt t (64 + (o - 128 * B))

/-- The latch that a tile fills (R209). Of a sgn byte above 1, which R201 does not test at insertion, bit 0 is taken (model's
choice, log entry 52). -/
def tileLatch (t : List W8) : Latch :=
  { st := .full, w := tileW t, sgn := (tileAt t 10).getLsbD 0, tag := tileNum t 0, version := tileNum t 4
    scales := tabulate 0 128 (fun c => tileAt t (64 + c))
    q := tabulate 0 32768 (fun i =>
      BitVec.ofInt 8 (blockElem (tileW t - 1) ((tileAt t 10).getLsbD 0) (tileCol t (i / 256)) (i % 256))) }

/-! ### The peg table -/

def Row.pegAt (r : Row) (i : Nat) : Peg := tget .free r.peg i
def Row.setPeg (r : Row) (i : Nat) (e : Peg) : Row := { r with peg := tset .free r.peg i e }

/-- An entry's flag clears in the copy of its arm (R209, R217). -/
def Row.pegFlag (r : Row) (e : Peg) : Row := match e.flag with | some f => r.dropFlag r.nextId e.arm f | none => r

/-- No PEGW takes a fire of the entry any more: what it has written is there for every access. -/
def Row.bare (r : Row) (i : Nat) : Row := { r with landed := r.landed.filter (fun x => x.peg != i) }

/-! ### Instructions -/

/-- The range t to t + 32,895 that PEG checks as STV would, granule by granule (R216; log entry 30). -/
def pegRange (s : State) (n : Nat) (t : W64) : Option (W8 × W64) :=
  ((List.range 514).map (fun k => t + BitVec.ofNat 64 (64 * k))).findSome? (fun a =>
    match sideFault a with
    | some c => some (c, a)
    | none => if s.denied n a.toNat then some (cOwner, a) else none)

def execPeg (g : Guard) (a b c : SReg) (flag : BitVec 4) (act : Bool) (i : BitVec 4) (s : State) :
    Host.Outcome State Fault Refusal :=
  issueQ { nest := true } g (fun s n v =>
    let r := s.row n
    let x := v.sreg a.toNat
    let y := v.sreg c.toNat
    let t := v.sreg b.toNat
    let fl := if flag.toNat < 12 then some flag.toNat else none
    if (r.pegAt i.toNat).st == .armed then .trap cPegFull (BitVec.ofNat 64 i.toNat) s
    else if act && (!t.getLsbD 55 || (t.extractLsb' 32 2).toNat != dieOf n) then .trap cBounds t s
    else if act && t &&& 63 != 0 then .trap cMisalign t s
    else match (if act then pegRange s n t else none) with
      | some (k, z) => .trap k z s
      | none =>
        let e : Peg :=
          { tag := x.setWidth 32, mask := x.extractLsb' 32 32, target := if act then t else 0, minver := y.setWidth 32
            count := (y.extractLsb' 32 8).toNat, st := .armed, side := act, flag := fl, unc := 0, arm := r.armId
            lastver := 0, fires := [] }
        .done (s.modRow n (fun r =>
          let r := (r.bare i.toNat).setPeg i.toNat e
          match fl with | some f => { r with arm := r.arm.setFlag f } | none => r))) s

/-- UNPEG's step 3 for one entry (R217). -/
def Row.freePeg (r : Row) (i : Nat) : Row :=
  let e := r.pegAt i
  let r1 := (r.bare i).setPeg i { e with st := .free, unc := 0 }
  let r2 := if e.st == .armed then r1.pegFlag e else r1
  (r2.pegws i).foldl Row.endOp r2

def execUnpeg (g : Guard) (mask : BitVec 16) (s : State) : Host.Outcome State Fault Refusal :=
  issueQ { nest := true } g (fun s n _ =>
    let named := (List.range 16).filter (fun i => mask.getLsbD i)
    if named.any (fun i => !((s.row n).pegAt i).fires.isEmpty) then .wait (.pegs mask) s
    else .done (s.modRow n (fun r => named.foldl Row.freePeg r))) s

/-- R347: CWAIT and PEGW operations outstanding. -/
def Row.waitOps (r : Row) : Nat :=
  r.ops.countP (fun o => match o.kind with | .cwait .. | .pegw .. => true | _ => false)

def execPegw (g : Guard) (a : SReg) (i : BitVec 4) (fs : Bool) (s : State) : Host.Outcome State Fault Refusal :=
  issueQ { nest := true } g (fun s n v =>
    if 16 ≤ (s.row n).waitOps then .wait .opLimit s
    else .done (s.modRow n (fun r => r.addOp (v.flagSel fs) (.pegw i.toNat (v.sreg a.toNat) (s.clkOf n))))) s

/-- A state code of Table 09-3. -/
def pegCode : PegSt → Nat
  | .free => 0
  | .armed => 1
  | .spent => 2

/-- R219. -/
def pegqVal (e : Peg) (tag : Bool) : W64 :=
  if tag then e.mask ++ e.tag
  else e.lastver ++ BitVec.ofNat 32 (pegCode e.st + 4 * e.side.toNat + 8 * e.flag.getD 15 + 128 * e.count
    + 2 ^ 15 * e.unc + 2 ^ 23 * (!e.fires.isEmpty).toNat)

def execPegq (g : Guard) (d : SReg) (tag : Bool) (i : BitVec 4) (s : State) : Host.Outcome State Fault Refusal :=
  issueQ { nest := true, hold := fun r => r.pendS d.toNat } g
    (fun s n _ => .done (s.modRow n (fun r => r.setS d.toNat (pegqVal (r.pegAt i.toNat) tag)))) s

/-- Cells of a table entry. -/
def entCells : RingEnt → Nat
  | .tile _ w => tileCells w
  | .gap c => c
  | .segment _ => 0
/-- T of R205: 0 with no table. -/
def ringT (t : List RingEnt) : Nat := if t.isEmpty then 0 else ((t.map entCells).sum + 1 + 255) / 256

/-- R220. RPOS.len is 0 until the first revolution begins, a table that waits being none in use (model's choice, log entry 69). -/
def rposVal (s : State) (n : Nat) (f : Form3) : W64 :=
  let d := s.die (dieOf n)
  match f with
  | .f0 => BitVec.ofNat 64 (d.ringRev.toNat + 2 ^ 32 * d.ringSeg.toNat + 2 ^ 40 * s.job.ring.running.toNat)
  | .f1 => BitVec.ofNat 64 (ringT s.job.ring.table)
  | .f2 => d.ringMark

def execRpos (g : Guard) (d : SReg) (f : Form3) (s : State) : Host.Outcome State Fault Refusal :=
  issueQ { nest := true, hold := fun r => r.pendS d.toNat } g
    (fun s n _ => .done (s.modRow n (fun r => r.setS d.toNat (rposVal s n f)))) s

/-! ### Revolutions and feeders (R201, R204) -/

def State.modRing (s : State) (f : Ring → Ring) : State := s.modJob (fun j => { j with ring := f j.ring })

/-- The feeders have inserted the whole of the revolution. -/
def Ring.fed (g : Ring) : Bool := g.table.length ≤ g.pos

/-- REVOLUTION_START: the idle cells of the last clk, then the next revolution's marker enters, under a table that waited. The
marker, and the cells before the first segment start, are of segment 0 in every revolution (model's choice, log entry 69). -/
def execRevolutionStart (s : State) : Host.Outcome State Fault Refusal :=
  let g := s.job.ring
  if (g.table.isEmpty && g.next.isNone) || (g.running && !g.fed) then .next s
  else
    let idle : List RingItem := if g.running && g.cell % 256 ≠ 0 then [.idle g.seg] else []
    .next (s.modRing (fun g => { g with
      table := g.next.getD g.table, next := none, running := true, rev := g.rev + 1, pos := 0, seg := 0, cell := 1
      items := g.items ++ idle ++ [.marker (g.rev + 1)] }))

/-- A RING_EVENT (R201, R202) of a unit: the table entry and the revolution. -/
def ringEvt (unit idx : Nat) (rev : W32) (clk : W64) : Evt := ⟨4, unit, BitVec.ofNat 32 idx, rev.setWidth 64, none, clk, 0, 0⟩

/-- The feeder's read is put off by a commit whose point has come (R282). -/
def State.stalled (s : State) (pa : Nat) : Bool :=
  match s.job.commit with | some c => c.fixed && c.targets.any (fun k => k.head? == some pa) | none => false

/-- The header of the first cell of an item (Table 09-1): bytes 0 to 19. -/
def cellHeader (tag version : W32) (kind w sgn segment : Nat) (rev : W32) (position : Nat) : List W8 :=
  leList 4 tag.toNat ++ leList 4 version.toNat ++ [kind, w, sgn, segment].map (BitVec.ofNat 8) ++ leList 4 rev.toNat
    ++ leList 4 position

/-- A tile image as the feeder puts it on the ring: bytes 11 to 19 of its header filled, the rest of that cell zero (R200,
R201). -/
def Ring.onWire (g : Ring) (t : List W8) : List W8 :=
  (cellHeader (tileNum t 0) (tileNum t 4) (tileAt t 8).toNat (tileAt t 9).toNat (tileAt t 10).toNat g.seg g.rev g.cell)
    ++ List.replicate 44 0 ++ t.drop 64

/-- The header of the first cell of an item. -/
def RingItem.header : RingItem → List W8
  | .marker r => cellHeader 0 0 2 0 0 0 r 0
  | .gap r k p _ => cellHeader 0 0 1 0 0 k r p
  | .tile _ _ _ _ t => t.take 20
  | .idle _ => []

/-- The table's next entry has been put on the ring as some cells, or as none. -/
def Ring.step (g : Ring) (cells : Nat) (l : List RingItem) : Ring :=
  { g with pos := g.pos + 1, cell := g.cell + cells, got := [], items := g.items ++ l }

/-- What a feeder has of an image of n bytes after more of its reads: each byte as it had it or as it stands now (R214). -/
def Ring.reads (g : Ring) (s : State) (pa n : Nat) : List W8 :=
  if g.got.isEmpty then s.bytes pa n
  else (List.range n).map (fun i => if Config.freeBit s.drawn i then s.byte (pa + i) else g.got.getD i 0)

/-- A feeder stalls, for a commit, HBM refresh or a correction retry: a free number of idle cells, or none, stands in place of its
cells (R205). -/
def State.feedIdle (s : State) : State :=
  let k := Config.freeNat s.drawn 1
  if k = 0 then s.draw else s.draw.modRing (fun g => { g with cell := g.cell + k, items := g.items ++ [.idle g.seg] })

/-- FEEDER_INSERT: the table's next entry goes on the ring, a tile in as many moves as its reads take. -/
def execFeederInsert (ecc : Bool) (s : State) : Host.Outcome State Fault Refusal :=
  let g := s.job.ring
  if !g.running then .next s
  else match g.table[g.pos]? with
    | none => .next s
    | some (.segment k) => .next (s.modRing (fun g => { g.step 0 [] with seg := k }))
    | some (.gap c) => .next (s.modRing (fun g => g.step c [.gap g.rev g.seg g.cell c]))
    | some (.tile pa w) =>
      if g.got.isEmpty && s.stalled pa then .next s.feedIdle
      else
        let c := tileCells w
        let t := g.reads s pa (64 * c)
        if Config.freeBit s.drawn (64 * c) then .next (s.draw.modRing (fun g => { g with got := t })).feedIdle
        else if ecc || tileAt t 8 != 0 || tileW t != w then
          let u := 0x8000 + 16 * (1 + pa / 2 ^ 37 % 4)
          .next ((s.draw.modRing (fun g => g.step c [.gap g.rev g.seg g.cell c])).raise (ringEvt u g.pos g.rev (s.unitClk u)))
        else .next (s.draw.modRing (fun g => g.step c [.tile g.rev g.seg g.cell g.pos (g.onWire t)]))

/-! ### Tiles passing a die (R206, R208 to R211) -/

/-- Ring taps of a die in use (R210). -/
def State.tapsUsed (s : State) (d : Nat) : Nat :=
  (s.job.rows.map (fun e => if dieOf e.1 == d then
    (e.2.peg.map (fun x => if x.2.side then x.2.fires.length else 0)).sum else 0)).sum

/-- R211: the first granule of a fire's target that another row owns. -/
def fireDenied (s : State) (n : Nat) (t : W64) (len : Nat) : Option W64 :=
  ((List.range ((len + 63) / 64)).map (fun k => t + BitVec.ofNat 64 (64 * k))).find? (fun a => s.denied n a.toNat)

/-- A named entry of an UNPEG that waits is not tested (R217). -/
def Row.pegHeld (r : Row) (i : Nat) : Bool := match r.wait with | some (.pegs m) => m.getLsbD i | _ => false

/-- The target can take the tile (R197, R210). -/
def State.canTake (s : State) (n : Nat) (e : Peg) : Bool :=
  let r := s.row n
  !r.frozen && e.fires.all (fun f => !f.last)
    && (if e.side then s.tapsUsed (dieOf n) < 8 else r.shadow.st == .empty && !r.mat.banked && !r.transfer)

/-- One matching armed entry gets a stale pass, a fire or a miss (R208). A fire that OWNER refuses takes nothing from the
entry's count and is no miss, which R211 does not say (log entry 30). -/
def pegTest (t : List W8) (bad : Bool) (n i : Nat) (s : State) : State :=
  let r := s.row n
  let e := r.pegAt i
  if e.st != .armed || r.pegHeld i || (tileNum t 0 ^^^ e.tag) &&& e.mask != 0 then s
  else if (tileNum t 4).ult e.minver then
    s.setRow n { r with csr := { r.csr with pegstale := r.csr.pegstale + 1 } }
  else if bad || !s.canTake n e then
    s.setRow n { (if !e.side && !bad && r.mat.banked then r.askMat (s.rowClk n) else r) with
      csr := { r.csr with pegmiss := r.csr.pegmiss + 1 } }
  else match (if e.side then fireDenied s n e.target (tileSideLen t) else none) with
    | some a => s.defer n cOwner a
    | none =>
      let left := if e.side then List.range (tileSideLen t / 8) else []
      let r1 := r.setPeg i { e with count := e.count - 1, fires := e.fires ++ [⟨t, left, e.count == 1⟩] }
      s.setRow n (if e.side then r1 else { r1 with shadow := .reserved, mat := r1.mat.use (s.rowClk n) })

/-- The tile passes every row of a die, in ascending rowid and entry index. Rows halted for pre-emption count nothing (R223).
A row that retires keeps its pegs until its operations have completed (R34). -/
def passDie (t : List W8) (bad : Bool) (d : Nat) (s : State) : State :=
  if (s.die d).halted then s
  else (List.range 128).foldl (fun s k =>
    let n := 128 * d + k
    let r := s.row n
    if r.life == .idle || r.peg.isEmpty then s
    else (List.range 16).foldl (fun s i => pegTest t bad n i s) s) s

/-- An item has passed a die; what all four have seen leaves the ring. -/
def State.passed (s : State) (d : Nat) : State :=
  let s1 := s.modDie d (fun x => { x with ringPos := x.ringPos + 1 })
  if d = 3 then s1.modRing (fun g => { g with items := g.items.drop 1, base := g.base + 1 }) else s1

/-- A station of die u of a source, X, M0 to M3 or C0 to C3, finds an uncorrectable error in a tile (R202). -/
def State.ringError (s : State) (u idx : Nat) (rev : W32) : State :=
  let x := 0x8000 + 16 * u + 14
  s.raise (ringEvt x idx rev (s.unitClk x))
/-- Stations that a tile passes before compute die 0, or behind die 3, and that find such an error by a free bit (R20, R206). -/
def State.farStations (s : State) (die idx : Nat) (rev : W32) : State :=
  ((if die = 0 then [1, 2, 3, 4] else if die = 3 then [0] else []).foldl (fun t u =>
    if Config.eccError s.drawn u then t.ringError u idx rev else t) s).draw

/-- TILE_PASS: the next item on the ring passes compute die `die`, behind the die before it (R206); `bad` where the station
finds an uncorrectable error (R202). -/
def execTilePass (die : Nat) (bad : Bool) (s : State) : Host.Outcome State Fault Refusal :=
  let x := s.die die
  let g := s.job.ring
  if die ≠ 0 && (s.die (die - 1)).ringPos ≤ x.ringPos then .next s
  else match g.items[x.ringPos - g.base]? with
    | none => .next s
    | some (.marker r) => .next ((s.modDie die (fun x => { x with ringRev := r, ringSeg := 0, ringMark := x.clk })).passed die)
    | some (.gap _ k _ _) | some (.idle k) =>
      .next ((s.modDie die (fun x => { x with ringSeg := BitVec.ofNat 8 k })).passed die)
    | some (.tile _ k _ idx t) =>
      let s1 := passDie t bad die (s.modDie die (fun x => { x with ringSeg := BitVec.ofNat 8 k }))
      let s2 := if bad then s1.ringError (5 + die) idx x.ringRev else s1
      .next ((s2.farStations die idx x.ringRev).passed die)

/-- The end of a fire (R209). -/
def Row.fireEnd (r : Row) (i : Nat) (e : Peg) (f : Fire) (rest : List Fire) : Row :=
  let e1 := { e with lastver := tileNum f.bytes 4, unc := min 255 (e.unc + 1), fires := rest
                     st := if f.last then .spent else e.st }
  let r1 := r.setPeg i e1
  let r2 := if e.side then r1 else { r1 with shadow := r1.shadowNext (tileLatch f.bytes) }
  if f.last then r2.pegFlag e else r2

/-- Bytes of the fire under way on an entry that reach side memory, and what stood there before (R248). -/
def State.land (s : State) (n i : Nat) : Nat → List W8 → State
  | _, [] => s
  | a, b :: l =>
    State.land ((s.modRow n (fun r => { r with landed := ⟨i, (r.pegAt i).unc, none, a, s.byte a, b⟩ :: r.landed })).setByte a b) n i (a + 1) l

/-- PEG_FIRE_COMPLETE: the next 8 bytes of the oldest fire reach side memory, in an order of the tap's own, or, with none
left, the fire completes. -/
def execPegFireComplete (row i : Nat) (s : State) : Host.Outcome State Fault Refusal :=
  let r := s.row row
  let e := r.pegAt i
  match e.fires with
  | [] => .next s
  | f :: rest =>
    match f.left with
    | [] => .next (s.modRow row (fun r => (r.fireEnd i e f rest).matRest (s.rowClk row)))
    | _ :: _ =>
      let k := f.left.getD (Config.freeNat s.drawn 0 % f.left.length) 0
      let a := e.target.toNat + 8 * k
      let s1 := s.land row i a ((List.range 8).map (fun b => tileSide f.bytes (8 * k + b)))
      .next (s1.draw.modRow row (fun r => r.setPeg i { e with fires := { f with left := f.left.erase k } :: rest }))

/-- The oldest PEGW of a running row on an entry whose limit has passed (R218). -/
def State.pegwLate (s : State) (n i : Nat) : Option Op :=
  if s.live n then (s.row n).ops.find? (fun o => match o.kind with
    | .pegw k l t => k == i && l != 0 && l.toNat ≤ (s.clkOf n - t).toNat
    | _ => false)
  else none

/-- RING_WATCHDOG (R218). -/
def execRingWatchdog (row i : Nat) (s : State) : Host.Outcome State Fault Refusal :=
  match s.pegwLate row i with
  | some ⟨id, _, _, .pegw k l _⟩ =>
    .next ((s.modRow row (fun r => r.setOp id (.pegw k l (s.clkOf row)))).defer row cRingWatchdog (BitVec.ofNat 64 i))
  | _ => .next s

end Sys2Proof.Machine
end

