-- ==== Sys2Proof/Machine/Engines.lean ====
section
/-! DEFINITION. Copy engines: chains, records, faults and the data commands (R275 to R287), descriptors and DESC (R283 to
R286), CTAIL, CSEQ and CWAIT (R288 to R290), BUFFER SET-UP (R292) and the commit point (R282). -/

namespace Sys2Proof.Machine

/-! ### Engines -/

def State.eng (s : State) (d e : Nat) : Engine := tget .reset (s.die d).engines e
def State.setEng (s : State) (d e : Nat) (g : Engine) : State :=
  s.modDie d (fun x => { x with engines := tset .reset x.engines e g })
def State.modEng (s : State) (d e : Nat) (f : Engine → Engine) : State := s.setEng d e (f (s.eng d e))
def State.modCmd (s : State) (d e : Nat) (f : Cmd → Cmd) : State :=
  s.modEng d e (fun g => { g with cmd := g.cmd.map f })

/-- A word of a command's record, and the fields of word 0 (Table 12-1). -/
def Cmd.word (c : Cmd) (i : Nat) : W64 := tget 0 c.w i
def Cmd.kind (c : Cmd) : Nat := ((c.word 0).extractLsb' 0 8).toNat
def Cmd.fo (c : Cmd) : Bool := (c.word 0).getLsbD 13
def Cmd.row (c : Cmd) : Nat := ((c.word 0).extractLsb' 16 9).toNat
/-- The scope that word 0 names. -/
def Cmd.scope (c : Cmd) : Sys2Proof.Scope :=
  match ((c.word 0).extractLsb' 10 3).toNat with | 2 => .die | 4 => .system | _ => .device

/-- Engines idle where head and tail agree (R275). -/
def Engine.idle (g : Engine) : Bool := g.head == g.tail

/-! ### Faults (R278, R290) -/

/-- The value of csr.tval for an engine's fault (R290). -/
def faultTval (d e : Nat) (g : Engine) : W64 := BitVec.ofNat 64 ((g.seq + 1).toNat + 2 ^ 48 * (8 * d + e))

/-- Each outstanding CWAIT on a faulted engine raises COPY_FAULT once. -/
def State.tellRow (s : State) (n d e : Nat) : State :=
  let g := s.eng d e
  (s.row n).ops.foldl (fun s o => match o.kind with
    | .cwait d' e' t false =>
      if d' == d && e' == e && g.fault ≠ 0 && g.seq.ult t then
        (s.modRow n (fun r => r.setOp o.id (.cwait d e t true))).defer n cCopyFault (faultTval d e g)
      else s
    | _ => s) s
def State.tellAll (s : State) (d e : Nat) : State := s.job.rows.foldl (fun s x => s.tellRow x.1 d e) s

/-- The fault of an engine is cleared: a later one is reported anew. -/
def State.untell (s : State) (d e : Nat) : State :=
  s.modJob (fun j => { j with rows := j.rows.map (fun x => (x.1, { x.2 with ops := x.2.ops.map (fun o => match o.kind with
    | .cwait d' e' t _ => if d' == d && e' == e then { o with kind := .cwait d e t false } else o
    | _ => o) })) })

/-- What an engine's command has written of code is written for good, as it completes or faults (R47). -/
def State.codeSettled (s : State) (d e : Nat) : State :=
  match (s.eng d e).cmd with | some c => s.codeDone c | none => s

/-- An engine enters its fault state; a commit that it held is given up. -/
def State.engFault (s : State) (d e cause : Nat) (addr : W64) : State :=
  let s1 := (s.codeSettled d e).modEng d e (fun g => { g with fault := cause, failAddr := addr, failRec := g.head })
  let s2 := s1.modJob (fun j => { j with commit := (match j.commit with
    | some c => if c.die == d && c.eng == e then none else some c
    | none => none) })
  s2.tellAll d e

/-! ### Accesses of an engine (R244, R275, R287) -/

/-- The key of a byte, or the engine fault its address gives; u is the translation unit. -/
def State.engKey (s : State) (d e u : Nat) (a : W64) (use : Use) : Except Nat Nat × State :=
  match s.reach u a use with
  | (.error c, s) => (.error (if c == cXlate then 2 else 3), s)
  | (.ok k, s) => if sideBase ≤ k && s.denied (s.eng d e).byRow k then (.error 4, s) else (.ok k, s)

/-- The keys of n bytes from an address, or the first fault with its address. -/
def State.engKeys (s : State) (d e u : Nat) (use : Use) : Nat → W64 → Except (Nat × W64) (List Nat) × State
  | 0, _ => (.ok [], s)
  | n + 1, a => match s.engKey d e u a use with
    | (.error c, s) => (.error (c, a), s)
    | (.ok k, s) => match s.engKeys d e u use n (a + 1) with
      | (.error x, s) => (.error x, s)
      | (.ok ks, s) => (.ok (k :: ks), s)

/-- n bytes read; an uncorrectable error is fault 5, at a free byte where more than one unit is read. -/
def State.engRead (s : State) (d e u : Nat) (a : W64) (n : Nat) (ecc : Bool) : Except (Nat × W64) (List W8) × State :=
  match s.engKeys d e u .read n a with
  | (.error x, s) => (.error x, s)
  | (.ok ks, s) =>
    if ecc then (.error (5, if n ≤ 8 then a else a + BitVec.ofNat 64 (Config.freeNat s.drawn 1 % n)), s)
    else (.ok (ks.map s.byte), s)

/-- What stood at keys of HBM that the command has not written before, each behind the writes of the commands at work there
(R47). -/
def Cmd.record (s : State) (ks : List Nat) (c : Cmd) : Cmd :=
  { c with undo := ks.foldl (fun u k => if k < sideBase && (tget none u k).isNone then
      tset none u k (some ((s.undoAt k).foldl (fun m x => max m x.1) 0 + 1, s.byte k)) else u) c.undo }

/-- Bytes written at keys by an engine's command. -/
def State.engPut (s : State) (d e : Nat) (ks : List Nat) (bs : List W8) : State :=
  (ks.zip bs).foldl (fun s x => s.setByte x.1 x.2) (s.modCmd d e (Cmd.record s ks))

/-- Bytes written, all or none. -/
def State.engWrite (s : State) (d e u : Nat) (a : W64) (bs : List W8) : Except (Nat × W64) State :=
  match s.engKeys d e u .write bs.length a with
  | (.error x, _) => .error x
  | (.ok ks, s) => .ok (s.engPut d e ks bs)

/-- A piece of a command's work: the new state, or the fault that stops the command. -/
def engDo (s : State) (d e : Nat) (x : Except (Nat × W64) State) : State :=
  match x with
  | .ok s' => s'
  | .error (c, a) => s.engFault d e c a

/-- Bytes of an element (Table 12-5). -/
def fmtBytes (f : Nat) : Nat := if f < 4 then 2 ^ f else if f = 4 then 256 else 32 * (f - 3)

/-- A piece is done; the command's data are all written after piece `total - 1`. -/
def State.piece (s : State) (d e total : Nat) : State :=
  s.modCmd d e (fun c => { c with pos := c.pos + 1, phase := if total ≤ c.pos + 1 then 1 else 0 })

/-! ### Descriptors (R283 to R285) -/

def State.desc (s : State) (h : Nat) : Desc := tget .reset s.job.desc h

def fmtAccess (f : Nat) : Nat := if f < 4 then 2 ^ f else 32
def Desc.E (q : Desc) : Nat := fmtBytes q.fmt
def Desc.sz (q : Desc) (k : Nat) : Nat := tget 0 q.size k
def Desc.st (q : Desc) (k : Nat) : Int := tget 0 q.stride k
def Desc.lo (q : Desc) (k : Nat) : Nat := tget 0 q.padlo k
def Desc.hi (q : Desc) (k : Nat) : Nat := tget 0 q.padhi k
def dims : List Nat := [0, 1, 2, 3, 4]
/-- Elements of the box, and the interior size of a dimension. -/
def Desc.total (q : Desc) : Nat := q.sz 0 * q.sz 1 * q.sz 2 * q.sz 3 * q.sz 4
def Desc.inner (q : Desc) (k : Nat) : Nat := q.sz k - q.lo k - q.hi k

/-- Indices of element k of the box in element order. -/
def Desc.idx (q : Desc) (k : Nat) : List Nat :=
  [k % q.sz 0, k / q.sz 0 % q.sz 1, k / (q.sz 0 * q.sz 1) % q.sz 2, k / (q.sz 0 * q.sz 1 * q.sz 2) % q.sz 3,
   k / (q.sz 0 * q.sz 1 * q.sz 2 * q.sz 3)]

/-- The address of byte o of an element (R284): each byte's address is rotated for itself, as in R178. -/
def Desc.byteAddr (q : Desc) (i : List Nat) (o : Nat) : W64 :=
  let x := BitVec.ofInt 64 ((q.base.toNat : Int) + (dims.map (fun k => (i.getD k 0 : Int) * q.st k)).sum + o)
  if q.rc = 0 then x
  else x.extractLsb' 10 54 ++ BitVec.ofNat 4 ((x.extractLsb' 6 4).toNat + q.rc * (i.getD 1 0 % 16)) ++ x.extractLsb' 0 6

def Desc.isInner (q : Desc) (i : List Nat) : Bool := dims.all (fun k => q.lo k ≤ i.getD k 0 && i.getD k 0 < q.sz k - q.hi k)

/-- Bytes of one piece of an element, pieces of an element, and of a box. -/
def Desc.piece (q : Desc) : Nat := min q.E 8
def Desc.pieces (q : Desc) : Nat := q.E / q.piece
def Desc.work (q : Desc) : Nat := q.total * q.pieces

/-- Where piece k of a box stands: its element and its first byte, and its address. -/
def Desc.at_ (q : Desc) (k : Nat) : List Nat × Nat := (q.idx (k / q.pieces), q.piece * (k % q.pieces))
def Desc.pieceAddr (q : Desc) (k : Nat) : W64 := q.byteAddr (q.at_ k).1 (q.at_ k).2
/-- The last interior element in element order. -/
def Desc.lastInner (q : Desc) : Nat :=
  let z (k : Nat) : Nat := q.sz k - q.hi k - 1
  z 0 + q.sz 0 * (z 1 + q.sz 1 * (z 2 + q.sz 2 * (z 3 + q.sz 3 * z 4)))

/-- Bytes o to o + n - 1 of a fill or pad value (R279, R285). -/
def fillBytes (fmt : Nat) (x : W64) (o n : Nat) : List W8 :=
  (List.range n).map (fun i => if fmt < 4 then x.extractLsb' (8 * (o + i)) 8 else x.setWidth 8)

/-- The lowest and the highest byte of a box as its span (R286). -/
def Desc.span (q : Desc) : Int × Int :=
  let ext (f : Int → Bool) : Int := (dims.map (fun k => if f (q.st k) then ((q.sz k : Int) - 1) * q.st k else 0)).sum
  let l := (q.base.toNat : Int) + ext (fun t => t < 0)
  let h := (q.base.toNat : Int) + ext (fun t => 0 < t) + q.E - 1
  if q.rc = 0 then (l, h) else (l / 1024 * 1024, h / 1024 * 1024 + 1023)
def spansMeet (a b : Int × Int) : Bool := a.1 ≤ b.2 && b.1 ≤ a.2

/-! ### DESC (R286) -/

/-- The descriptor that a draft's bytes and a control register give. -/
def draftOf (b : List W8) (x : W64) : Desc :=
  let num (o n : Nat) : Nat := leVal ((b.drop o).take n)
  let tab (o n : Nat) : Tbl Nat := tabulate 0 5 (fun k => num (o + n * k) n)
  { base := BitVec.ofNat 64 (num 0 8), fmt := num 8 1, rc := num 9 1, size := tab 12 4
    stride := tabulate 0 5 (fun k => (BitVec.ofNat 64 (num (32 + 8 * k) 8)).toInt), padlo := tab 72 2, padhi := tab 82 2
    pad := BitVec.ofNat 32 (num 92 4), isDst := x.getLsbD 10
    bound := if x.getLsbD 11 then some (x.extractLsb' 16 10).toNat else none, valid := true }

/-- Step 3: the failing field with the lowest byte offset. -/
def draftBad (b : List W8) (q : Desc) : Option Nat :=
  if q.base.extractLsb' 56 8 != 0 then some 0
  else if 10 < q.fmt then some 8
  else if 16 ≤ q.rc || (q.rc ≠ 0 && !q.base.getLsbD 55) then some 9
  else if (b.drop 10).take 2 != [0, 0] then some 10
  else match dims.find? (fun k => q.sz k = 0 || 2 ^ 24 < q.sz k) with
    | some k => some (12 + 4 * k)
    | none => match dims.find? (fun k => (!q.isDst && q.lo k ≠ 0) || q.sz k ≤ q.lo k + q.hi k) with
      | some k => some (72 + 2 * k)
      | none => match dims.find? (fun k => !q.isDst && q.hi k ≠ 0) with
        | some k => some (82 + 2 * k)
        | none => if (b.drop 96).all (· == 0) then none else some 96

/-- Step 4: a base or stride that breaks the access width. -/
def Desc.misaligned (q : Desc) : Option W64 :=
  let w := fmtAccess q.fmt
  if q.base.toNat % w ≠ 0 then some q.base
  else (dims.find? (fun k => 1 < q.sz k && q.st k % (w : Int) != 0)).map (fun k => BitVec.ofInt 64 (q.st k))

/-- Step 5: none where the span lies in one range; the lowest address outside it, and whether the range forbids the use. -/
def State.inAlloc (s : State) (lo hi : Int) (write : Bool) : Option (Int × Bool) :=
  match s.job.alloc.find? (fun r => (r.base : Int) ≤ lo && lo < r.base + r.len) with
  | none => some (lo, false)
  | some r => if (r.base : Int) + r.len ≤ hi then some (r.base + r.len, false) else if write && !r.write then some (lo, true) else none

/-- Step 6: the strides of a destination keep its elements apart. -/
def Desc.apart (q : Desc) : Bool :=
  ((sortKey (fun k => (q.st k).natAbs) (dims.filter (fun k => 1 < q.sz k))).foldl (fun (acc : Bool × Nat) k =>
    (acc.1 && q.E + acc.2 ≤ (q.st k).natAbs, acc.2 + (q.sz k - 1) * (q.st k).natAbs)) (true, 0)).1

/-- Steps 4 to 7: the trap, if any. -/
def State.descFault (s : State) (q : Desc) : Option (W8 × W64) :=
  match q.misaligned with
  | some v => some (cMisalign, v)
  | none => match s.inAlloc q.span.1 q.span.2 q.isDst with
    | some (a, false) => some (cBounds, BitVec.ofInt 64 a)
    | some (_, true) => some (cProt, BitVec.ofNat 64 (Config.freeNat s.drawn 0))
    | none =>
      if q.isDst && !q.apart then some (cCopyFault, 0x100)
      else match q.bound with
        | none => none
        | some h =>
          let p := s.desc h
          if !p.valid || p.isDst then some (cCopyFault, 0x102)
          else if spansMeet q.span p.span then some (cCopyFault, 0x101) else none

def execDesc (g : Guard) (a b : SReg) (s : State) : Host.Outcome State Fault Refusal :=
  issueQ { nest := true, access := true } g (fun s n v =>
    let x := v.sreg a.toNat
    let y := v.sreg b.toNat
    if x &&& 127 != 0 then .trap cMisalign x s
    else match s.firstFault n 1 ((List.range 128).map (fun i => x + BitVec.ofNat 64 i)) with
      | some (c, t) => .trap c t s
      | none =>
        if y.extractLsb' 26 38 != 0 || y.extractLsb' 12 4 != 0 || (y.getLsbD 11 && !y.getLsbD 10) then .trap cCopyFault 0x103 s
        else if (s.row n).ops.any (fun o => (s.row n).opMeets o x.toNat 128) then .wait .memory s
        else
          let s1 := (s.fillFor (dieOf n) x.toNat 64).fillFor (dieOf n) (x.toNat + 64) 64
          let bs := s1.ownBytes n (s.row n).nextId x.toNat 128
          let q := draftOf bs y
          match draftBad bs q with
          | some o => .trap cCopyFault (BitVec.ofNat 64 o) s
          | none => match s.descFault q with
            | some (c, t) => .trap c t s.draw
            | none => .done (s1.modJob (fun j => { j with desc := tset .reset j.desc (y.extractLsb' 0 10).toNat q }))) s

/-! ### CTAIL, CSEQ, CWAIT (R288 to R290) -/

/-- CTAIL's release, then its form. -/
def ctail (g : Guard) (f : State → Nat → Row → Res) : State → Host.Outcome State Fault Refusal :=
  issueQ { nest := true, access := true } g (fun s n v =>
    if !(s.row n).drained then .wait .memory s else f (s.releaseAt (dieOf n) .device) n v)

/-- A row has set an engine's tail: it is the row that the engine acts for, and its placement waits for the commands up to that
tail. -/
def Engine.issued (x : Engine) (n : Nat) (r : Row) (tail : W64) : Engine :=
  { x with
    byRow := n, tail := tail
    issuers := if x.head == tail then [] else (if x.idle then [] else x.issuers) ++ r.pl.toList.map (fun k => (k, tail)) }

/-- An engine's head moves on: the commands up to the tails it has reached are done. -/
def Engine.goTo (x : Engine) (h : W64) : Engine :=
  { x with head := h, issuers := if h == x.tail then [] else x.issuers.dropWhile (fun y => y.2 == h) }

def execCtail (g : Guard) (a : SReg) (die : BitVec 2) (eng : BitVec 3) (s : State) : Host.Outcome State Fault Refusal :=
  ctail g (fun s n v =>
    .done (s.modEng die.toNat eng.toNat (fun x => x.issued n (s.row n) (v.sreg a.toNat)))) s

def execCtailRetry (g : Guard) (die : BitVec 2) (eng : BitVec 3) (s : State) : Host.Outcome State Fault Refusal :=
  ctail g (fun s _ _ =>
    let d := die.toNat
    let e := eng.toNat
    if (s.eng d e).fault = 0 then .done s
    else .done ((s.modEng d e (fun x => { x with fault := 0, failAddr := 0, failRec := 0, cmd := none })).untell d e)) s

/-- The next field of the record that an engine stands at: as the command read it, or, where the record's own read failed, as
it stands there; free where no record can stand at that address (R288; log entry 53). -/
def State.nextField (s : State) (x : Engine) : W64 :=
  match x.cmd with
  | some c => c.word 1
  | none => if (sideFault x.head).isNone then s.w64 (x.head.toNat + 8) else BitVec.ofNat 64 (Config.freeNat s.drawn 0)

def execCtailSkip (g : Guard) (die : BitVec 2) (eng : BitVec 3) (s : State) : Host.Outcome State Fault Refusal :=
  ctail g (fun s _ _ =>
    let d := die.toNat
    let e := eng.toNat
    if (s.eng d e).fault = 0 then .done s
    else .done ((s.draw.modEng d e (fun x => { x.goTo (s.nextField x) with
      fault := 0, failAddr := 0, failRec := 0, cmd := none, seq := x.seq + 1 })).untell d e)) s

def execCtailStart (g : Guard) (a b : SReg) (die : BitVec 2) (eng : BitVec 3) (s : State) :
    Host.Outcome State Fault Refusal :=
  ctail g (fun s n v =>
    let x := s.eng die.toNat eng.toNat
    if x.idle && x.fault = 0 then
      let h := v.sreg b.toNat
      .done (s.setEng die.toNat eng.toNat ({ x with head := h, tail := h }.issued n (s.row n) (v.sreg a.toNat)))
    else .trap cCopyFault 0x200 s) s

/-- R289. -/
def cseqVal (g : Engine) : Form3 → W64
  | .f0 => BitVec.ofNat 64 (g.seq.toNat + 2 ^ 48 * g.idle.toNat + 2 ^ 49 * (decide (g.fault ≠ 0)).toNat + 2 ^ 52 * g.fault)
  | .f1 => g.failAddr
  | .f2 => g.failRec

def execCseq (g : Guard) (d : SReg) (f : Form3) (die : BitVec 2) (eng : BitVec 3) (s : State) :
    Host.Outcome State Fault Refusal :=
  issueQ { nest := true, hold := fun r => r.pendS d.toNat } g (fun s n _ =>
    .done (s.modRow n (fun r => r.setS d.toNat (cseqVal (s.eng die.toNat eng.toNat) f)))) s

def execCwait (g : Guard) (b : SReg) (die : BitVec 2) (eng : BitVec 3) (fs : Bool) (s : State) :
    Host.Outcome State Fault Refusal :=
  issueQ { nest := true } g (fun s n v =>
    if 16 ≤ (s.row n).waitOps then .wait .opLimit s
    else .done ((s.modRow n (fun r => r.addOp (v.flagSel fs)
      (.cwait die.toNat eng.toNat ((v.sreg b.toNat).setWidth 48) false))).tellRow n die.toNat eng.toNat)) s

/-! ### Starting a command (R277, R278, R281) -/

/-- Bits that words 2 to 11 may use (Tables 12-2 and 16-1); none for a reserved kind. -/
def kindMask (k : Nat) : Option (List W64) :=
  let all : W64 := 0xFFFFFFFFFFFFFFFF
  let src : W64 := 0x3FF
  let dst : W64 := 0x3FF0000
  let comm : W64 := 0x3F
  let tag : W64 := 0xFFFFFFFF
  match k with
  | 0x00 => some []
  | 0x01 => some [all, all, all]
  | 0x02 => some [src ||| dst]
  | 0x03 => some [src ||| dst, all]
  | 0x04 => some [src ||| dst, 0x7FFF]
  | 0x05 => some [dst, all]
  | 0x06 => some [all, all, all, all, all, all, all, all, tag]
  | 0x07 => some [src, 0x13F]
  | 0x08 => some [dst, 0x3F]
  | 0x09 => some [all, 0x1FF0001FFFF, 0x3F]
  | 0x10 => some [all, 0, tag, comm ||| 0x1FFFF0000, 0x1FFFFFFFF]
  | 0x11 => some [0, all, tag, comm ||| 0x1FFFF0000, 0x1FFFFFFFF]
  | 0x12 => some [all, all, tag, comm, tag, 7]
  | 0x13 => some [all, all, tag, comm, tag, 0x7FF]
  | 0x14 => some [all, all, tag, comm, tag, 0, all, all, all]
  | _ => none

/-- The record's own check: fault 1. -/
def recordBad (w : Nat → W64) : Bool :=
  let w0 := w 0
  let fl := w0.extractLsb' 8 2
  let sc := (w0.extractLsb' 10 3).toNat
  let next := w 1
  w0.extractLsb' 14 2 != 0 || w0.extractLsb' 25 39 != 0
    || (if fl == 0 then sc ≠ 0 else !(sc == 2 || sc == 3 || sc == 4))
    || (!w0.getLsbD 13 && w0.extractLsb' 16 9 != 0)
    || next.extractLsb' 0 7 != 0 || (sideFault next).isSome
    || (match kindMask (w0.extractLsb' 0 8).toNat with
        | none => true
        | some m => (List.range 10).any (fun i => w (2 + i) &&& ~~~(m.getD i 0) != 0))

/-- R281: the follow-on word is refused. -/
def followBad (d : Nat) (w : Nat → W64) : Bool :=
  let k := ((w 0).extractLsb' 0 8).toNat
  (w 0).getLsbD 13 && (k == 6 || k == 9 || 0x10 ≤ k || ((w 0).extractLsb' 16 9).toNat / 128 != d
    || (match decode (w 12) with | .ok (.mmac _ f) => !(f.pair && f.dk == 0 && (f.nk == 0 || f.nk == 2)) | _ => true))

/-- The kinds that name a source or a destination descriptor. -/
def usesSrc (k : Nat) : Bool := k == 2 || k == 3 || k == 4 || k == 7
def usesDst (k : Nat) : Bool := k == 2 || k == 3 || k == 4 || k == 5 || k == 8
def srcHandle (w : Nat → W64) : Nat := ((w 2).extractLsb' 0 10).toNat
def dstHandle (w : Nat → W64) : Nat := ((w 2).extractLsb' 16 10).toNat

/-- Field d of TRANSPOSE's perm. -/
def permOf (w : W64) (k : Nat) : Nat := (w.extractLsb' (3 * k) 3).toNat

/-- Fault 6: descriptors, shapes, formats and binding. -/
def descBad (k : Nat) (w : Nat → W64) (p q : Desc) : Bool :=
  (usesSrc k && (!p.valid || p.isDst)) || (usesDst k && (!q.valid || !q.isDst))
    || ((k == 2 || k == 3 || k == 4) && (q.bound != some (srcHandle w) || p.fmt != q.fmt))
    || (k == 2 && dims.any (fun i => q.inner i != p.sz i))
    || (k == 3 && [0, 1, 2, 3].any (fun i => q.inner i != p.sz i))
    || (k == 4 && (4 ≤ p.fmt || !(dims.all (fun i => dims.any (fun j => permOf (w 3) j == i)))
        || dims.any (fun i => q.inner i != p.sz (permOf (w 3) i))))

/-- An engine that is to be set up: no slot held or taken, no side bound (R292). -/
def State.bufBusy (s : State) (d b : Nat) : Bool :=
  let c := s.buf d b
  (List.range c.n).any (fun i => c.slot i == .held || c.slot i == .taken) || s.bufBound d b true || s.bufBound d b false

/-- The bytes of a buffer's slots as a span. -/
def CBuf.span (c : CBuf) : Int × Int := (c.base.toNat, c.base.toNat + c.n * c.size - 1)

/-- R295 as an engine meets it: fault 10. -/
def State.bufBad (s : State) (d b : Nat) (producer : Bool) : Bool :=
  let c := s.buf d b
  !c.setUp || s.bufBound d b producer || (producer && c.ended)

/-- The checks of a data command before its first read (R278): the fault. -/
def startFault (s : State) (d : Nat) (w : Nat → W64) (p q : Desc) : Option Nat :=
  let k := ((w 0).extractLsb' 0 8).toNat
  if recordBad w then some 1
  else if k = 1 && (w 4 == 0 || (2 ^ 32 : W64).ult (w 4)) then some 1
  else if k = 3 && w 3 &&& 3 != 0 then some 1
  else if k = 9 && (let S := ((w 3).extractLsb' 0 17).toNat
                    let N := ((w 3).extractLsb' 32 9).toNat
                    S % 128 ≠ 0 || S < 128 || 65536 < S || N < 2 || 256 < N || w 2 &&& 127 != 0
                      || (sideFault (w 2)).isSome || sideDie (w 2).toNat != d
                      || (w 2).toNat % 2 ^ 29 + S * N > 2 ^ 29) then some 1
  else if descBad k w p q then some 6
  else if k = 7 && s.bufBad d ((w 3).extractLsb' 0 6).toNat true then some 10
  else if k = 8 && s.bufBad d ((w 3).extractLsb' 0 6).toNat false then some 10
  else if k = 8 && spansMeet q.span (s.buf d ((w 3).extractLsb' 0 6).toNat).span then some 11
  else if k = 9 && s.bufBusy d ((w 4).extractLsb' 0 6).toNat then some 10
  else if followBad d w then some 8
  else if k = 1 && (w 2).toNat < (w 3).toNat + (w 4).toNat && (w 3).toNat < (w 2).toNat + (w 4).toNat then some 11
  else none

/-- ENGINE_COMMAND_START: the record at the head is read and checked, and the acquires are made (R277, R278, R287). -/
def execEngineCommandStart (die eng : Nat) (ecc : Bool) (s : State) : Host.Outcome State Fault Refusal :=
  let g := s.eng die eng
  if g.idle || g.fault ≠ 0 || g.cmd.isSome || (s.die die).halted then .next s
  else if g.head.extractLsb' 0 7 != 0 || (sideFault g.head).isSome then
    .next (s.engFault die eng (if (sideFault g.head) == some cBounds then 3 else 1) g.head)
  else
    let s0 := s.acquireAt die .device
    match s0.engRead die eng die g.head 128 ecc with
    | (.error (c, a), s1) => .next (s1.engFault die eng c a)
    | (.ok bs, s1) =>
      let w (i : Nat) : W64 := BitVec.ofNat 64 (leVal ((bs.drop (8 * i)).take 8))
      let k := ((w 0).extractLsb' 0 8).toNat
      let p := s.desc (srcHandle w)
      let q := s.desc (dstHandle w)
      let c : Cmd := ⟨tabulate 0 16 w, if usesSrc k then some p else none, if usesDst k then some q else none, 0, 0, none, 0, false, [], [], 0, [], []⟩
      let s2 := s1.setEng die eng { s1.eng die eng with cmd := some c }
      match startFault s die w p q with
      | some f => .next (s2.engFault die eng f 0)
      | none => .next (if (w 0).getLsbD 8 then s2.acquireAt die c.scope else s2)

/-- ENGINE_COMMAND_COMPLETE: the release, the sequence number and the next head (R276, R287). -/
def execEngineCommandComplete (die eng : Nat) (s : State) : Host.Outcome State Fault Refusal :=
  let g := s.eng die eng
  match g.cmd with
  | some c =>
    if g.fault = 0 && !(s.die die).halted && (if c.fo then c.phase = 2 && c.fodone else c.phase = 1) then
      .next (((s.codeSettled die eng).releaseAt die (if (c.word 0).getLsbD 9 then c.scope else .device)).setEng die eng
        { g.goTo (c.word 1) with cmd := none, seq := g.seq + 1 })
    else .next s
  | none => .next s

/-! ### An engine at work -/

/-- A command's descriptors. -/
def Cmd.from_ (c : Cmd) : Desc := c.src.getD .reset
def Cmd.into (c : Cmd) : Desc := c.dst.getD .reset

/-- R296, R370: an engine that PREEMPT finds between two 4 KiB boundaries of its destination traversal, or inside a block of
a link command, goes on to the boundary, as far as its buffer lets it; a commit past its point goes on to its end. -/
def State.midBlock (s : State) (d : Nat) (c : Cmd) : Bool :=
  let cb := s.buf d ((c.word 3).extractLsb' 0 6).toNat
  !c.buf.isEmpty || (match c.kind with
    | 1 => c.pos ≠ 0 && (c.word 3 + BitVec.ofNat 64 c.pos) &&& 0xFFF != 0
    | 2 | 3 | 4 | 5 => c.pos * c.into.piece % 4096 ≠ 0
    | 6 => c.pos ≠ 0
    | 7 => c.pos * c.from_.piece % 4096 ≠ 0 && (c.slot.isSome || cb.slot cb.p == .free)
    | 8 => c.pos % 4096 ≠ 0
        && (c.slot.isSome || cb.slot cb.c == .filled || cb.atEnd || c.into.lastInner < c.pos / c.into.E)
    | _ => false)

/-- An event of an engine at work on a kind of command. -/
def engStep (kind d e : Nat) (f : State → Engine → Cmd → State) (s : State) : Host.Outcome State Fault Refusal :=
  let g := s.eng d e
  match g.cmd with
  | some c =>
    if g.fault = 0 && (!(s.die d).halted || s.midBlock d c) && c.phase = 0 && c.kind = kind then .next (f s.draw g c) else .next s
  | none => .next s

/-- R249, R287: pieces whose destinations lie in one aligned 8-byte unit, as `at_` gives them, are written together, at most
`k` of them; an engine that PREEMPT has reached stops between two of them at its boundary (R296). -/
def unitStep (d e : Nat) (at_ : Cmd → W64) (f : State → Cmd → State) : Nat → State → State
  | 0, s => s
  | k + 1, s =>
    match (s.eng d e).cmd with
    | none => s
    | some c =>
      let s1 := f s c
      match (s1.eng d e).cmd with
      | none => s1
      | some c1 =>
        if (s1.eng d e).fault = 0 && c1.phase = 0 && c1.pos != c.pos && (at_ c1) >>> 3 == (at_ c) >>> 3
            && (!(s1.die d).halted || s1.midBlock d c1)
        then unitStep d e at_ f k s1 else s1

/-! ### Data commands (R279) -/

def execNopCommand (die eng : Nat) (s : State) : Host.Outcome State Fault Refusal :=
  engStep 0 die eng (fun s _ _ => s.piece die eng 0) s

/-- The first n bytes that both addresses let an engine move, or all before the first fault and that fault (R278). -/
def State.copyKeys (s : State) (d e : Nat) : Nat → W64 → W64 → List (Nat × Nat) × Option (Nat × W64) × State
  | 0, _, _ => ([], none, s)
  | n + 1, a, b => match s.engKey d e d a .read with
    | (.error c, s) => ([], some (c, a), s)
    | (.ok x, s) => match s.engKey d e d b .write with
      | (.error c, s) => ([], some (c, b), s)
      | (.ok y, s) => match s.copyKeys d e n (a + 1) (b + 1) with
        | (l, f, s) => ((x, y) :: l, f, s)

/-- Whether a step that meets an uncorrectable error meets it at the read that a number names (R278). -/
def State.badRead (s : State) (ecc : Bool) (k : Nat) : Bool := ecc && Config.eccError s.drawn k

/-- COPY: the bytes up to the destination's next 8-byte boundary (R249), or those before a fault. -/
def execCopy (die eng : Nat) (ecc : Bool) (s : State) : Host.Outcome State Fault Refusal :=
  engStep 1 die eng (fun s _ c =>
    let a := c.word 2 + BitVec.ofNat 64 c.pos
    let b := c.word 3 + BitVec.ofNat 64 c.pos
    let len := (c.word 4).toNat
    let n := min (8 - b.toNat % 8) (len - c.pos)
    match s.copyKeys die eng n a b with
    | (l0, f0, s1) =>
      let bad := (List.range l0.length).find? (fun i => s1.badRead ecc (c.pos + i))
      let l := match bad with | some i => l0.take i | none => l0
      let f := match bad with | some i => some (5, a + BitVec.ofNat 64 i) | none => f0
      let s2 := s1.engPut die eng (l.map Prod.snd) (l.map (fun x => s1.byte x.1))
      match f with
        | some (x, y) => s2.engFault die eng x y
        | none => s2.modCmd die eng (fun c => { c with pos := c.pos + n, phase := if len ≤ c.pos + n then 1 else 0 })) s

/-- One piece of an element of the destination box: padding, or the source element that `src` names. -/
def moveElem (die eng : Nat) (ecc : Bool) (s : State) (c : Cmd) (p q : Desc) (src : List Nat → List Nat) : State :=
  let (i, o) := q.at_ c.pos
  let a := q.pieceAddr c.pos
  if q.isInner i then
    match s.engRead die eng die (p.byteAddr (src i) o) q.piece (s.badRead ecc (2 * c.pos)) with
    | (.error (f, x), s1) => s1.engFault die eng f x
    | (.ok bs, s1) => engDo s1 die eng ((s1.engWrite die eng die a bs).map (fun s2 => s2.piece die eng q.work))
  else engDo s die eng ((s.engWrite die eng die a (fillBytes q.fmt (q.pad.setWidth 64) o q.piece)).map
    (fun s2 => s2.piece die eng q.work))

/-- A command over a destination box, one aligned unit of it. -/
def boxStep (kind die eng : Nat) (f : State → Cmd → State) : State → Host.Outcome State Fault Refusal :=
  engStep kind die eng (fun s _ _ => unitStep die eng (fun c => c.into.pieceAddr c.pos) f 8 s)

def execTile (die eng : Nat) (ecc : Bool) (s : State) : Host.Outcome State Fault Refusal :=
  boxStep 2 die eng (fun s c =>
    moveElem die eng ecc s c c.from_ c.into (fun i => dims.map (fun k => i.getD k 0 - c.into.lo k))) s

/-- GATHER: the index of a slice is read as its first element is reached. -/
def execGather (die eng : Nat) (ecc : Bool) (s : State) : Host.Outcome State Fault Refusal :=
  boxStep 3 die eng (fun s c =>
    let q := c.into
    let (i, o) := q.at_ c.pos
    let src (j : Nat) (i : List Nat) : List Nat := dims.map (fun k => if k = 4 then j else i.getD k 0 - q.lo k)
    if q.isInner i && o = 0 && [0, 1, 2, 3].all (fun k => i.getD k 0 == q.lo k) then
      let a := c.word 3 + BitVec.ofNat 64 (4 * (i.getD 4 0 - q.lo 4))
      match s.engRead die eng die a 4 (s.badRead ecc (2 * c.pos + 1)) with
      | (.error (f, x), s1) => s1.engFault die eng f x
      | (.ok bs, s1) =>
        let j := leVal bs
        if c.from_.sz 4 ≤ j then s1.engFault die eng 7 a
        else moveElem die eng ecc (s1.modCmd die eng (fun c => { c with fill := j })) c c.from_ q (src j)
    else moveElem die eng ecc s c c.from_ q (src c.fill)) s

/-- TRANSPOSE: dimension perm[d] of the source runs with dimension d of the destination. -/
def execTranspose (die eng : Nat) (ecc : Bool) (s : State) : Host.Outcome State Fault Refusal :=
  boxStep 4 die eng (fun s c =>
    moveElem die eng ecc s c c.from_ c.into (fun i => dims.map (fun k =>
      (dims.map (fun d => if permOf (c.word 3) d = k then i.getD d 0 - c.into.lo d else 0)).sum))) s

def execFill (die eng : Nat) (s : State) : Host.Outcome State Fault Refusal :=
  boxStep 5 die eng (fun s c =>
    let q := c.into
    engDo s die eng ((s.engWrite die eng die (q.pieceAddr c.pos)
      (fillBytes q.fmt (c.word 3) (q.at_ c.pos).2 q.piece)).map (fun s2 => s2.piece die eng q.work))) s

/-! ### Paired commit (R282) -/

/-- Bytes of a tile image whose header gives width w. -/
def imageBytes (w : Nat) : Nat := 64 * tileCells w

/-- A tile header that an image may have: its kind and w. -/
def headerOk (h : List W8) : Bool := tileAt h 8 == 0 && 2 ≤ tileW h && tileW h ≤ 8

/-- Phase 1, first: source image k as its header gives its length; of one whose header gives none, the header. -/
def commitRead (s : State) (d e : Nat) (c : Cmd) (k : Nat) (ecc : Bool) : Except (Nat × W64) (List W8) × State :=
  let a := c.word (6 + k)
  match s.engRead d e d a 11 (s.badRead ecc (2 * k)) with
  | (.error x, s) => (.error x, s)
  | (.ok h, s) => if headerOk h then s.engRead d e d a (imageBytes (tileW h)) (s.badRead ecc (2 * k + 1)) else (.ok h, s)

/-- Phase 1, then: the headers of the targets beside those of the sources, in order. -/
def commitCheck (d e : Nat) (c : Cmd) (ecc : Bool) : Nat → List (List W8) → State → Except (Nat × W64) Unit × State
  | _, [], s => (.ok (), s)
  | k, h :: rest, s =>
    match s.engRead d e d (c.word (2 + k)) 11 (s.badRead ecc k) with
    | (.error x, s) => (.error x, s)
    | (.ok t, s) =>
      if headerOk h && tileAt t 8 == 0 && tileW h == tileW t then commitCheck d e c ecc (k + 1) rest s
      else (.error (9, c.word (6 + k)), s)

/-- Phase 1, last: the keys of the targets' bytes, in order. -/
def commitKeys (d e : Nat) (c : Cmd) : Nat → List (List W8) → State → Except (Nat × W64) (List (List Nat)) × State
  | _, [], s => (.ok [], s)
  | k, h :: rest, s =>
    match s.engKeys d e d .write (imageBytes (tileW h)) (c.word (2 + k)) with
    | (.error x, s) => (.error x, s)
    | (.ok ks, s) => match commitKeys d e c (k + 1) rest s with
      | (.error x, s) => (.error x, s)
      | (.ok l, s) => (.ok (ks :: l), s)

/-- The bytes that a commit writes (R282): each image at its target, with the command's version in its header. -/
def Commit.writes (b : Commit) (version : Nat) : List (Nat × W8) :=
  (b.targets.zip b.images).flatMap (fun x => x.1.zip (x.2.take 4 ++ leList 4 version ++ x.2.drop 8))

/-- PAIRED_COMMIT: an image is read into the commit buffer; with all four there, their headers are checked and their targets
translated; and after the point 8 bytes of the images are written. -/
def execPairedCommit (die eng : Nat) (ecc : Bool) (s : State) : Host.Outcome State Fault Refusal :=
  engStep 6 die eng (fun s _ c =>
    match s.job.commit with
    | none => s.modJob (fun j => { j with commit := some ⟨die, eng, [], [], false⟩ })
    | some b =>
      if !(b.die == die && b.eng == eng) then s
      else if b.images.length < 4 then
        match commitRead s die eng c b.images.length ecc with
        | (.error (f, x), s1) => s1.engFault die eng f x
        | (.ok bs, s1) => s1.modJob (fun j => { j with commit := some { b with images := b.images ++ [bs] } })
      else if b.targets.isEmpty then
        match commitCheck die eng c ecc 0 b.images s with
        | (.error (f, x), s1) => s1.engFault die eng f x
        | (.ok (), s1) => match commitKeys die eng c 0 b.images s1 with
          | (.error (f, x), s2) => s2.engFault die eng f x
          | (.ok ks, s2) => s2.modJob (fun j => { j with commit := some { b with targets := ks } })
      else if !b.fixed then s
      else
        let l := b.writes (c.word 10).toNat
        let now := (l.drop (8 * c.pos)).take 8
        let s1 := (s.engPut die eng (now.map Prod.fst) (now.map Prod.snd)).piece die eng (l.length / 8)
        if l.length / 8 ≤ c.pos + 1 then s1.modJob (fun j => { j with commit := none }) else s1) s

/-- COMMIT_POINT: between two tile reads, the sequencer fixes the point of a commit whose phase 1 is over. -/
def execCommitPoint (s : State) : Host.Outcome State Fault Refusal :=
  if !s.job.ring.got.isEmpty then .next s
  else .next (s.modJob (fun j => { j with commit := j.commit.map (fun b => if b.targets.length = 4 then { b with fixed := true } else b) }))

/-! ### Circular-buffer commands (R280, R292) -/

/-- A slot that an engine is to publish or release is in the state that this takes, in a buffer still set up whose side no
edge has (R295). -/
def State.slotIs (s : State) (d b i : Nat) (producer : Bool) : Bool :=
  !s.bufBad d b producer && (s.buf d b).slot i == (if producer then .held else .taken)

/-- EDGE FEED: the next pieces of the box go into the slot; a full slot, or the last, is published. -/
def execEdgeFeed (die eng : Nat) (ecc : Bool) (s : State) : Host.Outcome State Fault Refusal :=
  let feed (s : State) (c : Cmd) : State :=
    let p := c.from_
    let b := ((c.word 3).extractLsb' 0 6).toNat
    let cb := s.buf die b
    match c.slot with
    | none =>
      if s.bufBad die b true then s.engFault die eng 10 0
      else match cb.prodTake with
        | none => s
        | some (cb', i) =>
          ((s.setBuf die b cb').acquireAt die .device).modCmd die eng (fun c => { c with slot := some i, fill := 0 })
    | some i =>
      match s.engRead die eng die (p.pieceAddr c.pos) p.piece (s.badRead ecc c.pos) with
      | (.error (f, x), s1) => s1.engFault die eng f x
      | (.ok bs, s1) =>
        engDo s1 die eng ((s1.engWrite die eng die (cb.addr i + BitVec.ofNat 64 c.fill) bs).map (fun s2 =>
          let fill := c.fill + p.piece
          let last := p.work ≤ c.pos + 1
          if last || fill == cb.size then
            if !s2.slotIs die b i true then s2.engFault die eng 10 0
            else (((s2.releaseAt die .device).setBuf die b (cb.publish i fill (last && (c.word 3).getLsbD 8))).modCmd die eng
              (fun c => { c with slot := none, fill := 0 })).piece die eng p.work
          else (s2.modCmd die eng (fun c => { c with fill := fill })).piece die eng p.work))
  engStep 7 die eng (fun s _ _ => unitStep die eng (fun c => BitVec.ofNat 64 (c.fill + 8 * c.slot.isNone.toNat)) feed 8 s) s

/-- An EDGE DRAIN gives its slot back. -/
def drainFree (s : State) (die eng b : Nat) (c : Cmd) : State :=
  match c.slot with
  | some i =>
    if !s.slotIs die b i false then s.engFault die eng 10 0
    else ((s.releaseAt die .device).setBuf die b ((s.buf die b).release i)).modCmd die eng
      (fun c => { c with slot := none, fill := 0 })
  | none => s

/-- EDGE DRAIN: `pos` counts the bytes of the box done. The interior takes the bytes of filled slots in order. Padding before
the interior's last element is written once a later byte has arrived, for the end of the buffer ends the command at the last
byte that has. -/
def execEdgeDrain (die eng : Nat) (s : State) : Host.Outcome State Fault Refusal :=
  let drain (s : State) (c : Cmd) : State :=
    let q := c.into
    let b := ((c.word 3).extractLsb' 0 6).toNat
    let cb := s.buf die b
    let k := c.pos / q.E
    let o := c.pos % q.E
    let a := q.byteAddr (q.idx k) o
    let all := q.total * q.E
    let room := q.piece - o % q.piece
    let adv (s : State) (n : Nat) : State :=
      let s1 := s.modCmd die eng (fun c => { c with pos := c.pos + n, phase := if all ≤ c.pos + n then 1 else 0 })
      if all ≤ c.pos + n then drainFree s1 die eng b c else s1
    let pad (s : State) : State :=
      engDo s die eng ((s.engWrite die eng die a (fillBytes q.fmt (q.pad.setWidth 64) o room)).map (fun s2 => adv s2 room))
    if q.lastInner < k then pad s
    else match c.slot with
      | none =>
        if s.bufBad die b false then s.engFault die eng 10 0
        else if cb.atEnd then s.modCmd die eng (fun c => { c with phase := 1 })
        else match cb.consTake with
          | none => s
          | some (cb', i) => ((s.setBuf die b cb').acquireAt die .device).modCmd die eng (fun c => { c with slot := some i, fill := 0 })
      | some i =>
        if cb.count i ≤ c.fill then drainFree s die eng b c
        else if !q.isInner (q.idx k) then pad s
        else
          let n := min room (cb.count i - c.fill)
          match s.engRead die eng die (cb.addr i + BitVec.ofNat 64 c.fill) n (s.badRead true c.pos) with
          | (.error (f, x), s1) => s1.engFault die eng f x
          | (.ok bs, s1) => engDo s1 die eng ((s1.engWrite die eng die a bs).map (fun s2 =>
              adv (s2.modCmd die eng (fun c => { c with fill := c.fill + n })) n))
  engStep 8 die eng (fun s _ _ =>
    unitStep die eng (fun c => c.into.byteAddr (c.into.idx (c.pos / c.into.E)) (c.pos % c.into.E)) drain 8 s) s

/-- BUFFER SET-UP. -/
def execBufferSetUp (die eng : Nat) (s : State) : Host.Outcome State Fault Refusal :=
  engStep 9 die eng (fun s _ c =>
    let b := ((c.word 4).extractLsb' 0 6).toNat
    if s.bufBusy die b then s.engFault die eng 10 0
    else (s.setBuf die b ⟨c.word 2, ((c.word 3).extractLsb' 0 17).toNat, ((c.word 3).extractLsb' 32 9).toNat, [], [], 0, 0,
      false, true⟩).piece die eng 0) s

/-! ### Follow-on MMAC (R281) -/

/-- FOLLOW_ON_MMAC: the MMAC enters the row's queue, or the engine faults with cause 8; it waits while the queue is full. -/
def execFollowOnMmac (die eng : Nat) (s : State) : Host.Outcome State Fault Refusal :=
  let g := s.eng die eng
  match g.cmd with
  | some c =>
    if g.fault = 0 && !(s.die die).halted && c.fo && c.phase = 1 then
      let n := c.row
      let r := s.row n
      match decode (c.word 12) with
      | .ok (.mmac _ f) =>
        if r.life == .idle || mmacIllegal f r || (r.badReg (mmacRegs f r)).isSome
            || (mmacFault s n f (c.word 13) (c.word 14)).isSome then .next (s.engFault die eng 8 0)
        else if 4 ≤ r.queue.length then .next s
        else
          .next ((s.modRow n (fun r => { r with
            queue := r.queue ++ [⟨r.nextId, .mmac (c.word 12) f (c.word 13) (c.word 14) (c.word 15) 0 (eng + 1)⟩], nextId := r.nextId + 1
            mat := if r.mat.banked then r.mat.ask matE (s.rowClk n) else r.mat.use (s.rowClk n), arrSince := s.rowClk n })).modCmd die eng (fun c => { c with phase := 2 }))
      | _ => .next (s.engFault die eng 8 0)
    else .next s
  | none => .next s

end Sys2Proof.Machine
end

