-- ==== Sys2Proof/Machine/Image.lean ====
section
/-! DEFINITION. The matrix image (Table 08-8), and MDRAIN and MFILL, which write and load it (R197, R198). -/

namespace Sys2Proof.Machine

def imageSize : Nat := 140288
def imageMagic : Nat := 0x5A3C0001

/-- Byte i of a little-endian number. -/
def byteOf (x i : Nat) : W8 := BitVec.ofNat 8 (x / 2 ^ (8 * i))

/-- Codes of an arm in saved records. -/
def armCode : ArmId → Nat
  | .single => 0
  | .t => 1
  | .f => 2
def codeArm (n : Nat) : ArmId := if n = 1 then .t else if n = 2 then .f else .single

/-- Byte o of a queue slot's 64 bytes. -/
def slotByte (r : Row) (q : Slot) (o : Nat) : W8 :=
  match q.kind with
  | .swap => if o = 0 then 2 else if o = 1 then 15 else 0
  | .mmac w _ sA sB sc j src =>
    let op := q.op.bind r.findOp
    let flag := match op with | some x => x.flag.getD 15 | none => 15
    let arm := match op with | some x => armCode x.arm | none => 0
    if o = 0 then 1 else if o = 1 then BitVec.ofNat 8 flag else if o = 2 then BitVec.ofNat 8 arm
    else if o = 3 then BitVec.ofNat 8 src
    else if o < 8 then 0
    else if o < 16 then byteOf w.toNat (o - 8)
    else if o < 24 then byteOf sA.toNat (o - 16)
    else if o < 32 then byteOf sB.toNat (o - 24)
    else if o < 40 then byteOf sc.toNat (o - 32)
    else if o < 42 then byteOf j (o - 40)
    else 0

/-- A latch holds a whole tile. -/
def Latch.held (t : Latch) : Bool := t.st == .full || t.st == .swapQueued

/-- Byte o of the image of a row's array. -/
def imageByte (r : Row) (o : Nat) : W8 :=
  let a := r.active
  let t := r.shadow
  if o < 4 then byteOf imageMagic o
  else if o = 4 then BitVec.ofNat 8 a.held.toNat
  else if o = 5 then BitVec.ofNat 8 (if a.held then a.w else 0)
  else if o = 6 then BitVec.ofNat 8 (a.held && a.sgn).toNat
  else if o = 7 then BitVec.ofNat 8 (2 * t.held.toNat)
  else if o = 8 then BitVec.ofNat 8 (if t.held then t.w else 0)
  else if o = 9 then BitVec.ofNat 8 (t.held && t.sgn).toNat
  else if o = 10 then BitVec.ofNat 8 r.queue.length
  else if o = 11 then BitVec.ofNat 8 r.outBuf.length
  else if o < 0x10 then byteOf a.tag.toNat (o - 0xC)
  else if o < 0x14 then byteOf a.version.toNat (o - 0x10)
  else if o < 0x18 then byteOf t.tag.toNat (o - 0x14)
  else if o < 0x1C then byteOf t.version.toNat (o - 0x18)
  else if o < 0x40 then 0
  else if o < 0x140 then (match r.queue[(o - 0x40) / 64]? with | some q => slotByte r q (o % 64) | none => 0)
  else if o < 0x1C0 then tget 0 a.scales (o - 0x140)
  else if o < 0x240 then tget 0 t.scales (o - 0x1C0)
  else if o < 0x400 then 0
  else if o < 0x8400 then tget 0 a.q (o - 0x400)
  else if o < 0x10400 then tget 0 t.q (o - 0x8400)
  else if o < 0x20400 then byteOf (tget 0 r.ac ((o - 0x10400) / 4)).toNat (o % 4)
  else (match r.outBuf[(o - 0x20400) / 128]? with
    | some e => byteOf (tget 0 e.entry.words ((o - 0x20400) / 4 % 32)).toNat (o % 4)
    | none => 0)

/-- A number of n bytes at an offset of an image. -/
def imgNum (get : Nat → W8) (o n : Nat) : Nat := leVal ((List.range n).map (fun i => get (o + i)))

/-- The fields of an MMAC word that R188 allows at the row's width. -/
def slotFields (r : Row) (w : W64) : Option MmacF :=
  match decode w with
  | .ok (.mmac _ f) => if mmacIllegal f r || (r.badReg (mmacRegs f r)).isSome then none else some f
  | _ => none

/-- The offset of the first bad field of slot i, if any (R198). -/
def slotBad (r : Row) (get : Nat → W8) (i : Nat) : Option Nat :=
  let b := 0x40 + 64 * i
  let kind := (get b).toNat
  if 2 < kind then some b
  else if kind = 1 then
    match slotFields r (BitVec.ofNat 64 (imgNum get (b + 8) 8)) with
    | none => some (b + 8)
    | some f => if f.n.toNat + 1 < imgNum get (b + 40) 2 then some (b + 40) else none
  else none

/-- R198: the offset of the first bad field of an image. All four slots are tested, whatever the queue count; a slot of kind 0
is no refusal (log entry 52). -/
def imageBad (r : Row) (get : Nat → W8) (handler : Bool) : Option Nat :=
  let badW (x : Nat) := x < 2 || 8 < x
  if imgNum get 0 4 ≠ imageMagic then some 0
  else if 1 < (get 4).toNat then some 4
  else if get 4 != 0 && badW (get 5).toNat then some 5
  else if get 7 != 0 && get 7 != 2 then some 7
  else if get 7 != 0 && badW (get 8).toNat then some 8
  else if 4 < (get 10).toNat || (!handler && get 10 != 0) then some 10
  else if 64 < (get 11).toNat || (!handler && get 11 != 0) then some 11
  else [0, 1, 2, 3].findSome? (slotBad r get)

/-- The latch that an image holds. Of a sgn byte above 1 bit 0 is taken (model's choice, log entry 52). -/
def imageLatch (get : Nat → W8) (st : LatchSt) (b tagAt scaleAt qAt : Nat) : Latch :=
  { st := st, w := (get (b + 1)).toNat, sgn := (get (b + 2)).getLsbD 0
    tag := BitVec.ofNat 32 (imgNum get tagAt 4), version := BitVec.ofNat 32 (imgNum get (tagAt + 4) 4)
    scales := tabulate 0 128 (fun i => get (scaleAt + i)), q := tabulate 0 32768 (fun i => get (qAt + i)) }

/-- One slot of an image put in the queue, with the operation that carries its flag; a slot of kind 0 holds nothing. Of fields that
R198 neither refuses nor gives a meaning, flag numbers 12 to 14 name no flag, arms above 2 the single arm, sources above 8 no
engine, and bytes given as zero are ignored (model's choice, log entry 52). -/
def Row.addSlot (r : Row) (get : Nat → W8) (i : Nat) : Row :=
  let b := 0x40 + 64 * i
  let put (r : Row) (k : SlotKind) : Row := { r with queue := r.queue ++ [⟨r.nextId, k⟩], nextId := r.nextId + 1 }
  if get b = 2 then put r .swap
  else if get b = 1 then
    let w := BitVec.ofNat 64 (imgNum get (b + 8) 8)
    match slotFields r w with
    | none => r
    | some f =>
      let src := (get (b + 3)).toNat
      let flag := (get (b + 1)).toNat
      let r1 := if src ≠ 0 then r
        else { r with ops := r.ops ++ [⟨r.nextId, codeArm (get (b + 2)).toNat, if flag < 12 then some flag else none, .mmac⟩] }
      put r1 (.mmac w f (BitVec.ofNat 64 (imgNum get (b + 16) 8)) (BitVec.ofNat 64 (imgNum get (b + 24) 8))
        (BitVec.ofNat 64 (imgNum get (b + 32) 8)) (imgNum get (b + 40) 2) src)
  else r

/-- The MMACs of the queue with no vector left to enter. -/
def Row.spentSeqs (r : Row) : List Nat := (r.queue.filter Slot.spent).map Slot.seq

/-- All the array state of a row replaced by an accepted image, an empty latch's tag, version, scales and weights with it. An
MMAC with no vector left to enter completes with the last entry of the output buffer. Model's choices (log entry 52): swap slots
beside an empty shadow, or two of them, are accepted and cross in turn; queued MMACs that a handler's MFILL replaces are dropped,
their flags left set and their follow-ons' engines never told. -/
def Row.loadImage (r : Row) (get : Nat → W8) : Row :=
  let n := (get 10).toNat
  let swap := (List.range n).any (fun i => get (0x40 + 64 * i) = 2)
  let r0 := { r with ops := r.ops.filter (fun o => o.kind != OpKind.mmac) }
  let tile (st : LatchSt) : Latch := imageLatch get (if get 7 = 0 then .empty else st) 7 0x14 0x1C0 0x8400
  let r1 := { r0 with
    active := imageLatch get (if get 4 = 0 then .empty else .full) 4 0xC 0x140 0x400
    shadow := if swap then tile .swapQueued else r0.shadowNext (tile .full)
    ac := tabulate 0 16384 (fun i => BitVec.ofNat 32 (imgNum get (0x10400 + 4 * i) 4))
    queue := [], inflight := [], arrStop := .run }
  let r2 := (List.range n).foldl (fun r i => r.addSlot get i) r1
  let k := (get 11).toNat
  let entry (i : Nat) : PEntry :=
    ⟨tabulate 0 32 (fun c => BitVec.ofNat 32 (imgNum get (0x20400 + 128 * i + 4 * c) 4)), 0xFFFFFFFF⟩
  { r2 with outBuf := (List.range k).map (fun i => ⟨entry i, r2.nextId, if i + 1 == k then r2.spentSeqs else []⟩) }

/-- The MMACs that an image has left nothing to do complete (R198). -/
def State.endSpent (s : State) (n : Nat) : State :=
  if (s.row n).outBuf.isEmpty then (s.row n).spentSeqs.foldl (fun s q => s.endMmac n q) s else s
/-- The image loaded into row n's array (R198). -/
def State.loadImage (s : State) (n : Nat) (get : Nat → W8) : State := (s.modRow n (fun r => r.loadImage get)).endSpent n

/-! ### MDRAIN and MFILL (R197) -/

/-- The first fault of a 64-byte aligned range: BOUNDS, PROT or OWNER at the lowest byte that fails. -/
def rangeFault (s : State) (n : Nat) (a : W64) (len : Nat) : Option (W8 × W64) :=
  s.firstFault n 1 ((List.range (len / 64)).map (fun i => a + BitVec.ofNat 64 (64 * i)))

/-- The common part: alignment, the range, the waits, those for bytes that queued operands have still to give among them where
the instruction stores (R191), and then the transfer, which is a use of the array (R383) and takes its
issue time (Table 08-9). Its effect stands at once, and it goes on, the shadow reserved, to a free time. -/
def imageInstr (g : Guard) (a : SReg) (stores : Bool) (act : State → Nat → Nat → Res) : State → Host.Outcome State Fault Refusal :=
  issueQ { nest := true, access := true, hold := freezeHold, cycles := fun r => if r.guardQ g then 548 else 1 } g
    (fun s n v =>
      let r := s.row n
      let x := v.sreg a.toNat
      if x &&& 63 != 0 then .trap cMisalign x s
      else match rangeFault s n x imageSize with
        | some (c, t) => .trap c t s
        | none =>
          if !r.handler && !(r.queue.isEmpty && !r.fillDue && r.outBuf.isEmpty) then .wait .array s
          else if r.mat.banked then .wait (.stoke false) (s.modRow n (Row.askMat (s.rowClk n)))
          else if stores && r.operandMeets x.toNat imageSize then .wait .operands s
          else if r.ops.any (fun o => r.opMeets o x.toNat imageSize) then .wait .memory s
          else (act s n x.toNat).after (fun s => s.modRow n (fun r =>
            { r with mat := r.mat.use (s.rowClk n), transfer := true }.matRest (s.rowClk n))))

/-- The first k bytes of row n's image written at an address. -/
def State.drainBytes (s : State) (n x k : Nat) : State :=
  s.storeBytes n (s.row n).nextId true x ((List.range k).map (imageByte (s.row n)))

def execMdrain (g : Guard) (a : SReg) (s : State) : Host.Outcome State Fault Refusal :=
  imageInstr g a true (fun s n x => .done (s.drainBytes n x imageSize)) s

/-- Causes 1 to 5 of R413 that a word raises before it is an instruction: cause and tval; none when it decodes. -/
def wordFault (a : Arm) (w : W64) : Option (W8 × W64) :=
  let op := wordOp w
  if isMarker op then some (cIllClause, a.pc.setWidth 64)
  else if (opFormat op).isNone then some (cIllEnc, w)
  else if (match opClass op with | some k => !a.clause.cls.getLsbD k | none => false) then
    some (cIllClause, a.pc.setWidth 64)
  else if mustBeLast op && !a.atLast then some (cIllClause, a.pc.setWidth 64)
  else match decode w with
    | .ok _ => none
    | .error _ => some (cIllEnc, w)

/-- An MDRAIN that PREEMPT abandons: row n stands before it with its first k bytes written (R348). -/
def State.abandonDrain (s : State) (n k : Nat) : State :=
  let r := s.row n
  match (wordFault r.arm r.curWord).isNone, decode r.curWord with
  | true, .ok (.mdrain g a) =>
    match imageInstr g a true (fun s n x => .wait .array (s.drainBytes n x (min k imageSize))) { s with cur := n } with
    | .next t => { t with cur := s.cur }
    | _ => s
  | _, _ => s

def execMfill (g : Guard) (a : SReg) (s : State) : Host.Outcome State Fault Refusal :=
  imageInstr g a false (fun s n x =>
    let get (o : Nat) : W8 := s.ownByte n (s.row n).nextId (x + o)
    match imageBad (s.row n) get (s.row n).handler with
    | some o => .trap cMatrixFmt (BitVec.ofNat 64 o) s
    | none => .done (s.loadImage n get)) s

end Sys2Proof.Machine
end

