-- ==== Sys2Proof/Machine/Links.lean ====
section
/-! DEFINITION. External ports and link commands: SEND, RECV, REDUCE-STEP, XOR-REDUCE and ALLREDUCE (R357 to R367), aborts
(R369), and cells on links (R24 to R27). What a peer sends arrives as cells; what this device sends becomes cells as buffers
allow (log entry 24). -/

namespace Sys2Proof.Machine

/-! ### Compressed blocks (R363) -/

/-- Cmp: the scale and the 256 elements of a block of 256 FP32 values. -/
def cmpBlock (xs : List Nat) : Nat × List W8 :=
  let (e, _) := bmaxVal 8 true (xs.map fmt32.decode)
  (e, xs.map (fun x => BitVec.ofInt 8 (qntVal 8 true .rne e x).1))
/-- Exp. -/
def expBlock (e : Nat) (q : List W8) : List Nat := q.map (fun b => (dqntVal true e b.toNat).1)

/-- 256 values of 1,024 bytes, and back. -/
def blockVals (b : List W8) : List Nat := (List.range 256).map (fun i => leVal ((b.drop (4 * i)).take 4))
def valBytes (v : List Nat) : List W8 := v.flatMap (leList 4)
/-- RoundRNE(x + y) per value (R364). -/
def addVals (x y : List Nat) : List Nat := (x.zip y).map (fun (a, b) => (fmt32.add .rne (fmt32.decode a) (fmt32.decode b)).1)

/-! ### Communicators and paths (R358) -/

def State.comm (s : State) (k : Nat) : Comm := tget .reset s.job.comms k
def Comm.next (c : Comm) : Nat := (c.rank + 1) % c.n
def Comm.prev (c : Comm) : Nat := (c.rank + c.n - 1) % c.n
/-- The port mask that reaches a rank. -/
def Comm.mask (c : Comm) (r : Nat) : BitVec 16 :=
  if r = c.next then c.succ else if r = c.prev then c.pred else tget 0 c.masks r
/-- The other ranks that a port mask reaches. -/
def Comm.reach (c : Comm) : List Nat :=
  (c.next :: c.prev :: c.masks.map Prod.fst).eraseDups.filter (fun r => r != c.rank && c.mask r != 0)
/-- Every port of a mask is up. -/
def State.pathUp (s : State) (m : BitVec 16) : Bool := (List.range 16).all (fun p => !m.getLsbD p || (s.port p).up)

/-! ### Fields of a link command (Table 16-1) -/

def Cmd.comm (c : Cmd) : Nat := ((c.word 5).extractLsb' 0 6).toNat
def Cmd.peer (c : Cmd) : Nat := ((c.word 5).extractLsb' 16 17).toNat
def Cmd.bytes (c : Cmd) : Nat := (c.word 4).toNat
def Cmd.tag (c : Cmd) : W32 := (c.word 6).setWidth 32
def Cmd.packed (c : Cmd) : Bool := (c.word 6).getLsbD 32
def Cmd.first (c : Cmd) : Bool := (c.word 7).getLsbD 0
def Cmd.last (c : Cmd) : Bool := (c.word 7).getLsbD 1
def Cmd.bcast (c : Cmd) : Bool := (c.word 7).getLsbD 2
/-- Ranks of an XOR-REDUCE: its contributors and its holder. -/
def Comm.octet (m : Comm) : Nat := m.rank / 8 * 8
def Cmd.contribs (c : Cmd) (m : Comm) : List Nat :=
  ((List.range 8).filter (fun j => (c.word 7).getLsbD j)).map (fun j => m.octet + j)
def Cmd.holder (c : Cmd) (m : Comm) : Nat := m.octet + ((c.word 7).extractLsb' 8 3).toNat
/-- Sources of an ALLREDUCE. -/
def Cmd.sources (c : Cmd) : List W64 := c.word 2 :: [c.word 8, c.word 9, c.word 10].filter (fun x => x != 0)

/-- The peers that a command meets, with whether this device sends to each. -/
def Cmd.roles (c : Cmd) (m : Comm) : List (Nat × Bool) :=
  match c.kind with
  | 0x10 => [(c.peer, true)]
  | 0x11 => [(c.peer, false)]
  | 0x12 => (if c.first then [] else [(m.prev, false)]) ++ (if c.last && !c.bcast then [] else [(m.next, true)])
  | 0x13 => if m.rank = c.holder m then ((c.contribs m).filter (· != m.rank)).map (fun r => (r, false)) else [(c.holder m, true)]
  | 0x14 => [(m.prev, false), (m.next, true)]
  | _ => []

/-- What must agree besides B: format, w7, or the number of members. -/
def Cmd.also (c : Cmd) (m : Comm) : Nat :=
  match c.kind with
  | 0x10 | 0x11 => c.packed.toNat
  | 0x14 => m.n
  | _ => (c.word 7).toNat

/-- The rank's serial number of the command that this one has matched. -/
def Cmd.mate (c : Cmd) (peer : Nat) : Nat := ((c.mates.find? (fun x => x.1 == peer)).map Prod.snd).getD 0

/-- Two ranges of B bytes meet. -/
def overlapB (a b : W64) (B : Nat) : Bool := meets a.toNat B b.toNat B

/-- The sources of a link command, and its destination where it has one (Table 16-1). -/
def Cmd.reads (c : Cmd) (m : Comm) : List W64 :=
  match c.kind with
  | 0x11 => []
  | 0x13 => if (c.contribs m).contains m.rank then [c.word 2] else []
  | 0x14 => c.sources
  | _ => [c.word 2]
def Cmd.writes (c : Cmd) (m : Comm) : Option W64 :=
  match c.kind with
  | 0x10 => none
  | 0x12 => if c.last || c.word 3 != 0 then some (c.word 3) else none
  | 0x13 => if m.rank = c.holder m then some (c.word 3) else none
  | _ => some (c.word 3)

/-- The destination meets a source, other than as ALLREDUCE's source 0 exactly (R360, R365). -/
def Cmd.overlaps (c : Cmd) (m : Comm) : Bool :=
  match c.writes m with
  | none => false
  | some d =>
    if c.kind = 0x14 then
      (c.word 2 != d && overlapB (c.word 2) d c.bytes) || (c.sources.drop 1).any (fun a => overlapB a d c.bytes)
    else (c.reads m).any (fun a => overlapB a d c.bytes)

/-- Causes 13, 15, 14 and 12 before any access (R360), and 1 for words that R367 leaves zero. -/
def linkFault (s : State) (c : Cmd) : Option Nat :=
  let m := s.comm c.comm
  let k := c.kind
  let B := c.bytes
  if m.n = 0 || ((k = 0x10 || k = 0x11) && (m.n ≤ c.peer || c.peer = m.rank))
      || (k = 0x13 && m.n % 8 ≠ 0) || (c.roles m).any (fun r => m.mask r.1 == 0) then some 13
  else if k = 0x13 && ((m.rank ≠ c.holder m && c.word 3 != 0)
      || (m.rank = c.holder m && !(c.contribs m).contains m.rank && c.word 2 != 0)) then some 1
  else if ((c.writes m).toList ++ c.reads m).any (fun a => a &&& 63 != 0) || B = 0
      || ((c.packed || k = 0x12 || k = 0x14) && B % 1024 ≠ 0) || c.overlaps m then some 15
  else if k = 0x12 && c.first && c.last then some 14
  else if (c.roles m).any (fun r => !s.pathUp (m.mask r.1)) then some 12
  else none

/-! ### Messages -/

def State.send (s : State) (x : Msg) : State := s.modJob (fun j => { j with linkTx := j.linkTx ++ [x] })
/-- A received message taken. -/
def State.takeMsg (s : State) (f : Msg → Bool) : State := s.modJob (fun j => { j with linkRx := j.linkRx.eraseP f })

/-- The cell of a message of the command that this one has matched at a peer, of one of the kinds. -/
def Msg.at_ (c : Cmd) (peer : Nat) (kinds : List Nat) (blk : Nat) (x : Msg) : Bool :=
  x.comm == c.comm && x.peer == peer && x.tag == c.tag && kinds.contains x.kind && x.blk == blk && x.ser == c.mate peer

/-- A compressed block that has arrived: its four cells. -/
def State.rxBlock (s : State) (c : Cmd) (peer : Nat) (kinds : List Nat) (b : Nat) : Option (Nat × List W8) :=
  let cell (i : Nat) := s.job.linkRx.find? (Msg.at_ c peer kinds (4 * b + i))
  match cell 0, cell 1, cell 2, cell 3 with
  | some w, some x, some y, some z => some ((w.aux.setWidth 8).toNat, w.data ++ x.data ++ y.data ++ z.data)
  | _, _, _, _ => none
def State.takeBlock (s : State) (c : Cmd) (peer : Nat) (kinds : List Nat) (b : Nat) : State :=
  (List.range 4).foldl (fun s i => s.takeMsg (Msg.at_ c peer kinds (4 * b + i))) s

/-- A message of a command to a peer. -/
def Cmd.msg (c : Cmd) (peer kind blk : Nat) (data : List W8) (aux : W32) : Msg :=
  ⟨c.comm, peer, c.tag, kind, c.kind, c.bytes, blk, data, aux, c.ser⟩

/-- A compressed block sent to a peer. -/
def State.sendBlock (s : State) (c : Cmd) (peer kind b : Nat) (x : Nat × List W8) : State :=
  (List.range 4).foldl (fun s i =>
    s.send (c.msg peer kind (4 * b + i) ((x.2.drop (64 * i)).take 64) (if i = 0 then BitVec.ofNat 32 x.1 else 0))) s

/-- A message is of a command that an abort has named: communicator, tag, rank and serial number (R361, R369). -/
def Msg.ended (x : Msg) (l : List (Nat × Nat × Nat × Nat)) : Bool := x.kind != 5 && l.contains (x.comm, x.tag.toNat, x.peer, x.ser)
/-- What a command of a rank has sent is void once that command has ended with a fault. -/
def State.voidRx (s : State) (f : Msg → Bool) : State := s.modJob (fun j => { j with linkRx := j.linkRx.filter (fun x => !f x) })

/-- R360, R369: a link command ends with a fault, and says so to every other member that it can reach: with `first` as an abort of
the members' commands, otherwise, where an abort has ended it, for its own serial number alone. A command that never started takes
a serial number for it. -/
def State.linkStop (first : Bool) (s : State) (d e cause : Nat) (addr : W64) (c : Cmd) : State :=
  let m := s.comm c.comm
  let c1 := if c.fill = 0 then { c with ser := s.job.linkStarts } else c
  let s1 := if c.fill = 0 then s.modJob (fun j => { j with linkStarts := j.linkStarts + 1 }) else s
  (m.reach.foldl (fun s r => s.send (c1.msg r 4 m.rank [] (if first then 1 else 0))) s1).engFault d e cause addr

/-! ### Matching (R361) -/

/-- An announcement stands for a sender, or for a receiver. -/
def Msg.sends (x : Msg) : Bool :=
  x.cmd == 0x10 || x.cmd == 0x13 || x.cmd == 0x14 || (x.cmd == 0x12 && (!x.blk.testBit 1 || x.blk.testBit 2))
def Msg.receives (x : Msg) : Bool :=
  x.cmd == 0x11 || x.cmd == 0x13 || x.cmd == 0x14 || (x.cmd == 0x12 && !x.blk.testBit 0)

/-- The oldest announcement of a peer for a role. -/
def State.partner (s : State) (c : Cmd) (r : Nat × Bool) : Option Msg :=
  s.job.linkRx.find? (fun x => x.kind == 0 && x.comm == c.comm && x.peer == r.1 && x.tag == c.tag
    && (if r.2 then x.receives else x.sends))

/-- Cause 14: kind, B, format, w7 and the number of members agree. -/
def agrees (c : Cmd) (m : Comm) (r : Nat × Bool) (x : Msg) : Bool :=
  x.len == c.bytes && (match c.kind with
    | 0x10 => x.cmd == 0x11 && x.blk == c.also m
    | 0x11 => (x.cmd == 0x10 && x.blk == c.also m) || (c.packed && x.cmd == 0x12 && x.blk.testBit 1 && x.blk.testBit 2)
    | 0x12 =>
      if r.2 then (if c.last then x.cmd == 0x11 && x.blk == 1 else x.cmd == 0x12 && !x.blk.testBit 0)
      else x.cmd == 0x12 && !x.blk.testBit 1
    | k => x.cmd == k && x.blk == c.also m)

/-- Every partner has started: the announcements are taken, and their commands' serial numbers known; or one of them differs,
which is taken as well. -/
def matchAll (c : Cmd) (m : Comm) : State → List (Nat × Bool) → List (Nat × Nat) → Option (Except State (State × List (Nat × Nat)))
  | s, [], l => some (.ok (s, l))
  | s, r :: rest, l =>
    match s.partner c r with
    | none => none
    | some x =>
      let s1 := s.takeMsg (· == x)
      if agrees c m r x then matchAll c m s1 rest (l ++ [(r.1, x.ser)]) else some (.error s1)

/-- Every engine at work on a link command that a test names. -/
def linkCmds (s : State) (f : Cmd → Bool) : List (Nat × Nat × Cmd) :=
  ((List.range 4).flatMap (fun d => (List.range 8).map (fun e => (d, e)))).filterMap (fun (d, e) =>
    let g := s.eng d e
    match g.cmd with
    | some c => if g.fault = 0 && 0x10 ≤ c.kind && c.phase = 0 && f c then some (d, e, c) else none
    | none => none)

/-- The cause with which an abort ends a command: 14 where a peer's command that differs has been announced (R360). -/
def State.abortCause (s : State) (c : Cmd) : Nat :=
  let m := s.comm c.comm
  if c.fill = 1 && (c.roles m).any (fun r => match s.partner c r with | some x => !agrees c m r x | none => false) then 14 else 12
/-- Commands of this device that an abort ends, each of which says so. -/
def State.abortAll (s : State) (f : Cmd → Bool) : State :=
  (linkCmds s f).foldl (fun s (d, e, c) => s.linkStop false d e (s.abortCause c) 0 c) s

/-- A link command ends with a fault of its own, and with it those of the communicator and tag at every member (R369), of which
this device is one. -/
def State.linkEnd (s : State) (d e cause : Nat) (addr : W64) (c : Cmd) : State :=
  (s.linkStop true d e cause addr c).abortAll (fun x => x.comm == c.comm && x.tag == c.tag)

/-- The link engine that owns the ports of a command's path (R357, R359): that of the lowest of them. -/
def State.linkOwner (s : State) (c : Cmd) : Nat :=
  let m := s.comm c.comm
  ((List.range 16).find? (fun p => (c.roles m).any (fun r => (m.mask r.1).getLsbD p))).getD 0 / 4
/-- A link engine runs up to 16 commands at once. -/
def State.linkBusy (s : State) (c : Cmd) : Bool :=
  16 ≤ (linkCmds s (fun x => x.fill ≠ 0 && s.linkOwner x == s.linkOwner c)).length

/-- A command of this device that started earlier still waits for a partner with the same key (R361). -/
def State.linkBehind (s : State) (c : Cmd) : Bool :=
  let m := s.comm c.comm
  !(linkCmds s (fun x => x.fill = 1 && x.ser < c.ser && x.comm == c.comm && x.tag == c.tag
    && (x.roles m).any (fun r => (c.roles m).contains r))).isEmpty

/-- A link event of an engine: the checks, the hand-over to a link engine and the announcements, then the match, then `work`,
one unit at a time; bytes that a unit leaves in `buf` are written 8 at a time at w3, and `after` follows the last of them. -/
def linkStep (kind die eng : Nat) (work : State → Cmd → Comm → Nat → State) (after : State → Cmd → Comm → Nat → State) :
    State → Host.Outcome State Fault Refusal :=
  engStep kind die eng (fun s _ c =>
    let m := s.comm c.comm
    let goal := if kind = 0x14 then 2 * c.bytes else c.bytes
    if c.fill = 0 then
      match linkFault s c with
      | some f => s.linkEnd die eng f 0 c
      | none =>
        if s.linkBusy c then s
        else
          let c1 := { c with fill := 1, ser := s.job.linkStarts }
          ((c.roles m).foldl (fun s r => s.send (c1.msg r.1 0 (c.also m) [] 0))
            (s.modJob (fun j => { j with linkStarts := j.linkStarts + 1 }))).modCmd die eng (fun _ => c1)
    else if (c.roles m).any (fun r => !s.pathUp (m.mask r.1)) then s.linkEnd die eng 12 0 c
    else if c.fill = 1 then
      if s.linkBehind c then s
      else match matchAll c m s (c.roles m) [] with
        | none => s
        | some (.error s1) => s1.linkEnd die eng 14 0 c
        | some (.ok (s1, l)) => (s1.acquireAt die .system).modCmd die eng (fun c => { c with fill := 2, mates := l })
    else if c.buf.isEmpty then work s c m goal
    else
      let n := min 8 c.buf.length
      let a := c.word 3 + BitVec.ofNat 64 (c.pos % c.bytes)
      match s.engWrite die eng 4 a (c.buf.take n) with
      | .error (f, x) => s.linkEnd die eng f x c
      | .ok s1 =>
        let s2 := s1.modCmd die eng (fun c => { c with
          pos := c.pos + n, buf := c.buf.drop n, phase := if goal ≤ c.pos + n then 1 else 0 })
        if c.buf.length ≤ n then after s2 c m (c.pos + n) else s2)

/-- The unit of n bytes is done with nothing to write. -/
def linkPass (s : State) (die eng goal n : Nat) : State :=
  s.modCmd die eng (fun c => { c with pos := c.pos + n, phase := if goal ≤ c.pos + n then 1 else 0 })
/-- Bytes to write at w3; or Exp of a block, which may have to be sent on. -/
def linkBuf (s : State) (die eng : Nat) (b : List W8) : State := s.modCmd die eng (fun c => { c with buf := b })
def linkExp (s : State) (die eng : Nat) (x : Nat × List W8) : State :=
  s.modCmd die eng (fun c => { c with buf := valBytes (expBlock x.1 x.2), held := BitVec.ofNat 8 x.1 :: x.2 })
/-- The block that Exp was written of. -/
def Cmd.block (c : Cmd) : Nat × List W8 := ((c.held.headD 0).toNat, c.held.drop 1)
def noAfter (s : State) (_ : Cmd) (_ : Comm) (_ : Nat) : State := s

/-- A local read by the link engine, through the unit of X; a fault ends the command. -/
def linkRead (s : State) (die eng : Nat) (c : Cmd) (a : W64) (n : Nat) (ecc : Bool) (f : State → List W8 → State) : State :=
  match s.engRead die eng 4 a n ecc with
  | (.error (k, x), s1) => s1.linkEnd die eng k x c
  | (.ok bs, s1) => f s1 bs

/-! ### The commands -/

def execSend (die eng : Nat) (ecc : Bool) (s : State) : Host.Outcome State Fault Refusal :=
  linkStep 0x10 die eng (fun s c _ goal =>
    let a := c.word 2 + BitVec.ofNat 64 c.pos
    if c.packed then
      linkRead s die eng c a 1024 ecc (fun s bs =>
        linkPass (s.sendBlock c c.peer 2 (c.pos / 1024) (cmpBlock (blockVals bs))) die eng goal 1024)
    else
      let n := min 64 (c.bytes - c.pos)
      linkRead s die eng c a n ecc (fun s bs =>
        linkPass (s.send (c.msg c.peer 1 (c.pos / 64) bs 0)) die eng goal n)) noAfter s

def execRecv (die eng : Nat) (s : State) : Host.Outcome State Fault Refusal :=
  linkStep 0x11 die eng (fun s c _ _ =>
    if c.packed then
      match s.rxBlock c c.peer [2, 3] (c.pos / 1024) with
      | none => s
      | some x => linkExp (s.takeBlock c c.peer [2, 3] (c.pos / 1024)) die eng x
    else
      match s.job.linkRx.find? (Msg.at_ c c.peer [1] (c.pos / 64)) with
      | none => s
      | some x => linkBuf (s.takeMsg (Msg.at_ c c.peer [1] (c.pos / 64))) die eng
          ((x.data ++ List.replicate 64 0).take (min 64 (c.bytes - c.pos)))) noAfter s

/-- I of R364 where the command has a predecessor: none while the block is still to come. -/
def partialIn (s : State) (c : Cmd) (m : Comm) (first : Bool) (b : Nat) : Option (List Nat × State) :=
  if first then some ([], s)
  else match s.rxBlock c m.prev [2] b with
    | none => none
    | some (e, q) => some (expBlock e q, s.takeBlock c m.prev [2] b)

/-- S of R364. -/
def partialSum (first : Bool) (i l : List Nat) : List Nat := if first then l else addVals i l

def execReduceStep (die eng : Nat) (ecc : Bool) (s : State) : Host.Outcome State Fault Refusal :=
  linkStep 0x12 die eng (fun s c m goal =>
    let b := c.pos / 1024
    match partialIn s c m c.first b with
    | none => s
    | some (i, s1) =>
      linkRead s1 die eng c (c.word 2 + BitVec.ofNat 64 c.pos) 1024 ecc (fun s2 bs =>
        let x := cmpBlock (partialSum c.first i (blockVals bs))
        if c.last then linkExp s2 die eng x
        else linkPass (s2.sendBlock c m.next 2 b x) die eng goal 1024))
    (fun s c m pos =>
      if c.bcast then s.sendBlock c m.next 3 (pos / 1024 - 1) c.block else s) s

def execXorReduce (die eng : Nat) (ecc : Bool) (s : State) : Host.Outcome State Fault Refusal :=
  linkStep 0x13 die eng (fun s c m goal =>
    let n := min 64 (c.bytes - c.pos)
    let own := (c.contribs m).contains m.rank
    let blk := c.pos / 64
    if m.rank = c.holder m then
      let others := (c.contribs m).filter (· != m.rank)
      let cells := others.map (fun r => s.job.linkRx.find? (Msg.at_ c r [1] blk))
      if cells.any Option.isNone then s
      else
        let s1 := others.foldl (fun s r => s.takeMsg (Msg.at_ c r [1] blk)) s
        let sum (l : List W8) : List W8 := (List.range n).map (fun i =>
          cells.foldl (fun a x => a ^^^ (match x with | some y => y.data.getD i 0 | none => 0)) (l.getD i 0))
        if own then linkRead s1 die eng c (c.word 2 + BitVec.ofNat 64 c.pos) n ecc (fun s bs => linkBuf s die eng (sum bs))
        else linkBuf s1 die eng (sum [])
    else
      linkRead s die eng c (c.word 2 + BitVec.ofNat 64 c.pos) n ecc (fun s bs =>
        linkPass (s.send (c.msg (c.holder m) 1 blk bs 0)) die eng goal n)) noAfter s

/-- x of R365 for a block: the sources summed within the package. -/
def sourceSum (die eng : Nat) (c : Cmd) (o : Nat) (ecc : Bool) : State → List W64 → List Nat → (State → List Nat → State) → State
  | s, [], acc, f => f s acc
  | s, a :: rest, acc, f =>
    linkRead s die eng c (a + BitVec.ofNat 64 o) 1024 (s.badRead ecc rest.length) (fun s bs =>
      sourceSum die eng c o ecc s rest (if acc.isEmpty then blockVals bs else addVals acc (blockVals bs)) f)

/-- The chunk of a block, and this device's place in its order: 0 first, n - 1 its owner (R365). -/
def chunkOf (c : Cmd) (m : Comm) (b : Nat) : Nat := b / ((c.bytes / 1024 + m.n - 1) / m.n)
def chunkPlace (c : Cmd) (m : Comm) (b : Nat) : Nat := (m.rank + m.n - (chunkOf c m b + 1) % m.n) % m.n

/-- ALLREDUCE: every block's sum in turn, and then every block's result round the ring. -/
def execAllreduce (die eng : Nat) (ecc : Bool) (s : State) : Host.Outcome State Fault Refusal :=
  linkStep 0x14 die eng (fun s c m goal =>
    let o := c.pos % c.bytes
    let b := o / 1024
    let place := chunkPlace c m b
    if c.pos < c.bytes then
      match partialIn s c m (place = 0) b with
      | none => s
      | some (i, s1) =>
        sourceSum die eng c o ecc s1 c.sources [] (fun s2 l =>
          let x := cmpBlock (partialSum (place = 0) i l)
          if place = m.n - 1 then linkExp s2 die eng x
          else linkPass (s2.sendBlock c m.next 2 b x) die eng goal 1024)
    else if place = m.n - 1 then linkPass s die eng goal 1024
    else
      match s.rxBlock c m.prev [3] b with
      | none => s
      | some x => linkExp (s.takeBlock c m.prev [3] b) die eng x)
    (fun s c m pos =>
      let b := (pos - 1024) % c.bytes / 1024
      if pos ≤ c.bytes || chunkPlace c m b + 2 < m.n then s.sendBlock c m.next 3 b c.block else s) s

/-! ### Sending cells (R24, R25, R27) -/

/-- Links 0 to 15 are the external ports; any other number names one direction of a link inside the package, which is always
up. Cells whose copies a sender keeps (R27, R357). -/
def copiesMax (p : Nat) : Nat := if p < 16 then 4096 else 1024
def State.linkOn (s : State) (p : Nat) : Bool := 16 ≤ p || (s.port p).up

/-- A cell before it has its number and its CRC. -/
def cellOf (vc : Nat) (kind : BitVec 6) (last : Bool) (aux : W32) (payload : BitVec 512) : Cell :=
  ⟨payload, BitVec.ofNat 64 (vc + 4 * kind.toNat + 256 * last.toNat + 2 ^ 32 * aux.toNat), 0⟩
def numberCell (c : Cell) (q : BitVec 16) : Cell :=
  let tag := c.tag ||| (q.setWidth 64 <<< 16)
  ⟨c.payload, tag, Config.crc24 c.payload tag⟩

/-- The payload of 64 bytes. -/
def bytesPayload (l : List W8) : BitVec 512 := BitVec.ofNat 512 (leVal l)

/-- The cell of a link message, and its virtual channel: an abort on that of control. The cells of one block are one message. -/
def Msg.vc (x : Msg) : Nat := if x.kind = 4 then 3 else Config.linkVc.toNat
def Msg.cell (x : Msg) : Cell :=
  let l := if x.kind = 4 then [0, x.comm, x.tag.toNat, x.blk, x.ser, x.aux.toNat] else [x.comm, x.peer, x.tag.toNat, x.kind, x.cmd, x.len, x.blk, x.ser]
  cellOf x.vc (Config.cellKind l) (!(x.kind == 2 || x.kind == 3) || x.blk % 4 == 3) x.aux
    (if x.data.isEmpty then Config.cellHead l else bytesPayload x.data)

/-- The two cells of a chain entry. -/
def chainCells (e : PEntry) : List Cell :=
  let half (k : Nat) : BitVec 512 := bytesPayload ((List.range 16).flatMap (fun i => leList 4 (tget 0 e.words (16 * k + i)).toNat))
  [cellOf 2 Config.chainKind false e.valid (half 0), cellOf 2 Config.chainKind true 0 (half 1)]

/-- The sender may send k cells on a channel: the peer has buffers, and there is room for the copies, of which it leaves one for
what this end has to tell the peer. -/
def Port.may (x : Port) (p vc k : Nat) : Bool := k ≤ tget 0 x.credit vc && x.copies.length + k < copiesMax p
/-- A cell sent. -/
def Port.put (x : Port) (vc : Nat) (c : Cell) : Port :=
  { x with credit := tset 0 x.credit vc (tget 0 x.credit vc - 1), txSeq := x.txSeq + 1, copies := x.copies ++ [numberCell c x.txSeq] }
/-- A cell put behind those that wait on its channel. -/
def Port.queue (x : Port) (vc : Nat) (c : Cell) : Port := { x with out := tset [] x.out vc (tget [] x.out vc ++ [c]) }
/-- Tag traffic (R25): a cell of the control channel that waits for no buffer and takes none at its receiver. -/
def Port.tell (x : Port) (l : List Nat) : Port :=
  { x with txSeq := x.txSeq + 1
           copies := x.copies ++ [numberCell (cellOf 3 (Config.cellKind l) true 0 (Config.cellHead l)) x.txSeq] }

/-- What waits on a channel is sent as far as it may be. -/
def Port.drain (p vc : Nat) : Nat → Port → Port
  | 0, x => x
  | k + 1, x =>
    match tget [] x.out vc with
    | c :: rest => if x.may p vc 1 then Port.drain p vc k ({ x with out := tset [] x.out vc rest }.put vc c) else x
    | [] => x
def Port.drainAll (p : Nat) (x : Port) : Port :=
  [3, 1, 0].foldl (fun x vc => Port.drain p vc (tget [] x.out vc).length x) x

/-- There are freed buffers to be returned, or sixteen cells to be acknowledged. -/
def Port.owes (x : Port) : Bool := [0, 1, 2, 3].any (fun vc => tget 0 x.freed vc ≠ 0) || 16 ≤ x.due
/-- What this end has to tell the peer, as its copies have room: a replay request, and freed buffers with the number that it
expects next. -/
def Port.report (p : Nat) (x : Port) : Port :=
  let x1 := if x.ask && x.copies.length < copiesMax p then { x with ask := false }.tell [2, x.rxSeq.toNat] else x
  if x1.owes && x1.copies.length < copiesMax p then
    { x1.tell ([1, x1.rxSeq.toNat] ++ (List.range 4).map (fun vc => tget 0 x1.freed vc)) with
      room := tabulate 0 4 (fun vc => tget 0 x1.room vc + tget 0 x1.freed vc), freed := [], due := 0 }
  else x1

/-- The port that a message takes: one of those of the mask that reaches its peer that are up; announcements and aborts always
the lowest, so that they keep their order. -/
def State.portFor (s : State) (x : Msg) : Option Nat :=
  let l := (List.range 16).filter (fun p => ((s.comm x.comm).mask x.peer).getLsbD p && (s.port p).up)
  if x.kind = 0 || x.kind = 4 then l.head? else l[Config.freeNat s.drawn (x.blk / 4) % l.length]?
/-- Messages become cells; one whose ports are all down is lost. An abort follows what still waits at its port, so that no
announcement comes behind it at the peer (R360, R361; log entry 24). -/
def State.pumpMsgs (s : State) : State :=
  s.job.linkTx.foldl (fun t x => match s.portFor x with
    | some p =>
      if x.kind = 4 && !(tget [] (t.port p).out Config.linkVc.toNat).isEmpty then t.send x
      else t.modPort p (fun y => y.queue x.vc x.cell)
    | none => t) (s.modJob (fun j => { j with linkTx := [] }))

/-- The oldest chain entries leave by a port, and behind them a seal. -/
def State.sendChain (p : Nat) : Nat → State → State
  | 0, s => s
  | k + 1, s =>
    let x := s.port p
    match s.job.chainOut with
    | e :: rest =>
      if x.may p 2 2 then
        State.sendChain p k ((s.modJob (fun j => { j with chainOut := rest })).setPort p
          { (chainCells e).foldl (fun x c => x.put 2 c) x with trail := x.trail ++ [true, true] })
      else s
    | [] =>
      if s.job.chainSeal && x.may p 2 1 then
        (s.modJob (fun j => { j with chainSeal := false })).setPort p
          { x.put 2 (cellOf 2 Config.sealKind true 0 0) with trail := x.trail ++ [false] }
      else s

/-! ### Receiving cells (R25, R26, R166) -/

/-- Words of a cell's payload. -/
def cellWords (c : Cell) : List W32 := (List.range 16).map (fun i => c.payload.extractLsb' (32 * i) 32)
/-- The entry of two chain cells. -/
def entryOf (a b : Cell) : PEntry :=
  ⟨tabulate 0 32 (fun i => (cellWords a ++ cellWords b).getD i 0), a.tag.extractLsb' 32 32⟩

/-- A cell is a seal, or the last of its message. -/
def cellSeals (c : Cell) : Bool := c.tag.extractLsb' 2 6 == Config.sealKind
def cellEnds (c : Cell) : Bool := c.tag.getLsbD 8

/-- What chain cells do first at row 0's north port, and how many of them: an entry where the FIFO has room, discarded once the row
has retired (R164), or a seal, behind which everything stays (R163). A second cell whose first went with an earlier placement
goes. -/
def State.chainTake (s : State) (l : List Cell) : Option (State × Nat) :=
  let r := s.row 0
  let gone := r.life == .idle
  if !gone && r.north.sealAt != .none then none
  else match l with
    | [] => none
    | a :: rest =>
      if cellSeals a then
        some (if gone then s else s.modRow 0 (fun r => { r with north := { r.north with sealAt := .flying } }), 1)
      else if cellEnds a then some (s, 1)
      else match rest with
        | [] => none
        | b :: _ =>
          if gone then some (s, 2)
          else if 128 ≤ r.north.entries.length + r.north.flight.length then none
          else some (s.modRow 0 (fun r => { r with
            north := { r.north with flight := r.north.flight ++ [entryOf a b] } }), 2)

/-- Cells that an earlier link of row 0 has left go on (R369). -/
def State.chainPast : Nat → State → State
  | 0, s => s
  | k + 1, s =>
    match s.chainTake s.job.chainOld with
    | some (t, n) => State.chainPast k (t.modJob (fun j => { j with chainOld := j.chainOld.drop n }))
    | none => s

/-- Chain cells that have arrived go on to row 0's north port while a placement has it at this link. Once row 0's hamper is written
they stay in their buffers (R169). Cells that come while no placement has the link are kept for the next one that has, which the
spec does not say (log entry 24). -/
def State.chainDeliver (p : Nat) : Nat → State → State
  | 0, s => s
  | k + 1, s =>
    let x := s.port p
    if (s.row 0).nbind != .link p || tget false s.job.saved 0 || !s.job.chainOld.isEmpty then s
    else match s.chainTake x.chainIn with
      | some (t, n) => State.chainDeliver p k (t.setPort p ({ x with chainIn := x.chainIn.drop n }.free 2 n))
      | none => s
def State.chainMove (s : State) (p : Nat) : State := State.chainDeliver p (s.port p).chainIn.length s
/-- What an earlier link has left goes on until row 0's hamper is written. -/
def State.chainBack (s : State) : State :=
  if tget false s.job.saved 0 then s else State.chainPast s.job.chainOld.length s

/-- Cells that make up whole messages. -/
def wholeCells : List Cell → List Cell
  | [] => []
  | [a] => if cellSeals a || cellEnds a then [a] else []
  | a :: b :: rest => if cellSeals a || cellEnds a then a :: wholeCells (b :: rest) else a :: b :: wholeCells rest

/-- Row 0's north port at a link that goes down (R369): what has landed goes on to it, and a seal behind that, at once or, under a
halt, after RESUME. -/
def State.chainShut (s : State) (p : Nat) : State :=
  if (s.row 0).nbind != .link p then s
  else ((s.modJob (fun j => { j with
    chainOld := j.chainOld ++ wholeCells (s.port p).chainIn ++ [cellOf 2 Config.sealKind true 0 0] })).modPort p
      (fun x => { x with chainIn := [] })).chainBack

/-- Everything that the ports have to send, or to pass on, moves as far as it can. -/
def State.pumpLinks (s : State) : State :=
  (List.range 16).foldl (fun s p =>
    if !(s.port p).up then s
    else
      let s1 := s.modPort p (fun x => (x.report p).drainAll p)
      let s2 := if (s1.row 511).sbind == .link p then State.sendChain p (s1.job.chainOut.length + 1) s1 else s1
      s2.chainMove p) s.pumpMsgs.chainBack

/-- A port goes down: its commands fault, its chain end's north port seals behind what has landed, and LINK_DOWN is reported.
What it has to send is lost. -/
def State.portDown (s : State) (p : Nat) : State :=
  let x := s.port p
  let s1 := (s.setPort p { x with up := false }).raise
    ⟨5, 0x8000 + 1 + p / 4, BitVec.ofNat 32 p, 0, none, s.unitClk 0x8000, 0, 0⟩
  let s2 := (linkCmds s1 (fun c => ((c.roles (s1.comm c.comm)).any (fun r => ((s1.comm c.comm).mask r.1).getLsbD p)))).foldl
    (fun s (d, e, c) => s.linkEnd d e 12 0 c) s1
  s2.chainShut p

/-- A link has failed: a port goes down, and a link inside the package is fatal (R27, R357). -/
def State.linkFails (s : State) (p : Nat) : State :=
  if p < 16 then s.portDown p else { s with agenda := .event (.fatal 2) :: s.agenda }

/-- An abort reaches this device (R369): its commands with the communicator and tag fault, and it goes on, once, to every member
that the device reaches. -/
def State.abort (s : State) (comm tag rank ser : Nat) : State :=
  if s.job.aborts.contains (comm, tag, rank, ser) then s
  else
    let s1 := (s.modJob (fun j => { j with aborts := j.aborts ++ [(comm, tag, rank, ser)] })).abortAll (fun c =>
      c.comm == comm && c.tag.toNat == tag)
    ((s.comm comm).reach.filter (· != rank)).foldl (fun s r =>
      s.send ⟨comm, r, BitVec.ofNat 32 tag, 4, 0, 0, rank, [], 1, ser⟩) s1

/-- A message of an abort: what the command that faulted has announced and sent is void (R361), and its partners here fault; one
that is to be passed on reaches every command of the communicator and tag. -/
def State.takeAbort (s : State) (comm tag rank ser : Nat) (on : Bool) : State :=
  let s1 := if on then s.abort comm tag rank ser
    else (s.modJob (fun j => { j with aborts := (comm, tag, rank, ser) :: j.aborts.filter (· != (comm, tag, rank, ser)) })).abortAll
      (fun c => c.comm == comm && c.tag.toNat == tag && c.mates.contains (rank, ser))
  s1.voidRx (fun x => x.ended s1.job.aborts)

/-- LINK_ABORT: an abort that names no command. What has come under its communicator and tag is void. -/
def execLinkAbort (comm tag : Nat) (s : State) : Host.Outcome State Fault Refusal :=
  let s1 := s.modJob (fun j => { j with linkStarts := j.linkStarts + 1 })
  .next ((s1.abort comm tag (s.comm comm).rank s.job.linkStarts).voidRx (fun x => x.comm == comm && x.tag.toNat == tag))

/-- The peer has taken every cell before a number, whose copies go; the number that is then the oldest has not failed yet. -/
def Port.acked (x : Port) (q : BitVec 16) : Port :=
  match x.copies.findIdx? (fun c => c.tag.extractLsb' 16 16 == q) with
  | some i => if i = 0 then x else { x with copies := x.copies.drop i, txFails := 0 }
  | none => if q == x.txSeq then { x with copies := [], txFails := 0 } else x
/-- The peer has freed k buffers of a channel; those of the chain are of the oldest cells. -/
def Port.credited (x : Port) (vc k : Nat) : Port :=
  { x with credit := tset 0 x.credit vc (tget 0 x.credit vc + k), trail := if vc = 2 then x.trail.drop k else x.trail }

/-- The peer asks for the cells from a number on; those before it have arrived (R27). -/
def State.replay (s : State) (p : Nat) (q : BitVec 16) : State :=
  let x := s.port p
  match x.copies.findIdx? (fun c => c.tag.extractLsb' 16 16 == q) with
  | some i =>
    if !s.linkOn p then s
    else if i ≠ 0 then s.setPort p { x with copies := x.copies.drop i, txFails := 1 }
    else if x.txFails + 1 < 16 then s.setPort p { x with txFails := x.txFails + 1 }
    else s.linkFails p
  | none => s

/-- REPLAY. -/
def execReplay (port : Nat) (seq : BitVec 16) (s : State) : Host.Outcome State Fault Refusal := .next (s.replay port seq)

/-- What one cell of a complete message does. One of a command whose abort has come before it is void (R361). -/
def State.takeNums (s : State) (p vc : Nat) (c : Cell) : State :=
  match vc, Config.cellNums c.tag c.payload with
  | 3, [0, comm, tag, rank, ser, on] => s.takeAbort comm tag rank ser (on != 0)
  | 3, [1, q, a, b, d, e] =>
    s.modPort p (fun x => ([a, b, d, e].zipIdx).foldl (fun x (k, v) => x.credited v k) (x.acked (BitVec.ofNat 16 q)))
  | 3, [2, q] => s.replay p (BitVec.ofNat 16 q)
  | 3, _ => s
  | _, [comm, peer, tag, kind, cmd, len, blk, ser] =>
    let x : Msg := ⟨comm, peer, BitVec.ofNat 32 tag, kind, cmd, len, blk,
      (List.range 64).map (fun i => c.payload.extractLsb' (8 * i) 8), c.tag.extractLsb' 32 32, ser⟩
    if x.ended s.job.aborts then s else s.modJob (fun j => { j with linkRx := j.linkRx ++ [x] })
  | _, _ => s

/-- Tag traffic: freed buffers and acknowledgements, and replay requests. -/
def tagTraffic (vc : Nat) (c : Cell) : Bool :=
  vc == 3 && (match Config.cellNums c.tag c.payload with | [1, _, _, _, _, _] | [2, _] => true | _ => false)

/-- A cell taken in order into a buffer of its channel: none where the channel has no free buffer (R25), which tag traffic does
not need. A message acts once its last cell has come. -/
def takeCell (s : State) (p : Nat) (c : Cell) : Option State :=
  let x := s.port p
  let vc := (c.tag.extractLsb' 0 2).toNat
  if tagTraffic vc c then some (s.takeNums p vc c)
  else if tget 0 x.room vc = 0 then none
  else
    let x1 := { x with room := tset 0 x.room vc (tget 0 x.room vc - 1) }
    if vc = 2 then some ((s.setPort p { x1 with chainIn := x.chainIn ++ [c] }).chainMove p)
    else
      let l := tget [] x.parts vc ++ [c]
      if !c.tag.getLsbD 8 then some (s.setPort p { x1 with parts := tset [] x.parts vc l })
      else some (l.foldl (fun s c => s.takeNums p vc c)
        (s.setPort p ({ x1 with parts := tset [] x.parts vc [] }.free vc l.length)))

/-- ADYAN_CELL (R26, R27): a cell that fails its CRC or its number is discarded, and so is every later one until the number
that the receiver asks for has come; the sixteenth failure of one number fails the link. While a replay is asked for, a cell whose
number is not the one asked for is dropped and counts for nothing, whether or not its CRC holds, which R27 does not say (log
entry 24). The cell that is expected is taken. A link inside the package counts in the same way, and its cells' effects are those
of the traffic that they carry (log entry 24). -/
def execAdyanCell (port : Nat) (c : Cell) (s : State) : Host.Outcome State Fault Refusal :=
  let x := s.port port
  let mine := c.tag.extractLsb' 16 16 == x.rxSeq
  let whole := c.crc == Config.crc24 c.payload c.tag && c.tag.extractLsb' 9 7 == 0
  if !s.linkOn port then .next s
  else if !(whole && mine) then
    if x.asked && !mine then .next s
    else if x.rxFails + 1 < 16 then
      .next (s.setPort port { x with rxFails := x.rxFails + 1, asked := true, ask := true })
    else .next (s.linkFails port)
  else
    let next (s : State) : State := s.modPort port (fun x => { x with rxSeq := x.rxSeq + 1, rxFails := 0, asked := false, due := x.due + 1 })
    if 16 ≤ port then .next (next s)
    else match takeCell s port c with
      | none => .next s
      | some s1 => .next (next s1)

end Sys2Proof.Machine
end

