-- ==== Sys2Proof/Machine/Fetch.lean ====
section
/-! DEFINITION. Fetching a clause from memory (R42, R43), and what a row may execute while a command rewrites code (R47). -/

namespace Sys2Proof.Machine

/-- Addresses of the bytes that a command has still to write, other than a commit's. -/
def Cmd.still (c : Cmd) : List W64 :=
  let run (a : W64) (i n : Nat) : List W64 := ((List.range n).drop i).map (fun k => a + BitVec.ofNat 64 k)
  let box (k : Nat) : List W64 := ((List.range c.into.work).drop k).flatMap (fun i => run (c.into.pieceAddr i) 0 c.into.piece)
  match c.kind with
  | 1 => run (c.word 3) c.pos (c.word 4).toNat
  | 2 | 3 | 4 | 5 => box c.pos
  | 8 => box (c.pos / c.into.piece)
  | 0x14 => run (c.word 3) (if c.pos < (c.word 4).toNat then 0 else c.pos - (c.word 4).toNat) (c.word 4).toNat
  | _ => run (c.word 3) c.pos (c.word 4).toNat

/-- The keys of those bytes. -/
def State.stillKeys (s : State) (d e : Nat) (c : Cmd) : List Nat :=
  if c.kind = 6 then
    match s.job.commit with
    | some b => if b.die == d && b.eng == e then ((b.writes (c.word 10).toNat).drop (8 * c.pos)).map Prod.fst else []
    | none => []
  else c.still.filterMap (fun x => match (s.engKey d e (if 0x10 ≤ c.kind then 4 else d) x .write).1 with
    | .ok k => some k
    | .error _ => none)

/-- A command of an engine that is at work has written some of the clause that it makes at an address, and has nothing more to write
there. -/
def State.rewritten (s : State) (a : Va) (pa : Nat) (d e : Nat) (c : Cmd) : Bool :=
  let n := match clauseFrom (s.codeOver c) a pa with | some k => 8 * (k.words.length + 1) | none => 8
  (List.range n).any (fun i => (tget none c.undo (pa + i)).isSome)
    && (s.stillKeys d e c).all (fun k => k < pa || pa + n ≤ k)

/-- The clause at a physical address (R47): the words from before the commands at work that write there, or, by a free bit, the
new words of a command that has nothing more to write there; never some of both. -/
def State.clauseAt (s : State) (a : Va) (pa : Nat) : Option Clause :=
  let l := ([0, 1, 2, 3] : List Nat).flatMap (fun d => (List.range 8).filterMap (fun e => (s.eng d e).cmd.map (fun c => (d, e, c))))
  match l.find? (fun x => s.rewritten a pa x.1 x.2.1 x.2.2) with
  | some x => clauseFrom (if Config.freeBit s.drawn pa then s.codeOver x.2.2 else s.codeByte 0) a pa
  | none => clauseFrom (s.codeByte 0) a pa

/-- Row n reads the clause at an address into its instruction cache (R43); the cause otherwise. -/
def State.readClause (s : State) (n : Nat) (a : Va) : Except W8 Clause × State :=
  if a.getLsbD 55 then (.error cXlate, s)
  else match s.translate (dieOf n) a.toNat .fetch with
    | (.error c, s) => (.error c, s)
    | (.ok pa, s) =>
      match s.clauseAt a pa with
      | none => (.error cIllClause, s)
      | some c => (.ok c, s.draw.modRow n (fun r => { r with icache := tset Clause.none r.icache a.toNat c }))

/-- Row n fetches the clause at an address: one that its cache holds may be used again (R47). -/
def State.fetchClause (s : State) (n : Nat) (a : Va) : Except W8 Clause × State :=
  let old := tget Clause.none (s.row n).icache a.toNat
  if !old.words.isEmpty && Config.freeBit s.drawn a.toNat then (.ok old, s.draw) else s.readClause n a

end Sys2Proof.Machine
end

