-- ==== Sys2Proof/Machine/RowEvents.lean ====
section
/-! DEFINITION. What happens to a row between its instructions: clause boundaries (R43, R46, R378), deferred traps (R336,
R337) and the completion of its operations (R49). -/

namespace Sys2Proof.Machine

/-! ### Deferred traps -/

/-- DEFERRED_TRAP: a row that waits before an instruction, or stands at a clause boundary, takes its deferred trap. -/
def execDeferredTrap (row : Nat) (s : State) : Host.Outcome State Fault Refusal := .next (s.takeDue row)

/-! ### Clause boundaries -/

/-- The wait set of a clause is met in the current arm's copy (R46, R98). -/
def Row.waitMet (r : Row) (c : Clause) : Bool := c.wait &&& r.arm.flags == 0

/-- A row that stands inside a clause whose words are not at hand reads them again and goes on, with no wait test and no new
grant (R46, R340). A clause that no longer holds its pc makes the pc a header. -/
def State.reenter (s : State) (n : Nat) : State :=
  let a := (s.row n).arm
  match s.fetchClause n a.clause.hdr with
  | (.ok c, s1) =>
    if c.inside a.pc then
      s1.modRow n (fun r => { r with arm := { r.arm with clause := c } })
    else s1.modRow n (fun r => { r with arm := r.arm.goto a.pc })
  | (.error e, s1) => s1.trapHere n e (a.clause.hdr.setWidth 64)

/-- A clause starts: its words are at hand and its first instruction is next. -/
def Row.startClause (r : Row) (c : Clause) : Row :=
  { r with arm := { r.arm with clause := c, pc := c.hdr + 8 }, req := none, granted := false, wait := none }

/-- CLAUSE_ISSUE: at a clause boundary the row takes a deferred trap, or reads and checks the header, tests the wait set and
asks for a grant; once granted it starts the clause (R43, R46, R378). -/
def execClauseIssue (row : Nat) (s : State) : Host.Outcome State Fault Refusal :=
  let r := s.row row
  let a := r.arm
  if !s.live row || !a.clause.words.isEmpty then .next s
  else if a.clause.hdr != a.pc then .next (s.reenter row)
  else match r.granted, r.req with
    | true, some c => .next (s.modRow row (fun r => r.startClause c))
    | _, _ => match r.nextDeferred with
      | some d => .next (s.takeDeferred row d)
      | none =>
        match r.req with
        | none =>
          match s.fetchClause row a.pc with
          | (.error c, s1) => .next (s1.trapHere row c (a.pc.setWidth 64))
          | (.ok c, s1) =>
            let s2 := s1.modRow row (fun r => { r with req := some c, withheld := 0 })
            .next (if r.waitMet c then s2 else s2.waitFor row .flags)
        | some c =>
          .next (if r.waitMet c then s.modRow row (fun r => { r with wait := none }) else s.waitFor row .flags)

/-! ### Completion (R49) -/

/-- Operation `id`, a PEGW, takes the oldest fire of an entry that none has taken (R218). What it wrote is a later write than the
row's accesses before the PEGW, as long as some are still to be performed (R248). -/
def Row.takeFire (r : Row) (i id : Nat) : Row :=
  let e := r.pegAt i
  let late (t : Nat) : Bool := !r.drainedTo t
  { r.setPeg i { e with unc := e.unc - 1 } with
    landed := (r.landed.map (fun x =>
      if x.peg = i && x.taken.isNone then (if x.ahead = 0 then { x with taken := some id } else { x with ahead := x.ahead - 1 }) else x)).filter
        (fun x => match x.taken with | some t => late t | none => true) }

/-- A PEGW may complete (R218): its entry is free; a fire is left for the oldest PEGW on it; or it is spent with none left.
The row after it. -/
def Row.pegwEnd (r : Row) (o : Op) (i : Nat) : Option Row :=
  let e := r.pegAt i
  let first := match r.pegws i with | x :: _ => x.id == o.id | [] => false
  if e.st == .free then some (r.endOp o)
  else if 0 < e.unc then (if first then some ((r.takeFire i o.id).endOp o) else none)
  else if e.st == .spent then some (r.endOp o)
  else none

/-- One step of operation `o` of row n towards its completion, with the operation's results and what they order. The acquire
that a CWAIT makes as it completes comes after the row's earlier volatile accesses (R240, R290). -/
def opStep (s : State) (n : Nat) (o : Op) (sel : Nat) (ecc : Bool) : State :=
  let r := s.row n
  let halted := (s.die (dieOf n)).halted
  match o.kind with
  | .load _ _ _ _ ord es =>
    if es.all (fun e => e.val.isSome || e.bad) then (s.modRow n (fun r => r.complete o)).acquired n ord
    else (performLoad s n o.id sel ecc).getD s
  | .atomic _ _ _ 0 _ es => if es.all (fun e => e.old.isSome || e.bad) then s.modRow n (fun r => r.complete o) else s
  | .fence k sc => if (s.orderRow n).fenceReady o.id k then fenceEffect (s.modRow n (fun r => r.endOp o)) (dieOf n) k sc else s
  | .wld .. => wldStep s n o ecc
  | .cwait d e t _ =>
    if halted || (s.eng d e).seq.ult t || (r.earlier o.id).any (fun x => x.kind.open_ && x.kind.ord == .volatile) then s else (s.modRow n (fun r => r.endOp o)).acquireAt (dieOf n) .device
  | .pegw i _ _ => if halted then s else match r.pegwEnd o i with | some r' => s.setRow n r' | none => s
  | _ => s

/-- OPERATION_COMPLETE: an element of a long-latency operation is performed, or, once all are, it completes. -/
def execOperationComplete (row id sel : Nat) (ecc : Bool) (s : State) : Host.Outcome State Fault Refusal :=
  match (s.row row).findOp id with
  | some o => .next (opStep s row o sel ecc)
  | none => .next s

end Sys2Proof.Machine
end

