-- ==== Sys2Proof/Machine/System.lean ====
section
/-! DEFINITION. The system instructions TRAP, ERET, IDEM, IDEND, YIELD, RDCYC and HALT (R339 to R346), and PHINT (R387). -/

namespace Sys2Proof.Machine

/-- R339: SOFTWARE is taken after the instruction, at the address of the next word. -/
def execTrap (g : Guard) (code : BitVec 16) (s : State) : Host.Outcome State Fault Refusal :=
  issueQ { nest := true, priv := true } g (fun s n _ =>
    let a := (s.row n).arm
    .halt (s.trap n cSoftware (code.setWidth 64) (a.pc + 8) a.clause)) s

/-- Leaving handler mode (R340): a trap recorded at a header is left with that header's clause read, where csr.epc may lie
inside it; a header that does not fetch has no clause. -/
def State.eret (s : State) (n : Nat) : State :=
  let r := s.row n
  let c := r.trapClause
  let k := (r.csr.epc - c.hdr).toNat
  if c.words.isEmpty && 8 ≤ k && k ≤ 128 then
    match s.fetchClause n c.hdr with
    | (.ok c1, s1) => s1.modRow n (fun r => r.leaveTrap c1)
    | (.error _, s1) => s1.modRow n (fun r => r.leaveTrap c)
  else s.modRow n (fun r => r.leaveTrap c)

/-- R340. -/
def execEret (g : Guard) (s : State) : Host.Outcome State Fault Refusal :=
  issueQ {} g (fun s n _ => if (s.row n).handler then .jump (s.eret n) false else .trap cPriv 0 s) s

/-- The snapshot that IDEM takes (R344). -/
def Row.snapshot (v : Row) (m : SReg) : Region :=
  { s := v.s, q := v.q, em := v.arm.em, held := v.arm.held, p := v.p, fflags := v.csr.fflags, mflags := v.csr.mflags
    rng := v.csr.rng, depth := v.tokdepth, live := v.sreg m.toNat, entry := v.arm.pc + 8 }

/-- R344. -/
def execIdem (g : Guard) (m : SReg) (s : State) : Host.Outcome State Fault Refusal :=
  issueQ { priv := true, cycles := fun r => if r.guardQ g then 1 + r.L / 32 else 1 } g (fun s n v =>
    let r := s.row n
    if r.region.isSome then .trap cIdemNest 2 s
    else if r.other.isSome then .trap cIdemNest 4 s
    else .done (s.setRow n { r with region := some (v.snapshot m) })) s

/-- R346. -/
def execIdend (g : Guard) (s : State) : Host.Outcome State Fault Refusal :=
  issueQ { priv := true } g (fun s n _ =>
    if (s.row n).region.isSome then .done (s.modRow n (fun r => { r with region := none })) else .trap cIdemNest 3 s) s

/-- R341: YIELD stands last, and issue passes to the other arm whatever y holds. -/
def execYield (g : Guard) (s : State) : Host.Outcome State Fault Refusal :=
  issueQ { nest := true, priv := true } g (fun s n _ =>
    let r := s.row n
    .jump (s.setRow n (Row.endClause true { r with arm := r.arm.goto (r.arm.pc + 8) })) false) s

/-- The clk since the row thread started, but for those of a pre-emption (R342). -/
def State.runCount (s : State) (n : Nat) : W64 :=
  let r := s.row n
  s.rowClk n - r.runBase + BitVec.ofNat 64 r.runAcc

/-- R342. -/
def execRdcyc (g : Guard) (d : SReg) (run : Bool) (s : State) : Host.Outcome State Fault Refusal :=
  issueQ { hold := fun r => r.pendS d.toNat } g (fun s n _ =>
    .done (s.modRow n (fun r => r.setS d.toNat (if run then s.runCount n else s.clkOf n)))) s

/-- R343: the row stops, with its ROW_HALT event; it continues at the word after HALT. -/
def execHalt (g : Guard) (code : BitVec 16) (s : State) : Host.Outcome State Fault Refusal :=
  issueQ { nest := true } g (fun s n _ =>
    let next := (s.row n).arm.pc + 8
    .halt ((s.modRow n (fun r => { r.advance with
        life := .stopped, haltPc := next, haltVal := code.setWidth 64, req := none, granted := false })).raise
      ⟨2, n, code.setWidth 32, next.setWidth 64, none, s.clkOf n, 0, 0⟩)) s

/-- R387 on one unit; `idle` where no operation is in it, E its break-even time. -/
def Bank.phint (wake idle : Bool) (E n : Nat) (clk : W64) (b : Bank) : Bank :=
  if wake then { b.ask E clk with hint := none }
  else if n = 0 then { b with hint := none }
  else { b with hint := some n, hold := if idle && !b.banked then none else b.hold, banked := b.banked || (idle && decide (E ≤ n)) }

def execPhint (g : Guard) (wake : Bool) (units : BitVec 2) (n : BitVec 24) (s : State) :
    Host.Outcome State Fault Refusal :=
  issueQ { nest := true } g (fun s k _ =>
    let clk := s.rowClk k
    .done (s.modRow k (fun r =>
      { r with
        mat := if units.getLsbD 0 then r.mat.phint wake r.matIdle matE n.toNat clk else r.mat
        fp := if units.getLsbD 1 then r.fp.phint wake true fpE n.toNat clk else r.fp }))) s

end Sys2Proof.Machine
end

