-- ==== Sys2Proof/Machine/Placement.lean ====
section
/-! DEFINITION. Starting a row thread (R13), securing parts and starting placements (R23, R303 to R305, R375), and the
retirement of rows and the end of placements (R34, R35, R164, R247, R323). -/

namespace Sys2Proof.Machine

/-! ### Starting a row thread -/

/-- The lowest deficit of the other running rows of row n's domain (R379). -/
def State.startDeficit (s : State) (n : Nat) : Nat :=
  let l := ((List.range 32).map (fun i => 32 * domOf n + i)).filter (fun m => m != n && (s.row m).life == .running)
  match l with
  | [] => 0
  | m :: ms => ms.foldl (fun d k => min d (s.row k).deficit) (s.row m).deficit

/-- Table 01-3: registers and accumulators left in place, everything else at its value at start. -/
def State.freshRow (s : State) (n L : Nat) (entry : Va) : Row :=
  let r := s.row n
  { Row.reset with
    life := .running, L := L, v := r.v, ac := r.ac
    arm := { Arm.reset with em := laneMask L }.goto entry
    csr := { Csrs.reset with
      tvec := s.job.tvec, hamper := s.job.hamper + BitVec.ofNat 56 (2 ^ 18 * n), pclass := r.csr.pclass, pweight := r.csr.pweight }
    pool := r.pool, unbind := r.unbind, resident := r.resident, mat := r.mat, fp := r.fp
    runBase := s.rowClk n, deficit := s.startDeficit n }

/-- csr.groups of row n (R302). -/
def groupsCsr (p : Pl) (n : Nat) : W64 :=
  let gs := p.groupsOf n
  BitVec.ofNat 64 (gs.zipIdx.foldl (fun a (g, k) => a + g.num.toNat * 2 ^ (8 * k) + 2 ^ (32 + k)) 0
    + p.first * 2 ^ 36 + p.rows * 2 ^ 45)

/-- The link-bound south end holds nothing: what it had still to send is discarded, and what it has sent counts no more (R155,
R164). -/
def State.newChain (s : State) (b : Bind) : State :=
  match b with
  | .link p => (s.modJob (fun j => { j with chainOut := [], chainSeal := false })).modPort p (fun x =>
      { x with trail := x.trail.map (fun _ => false) })
  | _ => s

/-- The link-bound north end of row 0 is emptied: its buffers are free again (R25). -/
def State.emptyChain (s : State) (n : Nat) : State :=
  let r := s.row n
  match r.nbind with
  | .link p => s.modPort p (fun x => x.free 2 (2 * (r.north.entries.length + r.north.flight.length)))
  | _ => s
/-- At the end of the placement what has arrived behind it goes too. -/
def State.dropChain (s : State) (n : Nat) : State :=
  match (s.row n).nbind with
  | .link p => ((s.emptyChain n).modJob (fun j => { j with chainOld := [] })).modPort p (fun x =>
      { x with chainIn := [] }.free 2 x.chainIn.length)
  | _ => s

/-- The job's chain ends go with it: what has come is dropped, and what has been sent counts for no placement. -/
def State.endChains (s : State) : State :=
  (s.job.rows.foldl (fun t e => t.dropChain e.1) s).modDev (fun d => { d with
    ports := d.ports.map (fun e => (e.1, { e.2 with trail := e.2.trail.map (fun _ => false) })) })

/-- Row n of a placement starts. A chain end whose link is down has its seal at once (R369), with nothing before it. -/
def State.startPlaced (s0 : State) (p : Pl) (n : Nat) : State :=
  let r := s0.freshRow n p.width p.entry
  let top := n == p.first
  let foot := n == p.first + p.rows - 1
  let dead := top && (match p.north with | .link k => !(s0.port k).up | _ => false)
  let s1 := match p.north with | .link k => if dead then s0.modPort k (fun x => { x with chainIn := [] }) else s0 | _ => s0
  let s := if foot then s1.newChain p.south else s1
  s.setRow n { r with
    north := { Fifo.reset with sealAt := if dead then .present else .none }
    s := tsets 0 [] [(1, p.param), (2, BitVec.ofNat 64 (n - p.first)), (3, BitVec.ofNat 64 p.rows)]
    csr := { r.csr with
      placement := BitVec.ofNat 64 (p.num + p.pri * 2 ^ 32), groups := groupsCsr p n
      pclass := BitVec.ofNat 2 p.cls, pweight := BitVec.ofNat 4 p.weight }
    pl := some p.num, nbind := if top then p.north else .row, sbind := if foot then p.south else .row }

/-! ### Free rows and domains (R304, R375) -/

/-- Row n is secured by a part that waits for its placement's start. -/
def State.secured (s : State) (n : Nat) : Bool :=
  s.job.pls.any (fun p => p.st == .queued && p.secured.contains (dieOf n) && p.band.contains n)
/-- Row n belongs to a running placement. -/
def State.placed (s : State) (n : Nat) : Bool := s.job.pls.any (fun p => p.st == .running && p.band.contains n)
def State.rowFree (s : State) (n : Nat) : Bool :=
  (s.row n).life == .idle && (s.row n).pool.isNone && !s.placed n && !s.secured n
/-- R375: no row thread, no pool and no secured row in the domain. -/
def State.domIdle (s : State) (d : Nat) : Bool :=
  (List.range 32).all (fun i =>
    let n := 32 * d + i
    (s.row n).life == .idle && (s.row n).pool.isNone && !s.secured n)
/-- The class of a domain, or the one it is being given. -/
def State.domClass (s : State) (d : Nat) : Nat := (s.dom d).reassign.getD (s.dom d).cls
/-- Row n is free for a part of a class. -/
def State.freeFor (s : State) (cls n : Nat) : Bool :=
  s.rowFree n && (s.domClass (domOf n) == cls || s.domIdle (domOf n))

/-! ### Parts (R304) -/

/-- Candidate positions of a part on die d, lowest first. -/
def State.positions (s : State) (p : Pl) (d : Nat) : List (List Nat) :=
  match p.top with
  | some _ => [p.bandOn d]
  | none =>
    ((List.range (129 - p.rows)).map (fun i => 128 * d + i)).filterMap (fun t =>
      let rows := (List.range p.rows).map (fun i => t + i)
      let north := match p.north with | .link _ => t == 0 | _ => true
      let south := match p.south with | .link _ => t + p.rows == 512 | _ => true
      if north && south && rows.all (fun n => !s.secured n) then some rows else none)

/-- Parts on die d in the order in which they are served. Of the placement priorities 3 is the most urgent, as of the task
queues (R318): the spec does not say which number is the highest (log entry 56). -/
def State.parts (s : State) (d : Nat) : List Pl := ([3, 2, 1, 0].flatMap (fun q => s.plq d q)).filterMap s.findPl

/-- A part behind the head may start on free rows (R304, R305, R375): outside every position of the head and, where its class
is another, outside the head's domains too; and only where nothing else of its placement is still to be secured, so that it
holds no row that it does not start on. -/
def backfills (d : Nat) (h : Pl) (ps : List (List Nat)) (p : Pl) (rows : List Nat) : Bool :=
  (p.dies.filter (· != d)).all p.secured.contains
    && rows.all (fun n => !ps.any (fun q => q.contains n || (p.cls != h.cls && q.any (fun m => domOf m == domOf n))))

/-- The part and rows to secure next: the head's lowest free position, or a later part's that may go before it. -/
def State.nextSecure (s : State) (d : Nat) : Option (Pl × List Nat) :=
  match s.parts d with
  | [] => none
  | h :: rest =>
    let ps := s.positions h d
    match ps.find? (fun l => l.all (s.freeFor h.cls)) with
    | some l => some (h, l)
    | none =>
      rest.findSome? (fun p => ((s.positions p d).find? (fun l =>
        l.all (s.freeFor p.cls) && backfills d h ps p l)).map (fun l => (p, l)))

/-- A part secures rows: its domains are reassigned where their class is another, and it leaves its queue. -/
def State.secure (s : State) (d : Nat) (p : Pl) (rows : List Nat) : State :=
  let s1 := (rows.map domOf).eraseDups.foldl (fun s m =>
    if s.domClass m == p.cls then s else s.modDom m (fun x => { x with reassign := some p.cls })) s
  let p1 := { p with secured := p.secured ++ [d], topAt := if p.top.isNone then rows.head? else p.topAt }
  ((s1.setPl p1).modDie d (fun x => { x with plq := tset [] x.plq p.pri ((tget [] x.plq p.pri).erase p.num) })).pump

/-- PART_SECURE on a die. -/
def execPartSecure (die : Nat) (s : State) : Host.Outcome State Fault Refusal :=
  if (s.die die).halted then .next s
  else match s.nextSecure die with
    | some (p, rows) => .next (s.secure die p rows)
    | none => .next s

/-- DOMAIN_REASSIGN: the reassignment of an idle domain is over (R375). -/
def execDomainReassign (dom : Nat) (s : State) : Host.Outcome State Fault Refusal :=
  .next (s.modDom dom (fun x => match x.reassign with | some c => { x with cls := c, reassign := none } | none => x))

/-- Every part has secured its rows, and no reassignment of their domains is under way (R23, R375). -/
def State.gangReady (s : State) (p : Pl) : Bool :=
  p.st == .queued && p.dies.all p.secured.contains && p.band.all (fun n => (s.dom (domOf n)).reassign.isNone)
    && p.dies.all (fun d => !(s.die d).halted)

/-- GANG_START: every row of the placement begins, after an acquire at device scope (R313). -/
def execGangStart (pl : Nat) (s : State) : Host.Outcome State Fault Refusal :=
  match s.findPl pl with
  | none => .next s
  | some p =>
    if s.gangReady p then
      let s1 := p.dies.foldl (fun s d => s.acquireAt d .device) (s.setPl { p with st := .running })
      .next (p.band.foldl (fun s n => s.startPlaced p n) s1)
    else .next s

/-! ### Retirement (R34, R309) and the end of a placement (R35) -/

/-- The granules of row n become unowned (R247). -/
def State.freeOwned (s : State) (n : Nat) : State :=
  s.modJob (fun j => { j with owner := j.owner.filter (fun e => e.2 != BitVec.ofNat 10 n) })

/-- The last row has retired and the copy commands that its rows issued have completed: writes visible, granules freed, FIFOs
discarded, dependants released. A slot of a circular buffer that the north edge has taken and whose entries have not all been
popped stays taken (log entry 27). -/
def State.endPlacement (s : State) (num : Nat) : State :=
  match s.findPl num with
  | none => s
  | some p =>
    if p.st == .running && p.band.all (fun n => !s.member p n) && !s.copying num then
      let s1 := p.dies.foldl State.writeBack s
      let s2 := p.band.foldl (fun s n => ((s.freeOwned n).dropChain n).modRow n (fun r =>
        { r with north := .reset, edgeOut := [], edgeIn := [], edgeNext := 0, edgeSlot := none, edgeFill := 0, unseen := 0
                 nbind := .closed, sbind := .closed })) (s1.newChain p.south)
      ((s2.setPl { p with st := .ended }).raise ⟨3, 0x8000, BitVec.ofNat 32 num, 0, none, s.unitClk 0x8000, 0, 0⟩).pump
    else s

/-- Row n's outstanding operations have completed (R34, step 1). -/
def Row.finished (r : Row) : Bool :=
  r.ops.isEmpty && r.matIdle && r.edgeOut.isEmpty && r.peg.all (fun e => e.2.fires.isEmpty)

/-- The row thread is gone: nothing of it remains but the register file and the accumulators. -/
def Row.gone (r : Row) : Row :=
  { r with
    life := .idle, pl := none, peg := [], deferred := [], region := none, other := none, armsTok := none, handler := false
    req := none, granted := false, vgranted := false, wait := none, tjoin := none, tjoinLeft := [], taskBuf := []
    landed := [], again := false, retake := false, transfer := false }

/-- The end of a placement whose rows have all retired, row n among them, once its copy commands have completed (R35). -/
def State.endLate (s : State) (n : Nat) : State :=
  match s.job.pls.find? (fun p => p.st == .running && p.band.contains n) with
  | some p => s.endPlacement p.num
  | none => s

/-- ROW_RETIRE: the seal, the pegs, the groups, and the end of the placement or of the wave. On a row that is already gone it
is the end of a placement that has waited for its copy commands alone. -/
def execRowRetire (row : Nat) (s : State) : Host.Outcome State Fault Refusal :=
  let r := s.row row
  if (s.die (dieOf row)).halted then .next s
  else if r.life == .idle then .next (s.endLate row)
  else if r.life != .retiring || !r.finished then .next s
  else
    let s1 := s.releaseAt (dieOf row) .device
    match r.pool with
    | some _ =>
      .next ((s1.freeOwned row).modRow row (fun r =>
        let g := r.gone
        if g.unbind then { g with pool := none, unbind := false, csr := { g.csr with taskpool := 0 } } else g))
    | none =>
      let s2 := s1.sealSouth row
      let s3 := match r.sbind with | .cb b => edgeSouth s2 row b | _ => s2
      let s4 := if r.nbind == .row then s3.modRow (row - 1) (fun q => { q with southGone := true }) else s3
      let s5 := (s4.emptyChain row).modRow row (fun q => { q.gone with north := { q.north with entries := [], flight := [] } })
      match r.pl with
      | none => .next s5
      | some k =>
        let gs := match s.findPl k with | some p => (p.groupsOf row).map (fun (g : Group) => g.num.toNat) | none => []
        .next (((gs.foldl (fun s g => s.leaveGroup row k g) s5).releaseEarly k).endPlacement k)

end Sys2Proof.Machine
end

