-- ==== Sys2Proof/Machine/Tasks.lean ====
section
/-! DEFINITION. Tasks: SPAWN, TJOIN, TARG and TEND (R325 to R330, R414), the task queues, the wave former and stealing (R318
to R324), and the enqueues and decrements that follow (R327, R333). -/

namespace Sys2Proof.Machine

/-! ### Records and queues -/

/-- Word k of a record (R316). -/
def TaskRec.word (t : TaskRec) (k : Nat) : W32 :=
  if k < 2 then t.entry.extractLsb' (32 * k) 32
  else if k < 4 then t.frame.extractLsb' (32 * (k - 2)) 32
  else if k < 6 then t.join.extractLsb' (32 * (k - 4)) 32
  else tget 0 t.args (k - 6)
/-- The bytes of a record, and a record from its bytes. -/
def TaskRec.bytes (t : TaskRec) : List W8 := (List.range 16).flatMap (fun k => leList 4 (t.word k).toNat)
def recOf (b : List W8) : TaskRec :=
  let num (o n : Nat) : Nat := leVal ((b.drop o).take n)
  ⟨BitVec.ofNat 64 (num 0 8), BitVec.ofNat 64 (num 8 8), BitVec.ofNat 64 (num 16 8),
   tabulate 0 10 (fun j => BitVec.ofNat 32 (num (24 + 4 * j) 4))⟩

def State.tq (s : State) (d q : Nat) : TQueue := tget .reset (s.die d).queues q
def State.setTq (s : State) (d q : Nat) (x : TQueue) : State :=
  s.modDie d (fun y => { y with queues := tset .reset y.queues q x })
/-- Slots of a queue: none until it is configured (R318). -/
def TQueue.slots (x : TQueue) : Nat := if x.k = 0 then 0 else 2 ^ x.k
/-- Slots that neither hold a record nor are reserved (R326). -/
def TQueue.free (x : TQueue) : Nat := x.slots - x.count - x.reserved

/-- Where slot i of a queue's ring lies: none where its page is not mapped for the use. -/
def State.ringSlot (s : State) (d : Nat) (x : TQueue) (i : Nat) (use : Use) : Option Nat × State :=
  match s.translate d (x.base.toNat + 64 * (i % x.slots)) use with
  | (.ok pa, s) => (some pa, s)
  | (.error _, s) => (none, s)

/-- A record enters its queue: the ring's memory holds it (log entry 23). -/
def State.enqueue (s : State) (d q : Nat) (t : TaskRec) : State :=
  let x := s.tq d q
  let (slot, s1) := s.ringSlot d x (x.head + x.count) .write
  let s2 := match slot with | some pa => s1.setBytes pa t.bytes | none => s1
  (s2.setTq d q { x with count := x.count + 1 }).modDie d (fun y => { y with steal := ⟨y.steal.asked, none⟩ })

/-- The oldest record of a queue leaves it, as the ring's memory holds it; free bytes where its page cannot be read. -/
def State.dequeue (s : State) (d q : Nat) : TaskRec × State :=
  let x := s.tq d q
  let (slot, s1) := s.ringSlot d x x.head .read
  let s2 := s1.setTq d q { x with count := x.count - 1, head := (x.head + 1) % x.slots }
  match slot with
  | some pa => (recOf (s1.bytes pa 64), s2)
  | none => (recOf ((List.range 64).map (fun i => BitVec.ofNat 8 (Config.freeNat s.drawn i))), s2.draw)

/-! ### SPAWN (R326) -/

/-- The word of a lane's record. -/
def spawnRec (v : Row) (E J : W64) (c : SReg) (vf : VReg) (nargs : Nat) (va : VReg) (l : Nat) : TaskRec :=
  ⟨E, v.sreg c.toNat + (if vf = 0 then 0 else (v.vreg vf.toNat l).signExtend 64), J,
   tabulate 0 10 (fun j => if j < nargs then v.vreg (va.toNat + j) l else 0)⟩

/-- One atomic add of row n at a location's home, at its place `k` among the row's accesses: the value that was there. -/
def State.atomicAdd (s : State) (n k key : Nat) (x : Nat) : Nat × State :=
  let s1 := s.flushFor (dieOf n) key 8
  let old := leVal (s1.ownBytes n k key 8)
  (old, (s1.storeBytes n k false key (leList 8 ((old + x) % 2 ^ 64))).codeLands key 8)

/-- R326, after the test: the release, which waits for the row's earlier accesses, then the counter and the records. -/
def spawnSend (s : State) (n : Nat) (w : Spawn) : Res :=
  let d := dieOf n
  if !(s.row n).drained then .wait .memory (s.modRow n (fun r => { r with spawn := some w }))
  else
    let s1 := s.releaseAt d .device
    let s2 := match w.key with | some k => (s1.atomicAdd n (s1.row n).nextId k w.recs.length).2 | none => s1
    .done ((s2.modDie d (fun y => { y with arriving := y.arriving ++ [⟨w.pri, w.recs⟩] })).modRow n
      (fun r => { r with spawn := none }))

/-- R326. The queue is tested and its slots are reserved in one step, and the SPAWN then waits for its release with its records
as it read them. Of register numbers at or above the count, R325 does not say which csr.tval names: those of the arguments
come first, the lowest first, then vF (log entry 58). -/
def execSpawn (g : Guard) (a b c : SReg) (inc : Bool) (pri : BitVec 2) (vf : VReg) (nargs : BitVec 4) (va : VReg)
    (s : State) : Host.Outcome State Fault Refusal :=
  issueWord { regs := (List.range nargs.toNat).map (fun j => va.toNat + j) ++ (if vf = 0 then [] else [vf.toNat])
              nest := true, access := (s.row s.cur).spawn.isNone, cycles := Row.passes }
    (fun r => r.spawn.isSome || r.anyActs g) (fun s n v => match (s.row n).spawn with
    | some w => spawnSend s n w
    | none =>
    let E := v.sreg a.toNat
    let J := v.sreg b.toNat
    let ls := v.actLanes g
    let d := dieOf n
    let x := s.tq d pri.toNat
    if E.extractLsb' 56 8 != 0 || E.getLsbD 55 then .trap cBounds E s
    else if E &&& 7 != 0 then .trap cMisalign E s
    else if J != 0 && J &&& 63 != 0 then .trap cMisalign J s
    else
      let (k, s1) := if inc then atomKey n 8 (.rel .device) s J else (.ok 0, s)
      match k with
      | .error e => .trap e J s1
      | .ok key =>
        if x.free - 64 < ls.length then .trap cTaskQueueFull (BitVec.ofNat 64 (x.free - 64)) s1
        else spawnSend (s1.setTq d pri.toNat { x with reserved := x.reserved + ls.length }) n
          ⟨pri.toNat, if inc then some key else none, ls.map (spawnRec v E J c vf nargs.toNat va)⟩) s

/-- TASK_ENQUEUE: the records of one SPAWN on their way to a queue enter it, in the order in which they arrive (R326). -/
def execTaskEnqueue (die : Nat) (s : State) : Host.Outcome State Fault Refusal :=
  let l := (s.die die).arriving
  match l[Config.freeNat s.drawn 0 % l.length]? with
  | none => .next s
  | some x =>
    let s1 := s.draw.modDie die (fun y => { y with arriving := l.erase x })
    let q := s1.tq die x.pri
    .next (x.recs.foldl (fun s t => s.enqueue die x.pri t) (s1.setTq die x.pri { q with reserved := q.reserved - x.recs.length }))

/-! ### TJOIN (R327, R414) -/

/-- j(l). -/
def joinAddr (v : Row) (a : SReg) (l : Nat) : W64 := if a = 0 then (tget .zero v.taskBuf l).join else v.sreg a.toNat

/-- The checks of the acting lanes, ascending: the keys, or the first fault. -/
def joinKeys (n : Nat) : State → List (Nat × W64) → Except (W8 × W64) (List (Nat × W64 × Nat)) × State
  | s, [] => (.ok [], s)
  | s, (l, j) :: rest =>
    if j &&& 63 != 0 then (.error (cMisalign, j), s)
    else match atomKey n 8 (.acqrel .device) s j with
      | (.error c, s) => (.error (c, j), s)
      | (.ok k, s) => match joinKeys n s rest with
        | (.error e, s) => (.error e, s)
        | (.ok ks, s) => (.ok ((l, j, k) :: ks), s)

/-- Entries of the continuation buffer that are free and not reserved. -/
def Die.contFree (y : Die) : Nat := 64 - y.cont.length - y.contReserved

/-- Lanes take their reservations in order, each with a decrement to be performed; the row waits at the first that finds none.
`num` is the TJOIN's number. -/
def joinReserve (n num : Nat) : State → List (Nat × W64 × Nat) → Res
  | s, [] => .done (s.modRow n (fun r => { r with tjoin := none, tjoinLeft := [], tjoinNum := 0 }))
  | s, (l, j, k) :: rest =>
    if (s.die (dieOf n)).contFree = 0 then
      .wait .contBuf (s.modRow n (fun r => { r with tjoin := some l, tjoinLeft := (l, j, k) :: rest, tjoinNum := num }))
    else joinReserve n num ((s.modDie (dieOf n) (fun y => { y with contReserved := y.contReserved + 1 })).modRow n
      (fun r => r.addOp none (.join num j k))) rest

/-- The keys of lanes whose checks have passed before a RESUME, untested: a lane whose address no longer translates has none,
and loses its decrement (R414; log entry 59). -/
def joinAgain (n : Nat) : State → List (Nat × W64) → List (Nat × W64 × Nat) × State
  | s, [] => ([], s)
  | s, (l, j) :: rest =>
    let (k, s1) := if j.getLsbD 55 then (some j.toNat, s) else match s.lookup (dieOf n) j.toNat with
      | (some e, s) => (some (e.toNat / 65536 * 65536 + j.toNat % 65536), s)
      | (none, s) => (none, s)
    let (ks, s2) := joinAgain n s1 rest
    (match k with | some k => (l, j, k) :: ks | none => ks, s2)

def execTjoin (g : Guard) (a : SReg) (s : State) : Host.Outcome State Fault Refusal :=
  issueWord { nest := true, access := (s.row s.cur).tjoin.isNone, cycles := Row.passes } (fun r => r.tjoin.isSome || r.anyActs g)
    (fun s n v =>
      let r := s.row n
      let ls := ((v.actLanes g).map (fun l => (l, joinAddr v a l))).filter (fun x => x.2 != 0)
      if a = 0 && v.pool.isNone then .trap cProt 0 s
      else match r.tjoin with
        | some l0 =>
          if !r.tjoinLeft.isEmpty then joinReserve n r.tjoinNum s r.tjoinLeft
          else
            let (ks, s1) := joinAgain n s (ls.filter (fun x => l0 ≤ x.1))
            joinReserve n r.nextId s1 ks
        | none =>
          match joinKeys n s ls with
          | (.error (c, t), s1) => .trap c t s1
          | (.ok ks, s1) =>
            if ks.any (fun x => r.operandMeets x.2.2 8) then .wait .operands s else joinReserve n r.nextId s1 ks) s

/-- The priority and the record of a continuation, read after the decrement; bytes that do not translate are free. -/
def contRead (s : State) (n : Nat) (j : W64) (key : Nat) : (Nat × TaskRec) × State :=
  let at_ (s : State) (o len : Nat) : List W8 × State :=
    if j.getLsbD 55 then (s.bytes (key + o) len, s)
    else match s.translate (dieOf n) (j.toNat + o) .read with
      | (.ok pa, s) => (s.bytes pa len, s)
      | (.error _, s) => ((List.range len).map (fun i => BitVec.ofNat 8 (Config.freeNat s.drawn i)), s.draw)
  let (p, s1) := at_ s 8 1
  let (b, s2) := at_ s1 64 64
  ((leVal p % 4, recOf b), s2)

/-- One decrement (R327), at place `id` among the row's accesses, whose checks the TJOIN made as it issued: the counter that
reaches zero sends its continuation to the buffer; otherwise the reservation goes back. -/
def joinStep (n id : Nat) (s : State) (j : W64) (key : Nat) : State :=
  let d := dieOf n
  let free (s : State) : State := s.modDie d (fun y => { y with contReserved := y.contReserved - 1 })
  let (old, s1) := (s.releaseAt d .device).atomicAdd n id key (2 ^ 64 - 1)
  let s2 := free (s1.acquireAt d .device)
  if old = 1 then
    let ((p, t), s3) := contRead s2 n j key
    s3.modDie d (fun y => { y with cont := y.cont ++ [(p, t)] })
  else s2

/-- The row's decrements still to perform: number of the operation, number of the TJOIN, address and key. -/
def Row.joins (r : Row) : List (Nat × Nat × W64 × Nat) :=
  r.ops.filterMap (fun o => match o.kind with | .join num j k => some (o.id, num, j, k) | _ => none)

/-- The lane is no longer among those that wait; with none left the TJOIN is over, and the instruction after it is next. -/
def Row.joined (r : Row) (l : Nat) : Row :=
  let left := r.tjoinLeft.filter (fun x => x.1 != l)
  match left with
  | x :: _ => { r with tjoinLeft := left, tjoin := some x.1 }
  | [] => { r with tjoinLeft := [], tjoin := none, tjoinNum := 0 }.advance.ready

/-- Lanes of a TJOIN that waits follow those before them at once, in order, as long as the buffer has entries for them (R269). -/
def joinFollow (n : Nat) : List (Nat × W64 × Nat) → State → State
  | [], s => s
  | (l, j, k) :: rest, s =>
    if (s.die (dieOf n)).contFree = 0 then s
    else joinFollow n rest (joinStep n (s.row n).nextId
      ((s.modDie (dieOf n) (fun y => { y with contReserved := y.contReserved + 1 })).modRow n (fun r => r.joined l)) j k)

/-- How many lanes, in order, are decremented together: from the first on, until no later lane names a counter of theirs, since
nothing falls between lanes of one counter (R269). -/
def joinRun (ks : List Nat) : Nat :=
  match (List.range ks.length).find? (fun i => (ks.take (i + 1)).all (fun k => !(ks.drop (i + 1)).contains k)) with
  | some i => i + 1
  | none => ks.length

/-- JOIN_DECREMENT: the row's next decrement, as an access ordered .ar, with those lanes of its TJOIN that go with it, in lane order
(R269, R327), those that still wait for an entry among them where no halt has stopped the TJOIN (R414). -/
def execJoinDecrement (row : Nat) (s : State) : Host.Outcome State Fault Refusal :=
  let r := s.row row
  match r.joins with
  | [] => .next s
  | (id, num, _, _) :: _ =>
    if !(s.orderRow row).drainedTo id then .next s
    else
      let mine := r.joins.filter (fun x => x.2.1 == num)
      let left := if r.wait == some .contBuf && r.tjoinNum == num && !(s.die (dieOf row)).halted then r.tjoinLeft else []
      let m := joinRun (mine.map (fun x => x.2.2.2) ++ left.map (fun x => x.2.2))
      let s1 := (mine.take m).foldl (fun s x => joinStep row x.1 (s.modRow row (fun r => r.dropOp x.1)) x.2.2.1 x.2.2.2) s
      let s2 := joinFollow row (left.take (m - mine.length)) s1
      .next (if r.tjoin.isSome && (s2.row row).tjoin.isNone then s2.charge row 1 r.passes else s2)

/-- CONTINUATION_ENQUEUE: the oldest continuation of a priority enters its queue where a slot is free. -/
def execContinuationEnqueue (die pri : Nat) (s : State) : Host.Outcome State Fault Refusal :=
  match (s.die die).cont.find? (fun x => x.1 == pri) with
  | none => .next s
  | some x =>
    if (s.tq die pri).free = 0 then .next s
    else .next ((s.modDie die (fun y => { y with cont := y.cont.erase x })).enqueue die pri x.2)

/-! ### TARG and TEND (R329, R330) -/

def execTarg (g : Guard) (d : VReg) (k : BitVec 4) (s : State) : Host.Outcome State Fault Refusal :=
  issueWord { regs := [d.toNat], nest := true, hold := fun r => r.pool.isSome && r.holdV d.toNat, cycles := Row.passes }
    (fun r => if r.pool.isNone then (List.range r.L).any (r.guardL g) else r.anyActs g)
    (fun s n v =>
      if v.pool.isNone then .trap cProt 0 s
      else .done (s.modRow n (fun r => r.setLanes d.toNat (v.actLanes g) (fun l => (tget .zero v.taskBuf l).word k.toNat)))) s

def execTend (g : Guard) (s : State) : Host.Outcome State Fault Refusal :=
  issueQ { nest := true } g (fun s n _ =>
    if (s.row n).pool.isNone then .trap cProt 0 s
    else .halt (s.modRow n (fun r => (r.exitLanes (laneMask r.L)).retiring))) s

/-! ### The wave former (R320 to R322) -/

/-- WINDOW_FILL: the oldest record of the highest-priority queue that holds one. -/
def execWindowFill (die : Nat) (s : State) : Host.Outcome State Fault Refusal :=
  let y := s.die die
  if y.halted || 256 ≤ y.window.length then .next s
  else match [3, 2, 1, 0].find? (fun q => (s.tq die q).count ≠ 0) with
    | none => .next s
    | some q =>
      let (t, s1) := s.dequeue die q
      .next (s1.modDie die (fun y => { y with window := y.window ++ [⟨t, q, y.clk⟩] }))

/-- The records of the wave that an idle row takes (R321); the window stands oldest first. -/
def waveOf (w : List WinRec) (clk : W64) (resident : List W64) : List WinRec :=
  let top := w.foldl (fun p x => max p x.pri) 0
  let rs := w.filter (fun x => x.pri == top)
  let group (e : W64) : List WinRec := rs.filter (fun x => x.task.entry == e)
  match rs with
  | [] => []
  | old :: _ =>
    if 4096 ≤ (clk - old.since).toNat then (group old.task.entry).take 32
    else
      let es := (rs.map (fun x => x.task.entry)).eraseDups
      let near := es.filter resident.contains
      let es := if near.isEmpty then es else near
      let best := es.foldl (fun m e => max m (group e).length) 0
      match es.find? (fun e => (group e).length == best) with
      | some e => (group e).take 32
      | none => []

/-- Table 01-3 with R322's changes. Of an entry address only bits 55:0 count, whatever a continuation's record holds above them
(log entry 57). -/
def State.startWave (s : State) (n : Nat) (w : List WinRec) : State :=
  let k := w.length
  let e := match w with | x :: _ => x.task.entry | [] => 0
  let p := match w with | x :: _ => x.pri | [] => 0
  let r := s.freshRow n 32 (e.setWidth 56)
  let em := laneMask k
  s.setRow n { r with
    s := tsets 0 [] [(1, tget 0 s.job.poolPar (dieOf n)), (2, BitVec.ofNat 64 k), (3, BitVec.ofNat 64 p)]
    arm := { r.arm with em := em }
    exited := laneMask 32 &&& ~~~em
    csr := { r.csr with taskpool := BitVec.ofNat 8 (dieOf n + 1) }
    taskBuf := tsets .zero [] (w.zipIdx.map (fun (x, i) => (i, x.task)))
    resident := (e :: r.resident).take 4 }

/-- WAVE_DISPATCH: a wave for an idle pool row. -/
def execWaveDispatch (die row : Nat) (s : State) : Host.Outcome State Fault Refusal :=
  let y := s.die die
  let r := s.row row
  let w := waveOf y.window y.clk r.resident
  if y.halted || r.life != .idle || r.pool.isNone || r.unbind || w.isEmpty then .next s
  else .next (((s.modDie die (fun y => { y with window := w.foldl (fun l x => l.erase x) y.window })).acquireAt die .device).startWave row w)

/-! ### Stealing (R324) -/

/-- A die may send steal requests: nothing of its own, an idle pool row, and no pause under way. -/
def State.mayAsk (s : State) (d : Nat) : Bool :=
  let y := s.die d
  !y.halted && y.window.isEmpty && [0, 1, 2, 3].all (fun q => (s.tq d q).count = 0)
    && (List.range 128).any (fun i => let r := s.row (128 * d + i); r.pool.isSome && r.life == .idle)
    && (match y.steal.idleFrom with | some t => 1024 ≤ (y.clk - t).toNat | none => true)

/-- The records that a die forwards, at most k of them: the youngest of the lowest priorities. -/
def stolen (w : List WinRec) (k : Nat) : List WinRec :=
  ([0, 1, 2, 3].flatMap (fun q => (w.filter (fun x => x.pri == q)).reverse)).take (min (w.length / 2) k)

/-- STEAL_REQUEST: a die sends a request where it may, and the next die in order is asked, whatever the requester holds by then. The
records forwarded keep their priority and their age. Of more than its window has room for, which R324 does not treat, only those go
that fit (log entry 39). -/
def execStealRequest (die : Nat) (s : State) : Host.Outcome State Fault Refusal :=
  let y := s.die die
  if y.steal.asked = 0 && !s.mayAsk die then .next s
  else
    let v := (die + 1 + y.steal.asked) % 4
    let z := s.die v
    let l := stolen z.window (256 - y.window.length)
    if !l.isEmpty then
      let mine := l.map (fun x => { x with since := y.clk - (z.clk - x.since) })
      .next ((s.setDie v { z with window := l.foldl (fun w x => w.erase x) z.window }).setDie die
        { y with window := sortKey (fun x => 2 ^ 64 - (y.clk - x.since).toNat) (y.window ++ mine.reverse), steal := ⟨0, none⟩ })
    else if 3 ≤ y.steal.asked + 1 then .next (s.setDie die { y with steal := ⟨0, some y.clk⟩ })
    else .next (s.setDie die { y with steal := ⟨y.steal.asked + 1, none⟩ })

end Sys2Proof.Machine
end

