-- ==== Sys2Proof/Machine/Preempt.lean ====
section
/-! DEFINITION. Pre-emption: the halt (R348), the hamper of a row (Tables 15-3 and 15-4, R350 to R352, R354), its check and
its restore (R353, R355), and what each die saves (R296, R311, R331). -/

namespace Sys2Proof.Machine

/-! ### The halt -/

/-- A SPAWN that PREEMPT finds waiting for its release gives its slots back, to be issued again from its start (log entry 67). -/
def State.unspawn (s : State) (n : Nat) : State :=
  match (s.row n).spawn with
  | some w =>
    let q := s.tq (dieOf n) w.pri
    (s.setTq (dieOf n) w.pri { q with reserved := q.reserved - w.recs.length }).modRow n (fun r => { r with spawn := none })
  | none => s

/-- A row that PREEMPT reaches: it takes a deferred trap that is due at its boundary (R337), an MDRAIN that it may have under
way is abandoned with some of its bytes written (R348), a transfer ends, and its array freezes. -/
def State.haltRow (s : State) (n : Nat) : State :=
  if (s.row n).life == .idle then s
  else
    let s1 := (s.unspawn n).takeDue n
    let s2 := if s1.live n && Config.freeBit s1.drawn n then (s1.abandonDrain n (Config.freeNat s1.drawn n)).draw else s1
    s2.modRow n (fun r => { r with frozen := true, transfer := false })

/-- A die is halted, with the clk counts at which it and its domains stopped. -/
def State.haltDie (s : State) (d : Nat) : State :=
  if (s.die d).halted then s
  else (List.range 4).foldl (fun s i => s.modDom (4 * d + i) (fun x => { x with haltAt := x.clk }))
    (s.modDie d (fun y => { y with halted := true, haltAt := y.clk }))

/-- PREEMPT_ARRIVE: the die's rows stop issuing, and their arrays freeze. -/
def execPreemptArrive (die : Nat) (s : State) : Host.Outcome State Fault Refusal :=
  if s.job.pre == .none || (s.die die).halted then .next s
  else .next (((List.range 128).foldl (fun s i => s.haltRow (128 * die + i)) s).haltDie die)

/-- An operation that a halt leaves outstanding: CWAIT, PEGW, a queued MMAC, and a WLD whose fill waits for a swap point, which
the frozen array does not cross (R196; log entry 60). -/
def OpKind.stays : OpKind → Bool
  | .cwait .. | .pegw .. | .mmac | .wld _ _ _ _ _ _ false _ => true
  | _ => false

/-- Row n has come to rest (R349): accesses, fills and fires complete, entries landed, decrements made. -/
def Row.atRest (r : Row) : Bool :=
  r.ops.all (fun o => o.kind.stays) && r.inflight.isEmpty && !r.fillDue && r.peg.all (fun e => e.2.fires.isEmpty)
    && r.edgeOut.isEmpty && r.north.flight.isEmpty && r.north.sealAt != .flying

/-- A die has come to rest: its engines stand at a boundary, nothing is on its way to its queues, and it has no steal request
between dies (R296, R331). -/
def State.dieRests (s : State) (d : Nat) : Bool :=
  let y := s.die d
  y.halted && y.arriving.isEmpty && y.steal.asked = 0
    && y.engines.all (fun e => e.2.fault ≠ 0 || (match e.2.cmd with | some c => c.phase ≠ 0 || !s.midBlock d c | none => true))

/-- Rows that hold a row thread. -/
def State.threads (s : State) : List Nat := (s.job.rows.filter (fun e => e.2.life != .idle)).map (fun e => e.1)

/-- Row 0's north link has no half of an entry, whose other half is still to come (R169). -/
def State.chainRests (s : State) : Bool :=
  match (s.row 0).nbind with
  | .link p => !(s.port p).up || (s.port p).chainIn.length ≠ 1 || (s.row 0).north.sealAt != .none || tget false s.job.saved 0
  | _ => true

def State.atRest (s : State) : Bool :=
  [0, 1, 2, 3].all s.dieRests && s.threads.all (fun n => (s.row n).atRest) && s.chainRests

/-- Every far cache is written back. -/
def State.writeBackAll (s : State) : State := ([0, 1, 2, 3] : List Nat).foldl State.writeBack s

/-- Every hamper is written: the job stands halted. -/
def State.finishHalt (s : State) : State :=
  if s.job.pre == .asked && s.atRest && s.threads.all (fun n => tget false s.job.saved n) then
    (s.writeBackAll.modJob (fun j => { j with pre := .halted })).modDev (fun d => { d with jobSt := .halted })
  else s

/-! ### Hamper records -/

/-- A token as a record of 320 bytes holds it (R351). -/
structure TokRec where
  kind : Nat
  owner : Nat
  pca : Option Va
  pcb : Va
  a : Mask
  b : Mask
  serial : Nat

def tokCode : TokKind → Nat
  | .split => 1
  | .loop => 2
  | .call => 3

/-- The record of an arm's token. -/
def Token.record (owner : Nat) (t : Token) : TokRec :=
  match t.kind with
  | .call => ⟨3, owner, t.pca, t.pcb, 0, 0, t.serial⟩
  | k => ⟨tokCode k, owner, t.pca, t.pcb, t.wait, t.park, t.serial⟩

/-- Arm 0 (the only arm, or T) and arm 1 (F). -/
def Row.arm0 (r : Row) : Arm := match r.armId, r.other with | .f, some o => o | _, _ => r.arm
def Row.arm1 (r : Row) : Option Arm := match r.armId, r.other with | .f, some _ => some r.arm | _, o => o

/-- The row's tokens in push order, bottom first. -/
def Row.tokRecords (r : Row) : List TokRec :=
  let top := match r.armsTok with | some t => [⟨0, 0, t.pca, 0, t.parkT, t.parkF, t.serial⟩] | none => []
  let l1 := match r.arm1 with | some o => o.toks.map (Token.record 2) | none => []
  top ++ sortKey (fun t => t.serial) (r.arm0.toks.map (Token.record 1) ++ l1)

/-- Byte o of a mask, of a number. -/
def maskByte (m : Mask) (o : Nat) : W8 := m.extractLsb' (8 * o) 8
def vaByte (x : Va) (o : Nat) : W8 := byteOf x.toNat o

def TokRec.byte (t : TokRec) (o : Nat) : W8 :=
  if o = 0 then BitVec.ofNat 8 t.kind
  else if o = 1 then BitVec.ofNat 8 t.owner
  else if o = 2 then BitVec.ofNat 8 t.pca.isSome.toNat
  else if o < 8 then 0
  else if o < 16 then vaByte (t.pca.getD 0) (o - 8)
  else if o < 24 then vaByte t.pcb (o - 16)
  else if o < 64 then 0
  else if o < 192 then maskByte t.a (o - 64)
  else maskByte t.b (o - 192)

/-- The state code of an arm, and back. -/
def armState : ArmSt → Nat
  | .running => 0
  | .finished => 1
  | .joinPark => 2
  | .barPark => 3
def stateArm (k : Nat) : ArmSt := if k = 0 then .running else if k = 1 then .finished else if k = 2 then .joinPark else .barPark

/-- Byte o of an arm record of 512 bytes. -/
def armByte (a : Arm) (o : Nat) : W8 :=
  if o < 8 then vaByte a.pc o
  else if o < 16 then vaByte a.clause.hdr (o - 8)
  else if o < 18 then byteOf a.flags.toNat (o - 16)
  else if o = 18 then BitVec.ofNat 8 (armState a.st)
  else if o = 19 then BitVec.ofNat 8 a.toks.length
  else if o < 24 then 0
  else if o < 32 then vaByte a.barAt (o - 24)
  else if o < 64 then 0
  else if o < 192 then maskByte a.em (o - 64)
  else if o < 320 then maskByte a.held (o - 192)
  else if o < 448 then maskByte a.barPark (o - 320)
  else 0

/-- Byte o of a pending wait of 16 bytes. -/
def waitByte (w : Op) (o : Nat) : W8 :=
  let (kind, b3, x) := match w.kind with
    | .cwait d e t _ => (1, 8 * d + e, t.toNat)
    | .pegw i l _ => (2, i, l.toNat)
    | _ => (0, 0, 0)
  if o = 0 then BitVec.ofNat 8 kind
  else if o = 1 then BitVec.ofNat 8 (w.flag.getD 15)
  else if o = 2 then BitVec.ofNat 8 (armCode w.arm)
  else if o = 3 then BitVec.ofNat 8 b3
  else if o < 8 then 0
  else byteOf x (o - 8)

/-- Byte o of a peg image (Table 09-3). -/
def pegByte (e : Peg) (o : Nat) : W8 :=
  if o < 4 then byteOf e.tag.toNat o
  else if o < 8 then byteOf e.mask.toNat (o - 4)
  else if o < 16 then byteOf e.target.toNat (o - 8)
  else if o < 20 then byteOf e.minver.toNat (o - 16)
  else if o = 20 then BitVec.ofNat 8 e.count
  else if o = 21 then BitVec.ofNat 8 (pegCode e.st)
  else if o = 22 then BitVec.ofNat 8 (e.side.toNat + 16 * e.flag.getD 15)
  else if o = 23 then BitVec.ofNat 8 e.unc
  else if o = 24 then BitVec.ofNat 8 (armCode e.arm)
  else if o < 28 then 0
  else byteOf e.lastver.toNat (o - 28)

/-- Byte o of a port entry of 136 bytes. -/
def entryByte (e : PEntry) (o : Nat) : W8 :=
  if o < 128 then byteOf (tget 0 e.words (o / 4)).toNat (o % 4)
  else if o < 132 then byteOf e.valid.toNat (o - 128) else 0

/-- Pending waits of a row. -/
def Row.waits (r : Row) : List Op := r.ops.filter (fun o => match o.kind with | .cwait .. | .pegw .. => true | _ => false)

/-- R349: the restart form is written. -/
def Row.restarts (r : Row) : Bool := r.region.isSome && !r.handler && r.life != .stopped && r.life != .failed

/-- The row that the hamper holds: itself, or, in the restart form, the state that its region starts from (R354). -/
def Row.savedForm (r : Row) : Row :=
  match r.region with
  | some g =>
    if r.restarts then
      { r with
        s := g.s, q := g.q, p := g.p
        csr := { r.csr with fflags := g.fflags, mflags := g.mflags, rng := g.rng }
        v := r.v.filter (fun e => g.live.getLsbD (e.1 / r.L))
        other := none, armId := .single
        arm := { r.arm with em := g.em, held := g.held, st := .running
                            toks := r.arm.toks.drop (r.tokdepth - g.depth) }.goto g.entry }
    else r
  | none => r

/-- Byte o of a row's hamper; `count` is its run count. -/
def hamperByte (r : Row) (count : Nat) (o : Nat) : W8 :=
  let q := r.savedForm
  let ended := r.life == .failed || r.life == .stopped
  let snap (f : Region → W8) : W8 := match r.region with | some g => f g | none => 0
  let live (k : Nat) : Bool := r.csr.plive.getLsbD k
  if o < 4 then byteOf 0x5A3C0002 o
  else if o < 6 then byteOf r.L (o - 4)
  else if o = 6 then r.csr.plive
  else if o = 7 then BitVec.ofNat 8 q.tokRecords.length
  else if o = 8 then BitVec.ofNat 8 (if q.other.isNone then 0 else if q.armId == .f then 2 else 1)
  else if o = 9 then BitVec.ofNat 8 (r.handler.toNat + 2 * r.region.isSome.toNat + 4 * r.restarts.toNat
    + 8 * (r.life == .failed).toNat + 16 * (r.life == .stopped).toNat)
  else if o = 0xA then (if r.life == .failed then r.failCause else 0x17)
  else if o = 0xB then BitVec.ofNat 8 r.waits.length
  else if o < 0xE then byteOf r.north.entries.length (o - 0xC)
  else if o = 0xE then BitVec.ofNat 8 (r.north.sealAt != .none).toNat
  else if o = 0xF then BitVec.ofNat 8 (r.triggered.toNat + 2 * r.pool.isSome.toNat)
  else if o = 0x10 then BitVec.ofNat 8 r.deferred.length
  else if o = 0x11 then 0
  else if o < 0x14 then byteOf (match r.tjoin with | some l => l + 1 | none => 0) (o - 0x12)
  else if o < 0x18 then 0
  else if o < 0x20 then (if ended then vaByte r.haltPc (o - 0x18) else 0)
  else if o < 0x28 then (if ended then byteOf r.haltVal.toNat (o - 0x20) else 0)
  else if o < 0x30 then byteOf count (o - 0x28)
  else if o < 0x40 then 0
  else if o < 0x48 then byteOf q.csr.rng.toNat (o - 0x40)
  else if o = 0x48 then q.csr.fflags.setWidth 8
  else if o = 0x49 then q.csr.mflags
  else if o = 0x4A then q.csr.cause
  else if o = 0x4B then 0
  else if o < 0x50 then byteOf q.csr.pwd.toNat (o - 0x4C)
  else if o < 0x54 then byteOf q.csr.pegmiss.toNat (o - 0x50)
  else if o < 0x58 then byteOf q.csr.pegstale.toNat (o - 0x54)
  else if o < 0x60 then vaByte q.csr.epc (o - 0x58)
  else if o < 0x68 then byteOf q.csr.tval.toNat (o - 0x60)
  else if o < 0x70 then vaByte q.csr.tvec (o - 0x68)
  else if o < 0x100 then 0
  else if o = 0x100 then q.q &&& 0xFE
  else if o < 0x108 then 0
  else if o < 0x200 then byteOf (tget 0 q.s ((o - 0x100) / 8)).toNat (o % 8)
  else if o < 0x240 then byteOf (tget 0 q.h ((o - 0x200) / 8)).toNat (o % 8)
  else if o < 0x280 then 0
  else if o < 0x400 then snap (fun g =>
    if o = 0x280 then g.q &&& 0xFE
    else if o < 0x288 then 0
    else if o < 0x380 then byteOf (tget 0 g.s ((o - 0x280) / 8)).toNat (o % 8)
    else if o < 0x388 then byteOf g.live.toNat (o - 0x380)
    else if o < 0x390 then vaByte g.entry (o - 0x388)
    else if o = 0x390 then g.fflags.setWidth 8
    else if o = 0x391 then g.mflags
    else if o = 0x392 then BitVec.ofNat 8 g.depth
    else if o < 0x398 then 0
    else if o < 0x3A0 then byteOf g.rng.toNat (o - 0x398)
    else 0)
  else if o < 0x880 then snap (fun g =>
    let k := (o - 0x400) / 128
    maskByte (if k = 0 then g.em else if k = 1 then g.held else tget 0 g.p (k - 1)) (o % 128))
  else if o < 0x980 then (match r.waits[(o - 0x880) / 16]? with | some w => waitByte w (o % 16) | none => 0)
  else if o < 0xA00 then (match r.deferred[(o - 0x980) / 16]? with
    | some d => if o % 16 = 0 then d.cause else if o % 16 < 8 then 0 else byteOf d.tval.toNat (o % 16 - 8)
    | none => 0)
  else if o < 0xC00 then armByte q.arm0 (o - 0xA00)
  else if o < 0xE00 then (match q.arm1 with
    | some a => armByte a (o - 0xC00)
    | none => 0)
  else if o < 0x1180 then
    let k := (o - 0xE00) / 128 + 1
    if live k then maskByte (tget 0 q.p k) (o % 128) else 0
  else if o < 0x1200 then 0
  else if o < 0x1400 then pegByte (q.pegAt ((o - 0x1200) / 32)) (o % 32)
  else if o < 0x3C00 then (match q.tokRecords[(o - 0x1400) / 320]? with | some t => t.byte ((o - 0x1400) % 320) | none => 0)
  else if o < 0x8000 then
    (match r.north.entries[(o - 0x3C00) / 136]? with | some e => entryByte e ((o - 0x3C00) % 136) | none => 0)
  else if o < 0x8800 then
    (if r.pool.isSome then ((tget .zero r.taskBuf ((o - 0x8000) / 64)).bytes).getD (o % 64) 0 else 0)
  else if o < 0x9000 then 0
  else if o < 0x19000 then
    let i := (o - 0x9000) / 4
    if i < r.L * r.vcount then byteOf (tget 0 q.v i).toNat (o % 4) else 0
  else imageByte r (o - 0x19000)

def hamperSize : Nat := 242688

/-- The physical address of byte o of row n's hamper (R407). -/
def State.hamperKey (s : State) (n o : Nat) : Nat :=
  let a := 2 ^ 18 * n + o
  tget 0 s.job.pinned (a / 65536) + a % 65536

/-- The run count of R342 at the halt. -/
def State.haltCount (s : State) (n : Nat) : Nat :=
  ((s.dom (domOf n)).haltAt - (s.row n).runBase + BitVec.ofNat 64 (s.row n).runAcc).toNat

/-- Row n's hamper is written at its pinned addresses. -/
def State.writeHamper (s : State) (n : Nat) : State :=
  (List.range hamperSize).foldl (fun t o => t.setByte (s.hamperKey n o) (hamperByte (s.row n) (s.haltCount n) o)) s

/-- HAMPER_SAVE: once everything has come to rest and every far cache is home, a row writes its hamper (R349); a banked array
is stoked first (R384). -/
def execHamperSave (row : Nat) (s : State) : Host.Outcome State Fault Refusal :=
  if s.job.pre != .asked || !s.atRest || (s.row row).life == .idle || tget false s.job.saved row then .next s
  else if (s.row row).mat.banked then .next (s.modRow row (Row.askMat (s.rowClk row)))
  else .next (((s.writeBackAll.writeHamper row).modJob
    (fun j => { j with saved := tset false j.saved row true })).finishHalt)

/-! ### The check of RESUME (R353) -/

def hnum (get : Nat → W8) (o n : Nat) : Nat := imgNum get o n
def hmask (get : Nat → W8) (o : Nat) : Mask := BitVec.ofNat 1024 (imgNum get o 128)

/-- A hamper that RESUME refuses. Of the bits that the layout gives as zero, those of the mode byte are tested, which R353 does
not name, and no others (log entry 61). -/
def hamperBad (r : Row) (get : Nat → W8) : Bool :=
  let toks := (get 7).toNat
  let waits := (get 0xB).toNat
  hnum get 0 4 ≠ 0x5A3C0002 || hnum get 4 2 ≠ r.L || 32 < toks || 2 < (get 8).toNat || 31 < (get 9).toNat || 16 < waits
    || 128 < hnum get 0xC 2 || 8 < (get 0x10).toNat || r.L < hnum get 0x12 2
    || (List.range waits).any (fun i => let k := (get (0x880 + 16 * i)).toNat
                                        (k != 1 && k != 2) || 2 < (get (0x882 + 16 * i)).toNat)
    || 3 < (get 0xA12).toNat || 32 < (get 0xA13).toNat || (get 8 != 0 && (3 < (get 0xC12).toNat || 32 < (get 0xC13).toNat))
    || ((get 9).getLsbD 1 && 32 < (get 0x392).toNat)
    || (List.range 16).any (fun i => 2 < (get (0x1215 + 32 * i)).toNat || 2 < (get (0x1218 + 32 * i)).toNat)
    || (List.range toks).any (fun i => 3 < (get (0x1400 + 320 * i)).toNat || 2 < (get (0x1401 + 320 * i)).toNat)
    || (imageBad r (fun o => get (0x19000 + o)) true).isSome

/-! ### Restore -/

/-- An arm of a record, its words still to be read. What the record does not hold of lanes parked at a BAR stays as the row
keeps it (log entry 62). Mask bits at or beyond L, zero by R350, are taken as they stand, here, in tokens and in a snapshot: the
spec names no fate for them (log entry 61). -/
def armOf (get : Nat → W8) (b : Nat) (toks : List Token) (old : Arm) : Arm :=
  let at_ : Va := BitVec.ofNat 56 (hnum get (b + 24) 8)
  { pc := BitVec.ofNat 56 (hnum get b 8), clause := .at (BitVec.ofNat 56 (hnum get (b + 8) 8)), em := hmask get (b + 64)
    held := hmask get (b + 192), flags := 0, st := stateArm (get (b + 18)).toNat, toks := toks, barAt := at_, barPark := hmask get (b + 320)
    barClause := if old.barAt == at_ then { old.barClause with words := [] } else .at at_
    barDepth := old.barDepth, barMix := old.barMix, barToks := old.barToks }

def codeTok (k : Nat) : TokKind := if k = 1 then .split else if k = 2 then .loop else .call

/-- Token record i, with its serial number. -/
def tokOf (get : Nat → W8) (serial i : Nat) : TokRec :=
  let b := 0x1400 + 320 * i
  ⟨(get b).toNat, (get (b + 1)).toNat, if get (b + 2) = 0 then none else some (BitVec.ofNat 56 (hnum get (b + 8) 8)),
   BitVec.ofNat 56 (hnum get (b + 16) 8), hmask get (b + 64), hmask get (b + 192), serial⟩
/-- The serial number of token record i: that of the row's own token in its place, so that tokens under lanes parked at a BAR, which
no record holds, keep their place in push order (R101). -/
def Row.recSerial (r : Row) (i : Nat) : Nat := match r.tokRecords[i]? with | some t => t.serial | none => r.tokSerial + i
def TokRec.token (t : TokRec) : Token := ⟨codeTok t.kind, t.pca, t.pcb, t.a, t.b, t.serial⟩

/-- A fault of its engine has been reported for this CWAIT. -/
def OpKind.wasTold : OpKind → Bool
  | .cwait _ _ _ t => t
  | _ => false

/-- Pending wait i, issued again. A CWAIT is reported a fault once (R290), so that it stays as it was, `told`. -/
def waitOf (get : Nat → W8) (id : Nat) (clk : W64) (told : Bool) (i : Nat) : Op :=
  let b := 0x880 + 16 * i
  let f := (get (b + 1)).toNat
  let x := hnum get (b + 8) 8
  let y := (get (b + 3)).toNat
  ⟨id, codeArm (get (b + 2)).toNat, if f < 12 then some f else none,
   if get b = 1 then .cwait (y / 8 % 4) (y % 8) (BitVec.ofNat 48 x) told else .pegw (y % 16) (BitVec.ofNat 64 x) clk⟩

/-- Peg entry i. -/
def pegOf (get : Nat → W8) (i : Nat) : Peg :=
  let b := 0x1200 + 32 * i
  let f := (get (b + 22)).toNat
  { tag := BitVec.ofNat 32 (hnum get b 4), mask := BitVec.ofNat 32 (hnum get (b + 4) 4)
    target := BitVec.ofNat 64 (hnum get (b + 8) 8), minver := BitVec.ofNat 32 (hnum get (b + 16) 4)
    count := (get (b + 20)).toNat, st := (match (get (b + 21)).toNat with | 1 => .armed | 2 => .spent | _ => .free)
    side := f % 2 = 1, flag := if f / 16 < 12 then some (f / 16) else none, unc := (get (b + 23)).toNat
    arm := codeArm (get (b + 24)).toNat, lastver := BitVec.ofNat 32 (hnum get (b + 28) 4), fires := [] }

/-- The snapshot of an open region. -/
def regionOf (get : Nat → W8) : Region :=
  { s := tabulate 0 32 (fun k => if k = 0 then 0 else BitVec.ofNat 64 (hnum get (0x280 + 8 * k) 8)), q := get 0x280 &&& 0xFE
    em := hmask get 0x400, held := hmask get 0x480
    p := tabulate 0 8 (fun k => if k = 0 then 0 else hmask get (0x480 + 128 * k))
    fflags := (get 0x390).setWidth 6, mflags := get 0x391 &&& 0x3F, rng := BitVec.ofNat 64 (hnum get 0x398 8)
    depth := (get 0x392).toNat, live := BitVec.ofNat 64 (hnum get 0x380 8), entry := BitVec.ofNat 56 (hnum get 0x388 8) }

/-- The flags of an arm that a pending wait, a queue slot or an armed peg names (R353). -/
def Row.namedFlags (r : Row) (a : ArmId) : BitVec 12 :=
  (List.range 12).foldl (fun m f => if r.flagHeld r.nextId a f then m ||| BitVec.ofNat 12 (2 ^ f) else m) 0

/-- A bank as RESUME leaves it (R386). -/
def Bank.resumed (clk : W64) : Bank := { Bank.reset with idleSince := some clk, banked := true }
/-- The same where the hardware reads the array's image, which stokes it (R384): no interval has begun. -/
def Bank.reloaded : Bank := { Bank.reset with idleSince := none, banked := true, asked := true }

/-- The row that a hamper holds, over what no hamper holds of it (R353, R354, R386): `clk` counts its domain's, `dieClk` its
die's. -/
def Row.restore (r : Row) (get : Nat → W8) (clk dieClk : W64) : Row :=
  let mode := get 9
  let plive := get 6
  let recs := (List.range (get 7).toNat).map (fun i => tokOf get (r.recSerial i) i)
  let toks (own : Nat → Bool) : List Token := ((recs.filter (fun t => t.kind != 0 && own t.owner)).map TokRec.token).reverse
  let two := get 8 != 0
  let a0 := armOf get 0xA00 (toks (fun k => k != 2)) r.arm0
  let a1 := armOf get 0xC00 (toks (fun k => k == 2)) (r.arm1.getD r.arm0)
  let n := (get 0xB).toNat
  let r1 : Row := { r with
    life := if mode.getLsbD 3 then .failed else if r.life == .retiring then .retiring else .running
    v := tabulate 0 (r.L * r.vcount) (fun i => BitVec.ofNat 32 (hnum get (0x9000 + 4 * i) 4))
    s := tabulate 0 32 (fun k => if k = 0 then 0 else BitVec.ofNat 64 (hnum get (0x100 + 8 * k) 8))
    h := tabulate 0 8 (fun k => BitVec.ofNat 64 (hnum get (0x200 + 8 * k) 8))
    p := tabulate 0 8 (fun k => if k ≠ 0 && plive.getLsbD k then hmask get (0xD80 + 128 * k) &&& laneMask r.L else 0)
    q := get 0x100 &&& 0xFE
    arm := if get 8 = 2 then a1 else a0
    other := if two then some (if get 8 = 2 then a0 else a1) else none
    armId := if get 8 = 0 then .single else if get 8 = 1 then .t else .f
    armsTok := ((recs.filter (fun t => t.kind == 0)).getLast?).map (fun t => ⟨t.pca, t.a, t.b, t.serial⟩)
    tokSerial := r.tokSerial + recs.length
    csr := { r.csr with
      plive := plive, rng := BitVec.ofNat 64 (hnum get 0x40 8), fflags := (get 0x48).setWidth 6, mflags := get 0x49 &&& 0x3F
      cause := get 0x4A, pwd := BitVec.ofNat 32 (hnum get 0x4C 4), pegmiss := BitVec.ofNat 32 (hnum get 0x50 4)
      pegstale := BitVec.ofNat 32 (hnum get 0x54 4), epc := BitVec.ofNat 56 (hnum get 0x58 8)
      tval := BitVec.ofNat 64 (hnum get 0x60 8), tvec := BitVec.ofNat 56 (hnum get 0x68 8) }
    handler := mode.getLsbD 0
    deferred := (List.range (get 0x10).toNat).map (fun i => ⟨get (0x980 + 16 * i), BitVec.ofNat 64 (hnum get (0x988 + 16 * i) 8)⟩)
    region := if mode.getLsbD 1 then some (regionOf get) else none
    ops := (r.ops.filter (fun o => match o.kind with | .wld .. => true | _ => false)).map (fun o => { o with flag := none })
      ++ (List.range n).map (fun i => waitOf get (r.nextId + i) dieClk ((r.waits[i]?).any (fun o => o.kind.wasTold)) i)
    nextId := r.nextId + n
    wait := none, req := none, granted := false, vgranted := false, withheld := 0, vwithheld := 0, prepaid := 0, deficit := 0
    north := ⟨(List.range (hnum get 0xC 2)).map (fun i => ⟨tabulate 0 32 (fun c => BitVec.ofNat 32 (hnum get (0x3C00 + 136 * i + 4 * c) 4)),
                BitVec.ofNat 32 (hnum get (0x3C00 + 136 * i + 128) 4)⟩), [], if (get 0xE).getLsbD 0 then .present else .none⟩
    triggered := (get 0xF).getLsbD 0
    taskBuf := if r.pool.isSome then tabulate .zero 32 (fun i => recOf ((List.range 64).map (fun k => get (0x8000 + 64 * i + k)))) else []
    unseen := 0
    tjoin := if hnum get 0x12 2 = 0 then none else some (hnum get 0x12 2 - 1)
    tjoinLeft := [], tjoinNum := 0, spawn := none
    peg := tabulate .free 16 (pegOf get)
    landed := r.landed.filter (fun x => x.taken.isNone)
    frozen := mode.getLsbD 0
    haltPc := BitVec.ofNat 56 (hnum get 0x18 8), haltVal := BitVec.ofNat 64 (hnum get 0x20 8), failCause := get 0xA
    runBase := clk, runAcc := hnum get 0x28 8
    mat := .reloaded, fp := .resumed clk }
  let r2 := r1.loadImage (fun o => get (0x19000 + o))
  { r2 with
    arm := { r2.arm with flags := r2.namedFlags r2.armId }
    other := r2.other.map (fun o => { o with flags := r2.namedFlags r2.otherId }) }

/-- The bytes of row n's hamper in memory. -/
def State.hamperGet (s : State) (n o : Nat) : W8 := s.byte (s.hamperKey n o)

/-- What a die keeps continues: record ages, and no Damper state (R331, R386). -/
def Die.resume (y : Die) : Die :=
  { y with halted := false, inrush := []
           window := y.window.map (fun x => { x with since := x.since + (y.clk - y.haltAt) })
           steal := { y.steal with idleFrom := y.steal.idleFrom.map (fun t => t + (y.clk - y.haltAt)) } }

/-- Every row restored, the dies running again, allowances full and deficits 0 (R353, R386), and what an earlier link of row 0 has
left, with its seal, on its way (R369). -/
def State.resumeAll (s : State) : State :=
  let s1 := s.threads.foldl (fun t n => (t.modRow n (fun r => r.restore (s.hamperGet n) (s.rowClk n) (s.clkOf n))).endSpent n) s
  let s2 := ((List.range 512).foldl (fun t n => t.modRow n (fun r => if r.life == .idle then
    { r with deficit := 0, mat := .resumed (s.rowClk n), fp := .resumed (s.rowClk n) } else r)) s1).modJob
    (fun j => { j with pre := .none, saved := [] })
  let s3 := ([0, 1, 2, 3] : List Nat).foldl (fun s d => s.modDie d Die.resume) s2
  (((List.range 16).foldl (fun s d => s.modDom d (fun x => { x with A := x.cap, due := [], transfers := [] })) s3).modDev
    (fun d => { d with jobSt := .opened })).chainBack

end Sys2Proof.Machine
end

