-- ==== Sys2Proof/Machine/Mbabo.lean ====
section
/-! DEFINITION. Mbabo: starts (R395, R396), the command ring and its refusals (R398 to R402), the window (R399), events
(R410), the fatal state (R411), STATUS, ATTEST, FEATURES and the management port (R397, R400, R406, R412). -/

namespace Sys2Proof.Machine

/-! ### Starts -/

/-- The device after a reset: what no reset clears, and a start to begin (R396). -/
def State.reboot (s : State) (fails : Nat) : State :=
  { State.reset with
    agenda := [.event .start], drawn := s.drawn, turn := s.turn
    dev := { Dev.reset with
      failCount := fails, lastReason := s.dev.lastReason, tierStore := s.dev.tierStore, shards := s.dev.shards
      starts := s.dev.starts, mgmtOut := s.dev.mgmtOut } }

/-- A start fails with a reason code of Table 20-1. -/
def Dev.startFails (d : Dev) (reason : W8) : Dev := { d with phase := .failed, lastReason := reason }

/-- Step 1: Mbabo's image is read and its digest taken; step 3: the operating system's (R395). -/
def Dev.readMbabo (n : Nat) (d : Dev) : Dev := { d with mbaboDigest := Config.sha3 (Config.mbaboImage n) }
def Dev.readOs (n : Nat) (d : Dev) : Dev := { d with osDigest := Config.sha3 (Config.osImage n) }
/-- The window, a page, and the two rings stand on X, beyond HBM and within 52 bits, aligned and apart (R230, R399). -/
def mboxFits (x : Nat × Nat × Nat) : Bool :=
  let onX (a n al : Nat) : Bool := 2 ^ 39 ≤ a && a + n ≤ 2 ^ 52 && a % al = 0
  onX x.1 4096 4096 && onX x.2.1 16384 64 && onX x.2.2 131072 32
    && !meets x.1 4096 x.2.1 16384 && !meets x.1 4096 x.2.2 131072 && !meets x.2.1 16384 x.2.2 131072
/-- Where they stand for a start: free among the places that fit (log entry 13). -/
def mboxPlace (n : Nat) : Nat × Nat × Nat :=
  if mboxFits (Config.mboxAt n) then Config.mboxAt n else (2 ^ 40, 2 ^ 40 + 4096, 2 ^ 40 + 20480)
/-- Step 4: the system cores start, core 0 with the window's address in a0, and Mbabo's rings stand in SRAM on X (R399). -/
def Dev.handOver (n : Nat) (d : Dev) : Dev :=
  let x := mboxPlace n
  { d with phase := .up, a0 := BitVec.ofNat 64 x.1, cmdRing := BitVec.ofNat 64 x.2.1
           evtRing := BitVec.ofNat 64 x.2.2, wired := Config.wired n }

/-- START: steps 1 to 4 of R395, or minimal mode in place of step 2 (R396). -/
def execStart (s : State) : Host.Outcome State Fault Refusal :=
  if s.dev.phase != .off then .next s
  else
    let n := s.dev.starts
    let bad (k : Nat) : Bool := !(Config.startStep n k)
    let d : Dev := { s.dev.readMbabo n with
      starts := n + 1, offered := Config.offered &&& 0x1F, ident := Config.ident, accepted := 0, featDone := false
      fatalCause := 0, mode := .starting, evtDrop := 0, ns := 0 }
    let o := d.readOs n
    let go : Dev := o.handOver n
    let f (x : Dev) : Dev := { x with failCount := d.failCount + 1 }
    let dev : Dev :=
      if d.failCount < 3 then
        if bad 1 then f (d.startFails 0x81)
        else if bad 2 then f (d.startFails 0x84)
        else if bad 3 then f (d.startFails 0x83)
        else if bad 4 then f (o.startFails 0x82)
        else f go
      else if bad 1 then d.startFails 0x81
      else if bad 4 then { o.startFails 0x82 with mode := .minimal, minimal := true }
      else { go with mode := .minimal, minimal := true }
    .next { s with dev := dev }

/-- FEATURES_TIMEOUT: 60 s have passed since step 4. -/
def execFeaturesTimeout (s : State) : Host.Outcome State Fault Refusal :=
  if s.dev.phase == .up && !s.dev.featDone && s.dev.mode != .fatal then .next (s.modDev (fun d => d.startFails 0x85))
  else .next s

/-- CLEAR_START (R396). -/
def execClearStart (s : State) : Host.Outcome State Fault Refusal := .next (s.reboot 0)
/-- MGMT_RESET. -/
def execMgmtReset (s : State) : Host.Outcome State Fault Refusal := .next (s.reboot s.dev.failCount)

/-! ### The end of a job's data -/

/-- The compute dies and domains without their work: clk counts, set power and heat remain. -/
def Die.cleared (y : Die) : Die := { Die.reset with clk := y.clk }
def Domain.cleared (x : Domain) : Domain := { Domain.reset with clk := x.clk, phase := x.phase, refill := x.refill, cap := x.cap, A := x.cap, heat := x.heat, reading := x.reading, cut := x.cut }

/-- A job with nothing in it, on this device's dies; `mem` is what its memory holds. -/
def State.blankJob (s : State) (mem : List Host.Cell) : Job :=
  { Job.reset with
    mem := mem
    era := s.job.era
    dies := tsets .reset [] ([0, 1, 2, 3].map (fun d => (d, (s.die d).cleared)))
    doms := tsets .reset [] ((List.range 16).map (fun d => (d, (s.dom d).cleared))) }

/-- Every die's rows stop (R408, R411). -/
def State.haltAll (s : State) : State :=
  ([0, 1, 2, 3] : List Nat).foldl State.haltDie s

/-- What rows, their edges and engines had under way ends, so that nothing more is written, and the far caches go with what they
held. -/
def State.quiesce (s : State) : State :=
  let s1 := s.job.rows.foldl (fun t e => t.modRow e.1 (fun r => { r with
    ops := [], tjoinLeft := [], spawn := none, edgeOut := [], edgeSlot := none, edgeFill := 0, landed := []
    peg := r.peg.map (fun x => (x.1, { x.2 with fires := [] })) })) s
  ([0, 1, 2, 3] : List Nat).foldl (fun s d => s.modDie d (fun y => { y with
    far := [], engines := y.engines.map (fun x => (x.1, { x.2 with cmd := none, fault := 0, head := x.2.tail })) })) s1

/-! ### The job key -/

/-- Every memory die's engine takes a key, all zero for an overwritten one, and side memory reads zero. Under another key than
before, every byte of HBM reads as a free value (R407, R408, R411; log entry 12). -/
def State.rekey (s : State) (k : BitVec 512) : State :=
  (if s.dev.jobKey = k then s.modJob (fun j => { j with mem := j.mem.filter (fun e => e.1 < sideBase) })
    else (s.modJob (fun j => { j with mem := [], era := s.drawn + 1 })).draw).modDev (fun d => { d with jobKey := k })

/-- FATAL (R411): every row halts, the key goes, side memory reads zero, and FATAL is reported; before FEATURES the start has
failed too. -/
def execFatal (cause : BitVec 8) (s : State) : Host.Outcome State Fault Refusal :=
  let d := s.dev
  if d.phase != .up || d.mode == .fatal || cause == 0 || 3 < cause.toNat then .next s
  else
    let s2 := (s.haltAll.quiesce.rekey 0).modJob (fun j => { j with pre := .none })
    .next ((s2.modDev (fun d => { d with
      mode := .fatal, fatalCause := cause, lastReason := if d.featDone then d.lastReason else 0x86 })).raise
      ⟨9, 0x8000, cause.setWidth 32, 0, none, s.unitClk 0x8000, 0, 0⟩)

/-! ### Events (R399, R410) -/

/-- Slots of the event ring that Mbabo may fill. -/
def Dev.evtRoom (d : Dev) : Nat := (d.evtHead + 4095 - d.evtTail) % 4096

/-- The 32 bytes of an event record, as four words (R410). -/
def Evt.words (e : Evt) : List W64 :=
  [BitVec.ofNat 64 (e.kind + 256 * e.source + 2 ^ 24 * e.dropped + 2 ^ 32 * e.payload.toNat), e.clk, e.ns, e.extra]
/-- The words of slot i of the event ring. -/
def Dev.evtSlot (d : Dev) (i : Nat) : List W64 := (List.range 4).map (fun j => tget 0 d.evts (4 * i + j))
/-- A record is written into slot i. -/
def Dev.writeEvt (d : Dev) (i : Nat) (e : Evt) : Dev :=
  { d with evts := tsets 0 d.evts (e.words.zipIdx.map (fun (w, j) => (4 * i + j, w))) }

/-- An event is written, in one record or two, or counted as dropped. Each advance of EVT_TAIL raises an interrupt (R399). -/
def Dev.deliver (d : Dev) (e : Evt) : Dev :=
  let e1 := { e with dropped := min 255 d.dropRun }
  match e.second with
  | none =>
    if d.evtRoom = 0 then { d with evtDrop := d.evtDrop + 1, dropRun := d.dropRun + 1 }
    else { d.writeEvt d.evtTail e1 with evtTail := (d.evtTail + 1) % 4096, dropRun := 0, irqs := d.irqs + 1 }
  | some x =>
    if d.evtRoom < 2 then { d with evtDrop := d.evtDrop + 1, dropRun := d.dropRun + 1 }
    else
      let t := (d.evtTail + 1) % 4096
      { (d.writeEvt d.evtTail e1).writeEvt t { e with kind := 10, extra := x, dropped := 0 } with
        evtTail := (t + 1) % 4096, dropRun := 0, irqs := d.irqs + 2 }

/-- The die whose corrected errors are at hand: a free one of those that are powered (R396). -/
def State.ecDie (s : State) : Nat := if s.dev.minimal then 0 else Config.freeNat s.drawn 1 % 9
/-- Errors that the die has corrected since, free in number (R411). -/
def State.correctSome (s : State) : State :=
  s.modDev (fun d => { d with corrected := tset 0 d.corrected s.ecDie (tget 0 d.corrected s.ecDie + Config.freeNat s.drawn 2) })

/-- The event that Mbabo delivers next, and the device without it: of a free source, the oldest that the source raised. With none
raised it may report a die's corrected errors, which count from 0 again. -/
def State.nextEvent (s : State) : Option (Evt × State) :=
  let l := s.dev.raised
  match l[Config.freeNat s.drawn 0 % l.length]? with
  | some x => match l.find? (fun e => e.source == x.source) with
    | some e => some (e, s.modDev (fun d => { d with raised := l.erase e }))
    | none => none
  | none =>
    let n := tget 0 s.dev.corrected s.ecDie
    let u := 0x8000 + 16 * s.ecDie + 15
    if Config.freeBit s.drawn 0 && n ≠ 0 then
      some (⟨8, u, BitVec.ofNat 32 n, 0, none, s.unitClk u, 0, 0⟩,
        s.modDev (fun d => { d with corrected := tset 0 d.corrected s.ecDie 0 }))
    else none

/-- EVENT_DELIVER. -/
def execEventDeliver (s : State) : Host.Outcome State Fault Refusal :=
  if s.dev.phase != .up then .next s
  else match s.correctSome.nextEvent with
    | none => .next s.correctSome.draw
    | some (e, t) =>
      .next (t.draw.modDev (fun d => d.deliver { e with ns := d.ns }))

/-- EVT_HEAD: the operating system has read up to a slot. -/
def execEvtHead (v : Nat) (s : State) : Host.Outcome State Fault Refusal :=
  .next (s.modDev (fun d => { d with evtHead := v % 4096 }))

/-- What the system cores read at an offset of the window (Table 20-7). -/
def Dev.windowRead (d : Dev) (off : Nat) : W64 :=
  match off / 8 with
  | 0 => d.cmdRing
  | 1 => BitVec.ofNat 64 d.cmdTail
  | 2 => BitVec.ofNat 64 d.cmdHead
  | 3 => d.evtRing
  | 4 => BitVec.ofNat 64 d.evtTail
  | 5 => BitVec.ofNat 64 d.evtHead
  | 6 => d.evtDrop
  | _ => 0

/-- WINDOW_WRITE: ignored (R399). -/
def execWindowWrite (_off : Nat) (_v : W64) (s : State) : Host.Outcome State Fault Refusal := .next s

/-! ### The command ring (R398, R399) -/

def cmdCode (r : CmdRec) : Nat := (r.w0.extractLsb' 0 16).toNat
def Dev.slot (d : Dev) (i : Nat) : CmdRec := tget CmdRec.zero d.cmds i

/-- Bits that words 1 to 5 may use (Table 20-8); none for an unknown code. -/
def cmdMask (code : Nat) : Option (List W64) :=
  let all : W64 := 0xFFFFFFFFFFFFFFFF
  let pa : W64 := 0xFFFFFFFFFFFFF
  let va : W64 := 0xFFFFFFFFFFFFFF
  match code with
  | 0x01 => some [all]
  | 0x02 => some [pa, pa, all]
  | 0x03 | 0x11 | 0x14 | 0x30 | 0x31 => some []
  | 0x10 => some [pa, va, 0xFFFFFFFF0001FFFF, va]
  | 0x12 => some [pa, all]
  | 0x13 => some [va, all, 1]
  | 0x20 => some [va]
  | 0x21 => some [pa]
  | 0x22 => some [3, all, all]
  | 0x32 => some [pa, 0xFFFF, 0x7F, all, 0x1FFFF]
  | 0x33 => some [pa, 0xFFFF, all, 0x3FFFF]
  | 0x40 => some [va, all]
  | 0x50 => some [0xF, 3]
  | 0x51 => some [all, pa]
  | 0x60 => some [0xFFFF, all, all]
  | _ => none

/-- The feature bit that a command needs whatever its operands (Table 20-2). -/
def cmdFeature (code : Nat) : Option Nat :=
  match code with
  | 0x40 => some 0
  | 0x21 => some 1
  | 0x50 | 0x51 => some 2
  | 0x13 => some 3
  | _ => none

/-- The job states that a command needs (Table 20-3). -/
def cmdState (code : Nat) (j : JobSt) : Bool :=
  match code with
  | 0x01 | 0x02 | 0x03 | 0x50 | 0x60 => true
  | 0x10 => j == .none
  | 0x31 => j == .halted
  | 0x11 => j != .none
  | _ => j == .opened || j == .halted

/-- R401's first four reasons. -/
def Dev.refuses (d : Dev) (r : CmdRec) : Option Nat :=
  match cmdMask (cmdCode r) with
  | none => some 0x01
  | some m =>
    let basic := cmdCode r = 1 || cmdCode r = 2 || cmdCode r = 3
    if r.w0.extractLsb' 16 16 != 0
        || ([r.w1, r.w2, r.w3, r.w4, r.w5].zipIdx.any (fun (w, i) => w &&& ~~~(m.getD i 0) != 0)) then some 0x01
    else if (match d.mode with
        | .fatal => cmdCode r ≠ 2 && cmdCode r ≠ 3
        | .minimal => !basic
        | _ => !d.featDone && !basic) || (cmdCode r = 1 && d.featDone) then some 0x02
    else if (match cmdFeature (cmdCode r) with | some b => !d.accepted.getLsbD b | none => false) then some 0x0C
    else if !cmdState (cmdCode r) d.jobSt then some 0x02
    else none

/-- What a command comes to. -/
inductive Ans where
  | refuse (reason : Nat)
  | done (result : W64) (s : State)
  /-- It goes on in a later step. -/
  | more (s : State)

/-- The head record completes: its words 6 and 7, and CMD_HEAD, whose advance raises an interrupt (R399). -/
def State.finish (s : State) (status reason : Nat) (result : W64) : State :=
  s.modDev (fun d => { d with
    cmds := tset CmdRec.zero d.cmds d.cmdHead { d.slot d.cmdHead with
      w6 := result, w7 := BitVec.ofNat 64 (status + 256 * reason) + (result <<< 32) }
    preAns := tset 0 d.preAns d.cmdHead 0, ckpt := none
    cmdHead := (d.cmdHead + 1) % 256, irqs := d.irqs + 1 })

/-- A refused command has no effect. -/
def State.answer (s : State) : Ans → State
  | .refuse k => s.finish 1 k 0
  | .done x t => t.finish 0 0 x
  | .more t => t

/-- Mbabo executes the record at CMD_HEAD where it holds this command's code; an unknown code is refused whichever command
Mbabo looks for. Once a PREEMPT has been accepted, or CHECKPOINT has asked for a halt, it completes after the halt (R398). -/
def command (code : Nat) (f : State → CmdRec → Ans) (s0 : State) : Host.Outcome State Fault Refusal :=
  let s := s0.finishHalt
  let d := s.dev
  let r := d.slot d.cmdHead
  if d.phase != .up || d.cmdHead == d.cmdTail then .next s
  else if s.job.pre == .asked then .next s
  else if (cmdMask (cmdCode r)).isNone then .next (s.answer (.refuse 0x01))
  else if cmdCode r ≠ code then .next s
  else match d.refuses r with
    | some k => .next (s.answer (.refuse k))
    | none => .next (s.answer (f s r))

/-! ### PREEMPT and the doorbell (R398, R399) -/

/-- Slots from one index to another. -/
def slotsFrom (a b : Nat) : List Nat := (List.range ((b + 256 - a) % 256)).map (fun i => (a + i) % 256)

/-- One PREEMPT met by a scan is accepted or refused at once. -/
def scanSlot (s : State) (i : Nat) : State :=
  let d := s.dev
  let r := d.slot i
  if cmdCode r ≠ 0x30 || tget 0 d.preAns i ≠ 0 then s
  else match d.refuses r with
    | some k => s.modDev (fun d => { d with preAns := tset 0 d.preAns i (k + 1) })
    | none =>
      let s1 := s.modDev (fun d => { d with preAns := tset 0 d.preAns i 1 })
      if d.jobSt == .opened && s.job.pre == .none then s1.modJob (fun j => { j with pre := .asked, saved := [] }) else s1

/-- CMD_TAIL: a record is written into slot CMD_TAIL, then CMD_TAIL, which a write that does not advance it by one, or that
would pass a full ring, leaves. -/
def execCmdTail (r : CmdRec) (v : Nat) (s : State) : Host.Outcome State Fault Refusal :=
  let d := s.dev
  let s1 := s.modDev (fun d => { d with cmds := tset CmdRec.zero d.cmds d.cmdTail r })
  if d.phase != .up || v ≠ (d.cmdTail + 1) % 256 || v = d.cmdHead then .next s1
  else
    let s2 := s1.modDev (fun d => { d with cmdTail := v })
    .next ((slotsFrom d.cmdHead v).foldl scanSlot s2)

/-- PREEMPT at the head: refused as its scan refused it, or complete once the halt it asked for is over. -/
def execPreempt (s : State) : Host.Outcome State Fault Refusal :=
  let d := s.dev
  let r := d.slot d.cmdHead
  if d.phase != .up || d.cmdHead == d.cmdTail then .next s
  else if (cmdMask (cmdCode r)).isNone then .next (s.answer (.refuse 0x01))
  else if cmdCode r ≠ 0x30 then .next s
  else
    let a := tget 0 d.preAns d.cmdHead
    if 2 ≤ a then .next (s.answer (.refuse (a - 1)))
    else
      let s1 := s.finishHalt
      .next (if s1.job.pre == .asked then s1 else s1.answer (.done 0 s1))

/-! ### FEATURES, STATUS, ATTEST -/

/-- FEATURES (R400). -/
def execFeatures (s : State) : Host.Outcome State Fault Refusal :=
  command 0x01 (fun s r =>
    if r.w1 &&& ~~~s.dev.offered != 0 then .refuse 0x0C
    else .done s.dev.offered (s.modDev (fun d => { d with
      accepted := r.w1, featDone := true
      mode := if d.mode == .starting then .normal else d.mode
      failCount := if d.mode == .minimal then d.failCount else 0 }))) s

def modeCode : Mode → Nat
  | .normal => 0
  | .minimal => 1
  | .fatal => 2
  | .starting => 3
def jobCode : JobSt → Nat
  | .none => 0
  | .opened => 1
  | .halted => 2
  | .closing => 3

/-- Table 20-11. -/
def Dev.status (d : Dev) : W64 :=
  BitVec.ofNat 64 (modeCode d.mode + 4 * d.featDone.toNat + 8 * jobCode d.jobSt + 256 * d.failCount
    + 2 ^ 16 * d.lastReason.toNat + 2 ^ 24 * d.fatalCause.toNat)

/-- STATUS (R406). -/
def execStatus (s : State) : Host.Outcome State Fault Refusal := command 0x03 (fun s _ => .done s.dev.status s) s

/-- Word j of a record, and the record with another word j. -/
def cmdWord (r : CmdRec) (j : Nat) : W64 := [r.w0, r.w1, r.w2, r.w3, r.w4, r.w5, r.w6, r.w7].getD j 0
def cmdSetWord (r : CmdRec) (j : Nat) (w : W64) : CmdRec :=
  let x (i : Nat) := if i = j then w else cmdWord r i
  ⟨x 0, x 1, x 2, x 3, x 4, x 5, x 6, x 7⟩
/-- A word with another byte k. -/
def withByte (w : W64) (k : Nat) (b : W8) : W64 := (w &&& ~~~((0xFF : W64) <<< (8 * k))) ||| (b.setWidth 64 <<< (8 * k))

/-- What an address of X beyond HBM holds (R399): Mbabo's window, a ring, or other SRAM, each with the offset. -/
inductive XPart where
  | window (o : Nat) | cmds (o : Nat) | evts (o : Nat) | sram
def Dev.part (d : Dev) (a : Nat) : XPart :=
  let within (b : W64) (n : Nat) : Bool := b.toNat ≤ a && a < b.toNat + n
  if within d.a0 4096 then .window (a - d.a0.toNat)
  else if within d.cmdRing 16384 then .cmds (a - d.cmdRing.toNat)
  else if within d.evtRing 131072 then .evts (a - d.evtRing.toNat)
  else .sram
def Dev.xOk (d : Dev) (a : Nat) : Bool := 2 ^ 39 ≤ a && (match d.part a with | .sram => Config.xSram a | _ => true)

/-- Physical memory as the system cores share it with Mbabo: HBM while it is powered, and on X the window, the rings and other
SRAM. A byte that Mbabo would write into its own window has no effect. -/
def State.paOk (s : State) (a n : Nat) : Bool :=
  (a + n ≤ 2 ^ 39 && !s.dev.minimal) || (List.range n).all (fun i => s.dev.xOk (a + i))
def State.paByte (s : State) (a : Nat) : W8 :=
  if a < 2 ^ 39 then s.byte a else
  match s.dev.part a with
  | .window o => byteOf (s.dev.windowRead o).toNat (o % 8)
  | .cmds o => byteOf (cmdWord (s.dev.slot (o / 64)) (o % 64 / 8)).toNat (o % 8)
  | .evts o => byteOf (tget 0 s.dev.evts (o / 8)).toNat (o % 8)
  | .sram => tget 0 s.dev.sram a
def State.setPa (s : State) (a : Nat) (b : W8) : State :=
  if a < 2 ^ 39 then s.setByte a b else
  s.modDev (fun d => match d.part a with
    | .window _ => d
    | .cmds o =>
      let r := d.slot (o / 64)
      { d with cmds := tset CmdRec.zero d.cmds (o / 64) (cmdSetWord r (o % 64 / 8) (withByte (cmdWord r (o % 64 / 8)) (o % 8) b)) }
    | .evts o => { d with evts := tset 0 d.evts (o / 8) (withByte (tget 0 d.evts (o / 8)) (o % 8) b) }
    | .sram => { d with sram := tset 0 d.sram a b })
/-- n bytes at a physical address; none for reason 0x0F. -/
def State.paRead (s : State) (a : W64) (n : Nat) (ecc : Bool) : Option (List W8) :=
  if ecc || !s.paOk a.toNat n then none else some ((List.range n).map (fun i => s.paByte (a.toNat + i)))

/-- The report for a nonce, and its bytes: the fields in the order listed, and the signature of their SHA3-512 digest under the
device identity key (R397). -/
def Dev.report (d : Dev) (nonce : List W8) : Report := ⟨d.mbaboDigest, d.osDigest, d.accepted, d.ident, d.failCount, nonce⟩
def Dev.attestation (d : Dev) (nonce : List W8) : List W8 :=
  let r := d.report nonce
  Config.reportBytes r (Config.sign (Config.sha3 (Config.fieldBytes r)))

/-- ATTEST (R397). -/
def execAttest (ecc : Bool) (s : State) : Host.Outcome State Fault Refusal :=
  command 0x02 (fun s r =>
    let len := r.w3.toNat
    if r.w2 &&& 63 != 0 || len < 8192 then .refuse 0x03
    else match s.paRead r.w1 64 ecc with
      | none => .refuse 0x0F
      | some nonce =>
        let rep := (s.dev.attestation nonce).take 8192
        if !s.paOk r.w2.toNat len then .refuse 0x0F
        else .done (BitVec.ofNat 64 rep.length) (rep.zipIdx.foldl (fun s (b, i) => s.setPa (r.w2.toNat + i) b) s)) s

/-! ### The management port (R412) -/

/-- What the port has answered. -/
def State.mgmt (s : State) (l : List W64) : State := s.modDev (fun d => { d with mgmtOut := l })

def execMgmtStatus (s : State) : Host.Outcome State Fault Refusal := .next (s.mgmt [s.dev.status])
/-- The report for a nonce that the port brings. -/
def execMgmtAttest (s : State) : Host.Outcome State Fault Refusal :=
  let nonce := (List.range 64).map (fun i => BitVec.ofNat 8 (Config.freeNat s.drawn i))
  .next (s.draw.mgmt ((s.dev.attestation nonce).map (fun b => b.setWidth 64)))
def execMgmtReadStart (s : State) : Host.Outcome State Fault Refusal :=
  .next (s.mgmt [BitVec.ofNat 64 s.dev.failCount, s.dev.lastReason.setWidth 64])

def execMgmtReadEvents (s : State) : Host.Outcome State Fault Refusal :=
  .next (s.mgmt ((List.range 4096).flatMap s.dev.evtSlot))

end Sys2Proof.Machine
end

