-- ==== Sys2Proof/Machine/Jobs.lean ====
section
/-! DEFINITION. Mbabo's commands on a job: JOB_OPEN, JOB_CLOSE, ALLOC_SET, SIDE_CHECK, XLATE_INVAL, PLACE, POOL_BIND,
POOL_UNBIND, RESUME, CHECKPOINT, RESTORE, RING_LOAD, LINK_UP, COMM_LOAD and POWER_SET (R402 to R409 and the rules they name). -/

namespace Sys2Proof.Machine

/-! ### What Mbabo reads -/

/-- A number of n bytes at an offset of a record. -/
def recNum (b : List W8) (o n : Nat) : Nat := leVal ((b.drop o).take n)
def recW (b : List W8) (o : Nat) : W64 := BitVec.ofNat 64 (recNum b o 8)

/-- The physical addresses of n bytes of the job's global space, by X's translation unit; none where one does not
translate. -/
def vaKeys : Nat → State → W64 → Option (List Nat) × State
  | 0, s, _ => (some [], s)
  | n + 1, s, a =>
    if a.extractLsb' 55 9 != 0 then (none, s)
    else match s.translate 4 a.toNat .read with
      | (.error _, s) => (none, s)
      | (.ok k, s) => match vaKeys n s (a + 1) with
        | (none, s) => (none, s)
        | (some l, s) => (some (k :: l), s)

/-- n bytes of the job's global space; none for reason 0x0F. -/
def State.vaRead (s : State) (a : W64) (n : Nat) (ecc : Bool) : Option (List W8) × State :=
  match vaKeys n s a with
  | (some l, s) => (if ecc then none else some (l.map s.byte), s)
  | (none, s) => (none, s)

/-! ### JOB_OPEN and JOB_CLOSE (R407, R408) -/

/-- The pinned base of each page of the hamper region; none where a page is not mapped for writing. -/
def pinPages (s : State) (base : Nat) : Nat → Option (Tbl Nat)
  | 0 => some []
  | n + 1 =>
    match pinPages s base n, (walk 4 (base + 65536 * n) ptLevels s.job.root s).1 with
    | some t, some e => if leafAllows e .write then some (t ++ [(n, e.toNat / 65536 * 65536)]) else none
    | _, _ => none

/-- JOB_OPEN. What the system cores have put in HBM stays readable, the page table of step 1 with it, though step 2 loads a new key
(log entry 12). A table at w1 that is not in HBM, or that reads with an uncorrectable error, is not readable (R402). -/
def execJobOpen (s : State) : Host.Outcome State Fault Refusal :=
  command 0x10 (fun s r =>
    if r.w1 &&& 0x3FF != 0 || r.w2 &&& 7 != 0 || r.w4 &&& 0x7FFFFFF != 0 then .refuse 0x03
    else if 2 ^ 39 ≤ r.w1.toNat || s.dev.readBad then .refuse 0x0F
    else
      let j := { s.blankJob (s.job.mem.filter (fun e => e.1 < sideBase)) with
        root := r.w1.toNat, tvec := r.w2.setWidth 56, hamper := r.w4.setWidth 56, tier := r.w3 }
      let s1 := s.modJob (fun _ => j)
      match (if r.w4.getLsbD 55 then none else pinPages s1 r.w4.toNat 2048) with
      | none => .refuse 0x03
      | some t => .done 0 ((s1.modJob (fun j => { j with pinned := t.filter (fun e => e.2 ≠ 0) })).draw.modDev (fun d => { d with
          jobSt := .opened, jobKey := Config.randomKey s.drawn }))) s

/-- JOB_CLOSE: the rows halt; then work, key and data go, with what link commands have still to send. HBM keeps its ciphertext,
which reads as something else (R408). -/
def execJobClose (s : State) : Host.Outcome State Fault Refusal :=
  command 0x11 (fun s _ =>
    if s.dev.jobSt != .closing then .more (s.haltAll.modDev (fun d => { d with jobSt := .closing }))
    else
      let t := s.endChains.rekey 0
      .done 0 ((t.modJob (fun j => t.blankJob j.mem)).modDev (fun d => { d with
        jobSt := .none, ports := d.ports.map (fun e => (e.1, { e.2 with out := [] })) }))) s

/-! ### Tables of the job -/

/-- The ranges of ALLOC_SET's table, or the reason (R404). -/
def rangesOf (b : List W8) (n : Nat) : Except Nat (List Range) :=
  let es := (List.range n).map (fun i => (recW b (16 * i), recW b (16 * i + 8)))
  let rs : List Range := es.map (fun (x, y) => ⟨x.toNat, (y.extractLsb' 0 48).toNat, y.getLsbD 48⟩)
  if es.any (fun (x, y) => x.extractLsb' 56 8 != 0 || y.extractLsb' 49 15 != 0) then .error 0x01
  else if rs.any (fun r => r.base % 65536 ≠ 0 || r.len % 65536 ≠ 0 || r.len = 0)
      || rs.zipIdx.any (fun (r, i) => (rs.drop (i + 1)).any (fun q => meets r.base r.len q.base q.len)) then .error 0x0E
  else .ok rs

/-- Descriptors whose span no range holds any longer become invalid (R283). -/
def State.checkDescs (s : State) : State :=
  s.modJob (fun j => { j with desc := j.desc.map (fun e =>
    (e.1, if (s.inAlloc e.2.span.1 e.2.span.2 e.2.isDst).isSome then { e.2 with valid := false } else e.2)) })

/-- ALLOC_SET. -/
def execAllocSet (ecc : Bool) (s : State) : Host.Outcome State Fault Refusal :=
  command 0x12 (fun s r =>
    let n := r.w2.toNat
    if r.w1 &&& 15 != 0 || 256 < n then .refuse 0x03
    else match s.paRead r.w1 (16 * n) ecc with
      | none => .refuse 0x0F
      | some b => match rangesOf b n with
        | .error k => .refuse k
        | .ok rs => .done 0 (s.modJob (fun j => { j with alloc := rs })).checkDescs) s

/-- SIDE_CHECK (R243): the pages' owner tags go, and no far cache keeps a byte of them. -/
def execSideCheck (s : State) : Host.Outcome State Fault Refusal :=
  command 0x13 (fun s r =>
    let a := r.w1.toNat
    let n := r.w2.toNat
    let p := sidePage a
    if r.w1 &&& 0xFFFF != 0 || (sideFault r.w1).isSome || n = 0 || 32768 < n || 32768 < p + n then .refuse 0x03
    else
      let inRun (q : Nat) : Bool := p ≤ q && q < p + n
      let s1 := ([0, 1, 2, 3] : List Nat).foldl (fun s d => s.flushIf d (fun x => inRun (sidePage x))) s
      .done 0 (s1.modJob (fun j => { j with
        checked := tsets false j.checked ((List.range n).map (fun i => (p + i, r.w3.getLsbD 0)))
        owner := j.owner.filter (fun e => !inRun (e.1 / 1024)) }))) s

/-- XLATE_INVAL (R231). -/
def execXlateInval (s : State) : Host.Outcome State Fault Refusal :=
  command 0x14 (fun s _ => .done 0 (s.modJob (fun j => { j with tlb := [] }))) s

/-- POWER_SET (R376). -/
def execPowerSet (s : State) : Host.Outcome State Fault Refusal :=
  command 0x60 (fun s r =>
    if r.w2 == 0 || (65535 : W64).ult r.w2 || r.w3 == 0 || (0x100000 : W64).ult r.w3 then .refuse 0x03
    else .done 0 ((List.range 16).foldl (fun s d =>
      if r.w1.getLsbD d then s.modDom d (fun x => { x with refill := r.w2.toNat, cap := r.w3.toNat, cut := 0 }) else s) s)) s

/-! ### PLACE (R298 to R303) -/

/-- An edge byte's binding; none where a bit or the binding code is reserved (R401). -/
def edgeOf (b : W8) : Option Bind :=
  match (b.extractLsb' 0 2).toNat with
  | 0 => if b == 0 then some .closed else none
  | 1 => some (.cb (b.extractLsb' 2 6).toNat)
  | 2 => if b.extractLsb' 6 2 == 0 then some (.link (b.extractLsb' 2 4).toNat) else none
  | _ => none

/-- Zero and reserved fields of a placement record. -/
def placeReserved (b : List W8) : Bool :=
  let z (o n : Nat) : Bool := recNum b o n ≠ 0
  z 7 1 || z 15 1 || 64 ≤ recNum b 22 1 || 16 ≤ recNum b 23 1 || z 30 2 || z 48 16
    || (edgeOf (b.getD 24 0)).isNone || (edgeOf (b.getD 25 0)).isNone

/-- Fields outside their ranges (Table 13-1, R28, R299). -/
def placeRange (b : List W8) : Bool :=
  let entry := recW b 0
  let top := recNum b 16 2
  let rows := recNum b 18 2
  let L := recNum b 20 2
  let ng := recNum b 26 2
  let nd := recNum b 28 2
  let gt := recNum b 32 8
  let dl := recNum b 40 8
  entry &&& 7 != 0 || entry.getLsbD 55 || (511 < top && top ≠ 0xFFFF) || rows = 0 || 512 < rows
    || (if top = 0xFFFF then 128 < rows else 512 < top + rows) || !([32, 64, 128, 256, 512, 1024].contains L)
    || recNum b 23 1 % 16 = 0 || 255 < ng || 16 < nd || gt % 8 ≠ 0 || dl % 8 ≠ 0 || (ng = 0 && gt ≠ 0) || (nd = 0 && dl ≠ 0)

/-- A group with every slot idle and every member expected (R306). -/
def freshGroup (num : Nat) (members : BitVec 512) : Group :=
  { num := BitVec.ofNat 8 num, members := members, slots := [], expected := (List.range 512).countP (fun i => members.getLsbD i)
    phase := 0, red := redFresh, firstDom := none, lateDom := none, lastRun := 0, lastDom := 0 }

/-- The group table's entries and, last, group 255. -/
def groupsOfTable (t : List W8) (ng rows : Nat) : List Group :=
  sortKey (fun g => g.num.toNat) ((List.range ng).map (fun i =>
    freshGroup (recNum t (72 * i) 1) (BitVec.ofNat 512 (recNum t (72 * i + 8) 64)))) ++ [freshGroup 255 (BitVec.ofNat 512 (2 ^ rows - 1))]

/-- R301's tests on the group table. -/
def groupsBad (gs : List Group) (rows : Nat) : Bool :=
  !(gs.map (fun g => g.num)).Nodup || gs.any (fun g => 2 ^ rows ≤ g.members.toNat)
    || (List.range rows).any (fun i => 4 < gs.countP (fun g => g.members.getLsbD i))

/-- R17 and R369 on one edge: `top` for the north edge. -/
def State.edgeBad (s : State) (p : Pl) (north : Bool) : Bool :=
  let d := match p.top with | some t => (if north then t else t + p.rows - 1) / 128 | none => p.die
  match (if north then p.north else p.south) with
  | .closed | .row => false
  | .cb b => !(s.buf d b).setUp
  | .link k =>
    let atEnd := match p.top with
      | some t => if north then t = 0 else t + p.rows = 512
      | none => if north then p.die = 0 else p.die = 3
    !atEnd || (s.port k).chainEnd ≠ (if north then 1 else 2)

/-- A floating band binds one edge to a link at most. -/
def Pl.twoLinks (p : Pl) : Bool :=
  p.top.isNone && (match p.north, p.south with | .link _, .link _ => true | _, _ => false)

/-- The placement that a record and its tables name. -/
def plOf (s : State) (b t l : List W8) (north south : Bind) : Pl :=
  let sched := recNum b 22 1
  let nd := recNum b 28 2
  { num := s.job.nextPl, entry := BitVec.ofNat 56 (recNum b 0 7), param := recW b 8
    top := if recNum b 16 2 = 0xFFFF then none else some (recNum b 16 2), rows := recNum b 18 2, width := recNum b 20 2
    cls := sched % 4, pri := sched / 4 % 4, die := sched / 16 % 4, weight := recNum b 23 1, north := north, south := south
    groups := groupsOfTable t (recNum b 26 2) (recNum b 18 2)
    deps := (List.range nd).map (fun i => (recNum l (8 * i) 4, recNum l (8 * i + 4) 1 % 2 = 1))
    st := .waiting, secured := [], topAt := none, early := false }

/-- Accepted, and not yet in its queues (R303). -/
def Pl.outside (p : Pl) : Bool := match p.st with | .waiting | .ready _ => true | _ => false

/-- The last tests of a placement and its acceptance. -/
def State.accept (s : State) (p : Pl) : Ans :=
  if groupsBad p.groups p.rows then .refuse 0x04
  else if s.edgeBad p true || s.edgeBad p false || p.twoLinks then .refuse 0x05
  else if p.deps.any (fun d => d.1 = 0 || s.job.nextPl ≤ d.1) then .refuse 0x06
  else if p.deps.all s.depMet && p.dies.any (fun d => 64 ≤ (s.plq d p.pri).length) then .refuse 0x07
  else
    let t := (s.modJob (fun j => { j with pls := j.pls ++ [p], nextPl := j.nextPl + 1 })).pump
    if 4096 < t.job.pls.countP Pl.outside then .refuse 0x07 else .done (BitVec.ofNat 64 p.num) t

/-- PLACE. -/
def execPlace (ecc : Bool) (s : State) : Host.Outcome State Fault Refusal :=
  command 0x20 (fun s r =>
    if 2 ^ 32 ≤ s.job.nextPl || r.w1 &&& 63 != 0 then .refuse 0x03
    else match s.vaRead r.w1 64 ecc with
      | (none, _) => .refuse 0x0F
      | (some b, s) =>
        let link (e : Option Bind) : Bool := match e with | some (.link _) => true | _ => false
        if !s.dev.accepted.getLsbD 4 && (link (edgeOf (b.getD 24 0)) || link (edgeOf (b.getD 25 0))) then .refuse 0x0C
        else if placeReserved b then .refuse 0x01
        else if placeRange b then .refuse 0x03
        else match edgeOf (b.getD 24 0), edgeOf (b.getD 25 0) with
          | some n, some m =>
            let ng := recNum b 26 2
            let nd := recNum b 28 2
            match s.vaRead (recW b 32) (72 * ng) false with
            | (none, _) => .refuse 0x0F
            | (some t, s) => match s.vaRead (recW b 40) (8 * nd) false with
              | (none, _) => .refuse 0x0F
              | (some l, s) =>
                if (List.range ng).any (fun i => recNum t (72 * i + 1) 7 ≠ 0)
                    || (List.range nd).any (fun i => 2 ≤ recNum l (8 * i + 4) 4) then .refuse 0x01
                else s.accept (plOf s b t l n m)
          | _, _ => .refuse 0x01) s

/-! ### POOL_BIND and POOL_UNBIND (R318, R319, R375, R403) -/

/-- Rows of a die that a mask of 128 bits names. -/
def maskRows (d m : Nat) : List Nat := ((List.range 128).filter (fun i => m.testBit i)).map (fun i => 128 * d + i)

/-- The queue words of a pool record: k and base. -/
def poolQueue (b : List W8) (q : Nat) : Nat × W64 :=
  let w := recW b (32 + 8 * q)
  ((w.extractLsb' 0 5).toNat, w &&& 0xFFFFFFFFFF0000)

def poolReserved (b : List W8) : Bool :=
  4 ≤ recNum b 16 1 || 4 ≤ recNum b 17 1 || 16 ≤ recNum b 18 1 || recNum b 19 5 ≠ 0
    || [0, 1, 2, 3].any (fun q => let w := recW b (32 + 8 * q); w.extractLsb' 5 11 != 0 || w.extractLsb' 56 8 != 0)

/-- A configured queue whose ring, or whose die's window or continuation buffer, holds records. -/
def State.queueBusy (s : State) (d q : Nat) : Bool :=
  let y := s.die d
  (s.tq d q).k ≠ 0 && ((s.tq d q).count ≠ 0 || !y.window.isEmpty || !y.cont.isEmpty)

/-- POOL_BIND. -/
def execPoolBind (ecc : Bool) (s : State) : Host.Outcome State Fault Refusal :=
  command 0x21 (fun s r =>
    if r.w1 &&& 63 != 0 then .refuse 0x03
    else match s.paRead r.w1 64 ecc with
      | none => .refuse 0x0F
      | some b =>
        let d := recNum b 16 1 % 4
        let cls := recNum b 17 1 % 4
        let weight := recNum b 18 1 % 16
        let rows := maskRows d (recNum b 0 16)
        let ks := ([0, 1, 2, 3] : List Nat).map (fun q => (q, poolQueue b q))
        let doms := (rows.map domOf).eraseDups
        if poolReserved b then .refuse 0x01
        else if weight = 0 || ks.any (fun x => (x.2.1 ≠ 0 && (x.2.1 < 10 || 20 < x.2.1)) || x.2.2.getLsbD 55) then .refuse 0x03
        else if (s.die d).queues.isEmpty && ks.any (fun x => x.2.1 = 0) then .refuse 0x03
        else if ks.any (fun x => x.2.1 ≠ 0 && s.queueBusy d x.1) then .refuse 0x02
        else if rows.any (fun n => !s.rowFree n) then .refuse 0x02
        else if doms.any (fun m => s.domClass m != cls && !s.domIdle m) then .refuse 0x0B
        else
          let s1 := ks.foldl (fun s x => if x.2.1 = 0 then s else s.setTq d x.1 ⟨x.2.2, x.2.1, 0, 0, (s.tq d x.1).reserved⟩) s
          let s2 := doms.foldl (fun s m => s.modDom m (fun x => { x with cls := cls, reassign := none })) s1
          let s3 := rows.foldl (fun s n => s.modRow n (fun r => { r with
            pool := some d, unbind := false, resident := []
            csr := { r.csr with pclass := BitVec.ofNat 2 cls, pweight := BitVec.ofNat 4 weight } })) s2
          .done (BitVec.ofNat 64 (d + 1))
            (if rows.isEmpty then s3 else s3.modJob (fun j => { j with poolPar := tset 0 j.poolPar d (recW b 24) }))) s

/-- POOL_UNBIND: idle rows at once, the others when their waves end. -/
def execPoolUnbind (s : State) : Host.Outcome State Fault Refusal :=
  command 0x22 (fun s r =>
    .done 0 ((maskRows r.w1.toNat (r.w2.toNat + 2 ^ 64 * r.w3.toNat)).foldl (fun s n =>
      if (s.row n).pool.isNone then s
      else if (s.row n).life == .idle then
        (s.freeOwned n).modRow n (fun r => { r with pool := none, unbind := false, csr := { r.csr with taskpool := 0 } })
      else s.modRow n (fun r => { r with unbind := true })) s)) s

/-! ### RESUME, CHECKPOINT and RESTORE (R353, R368, R409) -/

/-- RESUME. -/
def execResume (ecc : Bool) (s : State) : Host.Outcome State Fault Refusal :=
  command 0x31 (fun s _ =>
    if ecc then .refuse 0x0F
    else if s.threads.any (fun n => hamperBad (s.row n) (s.hamperGet n)) then .refuse 0x08
    else .done 0 s.resumeAll) s

/-- Every port of a mask is up. -/
def State.portsUp (s : State) (m : W64) : Bool := (List.range 16).all (fun p => !m.getLsbD p || (s.port p).up)

/-- The ranks of this device's group of eight in a communicator, their identities, and the rank that holds the group's parity
stream of checkpoint j (R367, R368). -/
def Comm.ranks8 (m : Comm) : List Nat := (List.range 8).map (fun i => m.octet + i)
def Comm.eight (m : Comm) : List (BitVec 17) := m.ranks8.map (tget 0 m.idents)
def Comm.holderOf (m : Comm) (j : W64) : Nat := m.octet + j.toNat % 8

/-! ### Streams (R409) -/

/-- Blocks of a stream, and the bytes of one with its tag. -/
def streamBlocks : Nat := 526400
def sealedBytes : Nat := 2 ^ 20 + 16
/-- The nonce of block b. -/
def Stream.nonce (x : Stream) (b : Nat) : BitVec 96 := x.ident.setWidth 32 ++ x.num.setWidth 32 ++ BitVec.ofNat 32 b
/-- Byte i of block b: saved state, then HBM in physical order, then side memory, die by die. -/
def Stream.plain (x : Stream) (b i : Nat) : W8 :=
  if b < 64 then Config.savedState x.job (2 ^ 20 * b + i)
  else if b < 64 + 524288 then x.job.byte (2 ^ 20 * (b - 64) + i)
  else
    let m := b - 64 - 524288
    x.job.byte (sideBase + 2 ^ 32 * (m / 512) + 2 ^ 20 * (m % 512) + i)
/-- Block b as it is written: encrypted, with its tag. -/
def Stream.block (x : Stream) (b : Nat) : List W8 := (List.range sealedBytes).map (Config.gcm x.key (x.nonce b) (x.plain b))

/-! ### The parity stream (R368) -/

/-- Cells that carry one block of the exchange. -/
def blockCells : Nat := sealedBytes / 64 + 1
/-- Cell i of block b of the exchange for checkpoint j on communicator c, from or to a rank. -/
def parityMsg (c r : Nat) (j : W64) (b i : Nat) (data : List W8) : Msg := ⟨c, r, j.setWidth 32, 5, 0x13, sealedBytes, i, data, 0, b⟩
/-- The cell that has come. -/
def State.parityRx (s : State) (c r : Nat) (j : W64) (b i : Nat) : Option Msg :=
  s.job.linkRx.find? (fun x => x.kind == 5 && x.comm == c && x.peer == r && x.tag == j.setWidth 32 && x.ser == b && x.blk == i)

/-- An XOR-REDUCE step of block b: a member that is not the holder sends its block to the holder, which takes the other seven
and has their XOR with its own; none while some of it is still to come. -/
def State.parityStep (s : State) (c : Nat) (x : Stream) (b : Nat) : Option (State × List W8) :=
  let m := s.comm c
  let h := m.holderOf x.num
  let cells := List.range blockCells
  if m.rank ≠ h then
    let own := x.block b
    some (cells.foldl (fun s i => s.send (parityMsg c h x.num b i ((own.drop (64 * i)).take 64))) s, [])
  else
    let others := m.ranks8.filter (· != m.rank)
    if others.all (fun r => cells.all (fun i => (s.parityRx c r x.num b i).isSome)) then
      let part (r : Nat) : List W8 := (cells.flatMap (fun i => (((s.parityRx c r x.num b i).map Msg.data).getD []))).take sealedBytes
      some (s.voidRx (fun y => y.kind == 5 && y.comm == c && y.tag == x.num.setWidth 32 && y.ser == b),
        (others.map part).foldl (fun a p => a.zipWith (· ^^^ ·) p) (x.block b))
    else none

/-- The streams of a checkpoint stored: the device's own at its tier and, where it is the holder, its group's parity stream at
the endpoint, each in place of one of the same name. -/
def Dev.store (d : Dev) (x : Stream) (par : Option Shard) : Dev :=
  { d with
    tierStore := d.tierStore.filter (fun y => !(y.tier == x.tier && y.ident == x.ident && y.num == x.num)) ++ [x]
    shards := match par with
      | some p => d.shards.filter (fun y => !(y.endpoint == p.endpoint && y.members == p.members && y.num == p.num)) ++ [p]
      | none => d.shards }

/-- The ranks that this device exchanges blocks with for checkpoint j's parity stream, and whether it has a path to each. -/
def Comm.parityPeers (m : Comm) (j : W64) : List Nat :=
  if m.rank = m.holderOf j then m.ranks8.filter (· != m.rank) else [m.holderOf j]
def State.parityPath (s : State) (c : Nat) (j : W64) : Bool :=
  ((s.comm c).parityPeers j).all (fun r => (s.comm c).mask r != 0 && s.pathUp ((s.comm c).mask r))

/-- The job stands halted: its streams hold it as it stands first; the parity stream is formed block by block, waiting where a path
has gone down since, and the streams are stored (log entry 63). -/
def State.streams (s : State) (r : CmdRec) (k0 : Ckpt) : Ans :=
  let par := !r.w3.getLsbD 6
  let c := (r.w3.extractLsb' 0 6).toNat
  let m := s.comm c
  let j := k0.job.getD s.job
  let k : Ckpt := { k0 with job := some j }
  let x : Stream := ⟨s.job.tier, s.dev.ident, r.w4, k.key, j⟩
  let p : Shard := ⟨r.w5.setWidth 17, m.eight, r.w4, k.parity⟩
  if !par || streamBlocks ≤ k.blocks then
    .done (BitVec.ofNat 64 (streamBlocks * sealedBytes))
      (s.modDev (fun d => d.store x (if par && m.rank == m.holderOf r.w4 then some p else none)))
  else match (if s.parityPath c r.w4 then s.parityStep c x k.blocks else none) with
    | none => .more (s.modDev (fun d => { d with ckpt := some k }))
    | some (s1, l) => .more (s1.modDev (fun d => { d with ckpt := some { k with blocks := k.blocks + 1, parity := k.parity ++ l } }))

/-- CHECKPOINT: its tests; then the job halts where it runs; then the stream goes to the safe tier, and the parity stream to its
endpoint (log entry 72). -/
def execCheckpoint (ecc : Bool) (s : State) : Host.Outcome State Fault Refusal :=
  command 0x32 (fun s r =>
    match s.dev.ckpt with
    | some k => s.streams r k
    | none =>
      let par := !r.w3.getLsbD 6
      let n := (s.comm (r.w3.extractLsb' 0 6).toNat).n
      if r.w2 == 0 || (par && (n = 0 || n % 8 ≠ 0)) || (!par && r.w5 != 0) then .refuse 0x03
      else match s.paRead r.w1 32 ecc with
        | none => .refuse 0x0F
        | some key =>
          let k : Ckpt := ⟨key, none, 0, []⟩
          if !s.portsUp r.w2 || (par && !s.parityPath (r.w3.extractLsb' 0 6).toNat r.w4) then .refuse 0x0A
          else if s.dev.jobSt == .opened then
            .more ((s.modJob (fun j => { j with pre := .asked, saved := [] })).modDev (fun d => { d with ckpt := some k })).finishHalt
          else if par then .more (s.modDev (fun d => { d with ckpt := some k }))
          else s.streams r k) s

/-- A binding as it stands where links bound to chain ends were not accepted: nothing was ever bound (R400). -/
def Bind.kept (on : Bool) (b : Bind) : Bind := match b with | .link _ => if on then b else .closed | _ => b

/-- A job without what the bits that this start has not accepted govern, as though it had never been configured (R400): the
Mangle's table, pools and queues, communicators, checked pages, chain ends. A row that runs a wave leaves its pool behind it (log
entry 71). -/
def Job.within (j : Job) (acc : W64) : Job :=
  let pools := acc.getLsbD 1
  let ends := acc.getLsbD 4
  { j with
    ring := if acc.getLsbD 0 then j.ring else .reset
    comms := if acc.getLsbD 2 then j.comms else []
    checked := if acc.getLsbD 3 then j.checked else []
    owner := if acc.getLsbD 3 then j.owner else []
    poolPar := if pools then j.poolPar else []
    pls := j.pls.map (fun p => { p with north := p.north.kept ends, south := p.south.kept ends })
    rows := j.rows.map (fun e => (e.1, { e.2 with
      nbind := e.2.nbind.kept ends, sbind := e.2.sbind.kept ends
      pool := if pools || e.2.life != .idle then e.2.pool else none
      unbind := e.2.unbind || (!pools && e.2.pool.isSome) }))
    dies := j.dies.map (fun e =>
      let y := if acc.getLsbD 0 then e.2 else { e.2 with ringRev := 0, ringSeg := 0, ringMark := 0, ringPos := 0 }
      (e.1, if pools then y else { y with queues := [], window := [], cont := [], arriving := [], steal := ⟨0, none⟩ })) }

/-- A stream's job as this device takes it up, halted with every hamper written (R409): its own page table, hampers, clk counts and
set power stay (R376, R407), and what no accepted bit governs. -/
def State.restored (s : State) (j0 : Job) : Job :=
  let j := j0.within s.dev.accepted
  { j with
    root := s.job.root, tvec := s.job.tvec, hamper := s.job.hamper, pinned := s.job.pinned, tier := s.job.tier, tlb := []
    pre := .halted, saved := (j.rows.filter (fun e => e.2.life != .idle)).foldl (fun t e => tset false t e.1 true) []
    doms := tsets .reset [] ((List.range 16).map (fun d =>
      (d, { (s.dom d).cleared with cls := (tget .reset j.doms d).cls, reassign := (tget .reset j.doms d).reassign })))
    rows := j.rows.map (fun e => (e.1, if e.2.life == .idle then e.2 else
      { e.2 with csr := { e.2.csr with hamper := s.job.hamper + BitVec.ofNat 56 (2 ^ 18 * e.1) } }))
    dies := tsets .reset [] ([0, 1, 2, 3].map (fun d =>
      (d, { tget .reset j.dies d with clk := (s.die d).clk, inrush := [], halted := true }))) }

/-- RESTORE: the stream of a checkpoint for an identity, at the job's tier. A stream that this device has not written is its
tier's own, and stands for nothing but for another device (log entry 63). An error that it meets is in the key, or in a block that
then fails its tag (R409). -/
def execRestore (ecc : Bool) (s : State) : Host.Outcome State Fault Refusal :=
  command 0x33 (fun s r =>
    if s.job.pls.any (fun p => p.st != .ended) then .refuse 0x02
    else match s.paRead r.w1 32 (ecc && !Config.freeBit s.drawn 0) with
      | none => .refuse 0x0F
      | some key =>
        if !s.portsUp r.w2 then .refuse 0x0A
        else if ecc then .refuse 0x0D
        else
          let who := if r.w4.getLsbD 17 then r.w4.extractLsb' 0 17 else s.dev.ident
          let take (j : Job) : Ans :=
            .done 0 ((s.draw.modJob (fun _ => s.restored j)).modDev (fun d => { d with jobSt := .halted }))
          match s.dev.tierStore.find? (fun x => x.tier == s.job.tier && x.ident == who && x.num == r.w3) with
          | some x => if x.key != key then .refuse 0x0D else take x.job
          | none =>
            if who == s.dev.ident then .refuse 0x0D
            else match Config.foreignStream s.drawn who r.w3 key with
              | some j => if twf 0 j.mem then take j else .refuse 0x0D
              | none => .refuse 0x0D) s

/-! ### RING_LOAD (R203) -/

/-- The entries of a revolution table, or none for reason 0x09. -/
def ringEntries (b : List W8) (n : Nat) : Nat → State → Option (List RingEnt) × State
  | 0, s => (some [], s)
  | m + 1, s =>
    let i := n - (m + 1)
    let w0 := recW b (16 * i)
    let w1 := recW b (16 * i + 8)
    let kind := (w0.extractLsb' 0 4).toNat
    let x := (w1.extractLsb' 0 56).toNat
    let ent : Option (Option RingEnt) × State :=
      if w0.extractLsb' 4 4 != 0 || w0.extractLsb' 16 48 != 0 || w1.extractLsb' 56 8 != 0
          || (kind ≠ 2 && w0.extractLsb' 8 8 != 0) then (none, s)
      else if kind = 1 then (if x = 0 || 2 ^ 24 < x then none else some (some (.gap x)), s)
      else if kind = 2 then (if x ≠ 0 then none else some (some (.segment (w0.extractLsb' 8 8).toNat)), s)
      else if kind = 15 then (if x ≠ 0 then none else some none, s)
      else if kind ≠ 0 || x % 64 ≠ 0 || 2 ^ 55 ≤ x then (none, s)
      else match s.translate 4 x .read with
        | (.error _, s) => (none, s)
        | (.ok pa, s) =>
          let h := s.bytes pa 11
          let w := tileW h
          if tileAt h 8 != 0 || w < 2 || 8 < w || 1 < (tileAt h 10).toNat || 65536 < x % 65536 + 64 * tileCells w then (none, s)
          else (some (some (.tile pa w)), s)
    match ent with
    | (none, s) => (none, s)
    | (some none, s) => (if m = 0 then some [] else (ringEntries b n m s).1.map (fun _ => []), s)
    | (some (some e), s) =>
      if m = 0 then (none, s) else
      match ringEntries b n m s with
      | (none, s) => (none, s)
      | (some l, s) => (some (e :: l), s)

def RingEnt.isTile : RingEnt → Bool
  | .tile _ _ => true
  | _ => false

/-- RING_LOAD: the table, read here once, waits for the next revolution (R204); whether the sequencer sees bytes of it that change
in memory later, R203 does not say (log entry 69). An error that it meets is in the table, 0x0F, or in a tile image that it names,
0x09 (R402). -/
def execRingLoad (ecc : Bool) (s : State) : Host.Outcome State Fault Refusal :=
  command 0x40 (fun s r =>
    let n := r.w2.toNat
    if r.w1 &&& 15 != 0 || n = 0 || 1048576 < n then .refuse 0x03
    else match s.vaRead r.w1 (16 * n) (ecc && !Config.freeBit s.drawn 0) with
      | (none, _) => .refuse 0x0F
      | (some b, s) => match ringEntries b n n s with
        | (none, _) => .refuse 0x09
        | (some l, s) =>
          if ecc then .refuse (if l.any RingEnt.isTile then 0x09 else 0x0F) else
          let t := if l.isEmpty then [.segment 0] else l
          .done (BitVec.ofNat 64 (ringT t)) (s.modRing (fun g => { g with next := some t }))) s

/-! ### LINK_UP and COMM_LOAD (R357, R358, R405) -/

/-- LINK_UP: the port trains where it has a peer (log entry 24), with each end's buffers advertised (R25), or is absent. -/
def execLinkUp (s : State) : Host.Outcome State Fault Refusal :=
  command 0x50 (fun s r =>
    let p := r.w1.toNat
    let e := r.w2.toNat
    if 2 < e then .refuse 0x03
    else if !s.dev.wired.getLsbD p then .refuse 0x0A
    else
      let (id, lat) := Config.linkProbe s.drawn p
      let s1 := (List.range 16).foldl (fun s q =>
        if e ≠ 0 && (s.port q).chainEnd = e then s.setPort q { s.port q with chainEnd := 0 } else s) s
      .done (lat.setWidth 64 + (id.setWidth 64 <<< 32))
        ((s1.setPort p { Port.reset with
          up := true, peer := id, latency := lat, chainEnd := e
          credit := tabulate 0 4 (Config.linkBuffers false), room := tabulate 0 4 (Config.linkBuffers true) }).draw)) s

/-- The communicator that a table's header, identities and further entries give, or the reason. -/
def commOf (s : State) (b : List W8) : Except Nat Comm :=
  let n := recNum b 0 4
  let rank := recNum b 8 4
  let m := recNum b 24 8
  let ids := (List.range n).map (fun r => recNum b (32 + 4 * r) 4)
  let o := (32 + 4 * n + 7) / 8 * 8
  let more := (List.range m).map (fun i => (recNum b (o + 8 * i) 4, recNum b (o + 8 * i + 4) 4))
  let succ := recNum b 16 2
  let pred := recNum b 18 2
  let masks := more.map (fun x => x.2)
  if ids.any (fun x => 2 ^ 17 ≤ x) || more.any (fun x => 2 ^ 17 ≤ x.1 || 2 ^ 16 ≤ x.2) then .error 0x01
  else if ids.getD rank 0 ≠ s.dev.ident.toNat || succ = 0 || pred = 0 || more.any (fun x => n ≤ x.1)
      || !(more.map (fun x => x.1)).Nodup then .error 0x03
  else if (succ :: pred :: masks).any (fun k => !s.portsUp (BitVec.ofNat 64 k)) then .error 0x0A
  else .ok { n := n, rank := rank, succ := BitVec.ofNat 16 succ, pred := BitVec.ofNat 16 pred
             idents := tabulate 0 n (fun r => BitVec.ofNat 17 (ids.getD r 0))
             masks := tsets 0 [] (more.map (fun x => (x.1, BitVec.ofNat 16 x.2))) }

/-- COMM_LOAD. -/
def execCommLoad (ecc : Bool) (s : State) : Host.Outcome State Fault Refusal :=
  command 0x51 (fun s r =>
    if 63 < r.w1.toNat || r.w2 &&& 7 != 0 then .refuse 0x03
    else match s.paRead r.w2 32 ecc with
      | none => .refuse 0x0F
      | some h =>
        let n := recNum h 0 4
        let m := recNum h 24 8
        if 2 ^ 18 ≤ recNum h 0 8 || 2 ^ 17 ≤ recNum h 8 8 || recNum h 20 4 ≠ 0 then .refuse 0x01
        else if n < 2 || 131072 < n || 4096 < m || n ≤ recNum h 8 8 then .refuse 0x03
        else match s.paRead r.w2 ((32 + 4 * n + 7) / 8 * 8 + 8 * m) false with
          | none => .refuse 0x0F
          | some b => match commOf s b with
            | .error k => .refuse k
            | .ok c => .done 0 (s.modJob (fun j => { j with comms := tset .reset j.comms r.w1.toNat c }))) s

end Sys2Proof.Machine
end

