-- ==== Sys2Proof/Machine/Power.lean ====
section
/-! DEFINITION. The Damper: allowance and grants (R376 to R379), heat (R380), the end of transfers (R381), banking and
stoking (R382 to R385). -/

namespace Sys2Proof.Machine

/-! ### Cost of one issue cycle (Table 17-1) -/

def floatUnits (t : FTy) : Nat := if t = .f32 then 3 else 5

/-- Units of one issue cycle of an instruction. -/
def unitsOf : Instr → Nat
  | .vialu .. | .vialus .. | .vaddi .. | .vandi .. | .vori .. | .vxori .. | .vshli .. | .vshri .. | .vsrai .. | .vli ..
  | .vmad .. | .vsel .. | .vidx .. | .vbcast .. | .vmov .. | .vred .. | .vscan .. | .vperm .. | .vicmp ..
  | .plop _ false .. | .pmov _ (.pv ..) | .pmov _ (.vp ..) | .pmov _ (.pp ..) | .accrd .. | .accwr .. | .vreq ..
  | .vpln .. | .vupln .. => 2
  | .vfalu _ _ t .. | .vfma _ _ t .. | .vfmas _ _ t .. | .vfun _ _ t .. | .vfdiv _ t .. | .vfclass _ t ..
  | .vfclassTrap _ t .. | .vfred _ _ t .. | .vfcmp _ _ _ _ _ _ _ _ t _ => floatUnits t
  | .vcvt _ st dt .. => cvtUnits st dt
  | .vsrnd .. => 5
  | .vqnt .. | .vdqnt .. | .vbmax .. => 3
  | .vfli _ form .. => if form = 1 || form = 2 then 5 else 3
  | .ldv .. | .stv .. | .ldx .. | .stx .. | .ldt .. | .ldm .. | .ldvol .. | .stvol .. | .ldacq .. | .strel .. | .amo ..
  | .red .. | .pwr .. | .prd .. | .prdn .. => 3
  | _ => 1

/-- Units of the first issue cycle of a clause: none for a word that traps. -/
def clauseUnits (c : Clause) : Nat :=
  match c.words with
  | w :: _ => match decode w with | .ok i => unitsOf i | .error _ => 0
  | [] => 0

/-! ### Requests (R378) -/

/-- Row n asks to start its next clause. -/
def State.asksClause (s : State) (n : Nat) : Bool :=
  let r := s.row n
  s.live n && r.arm.clause.words.isEmpty && !r.granted && r.nextDeferred.isNone
    && (match r.req with | some c => r.waitMet c | none => false)
/-- Row n's array holds a vector that is ready to enter. -/
def State.asksVector (s : State) (n : Nat) : Bool := s.vectorReady n && !(s.row n).vgranted

/-- A request: the row, and whether its array makes it. -/
abbrev Req := Nat × Bool

/-- The requests of a domain's clk. -/
def State.requests (s : State) (d : Nat) : List Req :=
  ((List.range 32).map (fun i => 32 * d + i)).flatMap (fun n =>
    (if s.asksVector n then [(n, true)] else []) ++ (if s.asksClause n then [(n, false)] else []))

/-- R378's order: deficit, then weight, rowid, and a vector before a clause. -/
def State.reqKey (s : State) (q : Req) : Nat :=
  let r := s.row q.1
  r.deficit * 1024 + (15 - r.csr.pweight.toNat) * 64 + (q.1 % 32) * 2 + (!q.2).toNat

/-- Consecutive clk for which a request has been withheld. -/
def State.heldFor (s : State) (q : Req) : Nat := if q.2 then (s.row q.1).vwithheld else (s.row q.1).withheld

/-- The order of a clk's grants: requests withheld for 255 clk, then the others. -/
def State.grantOrder (s : State) (d : Nat) : List Req :=
  let l := sortKey s.reqKey (s.requests d)
  l.filter (fun q => 255 ≤ s.heldFor q) ++ l.filter (fun q => s.heldFor q < 255)

/-- What a grant debits at once: a vector, or a clause's first issue cycle. -/
def State.grantCost (s : State) (q : Req) : Nat :=
  if q.2 then 40 else match (s.row q.1).req with | some c => clauseUnits c | none => 0

def Row.grant (cost : Nat) (vec : Bool) (r : Row) : Row :=
  if vec then { r with vgranted := true, vwithheld := 0 } else { r with granted := true, withheld := 0, prepaid := cost }
def Row.withhold (vec : Bool) (r : Row) : Row :=
  if vec then { r with vwithheld := r.vwithheld + 1 } else { r with withheld := r.withheld + 1 }

/-- The clk's requests in order, each granted while A > 0 or due: the requests granted, and whether one was withheld. -/
def grantAll (d : Nat) : State → List Req → State × List Req × Bool
  | s, [] => (s, [], false)
  | s, q :: rest =>
    if 0 < (s.dom d).A || 255 ≤ s.heldFor q then
      let c := s.grantCost q
      let s1 := (s.modDom d (fun x => { x with A := x.A - c })).modRow q.1 (Row.grant c q.2)
      let (s2, l, short) := grantAll d s1 rest
      (s2, q :: l, short)
    else
      let (s2, l, _) := grantAll d (s.modRow q.1 (Row.withhold q.2)) rest
      (s2, l, true)

/-! ### Deficits (R379) -/

/-- One grant in a short clk. -/
def Row.owe (r : Row) : Row := { r with deficit := min (r.deficit + 4096 / r.csr.pweight.toNat) (2 ^ 32 - 1) }

/-- DEFICIT_REBASE: 2^31 comes off every running row of the domain when all have reached it. -/
def State.rebase (s : State) (d : Nat) : State :=
  let l := ((List.range 32).map (fun i => 32 * d + i)).filter (fun n => (s.row n).life == .running)
  if !l.isEmpty && l.all (fun n => 2 ^ 31 ≤ (s.row n).deficit) then
    l.foldl (fun s n => s.modRow n (fun r => { r with deficit := r.deficit - 2 ^ 31 })) s
  else s

/-! ### The clk (R376) -/

/-- The refill in force: as set, with the transfers of R381, as Mbabo has lowered it further, cut by heat (R380). -/
def State.refillOf (s : State) (d : Nat) : Nat :=
  let x := s.dom d
  let r := x.refill + s.received d - s.given d - x.cut
  match x.heat with
  | 0 => r
  | 1 => r / 2
  | _ => r / 8

/-- The moves that grants lead to in the same clk: the clause starts and its first instruction issues, or the vector enters. -/
def grantMoves (q : Req) : List Move :=
  if q.2 then [.event (.vectorEnter q.1)] else [.event (.clauseIssue q.1), .issue q.1]

/-- Step 2 of R376: each instruction that issues takes one issue cycle of this clk. -/
def Domain.debit (x : Domain) : Domain :=
  { x with A := x.A - ((x.due.map (fun e => if e.1 = 0 then 0 else e.2)).sum : Nat)
           due := (x.due.map (fun e => (e.1 - 1, e.2))).filter (fun e => e.1 ≠ 0) }

/-- A request that is not made in this clk has not been withheld in it (R378). -/
def State.lapse (s : State) (d : Nat) : State :=
  (List.range 32).foldl (fun t i =>
    let n := 32 * d + i
    let (v, c) := (s.asksVector n, s.asksClause n)
    t.modRow n (fun r => { r with vwithheld := if v then r.vwithheld else 0, withheld := if c then r.withheld else 0 })) s

/-- ALLOWANCE_TICK: the turn of a domain's controller in a clk of its domain, one in each. -/
def execAllowanceTick (dom : Nat) (s : State) : Host.Outcome State Fault Refusal :=
  if (s.dom dom).ticked then .next s else
  let s1 := s.modDom dom (fun x => { x with A := min (x.cap : Int) (x.A + s.refillOf dom), ticked := true })
  let s2 := (s1.modDom dom Domain.debit).lapse dom
  let (s3, granted, short) := grantAll dom s2 (s2.grantOrder dom)
  let s4 := if short then granted.foldl (fun s q => s.modRow q.1 Row.owe) s3 else s3
  let s5 := (s4.rebase dom).modDom dom (fun x => { x with A := max (-(x.cap : Int)) x.A })
  .next { s5 with agenda := granted.flatMap grantMoves ++ s5.agenda }

/-- THERMAL: a junction reading in 0.01 °C; how much further Mbabo then lowers refill is free (R380; log entry 21). In minimal
mode the grid has no power and no readings (R396). -/
def execThermal (dom : Nat) (reading : BitVec 16) (s : State) : Host.Outcome State Fault Refusal :=
  if s.dev.minimal then .next s else
  let t := reading.toNat
  let s1 := s.draw.modDom dom (fun x => { x with
    reading := t, heat := if 10500 < t then 2 else if 9500 < t then max x.heat 1 else if t < 9000 then 0 else x.heat
    cut := Config.freeNat s.drawn dom })
  .next (if 10500 < t then
    s1.raise ⟨6, 0x8000 + 16 * (5 + dom / 4) + 13, BitVec.ofNat 32 dom, BitVec.ofNat 64 t, none, (s.die (dom / 4)).clk, 0, 0⟩
  else s1)

/-- LAGGARD_TRANSFER_END: transfers to the domain whose 65,536 clk have passed. -/
def Domain.owes (x : Domain) (t : Transfer) : Bool := x.clk.ult t.ends
def execLaggardTransferEnd (dom : Nat) (s : State) : Host.Outcome State Fault Refusal :=
  .next (s.modDom dom (fun x => { x with transfers := x.transfers.filter x.owes }))

/-! ### Banking (R383) -/

def Row.bankOf (r : Row) (fp : Bool) : Bank := if fp then r.fp else r.mat
def Row.modBank (r : Row) (fp : Bool) (f : Bank → Bank) : Row :=
  if fp then { r with fp := f r.fp } else { r with mat := f r.mat }
def Row.unitIdle (r : Row) (fp : Bool) : Bool := fp || r.matIdle
def bankE (fp : Bool) : Nat := if fp then fpE else matE
def bankH (fp : Bool) : Nat := if fp then fpH else matH

/-- An idle unit banks: at once under a hint of at least E, or when its hold expires. -/
def Bank.due (E : Nat) (clk : W64) (b : Bank) : Bool :=
  !b.banked && !b.asked && ((match b.hint with | some n => decide (E ≤ n) | none => false)
    || (match b.hold with | some t => t.ule clk | none => false))

/-- A unit of a row is to bank in its domain's present clk. -/
def State.bankDue (s : State) (n : Nat) (fp : Bool) : Bool :=
  (s.row n).unitIdle fp && ((s.row n).bankOf fp).due (bankE fp) (s.rowClk n)

/-- BANK on a unit of a row. -/
def execBank (row : Nat) (fp : Bool) (s : State) : Host.Outcome State Fault Refusal :=
  if s.bankDue row fp then
    .next (s.modRow row (fun r => r.modBank fp (fun b => { b with
      banked := true, hold := none, idleSince := (match b.idleSince with | some t => some t | none => some (s.rowClk row)) })))
  else .next s

/-! ### Stoking (R384, R385) -/

/-- The order of requests received in one clk: by rowid, a row's array before its FP datapath. -/
def Stoke.key (x : Stoke) : Nat := 2 * x.row + x.fp.toNat
/-- A request takes its place: behind every earlier one, and in order among those of its own clk. -/
def stokeInto (x : Stoke) : List Stoke → List Stoke
  | [] => [x]
  | y :: l => if y.since == x.since && x.key < y.key then x :: y :: l else y :: stokeInto x l

/-- STOKE_REQUEST: the request of a banked unit that something needs reaches the arbiter. -/
def execStokeRequest (row : Nat) (fp : Bool) (s : State) : Host.Outcome State Fault Refusal :=
  let b := (s.row row).bankOf fp
  let d := dieOf row
  if b.banked && b.asked && !(s.die d).inrush.any (fun x => x.row == row && x.fp == fp) then
    .next (s.modDie d (fun y => { y with inrush := stokeInto ⟨row, fp, if fp then 1 else 3, y.clk, none⟩ y.inrush }))
  else .next s

/-- Slots given strictly in request order. -/
def giveSlots (clk : W64) : Nat → List Stoke → List Stoke
  | _, [] => []
  | k, x :: l =>
    match x.ready with
    | some _ => x :: giveSlots clk k l
    | none => if x.left ≤ k then { x with left := 0, ready := some (clk + 48) } :: giveSlots clk (k - x.left) l
              else { x with left := x.left - k } :: l

/-- INRUSH_GRANT: 8 slots at a clk that is a multiple of 16. -/
def execInrushGrant (die : Nat) (s : State) : Host.Outcome State Fault Refusal :=
  let y := s.die die
  if y.clk &&& 15 != 0 || y.clk == y.inrushAt then .next s
  else .next (s.setDie die { y with inrush := giveSlots y.clk 8 y.inrush, inrushAt := y.clk })

/-- The unit is usable; unless the instruction at issue waits for it, an idle unit's next interval begins (log entry 31). -/
def Row.woken (fp : Bool) (clk : W64) (r : Row) : Row :=
  let idle := r.unitIdle fp && r.wait != some (.stoke fp)
  r.modBank fp (fun b =>
    let b := { b with banked := false, asked := false }
    if idle then b.rest (bankE fp) (bankH fp) clk else b)

/-- STOKE_COMPLETE: 48 clk after its admission the unit is usable. -/
def execStokeComplete (row : Nat) (fp : Bool) (s : State) : Host.Outcome State Fault Refusal :=
  let d := dieOf row
  let clk := s.rowClk row
  match (s.die d).inrush.find? (fun x => x.row == row && x.fp == fp) with
  | some x =>
    if (match x.ready with | some t => t.ule clk | none => false) then
      .next ((s.modDie d (fun y => { y with inrush := y.inrush.erase x })).modRow row
        (Row.woken fp clk))
    else .next s
  | none => .next s

end Sys2Proof.Machine
end

