-- ==== Sys2Proof/Machine/Scalar.lean ====
section
/-! DEFINITION. Scalar arithmetic, immediates, address forming, SMOVV and CSR access (R104 to R117), and NOP. -/

namespace Sys2Proof.Machine

/-- A scalar instruction that writes sd from the registers it reads. -/
def scalarTo (g : Guard) (d : SReg) (f : Row → W64) : State → Host.Outcome State Fault Refusal :=
  issueQ { hold := fun r => r.pendS d.toNat } g (onRow (fun r v => r.setS d.toNat (f v)))

/-- NOP ignores its guard (R53). -/
def execNop (_g : Guard) (s : State) : Host.Outcome State Fault Refusal := issueAll {} (fun s _ _ => .done s) s

/-- Table 04-2. -/
def saluVal (op : SaluOp) (a b : W64) : W64 :=
  let n := (b &&& 63).toNat
  match op with
  | .add => a + b
  | .sub => a - b
  | .and => a &&& b
  | .or => a ||| b
  | .xor => a ^^^ b
  | .andn => a &&& ~~~b
  | .shl => a <<< n
  | .shr => a >>> n
  | .sra => a.sshiftRight n
  | .min => if a.slt b then a else b
  | .max => if a.slt b then b else a
  | .minn => if a.ult b then a else b
  | .maxn => if a.ult b then b else a
  | .slt => if a.slt b then 1 else 0
  | .sltn => if a.ult b then 1 else 0
  | .mul => a * b
  | .mulh => (a.signExtend 128 * b.signExtend 128).extractLsb' 64 64
  | .mulhn => (a.zeroExtend 128 * b.zeroExtend 128).extractLsb' 64 64
  | .div => a.sdiv b
  | .divn => a.udiv b
  | .rem => a.srem b
  | .remn => a.umod b
  | .clz => BitVec.ofNat 64 (clzOf a)
  | .popc => BitVec.ofNat 64 (popcOf a)

/-- The operations that trap on a zero divisor (R107). -/
def saluDivides : SaluOp → Bool
  | .div | .divn | .rem | .remn => true
  | _ => false

/-- R106, R107. -/
def execSalu (g : Guard) (op : SaluOp) (d a b : SReg) (s : State) : Host.Outcome State Fault Refusal :=
  issueQ { hold := fun r => r.pendS d.toNat } g (fun s n v =>
    let x := v.sreg a.toNat
    let y := v.sreg b.toNat
    if saluDivides op && y == 0 then .trap cIntDivzero x s
    else .done (s.modRow n (fun r => r.setS d.toNat (saluVal op x y)))) s

def execSaddi (g : Guard) (d a : SReg) (imm : BitVec 27) (s : State) : Host.Outcome State Fault Refusal :=
  scalarTo g d (fun v => v.sreg a.toNat + imm64 imm) s
def execSandi (g : Guard) (d a : SReg) (imm : BitVec 27) (s : State) : Host.Outcome State Fault Refusal :=
  scalarTo g d (fun v => v.sreg a.toNat &&& imm64 imm) s
def execSori (g : Guard) (d a : SReg) (imm : BitVec 27) (s : State) : Host.Outcome State Fault Refusal :=
  scalarTo g d (fun v => v.sreg a.toNat ||| imm64 imm) s
def execSxori (g : Guard) (d a : SReg) (imm : BitVec 27) (s : State) : Host.Outcome State Fault Refusal :=
  scalarTo g d (fun v => v.sreg a.toNat ^^^ imm64 imm) s
def execSshli (g : Guard) (d a : SReg) (n : BitVec 6) (s : State) : Host.Outcome State Fault Refusal :=
  scalarTo g d (fun v => v.sreg a.toNat <<< n.toNat) s
def execSshri (g : Guard) (d a : SReg) (n : BitVec 6) (s : State) : Host.Outcome State Fault Refusal :=
  scalarTo g d (fun v => v.sreg a.toNat >>> n.toNat) s
def execSsrai (g : Guard) (d a : SReg) (n : BitVec 6) (s : State) : Host.Outcome State Fault Refusal :=
  scalarTo g d (fun v => (v.sreg a.toNat).sshiftRight n.toNat) s
def execSli (g : Guard) (d : SReg) (imm : BitVec 27) (s : State) : Host.Outcome State Fault Refusal :=
  scalarTo g d (fun _ => imm64 imm) s

/-- Bits [53:27] replaced (Table 04-3). -/
def sluiVal (x : W64) (imm : BitVec 27) : W64 := x.extractLsb' 54 10 ++ imm ++ x.extractLsb' 0 27
/-- Bits [63:54] replaced (Table 04-3). -/
def slhiVal (x : W64) (imm : BitVec 10) : W64 := imm ++ x.extractLsb' 0 54

def execSlui (g : Guard) (d a : SReg) (imm : BitVec 27) (s : State) : Host.Outcome State Fault Refusal :=
  scalarTo g d (fun v => sluiVal (v.sreg a.toNat) imm) s
def execSlhi (g : Guard) (d a : SReg) (imm : BitVec 10) (s : State) : Host.Outcome State Fault Refusal :=
  scalarTo g d (fun v => slhiVal (v.sreg a.toNat) imm) s

/-- R110. -/
def saddaVal (x y : W64) (a56 w : Bool) (sh : Nat) : W64 :=
  let i := if w then (y.setWidth 32).signExtend 64 else y
  let t := x + (i <<< sh)
  if a56 then (t.setWidth 56).setWidth 64 else t

def execSadda (g : Guard) (d a b : SReg) (a56 w : Bool) (sh : BitVec 3) (s : State) : Host.Outcome State Fault Refusal :=
  scalarTo g d (fun v => saddaVal (v.sreg a.toNat) (v.sreg b.toNat) a56 w sh.toNat) s

/-- R111: the lane read. -/
def smovvLane (v : Row) (b : SReg) (first : Bool) : Option Nat :=
  if first then (List.range v.L).find? (fun l => v.arm.em.getLsbD l) else some (v.sreg b.toNat).toNat

/-- R111. -/
def execSmovv (g : Guard) (d : SReg) (a : VReg) (m : Amod) (b : SReg) (first sx : Bool) (s : State) :
    Host.Outcome State Fault Refusal :=
  issueQ { illegal := amodWide m, regs := [a.toNat], hold := fun r => r.pendS d.toNat } g (fun s n v =>
    match smovvLane v b first with
    | none => .done (s.modRow n (fun r => r.setS d.toNat 0))
    | some j =>
      if v.L ≤ j then .trap cBounds (BitVec.ofNat 64 j) s
      else
        let w := v.src a m j
        .done (s.modRow n (fun r => r.setS d.toNat (if sx then w.signExtend 64 else w.zeroExtend 64)))) s

/-! ### CSRs (Table 04-5) -/

/-- The value that a CSR reads (R113). -/
def csrRead (s : State) (n : Nat) (c : Csr) : W64 :=
  let r := s.row n
  let k := r.csr
  match c with
  | .rowid => BitVec.ofNat 64 n
  | .width => BitVec.ofNat 64 r.L
  | .placement => k.placement
  | .groups => k.groups
  | .taskpool => k.taskpool.setWidth 64
  | .fflags => k.fflags.setWidth 64
  | .mflags => k.mflags.setWidth 64
  | .rng => k.rng
  | .plive => k.plive.setWidth 64
  | .tokdepth => BitVec.ofNat 64 r.tokdepth
  | .cause => k.cause.setWidth 64
  | .epc => k.epc.setWidth 64
  | .tval => k.tval
  | .tvec => k.tvec.setWidth 64
  | .hamper => k.hamper.setWidth 64
  | .pwd => k.pwd.setWidth 64
  | .pegmiss => k.pegmiss.setWidth 64
  | .pegstale => k.pegstale.setWidth 64
  | .cyc => s.clkOf n
  | .pclass => k.pclass.setWidth 64
  | .pweight => k.pweight.setWidth 64

/-- Access classes of Table 04-5: read-only, writable, writable in handler mode only. -/
inductive CsrAcc where
  | r | rw | h
  deriving DecidableEq, Repr

def csrAcc : Csr → CsrAcc
  | .rowid | .width | .placement | .groups | .taskpool | .tokdepth | .hamper | .cyc | .pclass | .pweight => .r
  | .cause | .epc | .tval => .h
  | _ => .rw

/-- A CSR written: reserved bits are dropped (R6, R113), bit 0 of csr.plive stays 1 (R79). -/
def csrWrite (k : Csrs) (c : Csr) (x : W64) : Csrs :=
  match c with
  | .fflags => { k with fflags := x.setWidth 6 }
  | .mflags => { k with mflags := x.setWidth 8 &&& 0x3F }
  | .rng => { k with rng := x }
  | .plive => { k with plive := x.setWidth 8 ||| 1 }
  | .cause => { k with cause := x.setWidth 8 }
  | .epc => { k with epc := x.setWidth 56 }
  | .tval => { k with tval := x }
  | .tvec => { k with tvec := x.setWidth 56 }
  | .pwd => { k with pwd := x.setWidth 32 }
  | .pegmiss => { k with pegmiss := x.setWidth 32 }
  | .pegstale => { k with pegstale := x.setWidth 32 }
  | _ => k

/-- R112: the source combined with the CSR's value. -/
def csrMix (m : CsrMode) (old x : W64) : W64 :=
  match m with
  | .write => x
  | .set => old ||| x
  | .clr => old &&& ~~~x

/-- R115: an access to a flag CSR waits for the row's earlier instructions that can set it; of these only MMAC is not of
fixed latency. -/
def csrHold (c : Csr) (r : Row) : Bool := c == .mflags && r.ops.any (fun o => o.kind == .mmac)

/-- R112 to R114: a CSR write under a true guard, sd receiving the old value where d is given. -/
def csrBody (c : Csr) (m : CsrMode) (a : SReg) (d : Option SReg) (s : State) (n : Nat) (v : Row) : Res :=
  let r := s.row n
  let old := csrRead s n c
  let x := csrMix m old (v.sreg a.toNat)
  if csrAcc c == .r || (csrAcc c == .h && !r.handler) then .trap cPriv (BitVec.ofNat 64 c.number) s
  else if c == .tvec && x &&& 7 != 0 then .trap cMisalign x s
  else .done (s.modRow n (fun r =>
    let r := { r with csr := csrWrite r.csr c x }
    match d with | some d => r.setS d.toNat old | none => r))

def execScsr (g : Guard) (d : SReg) (c : Csr) (s : State) : Host.Outcome State Fault Refusal :=
  issueQ { hold := fun r => r.pendS d.toNat || csrHold c r } g (fun s n _ =>
    .done (s.modRow n (fun r => r.setS d.toNat (csrRead s n c)))) s
def execScsw (g : Guard) (a : SReg) (mode : CsrMode) (c : Csr) (s : State) : Host.Outcome State Fault Refusal :=
  issueQ { hold := csrHold c } g (csrBody c mode a none) s
def execScsx (g : Guard) (d a : SReg) (mode : CsrMode) (c : Csr) (s : State) : Host.Outcome State Fault Refusal :=
  issueQ { hold := fun r => r.pendS d.toNat || csrHold c r } g (csrBody c mode a (some d)) s

end Sys2Proof.Machine
end

