-- ==== Sys2Proof/Machine/Vector.lean ====
section
/-! DEFINITION. Integer vector arithmetic, movement, permutation, reductions and scans (R118 to R124, R132, R133). -/

namespace Sys2Proof.Machine

/-- A lane-class instruction that writes vd in each lane that acts, from the registers as they stood before its first
pass (R119). -/
def vectorTo (p : Plan) (g : Guard) (d : VReg) (f : Row → Nat → W32) : State → Host.Outcome State Fault Refusal :=
  issueL { p with hold := fun r => r.holdV d.toNat, units := 2, cycles := Row.passes } g
    (onRow (fun r v => r.setLanes d.toNat (v.actLanes g) (f v)))

/-- Table 05-4 on one element of w bits. -/
def vopVal {w : Nat} (op : VOp) (a b : BitVec w) : BitVec w :=
  let n := b.toNat % w
  match op with
  | .add => a + b
  | .sub => a - b
  | .adds => satS w (a.toInt + b.toInt)
  | .addns => satU w (a.toNat + b.toNat)
  | .subs => satS w (a.toInt - b.toInt)
  | .subns => satU w ((a.toNat : Int) - b.toNat)
  | .and => a &&& b
  | .or => a ||| b
  | .xor => a ^^^ b
  | .andn => a &&& ~~~b
  | .shl => a <<< n
  | .shr => a >>> n
  | .sra => a.sshiftRight n
  | .min => if a.slt b then a else b
  | .max => if a.slt b then b else a
  | .minn => if a.ult b then a else b
  | .maxn => if a.ult b then b else a
  | .mul => a * b
  | .mulh => BitVec.ofInt w ((a.toInt * b.toInt) / 2 ^ w)
  | .mulhn => BitVec.ofNat w ((a.toNat * b.toNat) / 2 ^ w)
  | .muls => satS w (a.toInt * b.toInt)
  | .abs => satS w (a.toInt.natAbs : Int)
  | .clz => BitVec.ofNat w (clzOf a)
  | .popc => BitVec.ofNat w (popcOf a)
  | .avgn => BitVec.ofNat w ((a.toNat + b.toNat + 1) / 2)

/-- R120 on a lane word. -/
def vialuVal (op : VOp) (w : VW) (x y : W32) : W32 := zipElems (vwBits w) (vopVal op) x y

def execVialu (g : Guard) (op : VOp) (w : VW) (d a : VReg) (m : Amod) (b : VReg) (s : State) :
    Host.Outcome State Fault Refusal :=
  vectorTo { illegal := amodWide m, regs := [d.toNat, a.toNat, b.toNat] } g d
    (fun v l => vialuVal op w (v.src a m l) (v.vreg b.toNat l)) s

/-- The scalar form reads s[b][31:0] once (R120). -/
def execVialus (g : Guard) (op : VOp) (w : VW) (d a : VReg) (m : Amod) (b : SReg) (s : State) :
    Host.Outcome State Fault Refusal :=
  vectorTo { illegal := amodWide m, regs := [d.toNat, a.toNat] } g d
    (fun v l => vialuVal op w (v.src a m l) ((v.sreg b.toNat).setWidth 32)) s

/-- The plan of an instruction with one vector source and a vector destination. -/
def planDA (d a : VReg) : Plan := { regs := [d.toNat, a.toNat] }

def execVaddi (g : Guard) (d a : VReg) (imm : BitVec 27) (s : State) : Host.Outcome State Fault Refusal :=
  vectorTo (planDA d a) g d (fun v l => v.vreg a.toNat l + imm32 imm) s
def execVandi (g : Guard) (d a : VReg) (imm : BitVec 27) (s : State) : Host.Outcome State Fault Refusal :=
  vectorTo (planDA d a) g d (fun v l => v.vreg a.toNat l &&& imm32 imm) s
def execVori (g : Guard) (d a : VReg) (imm : BitVec 27) (s : State) : Host.Outcome State Fault Refusal :=
  vectorTo (planDA d a) g d (fun v l => v.vreg a.toNat l ||| imm32 imm) s
def execVxori (g : Guard) (d a : VReg) (imm : BitVec 27) (s : State) : Host.Outcome State Fault Refusal :=
  vectorTo (planDA d a) g d (fun v l => v.vreg a.toNat l ^^^ imm32 imm) s
def execVshli (g : Guard) (d a : VReg) (n : BitVec 5) (s : State) : Host.Outcome State Fault Refusal :=
  vectorTo (planDA d a) g d (fun v l => v.vreg a.toNat l <<< n.toNat) s
def execVshri (g : Guard) (d a : VReg) (n : BitVec 5) (s : State) : Host.Outcome State Fault Refusal :=
  vectorTo (planDA d a) g d (fun v l => v.vreg a.toNat l >>> n.toNat) s
def execVsrai (g : Guard) (d a : VReg) (n : BitVec 5) (s : State) : Host.Outcome State Fault Refusal :=
  vectorTo (planDA d a) g d (fun v l => (v.vreg a.toNat l).sshiftRight n.toNat) s
def execVli (g : Guard) (d : VReg) (imm : BitVec 27) (s : State) : Host.Outcome State Fault Refusal :=
  vectorTo { regs := [d.toNat] } g d (fun _ _ => imm32 imm) s

/-- Σ over e of SExt(A_e) × SExt(B_e) (R122). -/
def dotVal (w : Nat) (x y : W32) : Int :=
  ((List.range (32 / w)).map (fun e => (elemAt w x e).toInt * (elemAt w y e).toInt)).sum

/-- R122: the new lane word from the old one and the two sources. -/
def vmadVal (op : MadOp) (w : VW) (dv x y : W32) : W32 :=
  let n := vwBits w
  let each (f : BitVec n → BitVec n → BitVec n → BitVec n) : W32 :=
    (List.range (32 / n)).foldl (fun acc e => setElem n acc e (f (elemAt n dv e) (elemAt n x e) (elemAt n y e))) 0
  match op with
  | .mad => each (fun d a b => d + a * b)
  | .mads => each (fun d a b => satS n (d.toInt + a.toInt * b.toInt))
  | .madns => each (fun d a b => satU n ((d.toNat : Int) + a.toNat * b.toNat))
  | .dot => dv + BitVec.ofInt 32 (dotVal n x y)

def execVmad (g : Guard) (op : MadOp) (w : VW) (d a : VReg) (m : Amod) (b : VReg) (s : State) :
    Host.Outcome State Fault Refusal :=
  vectorTo { illegal := amodWide m, regs := [d.toNat, a.toNat, b.toNat] } g d
    (fun v l => vmadVal op w (v.vreg d.toNat l) (v.src a m l) (v.vreg b.toNat l)) s

/-- R123. -/
def execVsel (g : Guard) (c : PReg) (d a : VReg) (m : Amod) (b : VReg) (s : State) : Host.Outcome State Fault Refusal :=
  vectorTo { illegal := amodWide m, regs := [d.toNat, a.toNat, b.toNat] } g d
    (fun v l => if (v.preg c.toNat).getLsbD l then v.src a m l else v.vreg b.toNat l) s
def execVidx (g : Guard) (d : VReg) (a : SReg) (imm : BitVec 27) (s : State) : Host.Outcome State Fault Refusal :=
  vectorTo { regs := [d.toNat] } g d (fun v l => (v.sreg a.toNat).setWidth 32 + BitVec.ofNat 32 l * imm32 imm) s
def execVbcast (g : Guard) (d : VReg) (a : SReg) (hi : Bool) (s : State) : Host.Outcome State Fault Refusal :=
  vectorTo { regs := [d.toNat] } g d (fun v _ => (v.sreg a.toNat).extractLsb' (if hi then 32 else 0) 32) s
def execVmov (g : Guard) (d a : VReg) (m : Amod) (s : State) : Host.Outcome State Fault Refusal :=
  vectorTo { illegal := amodWide m, regs := [d.toNat, a.toNat] } g d (fun v l => v.src a m l) s

/-- R124: the lane of va that VPERM reads for an index, none for a zero. -/
def permLane (L : Nat) (inn : Bool) (seg : BitVec 4) (l j : Nat) : Option Nat :=
  if inn then let S := 2 ^ (seg.toNat + 1); some (l - l % S + j % S)
  else if j < L then some j else none

def execVperm (g : Guard) (d a b : VReg) (inn : Bool) (seg : BitVec 4) (s : State) : Host.Outcome State Fault Refusal :=
  vectorTo { illegal := fun r => inn && segWide seg r, regs := [d.toNat, a.toNat, b.toNat] } g d
    (fun v l => match permLane v.L inn seg l (v.vreg b.toNat l).toNat with
      | some j => v.vreg a.toNat j
      | none => 0) s

/-- Table 05-8: combine and identity. -/
def redComb (op : RedOp) (x y : W32) : W32 :=
  match op with
  | .add => x + y
  | .and => x &&& y
  | .or => x ||| y
  | .xor => x ^^^ y
  | .min => if x.slt y then x else y
  | .max => if x.slt y then y else x
  | .minn => if x.ult y then x else y
  | .maxn => if x.ult y then y else x
def redId : RedOp → W32
  | .and | .minn => 0xFFFFFFFF
  | .min => 0x7FFFFFFF
  | .max => 0x80000000
  | _ => 0

/-- The acting lanes of l's segment (R132). -/
def segLanes (v : Row) (g : Guard) {n : Nat} (seg : BitVec n) (l : Nat) : List Nat :=
  let S := 2 ^ (seg.toNat + 1)
  (v.actLanes g).filter (fun j => j / S == l / S)

/-- The combination of Src(a, j) over a list of lanes (R133). -/
def redOver (v : Row) (op : RedOp) (a : VReg) (m : Amod) (ls : List Nat) : W32 :=
  ls.foldl (fun x j => redComb op x (v.src a m j)) (redId op)

/-- R132, R133. -/
def execVred (g : Guard) (op : RedOp) (d a : VReg) (m : Amod) (seg : BitVec 6) (s : State) :
    Host.Outcome State Fault Refusal :=
  vectorTo { illegal := fun r => amodWide m r || segWide seg r, regs := [d.toNat, a.toNat] } g d
    (fun v l => redOver v op a m (segLanes v g seg l)) s
def execVscan (g : Guard) (op : RedOp) (excl : Bool) (d a : VReg) (m : Amod) (seg : BitVec 6) (s : State) :
    Host.Outcome State Fault Refusal :=
  vectorTo { illegal := fun r => amodWide m r || segWide seg r, regs := [d.toNat, a.toNat] } g d
    (fun v l => redOver v op a m ((segLanes v g seg l).filter (fun j => j < l || (j == l && !excl)))) s

end Sys2Proof.Machine
end

