-- ==== Sys2Proof/Machine/Dispatch.lean ====
section
/-! DEFINITION. The one match of the machine: each constructor of `Instr` to its meaning. -/

namespace Sys2Proof.Machine

def exec (i : Instr) (s : State) : Host.Outcome State Fault Refusal :=
  match i with
  | .nop g => Sys2Proof.Machine.execNop g s
  | .salu g op d a b => Sys2Proof.Machine.execSalu g op d a b s
  | .saddi g d a imm => Sys2Proof.Machine.execSaddi g d a imm s
  | .sandi g d a imm => Sys2Proof.Machine.execSandi g d a imm s
  | .sori g d a imm => Sys2Proof.Machine.execSori g d a imm s
  | .sxori g d a imm => Sys2Proof.Machine.execSxori g d a imm s
  | .sshli g d a n => Sys2Proof.Machine.execSshli g d a n s
  | .sshri g d a n => Sys2Proof.Machine.execSshri g d a n s
  | .ssrai g d a n => Sys2Proof.Machine.execSsrai g d a n s
  | .sli g d imm => Sys2Proof.Machine.execSli g d imm s
  | .slui g d a imm => Sys2Proof.Machine.execSlui g d a imm s
  | .slhi g d a imm => Sys2Proof.Machine.execSlhi g d a imm s
  | .sadda g d a b a56 w sh => Sys2Proof.Machine.execSadda g d a b a56 w sh s
  | .smovv g d a m b first sx => Sys2Proof.Machine.execSmovv g d a m b first sx s
  | .scsr g d c => Sys2Proof.Machine.execScsr g d c s
  | .scsw g a mode c => Sys2Proof.Machine.execScsw g a mode c s
  | .scsx g d a mode c => Sys2Proof.Machine.execScsx g d a mode c s
  | .sld g d m vol fs => Sys2Proof.Machine.execSld g d m vol fs s
  | .sst g d m vol => Sys2Proof.Machine.execSst g d m vol s
  | .vialu g op w d a m b => Sys2Proof.Machine.execVialu g op w d a m b s
  | .vialus g op w d a m b => Sys2Proof.Machine.execVialus g op w d a m b s
  | .vaddi g d a imm => Sys2Proof.Machine.execVaddi g d a imm s
  | .vandi g d a imm => Sys2Proof.Machine.execVandi g d a imm s
  | .vori g d a imm => Sys2Proof.Machine.execVori g d a imm s
  | .vxori g d a imm => Sys2Proof.Machine.execVxori g d a imm s
  | .vshli g d a n => Sys2Proof.Machine.execVshli g d a n s
  | .vshri g d a n => Sys2Proof.Machine.execVshri g d a n s
  | .vsrai g d a n => Sys2Proof.Machine.execVsrai g d a n s
  | .vli g d imm => Sys2Proof.Machine.execVli g d imm s
  | .vmad g op w d a m b => Sys2Proof.Machine.execVmad g op w d a m b s
  | .vsel g c d a m b => Sys2Proof.Machine.execVsel g c d a m b s
  | .vidx g d a imm => Sys2Proof.Machine.execVidx g d a imm s
  | .vbcast g d a hi => Sys2Proof.Machine.execVbcast g d a hi s
  | .vmov g d a m => Sys2Proof.Machine.execVmov g d a m s
  | .vred g op d a m seg => Sys2Proof.Machine.execVred g op d a m seg s
  | .vscan g op excl d a m seg => Sys2Proof.Machine.execVscan g op excl d a m seg s
  | .vperm g d a b inn seg => Sys2Proof.Machine.execVperm g d a b inn seg s
  | .vfalu g op t r d a m b => Sys2Proof.Machine.execVfalu g op t r d a m b s
  | .vfma g op t r d a m b => Sys2Proof.Machine.execVfma g op t r d a m b s
  | .vfmas g op t r d a m b => Sys2Proof.Machine.execVfmas g op t r d a m b s
  | .vfun g op t r d a m => Sys2Proof.Machine.execVfun g op t r d a m s
  | .vfdiv g t r d a m b => Sys2Proof.Machine.execVfdiv g t r d a m b s
  | .vfclass g t half d a m b => Sys2Proof.Machine.execVfclass g t half d a m b s
  | .vfclassTrap g t half a m b => Sys2Proof.Machine.execVfclassTrap g t half a m b s
  | .vfred g op t r d a m seg => Sys2Proof.Machine.execVfred g op t r d a m seg s
  | .vcvt g st dt r sgn ed es d a m => Sys2Proof.Machine.execVcvt g st dt r sgn ed es d a m s
  | .vsrnd g bf k d a m b => Sys2Proof.Machine.execVsrnd g bf k d a m b s
  | .vqnt g j r sgn w d a m b => Sys2Proof.Machine.execVqnt g j r sgn w d a m b s
  | .vdqnt g j sgn d a b => Sys2Proof.Machine.execVdqnt g j sgn d a b s
  | .vreq g sto k sgn w d a b => Sys2Proof.Machine.execVreq g sto k sgn w d a b s
  | .vbmax g sgn w d a m => Sys2Proof.Machine.execVbmax g sgn w d a m s
  | .vpln g sgn w d a => Sys2Proof.Machine.execVpln g sgn w d a s
  | .vupln g sgn w d a => Sys2Proof.Machine.execVupln g sgn w d a s
  | .vfli g form h d => Sys2Proof.Machine.execVfli g form h d s
  | .vicmp g pt pf a m b sb c ty k => Sys2Proof.Machine.execVicmp g pt pf a m b sb c ty k s
  | .vfcmp g pt pf a m b sb c ty k => Sys2Proof.Machine.execVfcmp g pt pf a m b sb c ty k s
  | .sicmp g pt pf a b c ty k => Sys2Proof.Machine.execSicmp g pt pf a b c ty k s
  | .plop g q fn d a b => Sys2Proof.Machine.execPlop g q fn d a b s
  | .pmov g f => Sys2Proof.Machine.execPmov g f s
  | .plive g mask => Sys2Proof.Machine.execPlive g mask s
  | .emset g a => Sys2Proof.Machine.execEmset g a s
  | .emsetAll g => Sys2Proof.Machine.execEmsetAll g s
  | .emget g d sel => Sys2Proof.Machine.execEmget g d sel s
  | .br g c pr off => Sys2Proof.Machine.execBr g c pr off s
  | .brv g pr neg off => Sys2Proof.Machine.execBrv g pr neg off s
  | .join g off => Sys2Proof.Machine.execJoin g off s
  | .brk g pr neg => Sys2Proof.Machine.execBrk g pr neg s
  | .cont g pr neg => Sys2Proof.Machine.execCont g pr neg s
  | .loops g off => Sys2Proof.Machine.execLoops g off s
  | .call g off => Sys2Proof.Machine.execCall g off s
  | .ret g => Sys2Proof.Machine.execRet g s
  | .jmpr g a => Sys2Proof.Machine.execJmpr g a s
  | .jmprCall g a => Sys2Proof.Machine.execJmprCall g a s
  | .lexit g => Sys2Proof.Machine.execLexit g s
  | .exit g => Sys2Proof.Machine.execExit g s
  | .pwr g a m => Sys2Proof.Machine.execPwr g a m s
  | .prd g d pv => Sys2Proof.Machine.execPrd g d pv s
  | .prdn g d pv qt qs => Sys2Proof.Machine.execPrdn g d pv qt qs s
  | .pseal g => Sys2Proof.Machine.execPseal g s
  | .pstat g d south => Sys2Proof.Machine.execPstat g d south s
  | .pxfer g qs n => Sys2Proof.Machine.execPxfer g qs n s
  | .wld g a n fmt sa ss fs => Sys2Proof.Machine.execWld g a n fmt sa ss fs s
  | .wswap g => Sys2Proof.Machine.execWswap g s
  | .mmac g f => Sys2Proof.Machine.execMmac g f s
  | .accrd g d a h e => Sys2Proof.Machine.execAccrd g d a h e s
  | .accwr g d a h e => Sys2Proof.Machine.execAccwr g d a h e s
  | .accz g f cnt => Sys2Proof.Machine.execAccz g f cnt s
  | .mdrain g a => Sys2Proof.Machine.execMdrain g a s
  | .mfill g a => Sys2Proof.Machine.execMfill g a s
  | .mstat g d f => Sys2Proof.Machine.execMstat g d f s
  | .ldv g d m fs => Sys2Proof.Machine.execLdv g d m fs s
  | .stv g d m => Sys2Proof.Machine.execStv g d m s
  | .ldx g d m fs => Sys2Proof.Machine.execLdx g d m fs s
  | .stx g d m => Sys2Proof.Machine.execStx g d m s
  | .ldt g d m fs => Sys2Proof.Machine.execLdt g d m fs s
  | .ldm g d base off fs => Sys2Proof.Machine.execLdm g d base off fs s
  | .ldvol g d m fs => Sys2Proof.Machine.execLdvol g d m fs s
  | .stvol g d m => Sys2Proof.Machine.execStvol g d m s
  | .fence g k sc => Sys2Proof.Machine.execFence g k sc s
  | .ldacq g d m fs => Sys2Proof.Machine.execLdacq g d m fs s
  | .strel g d m => Sys2Proof.Machine.execStrel g d m s
  | .amo g d base idx sc fn ret o fs => Sys2Proof.Machine.execAmo g d base idx sc fn ret o fs s
  | .red g d base idx sc fn o => Sys2Proof.Machine.execRed g d base idx sc fn o s
  | .amos g d base wide fn ret o fs => Sys2Proof.Machine.execAmos g d base wide fn ret o fs s
  | .own g d base off many => Sys2Proof.Machine.execOwn g d base off many s
  | .disown g d base off many => Sys2Proof.Machine.execDisown g d base off many s
  | .peg g a b c flag act n => Sys2Proof.Machine.execPeg g a b c flag act n s
  | .unpeg g mask => Sys2Proof.Machine.execUnpeg g mask s
  | .pegw g a n fs => Sys2Proof.Machine.execPegw g a n fs s
  | .pegq g d tag n => Sys2Proof.Machine.execPegq g d tag n s
  | .rpos g d f => Sys2Proof.Machine.execRpos g d f s
  | .ctail g a die eng => Sys2Proof.Machine.execCtail g a die eng s
  | .ctailRetry g die eng => Sys2Proof.Machine.execCtailRetry g die eng s
  | .ctailSkip g die eng => Sys2Proof.Machine.execCtailSkip g die eng s
  | .ctailStart g a b die eng => Sys2Proof.Machine.execCtailStart g a b die eng s
  | .cseq g d f die eng => Sys2Proof.Machine.execCseq g d f die eng s
  | .cwait g b die eng fs => Sys2Proof.Machine.execCwait g b die eng fs s
  | .cbacq g a b die buf => Sys2Proof.Machine.execCbacq g a b die buf s
  | .cbrel g a die buf => Sys2Proof.Machine.execCbrel g a die buf s
  | .cbpub g a b fin die buf => Sys2Proof.Machine.execCbpub g a b fin die buf s
  | .cbpubGet g a die buf => Sys2Proof.Machine.execCbpubGet g a die buf s
  | .spawn g a b c inc pri vf nargs va => Sys2Proof.Machine.execSpawn g a b c inc pri vf nargs va s
  | .tjoin g a => Sys2Proof.Machine.execTjoin g a s
  | .targ g d k => Sys2Proof.Machine.execTarg g d k s
  | .tend g => Sys2Proof.Machine.execTend g s
  | .desc g a b => Sys2Proof.Machine.execDesc g a b s
  | .bar g d b op grp => Sys2Proof.Machine.execBar g d b op grp s
  | .bara g b op grp => Sys2Proof.Machine.execBara g b op grp s
  | .barw g d grp => Sys2Proof.Machine.execBarw g d grp s
  | .trig g => Sys2Proof.Machine.execTrig g s
  | .flwait g all mask => Sys2Proof.Machine.execFlwait g all mask s
  | .trap g code => Sys2Proof.Machine.execTrap g code s
  | .eret g => Sys2Proof.Machine.execEret g s
  | .idem g m => Sys2Proof.Machine.execIdem g m s
  | .idend g => Sys2Proof.Machine.execIdend g s
  | .phint g wake units n => Sys2Proof.Machine.execPhint g wake units n s
  | .yield g => Sys2Proof.Machine.execYield g s
  | .rdcyc g d run => Sys2Proof.Machine.execRdcyc g d run s
  | .halt g code => Sys2Proof.Machine.execHalt g code s
  | .clauseIssue row => Sys2Proof.Machine.execClauseIssue row s
  | .deferredTrap row => Sys2Proof.Machine.execDeferredTrap row s
  | .operationComplete row id sel ecc => Sys2Proof.Machine.execOperationComplete row id sel ecc s
  | .storePerform row id sel ecc => Sys2Proof.Machine.execStorePerform row id sel ecc s
  | .atomicPerform row id sel ecc => Sys2Proof.Machine.execAtomicPerform row id sel ecc s
  | .rowRetire row => Sys2Proof.Machine.execRowRetire row s
  | .portEntryArrive row => Sys2Proof.Machine.execPortEntryArrive row s
  | .portWaitEnd row => Sys2Proof.Machine.execPortWaitEnd row s
  | .portStarved row => Sys2Proof.Machine.execPortStarved row s
  | .cbEdgeTransfer row south => Sys2Proof.Machine.execCbEdgeTransfer row south s
  | .vectorEnter row => Sys2Proof.Machine.execVectorEnter row s
  | .vectorWrite row => Sys2Proof.Machine.execVectorWrite row s
  | .swapPoint row => Sys2Proof.Machine.execSwapPoint row s
  | .shadowFillStart row => Sys2Proof.Machine.execShadowFillStart row s
  | .arrayPortStop row ecc => Sys2Proof.Machine.execArrayPortStop row ecc s
  | .arrayWatchdog row => Sys2Proof.Machine.execArrayWatchdog row s
  | .revolutionStart => Sys2Proof.Machine.execRevolutionStart s
  | .feederInsert ecc => Sys2Proof.Machine.execFeederInsert ecc s
  | .tilePass die bad => Sys2Proof.Machine.execTilePass die bad s
  | .pegFireComplete row n => Sys2Proof.Machine.execPegFireComplete row n s
  | .ringWatchdog row n => Sys2Proof.Machine.execRingWatchdog row n s
  | .commitPoint => Sys2Proof.Machine.execCommitPoint s
  | .engineCommandStart die eng ecc => Sys2Proof.Machine.execEngineCommandStart die eng ecc s
  | .engineCommandComplete die eng => Sys2Proof.Machine.execEngineCommandComplete die eng s
  | .nopCommand die eng => Sys2Proof.Machine.execNopCommand die eng s
  | .copy die eng ecc => Sys2Proof.Machine.execCopy die eng ecc s
  | .tile die eng ecc => Sys2Proof.Machine.execTile die eng ecc s
  | .gather die eng ecc => Sys2Proof.Machine.execGather die eng ecc s
  | .transpose die eng ecc => Sys2Proof.Machine.execTranspose die eng ecc s
  | .fill die eng => Sys2Proof.Machine.execFill die eng s
  | .pairedCommit die eng ecc => Sys2Proof.Machine.execPairedCommit die eng ecc s
  | .edgeFeed die eng ecc => Sys2Proof.Machine.execEdgeFeed die eng ecc s
  | .edgeDrain die eng => Sys2Proof.Machine.execEdgeDrain die eng s
  | .bufferSetUp die eng => Sys2Proof.Machine.execBufferSetUp die eng s
  | .followOnMmac die eng => Sys2Proof.Machine.execFollowOnMmac die eng s
  | .send die eng ecc => Sys2Proof.Machine.execSend die eng ecc s
  | .recv die eng => Sys2Proof.Machine.execRecv die eng s
  | .reduceStep die eng ecc => Sys2Proof.Machine.execReduceStep die eng ecc s
  | .xorReduce die eng ecc => Sys2Proof.Machine.execXorReduce die eng ecc s
  | .allreduce die eng ecc => Sys2Proof.Machine.execAllreduce die eng ecc s
  | .linkAbort comm tag => Sys2Proof.Machine.execLinkAbort comm tag s
  | .adyanCell port c => Sys2Proof.Machine.execAdyanCell port c s
  | .replay port seq => Sys2Proof.Machine.execReplay port seq s
  | .windowFill die => Sys2Proof.Machine.execWindowFill die s
  | .waveDispatch die row => Sys2Proof.Machine.execWaveDispatch die row s
  | .stealRequest die => Sys2Proof.Machine.execStealRequest die s
  | .taskEnqueue die => Sys2Proof.Machine.execTaskEnqueue die s
  | .joinDecrement row => Sys2Proof.Machine.execJoinDecrement row s
  | .continuationEnqueue die pri => Sys2Proof.Machine.execContinuationEnqueue die pri s
  | .partSecure die => Sys2Proof.Machine.execPartSecure die s
  | .domainReassign dom => Sys2Proof.Machine.execDomainReassign dom s
  | .gangStart pl => Sys2Proof.Machine.execGangStart pl s
  | .allowanceTick dom => Sys2Proof.Machine.execAllowanceTick dom s
  | .thermal dom reading => Sys2Proof.Machine.execThermal dom reading s
  | .laggardTransferEnd dom => Sys2Proof.Machine.execLaggardTransferEnd dom s
  | .bank row fp => Sys2Proof.Machine.execBank row fp s
  | .stokeRequest row fp => Sys2Proof.Machine.execStokeRequest row fp s
  | .inrushGrant die => Sys2Proof.Machine.execInrushGrant die s
  | .stokeComplete row fp => Sys2Proof.Machine.execStokeComplete row fp s
  | .preemptArrive die => Sys2Proof.Machine.execPreemptArrive die s
  | .hamperSave row => Sys2Proof.Machine.execHamperSave row s
  | .start => Sys2Proof.Machine.execStart s
  | .featuresTimeout => Sys2Proof.Machine.execFeaturesTimeout s
  | .fatal cause => Sys2Proof.Machine.execFatal cause s
  | .eventDeliver => Sys2Proof.Machine.execEventDeliver s
  | .cmdTail r v => Sys2Proof.Machine.execCmdTail r v s
  | .evtHead v => Sys2Proof.Machine.execEvtHead v s
  | .windowWrite off v => Sys2Proof.Machine.execWindowWrite off v s
  | .features => Sys2Proof.Machine.execFeatures s
  | .attest ecc => Sys2Proof.Machine.execAttest ecc s
  | .status => Sys2Proof.Machine.execStatus s
  | .jobOpen => Sys2Proof.Machine.execJobOpen s
  | .jobClose => Sys2Proof.Machine.execJobClose s
  | .allocSet ecc => Sys2Proof.Machine.execAllocSet ecc s
  | .sideCheck => Sys2Proof.Machine.execSideCheck s
  | .xlateInval => Sys2Proof.Machine.execXlateInval s
  | .place ecc => Sys2Proof.Machine.execPlace ecc s
  | .poolBind ecc => Sys2Proof.Machine.execPoolBind ecc s
  | .poolUnbind => Sys2Proof.Machine.execPoolUnbind s
  | .preempt => Sys2Proof.Machine.execPreempt s
  | .resume ecc => Sys2Proof.Machine.execResume ecc s
  | .checkpoint ecc => Sys2Proof.Machine.execCheckpoint ecc s
  | .restore ecc => Sys2Proof.Machine.execRestore ecc s
  | .ringLoad ecc => Sys2Proof.Machine.execRingLoad ecc s
  | .linkUp => Sys2Proof.Machine.execLinkUp s
  | .commLoad ecc => Sys2Proof.Machine.execCommLoad ecc s
  | .powerSet => Sys2Proof.Machine.execPowerSet s
  | .clearStart => Sys2Proof.Machine.execClearStart s
  | .mgmtStatus => Sys2Proof.Machine.execMgmtStatus s
  | .mgmtAttest => Sys2Proof.Machine.execMgmtAttest s
  | .mgmtReadStart => Sys2Proof.Machine.execMgmtReadStart s
  | .mgmtReadEvents => Sys2Proof.Machine.execMgmtReadEvents s
  | .mgmtReset => Sys2Proof.Machine.execMgmtReset s

end Sys2Proof.Machine
end

