-- ==== Sys2Proof/Machine/Issue.lean ====
section
/-! DEFINITION. Issuing the next word of a row's clause (R44, R45, R413), and running a scheduled move. -/

namespace Sys2Proof.Machine

/-- The row may issue the next word of a started clause: it runs, PREEMPT has not reached its die (R348), and no image of its
array is on its way (R197). -/
def Row.issues (s : State) (n : Nat) : Bool :=
  let r := s.row n
  r.life == .running && !(s.die (dieOf n)).halted && !r.transfer && r.arm.word.isSome

/-- Row n issues the word at its pc; one that waits there takes a deferred trap that is due first (R336, R337). -/
def issueNext (n : Nat) (s : State) : Host.Outcome State Fault Refusal :=
  let s := { s with cur := n }
  let a := (s.row n).arm
  match a.word with
  | none => .next s
  | some w =>
    if !Row.issues s n then .next s
    else match (s.row n).dueTrap, wordFault a w with
      | some d, _ => .next (s.takeDeferred n d)
      | none, some (c, t) => .next (s.trapHere n c t)
      | none, none =>
        match decode w with
        | .ok i => exec i s
        | .error _ => .next s

/-- A scheduled move: a row issues, or an event happens. An instruction is never an event of its own. -/
def runMove (m : Move) (s : State) : Host.Outcome State Fault Refusal :=
  match m with
  | .issue n => if n < 512 then issueNext n s else .next s
  | .event i => if i.isEvent && i.wf then exec i s else .next s

/-- A far cache may evict a line, written back first (R227; log entry 10). -/
def evict (s : State) (d : Nat) : State :=
  let far := (s.die d).far
  match far[Config.freeNat s.drawn d % far.length]? with
  | some e => if Config.freeBit s.drawn d then s.flushIf d (fun a => a / 64 == e.1 / 64) else s
  | none => s

/-- The producer above a die boundary has seen some more of the pops below it (R156). -/
def seePops (s : State) (n : Nat) : State :=
  s.modRow n (fun r => { r with unseen := r.unseen - Config.freeNat s.drawn n })

/-- Transfers of array images end, each at a free time (R197). -/
def endTransfers (s : State) : State :=
  s.job.rows.foldl (fun s e => if e.2.transfer && Config.freeBit s.drawn e.1 then s.modRow e.1 (fun r => { r with transfer := false })
    else s) s

/-- A unit may read page-table entries, and a row a clause, ahead of their use, so that either may later be used as they stood
(R47, R231; log entry 11). -/
def prefetch (s : State) : State :=
  let s1 := if Config.freeBit s.drawn 4 then (s.lookup (Config.freeNat s.drawn 4 % 5) (Config.freeNat s.drawn 5)).2 else s
  if Config.freeBit s1.drawn 5 then
    (s1.readClause (Config.freeNat s1.drawn 6 % 512) (BitVec.ofNat 56 (Config.freeNat s1.drawn 7))).2
  else s1

/-- The clock of an operating class in MHz (Table 01-7). -/
def classMHz (c : Nat) : Nat := match c with | 0 => 940 | 1 => 820 | 2 => 700 | _ => 470
/-- A class-0 clk passes over a domain, whose own count follows its class (R2, R374; log entry 3). -/
def Domain.pass (x : Domain) : Domain :=
  let p := x.phase + classMHz x.cls
  if 940 ≤ p then { x with phase := p - 940, clk := x.clk + 1, ticked := false } else { x with phase := p }

/-- A clk passes on a compute die, once each of its domains' controllers has had its turn in the one before (R376). -/
def State.passClk (s : State) (d : Nat) : State :=
  let l := (List.range 4).map (fun i => 4 * d + i)
  if l.all (fun m => (s.dom m).ticked) then
    l.foldl (fun s m => s.modDom m Domain.pass) (s.modDie d (fun y => { y with clk := y.clk + 1 }))
  else s

/-- What the in-rush arbiter does at a die's clk: its grant, and the units that are usable now. -/
def State.stokeMoves (s : State) (d : Nat) : List Move :=
  let y := s.die d
  (if y.clk.toNat % 16 = 0 && y.clk != y.inrushAt && !y.inrush.isEmpty then [.event (.inrushGrant d)] else [])
    ++ (y.inrush.filter (fun x => match x.ready with | some t => t.ule y.clk | none => false)).map (fun x =>
      .event (.stokeComplete x.row x.fp))

/-- What the passing of time does to a row at this clk: PORT_STARVED and the array's and the ring's watchdogs once their limits are
reached (R167, R192, R218), and the banking of a unit whose hold has expired (R383). -/
def State.lateMoves (s : State) (n : Nat) : List Instr :=
  (if s.starved n then [.portStarved n] else [])
    ++ (if (s.arrayLate n).isSome then [.arrayWatchdog n] else [])
    ++ ((List.range 16).filter (fun i => (s.pegwLate n i).isSome)).map (fun i => .ringWatchdog n i)
    ++ ([true, false].filter (s.bankDue n)).map (fun fp => .bank n fp)

/-- Everything that is due at this clk, which no other move comes before. -/
def State.dueMoves (s : State) : List Move :=
  ([0, 1, 2, 3] : List Nat).flatMap s.stokeMoves
    ++ (s.job.rows.flatMap (fun e => s.lateMoves e.1)
      ++ ((List.range 16).filter (fun d => !(s.dom d).transfers.all (s.dom d).owes)).map Instr.laggardTransferEnd).map Move.event

/-- Time passes on X and the memory dies, and on the system-core clock: the counts of clk and of ns (R410) grow by `k`. -/
def Dev.pass (k : Nat → Nat) (d : Dev) : Dev :=
  { d with clks := tabulate 0 5 (fun i => tget 0 d.clks i + BitVec.ofNat 64 (k i)), ns := d.ns + BitVec.ofNat 64 (k 5) }

/-- Time passes on each die, and on its links, before a scheduled move (R2; log entry 3). -/
def passTime (s : State) : State :=
  let s := s.modDev (fun d => { d.pass (Config.elapsed s.drawn) with readBad := Config.eccError s.drawn 5 })
  let s1 : State := [0, 1, 2, 3].foldl (fun s d => evict (if Config.clkPasses s.drawn d then s.passClk d else s) d) s
  prefetch (([128, 256, 384] : List Nat).foldl seePops (endTransfers s1.pumpLinks))

/-- The first element that an operation has still to perform. -/
def OpKind.nextElem : OpKind → Nat
  | .load _ _ _ _ _ es => es.findIdx (fun e => e.val.isNone && !e.bad)
  | .store _ _ _ es => es.findIdx (fun e => !e.done)
  | .atomic _ _ _ _ _ es => es.findIdx (fun e => e.old.isNone && !e.bad)
  | _ => 0

/-- What is under way for a row goes on by one step: its operations, its array, its ports and edges, its fires. -/
def Row.works (r : Row) (n : Nat) : List Instr :=
  [.stokeRequest n false, .stokeRequest n true, .portEntryArrive n, .cbEdgeTransfer n true, .cbEdgeTransfer n false,
    .shadowFillStart n, .swapPoint n, .arrayPortStop n none, .vectorEnter n, .vectorWrite n, .joinDecrement n]
    ++ r.ops.flatMap (fun o => let i := o.kind.nextElem
      [.storePerform n o.id i false, .atomicPerform n o.id i false, .operationComplete n o.id i false])
    ++ (List.range 16).map (fun i => .pegFireComplete n i)

/-- What a row's turn is: its domain's controller, what is under way for it, the end of a wait at a port, a trap that is due, its
next clause, its next word, its retirement, a wave for a pool's row, and its hamper (R37, R332, R349). -/
def rowTurn (r : Row) (n : Nat) : List Move :=
  (Instr.allowanceTick (domOf n) :: r.works n ++ [Instr.portWaitEnd n, Instr.deferredTrap n, Instr.clauseIssue n]).map Move.event
    ++ [.issue n, .event (.rowRetire n), .event (.waveDispatch (dieOf n) n), .event (.hamperSave n)]

/-- What an engine does next, whatever its command is (R276). -/
def engineTurn (d e : Nat) : List Instr :=
  [.engineCommandStart d e false, .nopCommand d e, .copy d e false, .tile d e false, .gather d e false, .transpose d e false,
    .fill d e, .pairedCommit d e false, .edgeFeed d e false, .edgeDrain d e, .bufferSetUp d e, .send d e false, .recv d e,
    .reduceStep d e false, .xorReduce d e false, .allreduce d e false, .followOnMmac d e, .engineCommandComplete d e]

/-- What a die's turn is: its engines, its placement queues (R303, R304, R375), a PREEMPT on its way (R348), and its task pool. -/
def dieTurn (d : Nat) : List Instr :=
  (List.range 8).flatMap (engineTurn d)
    ++ [.partSecure d, .preemptArrive d, .windowFill d, .taskEnqueue d, .stealRequest d]
    ++ (List.range 4).flatMap (fun i => [.continuationEnqueue d i, .domainReassign (4 * d + i)])

/-- What the device's turn is: the Mangle (R204 to R206), a commit, placements that start, a start and the command at the head
of the ring (R395, R398), and an event. -/
def deviceTurn (s : State) : List Instr :=
  [.revolutionStart, .feederInsert false] ++ (List.range 4).map (fun d => .tilePass d false) ++ [.commitPoint]
    ++ s.job.pls.map (fun p => .gangStart p.num)
    ++ [.start, .features, .attest false, .status, .jobOpen, .jobClose, .allocSet false, .sideCheck, .xlateInval,
      .place false, .poolBind false, .poolUnbind, .preempt, .resume false, .checkpoint false, .restore false,
      .ringLoad false, .linkUp, .commLoad false, .powerSet, .eventDeliver]

/-- A unit's turn comes, row n's where n is below 512: a clk passes on each die that may, pops above the row have been seen, and a
transfer of its array's image is over. -/
def State.turnTo (s : State) (n : Nat) : State :=
  (([0, 1, 2, 3] : List Nat).foldl State.passClk s).modRow n (fun r => { r with unseen := 0, transfer := false })

/-- What unit n does in its turn: rows 0 to 511, then the four dies, then the device. -/
def State.turnOf (s : State) (n : Nat) : List Move :=
  if n < 512 then rowTurn (s.row n) n else if n < 516 then (dieTurn (n - 512)).map Move.event
  else (deviceTurn s).map Move.event

/-- The free schedule names the next move, after what is due at this clk, and each unit in turn gets its own (R37, R332, R276; log
entry 1). -/
def drawMove (s : State) : State :=
  let k := s.turn + 1
  let n := k / (Config.patience + 1) % 517
  let mine := k % (Config.patience + 1) = 0
  let t := if mine then (passTime s).turnTo n else passTime s
  { t with agenda := t.dueMoves ++ Config.nextMove t.drawn :: (if mine then t.turnOf n else []), drawn := t.drawn + 1, turn := k }

/-- One word placed as the whole clause that row 0 is about to issue (log entry 20). -/
def placeWord (s : State) (w : W64) : State :=
  let s := s.modDie 0 (fun d => { d with halted := false })
  { s.modRow 0 (fun r =>
      { r with
        life := .running
        arm := { r.arm with pc := 8, clause := ⟨0, 0xF, 0, 15, 15, false, [w]⟩, em := laneMask r.L &&& ~~~r.exited }
        wait := none
        retake := false
        transfer := false }) with
    agenda := [.issue 0] }

end Sys2Proof.Machine
end

