-- ==== Sys2Proof/Machine/Step.lean ====
section
/-! DEFINITION. One step of the device: the first move of the agenda, or, with none left, the free schedule's next. -/

namespace Sys2Proof.Machine

/-- One step. Between two moves the free schedule (log entry 1) puts the next one on the agenda. -/
def step (s : State) : Host.Outcome State Fault Refusal :=
  match s.agenda with
  | [] => .next (drawMove s)
  | m :: rest => runMove m { s with agenda := rest }

/-- The host's placement of one instruction: the word of `nbits` bits is the whole clause that row 0 issues next. -/
def State.withFetchWord (s : State) (nbits w : Nat) : State := placeWord s (BitVec.ofNat 64 (w % 2 ^ nbits))

end Sys2Proof.Machine
end

