-- ==== Sys2Proof/Safety.lean ====
section
/-! DEFINITION. What claims are stated in: the canonical form of memory and the invariant, a row with nothing outstanding,
and what a state is once a word has issued. -/

namespace Sys2Proof.Machine

/-- The canonical form of memory: addresses strictly rising, no byte equal to what an unlisted address reads as. -/
abbrev Memory.wf (m : List Host.Cell) : Prop := twf (0 : W8) m = true

/-- The invariant that every step keeps: the memory of the job, the memory of each stored checkpoint and of the one under way, and
the SRAM on X keep their canonical form. -/
def State.Inv (s : State) : Prop :=
  Memory.wf s.job.mem ∧ (∀ x ∈ s.dev.tierStore, Memory.wf x.job.mem) ∧
    (∀ k ∈ s.dev.ckpt, ∀ j ∈ k.job, Memory.wf j.mem) ∧ Memory.wf s.dev.sram

/-- Nothing of the row is outstanding: no long-latency operation, and nothing in its array. -/
def Row.Quiet (r : Row) : Prop := r.ops = [] ∧ r.queue = [] ∧ r.inflight = []

/-- The vector registers named exist at the row's width (R118). -/
def Row.Has (r : Row) (l : List Nat) : Prop := ∀ x ∈ l, x < r.vcount

/-- The segment of a modifier fits the row's width (R60). -/
def Row.Fits (r : Row) (m : Amod) : Prop := amodSeg m ≤ r.L

/-- An arm without its pc and clause. -/
def Arm.still (a : Arm) : Arm := { a with pc := 0, clause := .none }

/-- A row without where its arms stand and which of them issues, its requests for a clause, and what it waits for: all that
the passage to the next word may change. -/
def Row.still (r : Row) : Row :=
  let x : Row := { r with armId := .single, req := none, granted := false, wait := none, waitSince := 0, prepaid := 0 }
  match r.other with
  | none => { x with arm := r.arm.still }
  | some o =>
    if r.armId = .t then { x with arm := r.arm.still, other := some o.still }
    else { x with arm := o.still, other := some r.arm.still }

/-- The arm that bears a name now. -/
def Row.armOf (r : Row) (k : ArmId) : Option Arm := if r.armId = k then some r.arm else r.other

/-- The job without its rows and domains. -/
def State.rest (s : State) : Job := { s.job with rows := [], doms := [] }

/-- `t` is `u` once the word of row `u.cur` has issued: the row may stand elsewhere, its domain is charged, and nothing else
differs. -/
structure Acted (u t : State) : Prop where
  row : (t.row u.cur).still = (u.row u.cur).still
  others : ∀ m, m ≠ u.cur → t.row m = u.row m
  doms : ∀ d, { t.dom d with due := [] } = { u.dom d with due := [] }
  dies : ∀ d, t.die d = u.die d
  bytes : ∀ a, t.byte a = u.byte a
  rest : t.rest = u.rest
  dev : t.dev = u.dev
  agenda : t.agenda = u.agenda
  cur : t.cur = u.cur

/-- The word at hand completes, and leaves `u` but for the passage to the next word. -/
def Completes (i : Instr) (s u : State) : Prop := ∃ t, exec i s = .next t ∧ Acted u t

/-- The word at hand raises a cause at its own address, in normal mode, and nothing else happens: `t` is `s` with the trap
entered (R334), a free value drawn. -/
def Raises (i : Instr) (s : State) (cause : W8) (tval : W64) : Prop :=
  exec i s = .next (s.draw.trapHere s.cur cause tval)

/-- The word at hand waits: the row stands where it stood and nothing but the wait is noted. -/
def Waits (i : Instr) (s : State) (w : Wait) : Prop := exec i s = .next (s.draw.waitFor s.cur w)

/-- A scalar-class word of the current row acts: nothing is outstanding and its guard holds. -/
def State.ready (s : State) (g : Guard) : Prop := (s.row s.cur).Quiet ∧ (s.row s.cur).guardQ g = true

/-- A lane-class word of the current row acts: nothing is outstanding and it acts in some lane. -/
def State.acting (s : State) (g : Guard) : Prop := (s.row s.cur).Quiet ∧ (s.row s.cur).anyActs g = true

/-- R345 refuses nothing: no idempotent region is open, or the row is in handler mode. -/
def Row.outside (r : Row) : Prop := r.region = none ∨ r.handler = true

/-- The current row changed. -/
def State.now (s : State) (f : Row → Row) : State := s.modRow s.cur f

/-- The current row with its vector FP datapath used once (R382). -/
def State.usedFp (s : State) : State := s.modRow s.cur (Row.useFp (s.rowClk s.cur))

/-- The word completes and leaves `u`, but for one vector register: lane l of vd becomes what `f` gives, and where it gives
nothing, and in every other register, each lane is as before. -/
def WritesV (i : Instr) (s u : State) (d : Nat) (f : Nat → Option W32) : Prop :=
  ∃ t v, exec i s = .next t ∧ Acted (u.now (fun r => { r with v := v })) t ∧
    ∀ k l, l < (s.row s.cur).L → ({ s.row s.cur with v := v } : Row).vreg k l =
      (if k = d then f l else none).getD ((s.row s.cur).vreg k l)

/-- Likewise for the lane predicates: bit l of pk becomes what `f k l` gives. -/
def WritesP (i : Instr) (s u : State) (f : Nat → Nat → Option Bool) : Prop :=
  ∃ t p, exec i s = .next t ∧ Acted (u.now (fun r => { r with p := p })) t ∧
    ∀ k l, l < (s.row s.cur).L → (({ s.row s.cur with p := p } : Row).preg k).getLsbD l =
      (f k l).getD (((s.row s.cur).preg k).getLsbD l)

/-- A decoded float is a finite number of this value. -/
def FVal.Is (v : FVal) (x : ℝ) : Prop :=
  match v with
  | .fin n m e => x = (if n then -1 else 1) * (m : ℝ) * (2 : ℝ) ^ e
  | _ => False

/-- R125, R126: what an exact value other than zero comes to, rounded once in a mode: beyond the format's range an infinity or,
where the mode rounds towards zero, the largest finite value, with overflow and inexact; otherwise the value that the mode gives
of those that the format has, ties to the even one, with inexact where it differs and underflow where it is tiny as well. -/
def FFmt.Rounds (f : FFmt) (mode : Rnd) (x : ℝ) (out : Nat × Flags) : Prop :=
  ∃ n : Bool, (n = true ↔ x < 0) ∧
    let top : ℝ := (2 : ℝ) ^ (f.umax + f.mb + 1)
    let low : ℝ := (2 : ℝ) ^ (f.umin + f.mb)
    let inward : Prop := mode = .rtz ∨ (mode = .rup ∧ n = true) ∨ (mode = .rdn ∧ n = false)
    -- the magnitude reaches `b` once rounded, where the values below `b` stand `d` apart
    let reaches (b d : ℝ) : Prop := (mode = .rne → b - d / 2 ≤ |x|) ∧ (inward → b ≤ |x|) ∧ (mode ≠ .rne → ¬ inward → b - d < |x|)
    let past : Prop := reaches top ((2 : ℝ) ^ f.umax)
    let tiny : Prop := ¬ reaches low ((2 : ℝ) ^ (f.umin - 1))
    (past → inward → out = (f.signed n f.maxBits, fOverflow ||| fInexact)) ∧
    (past → ¬ inward → out = (f.signed n f.infBits, fOverflow ||| fInexact ||| fNF)) ∧
    (¬ past → ∃ (q : Nat) (u : Int) (y : ℝ), f.decode out.1 = .fin n q u ∧ (FVal.fin n q u).Is y ∧
      (mode = .rne → ∀ b z, (f.decode b).Is z → |x - y| ≤ |x - z| ∧ (z ≠ y → |x - y| = |x - z| → q % 2 = 0)) ∧
      (mode = .rtz → |y| ≤ |x| ∧ ∀ b z, (f.decode b).Is z → |z| ≤ |x| → |z| ≤ |y|) ∧
      (mode = .rup → x ≤ y ∧ ∀ b z, (f.decode b).Is z → x ≤ z → y ≤ z) ∧
      (mode = .rdn → y ≤ x ∧ ∀ b z, (f.decode b).Is z → z ≤ x → z ≤ y) ∧
      (y = x → out.2 = 0) ∧ (y ≠ x → tiny → out.2 = fInexact ||| fUnderflow) ∧ (y ≠ x → ¬ tiny → out.2 = fInexact))

/-- The same for a value that may be zero, which has the sign given and raises nothing. -/
def FFmt.Gives (f : FFmt) (mode : Rnd) (x : ℝ) (zero : Bool) (out : Nat × Flags) : Prop :=
  (x ≠ 0 → f.Rounds mode x out) ∧ (x = 0 → out = (f.signed zero 0, 0))

/-- The word completes, leaves `u`, and its arm goes to an address. -/
def JumpsTo (i : Instr) (s u : State) (x : Va) : Prop :=
  ∃ t, exec i s = .next t ∧ Acted u t ∧
    (t.row s.cur).armOf (s.row s.cur).armId = some ((u.row s.cur).arm.goto x)

/-- What a word after which Resume runs comes to, its row having become `q` before it: BAR_DIVERGE where no lane may run
(R101), otherwise the row that Resume leaves, and its pc where Resume sets one. -/
def Resumes (i : Instr) (s : State) (q : Row) : Prop :=
  match q.resume with
  | none => Raises i s cBarDiverge (q.lastBar.setWidth 64)
  | some (r, moved) => ∃ t, exec i s = .next t ∧ Acted (s.setRow s.cur r) t ∧
      (moved = true → (t.row s.cur).armOf r.armId = some r.arm)

/-- Where lane l acts, a value; elsewhere nothing. -/
def Row.inActs {α : Type} (r : Row) (g : Guard) (f : Nat → α) (l : Nat) : Option α := if r.acts g l then some (f l) else none

/-- The head record has completed with a status, a reason and a result. -/
def AnsweredWith (s t : State) (status reason : Nat) (x : W64) : Prop :=
  (t.dev.slot s.dev.cmdHead).w6 = x ∧ (t.dev.slot s.dev.cmdHead).w7 = BitVec.ofNat 64 (status + 256 * reason) + (x <<< 32) ∧
    t.dev.cmdHead = (s.dev.cmdHead + 1) % 256 ∧ t.dev.cmdTail = s.dev.cmdTail

/-- Mbabo has a record of this code at CMD_HEAD, none of R401's first four reasons refuses it, and no accepted PREEMPT holds it up
(R398). -/
def Runs (s : State) (code : Nat) (r : CmdRec) : Prop :=
  s.job.pre ≠ .asked ∧ s.dev.phase = .up ∧ s.dev.cmdHead ≠ s.dev.cmdTail ∧ s.dev.slot s.dev.cmdHead = r ∧ cmdCode r = code ∧ s.dev.refuses r = none

/-- The commands and their codes (Table 20-3), but for PREEMPT. -/
def commandsOfMbabo : List (Instr × Nat) :=
  [(.features, 0x01), (.attest false, 0x02), (.status, 0x03), (.jobOpen, 0x10), (.jobClose, 0x11), (.allocSet false, 0x12),
   (.sideCheck, 0x13), (.xlateInval, 0x14), (.place false, 0x20), (.poolBind false, 0x21), (.poolUnbind, 0x22),
   (.resume false, 0x31), (.checkpoint false, 0x32), (.restore false, 0x33), (.ringLoad false, 0x40), (.linkUp, 0x50),
   (.commLoad false, 0x51), (.powerSet, 0x60)]

end Sys2Proof.Machine
end

