-- ==== Sys2Proof/Certificates/Slice0/Obligations.lean ====
section
/-! DEFINITION. The statements for the provers: encodings, the machine as a whole, and, family by family, what each
instruction and each event does and leaves alone. -/

open Sys2Proof Sys2Proof.Machine

/-! ### Encodings -/

/-- R52 to R61: every well-formed instruction has a word, and its word decodes to it. -/
def Obligations.RoundTrip : Prop :=  ∀ i : Instr, i.wf = true → i.isEvent = false → ∃ w, encode i = some w ∧ decode w = .ok i

/-- R54, R61: a word that decodes is the word of exactly one well-formed instruction: no bit of it is dropped. -/
def Obligations.DecodeSound : Prop :=  ∀ (w : W64) (i : Instr), decode w = .ok i → i.wf = true ∧ i.isEvent = false ∧ encode i = some w ∧
    ∀ v, decode v = .ok i → v = w

/-- Words written out from Tables 02-4 to 02-6 and the encodings of their entries. -/
def Obligations.SampleWords : Prop :=  let g : Guard := ⟨0xFF, 0, 0, 0⟩
  decode 0x00FF000000000000 = .ok (.nop g) ∧
  decode (0x01#8 ++ 0xFF#8 ++ 0#9 ++ 3#6 ++ 4#6 ++ 0#12 ++ 5#6 ++ 1#9) = .ok (.salu g .sub 3 4 5) ∧
  decode (0x02#8 ++ 0xFF#8 ++ 0#9 ++ 1#6 ++ 2#6 ++ 0x7FFFFFF#27) = .ok (.saddi g 1 2 0x7FFFFFF) ∧
  decode (0x68#8 ++ 0xAA#8 ++ 1#3 ++ 2#3 ++ 3#3 ++ 0#3 ++ 0#3 ++ 0x1FFFFFFFF#33) =
    .ok (.br ⟨0xAA, 1, 2, 3⟩ .always 0 0x1FFFFFFFF)

/-- R44, R45, R61: a word that is no instruction of its clause traps, with its own word or address, unless a deferred trap is
due before it (R337). -/
def Obligations.IllegalWords : Prop :=  ∀ (s : State) (n : Nat) (w : W64) (rest : List Move) (k : Nat), s.agenda = .issue n :: rest → n < 512 →
    Row.issues s n = true → (s.row n).dueTrap = none → (s.row n).arm.word = some w →
    let u : State := { s with agenda := rest, cur := n }
    let a := (s.row n).arm
    let op := w.toNat / 2 ^ 56
    let clause : Prop := step s = .next (u.trapHere n cIllClause (a.pc.setWidth 64))
    let encoding : Prop := step s = .next (u.trapHere n cIllEnc w)
    (0xDC ≤ op ∧ op ≤ 0xDF → clause) ∧
    (¬ (0xDC ≤ op ∧ op ≤ 0xDF) → opFormat op = none → encoding) ∧
    (opFormat op ≠ none → opClass op = some k → a.clause.cls.getLsbD k = false → clause) ∧
    (opFormat op ≠ none → (∀ k, opClass op = some k → a.clause.cls.getLsbD k = true) →
      (mustBeLast op = true → a.pc ≠ a.clause.last → clause) ∧
      ((mustBeLast op = false ∨ a.pc = a.clause.last) → (∀ i, decode w ≠ .ok i) → encoding))

/-! ### The machine as a whole -/

/-- A step runs the move at the head of the agenda: for a row's turn to issue, the instruction that the word at its pc decodes
to, or first the deferred trap that is due where the row waits (R336, R337); for an event that event, and with no move left it
draws one; a word placed by the host is the next to run. -/
def Obligations.StepRunsDecoded : Prop :=  ∀ (s : State) (n : Nat) (w : W64) (i : Instr) (rest : List Move),
    (s.agenda = .issue n :: rest → n < 512 → Row.issues s n = true → (s.row n).arm.word = some w →
      (∀ d, (s.row n).dueTrap = some d → step s = .next ({ s with agenda := rest, cur := n }.takeDeferred n d)) ∧
      ((s.row n).dueTrap = none → wordFault (s.row n).arm w = none → decode w = .ok i → step s = exec i { s with agenda := rest, cur := n })) ∧
    (s.agenda = .event i :: rest → i.isEvent = true → i.wf = true → step s = exec i { s with agenda := rest }) ∧
    (s.agenda = .issue n :: rest → Row.issues s n = false →
      ∃ k, step s = .next { s with agenda := rest, cur := k }) ∧
    (s.agenda = [] → step s = .next (drawMove s)) ∧
    (decode w = .ok i → let u := s.withFetchWord 64 w.toNat
      step u = exec i { u with agenda := [], cur := 0 } ∧ (u.row 0).arm.word = some w ∧ ∀ a, u.byte a = s.byte a)

/-- No state stops the machine: every instruction and every event has an effect, a trap or a wait. -/
def Obligations.StepTotal : Prop := ∀ s : State, ∃ t, step s = .next t

/-- The memory keeps its canonical form under every step. -/
def Obligations.StepKeepsInvariant : Prop := ∀ s t : State, s.Inv → step s = .next t → t.Inv

/-- The state after reset has the invariant. -/
def Obligations.ResetInvariant : Prop := State.reset.Inv

/-- R13, R382, R395, R399, R400: what a reset leaves: no row thread, unwritten memory that reads zero (log entry 5), the
values of Table 01-3 in a row without a thread, empty rings, a start to come, and no feature accepted. Table 01-3 gives its
values at the start of work: that csr.rng reads 1 and csr.plive 0xFF before it is the model's choice (log entry 4). -/
def Obligations.ResetState : Prop :=  ∀ (n a : Nat),
    let s := State.reset
    let r := s.row n
    r.life = .idle ∧ r.pool = none ∧ r.sreg 0 = 0 ∧ r.csr.rng = 1 ∧ r.csr.plive = 0xFF ∧ r.csr.fflags = 0 ∧
    r.handler = false ∧ r.region = none ∧ r.ops = [] ∧ r.fp.conf = 3 ∧ r.mat.conf = 3 ∧ s.byte a = 0 ∧
    s.job.pls = [] ∧ s.dev.cmdHead = 0 ∧ s.dev.cmdTail = 0 ∧ s.dev.evtHead = 0 ∧ s.dev.evtTail = 0 ∧
    s.dev.phase = .off ∧ s.dev.accepted = 0 ∧ s.dev.jobSt = .none

/-! ### Scalar instructions -/

/-- R106 and Table 04-2: sd receives the function's value, and nothing else changes; a shift counts B[5:0]. Table 04-3 and
R110: the immediate forms and SADDA. R111: SMOVV reads the lane that s[b] names, or the lowest current lane; a lane at or
beyond L traps BOUNDS. -/
def Obligations.ScalarArithmetic : Prop :=
  (∀ (s : State) (g : Guard) (d a b : SReg), s.ready g →
     let x := (s.row s.cur).sreg a.toNat
     let y := (s.row s.cur).sreg b.toNat
     let gives (op : SaluOp) (v : W64) : Prop := Completes (.salu g op d a b) s (s.now (fun r => r.setS d.toNat v))
     gives .add (x + y) ∧ gives .sub (x - y) ∧ gives .and (x &&& y) ∧ gives .or (x ||| y) ∧ gives .xor (x ^^^ y) ∧
     gives .andn (x &&& ~~~y) ∧ gives .shl (x <<< (y.toNat % 64)) ∧ gives .shr (x >>> (y.toNat % 64)) ∧
     gives .sra (x.sshiftRight (y.toNat % 64)) ∧
     gives .min (if x.toInt ≤ y.toInt then x else y) ∧ gives .max (if x.toInt ≤ y.toInt then y else x) ∧
     gives .minn (if x.toNat ≤ y.toNat then x else y) ∧ gives .maxn (if x.toNat ≤ y.toNat then y else x) ∧
     gives .slt (if x.toInt < y.toInt then 1 else 0) ∧ gives .sltn (if x.toNat < y.toNat then 1 else 0) ∧
     gives .mul (x * y) ∧ gives .mulh (BitVec.ofInt 64 (x.toInt * y.toInt / 2 ^ 64)) ∧
     gives .mulhn (BitVec.ofNat 64 (x.toNat * y.toNat / 2 ^ 64)) ∧
     (y ≠ 0 → gives .divn (BitVec.ofNat 64 (x.toNat / y.toNat)) ∧ gives .remn (BitVec.ofNat 64 (x.toNat % y.toNat))) ∧
     gives .clz (BitVec.ofNat 64 ((List.range 64).takeWhile (fun i => !x.getMsbD i)).length) ∧
     gives .popc (BitVec.ofNat 64 ((List.range 64).countP (fun i => x.getLsbD i)))) ∧
  (∀ (s : State) (g : Guard) (d a b : SReg) (i : BitVec 27) (n : BitVec 6) (h : BitVec 10) (sh : BitVec 3) (a56 w : Bool),
     s.ready g →
     let x := (s.row s.cur).sreg a.toNat
     let y := (s.row s.cur).sreg b.toNat
     let gives (j : Instr) (v : W64) : Prop := Completes j s (s.now (fun r => r.setS d.toNat v))
     gives (.saddi g d a i) (x + i.signExtend 64) ∧ gives (.sandi g d a i) (x &&& i.signExtend 64) ∧
     gives (.sori g d a i) (x ||| i.signExtend 64) ∧ gives (.sxori g d a i) (x ^^^ i.signExtend 64) ∧
     gives (.sshli g d a n) (x <<< n.toNat) ∧ gives (.sshri g d a n) (x >>> n.toNat) ∧
     gives (.ssrai g d a n) (x.sshiftRight n.toNat) ∧ gives (.sli g d i) (i.signExtend 64) ∧
     gives (.slui g d a i) (x.extractLsb' 54 10 ++ i ++ x.extractLsb' 0 27) ∧
     gives (.slhi g d a h) (h ++ x.extractLsb' 0 54) ∧
     gives (.sadda g d a b a56 w sh) (
       let t := x + ((if w then (y.setWidth 32).signExtend 64 else y) <<< sh.toNat)
       if a56 then t &&& 0xFFFFFFFFFFFFFF else t)) ∧
  (∀ (s : State) (g : Guard) (d : SReg) (a : VReg) (m : Amod) (b : SReg) (sx : Bool) (j : Nat), s.ready g →
     (s.row s.cur).Fits m → (s.row s.cur).Has [a.toNat] →
     let r := s.row s.cur
     let put (w : W32) : State := s.now (fun r => r.setS d.toNat (if sx then w.signExtend 64 else w.zeroExtend 64))
     ((r.sreg b.toNat).toNat < r.L →
       Completes (.smovv g d a m b false sx) s (put (r.src a m (r.sreg b.toNat).toNat))) ∧
     (r.L ≤ (r.sreg b.toNat).toNat → Raises (.smovv g d a m b false sx) s cBounds (r.sreg b.toNat)) ∧
     (j < r.L → r.arm.em.getLsbD j = true → (∀ k, k < j → r.arm.em.getLsbD k = false) →
       Completes (.smovv g d a m 0 true sx) s (put (r.src a m j))) ∧
     ((∀ k, k < r.L → r.arm.em.getLsbD k = false) →
       Completes (.smovv g d a m 0 true sx) s (s.now (fun r => r.setS d.toNat 0))))

/-- R107: with a true guard, a zero divisor traps INT_DIVZERO with the dividend and leaves sd; otherwise the quotient is
truncated, the remainder goes with it, and -2^63 by -1 does not trap. -/
def Obligations.ScalarDivision : Prop :=  ∀ (s : State) (g : Guard) (d a b : SReg), s.ready g →
    let x := (s.row s.cur).sreg a.toNat
    let y := (s.row s.cur).sreg b.toNat
    let gives (op : SaluOp) (v : W64) : Prop := Completes (.salu g op d a b) s (s.now (fun r => r.setS d.toNat v))
    (∀ op ∈ [SaluOp.div, .divn, .rem, .remn], y = 0 → Raises (.salu g op d a b) s cIntDivzero x ∧
      ((s.row s.cur).handler = false → ∃ t, exec (.salu g op d a b) s = .next t ∧ (t.row s.cur).csr.cause = 0x0E ∧
        (t.row s.cur).csr.tval = x ∧ (t.row s.cur).s = (s.row s.cur).s)) ∧
    (y ≠ 0 → gives .div (BitVec.ofInt 64 (x.toInt.tdiv y.toInt)) ∧
      gives .rem (BitVec.ofInt 64 (x.toInt - y.toInt * x.toInt.tdiv y.toInt))) ∧
    (x = 0x8000000000000000 → y = 0xFFFFFFFFFFFFFFFF → gives .div 0x8000000000000000 ∧ gives .rem 0)

/-- R112, R113: SCSR, SCSW and SCSX; a read-only CSR, or csr.cause, csr.epc and csr.tval outside a handler, traps PRIV with
the CSR's number. R342: the clk count of the die, and the count since the row thread started. -/
def Obligations.CsrAccess : Prop :=
  (∀ (s : State) (g : Guard) (d a : SReg) (c : Csr) (k : CsrMode), s.ready g →
     let r := s.row s.cur
     let old := csrRead s s.cur c
     let x := r.sreg a.toNat
     let new := match k with | .write => x | .set => old ||| x | .clr => old &&& ~~~x
     let open_ := csrAcc c = .rw ∨ (csrAcc c = .h ∧ r.handler = true)
     Completes (.scsr g d c) s (s.now (fun r => r.setS d.toNat old)) ∧
     (open_ → (c = .tvec → new &&& 7 = 0) →
       Completes (.scsw g a k c) s (s.now (fun r => { r with csr := csrWrite r.csr c new })) ∧
       Completes (.scsx g d a k c) s (s.now (fun r => ({ r with csr := csrWrite r.csr c new } : Row).setS d.toNat old))) ∧
     (¬ open_ → Raises (.scsw g a k c) s cPriv (BitVec.ofNat 64 c.number) ∧
       Raises (.scsx g d a k c) s cPriv (BitVec.ofNat 64 c.number))) ∧
  (∀ (s : State) (g : Guard) (d : SReg), s.ready g →
     let r := s.row s.cur
     Completes (.rdcyc g d false) s (s.now (fun r => r.setS d.toNat (csrRead s s.cur .cyc))) ∧
     Completes (.rdcyc g d true) s
       (s.now (fun r' => r'.setS d.toNat ((s.dom (s.cur / 32)).clk - r.runBase + BitVec.ofNat 64 r.runAcc))))

/-- R114: a misaligned csr.tvec traps MISALIGN with the value and is not written; a write of csr.plive acts as PLIVE with the
same mask; what a write leaves is what the next instruction reads. -/
def Obligations.CsrVectorAndMask : Prop :=  ∀ (s : State) (g : Guard) (d a : SReg) (k : CsrMode), s.ready g →
    let x := (s.row s.cur).sreg a.toNat
    let mix (c : Csr) : W64 :=
      match k with | .write => x | .set => csrRead s s.cur c ||| x | .clr => csrRead s s.cur c &&& ~~~x
    (mix .tvec &&& 7 ≠ 0 → Raises (.scsw g a k .tvec) s cMisalign (mix .tvec) ∧
      Raises (.scsx g d a k .tvec) s cMisalign (mix .tvec)) ∧
    (∃ u, Completes (.scsw g a k .plive) s u ∧ Completes (.plive g ((mix .plive).setWidth 8)) s u ∧
      csrRead u s.cur .plive = ((mix .plive).setWidth 8 ||| (1 : W8)).setWidth 64) ∧
    (∀ t, exec (.scsw g a k .rng) s = .next t → csrRead t s.cur .rng = mix .rng) ∧
    (mix .tvec &&& 7 = 0 → ∀ t, exec (.scsw g a k .tvec) s = .next t →
      csrRead t s.cur .tvec = ((mix .tvec).setWidth 56).setWidth 64)

/-- R104, R73: writes to s0, p0 and q0 are discarded and these read 0, all ones and true; any other scalar register or
predicate that is written reads as written, and the others as before. R334, R340: in a handler the names s24 to s31 reach h0
to h7, the others are those of the program, and writing one bank leaves the other. R12: lane l of vN is a word of its own: a
write of some lanes of a register leaves every other lane and register. -/
def Obligations.RegisterFiles : Prop :=
  (∀ (r : Row) (n m : Nat) (x : W64) (b : Bool) (k : Mask),
     r.sreg 0 = 0 ∧ r.setS 0 x = r ∧ r.qreg 0 = true ∧ r.setQ 0 b = r ∧ r.setP 0 k = r ∧
     (∀ l, l < 1024 → (r.preg 0).getLsbD l = decide (l < r.L)) ∧
     (n ≠ 0 → n < 32 → m < 32 → (r.setS n x).sreg m = if m = n then x else r.sreg m) ∧
     (n ≠ 0 → n < 8 → m < 8 → (r.setQ n b).qreg m = if m = n then b else r.qreg m) ∧
     (n ≠ 0 → n < 8 → m < 8 → (r.setP n k).preg m = if m = n then k &&& laneMask r.L else r.preg m)) ∧
  (∀ (r : Row) (n m : Nat) (x : W64), 24 ≤ n → n < 32 → 0 < m → m < 24 →
     let h : Row := { r with handler := true }
     let p : Row := { r with handler := false }
     (h.setS n x).h = tset 0 r.h (n - 24) x ∧ (h.setS n x).s = r.s ∧ h.sreg n = tget 0 r.h (n - 24) ∧
     (p.setS n x).s = tset 0 r.s n x ∧ (p.setS n x).h = r.h ∧ p.sreg n = tget 0 r.s n ∧
     h.sreg m = p.sreg m ∧ (h.setS m x).s = (p.setS m x).s ∧ (h.setS m x).h = r.h) ∧
  (∀ (r : Row) (d k l : Nat) (ls : List Nat) (f : Nat → W32), l < r.L → (∀ x ∈ ls, x < r.L) →
     (r.setLanes d ls f).vreg k l = if k = d ∧ l ∈ ls then f l else r.vreg k l)

/-! ### Vector instructions -/

/-- R120, R121, R123: the lane-class integer instructions write vd in each lane that acts and nothing else. R122: VMAD reads
vd as its third source. Table 05-4: each element of VIALU's lane word, of 32, 16 or 8 bits, is computed from the two elements
alone. -/
def Obligations.VectorResults : Prop :=
  (∀ (s : State) (g : Guard) (d a b : VReg) (m : Amod) (op : VOp) (w : VW) (i : BitVec 27) (n : BitVec 5) (c : SReg)
     (p : PReg) (h : Bool), s.acting g → (s.row s.cur).Fits m → (s.row s.cur).Has [d.toNat, a.toNat, b.toNat] →
     let r := s.row s.cur
     let gives (j : Instr) (f : Nat → W32) : Prop := WritesV j s s d.toNat (r.inActs g f)
     gives (.vialu g op w d a m b) (fun l => vialuVal op w (r.src a m l) (r.vreg b.toNat l)) ∧
     gives (.vialus g op w d a m c) (fun l => vialuVal op w (r.src a m l) ((r.sreg c.toNat).setWidth 32)) ∧
     gives (.vaddi g d a i) (fun l => r.vreg a.toNat l + i.signExtend 32) ∧
     gives (.vandi g d a i) (fun l => r.vreg a.toNat l &&& i.signExtend 32) ∧
     gives (.vori g d a i) (fun l => r.vreg a.toNat l ||| i.signExtend 32) ∧
     gives (.vxori g d a i) (fun l => r.vreg a.toNat l ^^^ i.signExtend 32) ∧
     gives (.vshli g d a n) (fun l => r.vreg a.toNat l <<< n.toNat) ∧
     gives (.vshri g d a n) (fun l => r.vreg a.toNat l >>> n.toNat) ∧
     gives (.vsrai g d a n) (fun l => (r.vreg a.toNat l).sshiftRight n.toNat) ∧
     gives (.vli g d i) (fun _ => i.signExtend 32) ∧
     gives (.vsel g p d a m b) (fun l => if (r.preg p.toNat).getLsbD l then r.src a m l else r.vreg b.toNat l) ∧
     gives (.vidx g d c i) (fun l => (r.sreg c.toNat).setWidth 32 + BitVec.ofNat 32 l * i.signExtend 32) ∧
     gives (.vbcast g d c h) (fun _ => (r.sreg c.toNat).extractLsb' (if h then 32 else 0) 32) ∧
     gives (.vmov g d a m) (fun l => r.src a m l)) ∧
  (∀ (s : State) (g : Guard) (d a b : VReg) (m : Amod) (op : MadOp) (w : VW), s.acting g → (s.row s.cur).Fits m →
     (s.row s.cur).Has [d.toNat, a.toNat, b.toNat] →
     let r := s.row s.cur
     WritesV (.vmad g op w d a m b) s s d.toNat
       (r.inActs g (fun l => vmadVal op w (r.vreg d.toNat l) (r.src a m l) (r.vreg b.toNat l))) ∧
     ∀ (x y z : W32) (e : Nat), e < 32 / vwBits w →
       let n := vwBits w
       elemAt n (vmadVal .mad w z x y) e = elemAt n z e + elemAt n x e * elemAt n y e ∧
       vmadVal .dot .w8 z x y = z + BitVec.ofInt 32 ((elemAt 8 x 0).toInt * (elemAt 8 y 0).toInt
         + (elemAt 8 x 1).toInt * (elemAt 8 y 1).toInt + (elemAt 8 x 2).toInt * (elemAt 8 y 2).toInt
         + (elemAt 8 x 3).toInt * (elemAt 8 y 3).toInt)) ∧
  (∀ (op : VOp) (w : VW) (x y : W32) (e : Nat), e < 32 / vwBits w →
     let n := vwBits w
     let p := elemAt n x e
     let q := elemAt n y e
     let z := elemAt n (vialuVal op w x y) e
     let sat (v : Int) : BitVec n := BitVec.ofInt n (max (-(2 ^ (n - 1) : Int)) (min v ((2 ^ (n - 1) : Int) - 1)))
     let satn (v : Int) : BitVec n := BitVec.ofInt n (max 0 (min v ((2 ^ n : Int) - 1)))
     z = match op with
       | .add => p + q
       | .sub => p - q
       | .adds => sat (p.toInt + q.toInt)
       | .addns => satn (p.toNat + q.toNat)
       | .subs => sat (p.toInt - q.toInt)
       | .subns => satn (p.toNat - q.toNat)
       | .and => p &&& q
       | .or => p ||| q
       | .xor => p ^^^ q
       | .andn => p &&& ~~~q
       | .shl => p <<< (q.toNat % n)
       | .shr => p >>> (q.toNat % n)
       | .sra => p.sshiftRight (q.toNat % n)
       | .min => if p.toInt ≤ q.toInt then p else q
       | .max => if p.toInt ≤ q.toInt then q else p
       | .minn => if p.toNat ≤ q.toNat then p else q
       | .maxn => if p.toNat ≤ q.toNat then q else p
       | .mul => p * q
       | .mulh => BitVec.ofInt n (p.toInt * q.toInt / 2 ^ n)
       | .mulhn => BitVec.ofNat n (p.toNat * q.toNat / 2 ^ n)
       | .muls => sat (p.toInt * q.toInt)
       | .abs => sat (|p.toInt|)
       | .clz => BitVec.ofNat n ((List.range n).takeWhile (fun i => !p.getMsbD i)).length
       | .popc => BitVec.ofNat n ((List.range n).countP (fun i => p.getLsbD i))
       | .avgn => BitVec.ofNat n ((p.toNat + q.toNat + 1) / 2))

/-- R59: the lane that a source modifier reads: rotation, butterfly and broadcast within segments of S lanes. R124, R133:
VPERM gathers by index; VRED and VSCAN combine over the acting lanes of a lane's segment. R133: every combine of Table 05-8 is
associative and commutative with its identity, so that the order in which a reduction takes its lanes makes no difference. -/
def Obligations.PermuteAndReduce : Prop :=
  (∀ (r : Row) (a : VReg) (seg : BitVec 4) (dist : BitVec 6) (l : Nat),
     let S := 2 ^ (seg.toNat + 1)
     r.src a .none l = r.vreg a.toNat l ∧
     r.src a (.rot seg dist) l = r.vreg a.toNat (l / S * S + (l % S + dist.toNat) % S) ∧
     r.src a (.bfly seg dist) l = r.vreg a.toNat (l ^^^ 2 ^ dist.toNat) ∧
     r.src a (.bcast seg dist) l = r.vreg a.toNat (l / S * S + dist.toNat)) ∧
  (∀ (s : State) (g : Guard) (d a b : VReg) (m : Amod) (op : RedOp) (k : BitVec 4) (seg : BitVec 6), s.acting g →
     (s.row s.cur).Fits m → (s.row s.cur).Has [d.toNat, a.toNat, b.toNat] → 2 ^ (seg.toNat + 1) ≤ (s.row s.cur).L →
     2 ^ (k.toNat + 1) ≤ (s.row s.cur).L →
     let r := s.row s.cur
     let S := 2 ^ (seg.toNat + 1)
     let K := 2 ^ (k.toNat + 1)
     let lanes (l : Nat) : List Nat := (r.actLanes g).filter (fun j => j / S == l / S)
     let comb (ls : List Nat) : W32 := (ls.map (r.src a m)).foldl (redComb op) (redId op)
     let gives (j : Instr) (f : Nat → W32) : Prop := WritesV j s s d.toNat (r.inActs g f)
     gives (.vperm g d a b false 0) (fun l =>
       if (r.vreg b.toNat l).toNat < r.L then r.vreg a.toNat (r.vreg b.toNat l).toNat else 0) ∧
     gives (.vperm g d a b true k) (fun l => r.vreg a.toNat (l / K * K + (r.vreg b.toNat l).toNat % K)) ∧
     gives (.vred g op d a m seg) (fun l => comb (lanes l)) ∧
     gives (.vscan g op false d a m seg) (fun l => comb ((lanes l).filter (fun j => decide (j ≤ l)))) ∧
     gives (.vscan g op true d a m seg) (fun l => comb ((lanes l).filter (fun j => decide (j < l))))) ∧
  (∀ (op : RedOp) (x y z : W32) (l l' : List W32),
     redComb op x y = redComb op y x ∧ redComb op (redComb op x y) z = redComb op x (redComb op y z) ∧
     redComb op (redId op) x = x ∧
     (l.Perm l' → l.foldl (redComb op) (redId op) = l'.foldl (redComb op) (redId op)))

/-! ### Numbers -/

/-- R125, R126: one rounding: a value comes to the neighbour that the mode gives, ties to even, or beyond the range to infinity or
the largest finite value as the mode sends it, with overflow and inexact; inexact and underflow are set exactly where they are due.
R127 to R130: add, sub, mul, fma, fms, fnma, VFDIV, rcp, rsq and sqrt of finite operands, exp2 of an integer and log2 of a power of
two are the exact value rounded so, once, with the signs of zeros that R126 gives (exp2 and log2 elsewhere: log entry 18, of which
nothing is stated). Every NaN that arithmetic computes is the canonical one, a signalling operand or an invalid operation sets
invalid, and a finite nonzero value over zero sets divide by zero. -/
def Obligations.RoundingOnce : Prop :=
  (∀ (f : FFmt) (mode : Rnd) (neg : Bool) (m : Nat) (e : Int) (x : ℝ), f ∈ [fmt32, fmt16, fmtB16] → 0 < m →
     (FVal.fin neg m e).Is x → f.Rounds mode x (f.round mode neg m e)) ∧
  (∀ (f : FFmt) (r : Rnd) (a b d : Nat) (X Y Z : ℝ), f ∈ [fmt32, fmt16, fmtB16] →
     let x := f.decode a
     let y := f.decode b
     let z := f.decode d
     -- the sign of a sum that is zero
     let zero (p q : Bool) : Bool := if p = q then p else r == .rdn
     x.Is X → y.Is Y → z.Is Z →
     f.Gives r (X + Y) (zero x.neg y.neg) (faluVal f .add r a b) ∧ f.Gives r (X - Y) (zero x.neg (!y.neg)) (faluVal f .sub r a b) ∧
     f.Gives r (X * Y) (x.neg != y.neg) (faluVal f .mul r a b) ∧
     f.Gives r (X * Y + Z) (zero (x.neg != y.neg) z.neg) (fmaVal f .fma r a b d) ∧
     f.Gives r (X * Y - Z) (zero (x.neg != y.neg) (!z.neg)) (fmaVal f .fms r a b d) ∧
     f.Gives r (-(X * Y) + Z) (zero (x.neg == y.neg) z.neg) (fmaVal f .fnma r a b d) ∧
     (Y ≠ 0 → f.Gives r (X / Y) (x.neg != y.neg) (fdivVal f r a b)) ∧
     (X ≠ 0 → f.Rounds r (1 / X) (f.fun_ .rcp r x)) ∧ (0 < X → f.Rounds r (1 / Real.sqrt X) (f.fun_ .rsq r x)) ∧
     (0 ≤ X → f.Gives r (Real.sqrt X) x.neg (f.fun_ .sqrt r x)) ∧
     ∀ k : Int, (X = k → f.Rounds r ((2 : ℝ) ^ k) (f.fun_ .exp2 r x)) ∧
       (X = (2 : ℝ) ^ k → f.Gives r k false (f.fun_ .log2 r x))) ∧
  (∀ (f : FFmt) (r : Rnd) (a b d : Nat), f ∈ [fmt32, fmt16, fmtB16] →
     let x := f.decode a
     let y := f.decode b
     let z := f.decode d
     let canonical (out : Nat × Flags) : Prop := (f.decode out.1).isNan = true → out.1 = f.nanBits ∧ out.2 &&& fNF ≠ 0
     let bad (out : Nat × Flags) : Prop := out.1 = f.nanBits ∧ out.2 = fInvalid ||| fNF
     (∀ op ∈ [FaluOp.add, .sub, .mul, .abs, .neg, .copysign], canonical (faluVal f op r a b)) ∧
     (∀ op : FmaOp, canonical (fmaVal f op r a b d)) ∧ canonical (fdivVal f r a b) ∧
     (∀ op : FunOp, canonical (f.fun_ op r x)) ∧
     (x.isSNan = true ∨ y.isSNan = true → bad (faluVal f .add r a b) ∧ bad (faluVal f .mul r a b) ∧
       bad (fdivVal f r a b) ∧ bad (fmaVal f .fma r a b d)) ∧
     (∀ n, x = .inf n → y = .inf n → bad (faluVal f .sub r a b)) ∧
     (x.isInf = true → y.isZero = true → bad (faluVal f .mul r a b) ∧ (z.isNan = false → bad (fmaVal f .fma r a b d))) ∧
     (x.isZero = true → y.isZero = true → bad (fdivVal f r a b)) ∧
     (x.isInf = true → y.isInf = true → bad (fdivVal f r a b)) ∧
     (x.finite = true → x.isZero = false → y.isZero = true →
       fdivVal f r a b = (f.signed (x.neg != y.neg) f.infBits, fNF ||| fDivzero)) ∧
     (x.finite = true → x.isZero = false → x.neg = true → bad (f.fun_ .sqrt r x) ∧ bad (f.fun_ .rsq r x) ∧
       bad (f.fun_ .log2 r x)))

/-- R126 to R130: a float instruction uses the vector FP datapath, writes vd in each lane that acts, in each of its two values
where the type is paired, and adds the flags of those lanes to csr.fflags. R127: the values of min, max, abs, neg and copysign.
R131: VFCLASS writes a predicate, or traps FP_TRAP with the lowest matching lane; without one it only passes. R132, R134: VFRED
gives each acting lane the tree's result over its segment. -/
def Obligations.FloatResults : Prop :=
  (∀ (s : State) (g : Guard) (d a b : VReg) (m : Amod) (t : FTy) (rd : Rnd) (c : SReg), s.acting g →
     (s.row s.cur).fp.banked = false → (s.row s.cur).Fits m → (s.row s.cur).Has [d.toNat, a.toNat, b.toNat] →
     let r := s.row s.cur
     let F := ftyFmt t
     let gives (j : Instr) (f : Nat → Nat → Nat × Flags) : Prop :=
       let w (l : Nat) : W32 × Flags := perValue t (f l)
       WritesV j s (s.usedFp.now (fun q => q.orFlags ((r.actLanes g).foldl (fun o l => o ||| (w l).2) 0))) d.toNat
         (r.inActs g (fun l => (w l).1))
     let A (l k : Nat) : Nat := fpart t k (r.src a m l)
     let B (l k : Nat) : Nat := fpart t k (r.vreg b.toNat l)
     let D (l k : Nat) : Nat := fpart t k (r.vreg d.toNat l)
     let C (k : Nat) : Nat := fpart t k ((r.sreg c.toNat).setWidth 32)
     (∀ op, gives (.vfalu g op t rd d a m b) (fun l k => faluVal F op rd (A l k) (B l k))) ∧
     (∀ op, gives (.vfma g op t rd d a m b) (fun l k => fmaVal F op rd (A l k) (B l k) (D l k))) ∧
     (∀ op, gives (.vfmas g op t rd d a m c) (fun l k => fmaVal F op rd (A l k) (C k) (D l k))) ∧
     (∀ op, gives (.vfun g op t rd d a m) (fun l k => F.fun_ op rd (F.decode (A l k)))) ∧
     gives (.vfdiv g t rd d a m b) (fun l k => fdivVal F rd (A l k) (B l k))) ∧
  (∀ (f : FFmt) (r : Rnd) (a b : Nat), f ∈ [fmt32, fmt16, fmtB16] → a < 2 * f.signBit → b < 2 * f.signBit →
     let x := f.decode a
     let y := f.decode b
     let val (op : FaluOp) : FVal := f.decode (faluVal f op r a b).1
     let withSign (n : Bool) (v : FVal) : FVal := match v with | .fin _ m e => .fin n m e | .inf _ => .inf n | v => v
     let quiet (op : FaluOp) : Prop := (faluVal f op r a b).1 = f.nanBits
     let nf : Flags := if x.finite = true ∧ y.finite = true then 0 else fNF
     (x.isNan = false → val .abs = withSign false x ∧ val .neg = withSign (!x.neg) x ∧
       val .copysign = withSign (decide (f.signBit ≤ b)) x) ∧
     (x.isNan = true → quiet .abs ∧ quiet .neg ∧ quiet .copysign) ∧
     (∀ op ∈ [FaluOp.abs, .neg], (faluVal f op r a b).2 = if x.finite then 0 else fNF) ∧ (faluVal f .copysign r a b).2 = nf ∧
     (∀ op ∈ [FaluOp.min, .max], (faluVal f op r a b).2 = (if x.isSNan || y.isSNan then fInvalid else 0) ||| nf) ∧
     (∀ op ∈ [FaluOp.min, .max], (x.isNan = true → y.isNan = true → quiet op) ∧
       (x.isNan = true → y.isNan = false → (faluVal f op r a b).1 = b) ∧
       (x.isNan = false → y.isNan = true → (faluVal f op r a b).1 = a)) ∧
     (x.isNan = false → y.isNan = false → x = .inf true ∨ y = .inf false → val .min = x ∧ val .max = y) ∧
     (x.isNan = false → y.isNan = false → x = .inf false ∨ y = .inf true → val .min = y ∧ val .max = x) ∧
     ∀ X Y : ℝ, x.Is X → y.Is Y → (X < Y ∨ (X = Y ∧ x.neg = true) → val .min = x ∧ val .max = y) ∧
       (Y < X ∨ (X = Y ∧ y.neg = true) → val .min = y ∧ val .max = x) ∧
       (X = Y → x.neg = false → y.neg = false → val .min = x ∧ val .max = x)) ∧
  (∀ (s : State) (g : Guard) (t : FTy) (h : Half) (d : PReg) (a : VReg) (m : Amod) (b : SReg) (j : Nat), s.acting g →
     (s.row s.cur).fp.banked = false → (s.row s.cur).Fits m → (s.row s.cur).Has [a.toNat] → (s.row s.cur).L ≤ 1024 →
     let r := s.row s.cur
     let hit (l : Nat) : Bool := classMatch t h (r.src a m l) (r.sreg b.toNat)
     WritesP (.vfclass g t h d a m b) s s.usedFp
       (fun k l => if k = d.toNat ∧ d ≠ 0 ∧ r.acts g l = true then some (hit l) else none) ∧
     (j ∈ r.actLanes g → hit j = true → (∀ k ∈ r.actLanes g, k < j → hit k = false) →
       exec (.vfclassTrap g t h a m b) s = .next (s.draw.usedFp.trapHere s.cur cFpTrap (BitVec.ofNat 64 j))) ∧
     ((∀ k ∈ r.actLanes g, hit k = false) → Completes (.vfclassTrap g t h a m b) s s.usedFp)) ∧
  (∀ (s : State) (g : Guard) (op : FredOp) (t : FTy) (rd : Rnd) (d a : VReg) (m : Amod) (seg : BitVec 6), s.acting g →
     (s.row s.cur).fp.banked = false → (s.row s.cur).Fits m → (s.row s.cur).Has [d.toNat, a.toNat] →
     2 ^ (seg.toNat + 1) ∣ (s.row s.cur).L →
     let r := s.row s.cur
     let S := 2 ^ (seg.toNat + 1)
     let tree (k : Nat) : Nat × Flags := fredSeg r g op t rd a m seg.toNat (k * S)
     let ks := (List.range (r.L / S)).filter (fun k => (r.actLanes g).any (fun l => l / S == k))
     WritesV (.vfred g op t rd d a m seg) s (s.usedFp.now (fun q => q.orFlags (ks.foldl (fun o k => o ||| (tree k).2) 0)))
       d.toNat (r.inActs g (fun l => BitVec.ofNat 32 (tree (l / S)).1)))

/-- R143 to R145, R151: VCVT, VFLI and VDQNT, with the flags of the lanes that act; a VDQNT element sets overflow and inexact
where it gives an infinity, invalid and NF where e is 255, and nothing elsewhere. R142, R144: an integer converted to an integer
type, and a float to an integer type, saturate with invalid; what is in range goes through unchanged. -/
def Obligations.ConversionResults : Prop :=
  (∀ (s : State) (g : Guard) (d a : VReg) (m : Amod) (b : SReg) (st dt : CTy) (rd : Rnd) (sgn : Bool) (ed es j form : BitVec 2)
     (h : BitVec 16), s.acting g → (s.row s.cur).fp.banked = false → (s.row s.cur).Fits m →
     (s.row s.cur).Has [d.toNat, a.toNat] →
     let r := s.row s.cur
     let gives (i : Instr) (w : Nat → W32 × Flags) : Prop :=
       WritesV i s (s.usedFp.now (fun q => q.orFlags ((r.actLanes g).foldl (fun o l => o ||| (w l).2) 0))) d.toNat
         (r.inActs g (fun l => (w l).1))
     gives (.vcvt g st dt rd sgn ed es d a m)
       (fun l => cvtLane st dt rd sgn ed.toNat es.toNat (r.vreg d.toNat l) (r.src a m l)) ∧
     gives (.vfli g form h d) (fun _ => (vfliVal form h, 0)) ∧
     (256 ≤ r.L → gives (.vdqnt g j sgn d a b) (fun l =>
       let w := r.vreg a.toNat (l / 256 * 256 + 64 * j.toNat + l % 256 / 4)
       let y := dqntVal sgn (scaleByte (r.sreg b.toNat) (l / 256)) (elemAt 8 w (l % 4)).toNat
       (BitVec.ofNat 32 y.1, y.2)))) ∧
  (∀ (w : Nat) (sgn : Bool) (x : Int) (mode : Rnd) (n : Bool), 0 < w →
     let lo : Int := if sgn then -(2 ^ (w - 1) : Int) else 0
     let hi : Int := if sgn then (2 ^ (w - 1) : Int) - 1 else (2 ^ w : Int) - 1
     (lo ≤ x → x ≤ hi → satRange w sgn x false = (x, 0) ∧ intOf w sgn (bitsOf w x) = x ∧
       floatToRange w sgn mode (.fin (decide (x < 0)) x.natAbs 0) = (x, 0)) ∧
     (x < lo → satRange w sgn x false = (lo, fInvalid)) ∧ (hi < x → satRange w sgn x false = (hi, fInvalid)) ∧
     floatToRange w sgn mode (.inf n) = (if n then lo else hi, fInvalid ||| fNF) ∧
     floatToRange w sgn mode (.nan n) = (0, fInvalid ||| fNF)) ∧
  (∀ (sgn : Bool) (e b : Nat), e < 256 → b < 256 →
     let out := dqntVal sgn e b
     let q : Int := intOf 8 sgn b
     (e = 255 → out = (fmt32.nanBits, fInvalid ||| fNF)) ∧
     (e < 255 → (∀ x : ℝ, x = (q : ℝ) * (2 : ℝ) ^ ((e : Int) - 127) → |x| < (2 : ℝ) ^ (128 : Int) → (fmt32.decode out.1).Is x ∧ out.2 = 0) ∧
       (248 ≤ e → 2 ^ (255 - e) ≤ q.natAbs → out = (fmt32.signed (decide (q < 0)) fmt32.infBits, fOverflow ||| fInexact))))

/-- R146 to R148, R152: VSRND and VREQ.sto advance csr.rng once in each lane that acts, ascending, and each of these lanes
rounds with the state that its own advance leaves. R147: stochastic rounding keeps a value that is exact, and otherwise takes
one of its two neighbours; it takes the upper one for exactly as many of the 2^k random values as the kept fraction bits say.
R149, R150, R152: VQNT, VBMAX and VREQ without random bits. R149: the scale is the least at which every value of the segment
fits the elements. R141, R153: VPLN and VUPLN act on the groups of 64 lanes whose first lane acts, and VUPLN gives back what
VPLN packed; VPLN adds the invalid of the bytes that lie in lanes that act (R142). -/
def Obligations.BlockFormats : Prop :=
  (∀ (s : State) (g : Guard) (d a b : VReg) (m : Amod) (bf sgn : Bool) (k : BitVec 4) (w : BitVec 3), s.acting g →
     (s.row s.cur).fp.banked = false → (s.row s.cur).Fits m → (s.row s.cur).Has [d.toNat, a.toNat, b.toNat] →
     let r := s.row s.cur
     let n := k.toNat + 1
     let state (l : Nat) : W64 := Nat.repeat rngNext ((List.range (l + 1)).countP (r.acts g)) r.csr.rng
     let F := if bf then fmtB16 else fmt16
     let gives (i : Instr) (out : Nat → W32 × Flags) : Prop :=
       WritesV i s (s.usedFp.now (fun q => ({ q with
           csr := { q.csr with rng := Nat.repeat rngNext (r.actLanes g).length r.csr.rng } } : Row).orFlags
             ((r.actLanes g).foldl (fun o l => o ||| (out l).2) 0))) d.toNat (r.inActs g (fun l => (out l).1))
     gives (.vsrnd g bf k d a m b) (fun l =>
       let lo := srndVal F n (rngField (state l) 64 n) (r.src a m l).toNat
       let hi := srndVal F n (rngField (state l) 48 n) (r.vreg b.toNat l).toNat
       (BitVec.ofNat 16 hi.1 ++ BitVec.ofNat 16 lo.1, lo.2 ||| hi.2)) ∧
     (64 ≤ r.L → gives (.vreq g true k sgn w d a b) (fun l =>
       reqLane (w.toNat + 1) sgn (r.vreg b.toNat (l / 64 * 64)) (r.vreg a.toNat l)
         (fun c _ m e => stoInt m e 0 n (rngField (state l) (64 - 16 * c) n))))) ∧
  (∀ (m : Nat) (e u : Int) (k r : Nat), r < 2 ^ k →
     let d := (u - e).toNat
     (u ≤ e → stoInt m e u k r = m * 2 ^ (e - u).toNat) ∧
     (e < u → (stoInt m e u k r = m / 2 ^ d ∨ stoInt m e u k r = m / 2 ^ d + 1)) ∧
     (e < u → m % 2 ^ d = 0 → stoInt m e u k r = m / 2 ^ d) ∧
     (e < u → k ≤ d → (List.range (2 ^ k)).countP (fun x => decide (stoInt m e u k x = m / 2 ^ d + 1))
       = m % 2 ^ d / 2 ^ (d - k))) ∧
  (∀ (s : State) (g : Guard) (d a b : VReg) (m : Amod) (sd sb : SReg) (j : BitVec 2) (rd : Rnd) (sgn : Bool) (k : BitVec 4)
     (w : BitVec 3), s.acting g → (s.row s.cur).fp.banked = false → (s.row s.cur).Fits m →
     (s.row s.cur).Has [d.toNat, a.toNat, b.toNat] → 256 ∣ (s.row s.cur).L → (s.row s.cur).L ≤ 1024 →
     let r := s.row s.cur
     let flagged (u : State) (ls : List Nat) (f : Nat → Flags) : State :=
       u.now (fun q => q.orFlags (ls.foldl (fun o l => o ||| f l) 0))
     let q (l : Nat) : Int × Flags := qntVal (w.toNat + 1) sgn rd (scaleByte (r.sreg sb.toNat) (l / 256)) (r.src a m l).toNat
     let seg (k : Nat) : Nat × Bool := bmaxVal (w.toNat + 1) sgn (((r.actLanes g).filter (fun l => l / 256 == k)).map
       (fun l => fmt32.decode (r.src a m l).toNat))
     let re (l : Nat) : W32 × Flags := reqLane (w.toNat + 1) sgn (r.vreg b.toNat (l / 64 * 64)) (r.vreg a.toNat l)
       (fun _ neg m e => (roundAt .rne neg m e 0 false).1)
     WritesV (.vqnt g j rd sgn w d a m sb) s (flagged s.usedFp (r.actLanes g) (fun l => (q l).2)) d.toNat
       (fun t => if t % 256 / 64 = j.toNat then some (patchBytes (r.vreg d.toNat t) (fun c =>
           let l := t / 256 * 256 + 4 * (t % 64) + c
           if r.acts g l then some (bitsOf 8 (q l).1) else none))
         else none) ∧
     WritesV (.vreq g false k sgn w d a b) s (flagged s.usedFp (r.actLanes g) (fun l => (re l).2)) d.toNat
       (r.inActs g (fun l => (re l).1)) ∧
     (∃ x : W64, (∀ n, n < r.L / 256 → scaleByte x n = (seg n).1) ∧ (∀ n, r.L / 256 ≤ n → n < 8 → scaleByte x n = 0) ∧
       Completes (.vbmax g sgn w sd a m) s (s.usedFp.now (fun q =>
         (q.setS sd.toNat x).orFlags (if ∃ n < r.L / 256, (seg n).2 = true then fNF else 0))))) ∧
  (∀ (w : Nat) (sgn : Bool) (xs : List FVal) (e : Nat), bmaxVal w sgn xs = (e, false) →
     let fits (k : Nat) : Prop := ∀ (n : Bool) (m : Nat) (x : Int), FVal.fin n m x ∈ xs → (n && !sgn) = false →
       scaledLe m (x + 127 - (k : Int)) (2 ^ (if sgn then w - 1 else w) - 1) = true
     (∀ x ∈ xs, x.finite = true) ∧ e ≤ 254 ∧ (e < 254 → fits e) ∧ ∀ k, k < e → ¬ fits k) ∧
  (∀ (s : State) (g : Guard) (sgn : Bool) (w : BitVec 3) (d a : VReg), s.acting g → (s.row s.cur).fp.banked = false →
     (s.row s.cur).Has [d.toNat, a.toNat] → 64 ∣ (s.row s.cur).L →
     let r := s.row s.cur
     let W := w.toNat + 1
     let fl := (groupsOf r g).foldl (fun o n => ((List.range 256).filter (fun i => r.acts g (64 * n + i / 4))).foldl
       (fun o i => o ||| (plnElem r W sgn a n i).2) o) 0
     WritesV (.vpln g sgn w d a) s (s.usedFp.now (fun q => q.orFlags fl)) d.toNat
       (fun l => if r.acts g (l / 64 * 64) then some (plnLane r W sgn a (l / 64) (l % 64)) else none) ∧
     WritesV (.vupln g sgn w d a) s s.usedFp d.toNat
       (fun l => if r.acts g (l / 64 * 64) then
           some (patchBytes 0 (fun b => some (uplnElem r W sgn a (l / 64) (4 * (l % 64) + b)))) else none) ∧
     ∀ (r' : Row) (n i : Nat), i < 256 → (∀ k, k < 64 → r'.vreg d.toNat (64 * n + k) = plnLane r W sgn a n k) →
       uplnElem r' W sgn d n i = bitsOf 8 (plnElem r W sgn a n i).1)

/-! ### Predicates and control flow -/

/-- R74 to R79: the scalar compares, predicate logic and moves, and PLIVE. R82, R83: EMSET narrows and widens the execute
mask, moving lanes to and from the held mask; EMGET reads the masks. R100: the BAR that becomes due, where EMSET holds the last
lane that was not parked at it, is what Resume goes on with. -/
def Obligations.ScalarPredicates : Prop :=
  (∀ (s : State) (g : Guard) (pt pf d a b : PReg) (x y sd : SReg) (c : Cond) (ty : BitVec 2) (k : Cmb) (fn : BitVec 4)
     (w : BitVec 6) (mask : BitVec 8), s.ready g →
     let r := s.row s.cur
     let p := combine k (sicond c ty (r.sreg x.toNat) (r.sreg y.toNat)) (r.qreg pt.toNat) (r.qreg pf.toNat)
     Completes (.sicmp g pt pf x y c ty k) s (s.now (fun r => (r.setQ pt.toNat p.1).setQ pf.toNat p.2)) ∧
     Completes (.plop g true fn d a b) s (s.now (fun r =>
       r.setQ d.toNat (fn.getLsbD (2 * (r.qreg a.toNat).toNat + (r.qreg b.toNat).toNat)))) ∧
     Completes (.pmov g (.qs d x)) s (s.now (fun r => r.setQ d.toNat (decide (r.sreg x.toNat ≠ 0)))) ∧
     Completes (.pmov g (.sq sd a)) s (s.now (fun r => r.setS sd.toNat (if r.qreg a.toNat then 1 else 0))) ∧
     Completes (.pmov g (.qq d a)) s (s.now (fun r => r.setQ d.toNat (r.qreg a.toNat))) ∧
     (64 * w.toNat < r.L → ∃ v : W64, (∀ i, i < 64 → v.getLsbD i = (r.preg a.toNat).getLsbD (64 * w.toNat + i)) ∧
       Completes (.pmov g (.get sd a w)) s (s.now (fun r => r.setS sd.toNat v))) ∧
     (64 * w.toNat < r.L → WritesP (.pmov g (.set d x w)) s s (fun n l =>
       if n = d.toNat ∧ d ≠ 0 ∧ l / 64 = w.toNat then some ((r.sreg x.toNat).getLsbD (l % 64)) else none)) ∧
     (r.L ≤ 64 * w.toNat → Raises (.pmov g (.get sd a w)) s cIllEnc r.curWord ∧
       Raises (.pmov g (.set d x w)) s cIllEnc r.curWord) ∧
     Completes (.pmov g (.any d a)) s (s.now (fun r => r.setQ d.toNat
       ((List.range 1024).any (fun l => r.arm.em.getLsbD l && (r.preg a.toNat).getLsbD l)))) ∧
     Completes (.pmov g (.all d a)) s (s.now (fun r => r.setQ d.toNat
       ((List.range 1024).all (fun l => !r.arm.em.getLsbD l || (r.preg a.toNat).getLsbD l)))) ∧
     Completes (.plive g mask) s (s.now (fun r => { r with csr := { r.csr with plive := mask ||| 1 } }))) ∧
  (∀ (s : State) (g : Guard) (a d : PReg) (sel : EmSel), (s.row s.cur).Quiet → (s.row s.cur).L ≤ 1024 →
     let r := s.row s.cur
     let sets (i : Instr) (f : Nat → Bool × Bool) : Prop :=
       ∃ em held : Mask, Completes i s (s.now (fun r => { r with arm := { r.arm with em := em, held := held } })) ∧
         ∀ l, l < r.L → (em.getLsbD l, held.getLsbD l) = f l
     let E (l : Nat) : Bool := r.arm.em.getLsbD l
     let H (l : Nat) : Bool := r.arm.held.getLsbD l
     let G (l : Nat) : Bool := r.guardL g l
     let P (l : Nat) : Bool := (r.preg a.toNat).getLsbD l
     (r.handler = false → r.anyActs g = true → ∃ em held : Mask,
       (∀ l, l < r.L → (em.getLsbD l, held.getLsbD l) = if E l && G l && !P l then (false, true) else (E l, H l)) ∧
       let q : Row := { r with arm := { r.arm with em := em, held := held } }
       (r.barParked = 0 ∨ q.barDue = false → Completes (.emset g a) s (s.now (fun _ => q))) ∧
       (q.barDue = true → Resumes (.emset g a) s q)) ∧
     (r.handler = false → (∃ l, l < r.L ∧ G l = true) →
       sets (.emsetAll g) (fun l => if H l && G l then (true, false) else (E l, H l))) ∧
     WritesP (.emget g d sel) s s (fun n l =>
       if n = d.toNat ∧ d ≠ 0 ∧ G l = true then
         some (match sel with | .em => E l | .live => !r.exited.getLsbD l | .held => H l)
       else none))

/-- R74 to R78: the compares and the lane forms write predicates in the lanes that act, from the values before. R75, R76:
VFCMP, with the flags of the lanes that act. R75: a pair of complementary bits stays complementary under every combine; the
conditions come in opposite pairs. -/
def Obligations.LanePredicates : Prop :=
  (∀ (s : State) (g : Guard) (pt pf d a b : PReg) (v : VReg) (m : Amod) (vb : BitVec 6) (sb : Bool) (c : Cond)
     (ty : BitVec 2) (k : Cmb) (fn : BitVec 4), s.acting g → (s.row s.cur).Fits m → (s.row s.cur).L ≤ 1024 →
     (s.row s.cur).Has (if sb then [v.toNat] else [v.toNat, vb.toNat]) →
     let r := s.row s.cur
     let B (l : Nat) : W32 := if sb then (r.sreg vb.toNat).setWidth 32 else r.vreg vb.toNat l
     let pair (f : Nat → Bool) (n l : Nat) : Option Bool :=
       let p := combine k (f l) ((r.preg pt.toNat).getLsbD l) ((r.preg pf.toNat).getLsbD l)
       if r.acts g l = false ∨ n = 0 then none
       else if n = pf.toNat then some p.2 else if n = pt.toNat then some p.1 else none
     let one (f : Nat → Bool) (n l : Nat) : Option Bool :=
       if r.acts g l = true ∧ n = d.toNat ∧ n ≠ 0 then some (f l) else none
     WritesP (.vicmp g pt pf v m vb sb c ty k) s s (pair (fun l => vicond c ty (r.src v m l) (B l))) ∧
     WritesP (.plop g false fn d a b) s s
       (one (fun l => fn.getLsbD (2 * ((r.preg a.toNat).getLsbD l).toNat + ((r.preg b.toNat).getLsbD l).toNat))) ∧
     WritesP (.pmov g (.pv d v m)) s s (one (fun l => decide (r.src v m l ≠ 0))) ∧
     WritesP (.pmov g (.pp d a m)) s s (one (fun l => r.srcP a m l)) ∧
     WritesV (.pmov g (.vp v a m)) s s v.toNat (r.inActs g (fun l => if r.srcP a m l then 1 else 0))) ∧
  (∀ (s : State) (g : Guard) (pt pf : PReg) (a : VReg) (m : Amod) (b : BitVec 6) (sb : Bool) (c : Cond) (ty : FTy)
     (k : Cmb), s.acting g → (s.row s.cur).Fits m → (s.row s.cur).L ≤ 1024 → (s.row s.cur).fp.banked = false →
     (s.row s.cur).Has (if sb then [a.toNat] else [a.toNat, b.toNat]) →
     let r := s.row s.cur
     let val (x : W32) : FVal := (ftyFmt ty).decode (fpart ty 0 x)
     let x (l : Nat) : FVal := val (r.src a m l)
     let y (l : Nat) : FVal := val (if sb then (r.sreg b.toNat).setWidth 32 else r.vreg b.toNat l)
     WritesP (.vfcmp g pt pf a m b sb c ty k) s
       (s.usedFp.now (fun q => q.orFlags ((r.actLanes g).foldl (fun o l => o ||| condFlags c (x l) (y l)) 0)))
       (fun n l =>
         let p := combine k (condFp c (x l) (y l)) ((r.preg pt.toNat).getLsbD l) ((r.preg pf.toNat).getLsbD l)
         if r.acts g l = false ∨ n = 0 then none
         else if n = pf.toNat then some p.2 else if n = pt.toNat then some p.1 else none)) ∧
  ((∀ (k : Cmb) (c t : Bool), (combine k c t (!t)).2 = !(combine k c t (!t)).1) ∧
   (∀ (w : Nat) (sgn : Bool) (x y : BitVec w),
     condInt .ne sgn x y = !condInt .eq sgn x y ∧ condInt .ge sgn x y = !condInt .lt sgn x y ∧
     condInt .le sgn x y = !condInt .gt sgn x y ∧ condInt .c7 sgn x y = !condInt .c6 sgn x y ∧
     condInt .gt sgn x y = condInt .lt sgn y x ∧
     (condInt .lt sgn x y = true ↔ if sgn then x.toInt < y.toInt else x.toNat < y.toNat)) ∧
   ∀ (x y : FVal), condFp .ne x y = !condFp .eq x y ∧ condFp .c7 x y = !condFp .c6 x y ∧
     condFp .gt x y = condFp .lt y x ∧
     (x.isNan = true → condFp .eq x y = false ∧ condFp .lt x y = false ∧ condFp .le x y = false ∧
       condFp .gt x y = false ∧ condFp .ge x y = false ∧ condFp .ne x y = true) ∧
     (x.isNan = false → y.isNan = false → condFp .ge x y = !condFp .lt x y ∧ condFp .le x y = !condFp .gt x y))

/-- R88, R94: BR and JMPR, and R90's JOIN where the arm has no token: the arm goes on at the target or at the next word. R91,
R93, R94, R84: LOOPS, CALL, JMPR.call and RET, and the overflow of the token stack. The model's choice (log entry 16): a
misaligned target's csr.tval is s[a][55:0], and JMPR.call reports it before an overflow. -/
def Obligations.Branches : Prop :=
  (∀ (s : State) (g : Guard) (c : BrCond) (p : PReg) (off : BitVec 33) (a : SReg), s.ready g →
     let r := s.row s.cur
     let lane (l : Nat) : Prop := l < 1024 ∧ r.arm.em.getLsbD l = true
     let set (l : Nat) : Prop := (r.preg p.toNat).getLsbD l = true
     let taken : Prop := match c with
       | .always => True
       | .any => ∃ l, lane l ∧ set l
       | .all => ∀ l, lane l → set l
       | .none => ∀ l, lane l → ¬ set l
     let x : Va := r.arm.clause.hdr + 8 * off.signExtend 56
     let t : Va := (r.sreg a.toNat).extractLsb' 0 56
     (taken → JumpsTo (.br g c p off) s s x) ∧ (¬ taken → Completes (.br g c p off) s s) ∧
     (t.toNat % 8 = 0 → JumpsTo (.jmpr g a) s s t) ∧
     (t.toNat % 8 ≠ 0 → Raises (.jmpr g a) s cMisalign (t.setWidth 64)) ∧
     (r.handler = false → r.arm.toks = [] → r.armsTok = none → JumpsTo (.join g off) s s x)) ∧
  (∀ (s : State) (g : Guard) (off : BitVec 33) (a : SReg) (p : Va) (rest : List Token) (w k : Mask) (b : Va) (n : Nat),
     s.ready g → (s.row s.cur).handler = false →
     let r := s.row s.cur
     let push (t : Token) : State :=
       s.now (fun r => { r with arm := { r.arm with toks := t :: r.arm.toks }, tokSerial := r.tokSerial + 1 })
     let call := push ⟨.call, some (r.arm.pc + 8), 0, 0, 0, r.tokSerial⟩
     let x : Va := r.arm.clause.hdr + 8 * off.signExtend 56
     let t : Va := (r.sreg a.toNat).extractLsb' 0 56
     let room : Prop := r.tokTotal < 32
     let full (i : Instr) : Prop := if r.barParked = 0 then Raises i s cTokenOverflow 0
       else Raises i s cBarDiverge (r.arm.pc.setWidth 64)
     (room → JumpsTo (.call g off) s call x ∧ (t.toNat % 8 = 0 → JumpsTo (.jmprCall g a) s call t) ∧
       Completes (.loops g off) s (push ⟨.loop, some x, r.arm.clause.last + 8, 0, 0, r.tokSerial⟩)) ∧
     (¬ room → full (.call g off) ∧ full (.loops g off) ∧ (t.toNat % 8 = 0 → full (.jmprCall g a))) ∧
     (t.toNat % 8 ≠ 0 → Raises (.jmprCall g a) s cMisalign (t.setWidth 64)) ∧
     (r.arm.toks = ⟨.call, some p, b, w, k, n⟩ :: rest → r.region = none →
       JumpsTo (.ret g) s (s.now (fun r => { r with arm := { r.arm with toks := rest } })) p) ∧
     ((∀ u ∈ r.arm.toks.head?, u.kind ≠ .call) → r.region = none →
       Raises (.ret g) s cBarDiverge (r.arm.pc.setWidth 64)))

/-- R87, R89: the four cases of BRV. R90: JOIN parks the arm's lanes in the innermost SPLIT or ARMS token, fixing the
reconvergence pc, and Resume runs; a second address, or a LOOP or CALL token, is BAR_DIVERGE. -/
def Obligations.DivergentBranch : Prop :=
  (∀ (s : State) (g : Guard) (p : PReg) (neg : Bool) (off : BitVec 33) (M F : Mask), s.acting g →
     (s.row s.cur).handler = false → (s.row s.cur).region = none → (s.row s.cur).L ≤ 1024 →
     let r := s.row s.cur
     (∀ l, l < 1024 → M.getLsbD l = (decide (l < r.L) && r.acts g l && ((r.preg p.toNat).getLsbD l != neg))) →
     (∀ l, l < 1024 → F.getLsbD l = (r.arm.em.getLsbD l && !M.getLsbD l)) →
     let i := Instr.brv g p neg off
     let x : Va := r.arm.clause.hdr + 8 * off.signExtend 56
     let u := s.now (fun r => { r with
       arm := { r.arm with em := M, held := 0 }, other := some { r.arm with em := F }, armId := .t
       armsTok := some ⟨none, 0, 0, r.tokSerial⟩, tokSerial := r.tokSerial + 1 })
     (M = 0 → Completes i s s) ∧
     (M ≠ 0 → F = 0 → JumpsTo i s s x) ∧
     (M ≠ 0 → F ≠ 0 → r.arm.toks = [] → r.armsTok = none → ∃ t, exec i s = .next t ∧ Acted u t ∧
       (t.row s.cur).armOf .t = some (({ r.arm with em := M, held := 0 } : Arm).goto x) ∧
       (t.row s.cur).armOf .f = some (({ r.arm with em := F } : Arm).goto (r.arm.pc + 8)) ∧ (t.row s.cur).armId = .t) ∧
     (M ≠ 0 → F ≠ 0 → r.tokdepth ≠ 0 → r.tokTotal < 32 →
       JumpsTo i s (s.now (fun r => { r with
         arm := { r.arm with em := M, toks := ⟨.split, none, r.arm.pc + 8, F, 0, r.tokSerial⟩ :: r.arm.toks }
         tokSerial := r.tokSerial + 1 })) x) ∧
     (M ≠ 0 → F ≠ 0 → r.tokdepth ≠ 0 → 32 ≤ r.tokTotal → r.barParked = 0 → Raises i s cTokenOverflow 0)) ∧
  (∀ (s : State) (g : Guard) (off : BitVec 33) (t : Token) (rest : List Token) (k : ArmsTok), s.ready g →
     (s.row s.cur).handler = false → (s.row s.cur).region = none →
     let r := s.row s.cur
     let i := Instr.join g off
     let x : Va := r.arm.clause.hdr + 8 * off.signExtend 56
     let diverge : Prop := Raises i s cBarDiverge (r.arm.pc.setWidth 64)
     (r.arm.toks = t :: rest → t.kind = .split → (∀ y ∈ t.pca, y = x) →
       Resumes i s { r with arm := { r.arm with
         em := 0, toks := { t with pca := some x, park := t.park ||| r.arm.em } :: rest } }) ∧
     (r.arm.toks = t :: rest → t.kind = .split → (∃ y ∈ t.pca, y ≠ x) → diverge) ∧
     (r.arm.toks = t :: rest → t.kind ≠ .split → diverge) ∧
     (r.arm.toks = [] → r.armsTok = some k → (∀ y ∈ k.pca, y = x) →
       Resumes i s { r with
         arm := { r.arm with em := 0, st := .joinPark }
         armsTok := some { k with
           pca := some x
           parkT := if r.armId = .f then k.parkT else k.parkT ||| r.arm.em
           parkF := if r.armId = .f then k.parkF ||| r.arm.em else k.parkF } }) ∧
     (r.arm.toks = [] → r.armsTok = some k → (∃ y ∈ k.pca, y ≠ x) → diverge))

/-- Outside a handler, R86: Resume takes the innermost token's waiting lanes, else its parked lanes, else drops it and looks
further out, and ends the arm at the ARMS token; no lane is parked at a BAR. R92: BRK and CONT move lanes from the execute mask
to the innermost LOOP token, where no CALL token lies above it. R99: in a handler Resume never goes to the other arm. R33, R34,
R95, R96: the lanes in which LEXIT acts exit and leave every mask and token; the row retires with its last lane, and with EXIT
whatever it holds. -/
def Obligations.ResumeProcedure : Prop :=
  (∀ (r q : Row) (m : Bool), r.handler = true → r.resume = some (q, m) → q.armId = r.armId) ∧
  (∀ (r : Row) (t : Token) (rest : List Token) (k : ArmsTok) (o : Arm), r.barParked = 0 → r.handler = false →
     let top : Prop := r.arm.toks = t :: rest
     let inner : Prop := r.arm.toks = [] ∧ r.armsTok = some k ∧ r.other = some o
     let dropped : Row := { r with arm := { r.arm with toks := rest } }
     (top → t.kind ≠ .call → t.wait ≠ 0 →
       r.resume = some ({ r with arm := { r.arm with em := t.wait, toks := { t with wait := 0 } :: rest }.goto t.pcb }, true)) ∧
     (top → t.kind ≠ .call → t.wait = 0 → t.park ≠ 0 → ∀ x, t.pca = some x →
       r.resume = some ({ r with arm := { r.arm with em := t.park, toks := rest }.goto x }, true)) ∧
     (top → t.kind ≠ .call → t.wait = 0 → t.park = 0 → r.resume = dropped.resume) ∧
     (top → t.kind = .call → ∀ x, t.pca = some x →
       r.resume = ({ dropped with arm := dropped.arm.goto x }).resume.map (fun (y : Row × Bool) => (y.1, true))) ∧
     (r.arm.toks = [] → r.armsTok = none → r.resume = some (r, false)) ∧
     (inner → o.st = .running → r.resume = some (({ r with
       arm := { r.arm with st := if r.arm.st = ArmSt.joinPark then ArmSt.joinPark else ArmSt.finished } }).switch, true)) ∧
     (inner → o.st = .finished ∨ o.st = .joinPark → ∀ x, k.pca = some x → ∃ q : Row, r.resume = some (q, true) ∧
       q.arm.em = k.parkT ||| k.parkF ∧ q.arm.held = r.arm.held ||| o.held ∧ q.arm.flags = r.arm.flags ||| o.flags ∧
       q.arm.pc = x ∧ q.arm.toks = [] ∧ q.arm.st = .running ∧ q.other = none ∧ q.armsTok = none ∧ q.armId = .single)) ∧
  (∀ (s : State) (g : Guard) (p : PReg) (neg : Bool) (M : Mask) (t : Token) (inner rest : List Token), s.acting g →
     (s.row s.cur).handler = false → (s.row s.cur).region = none → (s.row s.cur).L ≤ 1024 →
     let r := s.row s.cur
     (∀ l, l < 1024 → M.getLsbD l = (decide (l < r.L) && r.acts g l && ((r.preg p.toNat).getLsbD l != neg))) →
     let em := r.arm.em &&& ~~~M
     let left (t : Token) : Row := { r with arm := { r.arm with em := em, toks := inner ++ t :: rest } }
     let goes (i : Instr) (t : Token) : Prop :=
       if em = 0 then Resumes i s (left t) else Completes i s (s.now (fun _ => left t))
     let diverge (i : Instr) : Prop := Raises i s cBarDiverge (r.arm.pc.setWidth 64)
     (M = 0 → Completes (.brk g p neg) s s ∧ Completes (.cont g p neg) s s) ∧
     (M ≠ 0 → r.arm.toks = inner ++ t :: rest → t.kind = .loop → (∀ u ∈ inner, u.kind = .split) →
       goes (.brk g p neg) { t with park := t.park ||| M } ∧ goes (.cont g p neg) { t with wait := t.wait ||| M }) ∧
     (M ≠ 0 → (∀ u ∈ r.arm.toks, u.kind ≠ .loop) → diverge (.brk g p neg) ∧ diverge (.cont g p neg)) ∧
     (M ≠ 0 → r.arm.toks = inner ++ t :: rest → t.kind = .call → (∀ u ∈ inner, u.kind = .split) →
       diverge (.brk g p neg) ∧ diverge (.cont g p neg))) ∧
  (∀ (s : State) (g : Guard) (M : Mask), (s.row s.cur).Quiet → (s.row s.cur).L ≤ 1024 → (s.row s.cur).region = none →
     let r := s.row s.cur
     (∀ l, l < 1024 → M.getLsbD l = (decide (l < r.L) && r.acts g l)) →
     let q := r.exitLanes M
     (r.guardQ g = true → ∃ q' : Row, Completes (.exit g) s (s.now (fun _ => q')) ∧ q'.life = .retiring ∧
       q'.exited = r.exited ||| laneMask r.L ∧ q'.live = 0) ∧
     (r.handler = false → r.anyActs g = true →
       (q.live = 0 → Completes (.lexit g) s (s.now (fun _ => q.retiring))) ∧
       (q.live ≠ 0 → q.arm.em = 0 → Resumes (.lexit g) s q) ∧
       (q.live ≠ 0 → q.arm.em ≠ 0 → Completes (.lexit g) s (s.now (fun _ => q)))) ∧
     q.exited = r.exited ||| M ∧ q.arm.em = r.arm.em &&& ~~~M ∧ q.arm.held = r.arm.held &&& ~~~M ∧
     (∀ t ∈ q.arm.toks ++ q.arm.barToks, t.wait &&& M = 0 ∧ t.park &&& M = 0) ∧ q.arm.toks.length = r.arm.toks.length ∧
     (∀ t ∈ q.armsTok, t.parkT &&& M = 0 ∧ t.parkF &&& M = 0) ∧ q.v = r.v ∧ q.s = r.s ∧ q.p = r.p ∧ q.q = r.q)

/-! ### Ports and buffers -/

/-- R155 to R158, R161: entries keep their order through a port: a push puts them behind all that are there or on their way, a
pop takes the oldest, and arrival moves the oldest in flight to the consumer; other rows keep their ports. R158, R164, R171:
PWR pushes L/32 entries at an open south port with room, and releases; a closed or sealed port traps PORT_CLOSED, and a full
one waits. -/
def Obligations.PortOrder : Prop :=
  (∀ (s : State) (n m k : Nat) (es : List PEntry) (g : Guard) (a : VReg) (md : Amod) (r : Row) (c : Nat),
     let all (s : State) (n : Nat) : List PEntry := (s.row n).north.entries ++ (s.row n).north.flight
     ((s.row n).sbind = .row → (s.row n).southGone = false →
       all (s.pushSouth n es) (n + 1) = all s (n + 1) ++ es ∧
       ((s.pushSouth n es).row (n + 1)).north.entries = (s.row (n + 1)).north.entries ∧
       (m ≠ n + 1 → (s.pushSouth n es).row m = s.row m)) ∧
     ((s.row n).southGone = true → s.pushSouth n es = s) ∧
     (∃ t, exec (.portEntryArrive n) s = .next t ∧ all t n = all s n ∧ (∀ x, x ≠ n → t.row x = s.row x) ∧
       (t.row n).north.flight = (s.row n).north.flight.tail ∧
       ((s.row n).north.flight = [] → (s.row n).north.sealAt = .flying → (t.row n).north.sealAt = .present)) ∧
     (((s.row n).nbind = .row ∨ (s.row n).nbind = .closed) →
       ((s.dropNorth n k).row n).north.entries = (s.row n).north.entries.drop k ∧ (s.dropNorth n k).dev = s.dev) ∧
     (c < 32 → tget 0 (pushEntry r g a md k).words c = (if r.acts g (32 * k + c) then r.src a md (32 * k + c) else 0) ∧
       (pushEntry r g a md k).valid.getLsbD c = r.acts g (32 * k + c))) ∧
  (∀ (s : State) (g : Guard) (a : VReg) (m : Amod), (s.row s.cur).Quiet → (s.row s.cur).outBuf = [] →
     (s.row s.cur).outside → (s.row s.cur).Fits m → (s.row s.cur).Has [a.toNat] →
     let r := s.row s.cur
     let i := Instr.pwr g a m
     (r.sbind ≠ .closed → s.southShut s.cur = false → s.southRoom s.cur (r.L / 32) = true →
       Completes i s ((s.releaseSouth s.cur).pushSouth s.cur ((List.range (r.L / 32)).map (pushEntry r g a m)))) ∧
     (r.sbind ≠ .closed → s.southShut s.cur = false → s.southRoom s.cur (r.L / 32) = false → Waits i s .portSouth) ∧
     (r.sbind = .closed → Raises i s cPortClosed 0) ∧
     (r.sbind ≠ .closed → s.southShut s.cur = true → Raises i s cPortClosed 1) ∧
     (s.southShut s.cur = true ↔ r.southSealed = true ∨ ∃ p, r.sbind = .link p ∧ (s.port p).up = false))

/-- R158 to R160: PRD takes L/32 entries, delivering word l mod 32 of entry l / 32 and its valid bit to each acting lane l,
and acquires; short of entries it waits, or traps PORT_DRAINED at a seal; PRDN does not wait, and says what it found; at a closed
edge both trap PORT_CLOSED. Where PRDN's two flags are one predicate, that the write of qs stands is the model's choice (log
entry 50). -/
def Obligations.PortPop : Prop :=
  ∀ (s : State) (g : Guard) (d : VReg) (pv qt qs : PReg), (s.row s.cur).Quiet → (s.row s.cur).outside →
    (s.row s.cur).L ≤ 1024 → (s.row s.cur).Has [d.toNat] →
    let r := s.row s.cur
    (r.nbind = .closed → Raises (.prd g d pv) s cPortClosed 0 ∧ Raises (.prdn g d pv qt qs) s cPortClosed 0) ∧
    (r.nbind ≠ .closed →
    let k := r.north.entries.length
    let took (k : Nat) (u : State) : Prop := ∃ r' : Row,
      u = (if k = 0 then s else ((s.now (fun _ => r')).dropNorth s.cur k).acquireNorth s.cur) ∧
      (k ≠ 0 → { r' with v := r.v, p := r.p } = r ∧ ∀ n l, l < r.L →
        let e := r.north.entries.getD (l / 32) ⟨[], 0⟩
        r'.vreg n l = (if n = d.toNat ∧ r.acts g l = true ∧ l / 32 < k then tget 0 e.words (l % 32) else r.vreg n l) ∧
        (r'.preg n).getLsbD l = (if n = pv.toNat ∧ n ≠ 0 ∧ r.acts g l = true ∧ l / 32 < k then e.valid.getLsbD (l % 32)
          else (r.preg n).getLsbD l))
    let flags (t f : Bool) (u : State) : State := u.modRow s.cur (fun r => (r.setQ qt.toNat t).setQ qs.toNat f)
    (r.L / 32 ≤ k → ∃ u, took (r.L / 32) u ∧ Completes (.prd g d pv) s u ∧
      Completes (.prdn g d pv qt qs) s (flags true false u)) ∧
    (k < r.L / 32 → r.sealed = false → Waits (.prd g d pv) s .portNorth ∧
      Completes (.prdn g d pv qt qs) s (flags false false s)) ∧
    (k < r.L / 32 → r.sealed = true → ∃ u, took k u ∧ Completes (.prdn g d pv qt qs) s (flags false true u) ∧
      exec (.prd g d pv) s = .next (u.draw.trapHere s.cur cPortDrained (BitVec.ofNat 64 k))))

/-- R161 to R163: PSEAL, PSTAT and PXFER. R156, R162, R167: Table 07-2's fields, and the events that end a wait at a port: where it
can end the row issues again, once it has lasted csr.pwd clk and cannot end PORT_STARVED is taken, which no other move then comes
before, and a deferred trap that is due comes before either (R336, R337).
R165: one step of a band edge at a circular buffer. A south edge writes its oldest entry into the slot it fills, 128 bytes at
a time; a north edge takes the slot at C and presents its bytes as entries, one after another, with valid bits for whole words;
the end of the buffer seals the port. The model's choice: a PXFER that lacks both entries and room waits at the north port (log
entry 51); when a north edge takes its next slot, and the 32 entries that it keeps ready (log entry 27). -/
def Obligations.PortTransfers : Prop :=
  (∀ (s : State) (g : Guard) (qs : PReg) (n : BitVec 5) (d : SReg) (south : Bool), s.ready g → (s.row s.cur).outside →
     (s.row s.cur).outBuf = [] →
     let r := s.row s.cur
     let k := r.north.entries.length
     let want := n.toNat + 1
     let i := Instr.pxfer g qs n
     let out (j : Nat) : State := (((if j = 0 then s else (s.dropNorth s.cur want).acquireNorth s.cur).releaseSouth
       s.cur).pushSouth s.cur (r.north.entries.take want))
     let flag (b : Bool) (u : State) : State := u.modRow s.cur (fun r => r.setQ qs.toNat b)
     Completes (.pseal g) s (s.sealSouth s.cur) ∧
     Completes (.pstat g d south) s (s.now (fun r => r.setS d.toNat (pstatVal s.draw s.cur south))) ∧
     (r.nbind = .closed ∨ r.sbind = .closed → Raises i s cPortClosed 0) ∧
     (r.nbind ≠ .closed → r.sbind ≠ .closed →
       (s.southShut s.cur = true → Raises i s cPortClosed 1) ∧
       (s.southShut s.cur = false →
         (want ≤ k → s.southRoom s.cur want = true → Completes i s (flag false (out want))) ∧
         (k < want → r.sealed = true → s.southRoom s.cur k = true →
           Completes i s (flag true ((out k).sealSouth s.cur))) ∧
         (k < want → r.sealed = false → Waits i s .portNorth) ∧
         (want ≤ k → s.southRoom s.cur want = false → Waits i s .portSouth)))) ∧
  (∀ (s : State) (n : Nat),
     let r := s.row n
     let x := pstatVal s n false
     (x.extractLsb' 0 8).toNat = min r.north.entries.length 255 ∧ x.getLsbD 8 = r.sealed ∧ x.getLsbD 9 = false ∧
     (x.extractLsb' 10 2).toNat = bindCode r.nbind ∧
     (s.southHeld n ≤ 255 → ((pstatVal s n true).extractLsb' 0 8).toNat = s.southHeld n ∧
       (pstatVal s n true).getLsbD 9 = r.southGone) ∧
     (s.live n = true → r.dueTrap ≠ none → exec (.portWaitEnd n) s = .next (s.takeDue n)) ∧
     (r.dueTrap = none → s.portReady n = true → exec (.portWaitEnd n) s =
       .next { s.modRow n (fun r => { r with wait := none }) with agenda := .issue n :: s.agenda }) ∧
     (s.live n = true → s.portReady n = false → r.csr.pwd ≠ 0 → r.csr.pwd.toNat ≤ (s.rowClk n - r.waitSince).toNat →
       (r.dueTrap = none →
         (r.wait = some .portNorth → exec (.portStarved n) s = .next (s.trapHere n cPortStarved 0)) ∧
         (r.wait = some .portSouth → exec (.portStarved n) s = .next (s.trapHere n cPortStarved 1))) ∧
       (r.wait = some .portNorth ∨ r.wait = some .portSouth → (r.dueTrap ≠ none → exec (.portStarved n) s = .next (s.takeDue n)) ∧
         Move.event (.portStarved n) ∈ s.dueMoves)) ∧
     (r.csr.pwd = 0 → exec (.portStarved n) s = .next s)) ∧
  (∀ (s : State) (n b i k j : Nat) (e : PEntry) (rest : List PEntry),
     let r := s.row n
     let c := s.buf (n / 128) b
     (r.life ≠ .idle → r.sbind = .cb b → r.edgeOut = e :: rest → r.edgeSlot = some i → r.edgeFill + 128 ≠ c.size →
       let a := (c.addr i).toNat + r.edgeFill
       ∃ t, exec (.cbEdgeTransfer n true) s = .next t ∧ (t.row n).edgeOut = rest ∧ (t.row n).edgeFill = r.edgeFill + 128 ∧
         (k < 32 → t.word (a + 4 * k) 4 = (tget 0 e.words k).toNat) ∧ (j < a ∨ a + 128 ≤ j → t.byte j = s.byte j) ∧
         t.buf (n / 128) b = c ∧ ∀ m, m ≠ n → t.row m = s.row m) ∧
     (r.life ≠ .idle → (s.die (n / 128)).halted = false → r.nbind = .cb b →
       let i := Instr.cbEdgeTransfer n false
       (∀ p q, r.edgeIn.getLast? = some (p, q) → r.edgeNext < c.entries p → r.north.entries.length < 32 →
         exec i s = .next (s.modRow n (fun r => { r with
           north := { r.north with entries := r.north.entries ++ [slotEntry s (c.addr p).toNat (c.count p) r.edgeNext] }
           edgeNext := r.edgeNext + 1 }))) ∧
       ((∀ x ∈ r.edgeIn.getLast?, c.entries x.1 ≤ r.edgeNext) →
         (c.slot c.c = .filled → c.count c.c ≠ 0 → ∃ t, exec i s = .next t ∧
           t.row n = { r with edgeIn := r.edgeIn ++ [(c.c, (c.count c.c + 127) / 128)], edgeNext := 0 } ∧
           (t.buf (n / 128) b).slot c.c = .taken ∧ (t.buf (n / 128) b).c = (c.c + 1) % c.n ∧ ∀ m, m ≠ n → t.row m = s.row m) ∧
         (c.atEnd = true → exec i s = .next (s.modRow n (fun q => { q with north := { q.north with sealAt := .present } }))))) ∧
     (j < 32 → let x := slotEntry s i k b
       x.valid.getLsbD j = decide (128 * b + 4 * j + 4 ≤ k) ∧
       (128 * b + 4 * j + 4 ≤ k → tget 0 x.words j = BitVec.ofNat 32 (s.word (i + 128 * b + 4 * j) 4))) ∧
     (r.life = .idle → exec (.cbEdgeTransfer n false) s = .next s ∧ exec (.cbEdgeTransfer n true) s = .next s))

/-- R291 to R295: CBACQ takes the filled slot at C, CBREL frees a taken slot, CBPUB.get takes the free slot at P and CBPUB
publishes a held one; each other state of the buffer traps CB_ERROR or waits. -/
def Obligations.BufferSlots : Prop :=  ∀ (s : State) (g : Guard) (a b : SReg) (fin : Bool) (die : BitVec 2) (buf : BitVec 6) (i : Nat), s.ready g →
    (s.row s.cur).outside →
    let r := s.row s.cur
    let c := s.buf die.toNat buf.toNat
    let x := r.sreg a.toNat
    let n := (r.sreg b.toNat).toNat
    let put (y : CBuf) (u : State) : State := u.setBuf die.toNat buf.toNat y
    let acq (u : State) : State := u.acquireAt (s.cur / 128) .device
    let rel : State := s.releaseAt (s.cur / 128) .device
    let all (t : W64) : Prop := Raises (.cbacq g a b die buf) s cCbError t ∧ Raises (.cbrel g a die buf) s cCbError t ∧
      Raises (.cbpub g a b fin die buf) s cCbError t ∧ Raises (.cbpubGet g a die buf) s cCbError t
    (c.setUp = false → all 1) ∧
    (c.setUp = true → s.bufBound die.toNat buf.toNat false = true →
      Raises (.cbacq g a b die buf) s cCbError 2 ∧ Raises (.cbrel g a die buf) s cCbError 2) ∧
    (c.setUp = true → s.bufBound die.toNat buf.toNat true = true →
      Raises (.cbpub g a b fin die buf) s cCbError 2 ∧ Raises (.cbpubGet g a die buf) s cCbError 2) ∧
    (c.setUp = true → s.bufBound die.toNat buf.toNat false = false →
      (c.atEnd = true → Completes (.cbacq g a b die buf) s
        (s.now (fun r => (r.setS a.toNat 0).setS b.toNat 0x8000000000000000))) ∧
      (c.slot c.c = .filled →
        Completes (.cbacq g a b die buf) s ((acq (put { c.setSlot c.c .taken with c := (c.c + 1) % c.n } s)).modRow s.cur
          (fun r => (r.setS a.toNat (c.addr c.c)).setS b.toNat (BitVec.ofNat 64 (c.count c.c))))) ∧
      (c.atEnd = false → c.slot c.c ≠ .filled → Waits (.cbacq g a b die buf) s .buffer) ∧
      (c.find x .taken = some i → Completes (.cbrel g a die buf) s (put (c.setSlot i .free) rel)) ∧
      (c.find x .taken = none → Raises (.cbrel g a die buf) s cCbError 4)) ∧
    (c.setUp = true → s.bufBound die.toNat buf.toNat true = false →
      (c.ended = true → Raises (.cbpub g a b fin die buf) s cCbError 3 ∧ Raises (.cbpubGet g a die buf) s cCbError 3) ∧
      (c.ended = false →
        (c.slot c.p = .free → Completes (.cbpubGet g a die buf) s
          ((acq (put { c.setSlot c.p .held with p := (c.p + 1) % c.n } s)).modRow s.cur
            (fun r => r.setS a.toNat (c.addr c.p)))) ∧
        (c.slot c.p ≠ .free → Waits (.cbpubGet g a die buf) s .buffer) ∧
        (c.find x .held = none → Raises (.cbpub g a b fin die buf) s cCbError 4) ∧
        (c.find x .held = some i → c.size < n → Raises (.cbpub g a b fin die buf) s cCbError 5) ∧
        (c.find x .held = some i → n ≤ c.size → Completes (.cbpub g a b fin die buf) s
          (put { c.setSlot i .filled with counts := tset 0 c.counts i n, ended := c.ended || fin } rel))))

/-! ### Traps and system instructions -/

/-- R334, R335: in normal mode a trap records its cause, address and value, freezes the array and goes to csr.tvec; in handler
mode the row fails, its CSRs as they were, and the operating system is told. R335, R341: what changes arms, tokens or regions
raises PRIV in handler mode, where it would act. R336: a deferred trap that equals a pending one merges with it, up to eight
are kept in order, and a ninth is lost but told to the operating system; nothing else changes. -/
def Obligations.TrapEntry : Prop :=
  (∀ (s : State) (n m : Nat) (c : W8) (tval : W64) (epc : Va) (held : Clause),
     let r := s.row n
     let t := s.trap n c tval epc held
     let q := t.row n
     (m ≠ n → t.row m = s.row m) ∧ (∀ a, t.byte a = s.byte a) ∧
     (r.handler = false → q.csr = { r.csr with cause := c, epc := epc, tval := tval } ∧ q.handler = true ∧ q.frozen = true ∧
       q.arm = r.arm.goto r.csr.tvec ∧ q.other = r.other ∧ q.s = r.s ∧ q.h = r.h ∧ q.v = r.v ∧ q.p = r.p ∧ q.q = r.q ∧
       q.ac = r.ac ∧ q.ops = r.ops ∧ q.life = r.life ∧ q.region = r.region ∧ q.deferred = r.deferred ∧ t.dev = s.dev) ∧
     (r.handler = true → q.life = .failed ∧ q.failCause = c ∧ q.haltVal = tval ∧ q.csr = r.csr ∧ q.handler = true ∧
       q.s = r.s ∧ q.v = r.v ∧
       t.dev.raised = s.dev.raised ++ [⟨1, n, c.setWidth 32, tval, some (r.arm.pc.setWidth 64), s.clkOf n, 0, 0⟩])) ∧
  (∀ (s : State) (g : Guard) (p : PReg) (neg : Bool) (off : BitVec 33) (a : SReg) (code : BitVec 16) (pa : PReg),
     (s.row s.cur).Quiet → (s.row s.cur).handler = true →
     let r := s.row s.cur
     (r.guardQ g = true → ∀ i ∈ [Instr.join g off, .loops g off, .call g off, .ret g, .jmprCall g a, .trap g code, .idem g a,
       .idend g, .yield g], Raises i s cPriv 0) ∧
     (r.anyActs g = true → ∀ i ∈ [Instr.brv g p neg off, .brk g p neg, .cont g p neg, .lexit g, .emset g pa],
       Raises i s cPriv 0) ∧
     (r.guardMask g ≠ 0 → Raises (.emsetAll g) s cPriv 0) ∧
     (r.guardQ g = true → ∃ t, exec (.br g .always 0 off) s = .next t ∧ (t.row s.cur).handler = true)) ∧
  (∀ (s : State) (n : Nat) (c : W8) (x : W64),
     let r := s.row n
     let t := s.defer n c x
     (⟨c, x⟩ ∈ r.deferred → t = s) ∧
     (⟨c, x⟩ ∉ r.deferred → r.deferred.length < 8 →
       t.row n = { r with deferred := r.deferred ++ [⟨c, x⟩] } ∧ (∀ m, m ≠ n → t.row m = s.row m) ∧ t.dev = s.dev) ∧
     (⟨c, x⟩ ∉ r.deferred → 8 ≤ r.deferred.length → (∀ m, t.row m = s.row m) ∧
       t.dev.raised = s.dev.raised ++ [⟨7, n, c.setWidth 32, x, none, s.clkOf n, 0, 0⟩]))

/-- R339, R340: TRAP enters the handler with its code and the address of the next word; ERET, only in a handler, leaves it and
resumes at csr.epc, inside the clause that the trap left where the address lies in it. -/
def Obligations.TrapAndReturn : Prop :=  ∀ (s : State) (g : Guard) (code : BitVec 16), s.ready g →
    let r := s.row s.cur
    (r.handler = false → r.region = none →
      JumpsTo (.trap g code) s (s.trap s.cur cSoftware (code.setWidth 64) (r.arm.pc + 8) r.arm.clause) r.csr.tvec) ∧
    (r.handler = false → Raises (.eret g) s cPriv 0) ∧
    (r.handler = true → ∃ t, exec (.eret g) s = .next t ∧
      Acted (s.now (fun r => { r with
        handler := false, again := false, retake := r.again, frozen := false, arrStop := .run })) t ∧
      (t.row s.cur).armId = r.armId ∧ (t.row s.cur).arm.pc = r.csr.epc ∧
      ((∃ k < r.trapClause.words.length, r.csr.epc = r.trapClause.hdr + BitVec.ofNat 56 (8 * (k + 1))) →
        r.trapClause.words.length ≤ 16 → (t.row s.cur).arm.clause = r.trapClause) ∧
      (r.csr.epc = r.trapClause.hdr → (t.row s.cur).arm.clause = .at r.csr.epc))

/-- R341, R343, R387 and the NOP: YIELD passes issue to the other arm, HALT stops the row and tells the operating system,
PHINT informs the power predictors. R53, R97: a NOP passes, whatever its guard, to the next word of the clause or to the
clause behind it; issue passes to the other arm only at the end of a clause with y set. R53, R80: a word whose guard is false,
or that acts in no lane, only passes on: no trap, no register, no flag. R60, R118: a register number at or beyond the count,
and a modifier's segment wider than the thread, raise ILL_ENC before anything else: with the number, the first in the order d,
a, b, or with the word. -/
def Obligations.SystemInstructions : Prop :=
  (∀ (s : State) (g : Guard) (code : BitVec 16) (wake : Bool) (units : BitVec 2) (n : BitVec 24), s.ready g →
     (s.row s.cur).region = none →
     let r := s.row s.cur
     let next := r.arm.pc + 8
     let clk := s.rowClk s.cur
     (r.handler = false → JumpsTo (.yield g) s s next ∧ ∃ t, exec (.yield g) s = .next t ∧
       (t.row s.cur).armId = if r.otherRuns then r.otherId else r.armId) ∧
     Completes (.halt g code) s ((s.now (fun r => { r with life := .stopped, haltPc := next, haltVal := code.setWidth 64 })).raise
       ⟨2, s.cur, code.setWidth 32, next.setWidth 64, none, s.clkOf s.cur, 0, 0⟩) ∧
     Completes (.phint g wake units n) s (s.now (fun r => { r with
       mat := if units.getLsbD 0 then r.mat.phint wake r.matIdle matE n.toNat clk else r.mat
       fp := if units.getLsbD 1 then r.fp.phint wake true fpE n.toNat clk else r.fp }))) ∧
  (∀ (s : State) (g : Guard),
     let r := s.row s.cur
     let y := r.arm.clause.y && r.arm.atLast && r.otherRuns
     (r.Quiet → Completes (.nop g) s s) ∧
     (r.Quiet → ∃ t, exec (.nop g) s = .next t ∧
       (t.row s.cur).armOf r.armId =
         some (if r.arm.atLast then r.arm.goto (r.arm.pc + 8) else { r.arm with pc := r.arm.pc + 8 }) ∧
       (t.row s.cur).armId = if y then r.otherId else r.armId)) ∧
  (∀ (s : State) (g : Guard) (d a b : SReg) (v w x : VReg) (m : Amod) (p q : PReg) (op : SaluOp) (vop : VOp) (vw : VW)
     (t : FTy) (rd : Rnd) (fop : FaluOp) (off : BitVec 33) (c : Csr) (k : CsrMode) (code : BitVec 16),
     (s.row s.cur).Quiet → (s.row s.cur).Fits m → (s.row s.cur).Has [v.toNat, w.toNat, x.toNat] →
     let r := s.row s.cur
     (r.guardQ g = false → ∀ i ∈ [Instr.salu g op d a b, .smovv g d v m b false false, .scsw g a k c, .br g .always p off,
       .join g off, .loops g off, .call g off, .ret g, .jmpr g a, .exit g, .trap g code, .eret g, .idem g a, .idend g,
       .yield g, .halt g code, .pseal g], Completes i s s) ∧
     (r.anyActs g = false → ∀ i ∈ [Instr.vialu g vop vw v w m x, .vfalu g fop t rd v w m x, .brv g p false off,
       .brk g q false, .cont g q true, .lexit g, .emset g p], Completes i s s)) ∧
  (∀ (s : State) (g : Guard) (d a b : VReg) (m : Amod) (op : VOp) (w : VW) (t : FTy) (rd : Rnd) (fop : FaluOp),
     let r := s.row s.cur
     let n := r.vcount
     ∀ i ∈ [Instr.vialu g op w d a m b, .vfalu g fop t rd d a m b, .vsel g 0 d a m b],
       (r.L < amodSeg m → Raises i s cIllEnc r.curWord) ∧
       (r.Fits m → n ≤ d.toNat → Raises i s cIllEnc (d.setWidth 64)) ∧
       (r.Fits m → d.toNat < n → n ≤ a.toNat → Raises i s cIllEnc (a.setWidth 64)) ∧
       (r.Fits m → d.toNat < n → a.toNat < n → n ≤ b.toNat → Raises i s cIllEnc (b.setWidth 64)))

/-- R344 to R346: IDEM takes a snapshot of the registers that a restore gives back, IDEND ends the region, and neither nests.
Outside a handler every instruction that reaches outside the row thread is refused in an open region with csr.tval 1: one of the
scalar class where its guard holds; one of the lane class where some lane acts, and TARG wherever it would trap; PWR, PRD and
PRDN whatever their lanes hold; each once its encoding is in order. What would leave or split the tokens that the region began
with is refused with 5: a BRV that splits arms, a JOIN or RET whose token, and a BRK or CONT whose LOOP token, stands at the
region's depth or below. -/
def Obligations.IdempotentRegion : Prop :=
  (∀ (s : State) (g : Guard) (x : Region) (a b c : SReg) (d v w : VReg) (p q k : PReg) (am : Amod) (i4 n4 : BitVec 4)
     (n2 : BitVec 2) (n3 : BitVec 3) (n5 : BitVec 5) (f7 g7 : BitVec 7) (n8 : BitVec 8) (n12 : BitVec 12) (n16 : BitVec 16)
     (n24 : BitVec 24) (off : BitVec 33) (f1 f2 : Bool) (fm : MmacF) (fr : Form3) (fn : AFn) (o : AOrd) (op : BarOp)
     (die2 : BitVec 2) (eng3 : BitVec 3) (buf6 : BitVec 6) (M : Mask) (i : Nat) (t : Token), (s.row s.cur).Quiet →
     (s.row s.cur).handler = false → (s.row s.cur).region = some x → (s.row s.cur).L ≤ 1024 →
     let r := s.row s.cur
     (r.guardQ g = true →
       (∀ i ∈ [Instr.trap g n16, .halt g n16, .exit g, .yield g, .pseal g, .pstat g a f1, .pxfer g q n5, .wld g d n8 n3 f1 b f2,
         .wswap g, .accz g f7 g7, .mdrain g a, .mfill g a, .mstat g a fr, .amos g a b f1 fn f2 o f1, .own g a b n12 f1,
         .disown g a b n12 f1], Raises i s cIdemNest 1) ∧
       (∀ i ∈ [Instr.peg g a b c i4 f1 n4, .unpeg g n16, .pegw g a i4 f1, .pegq g a f1 i4, .rpos g a fr, .ctail g a die2 eng3,
         .ctailRetry g die2 eng3, .ctailSkip g die2 eng3, .ctailStart g a b die2 eng3, .cseq g a fr die2 eng3,
         .cwait g b die2 eng3 f1, .cbacq g a b die2 buf6, .cbrel g a die2 buf6, .cbpub g a b f1 die2 buf6, .cbpubGet g a die2 buf6,
         .desc g a b, .bar g a b op n8, .bara g b op n8, .barw g a n8, .trig g, .tend g, .phint g f1 n2 n24],
         Raises i s cIdemNest 1) ∧
       (mmacIllegal fm r = false → r.Has (mmacRegs fm r) → Raises (.mmac g fm) s cIdemNest 1) ∧
       (r.tokdepth ≠ 0 → r.tokdepth ≤ x.depth → Raises (.join g off) s cIdemNest 5 ∧ Raises (.ret g) s cIdemNest 5)) ∧
     (r.anyActs g = true →
       Raises (.lexit g) s cIdemNest 1 ∧ Raises (.tjoin g a) s cIdemNest 1 ∧
       (r.Has ((List.range n4.toNat).map (fun j => w.toNat + j) ++ (if v = 0 then [] else [v.toNat])) →
         Raises (.spawn g a b c f1 n2 v n4 w) s cIdemNest 1) ∧
       (r.Has [d.toNat] → ∀ i ∈ [Instr.accrd g d a n2 f7, .accwr g d a n2 f7, .targ g d i4], Raises i s cIdemNest 1) ∧
       (r.Has (atomRegs fn d v) → Raises (.amo g d a v n3 fn f1 o f2) s cIdemNest 1 ∧ Raises (.red g d a v n3 fn o) s cIdemNest 1)) ∧
     (r.Has [d.toNat] → Raises (.prd g d p) s cIdemNest 1 ∧ Raises (.prdn g d p q k) s cIdemNest 1 ∧
       (r.Fits am → Raises (.pwr g d am) s cIdemNest 1) ∧
       (r.pool = none → (∃ l < r.L, r.guardL g l = true) → Raises (.targ g d i4) s cIdemNest 1)) ∧
     (r.anyActs g = true → M ≠ 0 →
       (∀ l, l < 1024 → M.getLsbD l = (decide (l < r.L) && r.acts g l && ((r.preg p.toNat).getLsbD l != f1))) →
       (r.arm.em &&& ~~~M ≠ 0 → r.tokdepth = 0 → Raises (.brv g p f1 off) s cIdemNest 5) ∧
       (r.arm.toks[i]? = some t → t.kind = .loop → (∀ j u, j < i → r.arm.toks[j]? = some u → u.kind ≠ .loop) →
         r.tokdepth - i ≤ x.depth → Raises (.brk g p f1) s cIdemNest 5 ∧ Raises (.cont g p f1) s cIdemNest 5))) ∧
  ∀ (s : State) (g : Guard) (m : SReg), s.ready g →
    (s.row s.cur).handler = false →
    let r := s.row s.cur
    (r.region = none → r.other = none → ∃ x : Region,
      Completes (.idem g m) s (s.now (fun r => { r with region := some x })) ∧ x.s = r.s ∧ x.q = r.q ∧ x.p = r.p ∧
      x.em = r.arm.em ∧ x.held = r.arm.held ∧ x.fflags = r.csr.fflags ∧ x.mflags = r.csr.mflags ∧ x.rng = r.csr.rng ∧
      x.depth = r.tokdepth ∧ x.live = r.sreg m.toNat ∧ x.entry = r.arm.pc + 8) ∧
    (r.region = none → r.other ≠ none → Raises (.idem g m) s cIdemNest 4) ∧
    (r.region ≠ none → Raises (.idem g m) s cIdemNest 2 ∧
      Completes (.idend g) s (s.now (fun r => { r with region := none }))) ∧
    (r.region = none → Raises (.idend g) s cIdemNest 3)

/-! ### Memory -/

/-- R224, R234: what the address of an element raises, in this order: BOUNDS above bit 55, PROT below side memory, BOUNDS at
an address of side memory that does not exist, MISALIGN, OWNER. R232 to R241: a load issues one operation with an element for
each acting lane, in pages that are not checked; the first failing lane raises its cause with its address and nothing is
issued. R232 to R241: a store enters the store buffer, of two elements that share a byte only the one of the higher lane; with
no acting lane it only passes, but for LDACQ and STREL, which keep their place in order (R241) as an access of no bytes. -/
def Obligations.AccessesIssue : Prop :=
  (∀ (s : State) (n E : Nat) (a : W64),
     let x := a.toNat
     let hole : Prop := a.extractLsb' 34 21 ≠ 0 ∨ a.extractLsb' 29 3 ≠ 0
     let f := s.elemFault n E a
     (2 ^ 56 ≤ x → f = some cBounds) ∧
     (x < 2 ^ 55 → f = some cProt) ∧
     (2 ^ 55 ≤ x → x < 2 ^ 56 →
       (hole → f = some cBounds) ∧
       (¬ hole → x % E ≠ 0 → f = some cMisalign) ∧
       (¬ hole → x % E = 0 → s.checked x = true → s.owner x ≠ noOwner → s.owner x ≠ BitVec.ofNat 10 n →
         f = some cOwner) ∧
       (¬ hole → x % E = 0 → (s.checked x = false ∨ s.owner x = noOwner ∨ s.owner x = BitVec.ofNat 10 n) → f = none))) ∧
  (∀ (s : State) (g : Guard) (d : VReg) (m : Mem) (fs vol : Bool) (sd base : SReg) (pd : PReg) (off : BitVec 12) (j : Nat)
     (c : W8), (s.row s.cur).Quiet → (s.row s.cur).Has (d.toNat :: (if m.idx = 0 then [] else [m.idx.toNat])) →
     let r := s.row s.cur
     let b (o : BitVec 12) (F : Nat) (x : SReg) : W64 := r.sreg x.toNat + o.signExtend 64 * BitVec.ofNat 64 F
     let lane (l : Nat) : W64 := (r.vreg m.idx.toNat l).signExtend 64 <<< m.sc.toNat
     let A (E l : Nat) : W64 := if m.idx = 0 then b m.off E m.base + BitVec.ofNat 64 (l * E) else b m.off E m.base + lane l
     let R (E l : Nat) : W64 := b m.off E m.base + lane (l / 32 * 32) + BitVec.ofNat 64 (l % 32 * E)
     let op (k : OpKind) : State := s.now (fun r => r.addOp (r.flagSel fs) k)
     let gives (i : Instr) (dst : Dst) (E : Nat) (sx mask : Bool) (ord : AccKind) (a : Nat → W64) : Prop :=
       ((∀ l ∈ r.actLanes g, s.elemFault s.cur E (a l) = none ∧ s.checked (a l).toNat = false) →
         Completes i s (op (if ord.scope = none ∨ r.anyActs g = true then
             .load dst E sx mask ord ((r.actLanes g).map (fun l => ⟨l, (a l).toNat, none, false⟩))
           else .load .none 0 false false ord [⟨0, 0, none, false⟩]))) ∧
       (j ∈ r.actLanes g → s.elemFault s.cur E (a j) = some c →
         (∀ l ∈ r.actLanes g, l < j → s.elemFault s.cur E (a l) = none) → Raises i s c (a j))
     let E := szSize m.sz
     let sx := szSigned m.sz
     gives (.ldv g d m fs) (.vreg d.toNat) E sx false .ordinary (A E) ∧
     gives (.ldx g d m fs) (.vreg d.toNat) E sx false .ordinary (A E) ∧
     gives (.ldt g d m fs) (.vreg d.toNat) E sx false .ordinary (R E) ∧
     gives (.ldvol g d m fs) (.vreg d.toNat) E sx false .volatile (A E) ∧
     gives (.ldacq g d m fs) (.vreg d.toNat) 4 false false (.acquire (szScope m.sz)) (A 4) ∧
     gives (.ldm g pd base off fs) (.preg pd.toNat) 1 false true .ordinary
       (fun l => b off 1 base + BitVec.ofNat 64 (l / 8)) ∧
     (r.guardQ g = true →
       let a := b m.off E m.base
       (s.elemFault s.cur E a = none → s.checked a.toNat = false → Completes (.sld g sd m vol fs) s
         (op (.load (r.dstS sd.toNat) E sx false (if vol then .volatile else .ordinary) [⟨0, a.toNat, none, false⟩]))) ∧
       (s.elemFault s.cur E a = some c → Raises (.sld g sd m vol fs) s c a))) ∧
  (∀ (s : State) (g : Guard) (d : VReg) (sd : SReg) (m : Mem) (vol : Bool) (j : Nat) (c : W8), (s.row s.cur).Quiet →
     (s.row s.cur).L ≤ 1024 → (s.row s.cur).Has (d.toNat :: (if m.idx = 0 then [] else [m.idx.toNat])) →
     let r := s.row s.cur
     let b (F : Nat) : W64 := r.sreg m.base.toNat + m.off.signExtend 64 * BitVec.ofNat 64 F
     let A (E l : Nat) : W64 := if m.idx = 0 then b E + BitVec.ofNat 64 (l * E)
       else b E + (r.vreg m.idx.toNat l).signExtend 64 <<< m.sc.toNat
     let es (E : Nat) : List StoreElem :=
       (r.actLanes g).map (fun l => ⟨l, (A E l).toNat, (r.vreg d.toNat l).setWidth 64, false⟩)
     let gives (i : Instr) (E : Nat) (ord : AccKind) (es : List StoreElem) : Prop :=
       ((∀ l ∈ r.actLanes g, s.elemFault s.cur E (A E l) = none ∧ s.checked (A E l).toNat = false) →
         (r.anyActs g = true → Completes i s (s.now (fun r => r.addOp none (.store E r.passes ord es)))) ∧
         (r.anyActs g = false → Completes i s
           (if ord.scope = none then s else s.now (fun r => r.addOp none (.store 0 r.passes ord [⟨0, 0, 0, false⟩]))))) ∧
       (j ∈ r.actLanes g → s.elemFault s.cur E (A E j) = some c →
         (∀ l ∈ r.actLanes g, l < j → s.elemFault s.cur E (A E l) = none) → Raises i s c (A E j))
     let E := szSize m.sz
     gives (.stv g d m) E .ordinary (highestOnly E (es E)) ∧
     gives (.stx g d m) E .ordinary (highestOnly E (es E)) ∧
     gives (.stvol g d m) E .volatile (es E) ∧
     gives (.strel g d m) 4 (.release (szScope m.sz)) (highestOnly 4 (es 4)) ∧
     (∀ (n : Nat) (l : List StoreElem), (highestOnly n l).Sublist l ∧
       (highestOnly n l).Pairwise (fun x y => meets x.addr n y.addr n = false) ∧
       ∀ (x : StoreElem) (a b : List StoreElem), l = a ++ x :: b → (∀ y ∈ b, meets x.addr n y.addr n = false) → x ∈ highestOnly n l) ∧
     (r.guardQ g = true →
       let a := b E
       (s.elemFault s.cur E a = none → s.checked a.toNat = false → Completes (.sst g sd m vol) s (s.now (fun r =>
         r.addOp none (.store E 1 (if vol then .volatile else .ordinary) [⟨0, a.toNat, r.sreg sd.toNat, false⟩])))) ∧
       (s.elemFault s.cur E a = some c → Raises (.sst g sd m vol) s c a)))

/-- R236, R237: an element of an ordinary load receives the bytes at its address, little-endian and extended: each from the
youngest earlier store that the row still buffers, else from memory as the row's die and that access find it; memory keeps its
bytes. An error instead leaves the lanes of its 8-byte word alone and makes a deferred trap pending with the word's address
(R235; log entry 49), and a granule that another row has taken since is not read (R244). Lines that hold some of an element's
bytes dirty and some not go home first (R268). R49, R236: once every element is performed, a load writes its register in the
lanes of its elements and ends; its flag clears unless something else still holds it. R237, R241, R270: performing an element of
a store writes its bytes, little-endian, at its address and no other byte: in the far cache of the row's die where that serves
the address, else at home; a store that goes to the bytes' own vault writes them there. R248, R250: a fire counts as a write at
the PEGW that takes it: a byte written by an access from before that PEGW goes under the tile that has landed there, which
stays, and the row's accesses from before it find the byte (that the tile then lands at once for every other agent is the
model's choice, log entry 9). An error in a word that the store does not fill writes nothing and makes a deferred trap pending
(R235). -/
def Obligations.AccessesPerform : Prop :=
  (∀ (s : State) (n id i : Nat) (arm : ArmId) (flag : Option Nat) (dst : Dst) (sz : Nat) (sx mask : Bool)
     (es : List LoadElem) (e : LoadElem),
     (s.orderRow n).findOp id = some ⟨id, arm, flag, .load dst sz sx mask .ordinary es⟩ → es[i]? = some e →
     (s.orderRow n).loadReady id .ordinary sz es i = true →
     let d := n / 128
     let u := s.fillLoad d e.addr sz
     let near (k : Nat) : W8 := match (s.orderRow n).buffered id (e.addr + k) with
       | some b => b
       | none => u.ownByte n id (e.addr + k)
     let x := leVal ((List.range sz).map near)
     let made (es : List LoadElem) : OpKind := .load dst sz sx mask .ordinary es
     (∀ k b z, k < sz → ((s.die d).far = [] → u.nearByte d (e.addr + k) = s.byte (e.addr + k)) ∧
       ((∀ y ∈ (s.row n).landed, y.addr ≠ e.addr + k) → u.ownByte n id (e.addr + k) = u.nearByte d (e.addr + k)) ∧
       (s.farMixed d e.addr sz = false → s.cacheable d (e.addr + k) = true → s.farAt d (e.addr + k) = some ⟨b, true, z⟩ →
         u.nearByte d (e.addr + k) = b)) ∧
     (s.farMixed d e.addr sz = false → ∀ a, u.byte a = s.byte a) ∧
     (s.barred n e.addr = false →
       (∃ t, exec (.operationComplete n id i false) s = .next t ∧ (∀ a, t.byte a = u.byte a) ∧
         (∀ m, m ≠ n → t.row m = s.row m) ∧
         t.row n = (s.row n).setOp id (made (es.set i { e with val := some (loadVal sx mask sz e.lane x) }))) ∧
       (sz ≠ 0 → ∃ t, exec (.operationComplete n id i true) s = .next t ∧ (∀ a, t.byte a = u.byte a) ∧
         (t.row n).ops = ((s.row n).setOp id (made (es.map (fun x =>
           if x.addr / 8 = e.addr / 8 then { x with bad := true } else x)))).ops ∧
         ((s.row n).deferred = [] → (t.row n).deferred = [⟨cEccUncorr, BitVec.ofNat 64 (e.addr / 8 * 8)⟩]))) ∧
     (s.barred n e.addr = true → ∀ ecc, exec (.operationComplete n id i ecc) s =
       .next (s.modRow n (fun r => r.setOp id (made (es.set i { e with bad := true }))))) ∧
     (sx = false → mask = false → loadVal sx mask sz e.lane x = BitVec.ofNat 64 x) ∧
     (mask = true → loadVal sx mask 1 e.lane x = if x.testBit (e.lane % 8) then 1 else 0) ∧
     (sx = true → mask = false → 0 < sz → sz ≤ 8 →
       loadVal sx mask sz e.lane x = ((BitVec.ofNat (8 * sz) x).signExtend 64))) ∧
  (∀ (s : State) (n id : Nat) (arm : ArmId) (flag : Option Nat) (d sz : Nat) (sx mask : Bool) (es : List LoadElem) (k l : Nat),
     (s.row n).findOp id = some ⟨id, arm, flag, .load (.vreg d) sz sx mask .ordinary es⟩ →
     (∀ e ∈ es, e.val.isSome = true ∨ e.bad = true) → (∀ e ∈ es, e.lane < (s.row n).L) →
     (es.map LoadElem.lane).Nodup → l < (s.row n).L →
     ∃ t, exec (.operationComplete n id 0 false) s = .next t ∧ (∀ a, t.byte a = s.byte a) ∧
       (t.row n).findOp id = none ∧ (∀ x, x ≠ id → (t.row n).findOp x = (s.row n).findOp x) ∧
       (t.row n).vreg k l = ((if k = d then es.find? (fun e => e.lane == l && !e.bad) else none).bind
         (fun e => e.val.map (fun v => v.setWidth 32))).getD ((s.row n).vreg k l) ∧
       (∀ f, flag = some f → arm = (s.row n).armId → (s.row n).flagHeld id (s.row n).armId f = false → f < 12 →
         (t.row n).arm.flags.getLsbD f = false) ∧
       (flag = none → (t.row n).arm = (s.row n).arm)) ∧
  (∀ (s : State) (n id i : Nat) (arm : ArmId) (flag : Option Nat) (sz p : Nat) (ord : AccKind) (es : List StoreElem)
     (e : StoreElem) (a : Nat),
     (s.orderRow n).findOp id = some ⟨id, arm, flag, .store sz p ord es⟩ → es[i]? = some e →
     (s.orderRow n).storeReady id ord sz es i = true → s.barred n e.addr = false →
     let d := n / 128
     let bare : Prop := ∀ y ∈ (s.row n).landed, y.addr ≠ a
     let within : Prop := e.addr ≤ a ∧ a < e.addr + sz
     let new : W8 := BitVec.ofNat 8 (e.val.toNat / 256 ^ (a - e.addr))
     ∃ t, exec (.storePerform n id i false) s = .next t ∧ (∀ m, m ≠ n → t.row m = s.row m) ∧
       (ord = .ordinary →
         (within → bare → t.nearByte d a = new ∧ (s.cacheable d a = false → t.byte a = new)) ∧
         (¬ within → t.nearByte d a = s.nearByte d a ∧ t.byte a = s.byte a) ∧
         (s.cacheable d a = true → t.byte a = s.byte a)) ∧
       (ord ≠ .ordinary → (within → bare → t.byte a = new) ∧ (¬ within → (s.die d).far = [] → t.byte a = s.byte a)) ∧
       (t.row n).findOp id = (if (es.set i { e with done := true }).all (fun e => e.done) then none
         else some ⟨id, arm, flag, .store sz p ord (es.set i { e with done := true })⟩) ∧
       (0 < sz → sz < 8 → ∃ t', exec (.storePerform n id i true) s = .next t' ∧ (ord = .ordinary → t'.byte a = s.byte a) ∧
         ((s.row n).deferred = [] → (t'.row n).deferred = [⟨cEccUncorr, BitVec.ofNat 64 (e.addr / 8 * 8)⟩])) ∧
       (sz = 0 ∨ 8 ≤ sz → exec (.storePerform n id i true) s = exec (.storePerform n id i false) s)) ∧
  (∀ (s : State) (n k a x : Nat) (b : W8) (y : Landed) (rest : List Landed),
     let u := s.setOwn n k true a b
     let d := n / 128
     u.ownByte n k a = b ∧ (x ≠ a → u.ownByte n k x = s.ownByte n k x) ∧
     ((s.row n).landed = y :: rest → y.addr = a → s.nearByte d a = y.new → (s.row n).hides k y = true →
       u.nearByte d a = y.new ∧ s.ownByte n k a = (s.row n).peel k a rest y.old) ∧
     ((s.row n).landed = [y] → y.addr = a → s.nearByte d a = y.new → (s.row n).hides k y = false →
       s.ownByte n k a = y.new ∧ u.nearByte d a = b) ∧
     ((s.row n).hides k y = true ↔ ∀ m, (y.taken = some m ∨ (y.taken = none ∧
       (((s.row n).pegws y.peg)[y.ahead]?).map Op.id = some m)) → k < m) ∧
     ((∀ z ∈ (s.row n).landed, z.addr ≠ a) → u = s.setNear d a b ∧ s.ownByte n k a = s.nearByte d a))

/-- R242, R245, R246: fences are operations that wait for the accesses they order, and until one is satisfied the row holds the
issue of later accesses; OWN takes granules of checked pages, and
DISOWN gives up those that the row holds. -/
def Obligations.FencesAndOwnership : Prop :=  ∀ (s : State) (g : Guard) (k : FKind) (sc : Scope) (d base : SReg) (off : BitVec 12) (id x : Nat) (arm : ArmId),
    let r := s.row s.cur
    let a : W64 := r.sreg base.toNat + off.signExtend 64
    let n (many : Bool) : Nat := if many then (r.sreg d.toNat).toNat else 1
    let grains (many : Bool) : List W64 := (List.range (n many)).map (fun i => a + BitVec.ofNat 64 (64 * i))
    let fine (many : Bool) : Prop := (many = true → 1 ≤ n many ∧ n many ≤ 1024) ∧ a.toNat % 64 = 0 ∧
      ∀ y ∈ grains many, sideFault y = none ∧ s.checked y.toNat = true ∧
        (s.owner y.toNat = noOwner ∨ s.owner y.toNat = BitVec.ofNat 10 s.cur)
    ((r.view s.drawn).guardQ g = true → (∃ o ∈ r.ops, o.kind.isFence = true) → ∀ m vol, Waits (.sst g d m vol) s .memory) ∧
    (s.ready g → Completes (.fence g k sc) s (s.now (fun r => r.addOp none (.fence k sc)))) ∧
    (r.findOp id = some ⟨id, arm, none, .fence k sc⟩ →
      ((s.orderRow s.cur).fenceReady id k = true → ∃ t, exec (.operationComplete s.cur id 0 false) s = .next t ∧
        (t.row s.cur).findOp id = none) ∧
      ((s.orderRow s.cur).fenceReady id k = false → exec (.operationComplete s.cur id 0 false) s = .next s)) ∧
    (s.ready g → r.outside → ∀ many, fine many →
      let own := (grains many).foldl (fun s y => s.setOwner y.toNat (BitVec.ofNat 10 s.cur)) s
      Completes (.own g d base off many) s (own.acquireAt (s.cur / 128) .device) ∧
      ((∃ y ∈ grains many, granuleOf y.toNat = granuleOf x) → own.owner x = BitVec.ofNat 10 s.cur) ∧
      ((∀ y ∈ grains many, granuleOf y.toNat ≠ granuleOf x) → own.owner x = s.owner x) ∧
      Completes (.disown g d base off many) s ((grains many).foldl (fun s y =>
        if s.owner y.toNat = BitVec.ofNat 10 s.cur then s.setOwner y.toNat noOwner else s)
          (s.releaseAt (s.cur / 128) .device))) ∧
    (s.ready g → r.outside → (n true = 0 ∨ 1024 < n true) → Raises (.own g d base off true) s cBounds (r.sreg d.toNat) ∧
      Raises (.disown g d base off true) s cBounds (r.sreg d.toNat)) ∧
    (s.ready g → r.outside → a.toNat % 64 ≠ 0 → Raises (.own g d base off false) s cMisalign a ∧
      Raises (.disown g d base off false) s cMisalign a)

/-- R262 to R272: AMO, RED and AMOS issue one operation whose elements carry each acting lane's address and operands, at the
physical address where the address is global; the first failing lane raises its cause with its address. R264 to R270: an
atomic is one step at its element: the word at home becomes the function of its old value and the operands, no other byte
changes, and the lane receives the old value; lanes that name one element take turns, the lower first. R267, R271: an
uncorrectable error leaves the element unchanged and defers ECC_UNCORR with its address; an ordered atomic with no acting lane
still takes its place in the order. Table 11-3: the new
value of an atomic's element, of 4 or 8 bytes, from the old one and the operands; R266: that of fadd, rounded once to the nearest,
and of fmin and fmax. -/
def Obligations.Atomics : Prop :=
  (∀ (s u : State) (g : Guard) (d idx : VReg) (sd base : SReg) (sc : BitVec 3) (fn : AFn) (o : AOrd) (fs wide ret : Bool)
     (ks : List Nat) (c : W8) (x : W64), (s.row s.cur).Quiet → (s.row s.cur).L ≤ 1024 → (s.row s.cur).outside →
     (s.row s.cur).Has (atomRegs fn d idx) →
     let r := s.row s.cur
     let E := if wide then 8 else 4
     let A (l : Nat) : W64 := r.sreg base.toNat + (if idx = 0 then BitVec.ofNat 64 (l * 4)
       else (r.vreg idx.toNat l).signExtend 64 <<< sc.toNat)
     let w (k l : Nat) : W64 := (r.vreg k l).setWidth 64
     let es : List AtomElem := ((r.actLanes g).zip ks).map (fun p => ⟨p.1, p.2, A p.1, w d.toNat p.1, w (d.toNat + 1) p.1, none, false⟩)
     let plain (ks : List Nat) : Prop := ∀ k ∈ ks, k < sideBase ∨ u.checked k = false
     let op (flag : Option Nat) (k : OpKind) : State := u.modRow s.cur (fun r => r.addOp flag k)
     let keys := atomKeys s.cur 4 o s.draw ((r.actLanes g).map A)
     let key := atomKeys s.cur E o s.draw [r.sreg base.toNat]
     (r.anyActs g = true → keys = (.ok ks, u) → plain ks →
       Completes (.amo g d base idx sc fn true o fs) s
         (op (r.flagSel fs) (.atomic fn (.vreg d.toNat) 4 0 (aordKind o) es)) ∧
       Completes (.amo g d base idx sc fn false o fs) s
         (op none (.atomic fn .none 4 r.passes (aordKind o) es)) ∧
       Completes (.red g d base idx sc fn o) s (op none (.atomic fn .none 4 r.passes (aordKind o) es))) ∧
     (r.anyActs g = true → keys = (.error (c, x), u) →
       exec (.amo g d base idx sc fn ret o fs) s = .next (u.trapHere s.cur c x) ∧
       exec (.red g d base idx sc fn o) s = .next (u.trapHere s.cur c x)) ∧
     (r.guardQ g = true → ∀ k, key = (.ok [k], u) → plain [k] → Completes (.amos g sd base wide fn ret o fs) s
       (op (if ret then r.flagSel fs else none) (.atomic fn (if ret then r.dstS sd.toNat else .none) E (if ret then 0 else 1)
         (aordKind o) [⟨0, k, r.sreg base.toNat, r.sreg sd.toNat, r.sreg (sd.toNat + 1), none, false⟩]))) ∧
     (r.anyActs g = false → r.arm.em ≠ 0 → o ≠ .relaxed →
       let mark (flag : Option Nat) (k : Nat) : State := s.now (fun r => r.addOp flag
         (.atomic fn .none 0 k (aordKind o) [⟨0, 0, 0, 0, 0, none, false⟩]))
       Completes (.amo g d base idx sc fn true o fs) s (mark (r.flagSel fs) 0) ∧
       Completes (.amo g d base idx sc fn false o fs) s (mark none r.passes) ∧
       Completes (.red g d base idx sc fn o) s (mark none r.passes)) ∧
     (r.anyActs g = false → (r.arm.em = 0 ∨ (o = .relaxed ∧ ret = false)) → Completes (.amo g d base idx sc fn ret o fs) s s) ∧

     (∀ (l : List W64), (∀ y ∈ l, sideBase ≤ y.toNat ∧ s.elemFault s.cur E y = none) →
       atomKeys s.cur E o s l = (.ok (l.map BitVec.toNat), s))) ∧
  (∀ (s : State) (n id : Nat) (arm : ArmId) (flag : Option Nat) (fn : AFn) (dst : Dst) (sz : Nat) (e f : AtomElem) (a : Nat),
     (s.row n).findOp id = some ⟨id, arm, flag, .atomic fn dst sz 0 .ordinary [e, f]⟩ →
     (s.orderRow n).atomReady id .ordinary sz e = true → f.old = none → f.bad = false → sz = 4 ∨ sz = 8 →
     (s.die (n / 128)).far = [] → (∀ y ∈ (s.row n).landed, y.addr < e.addr ∨ e.addr + sz ≤ y.addr) →
     let old := s.word e.addr sz
     let m := atomNew fn sz old e.x.toNat e.y.toNat
     let second := atomNew fn sz m f.x.toNat f.y.toNat
     let e' : AtomElem := { e with old := some (BitVec.ofNat 64 old) }
     (∃ t, exec (.atomicPerform n id 0 true) s = .next t ∧ t.byte a = s.byte a ∧ (s.barred n e.addr = false →
       (s.row n).deferred = [] → (t.row n).deferred = [⟨cEccUncorr, e.va⟩])) ∧
     (s.barred n e.addr = true → ∃ t, exec (.atomicPerform n id 0 false) s = .next t ∧ t.byte a = s.byte a) ∧
     (s.barred n e.addr = false → ∃ t, exec (.atomicPerform n id 0 false) s = .next t ∧ (∀ k, k ≠ n → t.row k = s.row k) ∧
       ((a < e.addr ∨ e.addr + sz ≤ a) → t.byte a = s.byte a) ∧
       (f.addr ≠ e.addr → t.word e.addr sz = m % 256 ^ sz ∧
         (t.row n).findOp id = some ⟨id, arm, flag, .atomic fn dst sz 0 .ordinary [e', f]⟩) ∧
       (f.addr = e.addr → t.word e.addr sz = second % 256 ^ sz ∧ (t.row n).findOp id =
         some ⟨id, arm, flag, .atomic fn dst sz 0 .ordinary [e', { f with old := some (BitVec.ofNat 64 m) }]⟩))) ∧
  (∀ (w : Nat) (o p q : BitVec w) (sz : Nat), w = 8 * sz →
     let f (fn : AFn) : BitVec w := BitVec.ofNat w (atomNew fn sz o.toNat p.toNat q.toNat)
     f .add = o + p ∧ f .and = o &&& p ∧ f .or = o ||| p ∧ f .xor = o ^^^ p ∧ f .swap = p ∧
     f .cas = (if o = p then q else o) ∧ f .min = (if o.toInt ≤ p.toInt then o else p) ∧
     f .max = (if o.toInt ≤ p.toInt then p else o) ∧ f .minn = (if o.toNat ≤ p.toNat then o else p) ∧
     f .maxn = (if o.toNat ≤ p.toNat then p else o)) ∧
  (∀ (o p q : Nat) (b : Bool), o < 2 ^ 32 → p < 2 ^ 32 →
     let x := fmt32.decode o
     let y := fmt32.decode p
     let new (fn : AFn) : Nat := atomNew fn 4 o p q
     let nan := fmt32.nanBits
     let ordered (u v : Nat) : Prop := new .fmin = u ∧ new .fmax = v
     ((x.isNan = true ∨ y.isNan = true ∨ (x = .inf b ∧ y = .inf (!b))) → new .fadd = nan) ∧
     (x = .inf b → y.isNan = false → y ≠ .inf (!b) → new .fadd = o) ∧
     (y = .inf b → x.isNan = false → x ≠ .inf (!b) → new .fadd = p) ∧
     (∀ X Y : ℝ, x.Is X → y.Is Y → ∃ fl, fmt32.Gives .rne (X + Y) (x.neg && y.neg) (new .fadd, fl)) ∧
     (x.isNan = true → y.isNan = true → ordered nan nan) ∧
     (x.isNan = true → y.isNan = false → ordered p p) ∧ (x.isNan = false → y.isNan = true → ordered o o) ∧
     (x.isNan = false → y.isNan = false →
       (x = .inf true ∨ y = .inf false → ordered o p) ∧ (x = .inf false ∨ y = .inf true → ordered p o) ∧
       ∀ X Y : ℝ, x.Is X → y.Is Y → (X < Y ∨ (X = Y ∧ x.neg = true) → ordered o p) ∧
         (Y < X ∨ (X = Y ∧ y.neg = true) → ordered p o) ∧ (X = Y → x.neg = false → y.neg = false → ordered o o)))

/-! ### The matrix array -/

/-- R181: for every mix of signedness, three residues of the dot product of a block and a column give the dot product. -/
def Obligations.ResiduePipeline : Prop :=  ∀ (qa qw : Nat → Int) (sa sw : Bool),
    (∀ k, k < 256 → (if sa then -128 ≤ qa k ∧ qa k ≤ 127 else 0 ≤ qa k ∧ qa k ≤ 255)) →
    (∀ k, k < 256 → (if sw then -128 ≤ qw k ∧ qw k ≤ 127 else 0 ≤ qw k ∧ qw k ≤ 255)) →
    let t (m : Int) : Int := ((List.range 256).map (fun k => qa k % m * (qw k % m))).sum % m
    let x : Int := (t 255 * 8421376 + t 256 * 16711425 + t 257 * 8421120) % 16776960
    (if (sa || sw) = true ∧ 8388480 ≤ x then x - 16776960 else x) = dotProduct qa qw

/-- R175, R186 to R188, R196: WLD, WSWAP and MMAC at issue, with an array that is not banked. R118, R177: a register range
that begins at or beyond the count raises ILL_ENC with its field's number; that d's range is tested before a's is the model's
choice (log entry 66). -/
def Obligations.MatrixIssue : Prop :=  ∀ (s : State) (g : Guard) (a : VReg) (n : BitVec 8) (fmt : BitVec 3) (sa fs : Bool) (ss : SReg) (f : MmacF) (c : W8)
    (x : W64), s.ready g → (s.row s.cur).outside → (s.row s.cur).mat.banked = false →
    let r := s.row s.cur
    let clk := s.rowClk s.cur
    let A : W64 := r.sreg a.toNat
    let B : W64 := r.sreg (a.toNat + 1)
    let fA : W64 := if f.pair then r.sreg f.a.toNat else 0
    let fB : W64 := if f.pair then r.sreg (f.a.toNat + 1) else 0
    let wld := Instr.wld g a n fmt sa ss fs
    (r.handler = false →
      (operandFault s s.cur A B fmt.toNat n.toNat (ss == 0) = none → Completes wld s (s.now (fun r =>
        { ({ r with shadow := if r.shadow.st = .empty ∨ r.shadow.st = .full then { Latch.reset with st := .filling }
              else r.shadow } : Row).addOp (r.flagSel fs)
            (.wld A B n.toNat fmt.toNat sa (if ss = 0 then none else some (r.sreg ss.toNat)) false 0) with
          mat := r.mat.use clk }))) ∧
      (operandFault s s.cur A B fmt.toNat n.toNat (ss == 0) = some (c, x) → Raises wld s c x) ∧
      (r.shadow.st = .full → Completes (.wswap g) s (s.now (fun r => { r with
        shadow := { r.shadow with st := .swapQueued }, queue := r.queue ++ [⟨r.nextId, .swap⟩], mat := r.mat.use clk }))) ∧
      (r.shadow.st = .empty → Raises (.wswap g) s cMatrixFmt 1) ∧
      (r.shadow.st = .filling ∨ r.shadow.st = .swapQueued → Waits (.wswap g) s .array)) ∧
    (mmacIllegal f r = true → Raises (.mmac g f) s cIllEnc r.curWord) ∧
    (mmacIllegal f r = false →
      (f.dk = 2 → r.vcount ≤ f.d.toNat → Raises (.mmac g f) s cIllEnc (BitVec.ofNat 64 f.d.toNat)) ∧
      (f.dk ≠ 2 → f.pair = false → r.vcount ≤ f.a.toNat → Raises (.mmac g f) s cIllEnc (BitVec.ofNat 64 f.a.toNat))) ∧
    (mmacIllegal f r = false → r.Has (mmacRegs f r) → r.handler = false →
      (mmacFault s s.cur f fA fB = none → Completes (.mmac g f) s (s.now (fun r =>
        { r.addOp (r.flagSel f.fs) .mmac with
          queue := r.queue ++ [⟨r.nextId, .mmac r.curWord f fA fB (r.sreg f.ss.toNat) 0 0⟩]
          mat := r.mat.use clk, arrSince := clk }))) ∧
      (mmacFault s s.cur f fA fB = some (c, x) → Raises (.mmac g f) s c x)) ∧
    (mmacIllegal f r = false → r.Has (mmacRegs f r) → r.handler = true → r.settled = true →
      ∀ i ∈ [wld, .wswap g, .mmac g f], Raises i s cMatrixFmt 2)

/-- R189, R190: a vector enters with its operands as they stand, and its 128 results are those of R181 to R183; the oldest
vector that entered is written to its accumulator entry or register group, or pushed, and its flags are added. R174, R186, R187:
a fill starts when the shadow is its own, takes a column at a time with its scale, and ends with a full shadow; at a swap point,
once the output buffer is empty, the shadow becomes active; both wait for the stoking of an array that is banked (R191). R192,
R196: what stops the array, once its output buffer is empty: a seal before its next vector, with the count of the entries left,
or an error in an operand byte, each a deferred trap; and a wait at a port that lasts csr.pwd clk while the row waits for the
array, which no other move then comes before and which a row in its handler keeps until it leaves it (R336). An array frozen by
a trap puts what it cannot push in its output buffer, and the MMAC goes on being outstanding; otherwise an MMAC completes with
its last results (R189). -/
def Obligations.VectorFlow : Prop :=
  (∀ (s : State) (n seq : Nat) (w : W64) (f : MmacF) (sA sB sc : W64) (j src : Nat) (rest : List Slot)
     (x : VecFlight) (xs : List VecFlight) (k l a : Nat),
     let r := s.row n
     let v := r.view s.drawn
     let G := r.L / 64
     let d := n / 128
     let u1 := (List.range (blockBytes f.fmt.toNat / 32)).foldl (fun s c => s.fillOperand d (blockAddr sA sB j (32 * c)) 32) s
     let u := if f.ss = 0 then u1.fillOperand d (scaleAddr sA sB j) 1 else u1
     let near (a : Nat) : W8 := u.operandByte n (if src = 0 then some seq else none) a
     let qa (k : Nat) : Int := if f.pair then blockElem f.fmt.toNat f.sa (fun b => near (blockAddr sA sB j b)) k
       else regElem v f.fmt.toNat f.sa (f.a.toNat + j / G) (j % G) k
     let ea : Nat := if f.pair ∧ f.ss = 0 then (near (scaleAddr sA sB j)).toNat else wordScale sc j
     let e := (f.d.toNat + j) % 128
     let addend (c : Nat) : Option W32 :=
       if f.nk = 1 then (r.north.entries[c / 32]?).map (fun y => tget 0 y.words (c % 32))
       else if f.nk = 2 then some (tget 0 r.ac (128 * e + c)) else none
     (s.barred n a = false → (src ≠ 0 ∨ (r.buffered seq a = none ∧ ∀ y ∈ r.landed, y.addr ≠ a) → near a = u.nearByte d a) ∧
       (src = 0 → ∀ b, r.buffered seq a = some b → near a = b) ∧ ((s.die d).far = [] → u.nearByte d a = s.byte a)) ∧
     (r.entering = ⟨seq, .mmac w f sA sB sc j src⟩ :: rest → s.vectorReady n = true → r.vgranted = true →
       ∃ t y, exec (.vectorEnter n) s = .next t ∧ (∀ m, m ≠ n → t.row m = s.row m) ∧
         (t.row n).inflight = r.inflight ++ [y] ∧ y.vals.length = 128 ∧
         (∀ c, c < 128 → y.vals.getD c 0 =
           (combined (dotProduct qa (r.active.weight c)) ea (tget 0 r.active.scales c).toNat (addend c)).1) ∧
         y.acc = (if f.dk = 0 ∨ f.dk = 3 then some e else none) ∧
         y.vdst = (if f.dk = 2 then some (f.d.toNat + j / (r.L / 128), j % (r.L / 128)) else none) ∧
         (t.row n).queue = r.queue.takeWhile Slot.spent ++ ⟨seq, .mmac w f sA sB sc (j + 1) src⟩ :: rest ∧
         (j = f.n.toNat → y.last = true) ∧ y.seq = seq ∧ y.src = src ∧
         (t.row n).north.entries = (if f.nk = 1 then r.north.entries.drop 4 else r.north.entries) ∧
         (t.row n).ac = r.ac ∧ (t.row n).v = r.v) ∧
     (r.outBuf = [] → r.inflight = x :: xs → x.last = false → x.vals.length = 128 →
       (x.push = false → ∃ t, exec (.vectorWrite n) s = .next t ∧ (∀ m, m ≠ n → t.row m = s.row m) ∧
         (t.row n).inflight = xs ∧ (t.row n).csr.mflags = r.csr.mflags ||| x.mflags ∧
         tget 0 (t.row n).ac k = (if x.acc = some (k / 128) then x.vals.getD (k % 128) 0 else tget 0 r.ac k) ∧
         (∀ y q, x.vdst = some (y, q) → l < 128 → 128 * q + l < r.L → (t.row n).vreg y (128 * q + l) = x.vals.getD l 0) ∧
         (x.vdst = none → (t.row n).v = r.v)) ∧
       (x.push = true → s.pushReady n x = true → r.sbind = .row → r.southGone = false →
         ∃ t, exec (.vectorWrite n) s = .next t ∧ (t.row n).inflight = xs ∧
           (t.row (n + 1)).north.flight = (s.row (n + 1)).north.flight ++ resultEntries x.vals) ∧
       (x.push = true → s.pushReady n x = false → r.frozen = true →
         ∃ t, exec (.vectorWrite n) s = .next t ∧ (t.row n).inflight = xs ∧ (t.row n).outBuf = outEntries x ∧
           (t.row n).queue = r.queue ∧ (t.row n).ops = r.ops ∧ ∀ m, m ≠ n → t.row m = s.row m)) ∧
     (r.outBuf = [] → r.inflight = [x] → x.last = true → x.push = false → x.src = 0 → seq = x.seq →
       r.queue = ⟨seq, .mmac w f sA sB sc j 0⟩ :: rest → (∀ q ∈ rest, q.seq ≠ seq) → ∃ t, exec (.vectorWrite n) s = .next t ∧
         (t.row n).queue = rest ∧ (t.row n).findOp seq = none) ∧
     ((resultEntries x.vals).length = 4 ∧ (k < 4 → l < 32 →
       tget 0 ((resultEntries x.vals).getD k ⟨[], 0⟩).words l = x.vals.getD (32 * k + l) 0))) ∧
  (∀ (s : State) (n id seq : Nat) (arm : ArmId) (sA sB : W64) (cols fmt col : Nat) (sgn begun : Bool) (ss : Option W64)
     (rest : List Slot) (k : Nat),
     let r := s.row n
     let d := n / 128
     let u1 := ((List.range (blockBytes fmt / 32)).map (fun c => blockAddr sA sB col (32 * c))).foldl
       (fun s a => s.fillOperand d a 32) s
     let u := if ss = none then u1.fillOperand d (scaleAddr sA sB col) 1 else u1
     let near (a : Nat) : W8 := u.operandByte n (some id) a
     let runs : Prop := r.frozen = false ∧ (s.die d).halted = false ∧ r.outBuf = []
     let asks : State := s.modRow n (Row.askMat (s.rowClk n))
     (r.entering = ⟨seq, .swap⟩ :: rest → runs → r.mat.banked = true → exec (.swapPoint n) s = .next asks) ∧
     (r.entering = ⟨seq, .swap⟩ :: rest → runs → r.mat.banked = false → ∃ t, exec (.swapPoint n) s = .next t ∧
       (t.row n).active = { r.shadow with st := .full } ∧ (t.row n).queue = r.queue.takeWhile Slot.spent ++ rest ∧
       (t.row n).shadow.st = (if r.wldWaits then .filling else .empty) ∧ (t.row n).ac = r.ac) ∧
     (r.ops = [⟨id, arm, none, .wld sA sB cols fmt sgn ss begun col⟩] →
       (begun = false → r.mat.banked = true → exec (.shadowFillStart n) s = .next asks) ∧
       (begun = false → r.mat.banked = false → r.peg = [] → r.shadow.st ≠ .swapQueued → ∃ t, exec (.shadowFillStart n) s = .next t ∧
         (t.row n).shadow = { Latch.reset with st := .filling, w := fmt + 1, sgn := sgn } ∧
         (t.row n).ops = [⟨id, arm, none, .wld sA sB cols fmt sgn ss true 0⟩] ∧ (t.row n).active = r.active) ∧
       (begun = true → col ≤ cols → r.shadow.sgn = sgn → fmt < 8 →
         r.frozen = true ∨ (∀ a m, r.mmacMeets id a m = false) → ∃ t, exec (.operationComplete n id 0 false) s = .next t ∧
         (t.row n).ops = [⟨id, arm, none, .wld sA sB cols fmt sgn ss true (col + 1)⟩] ∧
         (k < 256 → (t.row n).shadow.weight col k = blockElem fmt sgn (fun b => near (blockAddr sA sB col b)) k) ∧
         (tget 0 (t.row n).shadow.scales col).toNat =
           (match ss with | some y => wordScale y col | none => (near (scaleAddr sA sB col)).toNat) ∧
         (∀ c, c ≠ col → k < 256 → (t.row n).shadow.weight c k = r.shadow.weight c k) ∧
         (∀ a, t.byte a = u.byte a ∧ ((s.die d).far = [] → u.byte a = s.byte a))) ∧
       (begun = true → cols < col → ∃ t, exec (.operationComplete n id 0 false) s = .next t ∧ (t.row n).ops = [] ∧
         (t.row n).shadow = { r.shadow with st := .full }))) ∧
  (∀ (s : State) (n b seq : Nat) (w : W64) (f : MmacF) (sA sB sc : W64) (j src : Nat) (rest : List Slot),
     let r := s.row n
     let k := r.north.entries.length
     (r.entering = ⟨seq, .mmac w f sA sB sc j src⟩ :: rest → r.frozen = false → r.arrStop = .run → r.outBuf = [] → r.deferred = [] →
       (f.nk = 1 → k < 4 → r.sealed = true → ∃ t, exec (.arrayPortStop n none) s = .next t ∧
         t.row n = { r with arrStop := .sealMet k, deferred := [⟨cPortDrained, BitVec.ofNat 64 (256 + k)⟩] }) ∧
       (f.pair = true → blockMeets sA sB f.fmt.toNat (f.ss == 0) b 1 j = true →
         ∃ t, exec (.arrayPortStop n (some b)) s = .next t ∧
           t.row n = { r with arrStop := .ecc, deferred := [⟨cEccUncorr, BitVec.ofNat 64 b⟩] })) ∧
     (r.life = .running → (s.die (n / 128)).halted = false → r.waitsForArray = true → r.csr.pwd ≠ 0 →
       r.csr.pwd.toNat ≤ (s.rowClk n - r.waitSince).toNat → r.csr.pwd.toNat ≤ (s.rowClk n - r.arrSince).toNat →
       r.deferred = [] → ∀ c, s.arrayStalled n = some c → Move.event (.arrayWatchdog n) ∈ s.dueMoves ∧ ∃ t, exec (.arrayWatchdog n) s = .next t ∧
         (r.handler = true → (t.row n).deferred = [⟨cPortStarved, BitVec.ofNat 64 c⟩] ∧ (t.row n).life = .running ∧
           (t.row n).csr = r.csr) ∧
         (r.handler = false → r.wait = some .behind ∨ r.wait = some .queue → (t.row n).handler = true ∧
           (t.row n).csr = { r.csr with cause := cPortStarved, epc := r.arm.pc, tval := BitVec.ofNat 64 c } ∧
           (t.row n).deferred = [])) ∧
     (r.csr.pwd = 0 → exec (.arrayWatchdog n) s = .next s))

/-- R193 to R195: ACCRD, ACCWR and ACCZ reach the words of the accumulator store modulo its size, and MSTAT reads the state of
the array. R197, R198: MDRAIN writes the image of the array and MFILL loads one, or refuses it with the offset of its first
bad field; until the transfer has ended the row issues nothing, and no tile goes into its shadow; the image of an array whose
queue and output buffer are empty loads back as it was, an empty latch's tag, version, scales and weights with it. -/
def Obligations.AccumulatorAccess : Prop :=
  (∀ (s : State) (n : Nat) (e : Peg), (s.row n).transfer = true →
     Row.issues s n = false ∧ (e.side = false → s.canTake n e = false)) ∧
  (∀ (s : State) (g : Guard) (d : VReg) (a sd : SReg) (h : BitVec 2) (e f cnt : BitVec 7), (s.row s.cur).Quiet →
     (s.row s.cur).outside → (s.row s.cur).settled = true → (s.row s.cur).Has [d.toNat] → (s.row s.cur).L ≤ 1024 →
     let r := s.row s.cur
     let word (l : Nat) : Nat := (128 * e.toNat + 32 * h.toNat + 32 * ((r.sreg a.toNat).toNat % 512) + l) % 16384
     let sets (i : Instr) (p : Tbl W32 → Prop) : Prop := ∃ ac, Completes i s (s.now (fun r => { r with ac := ac })) ∧ p ac
     (r.anyActs g = true →
       WritesV (.accrd g d a h e) s s d.toNat (r.inActs g (fun l => tget 0 r.ac (word l))) ∧
       sets (.accwr g d a h e) (fun ac => (∀ l ∈ r.actLanes g, tget 0 ac (word l) = r.vreg d.toNat l) ∧
         ∀ k, (∀ l ∈ r.actLanes g, word l ≠ k) → tget 0 ac k = tget 0 r.ac k)) ∧
     (r.guardQ g = true →
       sets (.accz g f cnt) (fun ac => ∀ k, k < 16384 →
         tget 0 ac k = if (k / 128 + 128 - f.toNat) % 128 ≤ cnt.toNat then 0 else tget 0 r.ac k) ∧
       (∀ q, Completes (.mstat g sd q) s (s.now (fun r => r.setS sd.toNat (mstatVal r q))))) ∧
     mstatVal r .f1 = r.active.version ++ r.active.tag ∧ mstatVal r .f2 = r.shadow.version ++ r.shadow.tag ∧
     (r.active.w ≤ 8 → r.shadow.w ≤ 8 → let x := mstatVal r .f0
       (x.getLsbD 0 = decide (r.active.st ≠ .empty)) ∧ (x.extractLsb' 7 2).toNat = latchCode r.shadow.st ∧
       (r.active.st ≠ .empty → (x.extractLsb' 2 4).toNat = r.active.w ∧ x.getLsbD 6 = r.active.sgn) ∧
       x.getLsbD 26 = r.frozen ∧ x.getLsbD 27 = r.mat.banked)) ∧
  (∀ (s : State) (g : Guard) (a : SReg) (o : Nat) (q : Row) (k : Nat), s.ready g → (s.row s.cur).outside →
     (s.row s.cur).settled = true → (s.row s.cur).outBuf = [] → (s.row s.cur).mat.banked = false →
     let r := s.row s.cur
     let x := r.sreg a.toNat
     let get (o : Nat) : W8 := s.ownByte s.cur r.nextId (x.toNat + o)
     let drained : State := s.storeBytes s.cur r.nextId true x.toNat ((List.range 140288).map (imageByte r))
     (r.landed = [] → drained = s.setNears (s.cur / 128) x.toNat ((List.range 140288).map (imageByte r)) ∧
       get k = s.nearByte (s.cur / 128) (x.toNat + k)) ∧
     let used (r : Row) : Row := { r with mat := r.mat.use (s.rowClk s.cur), transfer := true }.matRest (s.rowClk s.cur)
     (x.toNat % 64 ≠ 0 → Raises (.mdrain g a) s cMisalign x ∧ Raises (.mfill g a) s cMisalign x) ∧
     (x.toNat % 64 = 0 → rangeFault s s.cur x 140288 = none →
       Completes (.mdrain g a) s (drained.now used) ∧
       (imageBad r get r.handler = none → Completes (.mfill g a) s ((s.loadImage s.cur get).now used)) ∧
       (imageBad r get r.handler = some o → Raises (.mfill g a) s cMatrixFmt (BitVec.ofNat 64 o))) ∧
     (q.queue = [] → q.outBuf = [] → q.wldWaits = false →
       (∀ t ∈ [q.active, q.shadow], t.held = true → 2 ≤ t.w ∧ t.w ≤ 8 ∧ t.st = .full) →
       let y := q.loadImage (imageByte q)
       imageBad q (imageByte q) false = none ∧ (k < 16384 → tget 0 y.ac k = tget 0 q.ac k) ∧
       (∀ t ∈ [(q.active, y.active), (q.shadow, y.shadow)],
         t.2.tag = t.1.tag ∧ t.2.version = t.1.version ∧ (k < 32768 → tget 0 t.2.q k = tget 0 t.1.q k) ∧
         (k < 128 → tget 0 t.2.scales k = tget 0 t.1.scales k) ∧
         (t.1.held = true → t.2.st = .full ∧ t.2.w = t.1.w ∧ t.2.sgn = t.1.sgn) ∧
         (t.1.held = false → t.2.st = .empty ∧ t.2.w = 0 ∧ t.2.sgn = false)) ∧
       y.queue = [] ∧ y.outBuf = [] ∧ y.v = q.v ∧ y.s = q.s))

/-! ### Barriers, pegs and the ring -/

/-- R306 to R310, R312, R314: BAR, BARA and BARW, TRIG and FLWAIT. R100, R101: a BAR with lanes still to come parks those that
are there, and then merges them as they go on; it diverges where they lie under different tokens, or another BAR holds parked
lanes. R312, R36: TRIG releases, marks the row, and releases the early dependants once every row of the band has triggered or
retired; a second one has no effect. Table 13-3 and R308: an arrival counts one member down and enters its value into its own
operation's combination; the last one completes the phase: every member that arrived receives the result of the operation that
it named, and the next phase expects the members that have not retired. Members that name different operations each have
their own combination: the model's choice between R308 and Table 13-5 (log entry 14). -/
def Obligations.Barriers : Prop :=
  (∀ (s : State) (g : Guard) (d b : SReg) (op : BarOp) (grp : BitVec 8) (p : Pl) (x : Group) (all : Bool)
     (mask : BitVec 12) (v : W64) (at_ : Option Va), s.ready g → (s.row s.cur).outside →
     let r := s.row s.cur
     let pc := r.arm.pc
     let found : Prop := r.pool = none ∧ s.groupOf s.cur grp.toNat = some (p, x)
     let bar := Instr.bar g d b op grp
     let bara := Instr.bara g b op grp
     let barw := Instr.barw g d grp
     let diverge (i : Instr) : Prop := Raises i s cBarDiverge (pc.setWidth 64)
     let came (a : Option Va) : State := s.draw.arrive s.cur p x op ((r.sreg b.toNat).setWidth 32) a
     let gets (u : State) (p : Pl) (x : Group) (f : Row → Row) (v : W64) : State :=
       ((u.setPl (p.setGroup (x.setSlot s.cur .idle))).acquireAt (s.cur / 128) (x.scope p)).modRow s.cur
         (fun r => (f r).setS d.toNat v)
     let all_ := x.combine op ((r.sreg b.toNat).setWidth 32)
     let result : W64 := barExtend op (tget 0 all_.red (barCode op))
     (found → x.slot s.cur = .idle →
       Completes bara s (came none) ∧ diverge barw ∧
       (r.barParked ≠ 0 → r.lastBar ≠ pc → diverge bar) ∧
       (r.barParked = 0 ∨ r.lastBar = pc →
         (r.barAbsent = true → Resumes bar s r.parkAtBar) ∧
         (r.barAbsent = false → r.barUneven = true → diverge bar) ∧
         (r.barAbsent = false → r.barUneven = false →
           (x.expected ≤ 1 → ∃ p' x', (came (some pc)).groupOf s.cur grp.toNat = some (p', x') ∧
             x'.slot s.cur = .complete result (some pc) ∧
             Completes bar s (gets (came (some pc)) p' x' Row.barMerge result)) ∧
           (2 ≤ x.expected → exec bar s = .next ((came (some pc)).waitFor s.cur .barrier))))) ∧
     (found → x.slot s.cur = .complete v at_ →
       Completes barw s (gets s p x id v) ∧ diverge bara ∧
       (at_ = some pc → Completes bar s (gets s p x Row.barMerge v)) ∧ (at_ ≠ some pc → diverge bar)) ∧
     (found → x.slot s.cur = .arrived op at_ →
       Waits barw s .barrier ∧ diverge bara ∧
       (at_ = some pc → Waits bar s .barrier) ∧ (at_ ≠ some pc → diverge bar)) ∧
     (r.pool ≠ none → ∀ i ∈ [bar, bara, barw, .trig g], Raises i s cWaveBarrier 0) ∧
     (r.pool = none → s.groupOf s.cur grp.toNat = none → ∀ i ∈ [bar, bara, barw], Raises i s cProt (grp.setWidth 64)) ∧
     (r.pool = none → r.triggered = true → Completes (.trig g) s s) ∧
     (r.pool = none → r.triggered = false →
       let u := (s.releaseAt (s.cur / 128) .device).modRow s.cur (fun r => { r with triggered := true })
       (∀ k, r.pl = some k → Completes (.trig g) s (u.releaseEarly k)) ∧ (r.pl = none → Completes (.trig g) s u)) ∧
     (r.flagsSet all mask = false → Completes (.flwait g all mask) s s) ∧
     (r.flagsSet all mask = true → Waits (.flwait g all mask) s .flags)) ∧
  (∀ (s : State) (k : Nat) (p : Pl), s.findPl k = some p → p.st = .running → p.early = false →
     ((∀ m ∈ p.band, s.member p m = true → (s.row m).triggered = true) →
       let u := s.setPl { p with early := true }
       s.releaseEarly k = u.pump ∧ u.depMet (k, true) = true ∧ u.depMet (k, false) = false) ∧
     (∀ m ∈ p.band, s.member p m = true → (s.row m).triggered = false → s.releaseEarly k = s)) ∧
  (∀ (r : Row) (o : Arm),
     let q := r.barMerge
     let at_ : Prop := q.arm.barPark = 0 ∧ q.arm.barToks = [] ∧ q.arm.pc = r.arm.pc
     (r.other = none → at_ ∧ q.arm.em = r.arm.em ||| r.arm.barPark ∧ q.arm.held = r.arm.held ∧ q.other = none ∧ q.armId = r.armId) ∧
     (r.other = some o → o.st ≠ .running → at_ ∧ q.arm.em = r.arm.em ||| r.arm.barPark ||| o.barPark ∧
       q.arm.held = r.arm.held ||| o.held ∧ q.arm.flags = r.arm.flags ||| o.flags ∧ q.other = none ∧ q.armId = .single)) ∧
  (∀ (g : Group) (o q : BarOp) (v : W32) (n m left : Nat) (at_ : Option Va),
     let run (g : Group) (q : BarOp) : W32 := tget 0 g.red (barCode q)
     (q ≠ .none → run (g.combine o v) q = barComb q (run g q) (if q = o then v else barIdent q)) ∧
     (∀ x : W32, q ≠ .none → barComb q x (barIdent q) = x) ∧
     ((g.finish left).phase = g.phase + 1 ∧ (g.finish left).expected = left ∧
       (q ≠ .none → run (g.finish left) q = barIdent q)) ∧
     (g.slot n = .arrived o at_ →
       (g.finish left).slot n = .complete (match o with
         | .none => 0 | .add => (run g .add).signExtend 64 | q => (run g q).setWidth 64) at_) ∧
     (g.slot n = .idle → (g.finish left).slot n = .idle) ∧
     (n ≠ m → (g.setSlot n (.arrived o at_)).slot m = g.slot m) ∧ (g.setSlot n (.arrived o at_)).slot n = .arrived o at_)

/-- R212 to R220, R347: PEG arms an entry, UNPEG frees entries, PEGW waits for one, PEGQ and RPOS read. The model's choice: PEG
tests the ownership of the whole range that an image may fill (log entry 30), and a freed entry keeps its tag (log entry
32). -/
def Obligations.PegInstructions : Prop :=  ∀ (s : State) (g : Guard) (a b c d : SReg) (flag i : BitVec 4) (act tag fs : Bool) (mask : BitVec 16) (f : Form3),
    s.ready g → (s.row s.cur).outside →
    let r := s.row s.cur
    let x := r.sreg a.toNat
    let t := r.sreg b.toNat
    let y := r.sreg c.toNat
    let fl := if flag.toNat < 12 then some flag.toNat else none
    let e : Peg :=
      { tag := x.setWidth 32, mask := x.extractLsb' 32 32, target := if act then t else 0, minver := y.setWidth 32
        count := (y.extractLsb' 32 8).toNat, st := .armed, side := act, flag := fl, unc := 0, arm := r.armId
        lastver := 0, fires := [] }
    let peg := Instr.peg g a b c flag act i
    let local_ : Prop := t.getLsbD 55 = true ∧ (t.extractLsb' 32 2).toNat = s.cur / 128
    ((r.pegAt i.toNat).st = .armed → Raises peg s cPegFull (i.setWidth 64)) ∧
    ((r.pegAt i.toNat).st ≠ .armed →
      (act = false ∨ (local_ ∧ t.toNat % 64 = 0 ∧ pegRange s s.cur t = none) → Completes peg s (s.now (fun r =>
        let q := (r.bare i.toNat).setPeg i.toNat e
        match fl with
        | some k => { q with arm := r.arm.setFlag k }
        | none => q))) ∧
      (act = true → ¬ local_ → Raises peg s cBounds t) ∧
      (act = true → local_ → t.toNat % 64 ≠ 0 → Raises peg s cMisalign t)) ∧
    ((∀ k < 16, mask.getLsbD k = true → (r.pegAt k).fires = []) →
      let q := ((List.range 16).filter (fun k => mask.getLsbD k)).foldl Row.freePeg r
      Completes (.unpeg g mask) s (s.now (fun _ => q)) ∧ ∀ k < 16, (q.pegAt k).st = (if mask.getLsbD k then .free else (r.pegAt k).st) ∧ (q.pegAt k).tag = (r.pegAt k).tag) ∧
    ((∃ k < 16, mask.getLsbD k = true ∧ (r.pegAt k).fires ≠ []) → Waits (.unpeg g mask) s (.pegs mask)) ∧
    Completes (.pegw g a i fs) s (s.now (fun r => r.addOp (r.flagSel fs) (.pegw i.toNat x (s.clkOf s.cur)))) ∧
    Completes (.pegq g d tag i) s (s.now (fun r => r.setS d.toNat (pegqVal (r.pegAt i.toNat) tag))) ∧
    Completes (.rpos g d f) s (s.now (fun r => r.setS d.toNat (rposVal s s.cur f)))

/-- R200 to R206: the marker and the table's entries go on the ring in order, a tile with its segment, revolution and position
in its header once the feeder has read its bytes, each as it stood at some time of the reading (R214); each item passes the dies
in order, and what all four have seen leaves the ring. R207 to R211, R218, R282: an armed entry that matches a tile takes it,
counts it as stale, or counts a miss; a fire that ends fills the shadow latch, or has written side memory; a PEGW takes the
oldest fire that none has taken, and past its limit raises a deferred trap, which no other move then comes before; R202, R205: a
station that finds a tile uncorrectable logs it, and a feeder's stall leaves idle cells in its place; a commit whose targets are
all translated has its point fixed between two reads of a tile. The model's choice: a cell's position counts the cells of its
revolution from the marker, and the watchdog's mark is the clk at which the latest marker passed the die (log entry 32); a new
revolution begins in segment 0 (log entry 69). -/
def Obligations.RingFlow : Prop :=
  (∀ (s : State) (d pa w c k j i : Nat) (rv : W32) (t : List W8),
     let g := s.job.ring
     let feeds (f : Ring → Ring) : Prop := exec (.feederInsert false) s = .next (s.modRing f)
     let x := s.die d
     let next (i : RingItem) : Prop := g.items[x.ringPos - g.base]? = some i ∧ (d = 0 ∨ x.ringPos < (s.die (d - 1)).ringPos)
     let passed (y : Die) : State := (s.setDie d { y with ringPos := y.ringPos + 1 }).modRing (fun g =>
       if d = 3 then { g with items := g.items.drop 1, base := g.base + 1 } else g)
     let z := g.reads s pa (64 * (3 + 64 * w))
     let stall (v u : State) : Prop := ∃ k, u = if k = 0 then v.draw
       else v.draw.modRing (fun g => { g with cell := g.cell + k, items := g.items ++ [.idle g.seg] })
     let ringErr (q : Nat) (y : Evt) : Prop := ∃ c, y = ringEvt (0x8000 + 16 * q + 14) i x.ringRev c
     (g.table ≠ [] → g.next = none → (g.running = false ∨ g.table.length ≤ g.pos) →
       exec .revolutionStart s = .next (s.modRing (fun g => { g with
         running := true, rev := g.rev + 1, pos := 0, seg := 0, cell := 1
         items := g.items ++ (if g.running = true ∧ g.cell % 256 ≠ 0 then [.idle g.seg] else []) ++ [.marker (g.rev + 1)] }))) ∧
     (g.running = true →
       (g.table[g.pos]? = some (.gap c) → feeds (fun g => { g with
         pos := g.pos + 1, cell := g.cell + c, got := [], items := g.items ++ [.gap g.rev g.seg g.cell c] })) ∧
       (g.table[g.pos]? = some (.segment k) → feeds (fun g => { g with pos := g.pos + 1, got := [], seg := k })) ∧
       (i < 64 * (3 + 64 * w) → z.getD i 0 = s.byte (pa + i) ∨ g.got ≠ [] ∧ z.getD i 0 = g.got.getD i 0) ∧
       (g.table[g.pos]? = some (.tile pa w) → (g.got = [] → s.stalled pa = false) → tileAt z 8 = 0 → tileW z = w →
         (∃ u, exec (.feederInsert false) s = .next u ∧ stall (s.draw.modRing (fun g => { g with got := z })) u) ∨
         ∃ wire : List W8, exec (.feederInsert false) s = .next (s.draw.modRing (fun g => { g with
             pos := g.pos + 1, cell := g.cell + (3 + 64 * w), got := []
             items := g.items ++ [.tile g.rev g.seg g.cell g.pos wire] })) ∧
           wire.drop 64 = z.drop 64 ∧ tileNum wire 0 = tileNum z 0 ∧ tileNum wire 4 = tileNum z 4 ∧ tileW wire = w ∧
           tileAt wire 8 = 0 ∧ tileAt wire 10 = tileAt z 10 ∧ tileAt wire 11 = BitVec.ofNat 8 g.seg ∧
           tileNum wire 12 = g.rev ∧ tileNum wire 16 = BitVec.ofNat 32 g.cell) ∧
       (g.table[g.pos]? = some (.tile pa w) → g.got = [] → s.stalled pa = true →
         ∃ u, exec (.feederInsert false) s = .next u ∧ stall s u)) ∧
     (d < 4 → next (.marker rv) →
       exec (.tilePass d false) s = .next (passed { x with ringRev := rv, ringSeg := 0, ringMark := x.clk })) ∧
     (d < 4 → next (.gap rv k j c) ∨ next (.idle k) →
       exec (.tilePass d false) s = .next (passed { x with ringSeg := BitVec.ofNat 8 k })) ∧
     (∀ bad, d < 4 → next (.tile rv k j i t) → s.job.rows = [] → ∃ u, exec (.tilePass d bad) s = .next u ∧
       (∀ m, u.die m = (passed { x with ringSeg := BitVec.ofNat 8 k }).die m) ∧
       u.job.ring = (passed x).job.ring ∧ u.job.rows = [] ∧
       (bad = true → ∃ y ∈ u.dev.raised, ringErr (5 + d) y) ∧
       ∀ y ∈ u.dev.raised, y ∈ s.dev.raised ∨ (bad = true ∧ ringErr (5 + d) y) ∨ (d = 0 ∧ ∃ q, 1 ≤ q ∧ q ≤ 4 ∧ ringErr q y) ∨
         (d = 3 ∧ ringErr 0 y)) ∧
     (d ≠ 0 → (s.die (d - 1)).ringPos ≤ x.ringPos → exec (.tilePass d false) s = .next s)) ∧
  (∀ (s : State) (n i id a : Nat) (t : List W8) (bad : Bool) (f : Fire) (rest : List Fire) (lim since : W64) (arm : ArmId)
     (flag : Option Nat) (b : Commit),
     let r := s.row n
     let e := r.pegAt i
     let test := (pegTest t bad n i s).row n
     let hit : Prop := e.st = .armed ∧ r.pegHeld i = false ∧ (tileNum t 0 ^^^ e.tag) &&& e.mask = 0
     let stale : Prop := (tileNum t 4).toNat < e.minver.toNat
     (¬ hit → test = r) ∧
     (hit → stale → test = { r with csr := { r.csr with pegstale := r.csr.pegstale + 1 } }) ∧
     (hit → ¬ stale → s.canTake n e = false → r.mat.banked = false →
       test = { r with csr := { r.csr with pegmiss := r.csr.pegmiss + 1 } }) ∧
     (hit → ¬ stale → bad = false → s.canTake n e = true → e.side = false →
       test = { r.setPeg i { e with count := e.count - 1, fires := e.fires ++ [⟨t, [], e.count == 1⟩] } with
         shadow := { Latch.reset with st := .filling }, mat := r.mat.use (s.rowClk n) }) ∧
     (e.fires = f :: rest → f.left = [] → ∃ u, exec (.pegFireComplete n i) s = .next u ∧
       (u.row n).pegAt i = { e with lastver := tileNum f.bytes 4, unc := min 255 (e.unc + 1), fires := rest
                                    st := if f.last then .spent else e.st } ∧
       (u.row n).shadow = (if e.side then r.shadow else if r.wldWaits then { Latch.reset with st := .filling } else tileLatch f.bytes) ∧
       (∀ m, m ≠ n → u.row m = s.row m) ∧
       (∀ x, u.byte x = s.byte x)) ∧
     (e.fires = f :: rest → f.left ≠ [] → ∃ u, ∃ k ∈ f.left, exec (.pegFireComplete n i) s = .next u ∧
       ((u.row n).pegAt i).fires = { f with left := f.left.erase k } :: rest ∧
       (u.byte a = if e.target.toNat + 8 * k ≤ a ∧ a < e.target.toNat + 8 * k + 8 then tileSide f.bytes (a - e.target.toNat)
         else s.byte a) ∧ (u.row n).landed.drop 8 = r.landed ∧
       ∀ y ∈ (u.row n).landed.take 8, y.peg = i ∧ y.ahead = e.unc ∧ y.taken = none ∧ y.old = s.byte y.addr ∧ y.new = u.byte y.addr) ∧
     (r.ops = [⟨id, arm, flag, .pegw i lim since⟩] → r.life = .running → (s.die (n / 128)).halted = false → lim ≠ 0 →
       lim.toNat ≤ (s.clkOf n - since).toNat → r.deferred = [] → i < 16 → Move.event (.ringWatchdog n i) ∈ s.dueMoves ∧
       ∃ u, exec (.ringWatchdog n i) s = .next u ∧
         u.row n = { r with ops := [⟨id, arm, flag, .pegw i lim (s.clkOf n)⟩], deferred := [⟨cRingWatchdog, BitVec.ofNat 64 i⟩] }) ∧
     (r.ops = [⟨id, arm, none, .pegw i lim since⟩] → (s.die (n / 128)).halted = false →
       (0 < e.unc ∨ e.st ≠ .armed → ∃ u, exec (.operationComplete n id 0 false) s = .next u ∧ (u.row n).ops = [] ∧
         ((u.row n).pegAt i).unc = (if e.st = .free then e.unc else e.unc - 1) ∧ ((u.row n).pegAt i).st = e.st ∧
         ∀ x, u.byte x = s.byte x) ∧
       (e.unc = 0 → e.st = .armed → exec (.operationComplete n id 0 false) s = .next s)) ∧
     (s.job.commit = some b → s.job.ring.got = [] → b.targets.length = 4 →
       exec .commitPoint s = .next (s.modJob (fun j => { j with commit := some { b with fixed := true } }))) ∧
     (s.job.commit = none ∨ s.job.ring.got ≠ [] → exec .commitPoint s = .next s) ∧
     (s.job.commit = some b → b.targets.length ≠ 4 → exec .commitPoint s = .next s))

/-- R347: with 16 CWAIT and PEGW operations outstanding, a further one waits before issue; with fewer it is issued. -/
def Obligations.WaitLimit : Prop :=  ∀ (s : State) (g : Guard) (a b : SReg) (d : BitVec 2) (n : BitVec 3) (i : BitVec 4) (fs : Bool),
    let r := s.row s.cur
    (∀ o ∈ r.ops, (∃ e k t x, o.kind = .cwait e k t x) ∨ ∃ k l c, o.kind = .pegw k l c) → r.queue = [] → r.inflight = [] →
    r.guardQ g = true → r.outside →
    (16 ≤ r.ops.length → Waits (.cwait g b d n fs) s .opLimit ∧ Waits (.pegw g a i fs) s .opLimit) ∧
    (r.ops.length < 16 →
      (∃ u, Completes (.cwait g b d n fs) s u ∧ (u.row s.cur).ops.length = r.ops.length + 1) ∧
      (∃ u, Completes (.pegw g a i fs) s u ∧ (u.row s.cur).ops.length = r.ops.length + 1))

/-! ### Copy engines, links and tasks -/

/-- R283 to R290: CTAIL in its four forms releases and changes the engine's pointers, CSEQ reads it, CWAIT waits on it, and
DESC sets a descriptor up from 128 bytes of side memory, or refuses the draft. That CTAIL.SKIP, where the record's own read
failed, takes the word that stands at its address is the model's choice (log entry 53). -/
def Obligations.EngineControl : Prop :=  ∀ (s : State) (g : Guard) (a b sd : SReg) (d : BitVec 2) (n : BitVec 3) (fs : Bool) (f : Form3) (k : Nat)
    (c : W8) (v : W64), s.ready g → (s.row s.cur).outside →
    let r := s.row s.cur
    let e := s.eng d.toNat n.toNat
    let x := r.sreg a.toNat
    let y := r.sreg b.toNat
    let rel := s.releaseAt (s.cur / 128) .device
    let put (e : Engine) : State := rel.setEng d.toNat n.toNat e
    let cleared : Engine := { e with fault := 0, failAddr := 0, failRec := 0, cmd := none }
    let near := (s.fillFor (s.cur / 128) x.toNat 64).fillFor (s.cur / 128) (x.toNat + 64) 64
    let bytes : List W8 := (List.range 128).map (fun i => near.ownByte s.cur r.nextId (x.toNat + i))
    let legal : Prop := y.extractLsb' 26 38 = 0 ∧ y.extractLsb' 12 4 = 0 ∧ (y.getLsbD 11 = true → y.getLsbD 10 = true)
    let read : Prop := x.toNat % 128 = 0 ∧
      s.firstFault s.cur 1 ((List.range 128).map (fun i => x + BitVec.ofNat 64 i)) = none
    let desc := Instr.desc g a b
    Completes (.ctail g a d n) s (put (e.issued s.cur r x)) ∧ (e.issued s.cur r x).tail = x ∧ (e.issued s.cur r x).byRow = s.cur ∧
    (e.fault = 0 → Completes (.ctailRetry g d n) s rel ∧ Completes (.ctailSkip g d n) s rel) ∧
    (e.fault ≠ 0 → Completes (.ctailRetry g d n) s ((put cleared).untell d.toNat n.toNat) ∧
      ∃ h : W64, (∀ c, e.cmd = some c → h = c.word 1) ∧
        (e.cmd = none → sideFault e.head = none → h = rel.w64 (e.head.toNat + 8)) ∧
        Completes (.ctailSkip g d n) s ((put { e.goTo h with
          fault := 0, failAddr := 0, failRec := 0, cmd := none, seq := e.seq + 1 }).untell d.toNat n.toNat)) ∧
    (e.idle = true → e.fault = 0 → Completes (.ctailStart g a b d n) s (put ({ e with head := y, tail := y }.issued s.cur r x))) ∧
    ((e.idle = false ∨ e.fault ≠ 0) → exec (.ctailStart g a b d n) s =
      .next ((s.draw.releaseAt (s.cur / 128) .device).trapHere s.cur cCopyFault 0x200)) ∧
    Completes (.cseq g sd f d n) s (s.now (fun r => r.setS sd.toNat (cseqVal e f))) ∧
    (e.fault = 0 → Completes (.cwait g b d n fs) s (s.now (fun r =>
      r.addOp (r.flagSel fs) (.cwait d.toNat n.toNat (y.setWidth 48) false)))) ∧
    (x.toNat % 128 ≠ 0 → Raises desc s cMisalign x) ∧
    (read → ¬ legal → Raises desc s cCopyFault 0x103) ∧
    (read → legal → draftBad bytes (draftOf bytes y) = some k → Raises desc s cCopyFault (BitVec.ofNat 64 k)) ∧
    (read → legal → draftBad bytes (draftOf bytes y) = none → s.draw.descFault (draftOf bytes y) = none →
      ∃ u, Completes desc s u ∧ u.desc (y.extractLsb' 0 10).toNat = draftOf bytes y ∧ (∀ z, u.byte z = s.byte z) ∧
        (∀ h, h ≠ (y.extractLsb' 0 10).toNat → u.desc h = s.desc h) ∧ (∀ m, u.row m = s.row m)) ∧
    (read → legal → draftBad bytes (draftOf bytes y) = none → s.draw.descFault (draftOf bytes y) = some (c, v) →
      exec desc s = .next (s.draw.draw.trapHere s.cur c v))

/-- R276 to R279, R284, R285: one piece of work of COPY, FILL, TILE, TRANSPOSE and GATHER in unchecked side memory: the bytes
of the piece arrive, no other byte changes, and the command goes on by the piece, or has written its data. R249, R287: pieces of
FILL that lie in one aligned 8-byte unit are written together. R276 to R282, R287, R292: a command starts from the record at the
head, and its end counts it and goes on to the next record; NOP, BUFFER SET-UP, the circular-buffer commands, the follow-on MMAC
and PAIRED COMMIT. The model's choice: a piece is of 8 bytes at most, one in each move, in ascending order of the traversal,
where R279 allows other orders (log entry 22). -/
def Obligations.Engines : Prop :=
  (∀ (s : State) (d e : Nat) (c : Cmd) (k : Nat),
     let g := s.eng d e
     let runs (kind : Nat) : Prop := g.cmd = some c ∧ g.fault = 0 ∧ (s.die d).halted = false ∧ c.phase = 0 ∧ c.kind = kind
     let reachable (a : W64) (n : Nat) : Prop := ∀ i, i < n → sideFault (a + BitVec.ofNat 64 i) = none ∧
       s.checked (a + BitVec.ofNat 64 i).toNat = false
     let key (a : W64) (i : Nat) : Nat := (a + BitVec.ofNat 64 i).toNat
     let wrote (i : Instr) (a : W64) (n : Nat) (f : Nat → W8) (next : Cmd) : Prop := ∃ t, exec i s = .next t ∧
       (∀ j, j < n → t.byte (key a j) = f j) ∧ (∀ z, (∀ j, j < n → key a j ≠ z) → t.byte z = s.byte z) ∧
       (t.eng d e).cmd = some next ∧ (t.eng d e).seq = g.seq ∧ (t.eng d e).head = g.head ∧ (∀ m, t.row m = s.row m)
     let p := c.from_
     let q := c.into
     let i := q.idx (c.pos / q.pieces)
     let o := q.piece * (c.pos % q.pieces)
     let dst := q.byteAddr i o
     let unit (k : Nat) : W64 := q.pieceAddr k >>> 3
     let alone : Prop := q.work ≤ c.pos + 1 ∨ unit (c.pos + 1) ≠ unit c.pos
     let more (c : Cmd) : Cmd := { c with pos := c.pos + 1, phase := if q.work ≤ c.pos + 1 then 1 else 0 }
     let moves (j : Instr) (src : List Nat) (c' : Cmd) : Prop :=
       let a := p.byteAddr src o
       reachable a q.piece → wrote j dst q.piece (fun b => s.byte (key a b)) (more c')
     (runs 1 →
       let a := c.word 3 + BitVec.ofNat 64 c.pos
       let b := c.word 2 + BitVec.ofNat 64 c.pos
       let n := min (8 - a.toNat % 8) ((c.word 4).toNat - c.pos)
       reachable a n → reachable b n → wrote (.copy d e false) a n (fun j => s.byte (key b j))
         { c with pos := c.pos + n, phase := if (c.word 4).toNat ≤ c.pos + n then 1 else 0 }) ∧
     (runs 5 → alone → reachable dst q.piece →
       wrote (.fill d e) dst q.piece (fun j => (fillBytes q.fmt (c.word 3) o q.piece).getD j 0) (more c)) ∧
     (runs 5 → 1 ≤ k → k ≤ 8 → c.pos + k ≤ q.work →
       (∀ j < k, unit (c.pos + j) = unit c.pos ∧ reachable (q.pieceAddr (c.pos + j)) q.piece) →
       (k = 8 ∨ c.pos + k = q.work ∨ unit (c.pos + k) ≠ unit c.pos) →
       let at_ (j b : Nat) : Nat := key (q.pieceAddr (c.pos + j)) b
       ∃ t, exec (.fill d e) s = .next t ∧
         (t.eng d e).cmd = some { c with pos := c.pos + k, phase := if q.work ≤ c.pos + k then 1 else 0 } ∧
         (∀ z, (∀ j < k, ∀ b < q.piece, at_ j b ≠ z) → t.byte z = s.byte z) ∧
         ∀ j < k, ∀ b < q.piece, (∀ h < k, ∀ b' < q.piece, at_ h b' = at_ j b → h = j ∧ b' = b) →
           t.byte (at_ j b) = (fillBytes q.fmt (c.word 3) (q.piece * ((c.pos + j) % q.pieces)) q.piece).getD b 0) ∧
     (alone → reachable dst q.piece →
       (q.isInner i = true →
         (runs 2 → moves (.tile d e false) ((List.range 5).map (fun k => i.getD k 0 - q.lo k)) c) ∧
         (runs 4 → moves (.transpose d e false) ((List.range 5).map (fun k =>
           ((List.range 5).map (fun j => if permOf (c.word 3) j = k then i.getD j 0 - q.lo j else 0)).sum)) c) ∧
         (runs 3 → (c.pos % q.pieces ≠ 0 ∨ ∃ j < 4, i.getD j 0 ≠ q.lo j) → moves (.gather d e false)
           ((List.range 5).map (fun k => if k = 4 then c.fill else i.getD k 0 - q.lo k)) c)) ∧
       (q.isInner i = false →
         (runs 2 → wrote (.tile d e false) dst q.piece
           (fun j => (fillBytes q.fmt (q.pad.setWidth 64) o q.piece).getD j 0) (more c)) ∧
         (runs 4 → wrote (.transpose d e false) dst q.piece
           (fun j => (fillBytes q.fmt (q.pad.setWidth 64) o q.piece).getD j 0) (more c)))) ∧
     (q.isInner i = true ↔ ∀ k, k < 5 → q.lo k ≤ i.getD k 0 ∧ i.getD k 0 < q.sz k - q.hi k) ∧
     (0 < q.sz 0 → 0 < q.sz 1 → 0 < q.sz 2 → 0 < q.sz 3 → 0 < q.sz 4 → k < q.total →
       let x := q.idx k
       (x.getD 0 0 + q.sz 0 * (x.getD 1 0 + q.sz 1 * (x.getD 2 0 + q.sz 2 * (x.getD 3 0 + q.sz 3 * x.getD 4 0))) = k) ∧
       ∀ j, j < 5 → x.getD j 0 < q.sz j)) ∧
  (∀ (s : State) (d e : Nat) (c : Cmd) (f : MmacF) (i : Nat),
     let g := s.eng d e
     let live : Prop := g.fault = 0 ∧ (s.die d).halted = false
     let runs (kind : Nat) : Prop := g.cmd = some c ∧ live ∧ c.phase = 0 ∧ c.kind = kind
     let rec_ : List W8 := (List.range 128).map (fun i => s.byte (g.head + BitVec.ofNat 64 i).toNat)
     let w (i : Nat) : W64 := BitVec.ofNat 64 (leVal ((rec_.drop (8 * i)).take 8))
     let k := (w 0).toNat % 256
     let fresh : Cmd := ⟨tabulate 0 16 w, if usesSrc k then some (s.desc (srcHandle w)) else none,
       if usesDst k then some (s.desc (dstHandle w)) else none, 0, 0, none, 0, false, [], [], 0, [], []⟩
     let b := (c.word 3).toNat % 64
     let cb := s.buf d b
     let at_ (c : Cmd) : Engine := { g with cmd := some c }
     (live → g.idle = false → g.cmd = none → g.head.toNat % 128 = 0 → (s.die d).far = [] →
       (∀ i, i < 128 → sideFault (g.head + BitVec.ofNat 64 i) = none ∧ s.checked (g.head + BitVec.ofNat 64 i).toNat = false) →
       ∃ t, exec (.engineCommandStart d e false) s = .next t ∧ (∀ z, t.byte z = s.byte z) ∧
         (startFault s d w (s.desc (srcHandle w)) (s.desc (dstHandle w)) = none → t.eng d e = at_ fresh) ∧
         (∀ x, startFault s d w (s.desc (srcHandle w)) (s.desc (dstHandle w)) = some x →
           t.eng d e = { at_ fresh with fault := x, failAddr := 0, failRec := g.head })) ∧
     (g.cmd = some c → live → c.fo = false → c.phase = 1 → ∃ t, exec (.engineCommandComplete d e) s = .next t ∧
       t.eng d e = { g.goTo (c.word 1) with cmd := none, seq := g.seq + 1 } ∧ (g.goTo (c.word 1)).head = c.word 1 ∧ (∀ m, t.row m = s.row m)) ∧
     (runs 0 → exec (.nopCommand d e) s = .next (s.draw.setEng d e (at_ { c with pos := c.pos + 1, phase := 1 }))) ∧
     (runs 9 → s.bufBusy d ((c.word 4).toNat % 64) = true → ∃ t, exec (.bufferSetUp d e) s = .next t ∧
       ∃ u, t.eng d e = { g with cmd := some { c with undo := u }, fault := 10, failAddr := 0, failRec := g.head }) ∧
     (runs 9 → s.bufBusy d ((c.word 4).toNat % 64) = false → ∃ t, exec (.bufferSetUp d e) s = .next t ∧ (t.eng d e).cmd = some { c with pos := c.pos + 1, phase := 1 } ∧
       t.buf d ((c.word 4).toNat % 64) =
         ⟨c.word 2, (c.word 3).toNat % 2 ^ 17, (c.word 3).toNat / 2 ^ 32 % 512, [], [], 0, 0, false, true⟩) ∧
     (runs 7 → c.slot = none → s.bufBad d b true = false → cb.slot cb.p = .free → ∃ t,
       exec (.edgeFeed d e false) s = .next t ∧ (t.eng d e).cmd = some { c with slot := some cb.p, fill := 0 } ∧
       (t.buf d b).slot cb.p = .held) ∧
     (runs 7 → c.slot = none → s.bufBad d b true = false → cb.slot cb.p ≠ .free → exec (.edgeFeed d e false) s = .next s.draw) ∧
     (runs 8 → c.pos / c.into.E ≤ c.into.lastInner → c.slot = none → s.bufBad d b false = false →
       (cb.atEnd = true → ∃ t, exec (.edgeDrain d e) s = .next t ∧ (t.eng d e).cmd = some { c with phase := 1 }) ∧
       (cb.slot cb.c = .filled → ∃ t, exec (.edgeDrain d e) s = .next t ∧
         (t.eng d e).cmd = some { c with slot := some cb.c, fill := 0 } ∧ (t.buf d b).slot cb.c = .taken)) ∧
     (runs 6 → s.job.commit = none → exec (.pairedCommit d e false) s =
       .next (s.draw.modJob (fun j => { j with commit := some ⟨d, e, [], [], false⟩ }))) ∧
     (g.cmd = some c → live → c.fo = true → c.phase = 1 → ∀ gd, decode (c.word 12) = .ok (.mmac gd f) →
       let r := s.row c.row
       r.life ≠ .idle → mmacIllegal f r = false → r.Has (mmacRegs f r) →
       mmacFault s c.row f (c.word 13) (c.word 14) = none → r.queue.length < 4 →
       ∃ t, exec (.followOnMmac d e) s = .next t ∧ (t.eng d e).cmd = some { c with phase := 2 } ∧
         (t.row c.row).queue = r.queue ++ [⟨r.nextId, .mmac (c.word 12) f (c.word 13) (c.word 14) (c.word 15) 0 (e + 1)⟩] ∧
         (i ≠ c.row → t.row i = s.row i)))

/-- R359 to R361: a link command checks its record, waits for a place at the link engine that owns its ports, and announces
itself to each of its peers, or faults; it waits until each has announced itself, and faults with cause 14 where one differs.
R360 to R367: the data of a command whose peers have started. SEND reads 64 bytes or a block of 1,024 and sends them; RECV takes
what has arrived; a REDUCE-STEP adds the partial block to its own and sends it on; XOR-REDUCE combines its contributors' bytes;
ALLREDUCE passes the block of another's chunk on; and what a command has received is written 8 bytes at a time. R369: a command
that faults tells every member that it reaches, and with it fault the device's other commands of its communicator and tag; an
abort faults the commands that bear its communicator and tag; row 0's north port seals as its link goes down. R361: a message of
a command that an abort has ended is dropped. R24 to R27, R156, R357: a link takes the cell whose CRC and number are right into
a free buffer of its channel, asks once for a replay of one that fails, counts the failures of one number, and fails at the
sixteenth: an external port goes down, a link inside the package is fatal. A replay request gives up the copies that have
arrived; a credit report returns buffers. Two cells make a chain entry, in order, and the cells that one end makes of an entry
are that entry at the other; a seal passes as a cell of its own (R166). The model's choice: what the cells of messages, of a
seal, of a credit report and of a replay request hold, and that these two take no buffer (log entry 24); how commands and
announcements meet, and the serial numbers (log entry 36). -/
def Obligations.Links : Prop :=
  (∀ (s : State) (d e : Nat) (c : Cmd) (i : Instr) (kind : Nat) (x : Msg) (r : Nat × Bool),
     (i, kind) ∈ [(Instr.send d e false, 0x10), (.recv d e, 0x11), (.reduceStep d e false, 0x12),
       (.xorReduce d e false, 0x13), (.allreduce d e false, 0x14)] →
     let g := s.eng d e
     let m := s.comm c.comm
     let k := s.job.linkStarts
     let aborts (ser : Nat) : List Msg := m.reach.map (fun r => ⟨c.comm, r, c.tag, 4, kind, c.bytes, m.rank, [], 1, ser⟩)
     let faults (f ser : Nat) (p : State → Prop) : Prop := ∃ t u, exec i s = .next t ∧
       t.eng d e = { g with cmd := some { c with undo := u }, fault := f, failAddr := 0, failRec := g.head } ∧
       t.job.linkTx = s.job.linkTx ++ aborts ser ∧ (∀ a, t.byte a = s.byte a) ∧ p t
     let same (x : Cmd) : Bool := x.comm == c.comm && x.tag == c.tag
     g.cmd = some c → g.fault = 0 → (s.die d).halted = false → c.phase = 0 → c.kind = kind →
     (∀ f, c.fill = 0 → linkFault s c = some f → ∀ y ∈ linkCmds s same, ∃ t, exec i s = .next t ∧ (t.eng y.1 y.2.1).fault ≠ 0) ∧
     ((∀ y ∈ linkCmds s same, y.1 = d ∧ y.2.1 = e) →
     (c.fill = 0 → linkFault s c = none →
       (s.linkBusy c = true → exec i s = .next s.draw) ∧
       (s.linkBusy c = false → ∃ t, exec i s = .next t ∧ (t.eng d e).cmd = some { c with fill := 1, ser := k } ∧
         t.job.linkStarts = k + 1 ∧
         t.job.linkTx = s.job.linkTx ++ (c.roles m).map (fun r => ⟨c.comm, r.1, c.tag, 0, kind, c.bytes, c.also m, [], 0, k⟩) ∧
         (∀ a, t.byte a = s.byte a) ∧ ∀ n, t.row n = s.row n)) ∧
     (∀ f, c.fill = 0 → linkFault s c = some f → faults f k (fun t => t.job.linkStarts = k + 1)) ∧
     (c.fill = 1 → (∀ r ∈ c.roles m, s.pathUp (m.mask r.1) = true) → c.roles m = [r] →
       (s.linkBehind c = true → exec i s = .next s.draw) ∧
       (s.linkBehind c = false →
         (s.partner c r = none → exec i s = .next s.draw) ∧
         (s.partner c r = some x → agrees c m r x = true → ∃ t, exec i s = .next t ∧
           (t.eng d e).cmd = some { c with fill := 2, mates := [(r.1, x.ser)] } ∧ t.job.linkRx = s.job.linkRx.erase x) ∧
         (s.partner c r = some x → agrees c m r x = false → faults 14 c.ser (fun t => t.job.linkRx = s.job.linkRx.erase x)))) ∧
     (c.fill ≠ 0 → c.roles m = [r] → s.pathUp (m.mask r.1) = false → faults 12 c.ser (fun _ => True)))) ∧
  (∀ (s : State) (d e : Nat) (c : Cmd) (q p : List W8) (x y n a : Nat),
     let g := s.eng d e
     let m := s.comm c.comm
     let runs (kind : Nat) : Prop := g.cmd = some c ∧ g.fault = 0 ∧ (s.die d).halted = false ∧ c.phase = 0 ∧ c.kind = kind ∧
       c.fill = 2 ∧ ∀ r ∈ c.roles m, s.pathUp (m.mask r.1) = true
     let side (a : W64) (n : Nat) : Prop := ∀ i, i < n → sideFault (a + BitVec.ofNat 64 i) = none ∧
       s.checked (a + BitVec.ofNat 64 i).toNat = false
     let got (a : W64) (n : Nat) : List W8 := (List.range n).map (fun i => s.byte (a + BitVec.ofNat 64 i).toNat)
     let src := c.word 2 + BitVec.ofNat 64 c.pos
     let n64 := min 64 (c.bytes - c.pos)
     let pass (n : Nat) : Cmd := { c with pos := c.pos + n, phase := if c.bytes ≤ c.pos + n then 1 else 0 }
     let cells (ser peer kind b : Nat) (x : Nat × List W8) : List Msg := (List.range 4).map (fun i =>
       ⟨c.comm, peer, c.tag, kind, c.kind, c.bytes, 4 * b + i, (x.2.drop (64 * i)).take 64,
         if i = 0 then BitVec.ofNat 32 x.1 else 0, ser⟩)
     let gives (peer : Nat) (x : Nat × List W8) : List Msg := cells c.ser peer 2 (c.pos / 1024) x
     let sent (i : Instr) (l : List Msg) (n : Nat) : Prop := ∃ t, exec i s = .next t ∧ t.job.linkTx = s.job.linkTx ++ l ∧
       (t.eng d e).cmd = some (pass n) ∧ ∀ a, t.byte a = s.byte a
     let kept (i : Instr) (b h : List W8) : Prop := ∃ t, exec i s = .next t ∧ t.job.linkTx = s.job.linkTx ∧
       (t.eng d e).cmd = some { c with buf := b, held := h } ∧ ∀ a, t.byte a = s.byte a
     let expands (i : Instr) (x : Nat × List W8) : Prop := kept i (valBytes (expBlock x.1 x.2)) (BitVec.ofNat 8 x.1 :: x.2)
     let own := blockVals (got src 1024)
     let cell (peer : Nat) (p : List W8) : Prop :=
       s.job.linkRx = [⟨c.comm, peer, c.tag, 1, c.kind, c.bytes, c.pos / 64, p, 0, c.mate peer⟩]
     let block (kind : Nat) (x : Nat × List W8) : Prop :=
       s.job.linkRx = cells (c.mate m.prev) m.prev kind (c.pos / 1024) x ∧ x.1 < 256 ∧ x.2.length = 256
     let dst := c.word 3 + BitVec.ofNat 64 (c.pos % c.bytes)
     let put := min 8 c.buf.length
     (c.buf = [] →
       (runs 0x10 → c.packed = false → side src n64 → sent (.send d e false)
         [⟨c.comm, c.peer, c.tag, 1, c.kind, c.bytes, c.pos / 64, got src n64, 0, c.ser⟩] n64) ∧
       (runs 0x10 → c.packed = true → side src 1024 → sent (.send d e false) (gives c.peer (cmpBlock own)) 1024) ∧
       (runs 0x11 → c.packed = false → cell c.peer p → p.length = 64 → kept (.recv d e) (p.take n64) c.held) ∧
       (runs 0x11 → c.packed = true → c.peer = m.prev → block 2 (x, q) → expands (.recv d e) (x, q)) ∧
       (runs 0x11 → s.job.linkRx = [] → exec (.recv d e) s = .next s.draw) ∧
       (runs 0x12 → side src 1024 → c.last = false →
         (c.first = true → sent (.reduceStep d e false) (gives m.next (cmpBlock own)) 1024) ∧
         (c.first = false → block 2 (x, q) →
           sent (.reduceStep d e false) (gives m.next (cmpBlock (addVals (expBlock x q) own))) 1024)) ∧
       (runs 0x12 → side src 1024 → c.last = true → c.first = false → block 2 (x, q) →
         expands (.reduceStep d e false) (cmpBlock (addVals (expBlock x q) own))) ∧
       (runs 0x13 → m.rank ≠ c.holder m → side src n64 → sent (.xorReduce d e false)
         [⟨c.comm, c.holder m, c.tag, 1, c.kind, c.bytes, c.pos / 64, got src n64, 0, c.ser⟩] n64) ∧
       (runs 0x13 → m.rank = c.holder m → c.contribs m = [m.rank, y] → y ≠ m.rank → side src n64 → cell y p →
         kept (.xorReduce d e false) ((List.range n64).map (fun i => (got src n64).getD i 0 ^^^ p.getD i 0)) c.held) ∧
       (runs 0x14 → 1024 ≤ c.bytes → c.pos < c.bytes → side src 1024 → c.sources = [c.word 2] → chunkPlace c m (c.pos / 1024) < m.n - 1 →
         let z := if chunkPlace c m (c.pos / 1024) = 0 then own else addVals (expBlock x q) own
         (chunkPlace c m (c.pos / 1024) = 0 ∨ block 2 (x, q)) →
         ∃ t, exec (.allreduce d e false) s = .next t ∧ t.job.linkTx = s.job.linkTx ++ gives m.next (cmpBlock z) ∧
           (t.eng d e).cmd = some { c with pos := c.pos + 1024 } ∧ ∀ a, t.byte a = s.byte a)) ∧
     (c.buf ≠ [] → side dst put → runs 0x11 → ∃ t, exec (.recv d e) s = .next t ∧
       (∀ i, i < put → t.byte (dst + BitVec.ofNat 64 i).toNat = c.buf.getD i 0) ∧
       ((∀ i, i < put → (dst + BitVec.ofNat 64 i).toNat ≠ a) → t.byte a = s.byte a) ∧
       (t.eng d e).cmd = some { pass put with buf := c.buf.drop put }) ∧
     (c.buf ≠ [] → c.buf.length ≤ 8 → side dst put → runs 0x12 → c.bcast = true → c.held = BitVec.ofNat 8 x :: q → x < 256 →
       ∃ t, exec (.reduceStep d e false) s = .next t ∧
         t.job.linkTx = s.job.linkTx ++ cells c.ser m.next 3 ((c.pos + put) / 1024 - 1) (x, q)) ∧
     ((blockVals (got (c.word 2) 1024)).length = 256 ∧
       (n < 256 → (blockVals (got (c.word 2) 1024)).getD n 0 = leVal (got (c.word 2 + BitVec.ofNat 64 (4 * n)) 4)))) ∧
  (∀ (s : State) (comm tag d e : Nat) (c : Cmd),
     let m := s.comm comm
     let k := s.job.linkStarts
     let hit := linkCmds s (fun c => c.comm == comm && c.tag.toNat == tag)
     let g := s.eng d e
     let tells (cause : Nat) : Prop := ∃ t u, exec (.linkAbort comm tag) s = .next t ∧
       t.eng d e = { g with cmd := some { c with undo := u }, fault := cause, failAddr := 0, failRec := g.head } ∧
       ∀ y ∈ t.job.linkRx, y.comm ≠ comm ∨ y.tag.toNat ≠ tag
     ((comm, tag, m.rank, k) ∉ s.job.aborts →
       (hit = [(d, e, c)] → g.cmd = some c →
         (c.fill ≠ 1 ∨ (∀ r ∈ c.roles m, ∀ y, s.partner c r = some y → agrees c m r y = true) → tells 12) ∧
         (c.fill = 1 → (∃ r ∈ c.roles m, ∃ y, s.partner c r = some y ∧ agrees c m r y = false) → tells 14)) ∧
       (hit = [] → tag < 2 ^ 32 → ∃ t, exec (.linkAbort comm tag) s = .next t ∧ (∀ d e, t.eng d e = s.eng d e) ∧
         t.job.linkTx = s.job.linkTx ++ (m.reach.map (fun r => ⟨comm, r, BitVec.ofNat 32 tag, 4, 0, 0, m.rank, [], 1, k⟩)) ∧
         t.job.linkRx = s.job.linkRx.filter (fun y => !(y.comm == comm && y.tag.toNat == tag))))) ∧
  (∀ (s : State) (p i a b k q : Nat) (c h : Cell) (n : BitVec 16) (v : List Nat),
     let x := s.port p
     let vc := (c.tag.extractLsb' 0 2).toNat
     let on : Prop := x.up = true ∨ 16 ≤ p
     let whole : Prop := c.crc = Config.crc24 c.payload c.tag ∧ c.tag.extractLsb' 9 7 = 0
     let mine : Prop := c.tag.extractLsb' 16 16 = x.rxSeq
     let cell := exec (.adyanCell p c) s
     let replay := exec (.replay p n) s
     let told (f : State → Prop) : Prop := ∃ t, cell = .next t ∧ (t.port p).rxSeq = x.rxSeq + 1 ∧ (t.port p).rxFails = 0 ∧
       (t.port p).asked = false ∧ f t
     let takes (f : State → Prop) : Prop := told (fun t => tget 0 (t.port p).room vc = tget 0 x.room vc - 1 ∧ f t)
     (¬ on → cell = .next s ∧ replay = .next s) ∧
     (on → ¬ (whole ∧ mine) →
       (x.asked = true → ¬ mine → cell = .next s) ∧
       (x.asked = false ∨ mine →
         (x.rxFails < 15 → cell = .next (s.setPort p { x with rxFails := x.rxFails + 1, asked := true, ask := true })) ∧
         (15 ≤ x.rxFails → cell = .next (s.linkFails p)))) ∧
     (whole → mine → 16 ≤ p → told (fun _ => True)) ∧
     (x.up = true → whole → mine → p < 16 → tagTraffic vc c = false → tget 0 x.room vc = 0 → cell = .next s) ∧
     (x.up = true → whole → mine → p < 16 → tget 0 x.room vc ≠ 0 →
       (vc ≠ 2 → tagTraffic vc c = false → c.tag.getLsbD 8 = false → takes (fun t => tget [] (t.port p).parts vc = tget [] x.parts vc ++ [c])) ∧
       (vc < 2 → c.tag.getLsbD 8 = true → tget [] x.parts vc = [] → v.length = 8 → Config.cellNums c.tag c.payload = v →
         let ended : Prop := v.getD 3 0 ≠ 5 ∧ (v.getD 0 0, (BitVec.ofNat 32 (v.getD 2 0)).toNat, v.getD 1 0, v.getD 7 0) ∈ s.job.aborts
         (ended → takes (fun t => t.job.linkRx = s.job.linkRx)) ∧
         (¬ ended → takes (fun t => t.job.linkRx = s.job.linkRx ++ [⟨v.getD 0 0, v.getD 1 0, BitVec.ofNat 32 (v.getD 2 0), v.getD 3 0,
           v.getD 4 0, v.getD 5 0, v.getD 6 0, (List.range 64).map (fun i => c.payload.extractLsb' (8 * i) 8),
           c.tag.extractLsb' 32 32, v.getD 7 0⟩]))) ∧
       (vc = 2 → (s.row 0).north.sealAt ≠ .none → (s.row 0).life ≠ .idle →
         takes (fun t => (t.port p).chainIn = x.chainIn ++ [c] ∧ t.row 0 = s.row 0)) ∧
       (vc = 2 → (s.row 0).nbind = .link p → tget false s.job.saved 0 = false → (s.row 0).life ≠ .idle →
         s.job.chainOld = [] → (s.row 0).north.sealAt = .none →
         (c.tag.extractLsb' 2 6 ≠ Config.sealKind → x.chainIn = [] →
           takes (fun t => (t.port p).chainIn = (if c.tag.getLsbD 8 then [] else [c]) ∧ t.row 0 = s.row 0)) ∧
         (x.chainIn = [h] → h.tag.extractLsb' 2 6 ≠ Config.sealKind → h.tag.getLsbD 8 = false →
           (s.row 0).north.entries.length + (s.row 0).north.flight.length < 128 →
           takes (fun t => (t.port p).chainIn = [] ∧ (t.row 0).north.flight = (s.row 0).north.flight ++
             [⟨tabulate 0 32 (fun i => (cellWords h ++ cellWords c).getD i 0), h.tag.extractLsb' 32 32⟩])) ∧
         (c.tag.extractLsb' 2 6 = Config.sealKind → x.chainIn = [] →
           takes (fun t => (t.port p).chainIn = [] ∧ (t.row 0).north.sealAt = .flying ∧
             (t.row 0).north.flight = (s.row 0).north.flight)))) ∧
     (x.up = true → whole → mine → p < 16 → vc = 3 → Config.cellNums c.tag c.payload = [1, q, a, b, i, k] → told (fun t =>
       (t.port p).room = x.room ∧ ∀ w < 4, tget 0 (t.port p).credit w = tget 0 x.credit w + [a, b, i, k].getD w 0)) ∧
     (x.copies.findIdx? (fun c => c.tag.extractLsb' 16 16 == n) = some i → 0 < i →
       x.acked n = { x with copies := x.copies.drop i, txFails := 0 }) ∧
     (on → x.copies.findIdx? (fun c => c.tag.extractLsb' 16 16 == n) = some i →
       (0 < i → replay = .next (s.setPort p { x with copies := x.copies.drop i, txFails := 1 })) ∧
       (i = 0 → x.txFails < 15 → replay = .next (s.setPort p { x with txFails := x.txFails + 1 })) ∧
       (i = 0 → 15 ≤ x.txFails → replay = .next (s.linkFails p))) ∧
     (16 ≤ p → s.linkFails p = { s with agenda := .event (.fatal 2) :: s.agenda }) ∧
     (p < 16 → ((s.linkFails p).port p).up = false ∧
       ((s.row 0).nbind ≠ .link p → (s.linkFails p).port p = { x with up := false }) ∧
       ((s.row 0).nbind = .link p → tget false s.job.saved 0 = false → (s.row 0).life ≠ .idle → s.job.chainOld = [] →
         x.chainIn = [] → (s.row 0).north.sealAt = .none → ((s.linkFails p).row 0).north.sealAt = .flying ∧
           ((s.linkFails p).row 0).north.flight = (s.row 0).north.flight) ∧
       ∀ k, k ≠ p → (s.row 0).nbind ≠ .link k → (s.linkFails p).port k = s.port k)) ∧
  (∀ (e : PEntry) (m n : BitVec 16) (x y : Cell), chainCells e = [x, y] →
     entryOf (numberCell x m) (numberCell y n) = ⟨tabulate 0 32 (fun i => tget 0 e.words i), e.valid⟩ ∧
     (numberCell x m).tag.extractLsb' 16 16 = m ∧ (numberCell x m).tag.extractLsb' 0 2 = 2 ∧
     (numberCell x m).crc = Config.crc24 (numberCell x m).payload (numberCell x m).tag) ∧
  (∀ (s : State) (p : Nat) (e : PEntry) (rest : List PEntry),
     let x := s.port p
     (s.job.chainOut = e :: rest → x.may p 2 2 = true →
       ((State.sendChain p 1 s).port p).copies = x.copies ++ ((chainCells e).zip [x.txSeq, x.txSeq + 1]).map (fun y => numberCell y.1 y.2) ∧
       (State.sendChain p 1 s).job.chainOut = rest) ∧
     (s.job.chainOut ≠ [] → x.may p 2 2 = false → State.sendChain p 1 s = s) ∧
     (s.job.chainOut = [] → s.job.chainSeal = true → x.may p 2 1 = true →
       ((State.sendChain p 1 s).port p).copies = x.copies ++ [numberCell (cellOf 2 Config.sealKind true 0 0) x.txSeq] ∧
       (State.sendChain p 1 s).job.chainSeal = false))

/-- R329, R330: TARG reads a word of each acting lane's task record, and no other lane, flag or register changes; TEND ends
the wave, as EXIT does; in a row that is not a pool row both raise PROT with csr.tval = 0, TARG whatever em holds, provided
its guard holds in some lane. -/
def Obligations.WaveInstructions : Prop :=  ∀ (s : State) (g : Guard) (d : VReg) (k : BitVec 4), (s.row s.cur).Quiet → (s.row s.cur).outside →
    (s.row s.cur).L ≤ 1024 → (s.row s.cur).Has [d.toNat] →
    let r := s.row s.cur
    (r.pool ≠ none → r.anyActs g = true →
      WritesV (.targ g d k) s s d.toNat (r.inActs g (fun l => (tget .zero r.taskBuf l).word k.toNat))) ∧
    (r.pool ≠ none → r.anyActs g = false → Completes (.targ g d k) s s) ∧
    (r.pool = none → (∃ l, l < r.L ∧ r.guardL g l = true) → Raises (.targ g d k) s cProt 0) ∧
    (r.guardQ g = true →
      (r.pool ≠ none → ∀ i ∈ [Instr.tend g, .exit g],
        Completes i s (s.now (fun r => (r.exitLanes (laneMask r.L)).retiring))) ∧
      (r.pool = none → Raises (.tend g) s cProt 0))

/-- R326: SPAWN tests the queue and reserves a slot per acting lane at once; then, once the row's earlier accesses have been
performed, it releases, adds the number of records to the counter where inc asks for it, and sends them; its checks come in
R413's order. R327: TJOIN queues one decrement for each acting lane
whose address is not zero, with a reservation in the continuation buffer, and waits at the first lane that finds none; a
counter that a decrement brings to zero sends its continuation to the buffer, and otherwise gives the reservation back. R269: lanes
decrement in order, those of one counter at once. -/
def Obligations.SpawnAndJoin : Prop :=
  (∀ (s : State) (g : Guard) (a b c : SReg) (inc : Bool) (pri : BitVec 2) (vf va : VReg) (nargs : BitVec 4) (w : Spawn),
     (s.row s.cur).outside →
     (s.row s.cur).Has ((List.range nargs.toNat).map (fun j => va.toNat + j) ++ (if vf = 0 then [] else [vf.toNat])) →
     let r := s.row s.cur
     let v := r.view s.drawn
     let d := s.cur / 128
     let x := s.tq d pri.toNat
     let E := v.sreg a.toNat
     let waits (s : State) (w : Spawn) : State := (s.modRow s.cur (fun r => { r with spawn := some w })).waitFor s.cur .memory
     (r.spawn = some w →
       (r.drained = false → exec (.spawn g a b c inc pri vf nargs va) s = .next (waits s.draw w)) ∧
       (r.drained = true → ∃ t, exec (.spawn g a b c inc pri vf nargs va) s = .next t ∧ (t.row s.cur).spawn = none ∧
         (t.die d).arriving = (s.die d).arriving ++ [⟨w.pri, w.recs⟩])) ∧
     (r.spawn = none → r.drained = false → r.heldBy = false → v.anyActs g = true → E.extractLsb' 55 9 = 0 → E.toNat % 8 = 0 →
       (v.sreg b.toNat).toNat % 64 = 0 →
       ((v.actLanes g).length + 64 ≤ x.free → ∃ w : Spawn, w.recs.length = (v.actLanes g).length ∧ w.pri = pri.toNat ∧
         w.key = none ∧ exec (.spawn g a b c false pri vf nargs va) s =
           .next (waits (s.draw.setTq d pri.toNat { x with reserved := x.reserved + (v.actLanes g).length }) w)) ∧
       (x.free < (v.actLanes g).length + 64 →
         Raises (.spawn g a b c false pri vf nargs va) s cTaskQueueFull (BitVec.ofNat 64 (x.free - 64))))) ∧
  (∀ (s : State) (g : Guard) (a b c : SReg) (pri : BitVec 2) (vf va : VReg) (nargs : BitVec 4) (k n z : Nat), s.acting g →
     (s.row s.cur).outside → (s.row s.cur).spawn = none →
     (s.row s.cur).Has ((List.range nargs.toNat).map (fun j => va.toNat + j) ++ (if vf = 0 then [] else [vf.toNat])) →
     let r := s.row s.cur
     let E := r.sreg a.toNat
     let J := r.sreg b.toNat
     let d := s.cur / 128
     let x := s.tq d pri.toNat
     let ls := r.actLanes g
     let send (s : State) : State := (s.setTq d pri.toNat { x with reserved := x.reserved + ls.length }).modDie d (fun y =>
       { y with arriving := y.arriving ++ [⟨pri.toNat, ls.map (fun l => ⟨E,
           r.sreg c.toNat + (if vf = 0 then 0 else (r.vreg vf.toNat l).signExtend 64), J,
           tabulate 0 10 (fun j => if j < nargs.toNat then r.vreg (va.toNat + j) l else 0)⟩)⟩] })
     let spawn (inc : Bool) : Instr := .spawn g a b c inc pri vf nargs va
     let high : Prop := E.extractLsb' 55 9 ≠ 0
     let fits : Prop := ls.length + 64 ≤ x.free
     (¬ high → E.toNat % 8 = 0 → J.toNat % 64 = 0 →
       (fits → Completes (spawn false) s (send (s.releaseAt d .device))) ∧
       (fits → J.getLsbD 55 = true → s.elemFault s.cur 8 J = none →
         Completes (spawn true) s (send ((s.releaseAt d .device).atomicAdd s.cur r.nextId J.toNat ls.length).2)) ∧
       (¬ fits → Raises (spawn false) s cTaskQueueFull (BitVec.ofNat 64 (x.free - 64)))) ∧
     (high → ∀ inc, Raises (spawn inc) s cBounds E) ∧
     (¬ high → E.toNat % 8 ≠ 0 → ∀ inc, Raises (spawn inc) s cMisalign E) ∧
     (¬ high → E.toNat % 8 = 0 → J.toNat % 64 ≠ 0 → ∀ inc, Raises (spawn inc) s cMisalign J) ∧
     ((s.die d).far = [] → r.landed = [] →
       let u := s.atomicAdd s.cur r.nextId k n
       u.1 = s.word k 8 ∧ u.2.word k 8 = (s.word k 8 + n) % 2 ^ 64 ∧ (z < k ∨ k + 8 ≤ z → u.2.byte z = s.byte z))) ∧
  (∀ (s : State) (g : Guard) (a : SReg) (n z id num key : Nat) (j : W64),
     (s.acting g → (s.row s.cur).outside → (s.row s.cur).tjoin = none →
       let r := s.row s.cur
       let d := s.cur / 128
       let ls := ((r.actLanes g).map (fun l => (l, if a = 0 then (tget .zero r.taskBuf l).join else r.sreg a.toNat))).filter
         (fun x => x.2 != 0)
       let fine : Prop := ∀ x ∈ ls, x.2.toNat % 64 = 0 ∧ x.2.getLsbD 55 = true ∧ s.elemFault s.cur 8 x.2 = none
       (a = 0 → r.pool = none → Raises (.tjoin g a) s cProt 0) ∧
       ((a = 0 → r.pool ≠ none) →
         (fine → ls.length ≤ (s.die d).contFree → ∃ u, Completes (.tjoin g a) s u ∧
           (u.row s.cur).joins = ls.zipIdx.map (fun x => (r.nextId + x.2, r.nextId, x.1.2, x.1.2.toNat)) ∧
           (u.row s.cur).v = r.v ∧ (u.row s.cur).s = r.s ∧ (u.row s.cur).p = r.p ∧
           (u.die d).contReserved = (s.die d).contReserved + ls.length ∧ (u.die d).cont = (s.die d).cont ∧
           (∀ a, u.byte a = s.byte a) ∧ ∀ m, m ≠ s.cur → u.row m = s.row m) ∧
         (∀ x rest, ls = x :: rest → x.2.toNat % 64 ≠ 0 → Raises (.tjoin g a) s cMisalign x.2) ∧
         (∀ x rest, ls = x :: rest → fine → (s.die d).contFree = 0 → exec (.tjoin g a) s =
           .next ((s.draw.modRow s.cur (fun r => { r with
             tjoin := some x.1
             tjoinLeft := ls.map (fun x => (x.1, x.2, x.2.toNat)), tjoinNum := r.nextId })).waitFor s.cur .contBuf)))) ∧
     ((s.row n).joins = [(id, num, j, key)] → (s.orderRow n).drainedTo id = true → (s.die (n / 128)).far = [] →
       (s.row n).landed = [] → j.getLsbD 55 = true → ((s.row n).wait ≠ some .contBuf ∨ (s.die (n / 128)).halted = true) →
       let y := s.die (n / 128)
       let old := s.word key 8
       ∃ t, exec (.joinDecrement n) s = .next t ∧ (t.row n).joins = [] ∧ (∀ z, (t.row n).vreg z = (s.row n).vreg z) ∧
         (t.die (n / 128)).contReserved = y.contReserved - 1 ∧
         t.word key 8 = (old + 2 ^ 64 - 1) % 2 ^ 64 ∧ (z < key ∨ key + 8 ≤ z → t.byte z = s.byte z) ∧
         (t.die (n / 128)).cont = y.cont ++
           (if old = 1 then [((s.byte (key + 8)).toNat % 4, recOf (s.bytes (key + 64) 64))] else [])) ∧
     (∀ id2 key2 j2, (s.row n).joins = [(id, num, j, key), (id2, num, j2, key2)] → id ≠ id2 → (s.orderRow n).drainedTo id = true →
       (s.row n).wait ≠ some .contBuf → ∃ t, exec (.joinDecrement n) s = .next t ∧
         (t.row n).joins = if key = key2 then [] else [(id2, num, j2, key2)]) ∧
     ((s.row n).joins.head? = some (id, num, j, key) → (s.orderRow n).drainedTo id = false →
       exec (.joinDecrement n) s = .next s) ∧
     ((s.row n).joins = [] → exec (.joinDecrement n) s = .next s))

/-- R318 to R320, R333: records that arrive enter their queue in order, a continuation enters its queue where a slot is free,
a record lies in its ring's memory at the slot it takes, and the wave former takes the oldest record of the highest priority
from there into its window. R321, R322: a wave is at most 32 records
of one entry and the highest priority in the window, and starts an idle pool row with one lane per record. R324: a die with
nothing to do asks the next one, which forwards half of its window, rounded down, if it holds at least two records; three
empty answers in a row pause the die. The model's choice: of an entry address only bits 55:0 count (log entry 57); a request and
its answer are one move, and of more records than there is room for only those go that fit (log entry 39). -/
def Obligations.TaskFlow : Prop :=
  (∀ (s : State) (d q k z pa : Nat) (x : Arriving) (t : TaskRec) (c : Nat × TaskRec),
     let y := s.die d
     let w := s.tq d q
     (k < 16 → (recOf t.bytes).word k = t.word k) ∧
     ((s.enqueue d q t).tq d q = { w with count := w.count + 1 }) ∧
     ((s.ringSlot d w (w.head + w.count) .write).1 = some pa → (s.enqueue d q t).bytes pa 64 = t.bytes ∧
       (z < pa ∨ pa + 64 ≤ z → (s.enqueue d q t).byte z = s.byte z)) ∧
     ((s.ringSlot d w w.head .read).1 = some pa → (s.dequeue d q).1 = recOf (s.bytes pa 64)) ∧
     ((s.die d).arriving = [x] → ∃ u, exec (.taskEnqueue d) s = .next u ∧
       (u.tq d x.pri).count = (s.tq d x.pri).count + x.recs.length ∧ (u.tq d x.pri).head = (s.tq d x.pri).head ∧
       (u.tq d x.pri).reserved = (s.tq d x.pri).reserved - x.recs.length ∧ (u.die d).arriving = [] ∧
       (k ≠ x.pri → u.tq d k = s.tq d k) ∧ ∀ n, u.row n = s.row n) ∧
     ((s.die d).arriving = [] → exec (.taskEnqueue d) s = .next s) ∧
     (y.cont.find? (fun x => x.1 == q) = some c →
       ((s.tq d q).free ≠ 0 → exec (.continuationEnqueue d q) s =
         .next ((s.modDie d (fun y => { y with cont := y.cont.erase c })).enqueue d q c.2)) ∧
       ((s.tq d q).free = 0 → exec (.continuationEnqueue d q) s = .next s)) ∧
     (y.halted = false → y.window.length < 256 → q < 4 → (∀ p, q < p → p < 4 → (s.tq d p).count = 0) →
       w.count ≠ 0 → ∃ u, exec (.windowFill d) s = .next u ∧
         u.tq d q = { w with count := w.count - 1, head := (w.head + 1) % w.slots } ∧
         (u.die d).window = y.window ++ [⟨(s.dequeue d q).1, q, y.clk⟩] ∧
         (k ≠ q → u.tq d k = s.tq d k) ∧ ∀ n, u.row n = s.row n) ∧
     (y.halted = true ∨ 256 ≤ y.window.length ∨ (∀ p, p < 4 → (s.tq d p).count = 0) →
       exec (.windowFill d) s = .next s)) ∧
  (∀ (s : State) (d n i : Nat) (clk : W64) (res : List W64) (l : List WinRec),
     let y := s.die d
     let r := s.row n
     let w := waveOf y.window y.clk r.resident
     (let v := waveOf l clk res
      v.length ≤ 32 ∧ (l ≠ [] → v ≠ []) ∧ (∀ x ∈ v, x ∈ l ∧ ∀ z ∈ l, z.pri ≤ x.pri) ∧
        ∀ x ∈ v, ∀ z ∈ v, x.task.entry = z.task.entry) ∧
     (y.halted = false → r.life = .idle → r.pool ≠ none → r.unbind = false → w ≠ [] →
       ∃ t, exec (.waveDispatch d n) s = .next t ∧ (∀ m, m ≠ n → t.row m = s.row m) ∧
         let q := t.row n
         q.life = .running ∧ q.L = 32 ∧ q.arm.em = laneMask w.length ∧ q.exited = laneMask 32 &&& ~~~(laneMask w.length) ∧
         q.sreg 1 = tget 0 s.job.poolPar (n / 128) ∧ q.sreg 2 = BitVec.ofNat 64 w.length ∧ q.handler = false ∧
         q.v = r.v ∧ q.ac = r.ac ∧
         (∀ x, w[i]? = some x → tget .zero q.taskBuf i = x.task ∧ q.arm.pc = x.task.entry.setWidth 56 ∧
           q.sreg 3 = BitVec.ofNat 64 x.pri)) ∧
     (y.halted = true ∨ r.life ≠ .idle ∨ r.pool = none ∨ w = [] → exec (.waveDispatch d n) s = .next s)) ∧
  (∀ (s : State) (d : Nat), (s.die d).steal.asked = 0 → s.mayAsk d = false → exec (.stealRequest d) s = .next s) ∧
  (∀ (s : State) (d : Nat), d < 4 → ((s.die d).steal.asked = 0 → s.mayAsk d = true) → (s.die d).steal.asked < 3 →
     let y := s.die d
     let v := (d + 1 + y.steal.asked) % 4
     let z := s.die v
     ∃ t, exec (.stealRequest d) s = .next t ∧ (∀ n, t.row n = s.row n) ∧ (∀ a, t.byte a = s.byte a) ∧
       (2 ≤ z.window.length → (∀ x ∈ z.window, x.pri < 4) → y.window.length < 256 →
         let k := min (z.window.length / 2) (256 - y.window.length)
         (t.die d).window.length = y.window.length + k ∧ (t.die v).window.length = z.window.length - k ∧
           (t.die d).steal = ⟨0, none⟩) ∧
       (z.window.length < 2 → t.die v = z ∧ (t.die d).window = y.window ∧
         (t.die d).steal = if y.steal.asked < 2 then ⟨y.steal.asked + 1, none⟩ else ⟨0, some y.clk⟩))

/-! ### Rows, placements and power -/

/-- R43, R46, R378: a header is refused for each of the reasons of R43; a row at a clause boundary reads its header, waits for
its flags, and starts the clause once its request has been granted. R336, R337: the deferred trap that a row takes is one with
the lowest cause code, none in handler mode; it takes it while it waits before an instruction, and at a clause boundary, where
it starts no clause, and, where ERET has come back with others pending, before the next instruction. R34, R35, R159: a retiring
row whose operations have completed is gone, but for its registers and accumulators; it seals its south port, and the row above
discards what it pushes; the last row of a placement ends it, with its event, once the copy commands that its rows issued have
completed. The model's choice: a header that is not 8-byte aligned is refused (log entry 34); a deferred trap is taken although
the row's request for a clause stands (log entry 46). -/
def Obligations.ClausesAndRetirement : Prop :=
  (∀ (s s1 : State) (n : Nat) (c : Clause) (x : W8) (a : Va) (h : W64),
     let r := s.row n
     let f (o : Nat) : Nat := h.toNat / 2 ^ o % 16
     (headerOf a h = none ↔ h.toNat / 2 ^ 58 ≠ 0x37 ∨ f 54 = 0 ∨ f 34 = 12 ∨ f 34 = 13 ∨ f 34 = 14 ∨ f 30 = 12 ∨ f 30 = 13 ∨
       f 30 = 14 ∨ h.toNat % 2 ^ 29 ≠ 0 ∨ a.toNat % 8 ≠ 0 ∨ a.toNat / 4096 ≠ (a.toNat + 8 * (f 50 + 2) - 1) / 4096) ∧
     (s.live n = true → r.arm.clause.words = [] → r.arm.clause.hdr = r.arm.pc → r.nextDeferred = none →
       (r.granted = true → r.req = some c → exec (.clauseIssue n) s = .next (s.modRow n (fun r => { r with
         arm := { r.arm with clause := c, pc := c.hdr + 8 }, req := none, granted := false, wait := none }))) ∧
       (r.req = none → s.fetchClause n r.arm.pc = (.error x, s1) →
         exec (.clauseIssue n) s = .next (s1.trapHere n x (r.arm.pc.setWidth 64))) ∧
       (r.req = none → s.fetchClause n r.arm.pc = (.ok c, s1) →
         let s2 := s1.modRow n (fun r => { r with req := some c, withheld := 0 })
         (c.wait &&& r.arm.flags = 0 → exec (.clauseIssue n) s = .next s2) ∧
         (c.wait &&& r.arm.flags ≠ 0 → exec (.clauseIssue n) s = .next (s2.waitFor n .flags))) ∧
       (r.granted = false → r.req = some c → c.wait &&& r.arm.flags = 0 →
         exec (.clauseIssue n) s = .next (s.modRow n (fun r => { r with wait := none })))) ∧
     (s.live n = false → exec (.clauseIssue n) s = .next s)) ∧
  (∀ (s : State) (n : Nat) (d : Deferred),
     let r := s.row n
     let left := r.deferred.erase d
     let taken := ((s.modRow n (fun r => { r with deferred := left })).trapHere n d.cause d.tval).modRow n
       (fun q => { q with again := !left.isEmpty })
     (r.handler = true → r.nextDeferred = none) ∧
     (r.nextDeferred = some d → d ∈ r.deferred ∧ ∀ e ∈ r.deferred, d.cause.toNat ≤ e.cause.toNat) ∧
     (r.handler = false → r.deferred ≠ [] → r.nextDeferred ≠ none) ∧
     (s.live n = true → r.nextDeferred = some d →
       ((r.wait = some .portNorth ∨ r.wait = some .portSouth ∨ r.wait = some .behind ∨ r.wait = some .barrier ∨
         r.wait = some .buffer ∨ r.wait = some .queue ∨ r.wait = some .opLimit ∨ (r.wait = some .flags ∧ r.arm.clause.words ≠ []) ∨
         (r.wait = some .memory ∧ r.atPortWord = true) ∨ r.retake = true) → exec (.deferredTrap n) s = .next taken) ∧
       ((r.wait = none ∨ r.wait = some .operands) → r.retake = false → r.arm.clause.words ≠ [] →
         exec (.deferredTrap n) s = .next s) ∧
       (r.arm.clause.words = [] → r.arm.clause.hdr = r.arm.pc → r.granted = false →
         exec (.deferredTrap n) s = .next taken ∧ exec (.clauseIssue n) s = .next taken)) ∧
     (r.nextDeferred = none → exec (.deferredTrap n) s = .next s)) ∧
  (∀ (s : State) (n k : Nat) (p : Pl),
     let r := s.row n
     let finale (t : State) : Prop := (∃ q, t.job.pls = [q] ∧ q.num = k ∧ q.st = .ended) ∧
       t.dev.raised = s.dev.raised ++ [⟨3, 0x8000, BitVec.ofNat 32 k, 0, none, tget 0 s.dev.clks 0, 0, 0⟩]
     let last : Prop := s.job.pls = [p] ∧ p.num = k ∧ p.st = .running ∧ ∀ m ∈ p.band, m ≠ n → s.member p m = false
     (r.life = .idle → (s.die (n / 128)).halted = false → n ∈ p.band → last →
       (s.copying k = false → ∃ t, exec (.rowRetire n) s = .next t ∧ finale t) ∧
       (s.copying k = true → exec (.rowRetire n) s = .next s)) ∧
     ((s.die (n / 128)).halted = true → exec (.rowRetire n) s = .next s) ∧
     (r.life = .retiring → (s.die (n / 128)).halted = false →
     (r.finished = false → exec (.rowRetire n) s = .next s) ∧
     (r.finished = true → ∃ t, exec (.rowRetire n) s = .next t ∧ (t.row n).life = .idle ∧ (t.row n).v = r.v ∧
       (t.row n).ac = r.ac ∧
       (r.pool = none → (r.pl = none ∨ r.pl = some k ∧ s.findPl k = some p ∧ ∃ m ∈ p.band, m ≠ n ∧ s.member p m = true) →
         (0 < n → r.nbind = .row → (t.row (n - 1)).southGone = true) ∧
         (r.sbind = .row → r.southSealed = false → r.southGone = false → (t.row (n + 1)).north.sealAt = .flying)) ∧
       (r.pool = none → r.pl = some k → last →
         (s.copying k = false → finale t) ∧ (s.copying k = true → ∃ q, t.job.pls = [q] ∧ q.num = k ∧ q.st = .running)))))

/-- R304, R375: PART_SECURE gives a part of a placement rows of its die that are free for its class, and reassigns their domains
where their class is another; a part behind the head takes no row that the head may take, holds none that it does not start on,
and reassigns no domain of the head's. A reassignment ends with the class changed. R23, Table 01-3: once every part has its
rows, all rows of the placement start in one step, with the values of Table 01-3; no other row changes. The model's choice: a
part behind the head is secured only where nothing else of its placement is still to be secured (log entry 38). -/
def Obligations.Placements : Prop :=
  (∀ (s : State) (d k c : Nat) (p h : Pl) (rows : List Nat) (l : List Pl),
     (s.parts d = h :: l → s.nextSecure d = some (p, rows) → p = h ∨
       (p ∈ l ∧ (∀ e ∈ p.dies, e ≠ d → e ∈ p.secured) ∧ ∀ n ∈ rows, ∀ q ∈ s.positions h d, n ∉ q ∧
         (p.cls ≠ h.cls → ∀ m ∈ q, m / 32 ≠ n / 32))) ∧
     (s.nextSecure d = some (p, rows) → p ∈ s.parts d ∧ rows ∈ s.positions p d ∧ ∀ n ∈ rows, s.freeFor p.cls n = true) ∧
     (s.parts d = p :: l → (rows ∈ s.positions p d ∧ ∀ n ∈ rows, s.freeFor p.cls n = true) →
       ∃ q, s.nextSecure d = some (p, q)) ∧
     ((s.die d).halted = false → s.nextSecure d = some (p, rows) → exec (.partSecure d) s = .next (s.secure d p rows)) ∧
     (s.nextSecure d = none → exec (.partSecure d) s = .next s) ∧
     ((s.dom k).reassign = some c → ∃ t, exec (.domainReassign k) s = .next t ∧
       t.dom k = { s.dom k with cls := c, reassign := none } ∧ (∀ m, m ≠ k → t.dom m = s.dom m) ∧ ∀ n, t.row n = s.row n)) ∧
  (∀ (s : State) (k n : Nat) (p : Pl), s.findPl k = some p →
     (s.gangReady p = true → ∃ t, exec (.gangStart k) s = .next t ∧ (n ∉ p.band → t.row n = s.row n) ∧
       (n ∈ p.band → let r := t.row n
         r.life = .running ∧ r.L = p.width ∧ r.arm.pc = p.entry ∧ r.arm.em = laneMask p.width ∧ r.exited = 0 ∧
         r.other = none ∧ r.armsTok = none ∧ r.arm.toks = [] ∧ r.arm.flags = 0 ∧ r.handler = false ∧ r.region = none ∧
         r.sreg 1 = p.param ∧ r.sreg 2 = BitVec.ofNat 64 (n - p.first) ∧ r.sreg 3 = BitVec.ofNat 64 p.rows ∧
         (∀ j, 4 ≤ j → j < 32 → r.sreg j = 0) ∧ (∀ j, 1 ≤ j → j < 8 → r.preg j = 0 ∧ r.qreg j = false) ∧
         r.csr.fflags = 0 ∧ r.csr.mflags = 0 ∧ r.csr.rng = 1 ∧ r.csr.plive = 0xFF ∧ r.csr.tvec = s.job.tvec ∧
         r.v = (s.row n).v ∧ r.ac = (s.row n).ac ∧ r.active.st = .empty ∧ r.shadow.st = .empty ∧ r.pl = some p.num ∧
         r.north.entries = [] ∧ (∀ k, n = p.first → p.north = .link k →
           r.north.sealAt = if (s.port k).up then .none else .present) ∧
         (n = p.first → r.nbind = p.north) ∧ (n ≠ p.first → r.nbind = .row) ∧
         (n = p.first + p.rows - 1 → r.sbind = p.south) ∧ (n ≠ p.first + p.rows - 1 → r.sbind = .row))) ∧
     (s.gangReady p = false → exec (.gangStart k) s = .next s))

/-- R2, R374, R376, R378: with each clk of a die its domains' own counts follow their classes; a clk of a domain adds the refill
up to the capacity and takes one issue cycle of each instruction that issues; a request is granted, debited and followed up
while the allowance is positive, and withheld otherwise; one that is not made is withheld no longer. R380 to R383: a thermal
reading sets the domain's cut, with its event above 105 °C; transfers end after 65,536 clk of the domain; an idle unit that is due
banks, before any other move. R384, R385: the request of a banked unit reaches its die's arbiter; at each clk that is a
multiple of 16 eight slots go to the requests in order, three to an array and one to an FP datapath; 48 clk after it is
admitted the unit is usable. The model's choice: how a slower domain's count follows its die's (log entry 3). -/
def Obligations.Damper : Prop :=
  (∀ (s : State) (d m : Nat),
     let t := s.passClk d
     let x := s.dom m
     let p := x.phase + classMHz x.cls
     ((∃ i < 4, (s.dom (4 * d + i)).ticked = false) → t = s) ∧
     ((∀ i, i < 4 → (s.dom (4 * d + i)).ticked = true) → (t.die d).clk = (s.die d).clk + 1 ∧
       (m / 4 = d → t.dom m = if 940 ≤ p then { x with phase := p - 940, clk := x.clk + 1, ticked := false }
         else { x with phase := p }) ∧
       (m / 4 ≠ d → t.dom m = x) ∧ ∀ n, t.row n = s.row n) ∧
     [0, 1, 2, 3].map classMHz = [940, 820, 700, 470]) ∧
  (∀ (s : State) (d n : Nat),
     let x := s.dom d
     let owed : List (Nat × Nat) := x.due.filter (fun e => e.1 ≠ 0)
     let A : Int := min (x.cap : Int) (x.A + s.refillOf d) - ((owed.map Prod.snd).sum : Nat)
     let ends (t : State) (A : Int) : Prop := exec (.allowanceTick d) s = .next t ∧
       (t.dom d).due = (owed.map (fun e => (e.1 - 1, e.2))).filter (fun e => e.1 ≠ 0) ∧
       (t.dom d).A = max (-(x.cap : Int)) A ∧ (t.dom d).ticked = true ∧ (∀ m, m ≠ d → t.dom m = s.dom m) ∧ (∀ a, t.byte a = s.byte a) ∧
       ∀ m, m / 32 = d → s.asksVector m = false → (t.row m).vwithheld = 0
     (x.ticked = true → exec (.allowanceTick d) s = .next s) ∧
     (x.ticked = false →
     (s.requests d = [] → ∃ t, ends t A ∧ t.agenda = s.agenda) ∧
     (s.requests d = [(n, false)] → (0 < A ∨ 255 ≤ (s.row n).withheld) → ∃ t, ends t (A - s.grantCost (n, false)) ∧
       t.agenda = [.event (.clauseIssue n), .issue n] ++ s.agenda ∧ (t.row n).granted = true ∧ (t.row n).withheld = 0) ∧
     (s.requests d = [(n, true)] → (0 < A ∨ 255 ≤ (s.row n).vwithheld) → ∃ t, ends t (A - 40) ∧
       t.agenda = .event (.vectorEnter n) :: s.agenda ∧ (t.row n).vgranted = true) ∧
     (s.requests d = [(n, false)] → A ≤ 0 → (s.row n).withheld < 255 → ∃ t, ends t A ∧ t.agenda = s.agenda ∧
       (t.row n).withheld = (s.row n).withheld + 1 ∧ (t.row n).granted = (s.row n).granted))) ∧
  (∀ (s : State) (d n : Nat) (x : BitVec 16) (fp : Bool),
     let y := s.dom d
     let clk := (s.die (d / 4)).clk
     let r := s.row n
     let b := if fp then r.fp else r.mat
     (s.dev.minimal = true → exec (.thermal d x) s = .next s) ∧
     (s.dev.minimal = false → ∃ t, exec (.thermal d x) s = .next t ∧ (t.dom d).reading = x.toNat ∧ (t.dom d).refill = y.refill ∧ (t.dom d).A = y.A ∧
       (10500 < x.toNat → (t.dom d).heat = 2 ∧ t.dev.raised = s.dev.raised ++
         [⟨6, 0x8000 + 16 * (5 + d / 4) + 13, BitVec.ofNat 32 d, BitVec.ofNat 64 x.toNat, none, clk, 0, 0⟩]) ∧
       (x.toNat ≤ 10500 → t.dev.raised = s.dev.raised) ∧
       (9500 < x.toNat → x.toNat ≤ 10500 → (t.dom d).heat = max y.heat 1) ∧ (x.toNat < 9000 → (t.dom d).heat = 0) ∧
       (9000 ≤ x.toNat → x.toNat ≤ 9500 → (t.dom d).heat = y.heat)) ∧
     (s.refillOf d = (let z := y.refill + s.received d - s.given d - y.cut
       if y.heat = 0 then z else if y.heat = 1 then z / 2 else z / 8)) ∧
     (∃ t, exec (.laggardTransferEnd d) s = .next t ∧
       (t.dom d).transfers = y.transfers.filter (fun z => y.clk.ult z.ends) ∧ (t.dom d).refill = y.refill ∧
       ∀ m, m ≠ d → t.dom m = s.dom m) ∧
     ((fp = true ∨ r.matIdle = true) → b.banked = false → b.asked = false →
       ((∃ k, b.hint = some k ∧ (if fp then 512 else 2048) ≤ k) ∨ ∃ t, b.hold = some t ∧ t.toNat ≤ (s.rowClk n).toNat) →
       (n ∈ s.job.rows.map (fun e => e.1) → Move.event (.bank n fp) ∈ s.dueMoves) ∧ ∃ t, exec (.bank n fp) s = .next t ∧ (let q := t.row n; (if fp then q.fp else q.mat).banked = true ∧
         (if fp then q.mat else q.fp) = (if fp then r.mat else r.fp) ∧ q.v = r.v ∧ q.active = r.active) ∧
         ∀ m, m ≠ n → t.row m = s.row m) ∧
     (b.hint = none → b.hold = none → exec (.bank n fp) s = .next s)) ∧
  (∀ (s : State) (n : Nat) (fp : Bool) (x y : Stoke) (z : W64),
     let d := n / 128
     let g := s.die d
     let r := s.row n
     let b := if fp then r.fp else r.mat
     (b.banked = true → b.asked = true → g.inrush = [] → ∃ t, exec (.stokeRequest n fp) s = .next t ∧
       (t.die d).inrush = [⟨n, fp, if fp then 1 else 3, g.clk, none⟩] ∧ ∀ m, t.row m = s.row m) ∧
     (b.banked = false → exec (.stokeRequest n fp) s = .next s) ∧
     (g.clk.toNat % 16 = 0 → g.inrushAt ≠ g.clk → ∃ t, exec (.inrushGrant d) s = .next t ∧
       (t.die d).inrush = giveSlots g.clk 8 g.inrush ∧ (t.die d).inrushAt = g.clk) ∧
     ((g.clk.toNat % 16 ≠ 0 ∨ g.inrushAt = g.clk) → exec (.inrushGrant d) s = .next s) ∧
     (x.ready = none → y.ready = none → x.left ≤ 3 → y.left ≤ 3 → giveSlots z 8 [x, y] =
       [{ x with left := 0, ready := some (z + 48) }, { y with left := 0, ready := some (z + 48) }]) ∧
     (x.ready = none → 8 < x.left → giveSlots z 8 [x] = [{ x with left := x.left - 8 }]) ∧
     (g.inrush = [x] → x.row = n → x.fp = fp → x.ready = some z → z.toNat ≤ g.clk.toNat → ∃ t,
       exec (.stokeComplete n fp) s = .next t ∧ (t.die d).inrush = [] ∧
       (let q := t.row n; (if fp then q.fp else q.mat).banked = false ∧ (if fp then q.fp else q.mat).asked = false ∧
         (if fp then q.mat else q.fp) = (if fp then r.mat else r.fp)) ∧ ∀ m, m ≠ n → t.row m = s.row m) ∧
     (g.inrush = [] → exec (.stokeComplete n fp) s = .next s))

/-- R337, R348, R349: PREEMPT_ARRIVE stops a die, with the clk counts of the die and its domains, and freezes its arrays; a row
that stands where a deferred trap is due takes it first, and where no row stands before an MDRAIN no byte changes. HAMPER_SAVE
writes a row's hamper at its pinned addresses, once everything has come to rest and the row's array is stoked. The model's
choice: a halted row has no SPAWN waiting (log entry 67). -/
def Obligations.Preemption : Prop :=  ∀ (s : State) (d n : Nat) (x : Deferred),
    (s.job.pre ≠ .none → (s.die d).halted = false → ∃ t, exec (.preemptArrive d) s = .next t ∧
      (t.die d).halted = true ∧ (t.die d).haltAt = (s.die d).clk ∧
      (∀ m, t.dom m = if m / 4 = d then { s.dom m with haltAt := (s.dom m).clk } else s.dom m) ∧
      (n / 128 ≠ d ∨ (s.row n).life = .idle → t.row n = s.row n) ∧
      (n / 128 = d → (s.row n).life ≠ .idle → (t.row n).frozen = true ∧ (t.row n).v = (s.row n).v ∧ (t.row n).s = (s.row n).s ∧
        (t.row n).ac = (s.row n).ac ∧
        (s.live n = true → (s.row n).dueTrap = some x → (t.row n).handler = true ∧ (t.row n).csr.cause = x.cause ∧
          (t.row n).csr.tval = x.tval)) ∧
      (n / 128 = d → (s.row n).life ≠ .idle → (t.row n).spawn = none) ∧
      ((∀ m, m / 128 = d → (s.row m).spawn = none ∧ ∀ g a, decode (s.row m).curWord ≠ .ok (.mdrain g a)) →
        t.die d = { s.die d with halted := true, haltAt := (s.die d).clk } ∧ (∀ k, k ≠ d → t.die k = s.die k) ∧
        (∀ a, t.byte a = s.byte a) ∧
        (n / 128 = d → (s.row n).life ≠ .idle → (s.live n = false ∨ (s.row n).dueTrap = none) →
          t.row n = { s.row n with frozen := true, transfer := false }))) ∧
    ((s.job.pre = .none ∨ (s.die d).halted = true) → exec (.preemptArrive d) s = .next s) ∧
    (n < 512 → s.job.pre = .asked → s.atRest = true → (s.row n).life ≠ .idle → tget false s.job.saved n = false →
      (∀ k, k < 4 → (s.die k).far = []) → (s.row n).mat.banked = false →
      (∀ i j, i < hamperSize → j < hamperSize → s.hamperKey n i = s.hamperKey n j → i = j) →
      ∃ t, exec (.hamperSave n) s = .next t ∧
        (∀ o, o < hamperSize → t.byte (s.hamperKey n o) = hamperByte (s.row n) (s.haltCount n) o) ∧
        (∀ a, (∀ o, o < hamperSize → s.hamperKey n o ≠ a) → t.byte a = s.byte a) ∧
        tget false t.job.saved n = true ∧ (∀ m, t.row m = s.row m) ∧
        ((∀ m ∈ s.threads, m = n ∨ tget false s.job.saved m = true) → t.job.pre = .halted ∧ t.dev.jobSt = .halted)) ∧
    (s.job.pre ≠ .asked ∨ s.atRest = false → exec (.hamperSave n) s = .next s)

/-! ### Mbabo -/

/-- R395, R396, R411, R412: a start runs steps 1 to 4 and counts a failure unless every step succeeds; from the third failure
on it starts in minimal mode, which FATAL does not end; FEATURES_TIMEOUT fails a start that no FEATURES followed; FATAL halts the
dies, drops the key and is reported; CLEAR_START and MGMT_RESET reset the device; the management port answers. R399, R410: the
window and the rings stand on X, apart; a record enters slot CMD_TAIL and CMD_TAIL moves on by one, unless the ring is full;
CMD_HEAD and EVT_HEAD move modulo their rings; the window reads as Table 20-7 gives and ignores other writes; an event is
delivered at EVT_TAIL in the words of R410, with the count of ns since the start, or counted as dropped where the ring has no
room. The model's choice: what HBM reads once FATAL has taken the key (log entry 12); that steps 1 to 4 are one move, and FATAL
one, where the window and the rings stand, and that the last reason code outlives resets and starts (log entry 13); that EVT_HEAD
is taken modulo 4,096 (log entry 40). -/
def Obligations.Starts : Prop :=
  (∀ (s : State) (cause : BitVec 8) (d a : Nat),
     let x := s.dev
     let ok (k : Nat) : Bool := Config.startStep x.starts k
     let all : Prop := ok 1 = true ∧ ok 2 = true ∧ ok 3 = true ∧ ok 4 = true
     let answers (i : Instr) (l : List W64) : Prop := ∃ t, exec i s = .next t ∧ t.dev.mgmtOut = l ∧ t.job = s.job
     let reboots (i : Instr) (n : Nat) : Prop := ∃ t, exec i s = .next t ∧ t.job = .reset ∧ t.dev.phase = .off ∧ t.dev.minimal = false ∧
       t.dev.failCount = n ∧ t.dev.lastReason = x.lastReason ∧ t.dev.jobSt = .none ∧ t.agenda = [.event .start] ∧
       t.dev.cmdHead = 0 ∧ t.dev.cmdTail = 0 ∧ t.dev.evtHead = 0 ∧ t.dev.evtTail = 0
     (x.phase = .off → x.failCount < 3 → ∃ t, exec .start s = .next t ∧ t.job = s.job ∧ t.dev.failCount = x.failCount + 1 ∧
       t.dev.accepted = 0 ∧ t.dev.mode = .starting ∧ t.dev.minimal = x.minimal ∧ t.dev.featDone = false ∧ t.dev.ns = 0 ∧
       (all → t.dev.phase = .up ∧ t.dev.lastReason = x.lastReason ∧
         t.dev.mbaboDigest = Config.sha3 (Config.mbaboImage x.starts) ∧ t.dev.osDigest = Config.sha3 (Config.osImage x.starts) ∧
         mboxFits (t.dev.a0.toNat, t.dev.cmdRing.toNat, t.dev.evtRing.toNat) = true) ∧ (¬ all → t.dev.phase = .failed) ∧
       (ok 1 = false → t.dev.lastReason = 0x81) ∧ (ok 1 = true → ok 2 = false → t.dev.lastReason = 0x84) ∧
       (ok 1 = true → ok 2 = true → ok 3 = false → t.dev.lastReason = 0x83) ∧
       (ok 1 = true → ok 2 = true → ok 3 = true → ok 4 = false → t.dev.lastReason = 0x82)) ∧
     (x.phase = .off → 3 ≤ x.failCount → ∃ t, exec .start s = .next t ∧ t.dev.failCount = x.failCount ∧
       (ok 1 = true → ok 4 = true → t.dev.phase = .up ∧ t.dev.mode = .minimal ∧ t.dev.minimal = true) ∧
       (ok 1 = false ∨ ok 4 = false → t.dev.phase = .failed) ∧ (ok 1 = false → t.dev.lastReason = 0x81) ∧
       (ok 1 = true → ok 4 = false → t.dev.lastReason = 0x82)) ∧
     (x.phase ≠ .off → exec .start s = .next s) ∧
     (x.phase = .up → x.featDone = false → x.mode ≠ .fatal → ∃ t, exec .featuresTimeout s = .next t ∧ t.dev.phase = .failed ∧
       t.dev.lastReason = 0x85 ∧ t.job = s.job) ∧
     (x.featDone = true → exec .featuresTimeout s = .next s) ∧
     (x.phase = .up → x.mode ≠ .fatal → cause.toNat ∈ [1, 2, 3] → ∃ t, exec (.fatal cause) s = .next t ∧
       t.dev.mode = .fatal ∧ t.dev.minimal = x.minimal ∧ t.dev.fatalCause = cause ∧ t.dev.jobKey = 0 ∧ t.job.pre = .none ∧ (sideBase ≤ a → t.byte a = 0) ∧
       (x.jobKey ≠ 0 → t.job.mem = [] ∧ t.job.era = s.drawn + 1) ∧ (x.jobKey = 0 → a < sideBase → t.byte a = s.byte a) ∧
       (d < 4 → (t.die d).far = []) ∧
       (d < 4 → (t.die d).halted = true) ∧ (x.featDone = false → t.dev.lastReason = 0x86) ∧
       t.dev.raised = x.raised ++ [⟨9, 0x8000, cause.setWidth 32, 0, none, tget 0 x.clks 0, 0, 0⟩]) ∧
     reboots .clearStart 0 ∧ reboots .mgmtReset x.failCount ∧ answers .mgmtStatus [x.status] ∧
     answers .mgmtReadStart [BitVec.ofNat 64 x.failCount, x.lastReason.setWidth 64] ∧
     (∃ l, answers .mgmtReadEvents l ∧ l.length = 4 * 4096 ∧ ∀ i, i < 4096 → (l.drop (4 * i)).take 4 = x.evtSlot i) ∧
     (∃ nonce, nonce.length = 64 ∧ answers .mgmtAttest ((x.attestation nonce).map (fun b => b.setWidth 64)))) ∧
  (∀ (s : State) (r : CmdRec) (v off : Nat) (w : W64) (e : Evt) (d : Dev),
     let x := s.dev
     (x.phase = .up → x.cmdTail < 256 → v = (x.cmdTail + 1) % 256 → v ≠ x.cmdHead → ∃ t, exec (.cmdTail r v) s = .next t ∧
       t.dev.cmdTail = v ∧ t.dev.slot x.cmdTail = r ∧ t.dev.cmdHead = x.cmdHead ∧
       (∀ k, k ≠ x.cmdTail → t.dev.slot k = x.slot k) ∧ t.job.rows = s.job.rows) ∧
     (v ≠ (x.cmdTail + 1) % 256 ∨ v = x.cmdHead → ∃ t, exec (.cmdTail r v) s = .next t ∧ t.dev.cmdTail = x.cmdTail ∧
       t.job = s.job) ∧
     (x.phase = .up → x.cmdHead = x.cmdTail → x.cmdTail < 256 → v = (x.cmdTail + 1) % 256 → cmdCode r = 0x30 →
       tget 0 x.preAns x.cmdTail = 0 →
       (x.refuses r = none → x.jobSt = .opened → s.job.pre = .none → ∃ t, exec (.cmdTail r v) s = .next t ∧ t.job.pre = .asked) ∧
       (∀ k, x.refuses r = some k → ∃ t, exec (.cmdTail r v) s = .next t ∧ t.job.pre = s.job.pre ∧
         tget 0 t.dev.preAns x.cmdTail = k + 1)) ∧
     exec (.evtHead v) s = .next (s.modDev (fun d => { d with evtHead := v % 4096 })) ∧
     exec (.windowWrite off w) s = .next s ∧
     (off % 8 = 0 → x.windowRead off = match off with
       | 0x00 => x.cmdRing | 0x08 => BitVec.ofNat 64 x.cmdTail | 0x10 => BitVec.ofNat 64 x.cmdHead | 0x18 => x.evtRing
       | 0x20 => BitVec.ofNat 64 x.evtTail | 0x28 => BitVec.ofNat 64 x.evtHead | 0x30 => x.evtDrop | _ => 0) ∧
     (x.phase = .up → x.raised = [e] → e.second = none → x.evtTail < 4096 →
       (x.evtRoom ≠ 0 → ∃ t, exec .eventDeliver s = .next t ∧ t.dev.raised = [] ∧ t.dev.evtTail = (x.evtTail + 1) % 4096 ∧
         t.dev.evtSlot x.evtTail = ({ e with dropped := min 255 x.dropRun, ns := x.ns } : Evt).words ∧ t.dev.dropRun = 0 ∧
         t.job = s.job) ∧
       (x.evtRoom = 0 → ∃ t, exec .eventDeliver s = .next t ∧ t.dev.raised = [] ∧ t.dev.evtTail = x.evtTail ∧
         t.dev.evtDrop = x.evtDrop + 1 ∧ t.dev.dropRun = x.dropRun + 1 ∧ t.dev.evts = x.evts)) ∧
     (e.second = some w → 2 ≤ d.evtRoom → d.evtTail < 4096 →
       let y := d.deliver e
       y.evtTail = (d.evtTail + 2) % 4096 ∧ y.evtSlot d.evtTail = ({ e with dropped := min 255 d.dropRun } : Evt).words ∧
         y.evtSlot ((d.evtTail + 1) % 4096) = ({ e with kind := 10, extra := w, dropped := 0 } : Evt).words) ∧
     (e.kind < 256 → e.source < 65536 → e.dropped < 256 → ∃ h, e.words = [h, e.clk, e.ns, e.extra] ∧
       (h.extractLsb' 0 8).toNat = e.kind ∧ (h.extractLsb' 8 16).toNat = e.source ∧ (h.extractLsb' 24 8).toNat = e.dropped ∧
       h.extractLsb' 32 32 = e.payload))

/-- R398 to R402: a command that R401 refuses completes with status 1 and its reason and has no other effect, where the code and
the reserved bits of Table 20-8 come first, then the device's mode, then a feature bit of Table 20-2, then the job's state; one that
is not at the head does nothing, and while an accepted PREEMPT's halt is still to come the head waits. R397, R400, R404 to
R406, R243, R231, R376: FEATURES, STATUS with the fields of Table 20-11, ATTEST, ALLOC_SET, SIDE_CHECK, XLATE_INVAL and
POWER_SET. The model's choice: a report is cut to 8,192 bytes (log entry 40) and coded as log entry 13 says,
and POWER_SET ends Mbabo's own cut (log entry 21). -/
def Obligations.DeviceCommands : Prop :=
  (∀ (s : State) (i : Instr) (code k : Nat), (i, code) ∈ commandsOfMbabo →
     let r := s.dev.slot s.dev.cmdHead
     (s.job.pre ≠ .asked → s.dev.phase = .up → s.dev.cmdHead ≠ s.dev.cmdTail → cmdCode r = code → s.dev.refuses r = some k →
       ∃ t, exec i s = .next t ∧ AnsweredWith s t 1 k 0 ∧ t.job = s.job ∧ t.dev.jobSt = s.dev.jobSt) ∧
     (s.dev.cmdHead = s.dev.cmdTail ∨ s.dev.phase ≠ .up ∨ s.finishHalt.job.pre = .asked → exec i s = .next s.finishHalt) ∧
     (s.dev.phase = .up → s.dev.cmdHead ≠ s.dev.cmdTail → s.finishHalt.job.pre ≠ .asked →
       (cmdMask (cmdCode r) = none → ∃ t, exec i s = .next t ∧ AnsweredWith s t 1 1 0 ∧ t.job = s.finishHalt.job) ∧
       (cmdMask (cmdCode r) ≠ none → cmdCode r ≠ code → exec i s = .next s.finishHalt)) ∧
     (cmdMask (cmdCode r) ≠ none → cmdCode r ≠ 0x30 → exec .preempt s = .next s) ∧
     (s.atRest = false ∨ s.job.pre ≠ .asked → s.finishHalt = s)) ∧
  (∀ (d : Dev) (r : CmdRec) (m : List W64),
     let c := cmdCode r
     let pa : W64 := 0xFFFFFFFFFFFFF
     let va : W64 := 0xFFFFFFFFFFFFFF
     let all : W64 := 0xFFFFFFFFFFFFFFFF
     let basic : Prop := c ∈ [0x01, 0x02, 0x03]
     let reserved : Prop := r.w0.extractLsb' 16 16 ≠ 0 ∨ r.w1 &&& ~~~(m.getD 0 0) ≠ 0 ∨ r.w2 &&& ~~~(m.getD 1 0) ≠ 0 ∨
       r.w3 &&& ~~~(m.getD 2 0) ≠ 0 ∨ r.w4 &&& ~~~(m.getD 3 0) ≠ 0 ∨ r.w5 &&& ~~~(m.getD 4 0) ≠ 0
     let mode : Prop := (d.mode = .fatal ∧ c ≠ 2 ∧ c ≠ 3) ∨ (d.mode = .minimal ∧ ¬ basic) ∨
       (d.mode ≠ .fatal ∧ d.featDone = false ∧ ¬ basic) ∨ (c = 1 ∧ d.featDone = true)
     let feature : Prop := ∃ b, (c, b) ∈ [(0x40, 0), (0x21, 1), (0x50, 2), (0x51, 2), (0x13, 3)] ∧ d.accepted.getLsbD b = false
     let job : Prop := (c = 0x10 ∧ d.jobSt ≠ .none) ∨ (c = 0x31 ∧ d.jobSt ≠ .halted) ∨ (c = 0x11 ∧ d.jobSt = .none) ∨
       (c ∈ [0x12, 0x13, 0x14, 0x20, 0x21, 0x22, 0x30, 0x32, 0x33, 0x40, 0x51] ∧ d.jobSt ≠ .opened ∧ d.jobSt ≠ .halted)
     let codes := [0x01, 0x02, 0x03, 0x10, 0x11, 0x12, 0x13, 0x14, 0x20, 0x21, 0x22, 0x30, 0x31, 0x32, 0x33, 0x40, 0x50, 0x51, 0x60]
     (codes.map (fun k => (cmdMask k).getD []) = [[all], [pa, pa, all], [], [pa, va, 0xFFFFFFFF0001FFFF, va], [], [pa, all],
       [va, all, 1], [], [va], [pa], [3, all, all], [], [], [pa, 0xFFFF, 0x7F, all, 0x1FFFF], [pa, 0xFFFF, all, 0x3FFFF], [va, all],
       [0xF, 3], [all, pa], [0xFFFF, all, all]]) ∧
     (c ∉ codes → d.refuses r = some 0x01) ∧
     (c ∈ codes → cmdMask c = some m →
       (reserved → d.refuses r = some 0x01) ∧ (¬ reserved → mode → d.refuses r = some 0x02) ∧
       (¬ reserved → ¬ mode → feature → d.refuses r = some 0x0C) ∧
       (¬ reserved → ¬ mode → ¬ feature → job → d.refuses r = some 0x02) ∧
       (¬ reserved → ¬ mode → ¬ feature → ¬ job → d.refuses r = none)) ∧
     (d.failCount < 256 →
       let w := d.status
       w.extractLsb' 0 2 = (match d.mode with | .normal => 0 | .minimal => 1 | .fatal => 2 | .starting => 3) ∧
       w.getLsbD 2 = d.featDone ∧
       w.extractLsb' 3 3 = (match d.jobSt with | .none => 0 | .opened => 1 | .halted => 2 | .closing => 3) ∧
       w.extractLsb' 6 2 = 0 ∧ (w.extractLsb' 8 8).toNat = d.failCount ∧ w.extractLsb' 16 8 = d.lastReason ∧
       w.extractLsb' 24 8 = d.fatalCause ∧ w.extractLsb' 32 32 = 0)) ∧
  (∀ (s : State) (r : CmdRec) (b : List W8) (rs : List Machine.Range) (q d a : Nat),
     let x := s.dev
     let done (i : Instr) (z : W64) (p : State → Prop) : Prop := ∃ t, exec i s = .next t ∧ AnsweredWith s t 0 0 z ∧ p t
     let refused (i : Instr) (k : Nat) : Prop := ∃ t, exec i s = .next t ∧ AnsweredWith s t 1 k 0 ∧ t.job = s.job
     (Runs s 0x01 r →
       (r.w1 &&& ~~~x.offered = 0 → done .features x.offered (fun t => t.dev.accepted = r.w1 ∧ t.dev.featDone = true ∧
         (x.mode = .starting → t.dev.mode = .normal) ∧ (x.mode = .starting → t.dev.failCount = 0) ∧ t.job = s.job)) ∧
       (r.w1 &&& ~~~x.offered ≠ 0 → refused .features 0x0C)) ∧
     (Runs s 0x03 r → done .status x.status (fun t => t.job = s.job)) ∧
     (Runs s 0x02 r → r.w2.toNat % 64 = 0 → 8192 ≤ r.w3.toNat → r.w1.toNat + 64 ≤ 2 ^ 39 → r.w2.toNat + r.w3.toNat ≤ 2 ^ 39 →
       x.minimal = false →
       let nonce := (List.range 64).map (fun i => s.byte (r.w1.toNat + i))
       let fields : Report := ⟨x.mbaboDigest, x.osDigest, x.accepted, x.ident, x.failCount, nonce⟩
       let rep := (Config.reportBytes fields (Config.sign (Config.sha3 (Config.fieldBytes fields)))).take 8192
       done (.attest false) (BitVec.ofNat 64 rep.length) (fun t =>
         (∀ i, i < rep.length → t.byte (r.w2.toNat + i) = rep.getD i 0) ∧
           (a < r.w2.toNat ∨ r.w2.toNat + rep.length ≤ a → t.byte a = s.byte a))) ∧
     (Runs s 0x12 r → r.w1.toNat % 16 = 0 → r.w2.toNat ≤ 256 → s.paRead r.w1 (16 * r.w2.toNat) false = some b →
       (rangesOf b r.w2.toNat = .ok rs → done (.allocSet false) 0 (fun t => t.job.alloc = rs ∧ ∀ h, (t.desc h).valid = true →
         (s.desc h).valid = true ∧ t.inAlloc (s.desc h).span.1 (s.desc h).span.2 (s.desc h).isDst = none)) ∧
       (∀ k, rangesOf b r.w2.toNat = .error k → refused (.allocSet false) k)) ∧
     (Runs s 0x13 r → let p := sidePage r.w1.toNat
       let n := r.w2.toNat
       r.w1.toNat % 65536 = 0 → sideFault r.w1 = none → 0 < n → p + n ≤ 32768 → (∀ k, k < 4 → (s.die k).far = []) →
       done .sideCheck 0 (fun t =>
         tget false t.job.checked q = (if p ≤ q ∧ q < p + n then r.w3.getLsbD 0 else tget false s.job.checked q) ∧
         (p ≤ sidePage a → sidePage a < p + n → t.owner a = noOwner) ∧ ∀ z, t.byte z = s.byte z)) ∧
     (Runs s 0x14 r → done .xlateInval 0 (fun t => t.job = { s.job with tlb := [] })) ∧
     (Runs s 0x60 r → d < 16 →
       (0 < r.w2.toNat → r.w2.toNat ≤ 65535 → 0 < r.w3.toNat → r.w3.toNat ≤ 0x100000 → done .powerSet 0 (fun t =>
         t.dom d = if r.w1.getLsbD d then { s.dom d with refill := r.w2.toNat, cap := r.w3.toNat, cut := 0 } else s.dom d)) ∧
       (r.w2 = 0 → refused .powerSet 0x03)))

/-- R407, R408, R348, R353, R409: JOB_OPEN begins a job with nothing in it, JOB_CLOSE halts it and then takes its data,
PREEMPT completes once the halt is over, RESUME runs it on. R371, R368: CHECKPOINT stores a halted job at its tier and, on the
holder of its group, the group's parity stream at the endpoint; RESTORE takes up the job's tier's stream of that checkpoint and
identity, with this device's own page table and power and without what no accepted feature bit governs (R400), and refuses
another key or a stream of its own that is not there. R368: the parity stream is formed block by block from the job as it stood at
the halt: a member that is not the holder sends its own blocks, and the holder keeps the XOR of the eight. The model's choice: HBM
keeps its bytes at JOB_OPEN and reads free values once JOB_CLOSE has taken the key (log entry 12), what RESTORE keeps (log entry
42), that it drops what no accepted bit governs (log entry 71), how the parity blocks travel (log entry 63), and that CHECKPOINT's
key and tests are taken once, in Dev.ckpt (log entry 72). -/
def Obligations.JobCommands : Prop :=  ∀ (s : State) (r : CmdRec) (pins : Tbl Nat) (key : List W8) (x : Stream) (d n a : Nat),
    let y := s.dev
    let done (i : Instr) (z : W64) (p : State → Prop) : Prop := ∃ t, exec i s = .next t ∧ AnsweredWith s t 0 0 z ∧ p t
    let refused (i : Instr) (k : Nat) : Prop := ∃ t, exec i s = .next t ∧ AnsweredWith s t 1 k 0 ∧ t.job = s.job
    let blank := s.modJob (fun _ => { s.blankJob (s.job.mem.filter (fun e => e.1 < sideBase)) with
      root := r.w1.toNat, tvec := r.w2.setWidth 56, hamper := r.w4.setWidth 56, tier := r.w3 })
    (Runs s 0x10 r →
      (r.w1.toNat % 1024 = 0 → r.w2.toNat % 8 = 0 → r.w4.toNat % 2 ^ 27 = 0 → r.w4.getLsbD 55 = false →
        r.w1.toNat < 2 ^ 39 → y.readBad = false → pinPages blank r.w4.toNat 2048 = some pins → done .jobOpen 0 (fun t => t.dev.jobSt = .opened ∧
          t.dev.jobKey = Config.randomKey s.drawn ∧ t.job.root = r.w1.toNat ∧ t.job.tvec = r.w2.setWidth 56 ∧ t.row n = .reset ∧
          t.job.pls = [] ∧ (sideBase ≤ a → t.byte a = 0) ∧ (a < sideBase → t.byte a = s.byte a) ∧
          t.job.alloc = [] ∧ t.job.desc = [] ∧ t.job.checked = [] ∧ t.job.tlb = [])) ∧
      (r.w1.toNat % 1024 ≠ 0 ∨ r.w2.toNat % 8 ≠ 0 ∨ r.w4.toNat % 2 ^ 27 ≠ 0 → refused .jobOpen 0x03) ∧
      (r.w1.toNat % 1024 = 0 → r.w2.toNat % 8 = 0 → r.w4.toNat % 2 ^ 27 = 0 →
        2 ^ 39 ≤ r.w1.toNat ∨ y.readBad = true → refused .jobOpen 0x0F)) ∧
    (Runs s 0x11 r →
      (y.jobSt ≠ .closing → ∃ t, exec .jobClose s = .next t ∧ t.dev.jobSt = .closing ∧ (d < 4 → (t.die d).halted = true) ∧
        t.dev.cmdHead = y.cmdHead ∧ ∀ m, t.row m = s.row m) ∧
      (y.jobSt = .closing → done .jobClose 0 (fun t => t.dev.jobSt = .none ∧ t.dev.jobKey = 0 ∧
        (sideBase ≤ a → t.byte a = 0) ∧ (y.jobKey ≠ 0 → t.job.mem = [] ∧ t.job.era = s.drawn + 1) ∧
        (y.jobKey = 0 → a < sideBase → t.byte a = s.byte a) ∧ (t.port d).out = [] ∧ t.row n = .reset))) ∧
    (y.phase = .up → y.cmdHead ≠ y.cmdTail → cmdCode (y.slot y.cmdHead) = 0x30 → tget 0 y.preAns y.cmdHead = 1 →
      (s.job.pre = .halted → done .preempt 0 (fun t => t.job = s.job)) ∧
      (s.job.pre = .asked → s.atRest = false → exec .preempt s = .next s)) ∧
    (y.phase = .up → y.cmdHead ≠ y.cmdTail → cmdCode (y.slot y.cmdHead) = 0x30 → 2 ≤ tget 0 y.preAns y.cmdHead →
      refused .preempt (tget 0 y.preAns y.cmdHead - 1)) ∧
    (Runs s 0x31 r →
      ((∀ m ∈ s.threads, hamperBad (s.row m) (s.hamperGet m) = false) → done (.resume false) 0 (fun t =>
        t.dev.jobSt = .opened ∧ t.job.pre = .none ∧ (d < 4 → (t.die d).halted = false) ∧
        (d < 16 → (t.dom d).A = (s.dom d).cap) ∧ ∀ a, t.byte a = s.byte a)) ∧
      ((∃ m ∈ s.threads, hamperBad (s.row m) (s.hamperGet m) = true) → refused (.resume false) 0x08)) ∧
    (Runs s 0x32 r → y.ckpt = none → r.w2 ≠ 0 → r.w5 = 0 → s.paRead r.w1 32 false = some key → s.portsUp r.w2 = true →
      r.w3.getLsbD 6 = true →
      (y.jobSt = .halted → ∃ z, done (.checkpoint false) z (fun t => t.job = s.job ∧
        ⟨s.job.tier, y.ident, r.w4, key, s.job⟩ ∈ t.dev.tierStore ∧ t.dev.shards = y.shards ∧
        ∀ z ∈ y.tierStore, z.tier ≠ s.job.tier ∨ z.ident ≠ y.ident ∨ z.num ≠ r.w4 → z ∈ t.dev.tierStore)) ∧
      (y.jobSt = .opened → s.job.pre = .none → s.atRest = false → ∃ t, exec (.checkpoint false) s = .next t ∧
        t.job = { s.job with pre := .asked, saved := [] } ∧ t.dev = { y with ckpt := some ⟨key, none, 0, []⟩ })) ∧
    (Runs s 0x32 r → r.w3.getLsbD 6 = false →
      let c := r.w3.toNat % 64
      let m := s.comm c
      let holder : Prop := m.rank % 8 = r.w4.toNat % 8
      -- the device's stream of the job as it stood at the halt
      let own (j : Option Job) : Stream := ⟨s.job.tier, y.ident, r.w4, key, j.getD s.job⟩
      let goes (f : State → Prop) : Prop := ∃ t, exec (.checkpoint false) s = .next t ∧ f t
      let paths (l : List Nat) : Prop := ∀ k ∈ l, m.mask k ≠ 0 ∧ s.pathUp (m.mask k) = true
      let octet : List Nat := (List.range 8).map (fun i => m.rank / 8 * 8 + i)
      let peers : List Nat := if m.rank = m.rank / 8 * 8 + r.w4.toNat % 8 then octet.filter (· != m.rank)
        else [m.rank / 8 * 8 + r.w4.toNat % 8]
      let waits (j : Option Job) (b : Nat) (par : List W8) : Prop :=
        goes (fun t => t.job = s.job ∧ t.dev = { y with ckpt := some ⟨key, some (j.getD s.job), b, par⟩ })
      (y.ckpt = none → r.w2 ≠ 0 →
        (m.n % 8 ≠ 0 ∨ m.n = 0 → refused (.checkpoint false) 0x03) ∧
        (m.n % 8 = 0 → m.n ≠ 0 → s.paRead r.w1 32 false = some key →
          (s.portsUp r.w2 = false ∨ ¬ paths peers → refused (.checkpoint false) 0x0A) ∧
          (s.portsUp r.w2 = true → paths peers → y.jobSt = .halted →
            goes (fun t => t.job = s.job ∧ t.dev = { y with ckpt := some ⟨key, none, 0, []⟩ })))) ∧
      (∀ j b par, y.ckpt = some ⟨key, j, b, par⟩ → 526400 ≤ b → ∃ z, done (.checkpoint false) z (fun t => t.job = s.job ∧
        own j ∈ t.dev.tierStore ∧
        (holder → ⟨r.w5.setWidth 17, octet.map (tget 0 m.idents), r.w4, par⟩ ∈ t.dev.shards) ∧
        (¬ holder → t.dev.shards = y.shards))) ∧
      (∀ j b par, y.ckpt = some ⟨key, j, b, par⟩ → b < 526400 →
        (¬ paths peers → waits j b par) ∧
        (¬ holder → paths [m.rank / 8 * 8 + r.w4.toNat % 8] → goes (fun t =>
          t.dev.ckpt = some ⟨key, some (j.getD s.job), b + 1, par⟩ ∧ t.job.linkTx = s.job.linkTx ++ (List.range blockCells).map (fun i =>
            parityMsg c (m.rank / 8 * 8 + r.w4.toNat % 8) r.w4 b i ((((own j).block b).drop (64 * i)).take 64)))) ∧
        (holder → paths (octet.filter (· != m.rank)) →
          ((∃ k ∈ octet, k ≠ m.rank ∧ ∃ i < blockCells, s.parityRx c k r.w4 b i = none) →
            waits j b par) ∧
          ((∀ k ∈ octet, k ≠ m.rank → ∀ i < blockCells, ∃ z, s.parityRx c k r.w4 b i = some z ∧ z.data.length = 64) →
            goes (fun t => t.job.linkTx = s.job.linkTx ∧ ∃ l, t.dev.ckpt = some ⟨key, some (j.getD s.job), b + 1, par ++ l⟩ ∧ l.length = sealedBytes ∧
              ∀ i, i < sealedBytes → l.getD i 0 = (octet.filter (· != m.rank)).foldl (fun a k =>
                a ^^^ (((s.parityRx c k r.w4 b (i / 64)).map (fun z => z.data.getD (i % 64) 0)).getD 0)) (((own j).block b).getD i 0)))))) ∧
    (Runs s 0x33 r → s.job.pls = [] → s.paRead r.w1 32 false = some key → s.portsUp r.w2 = true → r.w4.getLsbD 17 = false →
      (s.dev.tierStore = [x] → x.tier = s.job.tier → x.ident = y.ident → x.num = r.w3 →
        (x.key = key → done (.restore false) 0 (fun t => t.dev.jobSt = .halted ∧ t.job.mem = x.job.mem ∧ t.job.era = x.job.era ∧
          t.job.pre = .halted ∧ (∀ k ∈ t.threads, tget false t.job.saved k = true) ∧
          (y.accepted.getLsbD 4 = true → t.job.pls = x.job.pls) ∧
          (t.job.ring = if y.accepted.getLsbD 0 then x.job.ring else .reset) ∧
          (t.job.comms = if y.accepted.getLsbD 2 then x.job.comms else []) ∧
          (t.job.checked = if y.accepted.getLsbD 3 then x.job.checked else []) ∧
          (d < 4 → (t.die d).halted = true ∧
            ((t.die d).queues = if y.accepted.getLsbD 1 then (tget .reset x.job.dies d).queues else []) ∧
            ((t.die d).ringRev = if y.accepted.getLsbD 0 then (tget .reset x.job.dies d).ringRev else 0)) ∧
          t.job.root = s.job.root ∧ (t.row n).v = (tget .reset x.job.rows n).v ∧
          (d < 16 → (t.dom d).refill = (s.dom d).refill ∧ (t.dom d).cap = (s.dom d).cap))) ∧
        (x.key ≠ key → refused (.restore false) 0x0D)) ∧
      ((∀ z ∈ s.dev.tierStore, z.tier ≠ s.job.tier ∨ z.ident ≠ y.ident ∨ z.num ≠ r.w3) → refused (.restore false) 0x0D))

/-- R402, R407, R408, R348, R353, R371, R368, R409, R357: where the seven commands that act on the job as a whole or on a port
complete. Each takes its record off the ring with the state that its rule gives: JOB_OPEN a job with its hamper region mapped;
JOB_CLOSE first halts the job and then, in a step of its own, ends it; PREEMPT once the job stands halted; RESUME where no
hamper is bad; CHECKPOINT of a halted job, and with a parity stream once its blocks have been exchanged; RESTORE of a stream
that its tier holds; LINK_UP of a port that has a peer. The model's choice: what HBM reads after JOB_CLOSE (log entry 12), what
RESTORE keeps (log entry 42), CHECKPOINT's later moves with Dev.ckpt (log entries 63 and 72), and that LINK_UP completes exactly
where Dev.wired names a peer (log entry 24). -/
def Obligations.JobCommandsComplete : Prop :=  ∀ (s : State) (r : CmdRec) (pins : Tbl Nat) (key : List W8) (x : Stream),
    let y := s.dev
    let done (i : Instr) (z : W64) (p : State → Prop) : Prop := ∃ t, exec i s = .next t ∧ AnsweredWith s t 0 0 z ∧ p t
    let blank := s.modJob (fun _ => { s.blankJob (s.job.mem.filter (fun e => e.1 < sideBase)) with
      root := r.w1.toNat, tvec := r.w2.setWidth 56, hamper := r.w4.setWidth 56, tier := r.w3 })
    (Runs s 0x10 r → r.w1.toNat % 1024 = 0 → r.w2.toNat % 8 = 0 → r.w4.toNat % 2 ^ 27 = 0 → r.w4.getLsbD 55 = false →
      r.w1.toNat < 2 ^ 39 → y.readBad = false → pinPages blank r.w4.toNat 2048 = some pins →
      done .jobOpen 0 (fun t => t.dev.jobSt = .opened ∧ t.job.hamper = r.w4.setWidth 56 ∧ t.job.tier = r.w3)) ∧
    (Runs s 0x11 r → y.jobSt ≠ .closing → ∃ t, exec .jobClose s = .next t ∧ t.dev.jobSt = .closing ∧ t.dev.cmdHead = y.cmdHead ∧
      ∀ d, d < 4 → (t.die d).halted = true) ∧
    (Runs s 0x11 r → y.jobSt = .closing → done .jobClose 0 (fun t => t.dev.jobSt = .none ∧ t.job.pls = [] ∧
      (y.jobKey ≠ 0 → t.job.mem = [] ∧ t.job.era = s.drawn + 1))) ∧
    (y.phase = .up → y.cmdHead ≠ y.cmdTail → cmdCode (y.slot y.cmdHead) = 0x30 → tget 0 y.preAns y.cmdHead = 1 →
      s.job.pre = .halted → done .preempt 0 (fun t => t.job = s.job ∧ t.dev.jobSt = y.jobSt)) ∧
    (Runs s 0x31 r → (∀ m ∈ s.threads, hamperBad (s.row m) (s.hamperGet m) = false) →
      done (.resume false) 0 (fun t => t.dev.jobSt = .opened ∧ ∀ d, d < 4 → (t.die d).halted = false)) ∧
    (Runs s 0x32 r → (y.ckpt = none ∧ r.w2 ≠ 0 ∧ r.w3.getLsbD 6 = true ∧ r.w5 = 0 ∧ s.paRead r.w1 32 false = some key ∧
        s.portsUp r.w2 = true) ∨ (∃ c, y.ckpt = some c ∧ (r.w3.getLsbD 6 = true ∨ 526400 ≤ c.blocks)) →
      y.jobSt = .halted → done (.checkpoint false) (BitVec.ofNat 64 (526400 * (2 ^ 20 + 16))) (fun t => t.job = s.job ∧
        t.dev.jobSt = .halted)) ∧
    (Runs s 0x33 r → s.job.pls = [] → s.paRead r.w1 32 false = some key → s.portsUp r.w2 = true → r.w4.getLsbD 17 = false →
      s.dev.tierStore = [x] → x.tier = s.job.tier → x.ident = y.ident → x.num = r.w3 → x.key = key →
      done (.restore false) 0 (fun t => t.dev.jobSt = .halted ∧ t.job.mem = x.job.mem)) ∧
    (Runs s 0x50 r → r.w2.toNat ≤ 2 → y.wired.getLsbD r.w1.toNat = true → ∃ z, done .linkUp z (fun t =>
      (t.port r.w1.toNat).up = true ∧ (t.port r.w1.toNat).chainEnd = r.w2.toNat))

/-- R298 to R303, R318, R319, R203, R357, R358: PLACE, POOL_BIND, POOL_UNBIND, RING_LOAD, LINK_UP and COMM_LOAD. The model's
choice: the order of PLACE's tests (log entry 40); that LINK_UP is refused exactly where Dev.wired names no peer, and the
credits that it starts with (log entry 24). -/
def Obligations.WorkCommands : Prop :=  ∀ (s s1 s2 s3 : State) (r : CmdRec) (b t1 l1 h : List W8) (n m : Bind) (es : List RingEnt) (c : Comm) (i : Nat),
    let done (i : Instr) (z : W64) (p : State → Prop) : Prop := ∃ t, exec i s = .next t ∧ AnsweredWith s t 0 0 z ∧ p t
    let refused (i : Instr) (k : Nat) : Prop := ∃ t, exec i s = .next t ∧ AnsweredWith s t 1 k 0 ∧ t.job = s.job
    (Runs s 0x20 r → (2 ^ 32 ≤ s.job.nextPl ∨ r.w1.toNat % 64 ≠ 0) → refused (.place false) 0x03) ∧
    (Runs s 0x20 r → r.w1.toNat % 64 = 0 → s.vaRead r.w1 64 false = (some b, s1) →
      (placeReserved b = false → placeRange b = true → s.dev.accepted.getLsbD 4 = true → refused (.place false) 0x03) ∧
      (placeReserved b = false → placeRange b = false → s.dev.accepted.getLsbD 4 = true → s.job.nextPl < 2 ^ 32 →
        edgeOf (b.getD 24 0) = some n → edgeOf (b.getD 25 0) = some m → recNum b 28 2 = 0 →
        s1.vaRead (recW b 32) (72 * recNum b 26 2) false = (some t1, s2) → s2.vaRead (recW b 40) 0 false = (some l1, s3) →
        (∀ i, i < recNum b 26 2 → recNum t1 (72 * i + 1) 7 = 0) →
        let p := plOf s3 b t1 l1 n m
        (groupsBad p.groups p.rows = true → refused (.place false) 0x04) ∧
        (groupsBad p.groups p.rows = false → s3.edgeBad p true = false → s3.edgeBad p false = false → p.twoLinks = false →
          s.job.pls = [] → (∀ d ∈ p.dies, s3.plq d p.pri = []) →
          done (.place false) (BitVec.ofNat 64 s.job.nextPl) (fun t => t.job.nextPl = s.job.nextPl + 1 ∧
            (∃ q, t.job.pls = [q] ∧ q = { p with st := .queued }) ∧ ∀ k, t.row k = s.row k)))) ∧
    (Runs s 0x21 r → r.w1.toNat % 64 = 0 → s.paRead r.w1 64 false = some b → poolReserved b = false →
      let d := recNum b 16 1
      let rows := maskRows d (recNum b 0 16)
      0 < recNum b 18 1 → (∀ q, q < 4 → (poolQueue b q).1 = 0) → (∀ q, q < 4 → (poolQueue b q).2.getLsbD 55 = false) →
      (s.die d).queues ≠ [] →
      ((∃ k ∈ rows, s.rowFree k = false) → refused (.poolBind false) 0x02) ∧
      ((∀ k ∈ rows, s.rowFree k = true ∧ s.domClass (domOf k) = recNum b 17 1) →
        done (.poolBind false) (BitVec.ofNat 64 (d + 1)) (fun t => (i ∈ rows → (t.row i).pool = some d ∧
          (t.row i).csr.pweight = BitVec.ofNat 4 (recNum b 18 1) ∧ (t.row i).v = (s.row i).v) ∧
          (i ∉ rows → t.row i = s.row i)))) ∧
    (Runs s 0x22 r → done .poolUnbind 0 (fun t =>
      let named : Prop := i ∈ maskRows r.w1.toNat (r.w2.toNat + 2 ^ 64 * r.w3.toNat)
      (named → (s.row i).pool ≠ none → (s.row i).life = .idle → (t.row i).pool = none) ∧
      (named → (s.row i).pool ≠ none → (s.row i).life ≠ .idle → t.row i = { s.row i with unbind := true }) ∧
      (¬ named ∨ (s.row i).pool = none → t.row i = s.row i))) ∧
    (Runs s 0x40 r → r.w1.toNat % 16 = 0 → 0 < r.w2.toNat → r.w2.toNat ≤ 1048576 →
      s.vaRead r.w1 (16 * r.w2.toNat) false = (some b, s1) →
      (ringEntries b r.w2.toNat r.w2.toNat s1 = (some es, s2) → es ≠ [] →
        done (.ringLoad false) (BitVec.ofNat 64 (ringT es)) (fun t => t.job.ring = { s2.job.ring with next := some es })) ∧
      (ringEntries b r.w2.toNat r.w2.toNat s1 = (none, s2) → refused (.ringLoad false) 0x09)) ∧
    (Runs s 0x50 r →
      (r.w2.toNat ≤ 2 → s.dev.wired.getLsbD r.w1.toNat = false → refused .linkUp 0x0A) ∧
      (r.w2.toNat ≤ 2 → s.dev.wired.getLsbD r.w1.toNat = true → ∃ z, done .linkUp z (fun t => (t.port r.w1.toNat).up = true ∧
        (t.port r.w1.toNat).chainEnd = r.w2.toNat ∧ (t.port r.w1.toNat).rxSeq = 0 ∧ (t.port r.w1.toNat).txSeq = 0 ∧
        (i < 4 → tget 0 (t.port r.w1.toNat).credit i = Config.linkBuffers false i ∧
          tget 0 (t.port r.w1.toNat).room i = Config.linkBuffers true i) ∧
        (i ≠ r.w1.toNat → i < 16 → r.w2 ≠ 0 → (t.port i).chainEnd ≠ r.w2.toNat) ∧ t.job = s.job)) ∧
      (2 < r.w2.toNat → refused .linkUp 0x03)) ∧
    (Runs s 0x51 r → r.w1.toNat ≤ 63 → r.w2.toNat % 8 = 0 → s.paRead r.w2 32 false = some h → recNum h 0 8 < 2 ^ 18 →
      recNum h 8 8 < 2 ^ 17 → 2 ≤ recNum h 0 4 → recNum h 0 4 ≤ 131072 → recNum h 24 8 ≤ 4096 → recNum h 8 8 < recNum h 0 4 →
      recNum h 20 4 = 0 →
      s.paRead r.w2 ((32 + 4 * recNum h 0 4 + 7) / 8 * 8 + 8 * recNum h 24 8) false = some b →
      (commOf s b = .ok c → done (.commLoad false) 0 (fun t => t.comm r.w1.toNat = c ∧
        ∀ k, k ≠ r.w1.toNat → t.comm k = s.comm k)) ∧
      (∀ k, commOf s b = .error k → refused (.commLoad false) k))
end

