-- ==== Sys2Proof/Laws/Encoding.lean ====
section
/-! SUPPORT. The encoding tables read back: the parts of a built word, each format's fields, and each enumerated code. -/

namespace Sys2Proof

theorem bit_of_append {n m : Nat} (x : BitVec n) (y : BitVec m) (i : Nat) :
    (x ++ y).getLsbD i = if i < m then y.getLsbD i else x.getLsbD (i - m) := by
  rw [BitVec.getLsbD_append]

theorem bit_of_field {k : Nat} (lo n : Nat) (x : BitVec k) (i : Nat) (h : i < n) :
    (fieldAt lo n x).getLsbD i = x.getLsbD (lo + i) := by
  simp [fieldAt, h]

theorem field_eq {k n : Nat} {lo : Nat} {x : BitVec k} {y : BitVec n} (h : ∀ i, i < n → x.getLsbD (lo + i) = y.getLsbD i) :
    fieldAt lo n x = y :=
  BitVec.eq_of_getLsbD_eq (fun i hi => by rw [bit_of_field _ _ _ _ hi, h i hi])

/-! ### The parts of a word (Table 02-3) -/

theorem mkWord_bit (op : BitVec 8) (g : Guard) (x : Body) (i : Nat) : (mkWord op g x).getLsbD i =
    (op ++ g.tt ++ g.ga ++ g.gb ++ g.gc ++ x : BitVec (8 + 8 + 3 + 3 + 3 + 39)).getLsbD i := rfl

theorem wordOp_mkWord (op : BitVec 8) (g : Guard) (x : Body) : wordOp (mkWord op g x) = op.toNat := by
  refine congrArg BitVec.toNat (field_eq (fun i hi => ?_))
  simp only [mkWord_bit, bit_of_append]
  split_ifs <;> first | omega | (congr 1; omega)

theorem wordBody_mkWord (op : BitVec 8) (g : Guard) (x : Body) : fieldAt 0 39 (mkWord op g x) = x := by
  refine field_eq (fun i hi => ?_)
  simp only [mkWord_bit, bit_of_append]
  rw [if_pos (by omega)]
  congr 1; omega

theorem wordGuard_mkWord (op : BitVec 8) (g : Guard) (x : Body) : wordGuard (mkWord op g x) = g := by
  obtain ⟨t, a, b, c⟩ := g
  simp only [wordGuard, Guard.mk.injEq]
  refine ⟨field_eq (fun i hi => ?_), field_eq (fun i hi => ?_), field_eq (fun i hi => ?_), field_eq (fun i hi => ?_)⟩ <;>
  · simp only [mkWord_bit, bit_of_append]
    split_ifs <;> first | omega | (congr 1; omega)

/-! ### Each format reads back what it was built from (Table 02-4) -/

theorem FmtR.pack_bit (f : FmtR) (i : Nat) : f.pack.getLsbD i =
    (f.d ++ f.a ++ f.m ++ f.b ++ f.fn : BitVec (6 + 6 + 12 + 6 + 9)).getLsbD i := rfl
theorem FmtR.unpack_pack (f : FmtR) : FmtR.unpack f.pack = f := by
  obtain ⟨d, a, m, b, fn⟩ := f
  simp only [FmtR.unpack, FmtR.mk.injEq]
  refine ⟨field_eq (fun i hi => ?_), field_eq (fun i hi => ?_), field_eq (fun i hi => ?_), field_eq (fun i hi => ?_), field_eq (fun i hi => ?_)⟩ <;>
  · simp only [FmtR.pack_bit, bit_of_append]
    split_ifs <;> first | omega | (congr 1; omega)

theorem FmtI.pack_bit (f : FmtI) (i : Nat) : f.pack.getLsbD i =
    (f.d ++ f.a ++ f.imm : BitVec (6 + 6 + 27)).getLsbD i := rfl
theorem FmtI.unpack_pack (f : FmtI) : FmtI.unpack f.pack = f := by
  obtain ⟨d, a, imm⟩ := f
  simp only [FmtI.unpack, FmtI.mk.injEq]
  refine ⟨field_eq (fun i hi => ?_), field_eq (fun i hi => ?_), field_eq (fun i hi => ?_)⟩ <;>
  · simp only [FmtI.pack_bit, bit_of_append]
    split_ifs <;> first | omega | (congr 1; omega)

theorem FmtC.pack_bit (f : FmtC) (i : Nat) : f.pack.getLsbD i =
    (f.pt ++ f.pf ++ f.a ++ f.m ++ f.b ++ f.cond ++ f.ty ++ f.cmb : BitVec (3 + 3 + 6 + 12 + 6 + 4 + 3 + 2)).getLsbD i := rfl
theorem FmtC.unpack_pack (f : FmtC) : FmtC.unpack f.pack = f := by
  obtain ⟨pt, pf, a, m, b, cond, ty, cmb⟩ := f
  simp only [FmtC.unpack, FmtC.mk.injEq]
  refine ⟨field_eq (fun i hi => ?_), field_eq (fun i hi => ?_), field_eq (fun i hi => ?_), field_eq (fun i hi => ?_), field_eq (fun i hi => ?_), field_eq (fun i hi => ?_), field_eq (fun i hi => ?_), field_eq (fun i hi => ?_)⟩ <;>
  · simp only [FmtC.pack_bit, bit_of_append]
    split_ifs <;> first | omega | (congr 1; omega)

theorem FmtB.pack_bit (f : FmtB) (i : Nat) : f.pack.getLsbD i =
    (f.pr ++ f.k ++ f.off : BitVec (3 + 3 + 33)).getLsbD i := rfl
theorem FmtB.unpack_pack (f : FmtB) : FmtB.unpack f.pack = f := by
  obtain ⟨pr, k, off⟩ := f
  simp only [FmtB.unpack, FmtB.mk.injEq]
  refine ⟨field_eq (fun i hi => ?_), field_eq (fun i hi => ?_), field_eq (fun i hi => ?_)⟩ <;>
  · simp only [FmtB.pack_bit, bit_of_append]
    split_ifs <;> first | omega | (congr 1; omega)

theorem FmtM.pack_bit (f : FmtM) (i : Nat) : f.pack.getLsbD i =
    (f.d ++ f.base ++ f.idx ++ f.sz ++ f.sc ++ f.off ++ BitVec.ofBool f.vol ++ BitVec.ofBool f.own ++ BitVec.ofBool f.rsv ++ BitVec.ofBool f.fs : BitVec (6 + 5 + 6 + 3 + 3 + 12 + 1 + 1 + 1 + 1)).getLsbD i := rfl
theorem FmtM.pack_d (f : FmtM) : fieldAt 33 6 f.pack = f.d :=
  field_eq (fun i hi => by
    rw [FmtM.pack_bit]
    iterate 9 rw [bit_of_append, if_neg (by omega)]
    congr 1; omega)
theorem FmtM.pack_base (f : FmtM) : fieldAt 28 5 f.pack = f.base :=
  field_eq (fun i hi => by
    rw [FmtM.pack_bit]
    iterate 8 rw [bit_of_append, if_neg (by omega)]
    rw [bit_of_append, if_pos (by omega)]
    congr 1; omega)
theorem FmtM.pack_idx (f : FmtM) : fieldAt 22 6 f.pack = f.idx :=
  field_eq (fun i hi => by
    rw [FmtM.pack_bit]
    iterate 7 rw [bit_of_append, if_neg (by omega)]
    rw [bit_of_append, if_pos (by omega)]
    congr 1; omega)
theorem FmtM.pack_sz (f : FmtM) : fieldAt 19 3 f.pack = f.sz :=
  field_eq (fun i hi => by
    rw [FmtM.pack_bit]
    iterate 6 rw [bit_of_append, if_neg (by omega)]
    rw [bit_of_append, if_pos (by omega)]
    congr 1; omega)
theorem FmtM.pack_sc (f : FmtM) : fieldAt 16 3 f.pack = f.sc :=
  field_eq (fun i hi => by
    rw [FmtM.pack_bit]
    iterate 5 rw [bit_of_append, if_neg (by omega)]
    rw [bit_of_append, if_pos (by omega)]
    congr 1; omega)
theorem FmtM.pack_off (f : FmtM) : fieldAt 4 12 f.pack = f.off :=
  field_eq (fun i hi => by
    rw [FmtM.pack_bit]
    iterate 4 rw [bit_of_append, if_neg (by omega)]
    rw [bit_of_append, if_pos (by omega)]
    congr 1; omega)
theorem FmtM.pack_vol (f : FmtM) : f.pack.getLsbD 3 = f.vol := by
  rw [FmtM.pack_bit]
  iterate 3 rw [bit_of_append, if_neg (by omega)]
  rw [bit_of_append, if_pos (by omega)]
  simp
theorem FmtM.pack_own (f : FmtM) : f.pack.getLsbD 2 = f.own := by
  rw [FmtM.pack_bit]
  iterate 2 rw [bit_of_append, if_neg (by omega)]
  rw [bit_of_append, if_pos (by omega)]
  simp
theorem FmtM.pack_rsv (f : FmtM) : f.pack.getLsbD 1 = f.rsv := by
  rw [FmtM.pack_bit]
  iterate 1 rw [bit_of_append, if_neg (by omega)]
  rw [bit_of_append, if_pos (by omega)]
  simp
theorem FmtM.pack_fs (f : FmtM) : f.pack.getLsbD 0 = f.fs := by
  rw [FmtM.pack_bit]
  rw [bit_of_append, if_pos (by omega)]
  simp
theorem FmtM.unpack_pack (f : FmtM) : FmtM.unpack f.pack = f := by
  rw [FmtM.unpack, f.pack_d, f.pack_base, f.pack_idx, f.pack_sz, f.pack_sc, f.pack_off, f.pack_vol, f.pack_own, f.pack_rsv, f.pack_fs]

theorem FmtX.pack_bit (f : FmtX) (i : Nat) : f.pack.getLsbD i =
    (f.d ++ f.dk ++ f.ak ++ f.a ++ f.n ++ f.fmt ++ BitVec.ofBool f.sa ++ f.ss ++ f.nk ++ f.rsv ++ BitVec.ofBool f.fs : BitVec (7 + 2 + 2 + 6 + 8 + 3 + 1 + 5 + 2 + 2 + 1)).getLsbD i := rfl
theorem FmtX.pack_d (f : FmtX) : fieldAt 32 7 f.pack = f.d :=
  field_eq (fun i hi => by
    rw [FmtX.pack_bit]
    iterate 10 rw [bit_of_append, if_neg (by omega)]
    congr 1; omega)
theorem FmtX.pack_dk (f : FmtX) : fieldAt 30 2 f.pack = f.dk :=
  field_eq (fun i hi => by
    rw [FmtX.pack_bit]
    iterate 9 rw [bit_of_append, if_neg (by omega)]
    rw [bit_of_append, if_pos (by omega)]
    congr 1; omega)
theorem FmtX.pack_ak (f : FmtX) : fieldAt 28 2 f.pack = f.ak :=
  field_eq (fun i hi => by
    rw [FmtX.pack_bit]
    iterate 8 rw [bit_of_append, if_neg (by omega)]
    rw [bit_of_append, if_pos (by omega)]
    congr 1; omega)
theorem FmtX.pack_a (f : FmtX) : fieldAt 22 6 f.pack = f.a :=
  field_eq (fun i hi => by
    rw [FmtX.pack_bit]
    iterate 7 rw [bit_of_append, if_neg (by omega)]
    rw [bit_of_append, if_pos (by omega)]
    congr 1; omega)
theorem FmtX.pack_n (f : FmtX) : fieldAt 14 8 f.pack = f.n :=
  field_eq (fun i hi => by
    rw [FmtX.pack_bit]
    iterate 6 rw [bit_of_append, if_neg (by omega)]
    rw [bit_of_append, if_pos (by omega)]
    congr 1; omega)
theorem FmtX.pack_fmt (f : FmtX) : fieldAt 11 3 f.pack = f.fmt :=
  field_eq (fun i hi => by
    rw [FmtX.pack_bit]
    iterate 5 rw [bit_of_append, if_neg (by omega)]
    rw [bit_of_append, if_pos (by omega)]
    congr 1; omega)
theorem FmtX.pack_sa (f : FmtX) : f.pack.getLsbD 10 = f.sa := by
  rw [FmtX.pack_bit]
  iterate 4 rw [bit_of_append, if_neg (by omega)]
  rw [bit_of_append, if_pos (by omega)]
  simp
theorem FmtX.pack_ss (f : FmtX) : fieldAt 5 5 f.pack = f.ss :=
  field_eq (fun i hi => by
    rw [FmtX.pack_bit]
    iterate 3 rw [bit_of_append, if_neg (by omega)]
    rw [bit_of_append, if_pos (by omega)]
    congr 1; omega)
theorem FmtX.pack_nk (f : FmtX) : fieldAt 3 2 f.pack = f.nk :=
  field_eq (fun i hi => by
    rw [FmtX.pack_bit]
    iterate 2 rw [bit_of_append, if_neg (by omega)]
    rw [bit_of_append, if_pos (by omega)]
    congr 1; omega)
theorem FmtX.pack_rsv (f : FmtX) : fieldAt 1 2 f.pack = f.rsv :=
  field_eq (fun i hi => by
    rw [FmtX.pack_bit]
    iterate 1 rw [bit_of_append, if_neg (by omega)]
    rw [bit_of_append, if_pos (by omega)]
    congr 1; omega)
theorem FmtX.pack_fs (f : FmtX) : f.pack.getLsbD 0 = f.fs := by
  rw [FmtX.pack_bit]
  rw [bit_of_append, if_pos (by omega)]
  simp
theorem FmtX.unpack_pack (f : FmtX) : FmtX.unpack f.pack = f := by
  rw [FmtX.unpack, f.pack_d, f.pack_dk, f.pack_ak, f.pack_a, f.pack_n, f.pack_fmt, f.pack_sa, f.pack_ss, f.pack_nk, f.pack_rsv, f.pack_fs]

theorem FmtE.pack_bit (f : FmtE) (i : Nat) : f.pack.getLsbD i =
    (f.a ++ f.b ++ f.c ++ f.imm ++ BitVec.ofBool f.fs : BitVec (5 + 5 + 5 + 23 + 1)).getLsbD i := rfl
theorem FmtE.unpack_pack (f : FmtE) : FmtE.unpack f.pack = f := by
  obtain ⟨a, b, c, imm, fs⟩ := f
  simp only [FmtE.unpack, FmtE.mk.injEq]
  refine ⟨field_eq (fun i hi => ?_), field_eq (fun i hi => ?_), field_eq (fun i hi => ?_), field_eq (fun i hi => ?_), ?_⟩ <;>
  · simp only [FmtE.pack_bit, bit_of_append]
    first
    | (split_ifs <;> first | omega | (congr 1; omega))
    | simp

theorem FmtS.pack_bit (f : FmtS) (i : Nat) : f.pack.getLsbD i =
    (f.fn ++ f.imm : BitVec (12 + 27)).getLsbD i := rfl
theorem FmtS.unpack_pack (f : FmtS) : FmtS.unpack f.pack = f := by
  obtain ⟨fn, imm⟩ := f
  simp only [FmtS.unpack, FmtS.mk.injEq]
  refine ⟨field_eq (fun i hi => ?_), field_eq (fun i hi => ?_)⟩ <;>
  · simp only [FmtS.pack_bit, bit_of_append]
    split_ifs <;> first | omega | (congr 1; omega)

/-! ### Enumerated codes -/

theorem named_enc_SaluOp (o : SaluOp) : named SaluOp.all (enc 9 SaluOp.all o) = some o := by cases o <;> rfl
theorem named_enc_VOp (o : VOp) : named VOp.all (enc 6 VOp.all o) = some o := by cases o <;> rfl
theorem named_enc_VW (o : VW) : named VW.all (enc 2 VW.all o) = some o := by cases o <;> rfl
theorem named_enc_MadOp (o : MadOp) : named MadOp.all (enc 2 MadOp.all o) = some o := by cases o <;> rfl
theorem named_enc_RedOp (o : RedOp) : named RedOp.all (enc 3 RedOp.all o) = some o := by cases o <;> rfl
theorem named_enc_FTy (o : FTy) : named FTy.all (enc 2 FTy.all o) = some o := by cases o <;> rfl
theorem named_enc_Rnd (o : Rnd) : named Rnd.all (enc 2 Rnd.all o) = some o := by cases o <;> rfl
theorem named_enc_FaluOp (o : FaluOp) : named FaluOp.all (enc 4 FaluOp.all o) = some o := by cases o <;> rfl
theorem named_enc_FmaOp (o : FmaOp) : named FmaOp.all (enc 2 FmaOp.all o) = some o := by cases o <;> rfl
theorem named_enc_FunOp (o : FunOp) : named FunOp.all (enc 3 FunOp.all o) = some o := by cases o <;> rfl
theorem named_enc_Half (o : Half) : named Half.all (enc 2 Half.all o) = some o := by cases o <;> rfl
theorem named_enc_FredOp (o : FredOp) : named FredOp.all (enc 2 FredOp.all o) = some o := by cases o <;> rfl
theorem named_enc_CTy (o : CTy) : named CTy.all (enc 3 CTy.all o) = some o := by cases o <;> rfl
theorem named_enc_Cond (o : Cond) : named Cond.all (enc 4 Cond.all o) = some o := by cases o <;> rfl
theorem named_enc_Cmb (o : Cmb) : named Cmb.all (enc 2 Cmb.all o) = some o := by cases o <;> rfl
theorem named_enc_AFn (o : AFn) : named AFn.all (enc 4 AFn.all o) = some o := by cases o <;> rfl
theorem named_enc_BarOp (o : BarOp) : named BarOp.all (enc 3 BarOp.all o) = some o := by cases o <;> rfl
theorem named_enc_Form3 (o : Form3) : named Form3.all (enc 2 Form3.all o) = some o := by cases o <;> rfl
theorem named_enc_CsrMode (o : CsrMode) : named CsrMode.all (enc 2 CsrMode.all o) = some o := by cases o <;> rfl
theorem csr_ofNumber_number (c : Csr) : Csr.ofNumber (BitVec.ofNat 12 c.number) = some c := by cases c <;> rfl

/-- R54: a scalar register number in a 6-bit field reads back. -/
theorem sregOf_six (x : SReg) : sregOf (six x) = some x := by revert x; decide
theorem predOf_six (x : PReg) : predOf (six x) = some x := by revert x; decide

/-! ### Modifiers and orders (Tables 02-5 and 11-2) -/

theorem amod_parts (k : BitVec 2) (s : BitVec 4) (d : BitVec 6) :
    fieldAt 10 2 (k ++ s ++ d : BitVec 12) = k ∧ fieldAt 6 4 (k ++ s ++ d : BitVec 12) = s ∧
      fieldAt 0 6 (k ++ s ++ d : BitVec 12) = d := by
  refine ⟨field_eq (fun i hi => ?_), field_eq (fun i hi => ?_), field_eq (fun i hi => ?_)⟩ <;>
  · simp only [bit_of_append]
    split_ifs <;> first | omega | (congr 1; omega)

/-- Every modifier reads back, whatever its seg and dist. -/
theorem amodOf_bits (m : Amod) : amodOf m.bits = some m := by
  cases m with
  | none => rfl
  | rot s d =>
    obtain ⟨h1, h2, h3⟩ := amod_parts 1#2 s d
    rw [amodOf, Amod.bits, h1, h2, h3]
    rfl
  | bfly s d =>
    obtain ⟨h1, h2, h3⟩ := amod_parts 2#2 s d
    rw [amodOf, Amod.bits, h1, h2, h3]
    rfl
  | bcast s d =>
    obtain ⟨h1, h2, h3⟩ := amod_parts 3#2 s d
    rw [amodOf, Amod.bits, h1, h2, h3]
    rfl

/-- Every order and scope reads back from its two fields. -/
theorem aordOf_bits (o : AOrd) : aordOf (fieldAt 3 2 o.bits) (fieldAt 0 3 o.bits) = some o := by
  cases o with
  | relaxed => rfl
  | acq s | rel s | acqrel s => cases s <;> rfl

end Sys2Proof
end

