-- ==== Sys2Proof/Laws/Table.lean ====
section
/-! SUPPORT. Laws of sparse tables: read after write, writes elsewhere, and the canonical form. -/

namespace Sys2Proof.Machine

variable {α : Type}

@[simp] theorem tget_nil (d : α) (n : Nat) : tget d [] n = d := rfl

theorem tget_tdel_same (d : α) (t : Tbl α) (n : Nat) : tget d (tdel t n) n = d := by
  induction t with
  | nil => rfl
  | cons e r ih =>
    obtain ⟨k, x⟩ := e
    simp only [tdel]
    split
    · exact ih
    · simp [tget, *]

theorem tget_tdel_ne (d : α) (t : Tbl α) {n m : Nat} (h : m ≠ n) : tget d (tdel t n) m = tget d t m := by
  induction t with
  | nil => rfl
  | cons e r ih =>
    obtain ⟨k, x⟩ := e
    simp only [tdel]
    split
    · subst k; simp [tget, h, ih]
    · simp only [tget, ih]

theorem tget_tput_same (d : α) (t : Tbl α) (n : Nat) (x : α) (h : tget d t n = d) (hx : ∀ y, (n, y) ∉ t) :
    tget d (tput t n x) n = x := by
  induction t with
  | nil => simp [tput, tget]
  | cons e r ih =>
    obtain ⟨k, y⟩ := e
    have hk : n ≠ k := fun e => hx y (by simp [e])
    simp only [tput]
    split
    · simp [tget]
    · simp only [tget, hk, if_false] at h ⊢
      exact ih h (fun z hz => hx z (List.mem_cons_of_mem _ hz))

theorem notMem_tdel (t : Tbl α) (n : Nat) (y : α) : (n, y) ∉ tdel t n := by
  induction t with
  | nil => simp [tdel]
  | cons e r ih =>
    obtain ⟨k, x⟩ := e
    simp only [tdel]
    split
    · exact ih
    · simp only [List.mem_cons, Prod.mk.injEq, not_or]
      exact ⟨fun h => by simp_all, ih⟩

theorem tget_tput_ne (d : α) (t : Tbl α) {n m : Nat} (x : α) (h : m ≠ n) : tget d (tput t n x) m = tget d t m := by
  induction t with
  | nil => simp [tput, tget, h]
  | cons e r ih =>
    obtain ⟨k, y⟩ := e
    simp only [tput]
    split
    · simp [tget, h]
    · simp only [tget, ih]

variable [DecidableEq α]

/-- A read of the key just written gives what was written. -/
@[simp] theorem tget_tset_same (d : α) (t : Tbl α) (n : Nat) (x : α) : tget d (tset d t n x) n = x := by
  unfold tset
  split
  · rw [tget_tdel_same]; exact (‹x = d›).symm
  · exact tget_tput_same d _ n x (tget_tdel_same d t n) (notMem_tdel t n)

/-- A write leaves every other key alone. -/
theorem tget_tset_ne (d : α) (t : Tbl α) {n m : Nat} (x : α) (h : m ≠ n) : tget d (tset d t n x) m = tget d t m := by
  unfold tset
  split
  · exact tget_tdel_ne d t h
  · rw [tget_tput_ne d _ x h, tget_tdel_ne d t h]

theorem tget_tset (d : α) (t : Tbl α) (n m : Nat) (x : α) :
    tget d (tset d t n x) m = if m = n then x else tget d t m := by
  split
  · subst m; simp
  · exact tget_tset_ne d t x ‹_›

theorem tget_tmod (d : α) (t : Tbl α) (n m : Nat) (f : α → α) :
    tget d (tmod d t n f) m = if m = n then f (tget d t n) else tget d t m := tget_tset d t n m _

/-- Keys written in turn: a key that none of the writes names keeps its entry. -/
theorem tget_tsets_ne (d : α) (l : List (Nat × α)) (t : Tbl α) (m : Nat) (h : ∀ e ∈ l, e.1 ≠ m) :
    tget d (tsets d t l) m = tget d t m := by
  induction l generalizing t with
  | nil => rfl
  | cons e r ih =>
    have h1 := ih (tset d t e.1 e.2) (fun x hx => h x (List.mem_cons_of_mem _ hx))
    simp only [tsets, List.foldl_cons] at h1 ⊢
    rw [h1, tget_tset_ne d t e.2 (fun he => h e (by simp) he.symm)]

/-- Distinct keys written in turn by a function: each reads its own value. -/
theorem tget_tsets_map (d : α) (f : Nat → Nat) (g : Nat → α) (l : List Nat) (t : Tbl α) (k : Nat)
    (hk : k ∈ l) (hf : ∀ a ∈ l, ∀ b ∈ l, f a = f b → a = b) :
    tget d (tsets d t (l.map (fun a => (f a, g a)))) (f k) = g k := by
  induction l generalizing t with
  | nil => simp at hk
  | cons a r ih =>
    simp only [tsets, List.map_cons, List.foldl_cons]
    by_cases hkr : k ∈ r
    · exact ih _ hkr (fun x hx y hy => hf x (List.mem_cons_of_mem _ hx) y (List.mem_cons_of_mem _ hy))
    · have hka : k = a := by simpa [hkr] using hk
      subst hka
      have := tget_tsets_ne d (r.map (fun a => (f a, g a))) (tset d t (f k) (g k)) (f k) (by
        intro e he
        obtain ⟨b, hb, rfl⟩ := List.mem_map.1 he
        intro hfb
        exact hkr (hf b (List.mem_cons_of_mem _ hb) k (by simp) hfb ▸ hb))
      simp only [tsets] at this
      rw [this, tget_tset_same]

/-! ### Canonical form -/

theorem twfFrom_tdel (d : α) (t : Tbl α) (n : Nat) (lo : Option Nat) (h : twfFrom d lo t = true) :
    twfFrom d lo (tdel t n) = true := by
  induction t generalizing lo with
  | nil => rfl
  | cons e r ih =>
    obtain ⟨k, x⟩ := e
    simp only [twfFrom, Bool.and_eq_true] at h
    simp only [tdel]
    split
    · have h2 := ih (some k) h.2
      revert h2
      cases hd : tdel r n with
      | nil => intro; rfl
      | cons e2 r2 =>
        obtain ⟨k2, x2⟩ := e2
        simp only [twfFrom, Bool.and_eq_true, decide_eq_true_eq]
        intro h2
        refine ⟨⟨?_, h2.1.2⟩, h2.2⟩
        cases lo with
        | none => rfl
        | some b => have := h.1.1; simp only [decide_eq_true_eq] at this ⊢; omega
    · simp only [twfFrom, Bool.and_eq_true]
      exact ⟨h.1, ih _ h.2⟩

theorem twfFrom_tput (d : α) (t : Tbl α) (n : Nat) (x : α) (lo : Option Nat) (h : twfFrom d lo t = true)
    (hx : x ≠ d) (hn : ∀ y, (n, y) ∉ t) (hlo : ∀ b, lo = some b → b < n) : twfFrom d lo (tput t n x) = true := by
  induction t generalizing lo with
  | nil =>
    cases lo with
    | none => simp [tput, twfFrom, hx]
    | some b => simp [tput, twfFrom, hx, hlo b rfl]
  | cons e r ih =>
    obtain ⟨k, y⟩ := e
    simp only [twfFrom, Bool.and_eq_true] at h
    have hk : n ≠ k := fun he => hn y (by simp [he])
    simp only [tput]
    split
    · simp only [twfFrom, Bool.and_eq_true]
      refine ⟨⟨?_, by simpa using hx⟩, ⟨by simpa using ‹n < k›, h.1.2⟩, h.2⟩
      cases lo with
      | none => rfl
      | some b => simpa using hlo b rfl
    · simp only [twfFrom, Bool.and_eq_true]
      exact ⟨h.1, ih _ h.2 (fun z hz => hn z (List.mem_cons_of_mem _ hz)) (fun b hb => by cases hb; omega)⟩

/-- A write keeps the canonical form. -/
theorem twf_tset (d : α) (t : Tbl α) (n : Nat) (x : α) (h : twf d t = true) : twf d (tset d t n x) = true := by
  unfold tset
  split
  · exact twfFrom_tdel d t n none h
  · exact twfFrom_tput d _ n x none (twfFrom_tdel d t n none h) ‹_› (notMem_tdel t n) (by simp)

theorem twf_tsets (d : α) (l : List (Nat × α)) (t : Tbl α) (h : twf d t = true) : twf d (tsets d t l) = true := by
  induction l generalizing t with
  | nil => exact h
  | cons e r ih => exact ih _ (twf_tset d t e.1 e.2 h)

theorem twfFrom_filter (d : α) (f : Nat × α → Bool) (t : Tbl α) (lo : Option Nat) (h : twfFrom d lo t = true) :
    twfFrom d lo (t.filter f) = true := by
  induction t generalizing lo with
  | nil => rfl
  | cons e r ih =>
    obtain ⟨k, x⟩ := e
    simp only [twfFrom, Bool.and_eq_true] at h
    rw [List.filter_cons]
    split
    · simp only [twfFrom, Bool.and_eq_true]
      exact ⟨h.1, ih _ h.2⟩
    · have h2 := ih (some k) h.2
      revert h2
      cases hd : r.filter f with
      | nil => intro; rfl
      | cons e2 r2 =>
        obtain ⟨k2, x2⟩ := e2
        simp only [twfFrom, Bool.and_eq_true, decide_eq_true_eq]
        intro h2
        refine ⟨⟨?_, h2.1.2⟩, h2.2⟩
        cases lo with
        | none => rfl
        | some b => have := h.1.1; simp only [decide_eq_true_eq] at this ⊢; omega

/-- A part of a canonical table is canonical. -/
theorem twf_filter (d : α) (f : Nat × α → Bool) (t : Tbl α) (h : twf d t = true) : twf d (t.filter f) = true :=
  twfFrom_filter d f t none h

theorem twfFrom_remap (d : α) (f : Nat → α) (t : Tbl α) (lo : Option Nat) (h : twfFrom d lo t = true) :
    twfFrom d lo ((t.map (fun e => (e.1, f e.1))).filter (fun e => e.2 != d)) = true := by
  induction t generalizing lo with
  | nil => rfl
  | cons e r ih =>
    obtain ⟨k, x⟩ := e
    simp only [twfFrom, Bool.and_eq_true] at h
    have weaken : ∀ t : Tbl α, twfFrom d (some k) t = true → twfFrom d lo t = true := by
      intro t ht
      cases t with
      | nil => rfl
      | cons a t =>
        simp only [twfFrom, Bool.and_eq_true] at ht ⊢
        refine ⟨⟨?_, ht.1.2⟩, ht.2⟩
        cases lo with
        | none => rfl
        | some b => have h1 := h.1.1; have h2 := ht.1.1; simp only [decide_eq_true_eq] at h1 h2 ⊢; omega
    simp only [List.map_cons, List.filter_cons]
    split
    · rename_i hx
      simp only [twfFrom, Bool.and_eq_true]
      exact ⟨⟨h.1.1, by simpa using hx⟩, ih _ h.2⟩
    · exact weaken _ (ih _ h.2)

/-- A canonical table whose keys take other values, those that are the default left out, is canonical. -/
theorem twf_remap (d : α) (f : Nat → α) (t : Tbl α) (h : twf d t = true) :
    twf d ((t.map (fun e => (e.1, f e.1))).filter (fun e => e.2 != d)) = true := twfFrom_remap d f t none h

/-! ### Writing a key twice -/

theorem tdel_tdel {β : Type} (t : Tbl β) (n : Nat) : tdel (tdel t n) n = tdel t n := by
  induction t with
  | nil => rfl
  | cons e r ih =>
    obtain ⟨k, x⟩ := e
    by_cases h : n = k
    · simpa [tdel, h] using ih
    · simp [tdel, h, ih]

theorem tdel_tput {β : Type} (t : Tbl β) (n : Nat) (x : β) : tdel (tput t n x) n = tdel t n := by
  induction t with
  | nil => simp [tput, tdel]
  | cons e r ih =>
    obtain ⟨k, y⟩ := e
    by_cases h : n < k
    · simp [tput, tdel, h]
    · by_cases e : n = k
      · subst e; simpa [tput, tdel] using ih
      · simp [tput, tdel, h, e, ih]

theorem tset_tset (d : α) (t : Tbl α) (n : Nat) (x y : α) : tset d (tset d t n x) n y = tset d t n y := by
  have h : tdel (tset d t n x) n = tdel t n := by
    unfold tset
    split
    · exact tdel_tdel t n
    · rw [tdel_tput, tdel_tdel]
  unfold tset at h ⊢
  rw [h]

end Sys2Proof.Machine
end

