-- ==== Sys2Proof/Laws/State.lean ====
section
/-! SUPPORT. What each update of the state leaves of each part: one lemma per field and update. -/

namespace Sys2Proof.Machine

/-! ### State.setRow -/

@[simp] theorem setRow_job_mem (s : State) (n : Nat) (x : Row) : (s.setRow n x).job.mem = s.job.mem := rfl
@[simp] theorem setRow_job_root (s : State) (n : Nat) (x : Row) : (s.setRow n x).job.root = s.job.root := rfl
@[simp] theorem setRow_job_tvec (s : State) (n : Nat) (x : Row) : (s.setRow n x).job.tvec = s.job.tvec := rfl
@[simp] theorem setRow_job_hamper (s : State) (n : Nat) (x : Row) : (s.setRow n x).job.hamper = s.job.hamper := rfl
@[simp] theorem setRow_job_pinned (s : State) (n : Nat) (x : Row) : (s.setRow n x).job.pinned = s.job.pinned := rfl
@[simp] theorem setRow_job_tier (s : State) (n : Nat) (x : Row) : (s.setRow n x).job.tier = s.job.tier := rfl
@[simp] theorem setRow_job_dies (s : State) (n : Nat) (x : Row) : (s.setRow n x).job.dies = s.job.dies := rfl
@[simp] theorem setRow_job_doms (s : State) (n : Nat) (x : Row) : (s.setRow n x).job.doms = s.job.doms := rfl
@[simp] theorem setRow_job_alloc (s : State) (n : Nat) (x : Row) : (s.setRow n x).job.alloc = s.job.alloc := rfl
@[simp] theorem setRow_job_desc (s : State) (n : Nat) (x : Row) : (s.setRow n x).job.desc = s.job.desc := rfl
@[simp] theorem setRow_job_checked (s : State) (n : Nat) (x : Row) : (s.setRow n x).job.checked = s.job.checked := rfl
@[simp] theorem setRow_job_owner (s : State) (n : Nat) (x : Row) : (s.setRow n x).job.owner = s.job.owner := rfl
@[simp] theorem setRow_job_pls (s : State) (n : Nat) (x : Row) : (s.setRow n x).job.pls = s.job.pls := rfl
@[simp] theorem setRow_job_nextPl (s : State) (n : Nat) (x : Row) : (s.setRow n x).job.nextPl = s.job.nextPl := rfl
@[simp] theorem setRow_job_readySerial (s : State) (n : Nat) (x : Row) : (s.setRow n x).job.readySerial = s.job.readySerial := rfl
@[simp] theorem setRow_job_ring (s : State) (n : Nat) (x : Row) : (s.setRow n x).job.ring = s.job.ring := rfl
@[simp] theorem setRow_job_commit (s : State) (n : Nat) (x : Row) : (s.setRow n x).job.commit = s.job.commit := rfl
@[simp] theorem setRow_job_comms (s : State) (n : Nat) (x : Row) : (s.setRow n x).job.comms = s.job.comms := rfl
@[simp] theorem setRow_job_linkTx (s : State) (n : Nat) (x : Row) : (s.setRow n x).job.linkTx = s.job.linkTx := rfl
@[simp] theorem setRow_job_linkRx (s : State) (n : Nat) (x : Row) : (s.setRow n x).job.linkRx = s.job.linkRx := rfl
@[simp] theorem setRow_job_chainOut (s : State) (n : Nat) (x : Row) : (s.setRow n x).job.chainOut = s.job.chainOut := rfl
@[simp] theorem setRow_job_tlb (s : State) (n : Nat) (x : Row) : (s.setRow n x).job.tlb = s.job.tlb := rfl
@[simp] theorem setRow_job_poolPar (s : State) (n : Nat) (x : Row) : (s.setRow n x).job.poolPar = s.job.poolPar := rfl
@[simp] theorem setRow_job_pre (s : State) (n : Nat) (x : Row) : (s.setRow n x).job.pre = s.job.pre := rfl
@[simp] theorem setRow_job_saved (s : State) (n : Nat) (x : Row) : (s.setRow n x).job.saved = s.job.saved := rfl
@[simp] theorem setRow_job_era (s : State) (n : Nat) (x : Row) : (s.setRow n x).job.era = s.job.era := rfl
@[simp] theorem setRow_job_linkStarts (s : State) (n : Nat) (x : Row) : (s.setRow n x).job.linkStarts = s.job.linkStarts := rfl
@[simp] theorem setRow_job_aborts (s : State) (n : Nat) (x : Row) : (s.setRow n x).job.aborts = s.job.aborts := rfl
@[simp] theorem setRow_job_chainSeal (s : State) (n : Nat) (x : Row) : (s.setRow n x).job.chainSeal = s.job.chainSeal := rfl
@[simp] theorem setRow_job_chainOld (s : State) (n : Nat) (x : Row) : (s.setRow n x).job.chainOld = s.job.chainOld := rfl
@[simp] theorem setRow_agenda (s : State) (n : Nat) (x : Row) : (s.setRow n x).agenda = s.agenda := rfl
@[simp] theorem setRow_cur (s : State) (n : Nat) (x : Row) : (s.setRow n x).cur = s.cur := rfl
@[simp] theorem setRow_drawn (s : State) (n : Nat) (x : Row) : (s.setRow n x).drawn = s.drawn := rfl
@[simp] theorem setRow_turn (s : State) (n : Nat) (x : Row) : (s.setRow n x).turn = s.turn := rfl
@[simp] theorem setRow_dev (s : State) (n : Nat) (x : Row) : (s.setRow n x).dev = s.dev := rfl
@[simp] theorem setRow_die (s : State) (n : Nat) (x : Row) (m : Nat) : (s.setRow n x).die m = s.die m := rfl
@[simp] theorem setRow_dom (s : State) (n : Nat) (x : Row) (m : Nat) : (s.setRow n x).dom m = s.dom m := rfl
@[simp] theorem setRow_byte (s : State) (n : Nat) (x : Row) (a : Nat) : (s.setRow n x).byte a = s.byte a := rfl

/-! ### State.setDie -/

@[simp] theorem setDie_job_mem (s : State) (n : Nat) (x : Die) : (s.setDie n x).job.mem = s.job.mem := rfl
@[simp] theorem setDie_job_root (s : State) (n : Nat) (x : Die) : (s.setDie n x).job.root = s.job.root := rfl
@[simp] theorem setDie_job_tvec (s : State) (n : Nat) (x : Die) : (s.setDie n x).job.tvec = s.job.tvec := rfl
@[simp] theorem setDie_job_hamper (s : State) (n : Nat) (x : Die) : (s.setDie n x).job.hamper = s.job.hamper := rfl
@[simp] theorem setDie_job_pinned (s : State) (n : Nat) (x : Die) : (s.setDie n x).job.pinned = s.job.pinned := rfl
@[simp] theorem setDie_job_tier (s : State) (n : Nat) (x : Die) : (s.setDie n x).job.tier = s.job.tier := rfl
@[simp] theorem setDie_job_rows (s : State) (n : Nat) (x : Die) : (s.setDie n x).job.rows = s.job.rows := rfl
@[simp] theorem setDie_job_doms (s : State) (n : Nat) (x : Die) : (s.setDie n x).job.doms = s.job.doms := rfl
@[simp] theorem setDie_job_alloc (s : State) (n : Nat) (x : Die) : (s.setDie n x).job.alloc = s.job.alloc := rfl
@[simp] theorem setDie_job_desc (s : State) (n : Nat) (x : Die) : (s.setDie n x).job.desc = s.job.desc := rfl
@[simp] theorem setDie_job_checked (s : State) (n : Nat) (x : Die) : (s.setDie n x).job.checked = s.job.checked := rfl
@[simp] theorem setDie_job_owner (s : State) (n : Nat) (x : Die) : (s.setDie n x).job.owner = s.job.owner := rfl
@[simp] theorem setDie_job_pls (s : State) (n : Nat) (x : Die) : (s.setDie n x).job.pls = s.job.pls := rfl
@[simp] theorem setDie_job_nextPl (s : State) (n : Nat) (x : Die) : (s.setDie n x).job.nextPl = s.job.nextPl := rfl
@[simp] theorem setDie_job_readySerial (s : State) (n : Nat) (x : Die) : (s.setDie n x).job.readySerial = s.job.readySerial := rfl
@[simp] theorem setDie_job_ring (s : State) (n : Nat) (x : Die) : (s.setDie n x).job.ring = s.job.ring := rfl
@[simp] theorem setDie_job_commit (s : State) (n : Nat) (x : Die) : (s.setDie n x).job.commit = s.job.commit := rfl
@[simp] theorem setDie_job_comms (s : State) (n : Nat) (x : Die) : (s.setDie n x).job.comms = s.job.comms := rfl
@[simp] theorem setDie_job_linkTx (s : State) (n : Nat) (x : Die) : (s.setDie n x).job.linkTx = s.job.linkTx := rfl
@[simp] theorem setDie_job_linkRx (s : State) (n : Nat) (x : Die) : (s.setDie n x).job.linkRx = s.job.linkRx := rfl
@[simp] theorem setDie_job_chainOut (s : State) (n : Nat) (x : Die) : (s.setDie n x).job.chainOut = s.job.chainOut := rfl
@[simp] theorem setDie_job_tlb (s : State) (n : Nat) (x : Die) : (s.setDie n x).job.tlb = s.job.tlb := rfl
@[simp] theorem setDie_job_poolPar (s : State) (n : Nat) (x : Die) : (s.setDie n x).job.poolPar = s.job.poolPar := rfl
@[simp] theorem setDie_job_pre (s : State) (n : Nat) (x : Die) : (s.setDie n x).job.pre = s.job.pre := rfl
@[simp] theorem setDie_job_saved (s : State) (n : Nat) (x : Die) : (s.setDie n x).job.saved = s.job.saved := rfl
@[simp] theorem setDie_job_era (s : State) (n : Nat) (x : Die) : (s.setDie n x).job.era = s.job.era := rfl
@[simp] theorem setDie_job_linkStarts (s : State) (n : Nat) (x : Die) : (s.setDie n x).job.linkStarts = s.job.linkStarts := rfl
@[simp] theorem setDie_job_aborts (s : State) (n : Nat) (x : Die) : (s.setDie n x).job.aborts = s.job.aborts := rfl
@[simp] theorem setDie_job_chainSeal (s : State) (n : Nat) (x : Die) : (s.setDie n x).job.chainSeal = s.job.chainSeal := rfl
@[simp] theorem setDie_job_chainOld (s : State) (n : Nat) (x : Die) : (s.setDie n x).job.chainOld = s.job.chainOld := rfl
@[simp] theorem setDie_agenda (s : State) (n : Nat) (x : Die) : (s.setDie n x).agenda = s.agenda := rfl
@[simp] theorem setDie_cur (s : State) (n : Nat) (x : Die) : (s.setDie n x).cur = s.cur := rfl
@[simp] theorem setDie_drawn (s : State) (n : Nat) (x : Die) : (s.setDie n x).drawn = s.drawn := rfl
@[simp] theorem setDie_turn (s : State) (n : Nat) (x : Die) : (s.setDie n x).turn = s.turn := rfl
@[simp] theorem setDie_dev (s : State) (n : Nat) (x : Die) : (s.setDie n x).dev = s.dev := rfl
@[simp] theorem setDie_row (s : State) (n : Nat) (x : Die) (m : Nat) : (s.setDie n x).row m = s.row m := rfl
@[simp] theorem setDie_dom (s : State) (n : Nat) (x : Die) (m : Nat) : (s.setDie n x).dom m = s.dom m := rfl
@[simp] theorem setDie_byte (s : State) (n : Nat) (x : Die) (a : Nat) : (s.setDie n x).byte a = s.byte a := rfl

/-! ### State.setDom -/

@[simp] theorem setDom_job_mem (s : State) (n : Nat) (x : Domain) : (s.setDom n x).job.mem = s.job.mem := rfl
@[simp] theorem setDom_job_root (s : State) (n : Nat) (x : Domain) : (s.setDom n x).job.root = s.job.root := rfl
@[simp] theorem setDom_job_tvec (s : State) (n : Nat) (x : Domain) : (s.setDom n x).job.tvec = s.job.tvec := rfl
@[simp] theorem setDom_job_hamper (s : State) (n : Nat) (x : Domain) : (s.setDom n x).job.hamper = s.job.hamper := rfl
@[simp] theorem setDom_job_pinned (s : State) (n : Nat) (x : Domain) : (s.setDom n x).job.pinned = s.job.pinned := rfl
@[simp] theorem setDom_job_tier (s : State) (n : Nat) (x : Domain) : (s.setDom n x).job.tier = s.job.tier := rfl
@[simp] theorem setDom_job_rows (s : State) (n : Nat) (x : Domain) : (s.setDom n x).job.rows = s.job.rows := rfl
@[simp] theorem setDom_job_dies (s : State) (n : Nat) (x : Domain) : (s.setDom n x).job.dies = s.job.dies := rfl
@[simp] theorem setDom_job_alloc (s : State) (n : Nat) (x : Domain) : (s.setDom n x).job.alloc = s.job.alloc := rfl
@[simp] theorem setDom_job_desc (s : State) (n : Nat) (x : Domain) : (s.setDom n x).job.desc = s.job.desc := rfl
@[simp] theorem setDom_job_checked (s : State) (n : Nat) (x : Domain) : (s.setDom n x).job.checked = s.job.checked := rfl
@[simp] theorem setDom_job_owner (s : State) (n : Nat) (x : Domain) : (s.setDom n x).job.owner = s.job.owner := rfl
@[simp] theorem setDom_job_pls (s : State) (n : Nat) (x : Domain) : (s.setDom n x).job.pls = s.job.pls := rfl
@[simp] theorem setDom_job_nextPl (s : State) (n : Nat) (x : Domain) : (s.setDom n x).job.nextPl = s.job.nextPl := rfl
@[simp] theorem setDom_job_readySerial (s : State) (n : Nat) (x : Domain) : (s.setDom n x).job.readySerial = s.job.readySerial := rfl
@[simp] theorem setDom_job_ring (s : State) (n : Nat) (x : Domain) : (s.setDom n x).job.ring = s.job.ring := rfl
@[simp] theorem setDom_job_commit (s : State) (n : Nat) (x : Domain) : (s.setDom n x).job.commit = s.job.commit := rfl
@[simp] theorem setDom_job_comms (s : State) (n : Nat) (x : Domain) : (s.setDom n x).job.comms = s.job.comms := rfl
@[simp] theorem setDom_job_linkTx (s : State) (n : Nat) (x : Domain) : (s.setDom n x).job.linkTx = s.job.linkTx := rfl
@[simp] theorem setDom_job_linkRx (s : State) (n : Nat) (x : Domain) : (s.setDom n x).job.linkRx = s.job.linkRx := rfl
@[simp] theorem setDom_job_chainOut (s : State) (n : Nat) (x : Domain) : (s.setDom n x).job.chainOut = s.job.chainOut := rfl
@[simp] theorem setDom_job_tlb (s : State) (n : Nat) (x : Domain) : (s.setDom n x).job.tlb = s.job.tlb := rfl
@[simp] theorem setDom_job_poolPar (s : State) (n : Nat) (x : Domain) : (s.setDom n x).job.poolPar = s.job.poolPar := rfl
@[simp] theorem setDom_job_pre (s : State) (n : Nat) (x : Domain) : (s.setDom n x).job.pre = s.job.pre := rfl
@[simp] theorem setDom_job_saved (s : State) (n : Nat) (x : Domain) : (s.setDom n x).job.saved = s.job.saved := rfl
@[simp] theorem setDom_job_era (s : State) (n : Nat) (x : Domain) : (s.setDom n x).job.era = s.job.era := rfl
@[simp] theorem setDom_job_linkStarts (s : State) (n : Nat) (x : Domain) : (s.setDom n x).job.linkStarts = s.job.linkStarts := rfl
@[simp] theorem setDom_job_aborts (s : State) (n : Nat) (x : Domain) : (s.setDom n x).job.aborts = s.job.aborts := rfl
@[simp] theorem setDom_job_chainSeal (s : State) (n : Nat) (x : Domain) : (s.setDom n x).job.chainSeal = s.job.chainSeal := rfl
@[simp] theorem setDom_job_chainOld (s : State) (n : Nat) (x : Domain) : (s.setDom n x).job.chainOld = s.job.chainOld := rfl
@[simp] theorem setDom_agenda (s : State) (n : Nat) (x : Domain) : (s.setDom n x).agenda = s.agenda := rfl
@[simp] theorem setDom_cur (s : State) (n : Nat) (x : Domain) : (s.setDom n x).cur = s.cur := rfl
@[simp] theorem setDom_drawn (s : State) (n : Nat) (x : Domain) : (s.setDom n x).drawn = s.drawn := rfl
@[simp] theorem setDom_turn (s : State) (n : Nat) (x : Domain) : (s.setDom n x).turn = s.turn := rfl
@[simp] theorem setDom_dev (s : State) (n : Nat) (x : Domain) : (s.setDom n x).dev = s.dev := rfl
@[simp] theorem setDom_row (s : State) (n : Nat) (x : Domain) (m : Nat) : (s.setDom n x).row m = s.row m := rfl
@[simp] theorem setDom_die (s : State) (n : Nat) (x : Domain) (m : Nat) : (s.setDom n x).die m = s.die m := rfl
@[simp] theorem setDom_byte (s : State) (n : Nat) (x : Domain) (a : Nat) : (s.setDom n x).byte a = s.byte a := rfl

/-! ### State.draw, State.modDev and State.modJob -/

@[simp] theorem draw_job (s : State) : s.draw.job = s.job := rfl
@[simp] theorem draw_dev (s : State) : s.draw.dev = s.dev := rfl
@[simp] theorem draw_agenda (s : State) : s.draw.agenda = s.agenda := rfl
@[simp] theorem draw_cur (s : State) : s.draw.cur = s.cur := rfl
@[simp] theorem draw_drawn (s : State) : s.draw.drawn = s.drawn + 1 := rfl
@[simp] theorem draw_turn (s : State) : s.draw.turn = s.turn := rfl
@[simp] theorem draw_row (s : State) (n : Nat) : s.draw.row n = s.row n := rfl
@[simp] theorem draw_die (s : State) (n : Nat) : s.draw.die n = s.die n := rfl
@[simp] theorem draw_dom (s : State) (n : Nat) : s.draw.dom n = s.dom n := rfl
@[simp] theorem draw_byte (s : State) (a : Nat) : s.draw.byte a = s.byte a := rfl
@[simp] theorem modDev_job (s : State) (f : Dev → Dev) : (s.modDev f).job = s.job := rfl
@[simp] theorem modDev_dev (s : State) (f : Dev → Dev) : (s.modDev f).dev = f s.dev := rfl
@[simp] theorem modDev_agenda (s : State) (f : Dev → Dev) : (s.modDev f).agenda = s.agenda := rfl
@[simp] theorem modDev_cur (s : State) (f : Dev → Dev) : (s.modDev f).cur = s.cur := rfl
@[simp] theorem modDev_drawn (s : State) (f : Dev → Dev) : (s.modDev f).drawn = s.drawn := rfl
@[simp] theorem modDev_turn (s : State) (f : Dev → Dev) : (s.modDev f).turn = s.turn := rfl
@[simp] theorem modDev_row (s : State) (f : Dev → Dev) (n : Nat) : (s.modDev f).row n = s.row n := rfl
@[simp] theorem modDev_die (s : State) (f : Dev → Dev) (n : Nat) : (s.modDev f).die n = s.die n := rfl
@[simp] theorem modDev_dom (s : State) (f : Dev → Dev) (n : Nat) : (s.modDev f).dom n = s.dom n := rfl
@[simp] theorem modDev_byte (s : State) (f : Dev → Dev) (a : Nat) : (s.modDev f).byte a = s.byte a := rfl
@[simp] theorem modJob_job (s : State) (f : Job → Job) : (s.modJob f).job = f s.job := rfl
@[simp] theorem modJob_dev (s : State) (f : Job → Job) : (s.modJob f).dev = s.dev := rfl
@[simp] theorem modJob_agenda (s : State) (f : Job → Job) : (s.modJob f).agenda = s.agenda := rfl
@[simp] theorem modJob_cur (s : State) (f : Job → Job) : (s.modJob f).cur = s.cur := rfl
@[simp] theorem modJob_drawn (s : State) (f : Job → Job) : (s.modJob f).drawn = s.drawn := rfl
@[simp] theorem modJob_turn (s : State) (f : Job → Job) : (s.modJob f).turn = s.turn := rfl

/-! ### State.modRow, State.modDie and State.modDom -/

@[simp] theorem modRow_job_mem (s : State) (n : Nat) (f : Row → Row) : (s.modRow n f).job.mem = s.job.mem := rfl
@[simp] theorem modRow_job_root (s : State) (n : Nat) (f : Row → Row) : (s.modRow n f).job.root = s.job.root := rfl
@[simp] theorem modRow_job_tvec (s : State) (n : Nat) (f : Row → Row) : (s.modRow n f).job.tvec = s.job.tvec := rfl
@[simp] theorem modRow_job_hamper (s : State) (n : Nat) (f : Row → Row) : (s.modRow n f).job.hamper = s.job.hamper := rfl
@[simp] theorem modRow_job_pinned (s : State) (n : Nat) (f : Row → Row) : (s.modRow n f).job.pinned = s.job.pinned := rfl
@[simp] theorem modRow_job_tier (s : State) (n : Nat) (f : Row → Row) : (s.modRow n f).job.tier = s.job.tier := rfl
@[simp] theorem modRow_job_dies (s : State) (n : Nat) (f : Row → Row) : (s.modRow n f).job.dies = s.job.dies := rfl
@[simp] theorem modRow_job_doms (s : State) (n : Nat) (f : Row → Row) : (s.modRow n f).job.doms = s.job.doms := rfl
@[simp] theorem modRow_job_alloc (s : State) (n : Nat) (f : Row → Row) : (s.modRow n f).job.alloc = s.job.alloc := rfl
@[simp] theorem modRow_job_desc (s : State) (n : Nat) (f : Row → Row) : (s.modRow n f).job.desc = s.job.desc := rfl
@[simp] theorem modRow_job_checked (s : State) (n : Nat) (f : Row → Row) : (s.modRow n f).job.checked = s.job.checked := rfl
@[simp] theorem modRow_job_owner (s : State) (n : Nat) (f : Row → Row) : (s.modRow n f).job.owner = s.job.owner := rfl
@[simp] theorem modRow_job_pls (s : State) (n : Nat) (f : Row → Row) : (s.modRow n f).job.pls = s.job.pls := rfl
@[simp] theorem modRow_job_nextPl (s : State) (n : Nat) (f : Row → Row) : (s.modRow n f).job.nextPl = s.job.nextPl := rfl
@[simp] theorem modRow_job_readySerial (s : State) (n : Nat) (f : Row → Row) : (s.modRow n f).job.readySerial = s.job.readySerial := rfl
@[simp] theorem modRow_job_ring (s : State) (n : Nat) (f : Row → Row) : (s.modRow n f).job.ring = s.job.ring := rfl
@[simp] theorem modRow_job_commit (s : State) (n : Nat) (f : Row → Row) : (s.modRow n f).job.commit = s.job.commit := rfl
@[simp] theorem modRow_job_comms (s : State) (n : Nat) (f : Row → Row) : (s.modRow n f).job.comms = s.job.comms := rfl
@[simp] theorem modRow_job_linkTx (s : State) (n : Nat) (f : Row → Row) : (s.modRow n f).job.linkTx = s.job.linkTx := rfl
@[simp] theorem modRow_job_linkRx (s : State) (n : Nat) (f : Row → Row) : (s.modRow n f).job.linkRx = s.job.linkRx := rfl
@[simp] theorem modRow_job_chainOut (s : State) (n : Nat) (f : Row → Row) : (s.modRow n f).job.chainOut = s.job.chainOut := rfl
@[simp] theorem modRow_job_tlb (s : State) (n : Nat) (f : Row → Row) : (s.modRow n f).job.tlb = s.job.tlb := rfl
@[simp] theorem modRow_job_poolPar (s : State) (n : Nat) (f : Row → Row) : (s.modRow n f).job.poolPar = s.job.poolPar := rfl
@[simp] theorem modRow_job_pre (s : State) (n : Nat) (f : Row → Row) : (s.modRow n f).job.pre = s.job.pre := rfl
@[simp] theorem modRow_job_saved (s : State) (n : Nat) (f : Row → Row) : (s.modRow n f).job.saved = s.job.saved := rfl
@[simp] theorem modRow_job_era (s : State) (n : Nat) (f : Row → Row) : (s.modRow n f).job.era = s.job.era := rfl
@[simp] theorem modRow_job_linkStarts (s : State) (n : Nat) (f : Row → Row) : (s.modRow n f).job.linkStarts = s.job.linkStarts := rfl
@[simp] theorem modRow_job_aborts (s : State) (n : Nat) (f : Row → Row) : (s.modRow n f).job.aborts = s.job.aborts := rfl
@[simp] theorem modRow_job_chainSeal (s : State) (n : Nat) (f : Row → Row) : (s.modRow n f).job.chainSeal = s.job.chainSeal := rfl
@[simp] theorem modRow_job_chainOld (s : State) (n : Nat) (f : Row → Row) : (s.modRow n f).job.chainOld = s.job.chainOld := rfl
@[simp] theorem modRow_agenda (s : State) (n : Nat) (f : Row → Row) : (s.modRow n f).agenda = s.agenda := rfl
@[simp] theorem modRow_cur (s : State) (n : Nat) (f : Row → Row) : (s.modRow n f).cur = s.cur := rfl
@[simp] theorem modRow_drawn (s : State) (n : Nat) (f : Row → Row) : (s.modRow n f).drawn = s.drawn := rfl
@[simp] theorem modRow_turn (s : State) (n : Nat) (f : Row → Row) : (s.modRow n f).turn = s.turn := rfl
@[simp] theorem modRow_dev (s : State) (n : Nat) (f : Row → Row) : (s.modRow n f).dev = s.dev := rfl
@[simp] theorem modRow_die (s : State) (n : Nat) (f : Row → Row) (m : Nat) : (s.modRow n f).die m = s.die m := rfl
@[simp] theorem modRow_dom (s : State) (n : Nat) (f : Row → Row) (m : Nat) : (s.modRow n f).dom m = s.dom m := rfl
@[simp] theorem modRow_byte (s : State) (n : Nat) (f : Row → Row) (b : Nat) : (s.modRow n f).byte b = s.byte b := rfl

@[simp] theorem modDie_job_mem (s : State) (n : Nat) (f : Die → Die) : (s.modDie n f).job.mem = s.job.mem := rfl
@[simp] theorem modDie_job_root (s : State) (n : Nat) (f : Die → Die) : (s.modDie n f).job.root = s.job.root := rfl
@[simp] theorem modDie_job_tvec (s : State) (n : Nat) (f : Die → Die) : (s.modDie n f).job.tvec = s.job.tvec := rfl
@[simp] theorem modDie_job_hamper (s : State) (n : Nat) (f : Die → Die) : (s.modDie n f).job.hamper = s.job.hamper := rfl
@[simp] theorem modDie_job_pinned (s : State) (n : Nat) (f : Die → Die) : (s.modDie n f).job.pinned = s.job.pinned := rfl
@[simp] theorem modDie_job_tier (s : State) (n : Nat) (f : Die → Die) : (s.modDie n f).job.tier = s.job.tier := rfl
@[simp] theorem modDie_job_rows (s : State) (n : Nat) (f : Die → Die) : (s.modDie n f).job.rows = s.job.rows := rfl
@[simp] theorem modDie_job_doms (s : State) (n : Nat) (f : Die → Die) : (s.modDie n f).job.doms = s.job.doms := rfl
@[simp] theorem modDie_job_alloc (s : State) (n : Nat) (f : Die → Die) : (s.modDie n f).job.alloc = s.job.alloc := rfl
@[simp] theorem modDie_job_desc (s : State) (n : Nat) (f : Die → Die) : (s.modDie n f).job.desc = s.job.desc := rfl
@[simp] theorem modDie_job_checked (s : State) (n : Nat) (f : Die → Die) : (s.modDie n f).job.checked = s.job.checked := rfl
@[simp] theorem modDie_job_owner (s : State) (n : Nat) (f : Die → Die) : (s.modDie n f).job.owner = s.job.owner := rfl
@[simp] theorem modDie_job_pls (s : State) (n : Nat) (f : Die → Die) : (s.modDie n f).job.pls = s.job.pls := rfl
@[simp] theorem modDie_job_nextPl (s : State) (n : Nat) (f : Die → Die) : (s.modDie n f).job.nextPl = s.job.nextPl := rfl
@[simp] theorem modDie_job_readySerial (s : State) (n : Nat) (f : Die → Die) : (s.modDie n f).job.readySerial = s.job.readySerial := rfl
@[simp] theorem modDie_job_ring (s : State) (n : Nat) (f : Die → Die) : (s.modDie n f).job.ring = s.job.ring := rfl
@[simp] theorem modDie_job_commit (s : State) (n : Nat) (f : Die → Die) : (s.modDie n f).job.commit = s.job.commit := rfl
@[simp] theorem modDie_job_comms (s : State) (n : Nat) (f : Die → Die) : (s.modDie n f).job.comms = s.job.comms := rfl
@[simp] theorem modDie_job_linkTx (s : State) (n : Nat) (f : Die → Die) : (s.modDie n f).job.linkTx = s.job.linkTx := rfl
@[simp] theorem modDie_job_linkRx (s : State) (n : Nat) (f : Die → Die) : (s.modDie n f).job.linkRx = s.job.linkRx := rfl
@[simp] theorem modDie_job_chainOut (s : State) (n : Nat) (f : Die → Die) : (s.modDie n f).job.chainOut = s.job.chainOut := rfl
@[simp] theorem modDie_job_tlb (s : State) (n : Nat) (f : Die → Die) : (s.modDie n f).job.tlb = s.job.tlb := rfl
@[simp] theorem modDie_job_poolPar (s : State) (n : Nat) (f : Die → Die) : (s.modDie n f).job.poolPar = s.job.poolPar := rfl
@[simp] theorem modDie_job_pre (s : State) (n : Nat) (f : Die → Die) : (s.modDie n f).job.pre = s.job.pre := rfl
@[simp] theorem modDie_job_saved (s : State) (n : Nat) (f : Die → Die) : (s.modDie n f).job.saved = s.job.saved := rfl
@[simp] theorem modDie_job_era (s : State) (n : Nat) (f : Die → Die) : (s.modDie n f).job.era = s.job.era := rfl
@[simp] theorem modDie_job_linkStarts (s : State) (n : Nat) (f : Die → Die) : (s.modDie n f).job.linkStarts = s.job.linkStarts := rfl
@[simp] theorem modDie_job_aborts (s : State) (n : Nat) (f : Die → Die) : (s.modDie n f).job.aborts = s.job.aborts := rfl
@[simp] theorem modDie_job_chainSeal (s : State) (n : Nat) (f : Die → Die) : (s.modDie n f).job.chainSeal = s.job.chainSeal := rfl
@[simp] theorem modDie_job_chainOld (s : State) (n : Nat) (f : Die → Die) : (s.modDie n f).job.chainOld = s.job.chainOld := rfl
@[simp] theorem modDie_agenda (s : State) (n : Nat) (f : Die → Die) : (s.modDie n f).agenda = s.agenda := rfl
@[simp] theorem modDie_cur (s : State) (n : Nat) (f : Die → Die) : (s.modDie n f).cur = s.cur := rfl
@[simp] theorem modDie_drawn (s : State) (n : Nat) (f : Die → Die) : (s.modDie n f).drawn = s.drawn := rfl
@[simp] theorem modDie_turn (s : State) (n : Nat) (f : Die → Die) : (s.modDie n f).turn = s.turn := rfl
@[simp] theorem modDie_dev (s : State) (n : Nat) (f : Die → Die) : (s.modDie n f).dev = s.dev := rfl
@[simp] theorem modDie_row (s : State) (n : Nat) (f : Die → Die) (m : Nat) : (s.modDie n f).row m = s.row m := rfl
@[simp] theorem modDie_dom (s : State) (n : Nat) (f : Die → Die) (m : Nat) : (s.modDie n f).dom m = s.dom m := rfl
@[simp] theorem modDie_byte (s : State) (n : Nat) (f : Die → Die) (b : Nat) : (s.modDie n f).byte b = s.byte b := rfl

@[simp] theorem modDom_job_mem (s : State) (n : Nat) (f : Domain → Domain) : (s.modDom n f).job.mem = s.job.mem := rfl
@[simp] theorem modDom_job_root (s : State) (n : Nat) (f : Domain → Domain) : (s.modDom n f).job.root = s.job.root := rfl
@[simp] theorem modDom_job_tvec (s : State) (n : Nat) (f : Domain → Domain) : (s.modDom n f).job.tvec = s.job.tvec := rfl
@[simp] theorem modDom_job_hamper (s : State) (n : Nat) (f : Domain → Domain) : (s.modDom n f).job.hamper = s.job.hamper := rfl
@[simp] theorem modDom_job_pinned (s : State) (n : Nat) (f : Domain → Domain) : (s.modDom n f).job.pinned = s.job.pinned := rfl
@[simp] theorem modDom_job_tier (s : State) (n : Nat) (f : Domain → Domain) : (s.modDom n f).job.tier = s.job.tier := rfl
@[simp] theorem modDom_job_rows (s : State) (n : Nat) (f : Domain → Domain) : (s.modDom n f).job.rows = s.job.rows := rfl
@[simp] theorem modDom_job_dies (s : State) (n : Nat) (f : Domain → Domain) : (s.modDom n f).job.dies = s.job.dies := rfl
@[simp] theorem modDom_job_alloc (s : State) (n : Nat) (f : Domain → Domain) : (s.modDom n f).job.alloc = s.job.alloc := rfl
@[simp] theorem modDom_job_desc (s : State) (n : Nat) (f : Domain → Domain) : (s.modDom n f).job.desc = s.job.desc := rfl
@[simp] theorem modDom_job_checked (s : State) (n : Nat) (f : Domain → Domain) : (s.modDom n f).job.checked = s.job.checked := rfl
@[simp] theorem modDom_job_owner (s : State) (n : Nat) (f : Domain → Domain) : (s.modDom n f).job.owner = s.job.owner := rfl
@[simp] theorem modDom_job_pls (s : State) (n : Nat) (f : Domain → Domain) : (s.modDom n f).job.pls = s.job.pls := rfl
@[simp] theorem modDom_job_nextPl (s : State) (n : Nat) (f : Domain → Domain) : (s.modDom n f).job.nextPl = s.job.nextPl := rfl
@[simp] theorem modDom_job_readySerial (s : State) (n : Nat) (f : Domain → Domain) : (s.modDom n f).job.readySerial = s.job.readySerial := rfl
@[simp] theorem modDom_job_ring (s : State) (n : Nat) (f : Domain → Domain) : (s.modDom n f).job.ring = s.job.ring := rfl
@[simp] theorem modDom_job_commit (s : State) (n : Nat) (f : Domain → Domain) : (s.modDom n f).job.commit = s.job.commit := rfl
@[simp] theorem modDom_job_comms (s : State) (n : Nat) (f : Domain → Domain) : (s.modDom n f).job.comms = s.job.comms := rfl
@[simp] theorem modDom_job_linkTx (s : State) (n : Nat) (f : Domain → Domain) : (s.modDom n f).job.linkTx = s.job.linkTx := rfl
@[simp] theorem modDom_job_linkRx (s : State) (n : Nat) (f : Domain → Domain) : (s.modDom n f).job.linkRx = s.job.linkRx := rfl
@[simp] theorem modDom_job_chainOut (s : State) (n : Nat) (f : Domain → Domain) : (s.modDom n f).job.chainOut = s.job.chainOut := rfl
@[simp] theorem modDom_job_tlb (s : State) (n : Nat) (f : Domain → Domain) : (s.modDom n f).job.tlb = s.job.tlb := rfl
@[simp] theorem modDom_job_poolPar (s : State) (n : Nat) (f : Domain → Domain) : (s.modDom n f).job.poolPar = s.job.poolPar := rfl
@[simp] theorem modDom_job_pre (s : State) (n : Nat) (f : Domain → Domain) : (s.modDom n f).job.pre = s.job.pre := rfl
@[simp] theorem modDom_job_saved (s : State) (n : Nat) (f : Domain → Domain) : (s.modDom n f).job.saved = s.job.saved := rfl
@[simp] theorem modDom_job_era (s : State) (n : Nat) (f : Domain → Domain) : (s.modDom n f).job.era = s.job.era := rfl
@[simp] theorem modDom_job_linkStarts (s : State) (n : Nat) (f : Domain → Domain) : (s.modDom n f).job.linkStarts = s.job.linkStarts := rfl
@[simp] theorem modDom_job_aborts (s : State) (n : Nat) (f : Domain → Domain) : (s.modDom n f).job.aborts = s.job.aborts := rfl
@[simp] theorem modDom_job_chainSeal (s : State) (n : Nat) (f : Domain → Domain) : (s.modDom n f).job.chainSeal = s.job.chainSeal := rfl
@[simp] theorem modDom_job_chainOld (s : State) (n : Nat) (f : Domain → Domain) : (s.modDom n f).job.chainOld = s.job.chainOld := rfl
@[simp] theorem modDom_agenda (s : State) (n : Nat) (f : Domain → Domain) : (s.modDom n f).agenda = s.agenda := rfl
@[simp] theorem modDom_cur (s : State) (n : Nat) (f : Domain → Domain) : (s.modDom n f).cur = s.cur := rfl
@[simp] theorem modDom_drawn (s : State) (n : Nat) (f : Domain → Domain) : (s.modDom n f).drawn = s.drawn := rfl
@[simp] theorem modDom_turn (s : State) (n : Nat) (f : Domain → Domain) : (s.modDom n f).turn = s.turn := rfl
@[simp] theorem modDom_dev (s : State) (n : Nat) (f : Domain → Domain) : (s.modDom n f).dev = s.dev := rfl
@[simp] theorem modDom_row (s : State) (n : Nat) (f : Domain → Domain) (m : Nat) : (s.modDom n f).row m = s.row m := rfl
@[simp] theorem modDom_die (s : State) (n : Nat) (f : Domain → Domain) (m : Nat) : (s.modDom n f).die m = s.die m := rfl
@[simp] theorem modDom_byte (s : State) (n : Nat) (f : Domain → Domain) (b : Nat) : (s.modDom n f).byte b = s.byte b := rfl

/-! ### Reading what was written -/

@[simp] theorem setRow_row_same (s : State) (n : Nat) (x : Row) : (s.setRow n x).row n = x := by
  simp [State.row, State.setRow]
theorem setRow_row_ne (s : State) {n m : Nat} (x : Row) (h : m ≠ n) : (s.setRow n x).row m = s.row m := by
  simp [State.row, State.setRow, tget_tset_ne _ _ _ h]
theorem setRow_row (s : State) (n m : Nat) (x : Row) : (s.setRow n x).row m = if m = n then x else s.row m := by
  simp [State.row, State.setRow, tget_tset]
@[simp] theorem setDie_die_same (s : State) (n : Nat) (x : Die) : (s.setDie n x).die n = x := by
  simp [State.die, State.setDie]
theorem setDie_die_ne (s : State) {n m : Nat} (x : Die) (h : m ≠ n) : (s.setDie n x).die m = s.die m := by
  simp [State.die, State.setDie, tget_tset_ne _ _ _ h]
theorem setDie_die (s : State) (n m : Nat) (x : Die) : (s.setDie n x).die m = if m = n then x else s.die m := by
  simp [State.die, State.setDie, tget_tset]
@[simp] theorem setDom_dom_same (s : State) (n : Nat) (x : Domain) : (s.setDom n x).dom n = x := by
  simp [State.dom, State.setDom]
theorem setDom_dom_ne (s : State) {n m : Nat} (x : Domain) (h : m ≠ n) : (s.setDom n x).dom m = s.dom m := by
  simp [State.dom, State.setDom, tget_tset_ne _ _ _ h]
theorem setDom_dom (s : State) (n m : Nat) (x : Domain) : (s.setDom n x).dom m = if m = n then x else s.dom m := by
  simp [State.dom, State.setDom, tget_tset]
@[simp] theorem modRow_row_same (s : State) (n : Nat) (f : Row → Row) : (s.modRow n f).row n = f (s.row n) := by
  simp [State.modRow]
theorem modRow_row_ne (s : State) {n m : Nat} (f : Row → Row) (h : m ≠ n) : (s.modRow n f).row m = s.row m := by
  simp [State.modRow, setRow_row_ne _ _ h]
@[simp] theorem modDie_die_same (s : State) (n : Nat) (f : Die → Die) : (s.modDie n f).die n = f (s.die n) := by
  simp [State.modDie]
@[simp] theorem modDom_dom_same (s : State) (n : Nat) (f : Domain → Domain) : (s.modDom n f).dom n = f (s.dom n) := by
  simp [State.modDom]

/-- A byte written reads back, and every other byte is as it was. -/
theorem setByte_byte (s : State) (a b : Nat) (x : W8) : (s.setByte a x).byte b = if b = a then x else s.byte b := by
  have h (j : Job) (m : List Host.Cell) : Job.unwritten { j with mem := m } b = j.unwritten b := rfl
  by_cases e : b = a
  · subst e; simp [State.byte, State.setByte, State.modJob, Job.byte, h]
  · simp [State.byte, State.setByte, State.modJob, Job.byte, h, tget_tset, e]
@[simp] theorem setByte_row (s : State) (a : Nat) (x : W8) (n : Nat) : (s.setByte a x).row n = s.row n := rfl
@[simp] theorem setByte_die (s : State) (a : Nat) (x : W8) (n : Nat) : (s.setByte a x).die n = s.die n := rfl
@[simp] theorem setByte_dom (s : State) (a : Nat) (x : W8) (n : Nat) : (s.setByte a x).dom n = s.dom n := rfl
@[simp] theorem setByte_dev (s : State) (a : Nat) (x : W8) : (s.setByte a x).dev = s.dev := rfl

/-! ### One part written twice -/

theorem setRow_setRow (s : State) (n : Nat) (x y : Row) : (s.setRow n x).setRow n y = s.setRow n y := by
  simp only [State.setRow, tset_tset]
theorem setDie_setDie (s : State) (n : Nat) (x y : Die) : (s.setDie n x).setDie n y = s.setDie n y := by
  simp only [State.setDie, tset_tset]
theorem setDom_setDom (s : State) (n : Nat) (x y : Domain) : (s.setDom n x).setDom n y = s.setDom n y := by
  simp only [State.setDom, tset_tset]
theorem modRow_modRow (s : State) (n : Nat) (f g : Row → Row) : (s.modRow n f).modRow n g = s.modRow n (fun r => g (f r)) := by
  simp only [State.modRow, setRow_setRow, setRow_row_same]

end Sys2Proof.Machine
end

