-- ==== Sys2Proof/Laws/Issue.lean ====
section
/-! SUPPORT. What the frame of an issued word does: the view of a quiet row, the passage to the next word, and the outcome
of `issueWord` when nothing keeps its body from acting. -/

namespace Sys2Proof.Machine

/-! ### A quiet row -/

theorem Row.Quiet.view {r : Row} (h : r.Quiet) (k : Nat) : r.view k = r := by
  obtain ⟨h1, h2, h3⟩ := h
  simp [Row.view, h1, h3]

theorem Row.Quiet.pendV {r : Row} (h : r.Quiet) (n : Nat) : r.pendV n = false := by
  obtain ⟨h1, h2, h3⟩ := h
  simp [Row.pendV, h1, h2, h3]
theorem Row.Quiet.pendS {r : Row} (h : r.Quiet) (n : Nat) : r.pendS n = false := by simp [Row.pendS, h.1]
theorem Row.Quiet.pendP {r : Row} (h : r.Quiet) (n : Nat) : r.pendP n = false := by simp [Row.pendP, h.1]
theorem Row.Quiet.pendAc {r : Row} (h : r.Quiet) (n : Nat) : r.pendAc n = false := by simp [Row.pendAc, h.2.1, h.2.2]
theorem Row.Quiet.readV {r : Row} (h : r.Quiet) (n : Nat) : r.readV n = false := by simp [Row.readV, h.2.1]
theorem Row.Quiet.holdV {r : Row} (h : r.Quiet) (n : Nat) : r.holdV n = false := by simp [Row.holdV, h.pendV, h.readV]
theorem Row.Quiet.drained {r : Row} (h : r.Quiet) : r.drained = true := by
  simp [Row.drained, Row.mmacReads, h.1, h.2.1]
theorem Row.Quiet.heldBy {r : Row} (h : r.Quiet) : r.heldBy = false := by simp [Row.heldBy, h.1]

theorem Row.Has.badReg {r : Row} {l : List Nat} (h : r.Has l) : r.badReg l = none := by
  simp only [Row.badReg, List.find?_eq_none, decide_eq_true_eq]
  intro x hx
  have := h x hx
  omega

theorem Row.Fits.amodWide {r : Row} {m : Amod} (h : r.Fits m) : amodWide m r = false := by
  simp only [Sys2Proof.Machine.amodWide, decide_eq_false_iff_not]
  have : amodSeg m ≤ r.L := h
  omega

/-! ### The passage to the next word -/

@[simp] theorem Arm.still_goto (a : Arm) (t : Va) : (a.goto t).still = a.still := rfl
@[simp] theorem Arm.still_pc (a : Arm) (t : Va) : Arm.still { a with pc := t } = a.still := rfl

theorem Row.still_arm (r : Row) (a : Arm) (h : a.still = r.arm.still) : Row.still { r with arm := a } = r.still := by
  unfold Row.still
  cases r.other with
  | none => simp [h]
  | some o => simp [h]

@[simp] theorem Row.still_ready (r : Row) : r.ready.still = r.still := rfl
@[simp] theorem Row.still_paid (r : Row) : r.paid.still = r.still := rfl

theorem Row.still_switch (r : Row) : r.switch.still = r.still := by
  cases h : r.other with
  | none => simp [Row.switch, h]
  | some o =>
    simp only [Row.switch, h, Row.still, Row.otherId]
    cases hk : r.armId <;> simp

theorem Row.still_endClause (y : Bool) (r : Row) : (Row.endClause y r).still = r.still := by
  unfold Row.endClause
  split
  · exact Row.still_switch r
  · rfl

theorem Row.still_advance (r : Row) : r.advance.still = r.still := by
  simp only [Row.advance]
  split
  · rw [Row.still_endClause]
    exact Row.still_arm r _ (by simp)
  · exact Row.still_arm r _ (by simp)

/-! ### Charging -/

@[simp] theorem setRow_rest (s : State) (n : Nat) (x : Row) : (s.setRow n x).rest = s.rest := rfl
@[simp] theorem setDom_rest (s : State) (n : Nat) (x : Domain) : (s.setDom n x).rest = s.rest := rfl
@[simp] theorem modRow_rest (s : State) (n : Nat) (f : Row → Row) : (s.modRow n f).rest = s.rest := setRow_rest _ _ _
@[simp] theorem modDom_rest (s : State) (n : Nat) (f : Domain → Domain) : (s.modDom n f).rest = s.rest := setDom_rest _ _ _
@[simp] theorem draw_rest (s : State) : s.draw.rest = s.rest := rfl
@[simp] theorem charge_die (s : State) (n k c d : Nat) : (s.charge n k c).die d = s.die d := by simp [State.charge]
@[simp] theorem charge_byte (s : State) (n k c a : Nat) : (s.charge n k c).byte a = s.byte a := by simp [State.charge]
@[simp] theorem charge_dev (s : State) (n k c : Nat) : (s.charge n k c).dev = s.dev := by simp [State.charge]
@[simp] theorem charge_agenda (s : State) (n k c : Nat) : (s.charge n k c).agenda = s.agenda := by simp [State.charge]
@[simp] theorem charge_cur (s : State) (n k c : Nat) : (s.charge n k c).cur = s.cur := by simp [State.charge]
@[simp] theorem charge_drawn (s : State) (n k c : Nat) : (s.charge n k c).drawn = s.drawn := by simp [State.charge]
@[simp] theorem charge_rest (s : State) (n k c : Nat) : (s.charge n k c).rest = s.rest := by
  rw [State.charge, modRow_rest, modDom_rest]

theorem charge_row_same (s : State) (n k c : Nat) : (s.charge n k c).row n = (s.row n).paid := by
  simp [State.charge, State.modDom]
theorem charge_row_ne (s : State) {n m : Nat} (k c : Nat) (h : m ≠ n) : (s.charge n k c).row m = s.row m := by
  simp [State.charge, State.modRow, State.modDom, setRow_row_ne _ _ h]
theorem charge_dom (s : State) (n k c d : Nat) : { (s.charge n k c).dom d with due := [] } = { s.dom d with due := [] } := by
  by_cases h : d = domOf n
  · subst h; simp [State.charge, State.modRow, State.modDom]
  · simp [State.charge, State.modRow, State.modDom, setDom_dom_ne _ _ h]

/-- A word that has acted, leaving `u`: the row passes on and its domain is charged. -/
theorem settle_done (u : State) (n k c : Nat) (y : Bool) (h : u.cur = n) :
    ∃ t, settle n y ((Res.done u).after (fun s => State.charge s n k c)) = .next t ∧ Acted u t := by
  refine ⟨_, rfl, ?_⟩
  subst h
  exact
    { row := by
        rw [modRow_row_same, Row.still_ready, Row.still_advance, charge_row_same, Row.still_paid]
      others := fun m hm => by rw [modRow_row_ne _ _ hm, charge_row_ne _ _ _ hm]
      doms := fun d => charge_dom u u.cur k c d
      dies := fun _ => by simp
      bytes := fun _ => by simp
      rest := by rw [modRow_rest, charge_rest]
      dev := by simp
      agenda := by simp
      cur := by simp }

/-- Likewise for a word that sets the pc itself. -/
theorem settle_jump (u : State) (n k c : Nat) (y sw : Bool) (h : u.cur = n) :
    ∃ t, settle n y ((Res.jump u sw).after (fun s => State.charge s n k c)) = .next t ∧ Acted u t := by
  refine ⟨_, rfl, ?_⟩
  subst h
  refine
    { row := ?_
      others := fun m hm => by rw [modRow_row_ne _ _ hm, charge_row_ne _ _ _ hm]
      doms := fun d => charge_dom u u.cur k c d
      dies := fun _ => by simp
      bytes := fun _ => by simp
      rest := by rw [modRow_rest, charge_rest]
      dev := by simp
      agenda := by simp
      cur := by simp }
  rw [modRow_row_same, Row.still_ready, charge_row_same]
  cases sw
  · exact Row.still_paid _
  · exact (Row.still_endClause _ _).trans (Row.still_paid _)

/-- Likewise for a word whose row stops or retires. -/
theorem settle_halt (u : State) (n k c : Nat) (y : Bool) (h : u.cur = n) :
    ∃ t, settle n y ((Res.halt u).after (fun s => State.charge s n k c)) = .next t ∧ Acted u t := by
  refine ⟨_, rfl, ?_⟩
  subst h
  exact
    { row := by rw [modRow_row_same, Row.still_ready, charge_row_same, Row.still_paid]
      others := fun m hm => by rw [modRow_row_ne _ _ hm, charge_row_ne _ _ _ hm]
      doms := fun d => charge_dom u u.cur k c d
      dies := fun _ => by simp
      bytes := fun _ => by simp
      rest := by rw [modRow_rest, charge_rest]
      dev := by simp
      agenda := by simp
      cur := by simp }

/-! ### The frame of an issued word -/

/-- Nothing of a plan keeps the body of a word from acting in a row. -/
structure Plan.Clear (p : Plan) (r : Row) : Prop where
  legal : p.illegal r = false
  regs : r.badReg (p.regs ++ p.regsOf r) = none
  nest : (p.nest && r.region.isSome && !r.handler) = false
  priv : (p.priv && r.handler) = false
  hold : p.hold r = false
  fp : (p.fp && r.fp.banked) = false

/-- The state that a body starts from: a free value is drawn, and an FP instruction counts as a use of the datapath. -/
def Plan.start (p : Plan) (s : State) : State :=
  if p.fp then s.draw.modRow s.cur (Row.useFp (s.draw.rowClk s.cur)) else s.draw

/-- With nothing in its way, the body decides. -/
theorem issueWord_acts (p : Plan) (go : Row → Bool) (body : State → Nat → Row → Res) (s : State)
    (hq : (s.row s.cur).Quiet) (hp : p.Clear (s.row s.cur)) (hgo : go (s.row s.cur) = true) :
    issueWord p go body s = settle s.cur (s.row s.cur).arm.clause.y
      ((body (p.start s) s.cur (s.row s.cur)).after
        (fun s' => State.charge s' s.cur p.units (p.cycles (s.row s.cur)))) := by
  unfold issueWord
  simp only [hq.view, hp.legal, hp.regs, hgo, hp.nest, hp.priv, hp.hold, hp.fp, hq.heldBy, Bool.and_false, Bool.not_true,
    Bool.false_eq_true, if_false]
  rfl

/-- A body that acts and moves on. -/
theorem issueWord_done {p : Plan} {go : Row → Bool} {body : State → Nat → Row → Res} {s u : State}
    (hq : (s.row s.cur).Quiet) (hp : p.Clear (s.row s.cur)) (hgo : go (s.row s.cur) = true)
    (hb : body (p.start s) s.cur (s.row s.cur) = .done u) (hu : u.cur = s.cur) :
    ∃ t, issueWord p go body s = .next t ∧ Acted u t := by
  rw [issueWord_acts p go body s hq hp hgo, hb]
  exact settle_done u _ _ _ _ hu

/-- A body that acts and sets the pc. -/
theorem issueWord_jump {p : Plan} {go : Row → Bool} {body : State → Nat → Row → Res} {s u : State} {sw : Bool}
    (hq : (s.row s.cur).Quiet) (hp : p.Clear (s.row s.cur)) (hgo : go (s.row s.cur) = true)
    (hb : body (p.start s) s.cur (s.row s.cur) = .jump u sw) (hu : u.cur = s.cur) :
    ∃ t, issueWord p go body s = .next t ∧ Acted u t := by
  rw [issueWord_acts p go body s hq hp hgo, hb]
  exact settle_jump u _ _ _ _ _ hu

/-- A body after which the row stops. -/
theorem issueWord_halt {p : Plan} {go : Row → Bool} {body : State → Nat → Row → Res} {s u : State}
    (hq : (s.row s.cur).Quiet) (hp : p.Clear (s.row s.cur)) (hgo : go (s.row s.cur) = true)
    (hb : body (p.start s) s.cur (s.row s.cur) = .halt u) (hu : u.cur = s.cur) :
    ∃ t, issueWord p go body s = .next t ∧ Acted u t := by
  rw [issueWord_acts p go body s hq hp hgo, hb]
  exact settle_halt u _ _ _ _ hu

/-- Only the count of free values separates what `Acted` compares with. -/
theorem Acted.drawn {u t : State} {k : Nat} (h : Acted { u with drawn := k } t) : Acted u t :=
  ⟨h.row, h.others, h.doms, h.dies, h.bytes, h.rest, h.dev, h.agenda, h.cur⟩

/-- The word completes where its body acts and leaves `u`. -/
theorem completes_done {p : Plan} {go : Row → Bool} {body : State → Nat → Row → Res} {s u : State} (k : Nat)
    (hq : (s.row s.cur).Quiet) (hp : p.Clear (s.row s.cur)) (hgo : go (s.row s.cur) = true)
    (hb : body (p.start s) s.cur (s.row s.cur) = .done { u with drawn := k }) (hu : u.cur = s.cur) :
    ∃ t, issueWord p go body s = .next t ∧ Acted u t := by
  obtain ⟨t, h1, h2⟩ := issueWord_done hq hp hgo hb hu
  exact ⟨t, h1, h2.drawn⟩

theorem completes_jump {p : Plan} {go : Row → Bool} {body : State → Nat → Row → Res} {s u : State} {sw : Bool} (k : Nat)
    (hq : (s.row s.cur).Quiet) (hp : p.Clear (s.row s.cur)) (hgo : go (s.row s.cur) = true)
    (hb : body (p.start s) s.cur (s.row s.cur) = .jump { u with drawn := k } sw) (hu : u.cur = s.cur) :
    ∃ t, issueWord p go body s = .next t ∧ Acted u t := by
  obtain ⟨t, h1, h2⟩ := issueWord_jump hq hp hgo hb hu
  exact ⟨t, h1, h2.drawn⟩

theorem completes_halt {p : Plan} {go : Row → Bool} {body : State → Nat → Row → Res} {s u : State} (k : Nat)
    (hq : (s.row s.cur).Quiet) (hp : p.Clear (s.row s.cur)) (hgo : go (s.row s.cur) = true)
    (hb : body (p.start s) s.cur (s.row s.cur) = .halt { u with drawn := k }) (hu : u.cur = s.cur) :
    ∃ t, issueWord p go body s = .next t ∧ Acted u t := by
  obtain ⟨t, h1, h2⟩ := issueWord_halt hq hp hgo hb hu
  exact ⟨t, h1, h2.drawn⟩

/-- The word raises a cause at its own address, where its body does. -/
theorem raises_body {p : Plan} {go : Row → Bool} {body : State → Nat → Row → Res} {s : State} {c : W8} {x : W64}
    (hq : (s.row s.cur).Quiet) (hp : p.Clear (s.row s.cur)) (hgo : go (s.row s.cur) = true)
    (hb : body (p.start s) s.cur (s.row s.cur) = .trap c x s.draw) :
    issueWord p go body s = .next (s.draw.trapHere s.cur c x) := by
  rw [issueWord_acts p go body s hq hp hgo, hb]
  rfl

/-- A word whose guard holds nowhere only passes on (R53). -/
theorem issueWord_idle {p : Plan} {go : Row → Bool} {body : State → Nat → Row → Res} {s : State}
    (hl : p.illegal (s.row s.cur) = false) (hr : (s.row s.cur).badReg (p.regs ++ p.regsOf (s.row s.cur)) = none)
    (hgo : go ((s.row s.cur).view s.drawn) = false) : ∃ t, issueWord p go body s = .next t ∧ Acted s t := by
  unfold issueWord
  simp only [hl, hr, hgo, Bool.not_false, if_true, Bool.false_eq_true, if_false]
  obtain ⟨t, h1, h2⟩ := settle_done s.draw s.cur p.units (p.cycles ((s.row s.cur).view s.drawn))
    (s.row s.cur).arm.clause.y rfl
  exact ⟨t, h1, ⟨h2.row, h2.others, h2.doms, h2.dies, h2.bytes, h2.rest, h2.dev, h2.agenda, h2.cur⟩⟩

/-! ### From a meaning that is an issued word -/

theorem Completes.done {i : Instr} {p : Plan} {go : Row → Bool} {body : State → Nat → Row → Res} {s u : State} (k : Nat)
    (he : exec i s = issueWord p go body s) (hq : (s.row s.cur).Quiet) (hp : p.Clear (s.row s.cur))
    (hgo : go (s.row s.cur) = true) (hb : body (p.start s) s.cur (s.row s.cur) = .done { u with drawn := k })
    (hu : u.cur = s.cur) : Completes i s u := by
  obtain ⟨t, h1, h2⟩ := completes_done (u := u) k hq hp hgo hb hu
  exact ⟨t, he.trans h1, h2⟩

theorem Completes.jump {i : Instr} {p : Plan} {go : Row → Bool} {body : State → Nat → Row → Res} {s u : State} {sw : Bool}
    (k : Nat) (he : exec i s = issueWord p go body s) (hq : (s.row s.cur).Quiet) (hp : p.Clear (s.row s.cur))
    (hgo : go (s.row s.cur) = true) (hb : body (p.start s) s.cur (s.row s.cur) = .jump { u with drawn := k } sw)
    (hu : u.cur = s.cur) : Completes i s u := by
  obtain ⟨t, h1, h2⟩ := completes_jump (u := u) k hq hp hgo hb hu
  exact ⟨t, he.trans h1, h2⟩

theorem Completes.halt {i : Instr} {p : Plan} {go : Row → Bool} {body : State → Nat → Row → Res} {s u : State} (k : Nat)
    (he : exec i s = issueWord p go body s) (hq : (s.row s.cur).Quiet) (hp : p.Clear (s.row s.cur))
    (hgo : go (s.row s.cur) = true) (hb : body (p.start s) s.cur (s.row s.cur) = .halt { u with drawn := k })
    (hu : u.cur = s.cur) : Completes i s u := by
  obtain ⟨t, h1, h2⟩ := completes_halt (u := u) k hq hp hgo hb hu
  exact ⟨t, he.trans h1, h2⟩

theorem Raises.body {i : Instr} {p : Plan} {go : Row → Bool} {body : State → Nat → Row → Res} {s : State} {c : W8} {x : W64}
    (he : exec i s = issueWord p go body s) (hq : (s.row s.cur).Quiet) (hp : p.Clear (s.row s.cur))
    (hgo : go (s.row s.cur) = true) (hb : body (p.start s) s.cur (s.row s.cur) = .trap c x s.draw) : Raises i s c x :=
  he.trans (raises_body hq hp hgo hb)

/-! ### Scalar-class, lane-class and unconditional words -/

theorem Completes.q {i : Instr} {p : Plan} {g : Guard} {body : State → Nat → Row → Res} {s u : State} (k : Nat)
    (he : exec i s = issueQ p g body s) (h : s.ready g) (hp : p.Clear (s.row s.cur))
    (hb : body (p.start s) s.cur (s.row s.cur) = .done { u with drawn := k }) (hu : u.cur = s.cur) : Completes i s u :=
  Completes.done (go := fun r => r.guardQ g) k he h.1 hp h.2 hb hu

theorem Completes.l {i : Instr} {p : Plan} {g : Guard} {body : State → Nat → Row → Res} {s u : State} (k : Nat)
    (he : exec i s = issueL p g body s) (h : s.acting g) (hp : p.Clear (s.row s.cur))
    (hb : body (p.start s) s.cur (s.row s.cur) = .done { u with drawn := k }) (hu : u.cur = s.cur) : Completes i s u :=
  Completes.done (go := fun r => r.anyActs g) k he h.1 hp h.2 hb hu

theorem Completes.all {i : Instr} {p : Plan} {body : State → Nat → Row → Res} {s u : State} (k : Nat)
    (he : exec i s = issueAll p body s) (h : (s.row s.cur).Quiet) (hp : p.Clear (s.row s.cur))
    (hb : body (p.start s) s.cur (s.row s.cur) = .done { u with drawn := k }) (hu : u.cur = s.cur) : Completes i s u :=
  Completes.done (go := fun _ => true) k he h hp rfl hb hu

theorem Raises.q {i : Instr} {p : Plan} {g : Guard} {body : State → Nat → Row → Res} {s : State} {c : W8} {x : W64}
    (he : exec i s = issueQ p g body s) (h : s.ready g) (hp : p.Clear (s.row s.cur))
    (hb : body (p.start s) s.cur (s.row s.cur) = .trap c x s.draw) : Raises i s c x :=
  Raises.body (go := fun r => r.guardQ g) he h.1 hp h.2 hb

theorem Raises.l {i : Instr} {p : Plan} {g : Guard} {body : State → Nat → Row → Res} {s : State} {c : W8} {x : W64}
    (he : exec i s = issueL p g body s) (h : s.acting g) (hp : p.Clear (s.row s.cur))
    (hb : body (p.start s) s.cur (s.row s.cur) = .trap c x s.draw) : Raises i s c x :=
  Raises.body (go := fun r => r.anyActs g) he h.1 hp h.2 hb

end Sys2Proof.Machine
end

