-- ==== Sys2Proof/Laws/Memory.lean ====
section
/-! SUPPORT. Memory: what a write leaves at each byte, and that every operation over memory keeps the canonical form. -/

namespace Sys2Proof.Machine

/-! ### Bytes and words -/

/-- Bytes written at consecutive addresses: each reads what was written, and every other byte is as before. -/
theorem setBytes_byte (s : State) (a : Nat) (l : List W8) (x : Nat) :
    (s.setBytes a l).byte x = if a ≤ x ∧ x < a + l.length then l.getD (x - a) 0 else s.byte x := by
  induction l generalizing s a with
  | nil =>
    rw [if_neg (by simp only [List.length_nil]; omega)]
    rfl
  | cons b r ih =>
    rw [State.setBytes, ih, setByte_byte]
    by_cases h1 : x = a
    · subst h1; simp
    · by_cases h2 : a + 1 ≤ x ∧ x < a + 1 + r.length
      · rw [if_pos h2, if_pos (by simp only [List.length_cons]; omega)]
        have : x - a = (x - (a + 1)) + 1 := by omega
        rw [this, List.getD_cons_succ]
      · rw [if_neg h2, if_neg h1, if_neg (by simp only [List.length_cons]; omega)]

theorem setBytes_byte_ne (s : State) (a : Nat) (l : List W8) (x : Nat) (h : x < a ∨ a + l.length ≤ x) :
    (s.setBytes a l).byte x = s.byte x := by
  rw [setBytes_byte, if_neg (by omega)]

@[simp] theorem setBytes_row (s : State) (a : Nat) (l : List W8) (n : Nat) : (s.setBytes a l).row n = s.row n := by
  induction l generalizing s a with
  | nil => rfl
  | cons b r ih => rw [State.setBytes, ih, setByte_row]
@[simp] theorem setBytes_die (s : State) (a : Nat) (l : List W8) (n : Nat) : (s.setBytes a l).die n = s.die n := by
  induction l generalizing s a with
  | nil => rfl
  | cons b r ih => rw [State.setBytes, ih, setByte_die]
@[simp] theorem setBytes_dom (s : State) (a : Nat) (l : List W8) (n : Nat) : (s.setBytes a l).dom n = s.dom n := by
  induction l generalizing s a with
  | nil => rfl
  | cons b r ih => rw [State.setBytes, ih, setByte_dom]
@[simp] theorem setBytes_dev (s : State) (a : Nat) (l : List W8) : (s.setBytes a l).dev = s.dev := by
  induction l generalizing s a with
  | nil => rfl
  | cons b r ih => rw [State.setBytes, ih, setByte_dev]

@[simp] theorem leList_length (n x : Nat) : (leList n x).length = n := by
  induction n generalizing x with
  | zero => rfl
  | succ n ih => simp [leList, ih]

/-- R1: a number laid out least significant byte first reads back. -/
theorem leVal_leList (n x : Nat) : leVal (leList n x) = x % 256 ^ n := by
  induction n generalizing x with
  | zero => simp [leVal, leList, Nat.mod_one]
  | succ n ih =>
    have h := ih (x / 256)
    simp only [leVal] at h
    simp only [leList, leVal, List.foldr_cons, h, BitVec.toNat_ofNat]
    exact (by rw [Nat.pow_succ', Nat.mod_mul] : x % 256 ^ (n + 1) = x % 256 + 256 * (x / 256 % 256 ^ n)).symm

theorem setWord_bytes (s : State) (a n x : Nat) : (s.setWord a n x).bytes a n = leList n x := by
  apply List.ext_getElem
  · simp [State.bytes]
  · intro i h1 h2
    simp only [leList_length] at h2
    simp only [State.bytes, State.setWord, List.getElem_map, List.getElem_range, setBytes_byte, leList_length]
    rw [if_pos (by omega), Nat.add_sub_cancel_left, List.getD_eq_getElem?_getD,
      List.getElem?_eq_getElem (by simpa using h2), Option.getD_some]

/-- A word reads back after it is written, cut to its bytes. -/
theorem setWord_word (s : State) (a n x : Nat) : (s.setWord a n x).word a n = x % 256 ^ n := by
  rw [State.word, setWord_bytes, leVal_leList]

/-- A word written elsewhere leaves a word alone. -/
theorem setWord_word_ne (s : State) (a n x b m : Nat) (h : b + m ≤ a ∨ a + n ≤ b) :
    (s.setWord a n x).word b m = s.word b m := by
  rw [State.word, State.word]
  congr 1
  apply List.map_congr_left
  intro i hi
  simp only [List.mem_range] at hi
  exact setBytes_byte_ne s a _ _ (by simp only [leList_length]; omega)

/-! ### The canonical form -/

/-- Nothing of memory changed. -/
theorem State.Inv.same {s t : State} (h : s.Inv) (hm : t.job.mem = s.job.mem) (hd : t.dev = s.dev) : t.Inv := by
  unfold State.Inv
  rw [hm, hd]
  exact h

theorem State.Inv.foldl {α : Type} {f : State → α → State} (hf : ∀ s x, s.Inv → (f s x).Inv) (l : List α) {s : State}
    (h : s.Inv) : (l.foldl f s).Inv := by
  induction l generalizing s with
  | nil => exact h
  | cons x r ih => exact ih (hf s x h)

theorem State.Inv.setRow {s : State} (h : s.Inv) (n : Nat) (x : Row) : (s.setRow n x).Inv := h
theorem State.Inv.setDie {s : State} (h : s.Inv) (n : Nat) (x : Die) : (s.setDie n x).Inv := h
theorem State.Inv.setDom {s : State} (h : s.Inv) (n : Nat) (x : Domain) : (s.setDom n x).Inv := h
theorem State.Inv.draw {s : State} (h : s.Inv) : s.draw.Inv := h
theorem State.Inv.setFar {s : State} (h : s.Inv) (d a : Nat) (x : Option FarByte) : (s.setFar d a x).Inv := h

theorem State.Inv.setByte {s : State} (h : s.Inv) (a : Nat) (b : W8) : (s.setByte a b).Inv :=
  ⟨twf_tset 0 s.job.mem a _ h.1, h.2⟩

theorem State.Inv.setBytes {s : State} (h : s.Inv) (a : Nat) (l : List W8) : (s.setBytes a l).Inv := by
  induction l generalizing s a with
  | nil => exact h
  | cons b r ih => exact ih (h.setByte a b) (a + 1)

theorem State.Inv.setWord {s : State} (h : s.Inv) (a n x : Nat) : (s.setWord a n x).Inv := h.setBytes a _

theorem State.Inv.fillLine {s : State} (h : s.Inv) (d a : Nat) : (s.fillLine d a).Inv := by
  unfold State.fillLine
  split
  · exact h
  · exact (State.Inv.foldl (fun s i hs => by
      split
      · exact hs
      · exact hs.setFar d _ _) _ h).draw

theorem State.Inv.fillFor {s : State} (h : s.Inv) (d a n : Nat) : (s.fillFor d a n).Inv := by
  unfold State.fillFor
  split
  · split
    · exact h.fillLine d a
    · exact (h.fillLine d a).fillLine d _
  · exact h

theorem State.Inv.writeBackIf {s : State} (h : s.Inv) (d : Nat) (f : Nat → Bool) : (s.writeBackIf d f).Inv :=
  (State.Inv.foldl (fun s e hs => by
    split
    · split
      · exact (hs.setByte e.1 _).setFar d _ _
      · exact hs
    · exact hs) _ h).draw

theorem State.Inv.writeBack {s : State} (h : s.Inv) (d : Nat) : (s.writeBack d).Inv := h.writeBackIf d _
theorem State.Inv.dropIf {s : State} (h : s.Inv) (d : Nat) (f : Nat → Bool) : (s.dropIf d f).Inv := h
theorem State.Inv.dropClean {s : State} (h : s.Inv) (d : Nat) : (s.dropClean d).Inv := h
theorem State.Inv.flushIf {s : State} (h : s.Inv) (d : Nat) (f : Nat → Bool) : (s.flushIf d f).Inv :=
  (h.writeBackIf d f).dropIf d f
theorem State.Inv.flushFor {s : State} (h : s.Inv) (d a n : Nat) : (s.flushFor d a n).Inv := h.flushIf d _

theorem State.Inv.releaseAt {s : State} (h : s.Inv) (d : Nat) (sc : Sys2Proof.Scope) : (s.releaseAt d sc).Inv := by
  unfold State.releaseAt
  split
  · exact h.writeBack d
  · exact h
theorem State.Inv.acquireAt {s : State} (h : s.Inv) (d : Nat) (sc : Sys2Proof.Scope) : (s.acquireAt d sc).Inv := by
  unfold State.acquireAt
  split
  · exact h.dropClean d
  · exact h

theorem State.Inv.setNear {s : State} (h : s.Inv) (d a : Nat) (b : W8) : (s.setNear d a b).Inv := by
  unfold State.setNear
  split
  · exact h.setFar d a _
  · exact h.setByte a b
theorem State.Inv.setNears {s : State} (h : s.Inv) (d a : Nat) (l : List W8) : (s.setNears d a l).Inv := by
  induction l generalizing s a with
  | nil => exact h
  | cons b r ih => exact ih (h.setNear d a b) (a + 1)

/-! ### Translation and fetch write no memory -/

theorem entryAt_mem (s : State) (u lo va k : Nat) :
    (s.entryAt u lo va k).2.job.mem = s.job.mem ∧ (s.entryAt u lo va k).2.dev = s.dev := by
  unfold State.entryAt
  split <;> exact ⟨rfl, rfl⟩

theorem walk_mem (u va : Nat) (l : List PtLevel) (table : Nat) (s : State) :
    (walk u va l table s).2.job.mem = s.job.mem ∧ (walk u va l table s).2.dev = s.dev := by
  induction l generalizing table s with
  | nil => exact ⟨rfl, rfl⟩
  | cons x l ih =>
    have h := entryAt_mem s u x.lo va (table + 8 * (va / 2 ^ x.lo % 2 ^ x.bits))
    rw [walk]
    generalize s.entryAt u x.lo va (table + 8 * (va / 2 ^ x.lo % 2 ^ x.bits)) = q at h
    obtain ⟨e, t⟩ := q
    dsimp only at h ⊢
    repeat' split
    all_goals first
      | exact h
      | exact ⟨(ih _ t).1.trans h.1, (ih _ t).2.trans h.2⟩

theorem lookup_mem (s : State) (u va : Nat) : (s.lookup u va).2.job.mem = s.job.mem ∧ (s.lookup u va).2.dev = s.dev :=
  walk_mem u va ptLevels s.job.root s

theorem translate_mem (s : State) (u va : Nat) (use : Use) :
    (s.translate u va use).2.job.mem = s.job.mem ∧ (s.translate u va use).2.dev = s.dev := by
  unfold State.translate
  have h := lookup_mem s u va
  split
  · rename_i e; rw [e] at h; exact h
  · rename_i e; rw [e] at h; split <;> exact h

theorem reach_mem (s : State) (u : Nat) (a : W64) (use : Use) :
    (s.reach u a use).2.job.mem = s.job.mem ∧ (s.reach u a use).2.dev = s.dev := by
  unfold State.reach
  split
  · split <;> exact ⟨rfl, rfl⟩
  · split
    · exact ⟨rfl, rfl⟩
    · exact translate_mem s u _ use

theorem readClause_mem (s : State) (n : Nat) (a : Va) :
    (s.readClause n a).2.job.mem = s.job.mem ∧ (s.readClause n a).2.dev = s.dev := by
  unfold State.readClause
  have h := translate_mem s (dieOf n) a.toNat .fetch
  split
  · exact ⟨rfl, rfl⟩
  · split
    · rename_i e; rw [e] at h; exact h
    · rename_i e; rw [e] at h; split <;> exact h

theorem fetchClause_mem (s : State) (n : Nat) (a : Va) :
    (s.fetchClause n a).2.job.mem = s.job.mem ∧ (s.fetchClause n a).2.dev = s.dev := by
  unfold State.fetchClause
  dsimp only
  split
  · exact ⟨rfl, rfl⟩
  · exact readClause_mem s n a

theorem State.Inv.lookup {s : State} (h : s.Inv) (u va : Nat) : (s.lookup u va).2.Inv :=
  h.same (lookup_mem s u va).1 (lookup_mem s u va).2
theorem State.Inv.translate {s : State} (h : s.Inv) (u va : Nat) (use : Use) : (s.translate u va use).2.Inv :=
  h.same (translate_mem s u va use).1 (translate_mem s u va use).2
theorem State.Inv.reach {s : State} (h : s.Inv) (u : Nat) (a : W64) (use : Use) : (s.reach u a use).2.Inv :=
  h.same (reach_mem s u a use).1 (reach_mem s u a use).2
theorem State.Inv.readClause {s : State} (h : s.Inv) (n : Nat) (a : Va) : (s.readClause n a).2.Inv :=
  h.same (readClause_mem s n a).1 (readClause_mem s n a).2
theorem State.Inv.fetchClause {s : State} (h : s.Inv) (n : Nat) (a : Va) : (s.fetchClause n a).2.Inv :=
  h.same (fetchClause_mem s n a).1 (fetchClause_mem s n a).2

/-! ### Engines, task rings, Mbabo and the hamper -/

theorem engKey_mem (s : State) (d e u : Nat) (a : W64) (use : Use) :
    (s.engKey d e u a use).2.job.mem = s.job.mem ∧ (s.engKey d e u a use).2.dev = s.dev := by
  unfold State.engKey
  have h := reach_mem s u a use
  split
  · rename_i e; rw [e] at h; exact h
  · rename_i e; rw [e] at h; split <;> exact h

theorem engKeys_mem (s : State) (d e u : Nat) (use : Use) (n : Nat) (a : W64) :
    (s.engKeys d e u use n a).2.job.mem = s.job.mem ∧ (s.engKeys d e u use n a).2.dev = s.dev := by
  induction n generalizing s a with
  | zero => exact ⟨rfl, rfl⟩
  | succ n ih =>
    rw [State.engKeys]
    have h := engKey_mem s d e u a use
    split
    · rename_i q; rw [q] at h; exact h
    · rename_i q
      rw [q] at h
      have h2 := ih (s.engKey d e u a use).2 (a + 1)
      rw [q] at h2
      split
      · rename_i q2; rw [q2] at h2; exact ⟨h2.1.trans h.1, h2.2.trans h.2⟩
      · rename_i q2; rw [q2] at h2; exact ⟨h2.1.trans h.1, h2.2.trans h.2⟩

theorem State.Inv.engKeys {s : State} (h : s.Inv) (d e u : Nat) (use : Use) (n : Nat) (a : W64) :
    (s.engKeys d e u use n a).2.Inv :=
  h.same (engKeys_mem s d e u use n a).1 (engKeys_mem s d e u use n a).2

theorem State.Inv.engRead {s : State} (h : s.Inv) (d e u : Nat) (a : W64) (n : Nat) (ecc : Bool) :
    (s.engRead d e u a n ecc).2.Inv := by
  unfold State.engRead
  have hk := h.engKeys d e u .read n a
  split
  · rename_i q; rw [q] at hk; exact hk
  · rename_i q; rw [q] at hk; split <;> exact hk

theorem State.Inv.engPut {s : State} (h : s.Inv) (d e : Nat) (ks : List Nat) (bs : List W8) : (s.engPut d e ks bs).Inv :=
  State.Inv.foldl (fun _ x hs => hs.setByte x.1 x.2) _ (h.setDie d _)

theorem State.Inv.engWrite {s t : State} (h : s.Inv) (d e u : Nat) (a : W64) (bs : List W8)
    (ht : s.engWrite d e u a bs = .ok t) : t.Inv := by
  unfold State.engWrite at ht
  have hk := h.engKeys d e u .write bs.length a
  split at ht
  · cases ht
  · rename_i q
    rw [q] at hk
    cases ht
    exact State.Inv.engPut hk d e _ bs

theorem State.Inv.ringSlot {s : State} (h : s.Inv) (d : Nat) (x : TQueue) (i : Nat) (use : Use) :
    (s.ringSlot d x i use).2.Inv := by
  unfold State.ringSlot
  have hk := h.translate d (x.base.toNat + 64 * (i % x.slots)) use
  split <;> (rename_i e; rw [e] at hk; exact hk)

theorem State.Inv.enqueue {s : State} (h : s.Inv) (d q : Nat) (t : TaskRec) : (s.enqueue d q t).Inv := by
  unfold State.enqueue
  have hk := h.ringSlot d (s.tq d q) ((s.tq d q).head + (s.tq d q).count) .write
  dsimp only
  split
  · exact ((State.Inv.setBytes hk _ _).setDie d _).setDie d _
  · exact (hk.setDie d _).setDie d _

theorem State.Inv.dequeue {s : State} (h : s.Inv) (d q : Nat) : (s.dequeue d q).2.Inv := by
  unfold State.dequeue
  have hk := h.ringSlot d (s.tq d q) (s.tq d q).head .read
  dsimp only
  split
  · exact hk.setDie d _
  · exact (hk.setDie d _).draw

theorem State.Inv.codeLands {s : State} (h : s.Inv) (a n : Nat) : (s.codeLands a n).Inv := by
  unfold State.codeLands
  split <;> exact h

theorem State.Inv.codeDone {s : State} (h : s.Inv) (c : Cmd) : (s.codeDone c).Inv := by
  unfold State.codeDone
  split <;> exact h

theorem State.Inv.setOwn {s : State} (h : s.Inv) (n k : Nat) (near : Bool) (a : Nat) (b : W8) : (s.setOwn n k near a b).Inv := by
  unfold State.setOwn
  dsimp only
  have h1 : (if (s.row n).landed.any (fun y => y.addr == a) then
      s.modRow n (fun r => { r with landed := (s.row n).landed.filter (fun y => !(y.addr == a)) }) else s).Inv := by
    split
    · exact h.setRow n _
    · exact h
  split
  · exact h.setRow n _
  · split
    · exact h1.setNear _ a b
    · exact h1.setByte a b

/-! Where no fire has landed over a byte, a row finds it as its die does, and writes it there. -/

theorem Row.peel_none (r : Row) (k a : Nat) (l : List Landed) (x : W8) (h : ∀ y ∈ l, y.addr ≠ a) : r.peel k a l x = x := by
  induction l with
  | nil => rfl
  | cons e l ih => rw [Row.peel, if_neg (h e (by simp))]; exact ih fun y hy => h y (by simp [hy])

theorem Row.tuck_none (r : Row) (k a : Nat) (b : W8) (l : List Landed) (x : W8) (h : ∀ y ∈ l, y.addr ≠ a) :
    r.tuck k a b l x = none := by
  induction l with
  | nil => rfl
  | cons e l ih => rw [Row.tuck, if_neg (h e (by simp)), ih fun y hy => h y (by simp [hy])]; rfl

theorem State.ownByte_none (s : State) (n k a : Nat) (h : ∀ y ∈ (s.row n).landed, y.addr ≠ a) :
    s.ownByte n k a = s.nearByte (dieOf n) a := Row.peel_none _ _ _ _ _ h

theorem State.setOwn_none (s : State) (n k : Nat) (near : Bool) (a : Nat) (b : W8) (h : ∀ y ∈ (s.row n).landed, y.addr ≠ a) :
    s.setOwn n k near a b = if near then s.setNear (dieOf n) a b else s.setByte a b := by
  have h2 : (s.row n).landed.any (fun y => y.addr == a) = false := by simpa using h
  simp only [State.setOwn, Row.tuck_none _ _ _ _ _ _ h, h2, Bool.false_eq_true, if_false]

theorem State.Inv.storeBytes {s : State} (h : s.Inv) (n k : Nat) (near : Bool) (a : Nat) (l : List W8) :
    (s.storeBytes n k near a l).Inv := by
  induction l generalizing s a with
  | nil => exact h
  | cons b r ih => exact ih (h.setOwn n k near a b) (a + 1)

theorem State.Inv.atomicAdd {s : State} (h : s.Inv) (n k key x : Nat) : (s.atomicAdd n k key x).2.Inv :=
  ((h.flushFor (dieOf n) key 8).storeBytes _ _ _ _ _).codeLands _ _

theorem State.Inv.setPa {s : State} (h : s.Inv) (a : Nat) (b : W8) : (s.setPa a b).Inv := by
  unfold State.setPa
  split
  · exact h.setByte a b
  · refine ⟨h.1, ?_⟩
    simp only [State.modDev]
    split
    · exact h.2
    · exact h.2
    · exact h.2
    · exact ⟨h.2.1, h.2.2.1, twf_tset 0 s.dev.sram a b h.2.2.2⟩

theorem State.Inv.writeHamper {s : State} (h : s.Inv) (n : Nat) : (s.writeHamper n).Inv :=
  State.Inv.foldl (fun _ _ hs => hs.setByte _ _) _ h

/-- A part of a canonical memory is canonical. -/
theorem Memory.wf.filter {m : List Host.Cell} (h : Memory.wf m) (f : Host.Cell → Bool) : Memory.wf (m.filter f) :=
  twf_filter 0 f m h

/-- Memory under another key is canonical where it was (R408, R411). -/
theorem State.Inv.rekey {s : State} (h : s.Inv) (k : BitVec 512) : (s.rekey k).Inv := by
  unfold State.rekey
  split
  · exact ⟨h.1.filter _, h.2⟩
  · exact ⟨rfl, h.2⟩

end Sys2Proof.Machine
end

