-- ==== Sys2Proof/Laws/PerInstr.lean ====
section
/-! SUPPORT. One lemma per constructor of `Instr`: an instruction has a word and an event has none. -/

namespace Sys2Proof.Laws.Encodes

/-- The spec gives every instruction a word and no event one (R52, Table 02-6). -/
def Statement (i : Instr) : Prop := (encode i).isSome = !i.isEvent

theorem nop : ∀ x0, Statement (.nop x0) := fun _ => rfl
theorem salu : ∀ x0 x1 x2 x3 x4, Statement (.salu x0 x1 x2 x3 x4) := fun _ _ _ _ _ => rfl
theorem saddi : ∀ x0 x1 x2 x3, Statement (.saddi x0 x1 x2 x3) := fun _ _ _ _ => rfl
theorem sandi : ∀ x0 x1 x2 x3, Statement (.sandi x0 x1 x2 x3) := fun _ _ _ _ => rfl
theorem sori : ∀ x0 x1 x2 x3, Statement (.sori x0 x1 x2 x3) := fun _ _ _ _ => rfl
theorem sxori : ∀ x0 x1 x2 x3, Statement (.sxori x0 x1 x2 x3) := fun _ _ _ _ => rfl
theorem sshli : ∀ x0 x1 x2 x3, Statement (.sshli x0 x1 x2 x3) := fun _ _ _ _ => rfl
theorem sshri : ∀ x0 x1 x2 x3, Statement (.sshri x0 x1 x2 x3) := fun _ _ _ _ => rfl
theorem ssrai : ∀ x0 x1 x2 x3, Statement (.ssrai x0 x1 x2 x3) := fun _ _ _ _ => rfl
theorem sli : ∀ x0 x1 x2, Statement (.sli x0 x1 x2) := fun _ _ _ => rfl
theorem slui : ∀ x0 x1 x2 x3, Statement (.slui x0 x1 x2 x3) := fun _ _ _ _ => rfl
theorem slhi : ∀ x0 x1 x2 x3, Statement (.slhi x0 x1 x2 x3) := fun _ _ _ _ => rfl
theorem sadda : ∀ x0 x1 x2 x3 x4 x5 x6, Statement (.sadda x0 x1 x2 x3 x4 x5 x6) := fun _ _ _ _ _ _ _ => rfl
theorem smovv : ∀ x0 x1 x2 x3 x4 x5 x6, Statement (.smovv x0 x1 x2 x3 x4 x5 x6) := fun _ _ _ _ _ _ _ => rfl
theorem scsr : ∀ x0 x1 x2, Statement (.scsr x0 x1 x2) := fun _ _ _ => rfl
theorem scsw : ∀ x0 x1 x2 x3, Statement (.scsw x0 x1 x2 x3) := fun _ _ _ _ => rfl
theorem scsx : ∀ x0 x1 x2 x3 x4, Statement (.scsx x0 x1 x2 x3 x4) := fun _ _ _ _ _ => rfl
theorem sld : ∀ x0 x1 x2 x3 x4, Statement (.sld x0 x1 x2 x3 x4) := fun _ _ _ _ _ => rfl
theorem sst : ∀ x0 x1 x2 x3, Statement (.sst x0 x1 x2 x3) := fun _ _ _ _ => rfl
theorem vialu : ∀ x0 x1 x2 x3 x4 x5 x6, Statement (.vialu x0 x1 x2 x3 x4 x5 x6) := fun _ _ _ _ _ _ _ => rfl
theorem vialus : ∀ x0 x1 x2 x3 x4 x5 x6, Statement (.vialus x0 x1 x2 x3 x4 x5 x6) := fun _ _ _ _ _ _ _ => rfl
theorem vaddi : ∀ x0 x1 x2 x3, Statement (.vaddi x0 x1 x2 x3) := fun _ _ _ _ => rfl
theorem vandi : ∀ x0 x1 x2 x3, Statement (.vandi x0 x1 x2 x3) := fun _ _ _ _ => rfl
theorem vori : ∀ x0 x1 x2 x3, Statement (.vori x0 x1 x2 x3) := fun _ _ _ _ => rfl
theorem vxori : ∀ x0 x1 x2 x3, Statement (.vxori x0 x1 x2 x3) := fun _ _ _ _ => rfl
theorem vshli : ∀ x0 x1 x2 x3, Statement (.vshli x0 x1 x2 x3) := fun _ _ _ _ => rfl
theorem vshri : ∀ x0 x1 x2 x3, Statement (.vshri x0 x1 x2 x3) := fun _ _ _ _ => rfl
theorem vsrai : ∀ x0 x1 x2 x3, Statement (.vsrai x0 x1 x2 x3) := fun _ _ _ _ => rfl
theorem vli : ∀ x0 x1 x2, Statement (.vli x0 x1 x2) := fun _ _ _ => rfl
theorem vmad : ∀ x0 x1 x2 x3 x4 x5 x6, Statement (.vmad x0 x1 x2 x3 x4 x5 x6) := fun _ _ _ _ _ _ _ => rfl
theorem vsel : ∀ x0 x1 x2 x3 x4 x5, Statement (.vsel x0 x1 x2 x3 x4 x5) := fun _ _ _ _ _ _ => rfl
theorem vidx : ∀ x0 x1 x2 x3, Statement (.vidx x0 x1 x2 x3) := fun _ _ _ _ => rfl
theorem vbcast : ∀ x0 x1 x2 x3, Statement (.vbcast x0 x1 x2 x3) := fun _ _ _ _ => rfl
theorem vmov : ∀ x0 x1 x2 x3, Statement (.vmov x0 x1 x2 x3) := fun _ _ _ _ => rfl
theorem vred : ∀ x0 x1 x2 x3 x4 x5, Statement (.vred x0 x1 x2 x3 x4 x5) := fun _ _ _ _ _ _ => rfl
theorem vscan : ∀ x0 x1 x2 x3 x4 x5 x6, Statement (.vscan x0 x1 x2 x3 x4 x5 x6) := fun _ _ _ _ _ _ _ => rfl
theorem vperm : ∀ x0 x1 x2 x3 x4 x5, Statement (.vperm x0 x1 x2 x3 x4 x5) := fun _ _ _ _ _ _ => rfl
theorem vfalu : ∀ x0 x1 x2 x3 x4 x5 x6 x7, Statement (.vfalu x0 x1 x2 x3 x4 x5 x6 x7) := fun _ _ _ _ _ _ _ _ => rfl
theorem vfma : ∀ x0 x1 x2 x3 x4 x5 x6 x7, Statement (.vfma x0 x1 x2 x3 x4 x5 x6 x7) := fun _ _ _ _ _ _ _ _ => rfl
theorem vfmas : ∀ x0 x1 x2 x3 x4 x5 x6 x7, Statement (.vfmas x0 x1 x2 x3 x4 x5 x6 x7) := fun _ _ _ _ _ _ _ _ => rfl
theorem vfun : ∀ x0 x1 x2 x3 x4 x5 x6, Statement (.vfun x0 x1 x2 x3 x4 x5 x6) := fun _ _ _ _ _ _ _ => rfl
theorem vfdiv : ∀ x0 x1 x2 x3 x4 x5 x6, Statement (.vfdiv x0 x1 x2 x3 x4 x5 x6) := fun _ _ _ _ _ _ _ => rfl
theorem vfclass : ∀ x0 x1 x2 x3 x4 x5 x6, Statement (.vfclass x0 x1 x2 x3 x4 x5 x6) := fun _ _ _ _ _ _ _ => rfl
theorem vfclassTrap : ∀ x0 x1 x2 x3 x4 x5, Statement (.vfclassTrap x0 x1 x2 x3 x4 x5) := fun _ _ _ _ _ _ => rfl
theorem vfred : ∀ x0 x1 x2 x3 x4 x5 x6 x7, Statement (.vfred x0 x1 x2 x3 x4 x5 x6 x7) := fun _ _ _ _ _ _ _ _ => rfl
theorem vcvt : ∀ x0 x1 x2 x3 x4 x5 x6 x7 x8 x9, Statement (.vcvt x0 x1 x2 x3 x4 x5 x6 x7 x8 x9) := fun _ _ _ _ _ _ _ _ _ _ => rfl
theorem vsrnd : ∀ x0 x1 x2 x3 x4 x5 x6, Statement (.vsrnd x0 x1 x2 x3 x4 x5 x6) := fun _ _ _ _ _ _ _ => rfl
theorem vqnt : ∀ x0 x1 x2 x3 x4 x5 x6 x7 x8, Statement (.vqnt x0 x1 x2 x3 x4 x5 x6 x7 x8) := fun _ _ _ _ _ _ _ _ _ => rfl
theorem vdqnt : ∀ x0 x1 x2 x3 x4 x5, Statement (.vdqnt x0 x1 x2 x3 x4 x5) := fun _ _ _ _ _ _ => rfl
theorem vreq : ∀ x0 x1 x2 x3 x4 x5 x6 x7, Statement (.vreq x0 x1 x2 x3 x4 x5 x6 x7) := fun _ _ _ _ _ _ _ _ => rfl
theorem vbmax : ∀ x0 x1 x2 x3 x4 x5, Statement (.vbmax x0 x1 x2 x3 x4 x5) := fun _ _ _ _ _ _ => rfl
theorem vpln : ∀ x0 x1 x2 x3 x4, Statement (.vpln x0 x1 x2 x3 x4) := fun _ _ _ _ _ => rfl
theorem vupln : ∀ x0 x1 x2 x3 x4, Statement (.vupln x0 x1 x2 x3 x4) := fun _ _ _ _ _ => rfl
theorem vfli : ∀ x0 x1 x2 x3, Statement (.vfli x0 x1 x2 x3) := fun _ _ _ _ => rfl
theorem vicmp : ∀ x0 x1 x2 x3 x4 x5 x6 x7 x8 x9, Statement (.vicmp x0 x1 x2 x3 x4 x5 x6 x7 x8 x9) := fun _ _ _ _ _ _ _ _ _ _ => rfl
theorem vfcmp : ∀ x0 x1 x2 x3 x4 x5 x6 x7 x8 x9, Statement (.vfcmp x0 x1 x2 x3 x4 x5 x6 x7 x8 x9) := fun _ _ _ _ _ _ _ _ _ _ => rfl
theorem sicmp : ∀ x0 x1 x2 x3 x4 x5 x6 x7, Statement (.sicmp x0 x1 x2 x3 x4 x5 x6 x7) := fun _ _ _ _ _ _ _ _ => rfl
theorem plop : ∀ x0 x1 x2 x3 x4 x5, Statement (.plop x0 x1 x2 x3 x4 x5) := fun _ _ _ _ _ _ => rfl
theorem pmov (x0 : Guard) (x1 : PmovForm) : Statement (.pmov x0 x1) := by cases x1 <;> rfl
theorem plive : ∀ x0 x1, Statement (.plive x0 x1) := fun _ _ => rfl
theorem emset : ∀ x0 x1, Statement (.emset x0 x1) := fun _ _ => rfl
theorem emsetAll : ∀ x0, Statement (.emsetAll x0) := fun _ => rfl
theorem emget : ∀ x0 x1 x2, Statement (.emget x0 x1 x2) := fun _ _ _ => rfl
theorem br : ∀ x0 x1 x2 x3, Statement (.br x0 x1 x2 x3) := fun _ _ _ _ => rfl
theorem brv : ∀ x0 x1 x2 x3, Statement (.brv x0 x1 x2 x3) := fun _ _ _ _ => rfl
theorem join : ∀ x0 x1, Statement (.join x0 x1) := fun _ _ => rfl
theorem brk : ∀ x0 x1 x2, Statement (.brk x0 x1 x2) := fun _ _ _ => rfl
theorem cont : ∀ x0 x1 x2, Statement (.cont x0 x1 x2) := fun _ _ _ => rfl
theorem loops : ∀ x0 x1, Statement (.loops x0 x1) := fun _ _ => rfl
theorem call : ∀ x0 x1, Statement (.call x0 x1) := fun _ _ => rfl
theorem ret : ∀ x0, Statement (.ret x0) := fun _ => rfl
theorem jmpr : ∀ x0 x1, Statement (.jmpr x0 x1) := fun _ _ => rfl
theorem jmprCall : ∀ x0 x1, Statement (.jmprCall x0 x1) := fun _ _ => rfl
theorem lexit : ∀ x0, Statement (.lexit x0) := fun _ => rfl
theorem exit : ∀ x0, Statement (.exit x0) := fun _ => rfl
theorem pwr : ∀ x0 x1 x2, Statement (.pwr x0 x1 x2) := fun _ _ _ => rfl
theorem prd : ∀ x0 x1 x2, Statement (.prd x0 x1 x2) := fun _ _ _ => rfl
theorem prdn : ∀ x0 x1 x2 x3 x4, Statement (.prdn x0 x1 x2 x3 x4) := fun _ _ _ _ _ => rfl
theorem pseal : ∀ x0, Statement (.pseal x0) := fun _ => rfl
theorem pstat : ∀ x0 x1 x2, Statement (.pstat x0 x1 x2) := fun _ _ _ => rfl
theorem pxfer : ∀ x0 x1 x2, Statement (.pxfer x0 x1 x2) := fun _ _ _ => rfl
theorem wld : ∀ x0 x1 x2 x3 x4 x5 x6, Statement (.wld x0 x1 x2 x3 x4 x5 x6) := fun _ _ _ _ _ _ _ => rfl
theorem wswap : ∀ x0, Statement (.wswap x0) := fun _ => rfl
theorem mmac : ∀ x0 x1, Statement (.mmac x0 x1) := fun _ _ => rfl
theorem accrd : ∀ x0 x1 x2 x3 x4, Statement (.accrd x0 x1 x2 x3 x4) := fun _ _ _ _ _ => rfl
theorem accwr : ∀ x0 x1 x2 x3 x4, Statement (.accwr x0 x1 x2 x3 x4) := fun _ _ _ _ _ => rfl
theorem accz : ∀ x0 x1 x2, Statement (.accz x0 x1 x2) := fun _ _ _ => rfl
theorem mdrain : ∀ x0 x1, Statement (.mdrain x0 x1) := fun _ _ => rfl
theorem mfill : ∀ x0 x1, Statement (.mfill x0 x1) := fun _ _ => rfl
theorem mstat : ∀ x0 x1 x2, Statement (.mstat x0 x1 x2) := fun _ _ _ => rfl
theorem ldv : ∀ x0 x1 x2 x3, Statement (.ldv x0 x1 x2 x3) := fun _ _ _ _ => rfl
theorem stv : ∀ x0 x1 x2, Statement (.stv x0 x1 x2) := fun _ _ _ => rfl
theorem ldx : ∀ x0 x1 x2 x3, Statement (.ldx x0 x1 x2 x3) := fun _ _ _ _ => rfl
theorem stx : ∀ x0 x1 x2, Statement (.stx x0 x1 x2) := fun _ _ _ => rfl
theorem ldt : ∀ x0 x1 x2 x3, Statement (.ldt x0 x1 x2 x3) := fun _ _ _ _ => rfl
theorem ldm : ∀ x0 x1 x2 x3 x4, Statement (.ldm x0 x1 x2 x3 x4) := fun _ _ _ _ _ => rfl
theorem ldvol : ∀ x0 x1 x2 x3, Statement (.ldvol x0 x1 x2 x3) := fun _ _ _ _ => rfl
theorem stvol : ∀ x0 x1 x2, Statement (.stvol x0 x1 x2) := fun _ _ _ => rfl
theorem fence : ∀ x0 x1 x2, Statement (.fence x0 x1 x2) := fun _ _ _ => rfl
theorem ldacq : ∀ x0 x1 x2 x3, Statement (.ldacq x0 x1 x2 x3) := fun _ _ _ _ => rfl
theorem strel : ∀ x0 x1 x2, Statement (.strel x0 x1 x2) := fun _ _ _ => rfl
theorem amo : ∀ x0 x1 x2 x3 x4 x5 x6 x7 x8, Statement (.amo x0 x1 x2 x3 x4 x5 x6 x7 x8) := fun _ _ _ _ _ _ _ _ _ => rfl
theorem red : ∀ x0 x1 x2 x3 x4 x5 x6, Statement (.red x0 x1 x2 x3 x4 x5 x6) := fun _ _ _ _ _ _ _ => rfl
theorem amos : ∀ x0 x1 x2 x3 x4 x5 x6 x7, Statement (.amos x0 x1 x2 x3 x4 x5 x6 x7) := fun _ _ _ _ _ _ _ _ => rfl
theorem own : ∀ x0 x1 x2 x3 x4, Statement (.own x0 x1 x2 x3 x4) := fun _ _ _ _ _ => rfl
theorem disown : ∀ x0 x1 x2 x3 x4, Statement (.disown x0 x1 x2 x3 x4) := fun _ _ _ _ _ => rfl
theorem peg : ∀ x0 x1 x2 x3 x4 x5 x6, Statement (.peg x0 x1 x2 x3 x4 x5 x6) := fun _ _ _ _ _ _ _ => rfl
theorem unpeg : ∀ x0 x1, Statement (.unpeg x0 x1) := fun _ _ => rfl
theorem pegw : ∀ x0 x1 x2 x3, Statement (.pegw x0 x1 x2 x3) := fun _ _ _ _ => rfl
theorem pegq : ∀ x0 x1 x2 x3, Statement (.pegq x0 x1 x2 x3) := fun _ _ _ _ => rfl
theorem rpos : ∀ x0 x1 x2, Statement (.rpos x0 x1 x2) := fun _ _ _ => rfl
theorem ctail : ∀ x0 x1 x2 x3, Statement (.ctail x0 x1 x2 x3) := fun _ _ _ _ => rfl
theorem ctailRetry : ∀ x0 x1 x2, Statement (.ctailRetry x0 x1 x2) := fun _ _ _ => rfl
theorem ctailSkip : ∀ x0 x1 x2, Statement (.ctailSkip x0 x1 x2) := fun _ _ _ => rfl
theorem ctailStart : ∀ x0 x1 x2 x3 x4, Statement (.ctailStart x0 x1 x2 x3 x4) := fun _ _ _ _ _ => rfl
theorem cseq : ∀ x0 x1 x2 x3 x4, Statement (.cseq x0 x1 x2 x3 x4) := fun _ _ _ _ _ => rfl
theorem cwait : ∀ x0 x1 x2 x3 x4, Statement (.cwait x0 x1 x2 x3 x4) := fun _ _ _ _ _ => rfl
theorem cbacq : ∀ x0 x1 x2 x3 x4, Statement (.cbacq x0 x1 x2 x3 x4) := fun _ _ _ _ _ => rfl
theorem cbrel : ∀ x0 x1 x2 x3, Statement (.cbrel x0 x1 x2 x3) := fun _ _ _ _ => rfl
theorem cbpub : ∀ x0 x1 x2 x3 x4 x5, Statement (.cbpub x0 x1 x2 x3 x4 x5) := fun _ _ _ _ _ _ => rfl
theorem cbpubGet : ∀ x0 x1 x2 x3, Statement (.cbpubGet x0 x1 x2 x3) := fun _ _ _ _ => rfl
theorem spawn : ∀ x0 x1 x2 x3 x4 x5 x6 x7 x8, Statement (.spawn x0 x1 x2 x3 x4 x5 x6 x7 x8) := fun _ _ _ _ _ _ _ _ _ => rfl
theorem tjoin : ∀ x0 x1, Statement (.tjoin x0 x1) := fun _ _ => rfl
theorem targ : ∀ x0 x1 x2, Statement (.targ x0 x1 x2) := fun _ _ _ => rfl
theorem tend : ∀ x0, Statement (.tend x0) := fun _ => rfl
theorem desc : ∀ x0 x1 x2, Statement (.desc x0 x1 x2) := fun _ _ _ => rfl
theorem bar : ∀ x0 x1 x2 x3 x4, Statement (.bar x0 x1 x2 x3 x4) := fun _ _ _ _ _ => rfl
theorem bara : ∀ x0 x1 x2 x3, Statement (.bara x0 x1 x2 x3) := fun _ _ _ _ => rfl
theorem barw : ∀ x0 x1 x2, Statement (.barw x0 x1 x2) := fun _ _ _ => rfl
theorem trig : ∀ x0, Statement (.trig x0) := fun _ => rfl
theorem flwait : ∀ x0 x1 x2, Statement (.flwait x0 x1 x2) := fun _ _ _ => rfl
theorem trap : ∀ x0 x1, Statement (.trap x0 x1) := fun _ _ => rfl
theorem eret : ∀ x0, Statement (.eret x0) := fun _ => rfl
theorem idem : ∀ x0 x1, Statement (.idem x0 x1) := fun _ _ => rfl
theorem idend : ∀ x0, Statement (.idend x0) := fun _ => rfl
theorem phint : ∀ x0 x1 x2 x3, Statement (.phint x0 x1 x2 x3) := fun _ _ _ _ => rfl
theorem yield : ∀ x0, Statement (.yield x0) := fun _ => rfl
theorem rdcyc : ∀ x0 x1 x2, Statement (.rdcyc x0 x1 x2) := fun _ _ _ => rfl
theorem halt : ∀ x0 x1, Statement (.halt x0 x1) := fun _ _ => rfl
theorem clauseIssue : ∀ x0, Statement (.clauseIssue x0) := fun _ => rfl
theorem deferredTrap : ∀ x0, Statement (.deferredTrap x0) := fun _ => rfl
theorem operationComplete : ∀ x0 x1 x2 x3, Statement (.operationComplete x0 x1 x2 x3) := fun _ _ _ _ => rfl
theorem storePerform : ∀ x0 x1 x2 x3, Statement (.storePerform x0 x1 x2 x3) := fun _ _ _ _ => rfl
theorem atomicPerform : ∀ x0 x1 x2 x3, Statement (.atomicPerform x0 x1 x2 x3) := fun _ _ _ _ => rfl
theorem rowRetire : ∀ x0, Statement (.rowRetire x0) := fun _ => rfl
theorem portEntryArrive : ∀ x0, Statement (.portEntryArrive x0) := fun _ => rfl
theorem portWaitEnd : ∀ x0, Statement (.portWaitEnd x0) := fun _ => rfl
theorem portStarved : ∀ x0, Statement (.portStarved x0) := fun _ => rfl
theorem cbEdgeTransfer : ∀ x0 x1, Statement (.cbEdgeTransfer x0 x1) := fun _ _ => rfl
theorem vectorEnter : ∀ x0, Statement (.vectorEnter x0) := fun _ => rfl
theorem vectorWrite : ∀ x0, Statement (.vectorWrite x0) := fun _ => rfl
theorem swapPoint : ∀ x0, Statement (.swapPoint x0) := fun _ => rfl
theorem shadowFillStart : ∀ x0, Statement (.shadowFillStart x0) := fun _ => rfl
theorem arrayPortStop : ∀ x0 x1, Statement (.arrayPortStop x0 x1) := fun _ _ => rfl
theorem arrayWatchdog : ∀ x0, Statement (.arrayWatchdog x0) := fun _ => rfl
theorem revolutionStart : Statement .revolutionStart := rfl
theorem feederInsert : ∀ x0, Statement (.feederInsert x0) := fun _ => rfl
theorem tilePass : ∀ x0 x1, Statement (.tilePass x0 x1) := fun _ _ => rfl
theorem pegFireComplete : ∀ x0 x1, Statement (.pegFireComplete x0 x1) := fun _ _ => rfl
theorem ringWatchdog : ∀ x0 x1, Statement (.ringWatchdog x0 x1) := fun _ _ => rfl
theorem commitPoint : Statement .commitPoint := rfl
theorem engineCommandStart : ∀ x0 x1 x2, Statement (.engineCommandStart x0 x1 x2) := fun _ _ _ => rfl
theorem engineCommandComplete : ∀ x0 x1, Statement (.engineCommandComplete x0 x1) := fun _ _ => rfl
theorem nopCommand : ∀ x0 x1, Statement (.nopCommand x0 x1) := fun _ _ => rfl
theorem copy : ∀ x0 x1 x2, Statement (.copy x0 x1 x2) := fun _ _ _ => rfl
theorem tile : ∀ x0 x1 x2, Statement (.tile x0 x1 x2) := fun _ _ _ => rfl
theorem gather : ∀ x0 x1 x2, Statement (.gather x0 x1 x2) := fun _ _ _ => rfl
theorem transpose : ∀ x0 x1 x2, Statement (.transpose x0 x1 x2) := fun _ _ _ => rfl
theorem fill : ∀ x0 x1, Statement (.fill x0 x1) := fun _ _ => rfl
theorem pairedCommit : ∀ x0 x1 x2, Statement (.pairedCommit x0 x1 x2) := fun _ _ _ => rfl
theorem edgeFeed : ∀ x0 x1 x2, Statement (.edgeFeed x0 x1 x2) := fun _ _ _ => rfl
theorem edgeDrain : ∀ x0 x1, Statement (.edgeDrain x0 x1) := fun _ _ => rfl
theorem bufferSetUp : ∀ x0 x1, Statement (.bufferSetUp x0 x1) := fun _ _ => rfl
theorem followOnMmac : ∀ x0 x1, Statement (.followOnMmac x0 x1) := fun _ _ => rfl
theorem send : ∀ x0 x1 x2, Statement (.send x0 x1 x2) := fun _ _ _ => rfl
theorem recv : ∀ x0 x1, Statement (.recv x0 x1) := fun _ _ => rfl
theorem reduceStep : ∀ x0 x1 x2, Statement (.reduceStep x0 x1 x2) := fun _ _ _ => rfl
theorem xorReduce : ∀ x0 x1 x2, Statement (.xorReduce x0 x1 x2) := fun _ _ _ => rfl
theorem allreduce : ∀ x0 x1 x2, Statement (.allreduce x0 x1 x2) := fun _ _ _ => rfl
theorem linkAbort : ∀ x0 x1, Statement (.linkAbort x0 x1) := fun _ _ => rfl
theorem adyanCell : ∀ x0 x1, Statement (.adyanCell x0 x1) := fun _ _ => rfl
theorem replay : ∀ x0 x1, Statement (.replay x0 x1) := fun _ _ => rfl
theorem windowFill : ∀ x0, Statement (.windowFill x0) := fun _ => rfl
theorem waveDispatch : ∀ x0 x1, Statement (.waveDispatch x0 x1) := fun _ _ => rfl
theorem stealRequest : ∀ x0, Statement (.stealRequest x0) := fun _ => rfl
theorem taskEnqueue : ∀ x0, Statement (.taskEnqueue x0) := fun _ => rfl
theorem joinDecrement : ∀ x0, Statement (.joinDecrement x0) := fun _ => rfl
theorem continuationEnqueue : ∀ x0 x1, Statement (.continuationEnqueue x0 x1) := fun _ _ => rfl
theorem partSecure : ∀ x0, Statement (.partSecure x0) := fun _ => rfl
theorem domainReassign : ∀ x0, Statement (.domainReassign x0) := fun _ => rfl
theorem gangStart : ∀ x0, Statement (.gangStart x0) := fun _ => rfl
theorem allowanceTick : ∀ x0, Statement (.allowanceTick x0) := fun _ => rfl
theorem thermal : ∀ x0 x1, Statement (.thermal x0 x1) := fun _ _ => rfl
theorem laggardTransferEnd : ∀ x0, Statement (.laggardTransferEnd x0) := fun _ => rfl
theorem bank : ∀ x0 x1, Statement (.bank x0 x1) := fun _ _ => rfl
theorem stokeRequest : ∀ x0 x1, Statement (.stokeRequest x0 x1) := fun _ _ => rfl
theorem inrushGrant : ∀ x0, Statement (.inrushGrant x0) := fun _ => rfl
theorem stokeComplete : ∀ x0 x1, Statement (.stokeComplete x0 x1) := fun _ _ => rfl
theorem preemptArrive : ∀ x0, Statement (.preemptArrive x0) := fun _ => rfl
theorem hamperSave : ∀ x0, Statement (.hamperSave x0) := fun _ => rfl
theorem start : Statement .start := rfl
theorem featuresTimeout : Statement .featuresTimeout := rfl
theorem fatal : ∀ x0, Statement (.fatal x0) := fun _ => rfl
theorem eventDeliver : Statement .eventDeliver := rfl
theorem cmdTail : ∀ x0 x1, Statement (.cmdTail x0 x1) := fun _ _ => rfl
theorem evtHead : ∀ x0, Statement (.evtHead x0) := fun _ => rfl
theorem windowWrite : ∀ x0 x1, Statement (.windowWrite x0 x1) := fun _ _ => rfl
theorem features : Statement .features := rfl
theorem attest : ∀ x0, Statement (.attest x0) := fun _ => rfl
theorem status : Statement .status := rfl
theorem jobOpen : Statement .jobOpen := rfl
theorem jobClose : Statement .jobClose := rfl
theorem allocSet : ∀ x0, Statement (.allocSet x0) := fun _ => rfl
theorem sideCheck : Statement .sideCheck := rfl
theorem xlateInval : Statement .xlateInval := rfl
theorem place : ∀ x0, Statement (.place x0) := fun _ => rfl
theorem poolBind : ∀ x0, Statement (.poolBind x0) := fun _ => rfl
theorem poolUnbind : Statement .poolUnbind := rfl
theorem preempt : Statement .preempt := rfl
theorem resume : ∀ x0, Statement (.resume x0) := fun _ => rfl
theorem checkpoint : ∀ x0, Statement (.checkpoint x0) := fun _ => rfl
theorem restore : ∀ x0, Statement (.restore x0) := fun _ => rfl
theorem ringLoad : ∀ x0, Statement (.ringLoad x0) := fun _ => rfl
theorem linkUp : Statement .linkUp := rfl
theorem commLoad : ∀ x0, Statement (.commLoad x0) := fun _ => rfl
theorem powerSet : Statement .powerSet := rfl
theorem clearStart : Statement .clearStart := rfl
theorem mgmtStatus : Statement .mgmtStatus := rfl
theorem mgmtAttest : Statement .mgmtAttest := rfl
theorem mgmtReadStart : Statement .mgmtReadStart := rfl
theorem mgmtReadEvents : Statement .mgmtReadEvents := rfl
theorem mgmtReset : Statement .mgmtReset := rfl

end Sys2Proof.Laws.Encodes
end

