-- ==== Sys2Proof/Laws/Registers.lean ====
section
/-! SUPPORT. The register files: what a write leaves in each register, lane and predicate, and what a lane-class word that
writes one register does. -/

namespace Sys2Proof.Machine

/-! ### Vector registers -/

theorem word_inj {L k l d x : Nat} (hl : l < L) (hx : x < L) (h : L * k + l = L * d + x) : k = d ∧ l = x := by
  have h1 : (L * k + l) / L = (L * d + x) / L := by rw [h]
  have hL : 0 < L := by omega
  rw [Nat.mul_add_div hL, Nat.mul_add_div hL, Nat.div_eq_of_lt hl, Nat.div_eq_of_lt hx] at h1
  simp only [Nat.add_zero] at h1
  subst h1
  exact ⟨rfl, by omega⟩

theorem setV_vreg (r : Row) {d x k l : Nat} (w : W32) (hx : x < r.L) (hl : l < r.L) :
    (r.setV d x w).vreg k l = if k = d ∧ l = x then w else r.vreg k l := by
  show tget 0 (tset 0 r.v (r.L * d + x) w) (r.L * k + l) = _
  rw [tget_tset]
  by_cases h : k = d ∧ l = x
  · simp [h.1, h.2]
  · rw [if_neg h, if_neg]
    · rfl
    · exact fun e => h (word_inj hl hx e)

theorem setLanes_vreg (r : Row) (d k l : Nat) (ls : List Nat) (f : Nat → W32) (hl : l < r.L) (hls : ∀ x ∈ ls, x < r.L) :
    (r.setLanes d ls f).vreg k l = if k = d ∧ l ∈ ls then f l else r.vreg k l := by
  show tget 0 (tsets 0 r.v (ls.map (fun x => (r.L * d + x, f x)))) (r.L * k + l) = _
  by_cases h : k = d ∧ l ∈ ls
  · obtain ⟨rfl, hm⟩ := h
    rw [if_pos ⟨rfl, hm⟩]
    exact tget_tsets_map 0 (fun x => r.L * k + x) f ls r.v l hm (fun a _ b _ e => by omega)
  · rw [if_neg h]
    refine tget_tsets_ne 0 _ r.v _ ?_
    intro e he
    obtain ⟨x, hx, rfl⟩ := List.mem_map.1 he
    intro e'
    have := word_inj (hls x hx) hl e'
    exact h ⟨this.1.symm, this.2 ▸ hx⟩

theorem mem_actLanes {r : Row} {g : Guard} {l : Nat} : l ∈ r.actLanes g ↔ l < r.L ∧ r.acts g l = true := by
  simp [Row.actLanes]

theorem setLanes_acts (r : Row) (g : Guard) (d k l : Nat) (f : Nat → W32) (hl : l < r.L) :
    (r.setLanes d (r.actLanes g) f).vreg k l = (if k = d then r.inActs g f l else none).getD (r.vreg k l) := by
  rw [setLanes_vreg _ _ _ _ _ _ hl (fun x hx => (mem_actLanes.1 hx).1)]
  simp only [mem_actLanes, hl, true_and, Row.inActs]
  by_cases hk : k = d
  · by_cases ha : r.acts g l = true <;> simp [hk, ha]
  · simp [hk]

/-! ### Scalar registers and predicates -/

theorem sreg_zero (r : Row) : r.sreg 0 = 0 := rfl
theorem setS_zero (r : Row) (x : W64) : r.setS 0 x = r := rfl
theorem setS_sreg (r : Row) (n m : Nat) (x : W64) : (r.setS n x).sreg m = if m = n ∧ n ≠ 0 then x else r.sreg m := by
  unfold Row.setS
  by_cases hn : n = 0
  · simp [hn]
  · by_cases hh : (r.handler && decide (24 ≤ n)) = true
    · rw [if_neg hn, if_pos hh]
      simp only [Bool.and_eq_true, decide_eq_true_eq] at hh
      unfold Row.sreg
      by_cases hm : m = 0
      · subst hm; rw [if_pos rfl, if_neg (by omega)]; rfl
      · by_cases hb : (r.handler && decide (24 ≤ m)) = true
        · rw [if_neg hm, if_neg hm, if_pos hb, if_pos hb, tget_tset]
          simp only [Bool.and_eq_true, decide_eq_true_eq] at hb
          by_cases e : m = n
          · simp [e, hn]
          · rw [if_neg (by omega), if_neg (by omega)]
        · rw [if_neg hm, if_neg hm, if_neg hb, if_neg hb, if_neg]
          intro ⟨e, _⟩; subst e; simp [hh.1, hh.2] at hb
    · rw [if_neg hn, if_neg hh]
      unfold Row.sreg
      by_cases hm : m = 0
      · subst hm; rw [if_pos rfl, if_neg (by omega)]; rfl
      · by_cases hb : (r.handler && decide (24 ≤ m)) = true
        · rw [if_neg hm, if_neg hm, if_pos hb, if_pos hb, if_neg]
          intro ⟨e, _⟩; subst e; exact hh hb
        · rw [if_neg hm, if_neg hm, if_neg hb, if_neg hb, tget_tset]
          by_cases e : m = n <;> simp [e, hn]

theorem setQ_zero (r : Row) (b : Bool) : r.setQ 0 b = r := rfl
theorem setP_zero (r : Row) (m : Mask) : r.setP 0 m = r := rfl

theorem getLsbD_two_pow (w i j : Nat) (_hi : i < w) (hj : j < w) : (BitVec.ofNat w (2 ^ i)).getLsbD j = decide (i = j) := by
  rw [BitVec.getLsbD_ofNat, Nat.testBit_two_pow]
  simp only [hj, decide_true, Bool.true_and]

theorem setQ_qreg (r : Row) (n m : Nat) (b : Bool) (hn : n < 8) (hm : m < 8) :
    (r.setQ n b).qreg m = if m = n ∧ n ≠ 0 then b else r.qreg m := by
  unfold Row.setQ Row.qreg
  by_cases h0 : n = 0
  · simp [h0]
  · rw [if_neg h0]
    by_cases e : m = n
    · subst e
      cases b <;> simp only [BitVec.getLsbD_or, BitVec.getLsbD_and, BitVec.getLsbD_not, getLsbD_two_pow 8 m m hm hm, hm,
        if_true, Bool.false_eq_true, if_false] <;> simp [h0]
    · have : ¬ n = m := fun h => e h.symm
      cases b <;> simp only [BitVec.getLsbD_or, BitVec.getLsbD_and, BitVec.getLsbD_not, getLsbD_two_pow 8 n m hn hm, hm,
        if_true, Bool.false_eq_true, if_false] <;> simp [e, this]

theorem setLane_get (m : Mask) (l j : Nat) (b : Bool) (hl : l < 1024) (hj : j < 1024) :
    (setLane m l b).getLsbD j = if j = l then b else m.getLsbD j := by
  unfold setLane
  by_cases e : j = l
  · subst e
    cases b <;> simp only [BitVec.getLsbD_or, BitVec.getLsbD_and, BitVec.getLsbD_not, getLsbD_two_pow 1024 j j hj hj,
      if_true, Bool.false_eq_true, if_false] <;> simp
  · have : ¬ l = j := fun h => e h.symm
    cases b <;> simp only [BitVec.getLsbD_or, BitVec.getLsbD_and, BitVec.getLsbD_not, getLsbD_two_pow 1024 l j hl hj, hj,
      if_true, Bool.false_eq_true, if_false] <;> simp [e, this]

theorem foldl_setLane (f : Nat → Bool) (ls : List Nat) (m : Mask) (j : Nat) (hls : ∀ x ∈ ls, x < 1024) (hj : j < 1024) :
    (ls.foldl (fun m l => setLane m l (f l)) m).getLsbD j = if j ∈ ls then f j else m.getLsbD j := by
  induction ls generalizing m with
  | nil => simp
  | cons x r ih =>
    rw [List.foldl_cons, ih _ (fun y hy => hls y (List.mem_cons_of_mem _ hy)),
      setLane_get _ _ _ _ (hls x List.mem_cons_self) hj]
    by_cases h : j ∈ r
    · simp [h]
    · by_cases e : j = x <;> simp [h, e]

theorem setPreds_preg (r : Row) (d k l : Nat) (ls : List Nat) (f : Nat → Bool) (hls : ∀ x ∈ ls, x < 1024) (hl : l < 1024) :
    ((r.setPreds d ls f).preg k).getLsbD l = if k = d ∧ d ≠ 0 ∧ l ∈ ls then f l else (r.preg k).getLsbD l := by
  unfold Row.setPreds
  by_cases h0 : d = 0
  · simp [h0]
  · rw [if_neg h0]
    unfold Row.preg
    by_cases hk : k = 0
    · subst hk
      rw [if_pos rfl, if_pos rfl, if_neg (fun h => h0 h.1.symm)]
    · rw [if_neg hk, if_neg hk, tget_tset]
      by_cases e : k = d
      · subst e
        simp only [if_true, foldl_setLane f ls _ l hls hl]
        by_cases hm : l ∈ ls <;> simp [hm, h0]
      · rw [if_neg e, if_neg (fun h => e h.1)]

/-! ### Words that write one vector register -/

theorem WritesV.of {i : Instr} {s u : State} {d : Nat} {f : Nat → Option W32} {v : Tbl W32}
    (h : Completes i s (u.now (fun r => { r with v := v })))
    (hv : ∀ k l, l < (s.row s.cur).L → ({ s.row s.cur with v := v } : Row).vreg k l =
      (if k = d then f l else none).getD ((s.row s.cur).vreg k l)) : WritesV i s u d f := by
  obtain ⟨t, h1, h2⟩ := h
  exact ⟨t, v, h1, h2, hv⟩

/-- A lane-class word that writes vd in each lane that acts (R119). -/
theorem WritesV.lanes {i : Instr} {s : State} {g : Guard} {d : Nat} {f : Nat → W32}
    (h : Completes i s (s.now (fun r => r.setLanes d ((s.row s.cur).actLanes g) f))) :
    WritesV i s s d ((s.row s.cur).inActs g f) :=
  WritesV.of (v := ((s.row s.cur).setLanes d ((s.row s.cur).actLanes g) f).v) h
    (fun k l hl => setLanes_acts (s.row s.cur) g d k l f hl)

/-- `vectorTo` completes (R119, R120). -/
theorem vectorTo_writes {i : Instr} {s : State} {p : Plan} {g : Guard} {d : VReg} {f : Row → Nat → W32}
    (he : exec i s = vectorTo p g d f s) (ha : s.acting g) (hl : p.illegal (s.row s.cur) = false)
    (hr : (s.row s.cur).badReg (p.regs ++ p.regsOf (s.row s.cur)) = none) (hn : p.nest = false) (hp : p.priv = false)
    (hf : p.fp = false) : WritesV i s s d.toNat ((s.row s.cur).inActs g (f (s.row s.cur))) := by
  unfold vectorTo issueL at he
  refine WritesV.lanes (Completes.done (s.drawn + 1) he ha.1 ⟨hl, hr, ?_, ?_, ha.1.holdV d.toNat, ?_⟩ ha.2 ?_ rfl)
  · show (p.nest && _ && _) = false
    rw [hn]; rfl
  · show (p.priv && _) = false
    rw [hp]; rfl
  · show (p.fp && _) = false
    rw [hf]; rfl
  · show onRow _ (if p.fp = true then _ else _) _ _ = _
    rw [hf]
    rfl

theorem modRow_apply {s : State} {n : Nat} {f g : Row → Row} (h : f (s.row n) = g (s.row n)) : s.modRow n f = s.modRow n g := by
  unfold State.modRow
  rw [h]

/-- A body on the row that the FP datapath has been used in, as an effect on the state before the word. -/
theorem usedFp_body {s : State} {H F G : Row → Row}
    (h : H ((s.row s.cur).useFp (s.rowClk s.cur)) = G (F ((s.row s.cur).useFp (s.rowClk s.cur)))) :
    (s.draw.modRow s.cur (Row.useFp (s.draw.rowClk s.cur))).modRow s.cur H =
      { (s.usedFp.now F).now G with drawn := s.drawn + 1 } := by
  have e : ({ (s.usedFp.now F).now G with drawn := s.drawn + 1 } : State) =
      ((s.draw.modRow s.cur (Row.useFp (s.rowClk s.cur))).modRow s.cur F).modRow s.cur G := rfl
  rw [e, modRow_modRow, modRow_modRow, modRow_modRow]
  exact modRow_apply h

theorem usedFp_now_cur (s : State) (F G : Row → Row) : ((s.usedFp.now F).now G).cur = s.cur := rfl

/-- `floatTo` completes: the FP datapath used, the flags of the lanes that act, and the vector registers that they leave. -/
theorem floatTo_completes {i : Instr} {s : State} {p : Plan} {g : Guard} {d : VReg} {f : Row → Nat → W32 × Flags}
    (he : exec i s = floatTo p g d f s) (ha : s.acting g) (hl : p.illegal (s.row s.cur) = false)
    (hr : (s.row s.cur).badReg (p.regs ++ p.regsOf (s.row s.cur)) = none) (hn : p.nest = false) (hp : p.priv = false)
    (hf : p.fp = true) (hb : (s.row s.cur).fp.banked = false) {F G : Row → Row}
    (hF : F = fun r => r.orFlags (((s.row s.cur).actLanes g).foldl (fun a l => a ||| (f (s.row s.cur) l).2) 0))
    (hG : G = fun r => { r with v := ((s.row s.cur).setLanes d.toNat ((s.row s.cur).actLanes g) (fun l => (f (s.row s.cur) l).1)).v }) :
    Completes i s ((s.usedFp.now F).now G) := by
  unfold floatTo issueL at he
  refine Completes.done (s.drawn + 1) he ha.1 ⟨hl, hr, ?_, ?_, ha.1.holdV d.toNat, ?_⟩ ha.2 ?_ (usedFp_now_cur s F G)
  · show (p.nest && _ && _) = false
    rw [hn]; rfl
  · show (p.priv && _) = false
    rw [hp]; rfl
  · show (p.fp && _) = false
    rw [hb, Bool.and_false]
  · show onRow _ (if p.fp = true then _ else _) _ _ = _
    rw [if_pos hf]
    unfold onRow
    refine congrArg Res.done (usedFp_body ?_)
    subst hF hG
    rfl

/-- `floatTo` completes (R125, R126): vd in the lanes that act, and the flags of those lanes. -/
theorem floatTo_writes {i : Instr} {s : State} {p : Plan} {g : Guard} {d : VReg} {f : Row → Nat → W32 × Flags}
    (he : exec i s = floatTo p g d f s) (ha : s.acting g) (hl : p.illegal (s.row s.cur) = false)
    (hr : (s.row s.cur).badReg (p.regs ++ p.regsOf (s.row s.cur)) = none) (hn : p.nest = false) (hp : p.priv = false)
    (hf : p.fp = true) (hb : (s.row s.cur).fp.banked = false) :
    WritesV i s (s.usedFp.now (fun r => r.orFlags (((s.row s.cur).actLanes g).foldl (fun a l => a ||| (f (s.row s.cur) l).2) 0)))
      d.toNat ((s.row s.cur).inActs g (fun l => (f (s.row s.cur) l).1)) :=
  WritesV.of (floatTo_completes he ha hl hr hn hp hf hb rfl rfl)
    (fun k l h => setLanes_acts (s.row s.cur) g d.toNat k l _ h)

end Sys2Proof.Machine
end

