-- ==== Sys2Proof/Laws/Traps.lean ====
section
/-! SUPPORT. Taking an exception and returning from one: what each leaves of the row, and that nothing else changes. -/

namespace Sys2Proof.Machine

/-! ### Entry in normal mode (R334) -/

theorem trap_row_normal (s : State) (n : Nat) (c : W8) (t : W64) (e : Va) (k : Clause) (h : (s.row n).handler = false) :
    (s.trap n c t e k).row n = (s.row n).enterTrap c t e k := by
  simp [State.trap, h]

/-- In handler mode the row fails and keeps everything else (R335). -/
theorem trap_row_handler (s : State) (n : Nat) (c : W8) (t : W64) (e : Va) (k : Clause) (h : (s.row n).handler = true) :
    (s.trap n c t e k).row n = (s.row n).fail c t (s.row n).arm.pc := by
  simp [State.trap, h, State.raise]

theorem trap_row_ne (s : State) {n m : Nat} (c : W8) (t : W64) (e : Va) (k : Clause) (h : m ≠ n) :
    (s.trap n c t e k).row m = s.row m := by
  simp only [State.trap]
  split
  · rw [State.raise, modDev_row, setRow_row_ne _ _ h]
  · exact setRow_row_ne _ _ h

@[simp] theorem trap_byte (s : State) (n : Nat) (c : W8) (t : W64) (e : Va) (k : Clause) (a : Nat) :
    (s.trap n c t e k).byte a = s.byte a := by
  simp only [State.trap]; split <;> rfl
@[simp] theorem trap_die (s : State) (n : Nat) (c : W8) (t : W64) (e : Va) (k : Clause) (d : Nat) :
    (s.trap n c t e k).die d = s.die d := by
  simp only [State.trap]; split <;> rfl
@[simp] theorem trap_dom (s : State) (n : Nat) (c : W8) (t : W64) (e : Va) (k : Clause) (d : Nat) :
    (s.trap n c t e k).dom d = s.dom d := by
  simp only [State.trap]; split <;> rfl
@[simp] theorem trap_agenda (s : State) (n : Nat) (c : W8) (t : W64) (e : Va) (k : Clause) :
    (s.trap n c t e k).agenda = s.agenda := by
  simp only [State.trap]; split <;> rfl
@[simp] theorem trap_cur (s : State) (n : Nat) (c : W8) (t : W64) (e : Va) (k : Clause) :
    (s.trap n c t e k).cur = s.cur := by
  simp only [State.trap]; split <;> rfl
theorem trap_dev_normal (s : State) (n : Nat) (c : W8) (t : W64) (e : Va) (k : Clause) (h : (s.row n).handler = false) :
    (s.trap n c t e k).dev = s.dev := by
  simp [State.trap, h]

@[simp] theorem enterTrap_handler (r : Row) (c : W8) (t : W64) (e : Va) (k : Clause) : (r.enterTrap c t e k).handler = true := rfl
@[simp] theorem enterTrap_frozen (r : Row) (c : W8) (t : W64) (e : Va) (k : Clause) : (r.enterTrap c t e k).frozen = true := rfl
@[simp] theorem enterTrap_trapClause (r : Row) (c : W8) (t : W64) (e : Va) (k : Clause) : (r.enterTrap c t e k).trapClause = k := rfl
@[simp] theorem enterTrap_again (r : Row) (c : W8) (t : W64) (e : Va) (k : Clause) : (r.enterTrap c t e k).again = false := rfl
@[simp] theorem enterTrap_transfer (r : Row) (c : W8) (t : W64) (e : Va) (k : Clause) :
    (r.enterTrap c t e k).transfer = r.transfer := rfl
@[simp] theorem enterTrap_retake (r : Row) (c : W8) (t : W64) (e : Va) (k : Clause) : (r.enterTrap c t e k).retake = false := rfl
@[simp] theorem enterTrap_landed (r : Row) (c : W8) (t : W64) (e : Va) (k : Clause) : (r.enterTrap c t e k).landed = r.landed := rfl
@[simp] theorem enterTrap_tjoinNum (r : Row) (c : W8) (t : W64) (e : Va) (k : Clause) : (r.enterTrap c t e k).tjoinNum = r.tjoinNum := rfl
@[simp] theorem enterTrap_spawn (r : Row) (c : W8) (t : W64) (e : Va) (k : Clause) : (r.enterTrap c t e k).spawn = r.spawn := rfl
@[simp] theorem enterTrap_haltPc (r : Row) (c : W8) (t : W64) (e : Va) (k : Clause) : (r.enterTrap c t e k).haltPc = r.haltPc := rfl
@[simp] theorem enterTrap_haltVal (r : Row) (c : W8) (t : W64) (e : Va) (k : Clause) : (r.enterTrap c t e k).haltVal = r.haltVal := rfl
@[simp] theorem enterTrap_failCause (r : Row) (c : W8) (t : W64) (e : Va) (k : Clause) : (r.enterTrap c t e k).failCause = r.failCause := rfl
@[simp] theorem enterTrap_wait (r : Row) (c : W8) (t : W64) (e : Va) (k : Clause) : (r.enterTrap c t e k).wait = none := rfl
@[simp] theorem enterTrap_req (r : Row) (c : W8) (t : W64) (e : Va) (k : Clause) : (r.enterTrap c t e k).req = none := rfl
@[simp] theorem enterTrap_granted (r : Row) (c : W8) (t : W64) (e : Va) (k : Clause) : (r.enterTrap c t e k).granted = false := rfl
@[simp] theorem enterTrap_cause (r : Row) (c : W8) (t : W64) (e : Va) (k : Clause) : (r.enterTrap c t e k).csr.cause = c := rfl
@[simp] theorem enterTrap_epc (r : Row) (c : W8) (t : W64) (e : Va) (k : Clause) : (r.enterTrap c t e k).csr.epc = e := rfl
@[simp] theorem enterTrap_tval (r : Row) (c : W8) (t : W64) (e : Va) (k : Clause) : (r.enterTrap c t e k).csr.tval = t := rfl
@[simp] theorem enterTrap_tvec (r : Row) (c : W8) (t : W64) (e : Va) (k : Clause) : (r.enterTrap c t e k).csr.tvec = r.csr.tvec := rfl
@[simp] theorem enterTrap_arm (r : Row) (c : W8) (t : W64) (e : Va) (k : Clause) : (r.enterTrap c t e k).arm = r.arm.goto r.csr.tvec := rfl
@[simp] theorem enterTrap_life (r : Row) (c : W8) (t : W64) (e : Va) (k : Clause) : (r.enterTrap c t e k).life = r.life := rfl
@[simp] theorem enterTrap_L (r : Row) (c : W8) (t : W64) (e : Va) (k : Clause) : (r.enterTrap c t e k).L = r.L := rfl
@[simp] theorem enterTrap_v (r : Row) (c : W8) (t : W64) (e : Va) (k : Clause) : (r.enterTrap c t e k).v = r.v := rfl
@[simp] theorem enterTrap_s (r : Row) (c : W8) (t : W64) (e : Va) (k : Clause) : (r.enterTrap c t e k).s = r.s := rfl
@[simp] theorem enterTrap_h (r : Row) (c : W8) (t : W64) (e : Va) (k : Clause) : (r.enterTrap c t e k).h = r.h := rfl
@[simp] theorem enterTrap_p (r : Row) (c : W8) (t : W64) (e : Va) (k : Clause) : (r.enterTrap c t e k).p = r.p := rfl
@[simp] theorem enterTrap_q (r : Row) (c : W8) (t : W64) (e : Va) (k : Clause) : (r.enterTrap c t e k).q = r.q := rfl
@[simp] theorem enterTrap_exited (r : Row) (c : W8) (t : W64) (e : Va) (k : Clause) : (r.enterTrap c t e k).exited = r.exited := rfl
@[simp] theorem enterTrap_other (r : Row) (c : W8) (t : W64) (e : Va) (k : Clause) : (r.enterTrap c t e k).other = r.other := rfl
@[simp] theorem enterTrap_armId (r : Row) (c : W8) (t : W64) (e : Va) (k : Clause) : (r.enterTrap c t e k).armId = r.armId := rfl
@[simp] theorem enterTrap_armsTok (r : Row) (c : W8) (t : W64) (e : Va) (k : Clause) : (r.enterTrap c t e k).armsTok = r.armsTok := rfl
@[simp] theorem enterTrap_tokSerial (r : Row) (c : W8) (t : W64) (e : Va) (k : Clause) : (r.enterTrap c t e k).tokSerial = r.tokSerial := rfl
@[simp] theorem enterTrap_ac (r : Row) (c : W8) (t : W64) (e : Va) (k : Clause) : (r.enterTrap c t e k).ac = r.ac := rfl
@[simp] theorem enterTrap_deferred (r : Row) (c : W8) (t : W64) (e : Va) (k : Clause) : (r.enterTrap c t e k).deferred = r.deferred := rfl
@[simp] theorem enterTrap_region (r : Row) (c : W8) (t : W64) (e : Va) (k : Clause) : (r.enterTrap c t e k).region = r.region := rfl
@[simp] theorem enterTrap_ops (r : Row) (c : W8) (t : W64) (e : Va) (k : Clause) : (r.enterTrap c t e k).ops = r.ops := rfl
@[simp] theorem enterTrap_nextId (r : Row) (c : W8) (t : W64) (e : Va) (k : Clause) : (r.enterTrap c t e k).nextId = r.nextId := rfl
@[simp] theorem enterTrap_waitSince (r : Row) (c : W8) (t : W64) (e : Va) (k : Clause) : (r.enterTrap c t e k).waitSince = r.waitSince := rfl
@[simp] theorem enterTrap_north (r : Row) (c : W8) (t : W64) (e : Va) (k : Clause) : (r.enterTrap c t e k).north = r.north := rfl
@[simp] theorem enterTrap_southSealed (r : Row) (c : W8) (t : W64) (e : Va) (k : Clause) : (r.enterTrap c t e k).southSealed = r.southSealed := rfl
@[simp] theorem enterTrap_southGone (r : Row) (c : W8) (t : W64) (e : Va) (k : Clause) : (r.enterTrap c t e k).southGone = r.southGone := rfl
@[simp] theorem enterTrap_nbind (r : Row) (c : W8) (t : W64) (e : Va) (k : Clause) : (r.enterTrap c t e k).nbind = r.nbind := rfl
@[simp] theorem enterTrap_sbind (r : Row) (c : W8) (t : W64) (e : Va) (k : Clause) : (r.enterTrap c t e k).sbind = r.sbind := rfl
@[simp] theorem enterTrap_edgeOut (r : Row) (c : W8) (t : W64) (e : Va) (k : Clause) : (r.enterTrap c t e k).edgeOut = r.edgeOut := rfl
@[simp] theorem enterTrap_edgeSlot (r : Row) (c : W8) (t : W64) (e : Va) (k : Clause) : (r.enterTrap c t e k).edgeSlot = r.edgeSlot := rfl
@[simp] theorem enterTrap_edgeFill (r : Row) (c : W8) (t : W64) (e : Va) (k : Clause) : (r.enterTrap c t e k).edgeFill = r.edgeFill := rfl
@[simp] theorem enterTrap_edgeIn (r : Row) (c : W8) (t : W64) (e : Va) (k : Clause) : (r.enterTrap c t e k).edgeIn = r.edgeIn := rfl
@[simp] theorem enterTrap_active (r : Row) (c : W8) (t : W64) (e : Va) (k : Clause) : (r.enterTrap c t e k).active = r.active := rfl
@[simp] theorem enterTrap_shadow (r : Row) (c : W8) (t : W64) (e : Va) (k : Clause) : (r.enterTrap c t e k).shadow = r.shadow := rfl
@[simp] theorem enterTrap_queue (r : Row) (c : W8) (t : W64) (e : Va) (k : Clause) : (r.enterTrap c t e k).queue = r.queue := rfl
@[simp] theorem enterTrap_inflight (r : Row) (c : W8) (t : W64) (e : Va) (k : Clause) : (r.enterTrap c t e k).inflight = r.inflight := rfl
@[simp] theorem enterTrap_outBuf (r : Row) (c : W8) (t : W64) (e : Va) (k : Clause) : (r.enterTrap c t e k).outBuf = r.outBuf := rfl
@[simp] theorem enterTrap_arrStop (r : Row) (c : W8) (t : W64) (e : Va) (k : Clause) : (r.enterTrap c t e k).arrStop = r.arrStop := rfl
@[simp] theorem enterTrap_arrSince (r : Row) (c : W8) (t : W64) (e : Va) (k : Clause) : (r.enterTrap c t e k).arrSince = r.arrSince := rfl
@[simp] theorem enterTrap_peg (r : Row) (c : W8) (t : W64) (e : Va) (k : Clause) : (r.enterTrap c t e k).peg = r.peg := rfl
@[simp] theorem enterTrap_taskBuf (r : Row) (c : W8) (t : W64) (e : Va) (k : Clause) : (r.enterTrap c t e k).taskBuf = r.taskBuf := rfl
@[simp] theorem enterTrap_resident (r : Row) (c : W8) (t : W64) (e : Va) (k : Clause) : (r.enterTrap c t e k).resident = r.resident := rfl
@[simp] theorem enterTrap_triggered (r : Row) (c : W8) (t : W64) (e : Va) (k : Clause) : (r.enterTrap c t e k).triggered = r.triggered := rfl
@[simp] theorem enterTrap_pl (r : Row) (c : W8) (t : W64) (e : Va) (k : Clause) : (r.enterTrap c t e k).pl = r.pl := rfl
@[simp] theorem enterTrap_pool (r : Row) (c : W8) (t : W64) (e : Va) (k : Clause) : (r.enterTrap c t e k).pool = r.pool := rfl
@[simp] theorem enterTrap_unbind (r : Row) (c : W8) (t : W64) (e : Va) (k : Clause) : (r.enterTrap c t e k).unbind = r.unbind := rfl
@[simp] theorem enterTrap_runBase (r : Row) (c : W8) (t : W64) (e : Va) (k : Clause) : (r.enterTrap c t e k).runBase = r.runBase := rfl
@[simp] theorem enterTrap_runAcc (r : Row) (c : W8) (t : W64) (e : Va) (k : Clause) : (r.enterTrap c t e k).runAcc = r.runAcc := rfl
@[simp] theorem enterTrap_tjoin (r : Row) (c : W8) (t : W64) (e : Va) (k : Clause) : (r.enterTrap c t e k).tjoin = r.tjoin := rfl
@[simp] theorem enterTrap_tjoinLeft (r : Row) (c : W8) (t : W64) (e : Va) (k : Clause) : (r.enterTrap c t e k).tjoinLeft = r.tjoinLeft := rfl
@[simp] theorem enterTrap_edgeNext (r : Row) (c : W8) (t : W64) (e : Va) (k : Clause) : (r.enterTrap c t e k).edgeNext = r.edgeNext := rfl
@[simp] theorem enterTrap_unseen (r : Row) (c : W8) (t : W64) (e : Va) (k : Clause) : (r.enterTrap c t e k).unseen = r.unseen := rfl
@[simp] theorem enterTrap_icache (r : Row) (c : W8) (t : W64) (e : Va) (k : Clause) : (r.enterTrap c t e k).icache = r.icache := rfl
@[simp] theorem enterTrap_vgranted (r : Row) (c : W8) (t : W64) (e : Va) (k : Clause) : (r.enterTrap c t e k).vgranted = r.vgranted := rfl
@[simp] theorem enterTrap_withheld (r : Row) (c : W8) (t : W64) (e : Va) (k : Clause) : (r.enterTrap c t e k).withheld = r.withheld := rfl
@[simp] theorem enterTrap_vwithheld (r : Row) (c : W8) (t : W64) (e : Va) (k : Clause) : (r.enterTrap c t e k).vwithheld = r.vwithheld := rfl
@[simp] theorem enterTrap_prepaid (r : Row) (c : W8) (t : W64) (e : Va) (k : Clause) : (r.enterTrap c t e k).prepaid = r.prepaid := rfl
@[simp] theorem enterTrap_deficit (r : Row) (c : W8) (t : W64) (e : Va) (k : Clause) : (r.enterTrap c t e k).deficit = r.deficit := rfl
@[simp] theorem enterTrap_mat (r : Row) (c : W8) (t : W64) (e : Va) (k : Clause) : (r.enterTrap c t e k).mat = r.mat := rfl
@[simp] theorem enterTrap_fp (r : Row) (c : W8) (t : W64) (e : Va) (k : Clause) : (r.enterTrap c t e k).fp = r.fp := rfl

/-! ### Return (R340) -/

@[simp] theorem leaveTrap_handler (r : Row) (k : Clause) : (r.leaveTrap k).handler = false := rfl
@[simp] theorem leaveTrap_frozen (r : Row) (k : Clause) : (r.leaveTrap k).frozen = false := rfl
@[simp] theorem leaveTrap_again (r : Row) (k : Clause) : (r.leaveTrap k).again = false := rfl
@[simp] theorem leaveTrap_transfer (r : Row) (k : Clause) : (r.leaveTrap k).transfer = r.transfer := rfl
@[simp] theorem leaveTrap_retake (r : Row) (k : Clause) : (r.leaveTrap k).retake = r.again := rfl
@[simp] theorem leaveTrap_arrStop (r : Row) (k : Clause) : (r.leaveTrap k).arrStop = .run := rfl
@[simp] theorem leaveTrap_trapClause (r : Row) (k : Clause) : (r.leaveTrap k).trapClause = r.trapClause := rfl
@[simp] theorem leaveTrap_landed (r : Row) (k : Clause) : (r.leaveTrap k).landed = r.landed := rfl
@[simp] theorem leaveTrap_tjoinNum (r : Row) (k : Clause) : (r.leaveTrap k).tjoinNum = r.tjoinNum := rfl
@[simp] theorem leaveTrap_spawn (r : Row) (k : Clause) : (r.leaveTrap k).spawn = r.spawn := rfl
@[simp] theorem leaveTrap_haltPc (r : Row) (k : Clause) : (r.leaveTrap k).haltPc = r.haltPc := rfl
@[simp] theorem leaveTrap_haltVal (r : Row) (k : Clause) : (r.leaveTrap k).haltVal = r.haltVal := rfl
@[simp] theorem leaveTrap_failCause (r : Row) (k : Clause) : (r.leaveTrap k).failCause = r.failCause := rfl
@[simp] theorem leaveTrap_req (r : Row) (k : Clause) : (r.leaveTrap k).req = r.req := rfl
@[simp] theorem leaveTrap_granted (r : Row) (k : Clause) : (r.leaveTrap k).granted = r.granted := rfl
@[simp] theorem leaveTrap_wait (r : Row) (k : Clause) : (r.leaveTrap k).wait = none := rfl
@[simp] theorem leaveTrap_csr (r : Row) (k : Clause) : (r.leaveTrap k).csr = r.csr := rfl
@[simp] theorem leaveTrap_life (r : Row) (k : Clause) : (r.leaveTrap k).life = r.life := rfl
@[simp] theorem leaveTrap_L (r : Row) (k : Clause) : (r.leaveTrap k).L = r.L := rfl
@[simp] theorem leaveTrap_v (r : Row) (k : Clause) : (r.leaveTrap k).v = r.v := rfl
@[simp] theorem leaveTrap_s (r : Row) (k : Clause) : (r.leaveTrap k).s = r.s := rfl
@[simp] theorem leaveTrap_h (r : Row) (k : Clause) : (r.leaveTrap k).h = r.h := rfl
@[simp] theorem leaveTrap_p (r : Row) (k : Clause) : (r.leaveTrap k).p = r.p := rfl
@[simp] theorem leaveTrap_q (r : Row) (k : Clause) : (r.leaveTrap k).q = r.q := rfl
@[simp] theorem leaveTrap_exited (r : Row) (k : Clause) : (r.leaveTrap k).exited = r.exited := rfl
@[simp] theorem leaveTrap_other (r : Row) (k : Clause) : (r.leaveTrap k).other = r.other := rfl
@[simp] theorem leaveTrap_armId (r : Row) (k : Clause) : (r.leaveTrap k).armId = r.armId := rfl
@[simp] theorem leaveTrap_armsTok (r : Row) (k : Clause) : (r.leaveTrap k).armsTok = r.armsTok := rfl
@[simp] theorem leaveTrap_tokSerial (r : Row) (k : Clause) : (r.leaveTrap k).tokSerial = r.tokSerial := rfl
@[simp] theorem leaveTrap_ac (r : Row) (k : Clause) : (r.leaveTrap k).ac = r.ac := rfl
@[simp] theorem leaveTrap_deferred (r : Row) (k : Clause) : (r.leaveTrap k).deferred = r.deferred := rfl
@[simp] theorem leaveTrap_region (r : Row) (k : Clause) : (r.leaveTrap k).region = r.region := rfl
@[simp] theorem leaveTrap_ops (r : Row) (k : Clause) : (r.leaveTrap k).ops = r.ops := rfl
@[simp] theorem leaveTrap_nextId (r : Row) (k : Clause) : (r.leaveTrap k).nextId = r.nextId := rfl
@[simp] theorem leaveTrap_waitSince (r : Row) (k : Clause) : (r.leaveTrap k).waitSince = r.waitSince := rfl
@[simp] theorem leaveTrap_north (r : Row) (k : Clause) : (r.leaveTrap k).north = r.north := rfl
@[simp] theorem leaveTrap_southSealed (r : Row) (k : Clause) : (r.leaveTrap k).southSealed = r.southSealed := rfl
@[simp] theorem leaveTrap_southGone (r : Row) (k : Clause) : (r.leaveTrap k).southGone = r.southGone := rfl
@[simp] theorem leaveTrap_nbind (r : Row) (k : Clause) : (r.leaveTrap k).nbind = r.nbind := rfl
@[simp] theorem leaveTrap_sbind (r : Row) (k : Clause) : (r.leaveTrap k).sbind = r.sbind := rfl
@[simp] theorem leaveTrap_edgeOut (r : Row) (k : Clause) : (r.leaveTrap k).edgeOut = r.edgeOut := rfl
@[simp] theorem leaveTrap_edgeSlot (r : Row) (k : Clause) : (r.leaveTrap k).edgeSlot = r.edgeSlot := rfl
@[simp] theorem leaveTrap_edgeFill (r : Row) (k : Clause) : (r.leaveTrap k).edgeFill = r.edgeFill := rfl
@[simp] theorem leaveTrap_edgeIn (r : Row) (k : Clause) : (r.leaveTrap k).edgeIn = r.edgeIn := rfl
@[simp] theorem leaveTrap_active (r : Row) (k : Clause) : (r.leaveTrap k).active = r.active := rfl
@[simp] theorem leaveTrap_shadow (r : Row) (k : Clause) : (r.leaveTrap k).shadow = r.shadow := rfl
@[simp] theorem leaveTrap_queue (r : Row) (k : Clause) : (r.leaveTrap k).queue = r.queue := rfl
@[simp] theorem leaveTrap_inflight (r : Row) (k : Clause) : (r.leaveTrap k).inflight = r.inflight := rfl
@[simp] theorem leaveTrap_outBuf (r : Row) (k : Clause) : (r.leaveTrap k).outBuf = r.outBuf := rfl
@[simp] theorem leaveTrap_arrSince (r : Row) (k : Clause) : (r.leaveTrap k).arrSince = r.arrSince := rfl
@[simp] theorem leaveTrap_peg (r : Row) (k : Clause) : (r.leaveTrap k).peg = r.peg := rfl
@[simp] theorem leaveTrap_taskBuf (r : Row) (k : Clause) : (r.leaveTrap k).taskBuf = r.taskBuf := rfl
@[simp] theorem leaveTrap_resident (r : Row) (k : Clause) : (r.leaveTrap k).resident = r.resident := rfl
@[simp] theorem leaveTrap_triggered (r : Row) (k : Clause) : (r.leaveTrap k).triggered = r.triggered := rfl
@[simp] theorem leaveTrap_pl (r : Row) (k : Clause) : (r.leaveTrap k).pl = r.pl := rfl
@[simp] theorem leaveTrap_pool (r : Row) (k : Clause) : (r.leaveTrap k).pool = r.pool := rfl
@[simp] theorem leaveTrap_unbind (r : Row) (k : Clause) : (r.leaveTrap k).unbind = r.unbind := rfl
@[simp] theorem leaveTrap_runBase (r : Row) (k : Clause) : (r.leaveTrap k).runBase = r.runBase := rfl
@[simp] theorem leaveTrap_runAcc (r : Row) (k : Clause) : (r.leaveTrap k).runAcc = r.runAcc := rfl
@[simp] theorem leaveTrap_tjoin (r : Row) (k : Clause) : (r.leaveTrap k).tjoin = r.tjoin := rfl
@[simp] theorem leaveTrap_tjoinLeft (r : Row) (k : Clause) : (r.leaveTrap k).tjoinLeft = r.tjoinLeft := rfl
@[simp] theorem leaveTrap_edgeNext (r : Row) (k : Clause) : (r.leaveTrap k).edgeNext = r.edgeNext := rfl
@[simp] theorem leaveTrap_unseen (r : Row) (k : Clause) : (r.leaveTrap k).unseen = r.unseen := rfl
@[simp] theorem leaveTrap_icache (r : Row) (k : Clause) : (r.leaveTrap k).icache = r.icache := rfl
@[simp] theorem leaveTrap_vgranted (r : Row) (k : Clause) : (r.leaveTrap k).vgranted = r.vgranted := rfl
@[simp] theorem leaveTrap_withheld (r : Row) (k : Clause) : (r.leaveTrap k).withheld = r.withheld := rfl
@[simp] theorem leaveTrap_vwithheld (r : Row) (k : Clause) : (r.leaveTrap k).vwithheld = r.vwithheld := rfl
@[simp] theorem leaveTrap_prepaid (r : Row) (k : Clause) : (r.leaveTrap k).prepaid = r.prepaid := rfl
@[simp] theorem leaveTrap_deficit (r : Row) (k : Clause) : (r.leaveTrap k).deficit = r.deficit := rfl
@[simp] theorem leaveTrap_mat (r : Row) (k : Clause) : (r.leaveTrap k).mat = r.mat := rfl
@[simp] theorem leaveTrap_fp (r : Row) (k : Clause) : (r.leaveTrap k).fp = r.fp := rfl

theorem goto_pc (a : Arm) (x : Va) : (a.goto x).pc = x := rfl

/-- The arm that returns has csr.epc as its pc. -/
theorem leaveTrap_pc (r : Row) (k : Clause) : (r.leaveTrap k).arm.pc = r.csr.epc := by
  rw [Row.leaveTrap]
  dsimp only
  rw [apply_ite Arm.pc, goto_pc]
  exact ite_self _

/-- A trap taken and returned from at once resumes at its epc with the same lanes. -/
theorem leaveTrap_enterTrap_pc (r : Row) (c : W8) (t : W64) (e : Va) (k m : Clause) :
    ((r.enterTrap c t e k).leaveTrap m).arm.pc = e := by
  rw [leaveTrap_pc, enterTrap_epc]

end Sys2Proof.Machine
end

