-- ==== Sys2Proof/Tests/Slice0.lean ====
section
/-! SUPPORT. The model's own tests: words that the spec writes out or that its tables give field by field, terms that are no
instructions, states that meet the hypotheses of the statements, and a few single steps with results worked by hand. -/

namespace Sys2Proof.Tests

set_option Elab.async false

open Sys2Proof Sys2Proof.Machine

/-- The guard that always holds. -/
def ff : Guard := ⟨0xFF, 0, 0, 0⟩
/-- The guard that never holds. -/
def f0 : Guard := ⟨0, 0, 0, 0⟩

/-- Every word decodes to the instruction beside it. -/
def allRead (l : List (W64 × Instr)) : Bool := l.all (fun e => decide (decode e.1 = .ok e.2))

/-! ### Words -/

/-- Words written field by field from Tables 04-1 to 04-4. -/
theorem test_words_scalar : allRead [
    (0x00FF000000000000, .nop ff),
    (0x01#8 ++ 0xFF#8 ++ 0#9 ++ 3#6 ++ 4#6 ++ 0#12 ++ 5#6 ++ 0x0F#9, .salu ff .mul 3 4 5),
    (0x01#8 ++ 0xFF#8 ++ 0#9 ++ 31#6 ++ 30#6 ++ 0#12 ++ 0#6 ++ 0x17#9, .salu ff .popc 31 30 0),
    (0x02#8 ++ 0xFF#8 ++ 0#9 ++ 1#6 ++ 2#6 ++ 0x4000000#27, .saddi ff 1 2 0x4000000),
    (0x03#8 ++ 0xFF#8 ++ 0#9 ++ 1#6 ++ 2#6 ++ 0x0000001#27, .sandi ff 1 2 1),
    (0x04#8 ++ 0xFF#8 ++ 0#9 ++ 1#6 ++ 2#6 ++ 0x7FFFFFF#27, .sori ff 1 2 0x7FFFFFF),
    (0x05#8 ++ 0xFF#8 ++ 0#9 ++ 1#6 ++ 2#6 ++ 0x0000003#27, .sxori ff 1 2 3),
    (0x06#8 ++ 0xFF#8 ++ 0#9 ++ 1#6 ++ 2#6 ++ 63#27, .sshli ff 1 2 63),
    (0x07#8 ++ 0xFF#8 ++ 0#9 ++ 1#6 ++ 2#6 ++ 1#27, .sshri ff 1 2 1),
    (0x08#8 ++ 0xFF#8 ++ 0#9 ++ 1#6 ++ 2#6 ++ 32#27, .ssrai ff 1 2 32),
    (0x09#8 ++ 0xFF#8 ++ 0#9 ++ 1#6 ++ 0#6 ++ 5#27, .sli ff 1 5),
    (0x0A#8 ++ 0xFF#8 ++ 0#9 ++ 1#6 ++ 2#6 ++ 7#27, .slui ff 1 2 7),
    (0x0B#8 ++ 0xFF#8 ++ 0#9 ++ 1#6 ++ 2#6 ++ 1023#27, .slhi ff 1 2 1023),
    (0x0C#8 ++ 0xFF#8 ++ 0#9 ++ 1#6 ++ 2#6 ++ 0#12 ++ 3#6 ++ 0b000011010#9, .sadda ff 1 2 3 true true 2),
    (0x0D#8 ++ 0xFF#8 ++ 0#9 ++ 1#6 ++ 40#6 ++ 0#12 ++ 3#6 ++ 1#9, .smovv ff 1 40 .none 3 false true)] = true := by decide

/-- Words written field by field from Tables 04-4 and 04-5. -/
theorem test_words_csr : allRead [
    (0x0F#8 ++ 0xFF#8 ++ 0#9 ++ 5#6 ++ 0#6 ++ 0x033#27, .scsr ff 5 .tvec),
    (0x10#8 ++ 0xFF#8 ++ 0#9 ++ 0#6 ++ 6#6 ++ 0x1012#27, .scsw ff 6 .set .rng),
    (0x11#8 ++ 0xFF#8 ++ 0#9 ++ 7#6 ++ 6#6 ++ 0x2010#27, .scsx ff 7 6 .clr .fflags)] = true := by decide

/-- Words written field by field from Tables 05-2 to 05-9. -/
theorem test_words_vector_integer : allRead [
    (0x20#8 ++ 0xFF#8 ++ 0#9 ++ 1#6 ++ 2#6 ++ 0#12 ++ 3#6 ++ 0b001001101#9, .vialu ff .min .w16 1 2 .none 3),
    (0x21#8 ++ 0xFF#8 ++ 0#9 ++ 1#6 ++ 2#6 ++ 0x000#12 ++ 31#6 ++ 0b010010001#9, .vialus ff .mul .w8 1 2 .none 31),
    (0x22#8 ++ 0xFF#8 ++ 0#9 ++ 1#6 ++ 2#6 ++ 100#27, .vaddi ff 1 2 100),
    (0x23#8 ++ 0xFF#8 ++ 0#9 ++ 1#6 ++ 2#6 ++ 101#27, .vandi ff 1 2 101),
    (0x24#8 ++ 0xFF#8 ++ 0#9 ++ 1#6 ++ 2#6 ++ 102#27, .vori ff 1 2 102),
    (0x25#8 ++ 0xFF#8 ++ 0#9 ++ 1#6 ++ 2#6 ++ 103#27, .vxori ff 1 2 103),
    (0x26#8 ++ 0xFF#8 ++ 0#9 ++ 1#6 ++ 2#6 ++ 31#27, .vshli ff 1 2 31),
    (0x27#8 ++ 0xFF#8 ++ 0#9 ++ 1#6 ++ 2#6 ++ 4#27, .vshri ff 1 2 4),
    (0x28#8 ++ 0xFF#8 ++ 0#9 ++ 1#6 ++ 2#6 ++ 5#27, .vsrai ff 1 2 5),
    (0x29#8 ++ 0xFF#8 ++ 0#9 ++ 63#6 ++ 0#6 ++ 0x7FFFFFF#27, .vli ff 63 0x7FFFFFF),
    (0x2A#8 ++ 0xFF#8 ++ 0#9 ++ 1#6 ++ 2#6 ++ 0#12 ++ 3#6 ++ 0b010000011#9, .vmad ff .dot .w8 1 2 .none 3),
    (0x2B#8 ++ 0xFF#8 ++ 0#9 ++ 1#6 ++ 2#6 ++ 0b010100000011#12 ++ 3#6 ++ 5#9, .vsel ff 5 1 2 (.rot 4 3) 3),
    (0x2C#8 ++ 0xFF#8 ++ 0#9 ++ 1#6 ++ 9#6 ++ 0x7FFFFFF#27, .vidx ff 1 9 0x7FFFFFF),
    (0x2D#8 ++ 0xFF#8 ++ 0#9 ++ 1#6 ++ 9#6 ++ 0#12 ++ 0#6 ++ 1#9, .vbcast ff 1 9 true)] = true := by decide

/-- Words written field by field from Tables 02-5, 05-8 and 05-9. -/
theorem test_words_vector_lanes : allRead [
    (0x2E#8 ++ 0xFF#8 ++ 0#9 ++ 1#6 ++ 2#6 ++ 0b100001000001#12 ++ 0#6 ++ 0#9, .vmov ff 1 2 (.bfly 1 1)),
    (0x2F#8 ++ 0xFF#8 ++ 0#9 ++ 1#6 ++ 2#6 ++ 0b110010000111#12 ++ 4#6 ++ 7#9, .vred ff .maxn 1 2 (.bcast 2 7) 4),
    (0x30#8 ++ 0xFF#8 ++ 0#9 ++ 1#6 ++ 2#6 ++ 0#12 ++ 9#6 ++ 0b000001100#9, .vscan ff .min true 1 2 .none 9),
    (0x31#8 ++ 0xFF#8 ++ 0#9 ++ 1#6 ++ 2#6 ++ 0#12 ++ 3#6 ++ 0b000010100#9, .vperm ff 1 2 3 true 4)] = true := by decide

/-- Words written field by field from Tables 05-5 to 05-7. -/
theorem test_words_float : allRead [
    (0x40#8 ++ 0xFF#8 ++ 0#9 ++ 1#6 ++ 2#6 ++ 0#12 ++ 3#6 ++ 0b010010010#9, .vfalu ff .mul .f16 .rup 1 2 .none 3),
    (0x41#8 ++ 0xFF#8 ++ 0#9 ++ 1#6 ++ 2#6 ++ 0#12 ++ 3#6 ++ 0b001100010#9, .vfma ff .fnma .bf16 .rtz 1 2 .none 3),
    (0x42#8 ++ 0xFF#8 ++ 0#9 ++ 1#6 ++ 2#6 ++ 0#12 ++ 31#6 ++ 0b011000001#9, .vfmas ff .fms .f32 .rdn 1 2 .none 31),
    (0x43#8 ++ 0xFF#8 ++ 0#9 ++ 1#6 ++ 2#6 ++ 0#12 ++ 0#6 ++ 0b001000100#9, .vfun ff .log2 .f32 .rtz 1 2 .none),
    (0x44#8 ++ 0xFF#8 ++ 0#9 ++ 1#6 ++ 2#6 ++ 0#12 ++ 3#6 ++ 0b000010000#9, .vfdiv ff .f16 .rne 1 2 .none 3),
    (0x45#8 ++ 0xFF#8 ++ 0#9 ++ 7#6 ++ 2#6 ++ 0#12 ++ 3#6 ++ 0b000101000#9, .vfclass ff .bf16 .either 7 2 .none 3),
    (0x45#8 ++ 0xFF#8 ++ 0#9 ++ 0#6 ++ 2#6 ++ 0#12 ++ 3#6 ++ 0b000000001#9, .vfclassTrap ff .f32 .lo 2 .none 3),
    (0x46#8 ++ 0xFF#8 ++ 0#9 ++ 1#6 ++ 2#6 ++ 0#12 ++ 4#6 ++ 0b000000010#9, .vfred ff .max .f32 .rne 1 2 .none 4)] = true := by decide

/-- Words written field by field from Table 06-2. -/
theorem test_words_formats : allRead [
    (0x47#8 ++ 0xFF#8 ++ 0#9 ++ 1#6 ++ 2#6 ++ 0#12 ++ 0b000101#6 ++ 0b001100101#9, .vcvt ff .f16 .i16 .rup true 1 1 1 2 .none),
    (0x48#8 ++ 0xFF#8 ++ 0#9 ++ 1#6 ++ 2#6 ++ 0#12 ++ 3#6 ++ 0b000011111#9, .vsrnd ff true 15 1 2 .none 3),
    (0x49#8 ++ 0xFF#8 ++ 0#9 ++ 1#6 ++ 2#6 ++ 0#12 ++ 3#6 ++ 0b011101111#9, .vqnt ff 3 .rup true 7 1 2 .none 3),
    (0x4A#8 ++ 0xFF#8 ++ 0#9 ++ 1#6 ++ 2#6 ++ 0#12 ++ 3#6 ++ 0b010001000#9, .vdqnt ff 2 true 1 2 3),
    (0x4B#8 ++ 0xFF#8 ++ 0#9 ++ 1#6 ++ 2#6 ++ 0#12 ++ 3#6 ++ 0b101110011#9, .vreq ff true 11 false 3 1 2 3),
    (0x4C#8 ++ 0xFF#8 ++ 0#9 ++ 4#6 ++ 2#6 ++ 0#12 ++ 0#6 ++ 0b000001101#9, .vbmax ff true 5 4 2 .none),
    (0x4D#8 ++ 0xFF#8 ++ 0#9 ++ 1#6 ++ 2#6 ++ 0#12 ++ 0#6 ++ 0b000000110#9, .vpln ff false 6 1 2),
    (0x4E#8 ++ 0xFF#8 ++ 0#9 ++ 1#6 ++ 2#6 ++ 0#12 ++ 0#6 ++ 0b000001001#9, .vupln ff true 1 1 2),
    (0x4F#8 ++ 0xFF#8 ++ 0#9 ++ 1#6 ++ 0#6 ++ 0x33C00#27, .vfli ff 3 0x3C00 1)] = true := by decide

/-- Words written field by field from Tables 03-1 to 03-9. -/
theorem test_words_predicates : allRead [
    (0x60#8 ++ 0xFF#8 ++ 0#9 ++ 1#3 ++ 2#3 ++ 3#6 ++ 0#12 ++ 4#6 ++ 6#4 ++ 0b011#3 ++ 2#2, .vicmp ff 1 2 3 .none 4 false .c6 3 .or),
    (0x61#8 ++ 0xFF#8 ++ 0#9 ++ 0#3 ++ 2#3 ++ 3#6 ++ 0#12 ++ 31#6 ++ 7#4 ++ 0b110#3 ++ 0#2, .vfcmp ff 0 2 3 .none 31 true .c7 .bf16 .write),
    (0x62#8 ++ 0xFF#8 ++ 0#9 ++ 1#3 ++ 0#3 ++ 3#6 ++ 0#12 ++ 4#6 ++ 5#4 ++ 0b001#3 ++ 1#2, .sicmp ff 1 0 3 4 .ge 1 .and),
    (0x64#8 ++ 0xFF#8 ++ 0#9 ++ 1#6 ++ 2#6 ++ 0#12 ++ 3#6 ++ 0b100000110#9, .plop ff true 6 1 2 3),
    (0x65#8 ++ 0xFF#8 ++ 0#9 ++ 1#6 ++ 50#6 ++ 0#12 ++ 0#6 ++ 0#9, .pmov ff (.pv 1 50 .none)),
    (0x65#8 ++ 0xFF#8 ++ 0#9 ++ 2#6 ++ 2#6 ++ 0#12 ++ 0#6 ++ 1#9, .pmov ff (.vp 2 2 .none)),
    (0x65#8 ++ 0xFF#8 ++ 0#9 ++ 3#6 ++ 4#6 ++ 0b010000000001#12 ++ 0#6 ++ 2#9, .pmov ff (.pp 3 4 (.rot 0 1))),
    (0x65#8 ++ 0xFF#8 ++ 0#9 ++ 3#6 ++ 31#6 ++ 0#12 ++ 0#6 ++ 0x100#9, .pmov ff (.qs 3 31)),
    (0x65#8 ++ 0xFF#8 ++ 0#9 ++ 31#6 ++ 4#6 ++ 0#12 ++ 0#6 ++ 0x101#9, .pmov ff (.sq 31 4)),
    (0x65#8 ++ 0xFF#8 ++ 0#9 ++ 3#6 ++ 4#6 ++ 0#12 ++ 0#6 ++ 0x102#9, .pmov ff (.qq 3 4)),
    (0x65#8 ++ 0xFF#8 ++ 0#9 ++ 30#6 ++ 4#6 ++ 0#12 ++ 15#6 ++ 0x103#9, .pmov ff (.get 30 4 15)),
    (0x65#8 ++ 0xFF#8 ++ 0#9 ++ 3#6 ++ 14#6 ++ 0#12 ++ 2#6 ++ 0x104#9, .pmov ff (.set 3 14 2)),
    (0x65#8 ++ 0xFF#8 ++ 0#9 ++ 3#6 ++ 4#6 ++ 0#12 ++ 0#6 ++ 0x105#9, .pmov ff (.any 3 4)),
    (0x65#8 ++ 0xFF#8 ++ 0#9 ++ 3#6 ++ 4#6 ++ 0#12 ++ 0#6 ++ 0x106#9, .pmov ff (.all 3 4))] = true := by decide

/-- Words written field by field from Tables 03-7 to 03-11, R83, R94 to R96. -/
theorem test_words_masks_and_control : allRead [
    (0x73#8 ++ 0xFF#8 ++ 0#9 ++ 0#12 ++ 0xA5#27, .plive ff 0xA5),
    (0x66#8 ++ 0xFF#8 ++ 0#9 ++ 0#6 ++ 3#6 ++ 0#12 ++ 0#6 ++ 0#9, .emset ff 3),
    (0x66#8 ++ 0xFF#8 ++ 0#9 ++ 0#6 ++ 0#6 ++ 0#12 ++ 0#6 ++ 1#9, .emsetAll ff),
    (0x67#8 ++ 0xFF#8 ++ 0#9 ++ 5#6 ++ 0#6 ++ 0#12 ++ 0#6 ++ 2#9, .emget ff 5 .held),
    (0x68#8 ++ 0xFF#8 ++ 0#9 ++ 2#3 ++ 3#3 ++ 0x1FFFFFFFF#33, .br ff .none 2 0x1FFFFFFFF),
    (0x69#8 ++ 0xFF#8 ++ 0#9 ++ 1#3 ++ 1#3 ++ 6#33, .brv ff 1 true 6),
    (0x6A#8 ++ 0xFF#8 ++ 0#9 ++ 0#3 ++ 0#3 ++ 0x100000000#33, .join ff 0x100000000),
    (0x6B#8 ++ 0xFF#8 ++ 0#9 ++ 3#3 ++ 0#3 ++ 0#33, .brk ff 3 false),
    (0x6C#8 ++ 0xFF#8 ++ 0#9 ++ 3#3 ++ 1#3 ++ 0#33, .cont ff 3 true),
    (0x6D#8 ++ 0xFF#8 ++ 0#9 ++ 0#3 ++ 0#3 ++ 14#33, .loops ff 14),
    (0x6E#8 ++ 0xFF#8 ++ 0#9 ++ 0#3 ++ 0#3 ++ 15#33, .call ff 15),
    (0x6F#8 ++ 0xFF#8 ++ 0#9 ++ 0#12 ++ 0#27, .ret ff),
    (0x70#8 ++ 0xFF#8 ++ 0#9 ++ 0#6 ++ 9#6 ++ 0#12 ++ 0#6 ++ 0#9, .jmpr ff 9),
    (0x70#8 ++ 0xFF#8 ++ 0#9 ++ 0#6 ++ 9#6 ++ 0#12 ++ 0#6 ++ 1#9, .jmprCall ff 9),
    (0x71#8 ++ 0xFF#8 ++ 0#9 ++ 0#12 ++ 0#27, .lexit ff),
    (0x72#8 ++ 0xFF#8 ++ 0#9 ++ 0#12 ++ 0#27, .exit ff)] = true := by decide

/-- Words written field by field from Table 07-1. -/
theorem test_words_ports : allRead [
    (0x80#8 ++ 0xFF#8 ++ 0#9 ++ 0#6 ++ 1#6 ++ 0#12 ++ 0#6 ++ 0#9, .pwr ff 1 .none),
    (0x81#8 ++ 0xFF#8 ++ 0#9 ++ 3#6 ++ 3#6 ++ 0#12 ++ 0#6 ++ 0#9, .prd ff 3 3),
    (0x82#8 ++ 0xFF#8 ++ 0#9 ++ 4#6 ++ 0#6 ++ 0#12 ++ 0b100011#6 ++ 0#9, .prdn ff 4 0 3 4),
    (0x83#8 ++ 0xFF#8 ++ 0#9 ++ 0#12 ++ 0#27, .pseal ff),
    (0x84#8 ++ 0xFF#8 ++ 0#9 ++ 5#6 ++ 0#6 ++ 0#12 ++ 0#6 ++ 1#9, .pstat ff 5 true),
    (0x85#8 ++ 0xFF#8 ++ 0#9 ++ 4#6 ++ 0#6 ++ 31#27, .pxfer ff 4 31)] = true := by decide

/-- Words written field by field from Tables 08-3 to 08-8. -/
theorem test_words_matrix : allRead [
    (0x88#8 ++ 0xFF#8 ++ 0#9 ++ 0#7 ++ 0#2 ++ 1#2 ++ 30#6 ++ 127#8 ++ 7#3 ++ 1#1 ++ 9#5 ++ 0#2 ++ 0#2 ++ 1#1, .wld ff 30 127 7 true 9 true),
    (0x89#8 ++ 0xFF#8 ++ 0#9 ++ 0#12 ++ 0#27, .wswap ff),
    (0x8A#8 ++ 0xFF#8 ++ 0#9 ++ 127#7 ++ 3#2 ++ 0#2 ++ 8#6 ++ 255#8 ++ 3#3 ++ 0#1 ++ 9#5 ++ 1#2 ++ 0#2 ++ 1#1, .mmac ff ⟨127, 3, false, 8, 255, 3, false, 9, 1, true⟩),
    (0x8B#8 ++ 0xFF#8 ++ 0#9 ++ 20#6 ++ 4#6 ++ 0#12 ++ 0#6 ++ 0b110000101#9, .accrd ff 20 4 3 5),
    (0x8C#8 ++ 0xFF#8 ++ 0#9 ++ 21#6 ++ 5#6 ++ 0#12 ++ 0#6 ++ 0b011111111#9, .accwr ff 21 5 1 127),
    (0x8D#8 ++ 0xFF#8 ++ 0#9 ++ 0#6 ++ 0#6 ++ 0b0000001111111#27, .accz ff 127 0),
    (0x8E#8 ++ 0xFF#8 ++ 0#9 ++ 6#5 ++ 0#5 ++ 0#5 ++ 0#23 ++ 0#1, .mdrain ff 6),
    (0x8F#8 ++ 0xFF#8 ++ 0#9 ++ 7#5 ++ 0#5 ++ 0#5 ++ 0#23 ++ 0#1, .mfill ff 7),
    (0x90#8 ++ 0xFF#8 ++ 0#9 ++ 8#6 ++ 0#6 ++ 0#12 ++ 0#6 ++ 2#9, .mstat ff 8 .f2)] = true := by decide

/-- Words written field by field from Tables 10-5 to 10-7. -/
theorem test_words_memory : allRead [
    (0x12#8 ++ 0xFF#8 ++ 0#9 ++ 3#6 ++ 4#5 ++ 0#6 ++ 6#3 ++ 0#3 ++ 0xFFF#12 ++ 1#1 ++ 0#1 ++ 0#1 ++ 1#1, .sld ff 3 ⟨4, 0, 6, 0, 0xFFF⟩ true true),
    (0x13#8 ++ 0xFF#8 ++ 0#9 ++ 3#6 ++ 4#5 ++ 0#6 ++ 3#3 ++ 0#3 ++ 1#12 ++ 0#1 ++ 0#1 ++ 0#1 ++ 0#1, .sst ff 3 ⟨4, 0, 3, 0, 1⟩ false),
    (0xA0#8 ++ 0xFF#8 ++ 0#9 ++ 33#6 ++ 4#5 ++ 0#6 ++ 5#3 ++ 0#3 ++ 0x800#12 ++ 0#1 ++ 0#1 ++ 0#1 ++ 1#1, .ldv ff 33 ⟨4, 0, 5, 0, 0x800⟩ true),
    (0xA1#8 ++ 0xFF#8 ++ 0#9 ++ 33#6 ++ 4#5 ++ 0#6 ++ 1#3 ++ 0#3 ++ 2#12 ++ 0#1 ++ 0#1 ++ 0#1 ++ 0#1, .stv ff 33 ⟨4, 0, 1, 0, 2⟩),
    (0xA2#8 ++ 0xFF#8 ++ 0#9 ++ 33#6 ++ 4#5 ++ 63#6 ++ 2#3 ++ 7#3 ++ 2#12 ++ 0#1 ++ 0#1 ++ 0#1 ++ 0#1, .ldx ff 33 ⟨4, 63, 2, 7, 2⟩ false),
    (0xA3#8 ++ 0xFF#8 ++ 0#9 ++ 33#6 ++ 4#5 ++ 1#6 ++ 0#3 ++ 1#3 ++ 2#12 ++ 0#1 ++ 0#1 ++ 0#1 ++ 0#1, .stx ff 33 ⟨4, 1, 0, 1, 2⟩),
    (0xA4#8 ++ 0xFF#8 ++ 0#9 ++ 33#6 ++ 4#5 ++ 1#6 ++ 4#3 ++ 0#3 ++ 2#12 ++ 0#1 ++ 0#1 ++ 0#1 ++ 1#1, .ldt ff 33 ⟨4, 1, 4, 0, 2⟩ true),
    (0xA5#8 ++ 0xFF#8 ++ 0#9 ++ 7#6 ++ 4#5 ++ 0#6 ++ 0#3 ++ 0#3 ++ 3#12 ++ 0#1 ++ 0#1 ++ 0#1 ++ 0#1, .ldm ff 7 4 3 false),
    (0xA6#8 ++ 0xFF#8 ++ 0#9 ++ 2#6 ++ 4#5 ++ 5#6 ++ 2#3 ++ 2#3 ++ 3#12 ++ 1#1 ++ 0#1 ++ 0#1 ++ 0#1, .ldvol ff 2 ⟨4, 5, 2, 2, 3⟩ false),
    (0xA7#8 ++ 0xFF#8 ++ 0#9 ++ 2#6 ++ 4#5 ++ 0#6 ++ 2#3 ++ 0#3 ++ 3#12 ++ 1#1 ++ 0#1 ++ 0#1 ++ 0#1, .stvol ff 2 ⟨4, 0, 2, 0, 3⟩),
    (0xA8#8 ++ 0xFF#8 ++ 0#9 ++ 0#7 ++ 1#2 ++ 4#3 ++ 0#27, .fence ff .rel .system),
    (0xA9#8 ++ 0xFF#8 ++ 0#9 ++ 2#6 ++ 6#5 ++ 0#6 ++ 7#3 ++ 0#3 ++ 32#12 ++ 0#1 ++ 0#1 ++ 0#1 ++ 1#1, .ldacq ff 2 ⟨6, 0, 7, 0, 32⟩ true),
    (0xAA#8 ++ 0xFF#8 ++ 0#9 ++ 1#6 ++ 6#5 ++ 3#6 ++ 5#3 ++ 1#3 ++ 32#12 ++ 0#1 ++ 0#1 ++ 0#1 ++ 0#1, .strel ff 1 ⟨6, 3, 5, 1, 32⟩),
    (0xAD#8 ++ 0xFF#8 ++ 0#9 ++ 5#6 ++ 6#5 ++ 0#6 ++ 0#3 ++ 0#3 ++ 4#12 ++ 0#1 ++ 1#1 ++ 0#1 ++ 0#1, .own ff 5 6 4 true),
    (0xAE#8 ++ 0xFF#8 ++ 0#9 ++ 0#6 ++ 6#5 ++ 0#6 ++ 0#3 ++ 0#3 ++ 4#12 ++ 0#1 ++ 0#1 ++ 0#1 ++ 0#1, .disown ff 0 6 4 false)] = true := by decide

/-- Words written field by field from Tables 11-1 and 11-2. -/
theorem test_words_atomics : allRead [
    (0xAB#8 ++ 0xFF#8 ++ 0#9 ++ 1#6 ++ 6#5 ++ 7#6 ++ 2#3 ++ 2#3 ++ 9#4 ++ 1#1 ++ 0#1 ++ 3#2 ++ 4#3 ++ 0#4 ++ 1#1, .amo ff 1 6 7 2 .cas true (.acqrel .system) true),
    (0xAC#8 ++ 0xFF#8 ++ 0#9 ++ 1#6 ++ 6#5 ++ 0#6 ++ 2#3 ++ 0#3 ++ 12#4 ++ 0#1 ++ 0#1 ++ 2#2 ++ 1#3 ++ 0#4 ++ 0#1, .red ff 1 6 0 0 .fmax (.rel .vault)),
    (0xAF#8 ++ 0xFF#8 ++ 0#9 ++ 30#6 ++ 6#5 ++ 0#6 ++ 3#3 ++ 0#3 ++ 8#4 ++ 0#1 ++ 0#1 ++ 1#2 ++ 2#3 ++ 0#4 ++ 1#1, .amos ff 30 6 true .swap false (.acq .die) true)] = true := by decide

/-- Words written field by field from Table 09-4. -/
theorem test_words_ring : allRead [
    (0xC0#8 ++ 0xFF#8 ++ 0#9 ++ 4#5 ++ 6#5 ++ 5#5 ++ 0#14 ++ 11#4 ++ 1#1 ++ 15#4 ++ 0#1, .peg ff 4 6 5 11 true 15),
    (0xC1#8 ++ 0xFF#8 ++ 0#9 ++ 0#5 ++ 0#5 ++ 0#5 ++ 0#7 ++ 0x8001#16 ++ 0#1, .unpeg ff 0x8001),
    (0xC2#8 ++ 0xFF#8 ++ 0#9 ++ 9#5 ++ 0#5 ++ 0#5 ++ 0#19 ++ 3#4 ++ 1#1, .pegw ff 9 3 true),
    (0xC3#8 ++ 0xFF#8 ++ 0#9 ++ 9#5 ++ 0#5 ++ 0#5 ++ 0#18 ++ 1#1 ++ 3#4 ++ 0#1, .pegq ff 9 true 3),
    (0xC4#8 ++ 0xFF#8 ++ 0#9 ++ 9#5 ++ 0#5 ++ 0#5 ++ 0#21 ++ 2#2 ++ 0#1, .rpos ff 9 .f2)] = true := by decide

/-- Words written field by field from Tables 12-6 to 12-8. -/
theorem test_words_engines : allRead [
    (0xC8#8 ++ 0xFF#8 ++ 0#9 ++ 9#5 ++ 0#5 ++ 0#5 ++ 0#16 ++ 0#2 ++ 3#2 ++ 7#3 ++ 0#1, .ctail ff 9 3 7),
    (0xC8#8 ++ 0xFF#8 ++ 0#9 ++ 0#5 ++ 0#5 ++ 0#5 ++ 0#16 ++ 1#2 ++ 3#2 ++ 7#3 ++ 0#1, .ctailRetry ff 3 7),
    (0xC8#8 ++ 0xFF#8 ++ 0#9 ++ 0#5 ++ 0#5 ++ 0#5 ++ 0#16 ++ 2#2 ++ 1#2 ++ 0#3 ++ 0#1, .ctailSkip ff 1 0),
    (0xC8#8 ++ 0xFF#8 ++ 0#9 ++ 9#5 ++ 8#5 ++ 0#5 ++ 0#16 ++ 3#2 ++ 1#2 ++ 0#3 ++ 0#1, .ctailStart ff 9 8 1 0),
    (0xC9#8 ++ 0xFF#8 ++ 0#9 ++ 9#5 ++ 0#5 ++ 0#5 ++ 0#16 ++ 2#2 ++ 1#2 ++ 5#3 ++ 0#1, .cseq ff 9 .f2 1 5),
    (0xCA#8 ++ 0xFF#8 ++ 0#9 ++ 0#5 ++ 9#5 ++ 0#5 ++ 0#16 ++ 0#2 ++ 2#2 ++ 5#3 ++ 1#1, .cwait ff 9 2 5 true),
    (0xCB#8 ++ 0xFF#8 ++ 0#9 ++ 16#5 ++ 17#5 ++ 0#5 ++ 0#13 ++ 0#1 ++ 0#1 ++ 3#2 ++ 63#6 ++ 0#1, .cbacq ff 16 17 3 63),
    (0xCC#8 ++ 0xFF#8 ++ 0#9 ++ 16#5 ++ 0#5 ++ 0#5 ++ 0#13 ++ 0#1 ++ 0#1 ++ 1#2 ++ 2#6 ++ 0#1, .cbrel ff 16 1 2),
    (0xCD#8 ++ 0xFF#8 ++ 0#9 ++ 16#5 ++ 17#5 ++ 0#5 ++ 0#13 ++ 1#1 ++ 0#1 ++ 1#2 ++ 2#6 ++ 0#1, .cbpub ff 16 17 true 1 2),
    (0xCD#8 ++ 0xFF#8 ++ 0#9 ++ 16#5 ++ 0#5 ++ 0#5 ++ 0#13 ++ 0#1 ++ 1#1 ++ 1#2 ++ 2#6 ++ 0#1, .cbpubGet ff 16 1 2),
    (0xD4#8 ++ 0xFF#8 ++ 0#9 ++ 16#5 ++ 17#5 ++ 0#5 ++ 0#23 ++ 0#1, .desc ff 16 17)] = true := by decide

/-- Words written field by field from Table 14-3. -/
theorem test_words_tasks : allRead [
    (0xD0#8 ++ 0xFF#8 ++ 0#9 ++ 1#5 ++ 2#5 ++ 3#5 ++ 0#4 ++ 1#1 ++ 3#2 ++ 63#6 ++ 10#4 ++ 54#6 ++ 0#1, .spawn ff 1 2 3 true 3 63 10 54),
    (0xD1#8 ++ 0xFF#8 ++ 0#9 ++ 4#5 ++ 0#5 ++ 0#5 ++ 0#4 ++ 0#1 ++ 0#2 ++ 0#6 ++ 0#4 ++ 0#6 ++ 0#1, .tjoin ff 4),
    (0xD2#8 ++ 0xFF#8 ++ 0#9 ++ 0#5 ++ 0#5 ++ 0#5 ++ 0#13 ++ 0b1011#4 ++ 0b01#2 ++ 9#4 ++ 0#1, .targ ff 45 9),
    (0xD3#8 ++ 0xFF#8 ++ 0#9 ++ 0#5 ++ 0#5 ++ 0#5 ++ 0#4 ++ 0#1 ++ 0#2 ++ 0#6 ++ 0#4 ++ 0#6 ++ 0#1, .tend ff)] = true := by decide

/-- Words written field by field from Tables 13-2, 15-2 and 17-3, R314. -/
theorem test_words_barriers_and_system : allRead [
    (0xE0#8 ++ 0xFF#8 ++ 0#9 ++ 8#5 ++ 5#5 ++ 0#5 ++ 0#12 ++ 4#3 ++ 255#8 ++ 0#1, .bar ff 8 5 .minn 255),
    (0xE1#8 ++ 0xFF#8 ++ 0#9 ++ 0#5 ++ 5#5 ++ 0#5 ++ 0#12 ++ 5#3 ++ 1#8 ++ 0#1, .bara ff 5 .add 1),
    (0xE2#8 ++ 0xFF#8 ++ 0#9 ++ 8#5 ++ 0#5 ++ 0#5 ++ 0#12 ++ 0#3 ++ 2#8 ++ 0#1, .barw ff 8 2),
    (0xE3#8 ++ 0xFF#8 ++ 0#9 ++ 0#5 ++ 0#5 ++ 0#5 ++ 0#23 ++ 0#1, .trig ff),
    (0xE4#8 ++ 0xFF#8 ++ 0#9 ++ 1#12 ++ 0x805#27, .flwait ff true 0x805),
    (0xE5#8 ++ 0xFF#8 ++ 0#9 ++ 0#12 ++ 0xFFFF#27, .trap ff 0xFFFF),
    (0xE6#8 ++ 0xFF#8 ++ 0#9 ++ 0#12 ++ 0#27, .eret ff),
    (0xE7#8 ++ 0xFF#8 ++ 0#9 ++ 9#12 ++ 0#27, .idem ff 9),
    (0xE8#8 ++ 0xFF#8 ++ 0#9 ++ 0#12 ++ 0#27, .idend ff),
    (0xE9#8 ++ 0xFF#8 ++ 0#9 ++ 0#9 ++ 0#1 ++ 2#2 ++ 0#3 ++ 0xABCDEF#24, .phint ff false 2 0xABCDEF),
    (0xEA#8 ++ 0xFF#8 ++ 0#9 ++ 0#12 ++ 0#27, .yield ff),
    (0xEB#8 ++ 0xFF#8 ++ 0#9 ++ 0b0100101#12 ++ 0#27, .rdcyc ff 5 true),
    (0xEC#8 ++ 0xFF#8 ++ 0#9 ++ 0#12 ++ 0x1234#27, .halt ff 0x1234)] = true := by decide

/-- The words that the spec itself assembles: the worked words of Tables 02-8, 03-12 and 04-3. -/
theorem test_words_worked_control : allRead [
    (0xA030280640100100, .ldv ⟨0x30, 1, 2, 0⟩ 3 ⟨4, 0, 2, 0, 16⟩ false),
    (0x60FF001408000A50, .vicmp ff 1 2 1 .none 5 true .lt 0 .write),
    (0x69FF001000000006, .brv ff 1 false 6),
    (0x65FF000410000001, .pmov ff (.vp 2 2 .none)),
    (0x6AFF000000000006, .join ff 6),
    (0x67FF000600000000, .emget ff 3 .em),
    (0x09FF000C05000000, .sli ff 6 0x5000000),
    (0x0AFF000C30000040, .slui ff 6 6 0x40),
    (0x0BFF000C30000002, .slhi ff 6 6 2)] = true := by decide

/-- The words that the spec itself assembles: the worked words of chapters 05, 06 and 07. -/
theorem test_words_worked_vector : allRead [
    (0x46F0200A20000400, .vfred ⟨0xF0, 1, 0, 0⟩ .add .f32 .rne 5 4 .none 2),
    (0x47FF000620000810, .vcvt ff .f32 .bf16 .rne false 1 0 3 4 .none),
    (0x80F0200008000000, .pwr ⟨0xF0, 1, 0, 0⟩ 1 .none),
    (0x83FF000000000000, .pseal ff),
    (0x81FF000400000000, .prd ff 2 0),
    (0x81FF000618000000, .prd ff 3 3),
    (0x82FF000800004600, .prdn ff 4 0 3 4)] = true := by decide

/-- The words that the spec itself assembles: the worked words of Tables 08-9, 09-6 and 18-10. -/
theorem test_words_worked_matrix_and_ring : allRead [
    (0x88FF000011807C00, .wld ff 6 1 7 true 0 false),
    (0x89FF000000000000, .wswap ff),
    (0x8AFF000502003D30, .mmac ff ⟨5, 0, false, 8, 0, 7, true, 9, 2, false⟩),
    (0x8BFF002800000005, .accrd ff 20 0 0 5),
    (0xC0FF0010050003C6, .peg ff 4 0 5 15 false 3),
    (0xC2FF000000000006, .pegw ff 0 3 false),
    (0xE9F0800008000FA0, .phint ⟨0xF0, 4, 0, 0⟩ false 1 4000),
    (0x8AF0200051803D20, .mmac ⟨0xF0, 1, 0, 0⟩ ⟨0, 1, true, 6, 0, 7, true, 9, 0, false⟩),
    (0x8AF0600051803D28, .mmac ⟨0xF0, 3, 0, 0⟩ ⟨0, 1, true, 6, 0, 7, true, 9, 1, false⟩),
    (0x8AF0400011803D28, .mmac ⟨0xF0, 2, 0, 0⟩ ⟨0, 0, true, 6, 0, 7, true, 9, 1, false⟩)] = true := by decide

/-- The words that the spec itself assembles: the worked words of chapters 10 to 15 and 17. -/
theorem test_words_worked_memory_and_tasks : allRead [
    (0xA1FF000260100000, .stv ff 1 ⟨6, 0, 2, 0, 0⟩),
    (0xAAFF000260200200, .strel ff 1 ⟨6, 0, 4, 0, 32⟩),
    (0xA9FF000460200200, .ldacq ff 2 ⟨6, 0, 4, 0, 32⟩ false),
    (0xABF0200261D20800, .amo ⟨0xF0, 1, 0, 0⟩ 1 6 7 2 .add true .relaxed false),
    (0xC8FF0025000000C0, .ctailStart ff 9 8 0 0),
    (0xCAFF000140000000, .cwait ff 10 0 0 false),
    (0xE0FF0020A00007FE, .bar ff 8 5 .maxn 255),
    (0xD0F02028C0080082, .spawn ⟨0xF0, 1, 0, 0⟩ 10 6 0 true 0 0 1 1),
    (0xD2FF00000000004C, .targ ff 2 6),
    (0xE7FF000048000000, .idem ff 9),
    (0xE5FF00000000002A, .trap ff 0x2A),
    (0xE9FF000008000FA0, .phint ff false 1 4000),
    (0xE9FF000038000000, .phint ff true 3 0)] = true := by decide

/-- The words that the spec itself assembles: the worked words of Tables 18-3, 18-16, 19-3 and 19-8. -/
theorem test_words_worked_programs : allRead [
    (0x4FFF000A00014000, .vfli ff 1 0x4000 5),
    (0xA0FF000670100000, .ldv ff 3 ⟨7, 0, 2, 0, 0⟩ false),
    (0x40FF000408000610, .vfalu ff .add .f16 .rne 2 1 .none 3),
    (0x20FF000618000807, .vialu ff .or .w32 3 3 .none 4),
    (0x02C0D428A7FFFFFF, .saddi ⟨0xC0, 6, 5, 0⟩ 20 20 0x7FFFFFF),
    (0x0220D7A8A0000001, .saddi ⟨0x20, 6, 5, 7⟩ 20 20 1),
    (0x09E0D7AA00000000, .sli ⟨0xE0, 6, 5, 7⟩ 21 0),
    (0xCBFF004220000006, .cbacq ff 16 17 0 3),
    (0x60FF00203A8F8E01, .vicmp ff 2 0 7 (.rot 4 31) 7 false .eq 0 .and),
    (0x40C0500C328F8C00, .vfalu ⟨0xC0, 2, 4, 0⟩ .add .f32 .rne 6 6 (.rot 4 31) 6),
    (0xACC0700CD1D2A000, .red ⟨0xC0, 3, 4, 0⟩ 6 13 7 2 .fadd .relaxed),
    (0x6DFF00000000000E, .loops ff 14),
    (0x2EFF000810000000, .vmov ff 4 2 .none),
    (0x6BFF000000000000, .brk ff 0 false),
    (0x72FF000000000000, .exit ff)] = true := by decide

/-! ### Words and terms that are refused -/

/-- R61, R44 and R54: no instruction: a header's marker, an opcode that Table 02-6 leaves out, a field that must be zero. -/
theorem test_refused_words :
    decode 0xDC40003FC0000000 = .error .marker ∧ decode 0xDF00000000000000 = .error .marker ∧
    [0x0E#8, 0x14#8, 0x1F#8, 0x32#8, 0x3F#8, 0x50#8, 0x5F#8, 0x63#8, 0x74#8, 0x7F#8, 0x86#8, 0x87#8, 0x91#8, 0x9F#8, 0xB0#8,
      0xBF#8, 0xC5#8, 0xC7#8, 0xCE#8, 0xCF#8, 0xD5#8, 0xDB#8, 0xED#8, 0xFF#8].all
      (fun k => decide (decode (k ++ 0#56) = .error .opcode)) = true ∧
    -- NOP with a nonzero body; SALU function 0x18; a scalar field of 32; PMOV fn[7:4]; BR pr with k = 0; JMPR fn 2
    [0x00FF000000000001, 0x01FF000000000018, 0x01FF004000000000, 0x65FF000000000010, 0x68FF001000000000,
      0x70FF000000000002].all (fun w => decide (decode w = .error .field)) = true := by decide

/-- Table 02-8: the header of the first clause and that of the second. R43: each reason that refuses a header. -/
theorem test_headers :
    headerOf 0x1000 0xDD040047C0000000 = some (⟨0x1000, 4, 1, 1, 15, false, []⟩, 1) ∧
    headerOf 0x1018 0xDC4000BFC0000000 = some (⟨0x1018, 1, 2, 15, 15, false, []⟩, 0) ∧
    headerOf 0x1000 0xDC0000BFC0000000 = none ∧ headerOf 0x1000 0xD84000BFC0000000 = none ∧
    headerOf 0x1000 0xDC4000B3C0000000 = none ∧ headerOf 0x1000 0xDC4000BF80000000 = none ∧
    headerOf 0x1000 0xDC4000BFC0000001 = none ∧ headerOf 0x1FF0 0xDC4000BFC0000000 ≠ none ∧
    headerOf 0x1FF8 0xDC4000BFC0000000 = none ∧ headerOf 0x1FF0 0xDC4400BFC0000000 = none := by decide

/-- A term that each check of `Instr.wf` refuses. -/
theorem test_ill_formed_scalar : [
    Instr.salu ff .clz 1 2 3, .smovv ff 1 2 (.rot 10 0) 0 false false, .smovv ff 1 2 .none 1 true false,
    .sld ff 1 ⟨1, 1, 0, 0, 0⟩ false false, .sld ff 1 ⟨1, 0, 7, 0, 0⟩ false false, .sst ff 1 ⟨1, 0, 4, 0, 0⟩ false,
    .sst ff 1 ⟨1, 0, 0, 1, 0⟩ false].all (fun i => !i.wf) = true := by decide

theorem test_ill_formed_vector : [
    Instr.vialu ff .abs .w32 1 2 .none 3, .vialus ff .popc .w8 1 2 .none 3, .vialu ff .add .w32 1 2 (.bfly 1 2) 3,
    .vmad ff .dot .w32 1 2 .none 3, .vsel ff 1 1 2 (.bcast 0 2) 3, .vmov ff 1 2 (.rot 15 1), .vred ff .add 1 2 .none 10,
    .vscan ff .add false 1 2 .none 10, .vperm ff 1 2 3 true 10, .vperm ff 1 2 3 false 1,
    .vfalu ff .min .f32 .rtz 1 2 .none 3, .vfalu ff .neg .f32 .rne 1 2 .none 3, .vfma ff .fma .f32 .rne 1 2 (.rot 10 0) 3,
    .vfmas ff .fma .f32 .rne 1 2 (.rot 10 0) 3, .vfun ff .rcp .f32 .rne 1 2 (.rot 10 0), .vfdiv ff .f32 .rne 1 2 (.rot 10 0) 3,
    .vfclass ff .f32 .hi 1 2 .none 3, .vfclassTrap ff .f32 .either 2 .none 3, .vfred ff .add .f32 .rne 1 2 .none 10,
    .vfred ff .min .f32 .rup 1 2 .none 4, .vcvt ff .f32 .bf16 .rne false 2 0 1 2 .none,
    .vcvt ff .f32 .i32 .rne false 0 1 1 2 .none, .vcvt ff .f32 .bf16 .rne true 0 0 1 2 .none,
    .vsrnd ff false 0 1 2 (.rot 10 0) 3, .vqnt ff 0 .rne true 0 1 2 .none 3, .vreq ff false 0 true 0 1 2 3,
    .vreq ff false 1 true 3 1 2 3, .vbmax ff true 0 1 2 .none, .vpln ff true 7 1 2, .vpln ff true 0 1 2, .vupln ff true 7 1 2,
    .vupln ff true 0 1 2].all (fun i => !i.wf) = true := by decide

theorem test_ill_formed_predicates : [
    Instr.vicmp ff 1 1 2 .none 3 false .eq 0 .write, .vicmp ff 1 2 2 .none 32 true .eq 0 .write,
    .vfcmp ff 3 3 2 .none 3 false .eq .f32 .write, .vfcmp ff 1 2 2 .none 63 true .eq .f32 .write,
    .sicmp ff 7 7 1 2 .eq 0 .write, .pmov ff (.pv 1 2 (.rot 10 0)), .pmov ff (.vp 1 2 (.rot 10 0)),
    .pmov ff (.pp 1 2 (.rot 10 0)), .br ff .always 1 0, .pwr ff 1 (.rot 10 0)].all (fun i => !i.wf) = true := by decide

theorem test_ill_formed_matrix : [
    Instr.wld ff 0 0 7 true 0 false, .wld ff 31 0 7 true 0 false, .wld ff 1 128 7 true 0 false, .wld ff 1 0 0 true 0 false,
    .mmac ff ⟨0, 0, true, 1, 0, 0, true, 0, 0, false⟩, .mmac ff ⟨0, 0, true, 1, 0, 7, true, 0, 3, false⟩,
    .mmac ff ⟨1, 1, true, 1, 0, 7, true, 0, 0, false⟩, .mmac ff ⟨64, 2, true, 1, 0, 7, true, 0, 0, false⟩,
    .mmac ff ⟨0, 0, true, 0, 0, 7, true, 0, 0, false⟩, .mmac ff ⟨0, 0, true, 31, 0, 7, true, 0, 0, false⟩,
    .mmac ff ⟨0, 0, false, 1, 0, 7, true, 0, 0, false⟩, .mmac ff ⟨0, 1, true, 1, 0, 7, true, 0, 2, false⟩,
    .mmac ff ⟨0, 2, true, 1, 0, 7, true, 0, 2, false⟩].all (fun i => !i.wf) = true := by decide

theorem test_ill_formed_memory : [
    Instr.ldv ff 1 ⟨1, 2, 2, 0, 0⟩ false, .ldv ff 1 ⟨1, 0, 3, 0, 0⟩ false, .stv ff 1 ⟨1, 0, 4, 0, 0⟩, .stv ff 1 ⟨1, 0, 2, 1, 0⟩,
    .ldx ff 1 ⟨1, 0, 2, 0, 0⟩ false, .ldx ff 1 ⟨1, 2, 6, 0, 0⟩ false, .stx ff 1 ⟨1, 0, 2, 0, 0⟩, .stx ff 1 ⟨1, 2, 3, 0, 0⟩,
    .ldt ff 1 ⟨1, 0, 2, 0, 0⟩ false, .ldt ff 1 ⟨1, 2, 7, 0, 0⟩ false, .ldm ff 0 1 0 false, .ldvol ff 1 ⟨1, 0, 2, 1, 0⟩ false,
    .ldvol ff 1 ⟨1, 0, 3, 0, 0⟩ false, .stvol ff 1 ⟨1, 0, 2, 1, 0⟩, .stvol ff 1 ⟨1, 0, 4, 0, 0⟩,
    .ldacq ff 1 ⟨1, 0, 3, 0, 0⟩ false, .ldacq ff 1 ⟨1, 0, 4, 1, 0⟩ false, .strel ff 1 ⟨1, 0, 3, 0, 0⟩,
    .strel ff 1 ⟨1, 0, 4, 1, 0⟩, .amo ff 1 1 0 1 .add false .relaxed false, .red ff 1 1 0 1 .add .relaxed,
    .red ff 1 1 0 0 .swap .relaxed, .red ff 1 1 0 0 .cas .relaxed, .red ff 1 1 0 0 .add (.acq .die),
    .red ff 1 1 0 0 .add (.acqrel .die), .amos ff 31 1 false .add false .relaxed false,
    .amos ff 1 1 true .fadd false .relaxed false, .own ff 1 1 0 false, .disown ff 1 1 0 false].all (fun i => !i.wf)
    = true := by decide

theorem test_ill_formed_system : [
    Instr.peg ff 1 0 1 12 false 0, .peg ff 1 0 1 15 true 0, .peg ff 1 1 1 15 false 0, .spawn ff 1 2 3 false 0 0 11 1,
    .spawn ff 1 2 3 false 0 0 0 1, .spawn ff 1 0 3 true 0 0 1 1, .bar ff 1 1 .none 0, .bara ff 1 .none 0,
    .phint ff false 0 0, .phint ff true 1 1].all (fun i => !i.wf) = true := by decide

theorem test_ill_formed_events : [
    Instr.clauseIssue 512, .deferredTrap 512, .operationComplete 512 0 0 false, .storePerform 512 0 0 false,
    .atomicPerform 512 0 0 false, .rowRetire 512, .portEntryArrive 512, .portWaitEnd 512, .portStarved 512,
    .cbEdgeTransfer 512 true, .vectorEnter 512, .vectorWrite 512, .swapPoint 512, .shadowFillStart 512, .arrayPortStop 512 none,
    .arrayWatchdog 512, .joinDecrement 512, .bank 512 true, .stokeRequest 512 true, .stokeComplete 512 true, .hamperSave 512,
    .pegFireComplete 0 16, .ringWatchdog 512 0, .tilePass 4 false, .windowFill 4, .stealRequest 4, .taskEnqueue 4, .partSecure 4,
    .inrushGrant 4, .preemptArrive 4, .engineCommandStart 4 0 false, .engineCommandComplete 0 8, .nopCommand 4 0,
    .copy 0 8 false, .tile 4 0 false, .gather 4 0 false, .transpose 4 0 false, .fill 4 0, .pairedCommit 4 0 false,
    .edgeFeed 4 0 false, .edgeDrain 4 0, .bufferSetUp 4 0, .followOnMmac 4 0, .send 4 0 false, .recv 4 0,
    .reduceStep 4 0 false, .xorReduce 4 0 false, .allreduce 4 0 false, .linkAbort 64 0, .linkAbort 0 4294967296,
    .adyanCell 38 ⟨0, 0, 0⟩, .replay 38 0, .waveDispatch 0 128, .continuationEnqueue 0 4, .domainReassign 16, .allowanceTick 16,
    .thermal 16 0, .laggardTransferEnd 16, .cmdTail ⟨0, 0, 0, 0, 0, 0, 0, 0⟩ 256, .evtHead 4096, .windowWrite 4096 0].all
    (fun i => !i.wf) = true := by decide

/-! ### States that meet the hypotheses of the statements -/

/-- A running row of width L, every lane current, whose clause is one NOP. -/
def tRow (L : Nat) : Row :=
  { Row.reset with
    life := .running, L := L
    arm := { Arm.reset with pc := 8, clause := ⟨0, 0xF, 0, 15, 15, false, [0]⟩, em := laneMask L } }
/-- Row 0 as `f` makes it of a running row of width L, and nothing else. -/
def st (L : Nat) (f : Row → Row) : State := State.reset.setRow 0 (f (tRow L))
def st32 : State := st 32 id
/-- The NOP's word. -/
def nopW : W64 := 0x00FF000000000000

theorem test_witness_RoundTrip : (Instr.amos ff 30 1 true .cas true (.acq .system) true).wf = true ∧
    (Instr.amos ff 30 1 true .cas true (.acq .system) true).isEvent = false := by decide +kernel
theorem test_witness_DecodeSound : decode nopW = .ok (.nop ff) := by decide +kernel

/-- Row 0 about to issue a word of a clause of the given classes, with a NOP behind it where `more`. -/
def atWord (w : W64) (cls : BitVec 4) (more : Bool) : State :=
  { st 32 (fun r => { r with arm := { r.arm with clause := ⟨0, cls, 0, 15, 15, false, if more then [w, nopW] else [w]⟩ } }) with
    agenda := [.issue 0] }

/-- The first and the last marker, an unassigned opcode, a clear class bit, BR before the last word, a NOP with a body. -/
theorem test_witness_IllegalWords :
    ([(0xDC00000000000000, 0xF, false), (0xDF00000000000000, 0xF, false), (0x0E00000000000000, 0xF, false),
        (0x01FF000000000000, 0xE, false), (0x68FF000000000000, 0xF, true), (0x00FF000000000001, 0xF, false)]
      : List (W64 × BitVec 4 × Bool)).all (fun x =>
      let s := atWord x.1 x.2.1 x.2.2
      decide (s.agenda = [.issue 0] ∧ Row.issues s 0 = true ∧ (s.row 0).dueTrap = none ∧ (s.row 0).arm.word = some x.1)) = true ∧
    opFormat 0x0E = none ∧ opFormat 0x01 ≠ none ∧ opClass 0x01 = some 0 ∧ (0xE : BitVec 4).getLsbD 0 = false ∧
    mustBeLast 0x68 = true ∧ ((atWord 0x68FF000000000000 0xF true).row 0).arm.pc ≠
      ((atWord 0x68FF000000000000 0xF true).row 0).arm.clause.last ∧
    opFormat 0 ≠ none ∧ opClass 0 = none ∧ mustBeLast 0 = false ∧ decode 0x00FF000000000001 = .error .field := by decide +kernel

theorem test_witness_StepRunsDecoded :
    (let s := atWord nopW 0xF false
     s.agenda = [.issue 0] ∧ Row.issues s 0 = true ∧ (s.row 0).dueTrap = none ∧ (s.row 0).arm.word = some nopW ∧ wordFault (s.row 0).arm nopW = none ∧
     decode nopW = .ok (.nop ff)) ∧
    (let s := (atWord nopW 0xF false).modRow 0 (fun r => { r with wait := some .queue, deferred := [⟨0x15, 8⟩] })
     Row.issues s 0 = true ∧ (s.row 0).dueTrap = some ⟨0x15, 8⟩) ∧
    (Instr.rowRetire 511).isEvent = true ∧ (Instr.rowRetire 511).wf = true ∧
    Row.issues { State.reset with agenda := [.issue 0] } 0 = false ∧ State.reset.agenda = [] := by decide +kernel

theorem test_witness_StepKeepsInvariant : State.reset.Inv :=
  ⟨rfl, fun _ h => absurd h (by simp [State.reset, Dev.reset]), fun _ h => absurd h (by simp [State.reset, Dev.reset]), rfl⟩
theorem test_reset_memory : Memory.wf State.reset.job.mem := rfl

/-- A row of width L with its registers as `f` sets them: nothing outstanding, every guard true, every lane acting. -/
theorem test_witness_ready : st32.ready ff ∧ st32.acting ff ∧ (st32.row st32.cur).handler = false ∧
    (st32.row st32.cur).region = none ∧ (st32.row st32.cur).outside ∧ (st32.row st32.cur).fp.banked = false ∧
    (st32.row st32.cur).mat.banked = false ∧ (st32.row st32.cur).Has [0, 63] ∧ (st32.row st32.cur).Fits .none ∧
    (st32.row st32.cur).Fits (.rot 4 63) := by
  simp only [State.ready, State.acting, Row.Quiet, Row.outside, Row.Has, Row.Fits]
  decide +kernel

theorem test_witness_ScalarArithmetic :
    (let s := st 32 (fun r => { r with s := [(2, 5)] }); s.ready ff ∧ (s.row s.cur).sreg 2 ≠ 0) ∧
    (let s := st 32 (fun r => { r with s := [(2, 31), (3, 32)] })
     let r := s.row s.cur
     s.ready ff ∧ r.Fits (.rot 4 1) ∧ r.Has [63] ∧ (r.sreg 2).toNat < r.L ∧ r.L ≤ (r.sreg 3).toNat) ∧
    (let s := st 32 (fun r => { r with arm := { r.arm with em := 0x80000000 } })
     let r := s.row s.cur
     s.ready ff ∧ 31 < r.L ∧ r.arm.em.getLsbD 31 = true ∧ ∀ k, k < 31 → r.arm.em.getLsbD k = false) ∧
    (let s := st 32 (fun r => { r with arm := { r.arm with em := 0 } })
     let r := s.row s.cur
     s.ready ff ∧ ∀ k, k < r.L → r.arm.em.getLsbD k = false) := by
  simp only [State.ready, Row.Quiet, Row.Has, Row.Fits]
  decide +kernel

theorem test_witness_ScalarDivision :
    (let s := st 32 (fun r => { r with s := [(1, 7)] })
     s.ready ff ∧ (s.row s.cur).sreg 2 = 0 ∧ (s.row s.cur).handler = false) ∧
    (let s := st 32 (fun r => { r with s := [(1, 0x8000000000000000), (2, 0xFFFFFFFFFFFFFFFF)] })
     s.ready ff ∧ (s.row s.cur).sreg 1 = 0x8000000000000000 ∧ (s.row s.cur).sreg 2 = 0xFFFFFFFFFFFFFFFF) := by
  simp only [State.ready, Row.Quiet]
  decide +kernel

theorem test_witness_CsrAccess :
    (let s := st32
     s.ready ff ∧ csrAcc .rng = .rw ∧ csrAcc .rowid ≠ .rw ∧ csrAcc .rowid ≠ .h ∧ csrAcc .epc = .h ∧
       (s.row s.cur).handler = false) ∧
    (let s := st 32 (fun r => { r with handler := true })
     s.ready ff ∧ csrAcc .epc = .h ∧ (s.row s.cur).handler = true) := by
  simp only [State.ready, Row.Quiet]
  decide +kernel

theorem test_witness_CsrVectorAndMask :
    (let s := st 32 (fun r => { r with s := [(1, 7)] })
     s.ready ff ∧ (s.row s.cur).sreg 1 &&& 7 ≠ 0 ∧ csrRead s s.cur .tvec ||| (s.row s.cur).sreg 1 ≠ 0) ∧
    (let s := st 32 (fun r => { r with s := [(1, 8)] })
     s.ready ff ∧ (s.row s.cur).sreg 1 &&& 7 = 0 ∧
       ∃ t, exec (.scsw ff 1 .write .tvec) s = .next t ∧ csrRead t s.cur .tvec = 8) := by
  refine ⟨?_, ?_, ?_, _, rfl, ?_⟩
  · simp only [State.ready, Row.Quiet]; decide +kernel
  · simp only [State.ready, Row.Quiet]; decide +kernel
  · decide +kernel
  · decide +kernel

theorem test_witness_RegisterFiles : (31 < 32 ∧ 31 ≠ 0) ∧ (24 ≤ 31 ∧ 31 < 32 ∧ 0 < 23 ∧ 23 < 24) ∧
    (let r := tRow 32; 31 < r.L ∧ ∀ x ∈ [0, 31], x < r.L) := by decide +kernel

theorem test_witness_VectorResults :
    (let s := st32; s.acting ff ∧ (s.row s.cur).Fits (.rot 4 31) ∧ (s.row s.cur).Has [63, 1, 0]) ∧
    31 < 32 / vwBits .w8 + 31 ∧ 0 < 32 / vwBits .w32 ∧ 3 < 32 / vwBits .w8 := by
  simp only [State.acting, Row.Quiet, Row.Has, Row.Fits]
  decide +kernel

theorem test_witness_PermuteAndReduce :
    (let s := st32; s.acting ff ∧ (s.row s.cur).Fits .none ∧ (s.row s.cur).Has [63, 1, 0] ∧
      2 ^ ((4 : BitVec 6).toNat + 1) ≤ (s.row s.cur).L ∧ 2 ^ ((4 : BitVec 4).toNat + 1) ≤ (s.row s.cur).L) ∧
    [(1 : W32), 2].Perm [2, 1] := by
  refine ⟨?_, List.Perm.swap 2 1 []⟩
  simp only [State.acting, Row.Quiet, Row.Has, Row.Fits]
  decide +kernel

/-- The number that an encoding of FP32 stands for. -/
theorem is32 (b : Nat) (n : Bool) (m : Nat) (e : Int) (x : ℝ) (h : fmt32.decode b = .fin n m e)
    (k : x = (if n then -1 else 1) * (m : ℝ) * (2 : ℝ) ^ e) : (fmt32.decode b).Is x := by rw [h]; exact k

/-- 3/2, and 1.0 as each operand, a power of two and an integer; a value that rounds, and one beyond the range. -/
theorem test_witness_RoundingOnce :
    fmt32 ∈ [fmt32, fmt16, fmtB16] ∧ 0 < 3 ∧ (FVal.fin false 3 (-1)).Is (3 / 2 : ℝ) ∧ (FVal.fin true 1 128).Is (-(2 : ℝ) ^ (128 : Int)) ∧
    (fmt32.decode 0x3F800000).Is 1 ∧ (0 : ℝ) < 1 ∧ (1 : ℝ) = ((1 : Int) : ℝ) ∧ (1 : ℝ) = (2 : ℝ) ^ (0 : Int) := by
  refine ⟨by decide, by decide, ?_, ?_, is32 0x3F800000 false 0x800000 (-23) 1 (by decide +kernel) (by norm_num), by norm_num,
    by norm_num, by norm_num⟩
  · simp only [FVal.Is]; norm_num
  · simp only [FVal.Is]; norm_num
theorem test_witness_special_operands :
    (fmt32.decode 0x7F800001).isSNan = true ∧ fmt32.decode 0x7F800000 = .inf false ∧ (fmt32.decode 0x7F800000).isInf = true ∧
    (fmt32.decode 0).isZero = true ∧ (fmt32.decode 0x3F800000).isNan = false ∧ (fmt32.decode 0xBF800000).finite = true ∧
    (fmt32.decode 0xBF800000).isZero = false ∧ (fmt32.decode 0xBF800000).neg = true := by decide +kernel

theorem test_witness_FloatResults :
    (let s := st 32 (fun r => { r with v := [(32, 0x7F800000)], s := [(3, 0x1)] })
     s.acting ff ∧ (s.row s.cur).fp.banked = false ∧ (s.row s.cur).Fits .none ∧ (s.row s.cur).Has [1, 2, 3] ∧
       (s.row s.cur).L ≤ 1024 ∧ 2 ^ ((4 : BitVec 6).toNat + 1) ∣ (s.row s.cur).L ∧ 0 ∈ (s.row s.cur).actLanes ff) ∧
    -- lane 0 of v1 is +infinity: class bit 9 of Table 05-7 names it, and no lane before it matches
    (let s := st 32 (fun r => { r with v := [(32, 0x7F800000)], s := [(3, 0x3FF)] })
     classMatch .f32 .lo ((s.row s.cur).src 1 .none 0) ((s.row s.cur).sreg 3) = true) ∧
    (let s := st 32 (fun r => { r with v := [(32, 0x7F800000)] })
     ∀ k ∈ (s.row s.cur).actLanes ff, classMatch .f32 .lo ((s.row s.cur).src 1 .none k) ((s.row s.cur).sreg 3) = false) ∧
    -- a NaN, the two infinities and the two zeros
    (0xFFC00001 < 2 * fmt32.signBit ∧ (fmt32.decode 0xFFC00001).isNan = true ∧ (fmt32.decode 0xFFC00001).isSNan = false ∧
      fmt32.decode 0x7F800000 = .inf false ∧ fmt32.decode 0xFF800000 = .inf true ∧ (fmt32.decode 0x80000000).neg = true ∧
      (fmt32.decode 0).neg = false) := by
  refine ⟨?_, ?_, ?_, ?_⟩
  · simp only [State.acting, Row.Quiet, Row.Has, Row.Fits]; decide +kernel
  · decide +kernel
  · decide +kernel
  · decide +kernel
theorem test_witness_ordered_floats : (fmt32.decode 0x3F800000).Is 1 ∧ (fmt32.decode 0x40000000).Is 2 ∧ (1 : ℝ) < 2 ∧
    (fmt32.decode 0).Is 0 ∧ (fmt32.decode 0x80000000).Is 0 := by
  refine ⟨is32 0x3F800000 false 0x800000 (-23) 1 (by decide +kernel) (by norm_num), is32 0x40000000 false 0x800000 (-22) 2
    (by decide +kernel) (by norm_num), by norm_num, is32 0 false 0 (-149) 0 (by decide +kernel) (by norm_num),
    is32 0x80000000 true 0 (-149) 0 (by decide +kernel) (by norm_num)⟩

theorem test_witness_ConversionResults :
    (let s := st 256 id
     s.acting ff ∧ (s.row s.cur).fp.banked = false ∧ (s.row s.cur).Fits .none ∧ (s.row s.cur).Has [1, 2] ∧
       256 ≤ (s.row s.cur).L) ∧
    ((-128 : Int) ≤ -128 ∧ (127 : Int) ≤ 127 ∧ (-129 : Int) < -128 ∧ (127 : Int) < 128) ∧
    -- e of 254 and 255, and the smallest and the largest element that overflows
    (254 < 255 ∧ 255 < 256 ∧ 248 ≤ 254 ∧ 2 ^ (255 - 254) ≤ (intOf 8 true 2).natAbs ∧ 2 ^ (255 - 248) ≤ (intOf 8 true 0x80).natAbs) := by
  simp only [State.acting, Row.Quiet, Row.Has, Row.Fits]
  decide +kernel
theorem test_witness_dequantized : |((1 : Int) : ℝ) * (2 : ℝ) ^ ((254 - 127 : Int))| < (2 : ℝ) ^ (128 : Int) := by norm_num

theorem test_witness_BlockFormats :
    (let s := st 256 id
     s.acting ff ∧ (s.row s.cur).fp.banked = false ∧ (s.row s.cur).Fits .none ∧ (s.row s.cur).Has [1, 2, 3] ∧
       64 ≤ (s.row s.cur).L ∧ 256 ∣ (s.row s.cur).L ∧ 64 ∣ (s.row s.cur).L ∧ (s.row s.cur).L ≤ 1024) ∧
    -- a value that is exact, one that is not, and the greatest random value
    ((7 : Nat) < 2 ^ 3 ∧ (-3 : Int) < 0 ∧ 8 % 2 ^ (0 - (-3 : Int)).toNat = 0 ∧ 3 ≤ (0 - (-3 : Int)).toNat) ∧
    bmaxVal 8 true [.fin false 1 0] = (121, false) := by
  simp only [State.acting, Row.Quiet, Row.Has, Row.Fits]
  decide +kernel

theorem test_witness_ScalarPredicates :
    (let s := st32
     s.ready ff ∧ 64 * (0 : BitVec 6).toNat < (s.row s.cur).L ∧ (s.row s.cur).L ≤ 64 * (1 : BitVec 6).toNat) ∧
    (let s := st32
     let r := s.row s.cur
     r.Quiet ∧ r.L ≤ 1024 ∧ r.handler = false ∧ r.anyActs ff = true ∧ 0 < r.L ∧ r.guardL ff 0 = true) ∧
    -- EMSET that holds all but the lanes parked at a BAR
    (let q : Row := { tRow 32 with arm := { (tRow 32).arm with em := 0, held := 0xFFFF, barPark := 0xFFFF0000 } }
     q.barDue = true ∧ q.barParked ≠ 0) ∧ (tRow 32).barParked = 0 := by
  simp only [State.ready, Row.Quiet]
  decide +kernel

theorem test_witness_LanePredicates :
    (let s := st32
     s.acting ff ∧ (s.row s.cur).Fits .none ∧ (s.row s.cur).L ≤ 1024 ∧ (s.row s.cur).fp.banked = false ∧
       (s.row s.cur).Has [1, 2] ∧ (s.row s.cur).Has [1]) ∧
    (FVal.nan true).isNan = true ∧ (FVal.fin false 1 0).isNan = false := by
  simp only [State.acting, Row.Quiet, Row.Has, Row.Fits]
  decide +kernel

/-! Control flow, ports and buffers. -/

/-- A token of each kind with no lanes. -/
def tok (k : TokKind) (a : Option Va) : Token := ⟨k, a, 16, 0, 0, 0⟩
/-- A row whose arm holds these tokens. -/
def withToks (l : List Token) (r : Row) : Row := { r with arm := { r.arm with toks := l } }
/-- p1 is set in lanes 0 to 15. -/
def halfSet (r : Row) : Row := { r with p := [(1, 0xFFFF)] }
/-- A diverged row: the other arm waits, finished. -/
def twoArms (r : Row) : Row := { r with other := some { r.arm with st := .finished }, armId := .t, armsTok := some ⟨some 64, 0, 0, 0⟩ }

theorem test_witness_Branches :
    (let s := st 32 (fun r => halfSet { r with s := [(1, 0x1000), (2, 0x1004)] })
     let r := s.row s.cur
     s.ready ff ∧ r.arm.em.getLsbD 0 = true ∧ (r.preg 1).getLsbD 0 = true ∧ r.arm.em.getLsbD 16 = true ∧
       (r.preg 1).getLsbD 16 = false ∧ ((r.sreg 1).extractLsb' 0 56).toNat % 8 = 0 ∧
       ((r.sreg 2).extractLsb' 0 56).toNat % 8 ≠ 0 ∧ r.handler = false ∧ r.arm.toks = [] ∧ r.armsTok = none ∧
       r.tokTotal < 32 ∧ r.region = none ∧ ∀ u ∈ r.arm.toks.head?, u.kind ≠ .call) ∧
    (let s := st 32 (withToks (List.replicate 31 (tok .loop none)))
     s.ready ff ∧ (s.row s.cur).tokTotal < 32) ∧
    (let s := st 32 (withToks (List.replicate 32 (tok .loop none)))
     s.ready ff ∧ ¬ (s.row s.cur).tokTotal < 32 ∧ (s.row s.cur).barParked = 0) ∧
    (let s := st 32 (fun r => { withToks (List.replicate 32 (tok .loop none)) r with
        arm := { r.arm with toks := List.replicate 32 (tok .loop none), barPark := 1 } })
     s.ready ff ∧ ¬ (s.row s.cur).tokTotal < 32 ∧ (s.row s.cur).barParked ≠ 0) ∧
    (let s := st 32 (withToks [⟨.call, some 24, 16, 0, 0, 0⟩])
     s.ready ff ∧ (s.row s.cur).arm.toks = ⟨.call, some 24, 16, 0, 0, 0⟩ :: [] ∧ (s.row s.cur).region = none) := by
  simp only [State.ready, Row.Quiet]
  decide +kernel

/-- What BRV's hypotheses ask of M and F, for p1 or its complement. -/
def brvMasks (s : State) (neg : Bool) (M F : Mask) : Bool :=
  let r := s.row s.cur
  (List.range 1024).all (fun l => decide (M.getLsbD l = (decide (l < r.L) && r.acts ff l && ((r.preg 1).getLsbD l != neg)) ∧
    F.getLsbD l = (r.arm.em.getLsbD l && !M.getLsbD l)))

theorem test_witness_DivergentBranch :
    (let s := st 32 halfSet
     s.acting ff ∧ (s.row s.cur).handler = false ∧ (s.row s.cur).region = none ∧ (s.row s.cur).L ≤ 1024 ∧
       brvMasks s false 0xFFFF 0xFFFF0000 = true ∧ (s.row s.cur).arm.toks = [] ∧ (s.row s.cur).armsTok = none) ∧
    (let s := st 32 id
     s.acting ff ∧ brvMasks s false 0 0xFFFFFFFF = true ∧ brvMasks s true 0xFFFFFFFF 0 = true) ∧
    (let s := st 32 (fun r => withToks [tok .loop none] (halfSet r))
     s.acting ff ∧ brvMasks s false 0xFFFF 0xFFFF0000 = true ∧ (s.row s.cur).tokdepth ≠ 0 ∧ (s.row s.cur).tokTotal < 32) ∧
    (let s := st 32 (fun r => withToks (List.replicate 32 (tok .loop none)) (halfSet r))
     s.acting ff ∧ brvMasks s false 0xFFFF 0xFFFF0000 = true ∧ (s.row s.cur).tokdepth ≠ 0 ∧ 32 ≤ (s.row s.cur).tokTotal ∧
       (s.row s.cur).barParked = 0) ∧
    -- JOIN: an address not yet set, the same one, and another; a LOOP token; the ARMS token
    (let s := st 32 (withToks [tok .split none]); s.ready ff ∧ (s.row s.cur).arm.toks = tok .split none :: []) ∧
    (let s := st 32 (withToks [tok .split (some 8)])
     s.ready ff ∧ (s.row s.cur).arm.toks = tok .split (some 8) :: [] ∧ (8 : Va) = 0 + 8 * (1 : BitVec 33).signExtend 56 ∧
       (8 : Va) ≠ 0 + 8 * (2 : BitVec 33).signExtend 56) ∧
    (let s := st 32 (withToks [tok .loop none]); s.ready ff ∧ (tok .loop none).kind ≠ .split) ∧
    (let s := st 32 twoArms
     s.ready ff ∧ (s.row s.cur).arm.toks = [] ∧ (s.row s.cur).armsTok = some ⟨some 64, 0, 0, 0⟩ ∧
       (64 : Va) = 0 + 8 * (8 : BitVec 33).signExtend 56) := by
  simp only [State.ready, State.acting, Row.Quiet]
  decide +kernel

theorem test_witness_ResumeProcedure :
    (tRow 32).barParked = 0 ∧ (tRow 32).handler = false ∧ (tRow 32).arm.toks = [] ∧ (tRow 32).armsTok = none ∧
    -- a handler that finds lanes of its own arm
    (let r := { withToks [⟨.split, some 24, 16, 1, 0, 0⟩] (twoArms (tRow 32)) with handler := true }
     r.handler = true ∧ r.resume.isSome = true) ∧
    ((⟨.split, some 24, 16, 1, 0, 0⟩ : Token).kind ≠ .call ∧ (⟨.split, some 24, 16, 1, 0, 0⟩ : Token).wait ≠ 0) ∧
    ((⟨.loop, some 24, 16, 0, 1, 0⟩ : Token).wait = 0 ∧ (⟨.loop, some 24, 16, 0, 1, 0⟩ : Token).park ≠ 0) ∧
    (let r := twoArms (tRow 32); r.barParked = 0 ∧ r.handler = false ∧ r.arm.toks = [] ∧ r.armsTok = some ⟨some 64, 0, 0, 0⟩ ∧
      ∃ o, r.other = some o ∧ o.st = .finished) ∧
    ({ (tRow 32).arm with st := .joinPark }).st = .joinPark ∧
    (let r := { twoArms (tRow 32) with other := some (tRow 32).arm }; r.barParked = 0 ∧ (tRow 32).arm.st = .running ∧
      r.other = some (tRow 32).arm) ∧
    -- BRK and CONT: no lane moves; a LOOP under a SPLIT; no LOOP; a CALL above it
    (let s := st 32 id; s.acting ff ∧ brvMasks s false 0 0xFFFFFFFF = true ∧ ∀ u ∈ (s.row s.cur).arm.toks, u.kind ≠ .loop) ∧
    (let s := st 32 (fun r => withToks ([tok .split none] ++ tok .loop (some 64) :: []) (halfSet r))
     s.acting ff ∧ brvMasks s false 0xFFFF 0xFFFF0000 = true ∧ (s.row s.cur).region = none ∧
       (s.row s.cur).arm.toks = [tok .split none] ++ tok .loop (some 64) :: []) ∧
    (let s := st 32 (fun r => withToks ([] ++ tok .call (some 64) :: [tok .loop none]) (halfSet r))
     s.acting ff ∧ brvMasks s false 0xFFFF 0xFFFF0000 = true ∧
       (s.row s.cur).arm.toks = [] ++ tok .call (some 64) :: [tok .loop none]) ∧
    -- LEXIT of half the lanes, and of all
    (let s := st 32 id
     let r := s.row s.cur
     r.Quiet ∧ r.region = none ∧ r.anyActs ff = true ∧ r.guardQ ff = true ∧ (r.exitLanes 0xFFFF).live ≠ 0 ∧
       (r.exitLanes 0xFFFF).arm.em ≠ 0 ∧ (r.exitLanes 0xFFFFFFFF).live = 0) ∧
    (let r := twoArms { tRow 32 with arm := { (tRow 32).arm with em := 0xFFFF } }
     (r.exitLanes 0xFFFF).live ≠ 0 ∧ (r.exitLanes 0xFFFF).arm.em = 0) := by
  simp only [State.acting, Row.Quiet]
  refine ⟨by decide +kernel, by decide +kernel, by decide +kernel, by decide +kernel, by decide +kernel, by decide +kernel,
    by decide +kernel, ⟨by decide +kernel, by decide +kernel, by decide +kernel, by decide +kernel, _, rfl, by decide +kernel⟩, ?_⟩
  decide +kernel

/-- An open chain: a row above and below. -/
def chain (r : Row) : Row := { r with nbind := .row, sbind := .row }
/-- n entries at the north port, with or without the seal. -/
def fifo (n : Nat) (x : Seal) (r : Row) : Row := { chain r with north := ⟨List.replicate n ⟨[], 0⟩, [], x⟩ }

theorem test_witness_PortOrder :
    (let s := st 32 chain; (s.row 0).sbind = .row ∧ (s.row 0).southGone = false ∧ (s.row 0).nbind = .row) ∧
    (st 32 (fun r => { r with southGone := true })).job.rows ≠ [] ∧
    (let s := st 1024 chain
     let r := s.row s.cur
     r.Quiet ∧ r.outBuf = [] ∧ r.outside ∧ r.Fits .none ∧ r.Has [15] ∧ r.sbind ≠ .closed ∧ s.southShut s.cur = false ∧
       s.southRoom s.cur (r.L / 32) = true) ∧
    (let s := (st 1024 chain).setRow 1 (fifo 1 .none (tRow 1024))
     (s.row s.cur).sbind ≠ .closed ∧ s.southRoom s.cur 32 = false) ∧
    (let s := (st 1024 chain).setRow 1 (fifo 0 .none (tRow 1024)); s.southRoom s.cur 32 = true) ∧
    (st 32 id).job.rows ≠ [] ∧ ((st 32 id).row 0).sbind = .closed ∧
    ((st 32 (fun r => { chain r with southSealed := true })).row 0).southSealed = true := by
  simp only [Row.Quiet, Row.outside, Row.Fits, Row.Has]
  decide +kernel

theorem test_witness_PortPop :
    (let s := st 64 (fifo 2 .none)
     let r := s.row s.cur
     r.Quiet ∧ r.outside ∧ r.nbind ≠ .closed ∧ r.L ≤ 1024 ∧ r.Has [63] ∧ r.L / 32 ≤ r.north.entries.length) ∧
    (let r := (st 64 (fifo 1 .none)).row 0; r.north.entries.length < r.L / 32 ∧ r.sealed = false) ∧
    (let r := (st 64 (fifo 1 .present)).row 0; r.north.entries.length < r.L / 32 ∧ r.sealed = true) ∧
    (let r := (st 64 (fifo 0 .present)).row 0; r.north.entries.length = 0 ∧ r.sealed = true) ∧
    (let r := (st 64 id).row 0; r.Quiet ∧ r.outside ∧ r.nbind = .closed ∧ r.Has [63]) := by
  simp only [Row.Quiet, Row.outside, Row.Has]
  decide +kernel

/-- A buffer of two 256-byte slots, its slots and counts as given. -/
def cbuf (slots : Tbl SlotSt) (counts : Tbl Nat) (ended : Bool) : CBuf := ⟨0x80000000000000, 256, 2, slots, counts, 0, 0, ended, true⟩

/-- PRD into v1. -/
def prdWord : W64 := match encode (.prd ff 1 0) with | some w => w | none => 0

theorem test_witness_PortTransfers :
    (let s := st 32 (fifo 32 .none)
     let r := s.row s.cur
     s.ready ff ∧ r.outside ∧ r.outBuf = [] ∧ r.nbind ≠ .closed ∧ r.sbind ≠ .closed ∧ r.southSealed = false ∧
       s.southShut s.cur = false ∧ (31 : BitVec 5).toNat + 1 ≤ r.north.entries.length ∧ s.southRoom s.cur 32 = true) ∧
    ((st 32 (fun r => { r with sbind := .link 5 })).southShut 0 = true) ∧
    (let s := st 32 (fifo 31 .present)
     (s.row 0).north.entries.length < (31 : BitVec 5).toNat + 1 ∧ (s.row 0).sealed = true ∧ s.southRoom 0 31 = true) ∧
    (((st 32 (fifo 31 .none)).row 0).sealed = false) ∧
    (((st 32 (fifo 32 .none)).setRow 1 (fifo 32 .none (tRow 32))).southRoom 0 1 = false) ∧
    (let s := st 32 (fun r => { chain r with
        wait := some .portNorth, csr := { r.csr with pwd := 5 }, waitSince := 0
        arm := { r.arm with clause := ⟨0, 0xF, 0, 15, 15, false, [prdWord]⟩ } })
     let t := s.modDom 0 (fun d => { d with clk := 5 })
     t.live 0 = true ∧ (t.row 0).csr.pwd ≠ 0 ∧ t.portReady 0 = false ∧ (t.row 0).dueTrap = none ∧
       (t.row 0).csr.pwd.toNat ≤ (t.rowClk 0 - (t.row 0).waitSince).toNat ∧ 0 % 128 ≠ 127 ∧ t.southHeld 0 ≤ 255) ∧
    (let s := st 32 (fun r => { chain r with wait := some .portSouth, deferred := [⟨0x15, 8⟩] })
     s.live 0 = true ∧ (s.row 0).dueTrap ≠ none) ∧
    (let s := st 32 (fun r => { fifo 1 .none r with wait := some .portNorth }); s.portReady 0 = true) ∧
    (let s := (st 32 (fun r => { r with sbind := .cb 3, edgeOut := [⟨[], 0⟩], edgeSlot := some 1 })).setBuf 0 3 (cbuf [] [] false)
     (s.row 0).life ≠ .idle ∧ (s.row 0).edgeFill + 128 ≠ (s.buf 0 3).size) ∧
    -- a north edge: a slot partly presented, one wholly so with a filled slot behind it, and the end of the buffer
    (let s := (st 32 (fun r => { r with nbind := .cb 3, edgeIn := [(1, 2)], edgeNext := 1 })).setBuf 0 3
        (cbuf [(0, .filled), (1, .taken)] [(0, 256), (1, 256)] false)
     let c := s.buf 0 3
     (s.die 0).halted = false ∧ (s.row 0).edgeIn.getLast? = some (1, 2) ∧ (s.row 0).edgeNext < c.entries 1 ∧
       (s.row 0).north.entries.length < 32 ∧ ¬ c.entries 1 ≤ 1) ∧
    (let s := (st 32 (fun r => { r with nbind := .cb 3, edgeIn := [(1, 2)], edgeNext := 2 })).setBuf 0 3
        (cbuf [(0, .filled), (1, .taken)] [(0, 256), (1, 256)] false)
     let c := s.buf 0 3
     (∀ x ∈ (s.row 0).edgeIn.getLast?, c.entries x.1 ≤ 2) ∧ c.slot c.c = .filled ∧ c.count c.c ≠ 0) ∧
    (let s := (st 32 (fun r => { r with nbind := .cb 3 })).setBuf 0 3 (cbuf [] [] true)
     (∀ x ∈ (s.row 0).edgeIn.getLast?, (s.buf 0 3).entries x.1 ≤ 0) ∧ (s.buf 0 3).atEnd = true) ∧
    (State.reset.row 0).life = .idle := by
  simp only [State.ready, Row.Quiet, Row.outside]
  decide +kernel

theorem test_witness_BufferSlots :
    (let s := (st 32 (fun r => { r with s := [(1, 0x80000000000000), (2, 256), (3, 257)] })).setBuf 0 63
        (cbuf [(0, .filled)] [(0, 7)] false)
     let c := s.buf 0 63
     s.ready ff ∧ (s.row s.cur).outside ∧ c.setUp = true ∧ s.bufBound 0 63 false = false ∧ s.bufBound 0 63 true = false ∧
       c.slot c.c = .filled ∧ c.slot c.p ≠ .free ∧ c.ended = false ∧ c.find 0x80000000000000 .taken = none ∧
       c.find 0x80000000000000 .held = none) ∧
    (let s := st32.setBuf 0 63 (cbuf [(0, .taken)] [] false)
     let c := s.buf 0 63
     c.find 0x80000000000000 .taken = some 0 ∧ c.atEnd = false ∧ c.slot c.c ≠ .filled) ∧
    (let s := st32.setBuf 0 63 (cbuf [(0, .held)] [] false)
     let c := s.buf 0 63
     c.find 0x80000000000000 .held = some 0 ∧ c.size < 257 ∧ 256 ≤ c.size) ∧
    (let c := cbuf [] [] true; c.atEnd = true ∧ c.ended = true) ∧ (cbuf [] [] false).slot 0 = .free ∧
    (st32.buf 0 63).setUp = false ∧
    -- a placement that runs on row 0 with an edge bound, and one that does not run yet
    (let p : Pl := ⟨1, 8, 7, some 0, 1, 32, 0, 0, 0, 1, .cb 63, .closed, [], [], .running, [0], some 0, false⟩
     let at_ (p : Pl) : State := st32.modJob (fun j => { j with pls := [p] })
     (at_ p).bufBound 0 63 false = true ∧ (at_ { p with north := .closed, south := .cb 63 }).bufBound 0 63 true = true ∧
       (at_ { p with st := .queued }).bufBound 0 63 false = false) := by
  simp only [State.ready, Row.Quiet, Row.outside]
  decide +kernel

/-! Traps and memory. -/

theorem test_witness_TrapEntry :
    (st32.row 0).handler = false ∧
    (let s := st 32 (fun r => { r with handler := true })
     (s.row s.cur).Quiet ∧ (s.row s.cur).handler = true ∧ (s.row s.cur).guardQ ff = true ∧ (s.row s.cur).anyActs ff = true ∧
       (s.row s.cur).guardMask ff ≠ 0) ∧
    (let s := st 32 (fun r => { r with deferred := [⟨0x15, 8⟩] })
     ⟨0x15, 8⟩ ∈ (s.row 0).deferred ∧ ⟨0x15, 16⟩ ∉ (s.row 0).deferred ∧ (s.row 0).deferred.length < 8) ∧
    (let s := st 32 (fun r => { r with deferred := List.replicate 8 ⟨0x15, 8⟩ })
     ⟨0x15, 16⟩ ∉ (s.row 0).deferred ∧ 8 ≤ (s.row 0).deferred.length) := by
  simp only [Row.Quiet]
  decide +kernel

/-- Returning to the first and the last word of a clause of two, and to its header. -/
theorem test_witness_TrapAndReturn :
    (let s := st32; s.ready ff ∧ (s.row s.cur).handler = false ∧ (s.row s.cur).region = none) ∧
    (let c : Clause := ⟨64, 0xF, 0, 15, 15, false, [nopW, nopW]⟩
     let s := st 32 (fun r => { r with handler := true, trapClause := c, csr := { r.csr with epc := 80 } })
     let r := s.row s.cur
     s.ready ff ∧ r.handler = true ∧ r.trapClause.words.length ≤ 16 ∧
       r.csr.epc = r.trapClause.hdr + BitVec.ofNat 56 (8 * (1 + 1)) ∧ 1 < r.trapClause.words.length) ∧
    (let c : Clause := ⟨64, 0xF, 0, 15, 15, false, [nopW, nopW]⟩
     let r := (st 32 (fun r => { r with handler := true, trapClause := c, csr := { r.csr with epc := 64 } })).row 0
     r.handler = true ∧ r.csr.epc = r.trapClause.hdr) := by
  simp only [State.ready, Row.Quiet]
  decide +kernel

theorem test_witness_SystemInstructions :
    (let s := st32
     let r := s.row s.cur
     s.ready ff ∧ r.region = none ∧ r.handler = false ∧ r.guardQ f0 = false ∧ r.anyActs f0 = false ∧ r.Fits .none ∧
       r.Has [63, 1, 2]) ∧
    (let r := (st 1024 id).row 0
     r.Fits (.rot 9 0) ∧ r.vcount ≤ (16 : VReg).toNat ∧ (15 : VReg).toNat < r.vcount) ∧
    (let r := (st 32 id).row 0; r.L < amodSeg (.rot 5 0)) := by
  simp only [State.ready, Row.Quiet, Row.Fits, Row.Has]
  decide +kernel

/-- A region that began with so many tokens, and a row in it. -/
def regionAt (depth : Nat) : Region := ⟨[], 0, 0, 0, [], 0, 0, 0, depth, 0, 0⟩
/-- An MMAC of pair operands of n + 1 vectors, from memory, with the operands of `nk` and the results to `dk`. -/
def mm (n : BitVec 8) (nk dk : BitVec 2) : MmacF := ⟨5, dk, true, 2, n, 7, true, 0, nk, true⟩
def inRegion (depth : Nat) (r : Row) : Row := { r with region := some (regionAt depth) }

theorem test_witness_IdempotentRegion :
    (let s := st32; s.ready ff ∧ (s.row s.cur).handler = false ∧ (s.row s.cur).region = none ∧ (s.row s.cur).other = none) ∧
    (let s := st 32 twoArms; s.ready ff ∧ (s.row s.cur).region = none ∧ (s.row s.cur).other ≠ none) ∧
    (let s := st 32 (inRegion 0)
     s.ready ff ∧ (s.row s.cur).region ≠ none) ∧
    -- in a region: every operand there, a pool row's TARG apart; a split of p1's lanes with no token before it
    (let s := st 32 (fun r => inRegion 0 (halfSet r))
     let r := s.row s.cur
     r.Quiet ∧ r.handler = false ∧ r.region = some (regionAt 0) ∧ r.L ≤ 1024 ∧ r.guardQ ff = true ∧ r.anyActs ff = true ∧
       mmacIllegal (mm 0 0 0) r = false ∧ r.Has (mmacRegs (mm 0 0 0) r) ∧ r.Has (atomRegs .cas 62 0) ∧ r.Has [63] ∧ r.Fits .none ∧
       r.pool = none ∧ 31 < r.L ∧ r.guardL ff 31 = true ∧
       brvMasks s false 0xFFFF 0xFFFF0000 = true ∧ (0xFFFF : Mask) ≠ 0 ∧ r.arm.em &&& ~~~(0xFFFF : Mask) ≠ 0 ∧ r.tokdepth = 0) ∧
    -- tokens at the region's depth: the innermost one, and a LOOP token under a SPLIT token
    (let s := st 32 (fun r => inRegion 2 (withToks [tok .split none, tok .loop none] (halfSet r)))
     let r := s.row s.cur
     r.region = some (regionAt 2) ∧ r.tokdepth ≠ 0 ∧ r.tokdepth ≤ (regionAt 2).depth ∧ brvMasks s false 0xFFFF 0xFFFF0000 = true ∧
       r.arm.toks[1]? = some (tok .loop none) ∧ (tok .loop none).kind = .loop ∧
       (∀ j < 1, ∀ u ∈ r.arm.toks[j]?, u.kind ≠ .loop) ∧ r.tokdepth - 1 ≤ (regionAt 1).depth) := by
  simp only [State.ready, Row.Quiet, Row.Has, Row.Fits]
  decide +kernel

/-- The first byte of vault 2 of C0, and of vault 0 of C1 (Table 10-1). -/
def V : Nat := 0x80000002000000
def V1 : Nat := 0x80000100000000
/-- s1 holds an address. -/
def pointing (a : Nat) (r : Row) : Row := { r with s := [(1, BitVec.ofNat 64 a)] }

theorem test_witness_AccessesIssue :
    -- the edges of the address classes of R224, with a hole, a misaligned address and an owned granule
    (let s := (st32.modJob (fun j => { j with checked := [(sidePage V, true)] })).setOwner V 5
     2 ^ 56 ≤ (0x100000000000000 : W64).toNat ∧ (0x7FFFFFFFFFFFFF : W64).toNat < 2 ^ 55 ∧
       2 ^ 55 ≤ (0x80000000000000 : W64).toNat ∧ (0x80000400000000 : W64).extractLsb' 34 21 ≠ 0 ∧
       (0x80000020000000 : W64).extractLsb' 29 3 ≠ 0 ∧ (V + 1) % 4 ≠ 0 ∧ s.checked V = true ∧ s.owner V ≠ noOwner ∧
       s.owner V ≠ BitVec.ofNat 10 0 ∧ s.owner V = BitVec.ofNat 10 5 ∧ st32.checked V = false) ∧
    (let s := st 32 (pointing V)
     let r := s.row s.cur
     r.Quiet ∧ r.Has [63] ∧ r.L ≤ 1024 ∧ r.guardQ ff = true ∧ r.anyActs ff = true ∧
       ∀ l ∈ r.actLanes ff, s.elemFault s.cur 4 (BitVec.ofNat 64 (V + 4 * l)) = none ∧ s.checked (V + 4 * l) = false) ∧
    (let s := st 32 (pointing (V + 2))
     let r := s.row s.cur
     0 ∈ r.actLanes ff ∧ s.elemFault s.cur 4 (BitVec.ofNat 64 (V + 2)) = some cMisalign ∧
       ∀ l ∈ r.actLanes ff, ¬ l < 0) ∧
    ([⟨0, V, 1, false⟩, ⟨1, V, 2, false⟩] : List StoreElem).length = 2 ∧
    (st32.row 0).anyActs f0 = false ∧ (AccKind.acquire .die).scope ≠ none ∧ AccKind.ordinary.scope = none := by
  simp only [Row.Quiet, Row.Has]
  decide +kernel

/-- A row whose entry 15 is in the state given, with fires under way. -/
def pegged (x : PegSt) (fires : List Fire) (r : Row) (side : Bool := false) : Row :=
  { r with peg := [(15, ⟨0, 0, BitVec.ofNat 64 V, 0, 1, x, side, some 2, 0, .single, 0, fires⟩)] }

/-- A load of one word, and a store of one word, under way. -/
def loading (e : LoadElem) (r : Row) : Row :=
  { r with ops := [⟨7, .single, some 3, .load (.vreg 1) 4 false false .ordinary [e]⟩], arm := r.arm.setFlag 3 }
def storing (ord : AccKind) (r : Row) : Row := { r with ops := [⟨7, .single, none, .store 4 1 ord [⟨0, V, 9, false⟩]⟩] }

/-- A fire of entry 15 that has landed with a 7 over a 5 at V, and a PEGW on that entry. -/
def withLanded (taken : Option Nat) (id : Nat) : State :=
  (st 32 (fun r => { r with landed := [⟨15, 0, taken, V, 5, 7⟩], ops := [⟨id, .single, none, .pegw 15 0 0⟩] })).setByte V 7

theorem test_witness_AccessesPerform :
    (let s := st 32 (loading ⟨0, V, none, false⟩)
     (s.row 0).findOp 7 = some ⟨7, .single, some 3, .load (.vreg 1) 4 false false .ordinary [⟨0, V, none, false⟩]⟩ ∧
       (s.orderRow 0).loadReady 7 .ordinary 4 [⟨0, V, none, false⟩] 0 = true ∧ (s.row 0).deferred = [] ∧ (s.orderRow 0).findOp 7 = (s.row 0).findOp 7 ∧
       s.barred 0 V = false ∧ s.farAt 0 V = none ∧ s.farMixed 0 V 4 = false ∧
       ((s.modJob (fun j => { j with checked := [(sidePage V, true)] })).setOwner V 5).barred 0 V = true) ∧
    (let s := (st32.modDie 1 (fun y => { y with far := (List.range 4).map (fun k => (V + k, some ⟨9, true, 3⟩)) }))
     s.cacheable 1 V = true ∧ s.farAt 1 V = some ⟨9, true, 3⟩ ∧ s.farMixed 1 V 4 = false) ∧
    (let s := st 32 (loading ⟨31, V, some 9, false⟩)
     (s.row 0).findOp 7 = some ⟨7, .single, some 3, .load (.vreg 1) 4 false false .ordinary [⟨31, V, some 9, false⟩]⟩ ∧
       31 < (s.row 0).L ∧ (s.row 0).armId = .single ∧ (s.row 0).flagHeld 7 .single 3 = false) ∧
    (let s := st 32 (storing .ordinary)
     (s.row 0).findOp 7 = some ⟨7, .single, none, .store 4 1 .ordinary [⟨0, V, 9, false⟩]⟩ ∧
       (s.orderRow 0).findOp 7 = (s.row 0).findOp 7 ∧ s.barred 0 V = false ∧
       (∀ y ∈ (s.row 0).landed, y.addr ≠ V) ∧
       (s.orderRow 0).storeReady 7 .ordinary 4 [⟨0, V, 9, false⟩] 0 = true ∧ s.cacheable 0 V = false ∧ s.cacheable 1 V = true) ∧
    (let s := st 32 (storing .volatile)
     (s.row 0).findOp 7 = some ⟨7, .single, none, .store 4 1 .volatile [⟨0, V, 9, false⟩]⟩ ∧
       (s.orderRow 0).storeReady 7 .volatile 4 [⟨0, V, 9, false⟩] 0 = true ∧ (s.die 0).far = []) ∧
    -- a tile's byte over a 5 that the row wrote, before the PEGW with number 9 that takes it, and after that with number 3
    (let s := withLanded none 9
     s.nearByte 0 V = (⟨15, 0, none, V, 5, 7⟩ : Landed).new ∧ (s.row 0).landed = ⟨15, 0, none, V, 5, 7⟩ :: [] ∧
       (s.row 0).hides 8 ⟨15, 0, none, V, 5, 7⟩ = true ∧ ((s.row 0).pegws 15)[0]?.map Op.id = some 9 ∧
       s.ownByte 0 8 V = 5) ∧
    (let s := withLanded (some 3) 9
     s.nearByte 0 V = 7 ∧ (s.row 0).landed = [⟨15, 0, some 3, V, 5, 7⟩] ∧ (s.row 0).hides 8 ⟨15, 0, some 3, V, 5, 7⟩ = false ∧
       s.ownByte 0 8 V = 7) ∧
    (0 < 8 ∧ 8 ≤ 8) := by decide +kernel

theorem test_witness_FencesAndOwnership :
    (let s := st 32 (fun r => { r with ops := [⟨7, .single, none, .fence .full .device⟩] })
     (s.row s.cur).findOp 7 = some ⟨7, .single, none, .fence .full .device⟩ ∧ (s.orderRow s.cur).fenceReady 7 .full = true ∧
       ((s.row s.cur).view s.drawn).guardQ ff = true ∧ ∃ o ∈ (s.row s.cur).ops, o.kind.isFence = true) ∧
    (let s := st 32 (fun r => { r with ops := [⟨6, .single, none, .store 4 1 .ordinary [⟨0, V, 9, false⟩]⟩,
        ⟨7, .single, none, .fence .full .device⟩] })
     (s.row s.cur).findOp 7 = some ⟨7, .single, none, .fence .full .device⟩ ∧ (s.orderRow s.cur).fenceReady 7 .full = false) ∧
    -- two free granules of a checked page
    (let s := (st 32 (fun r => { r with s := [(1, BitVec.ofNat 64 V), (2, 2)] })).modJob
        (fun j => { j with checked := [(sidePage V, true)] })
     s.ready ff ∧ (s.row s.cur).outside ∧ V % 64 = 0 ∧ ((s.row s.cur).sreg 2).toNat = 2 ∧
       (∀ k ∈ [V, V + 64], sideFault (BitVec.ofNat 64 k) = none ∧ s.checked k = true ∧ s.owner k = noOwner) ∧
       granuleOf (V + 64) ≠ granuleOf (V + 128) ∧ granuleOf (V + 127) = granuleOf (V + 64)) ∧
    (let s := st 32 (fun r => { r with s := [(1, BitVec.ofNat 64 (V + 1)), (2, 0), (3, 1025)] })
     s.ready ff ∧ ((s.row s.cur).sreg 2).toNat = 0 ∧ 1024 < ((s.row s.cur).sreg 3).toNat ∧
       ((s.row s.cur).sreg 1).toNat % 64 ≠ 0) := by
  simp only [State.ready, Row.Quiet, Row.outside]
  decide +kernel

/-- An atomic under way on two lanes, of one element or of two. -/
def atoming (b : Nat) (r : Row) : Row :=
  { r with ops := [⟨7, .single, none, .atomic .add .none 4 0 .ordinary [⟨0, V, 0, 1, 0, none, false⟩, ⟨1, b, 0, 2, 0, none, false⟩]⟩] }

theorem test_witness_Atomics :
    (let s := st 32 (fun r => { pointing V r with arm := { r.arm with em := 1 } })
     let r := s.row s.cur
     r.Quiet ∧ r.L ≤ 1024 ∧ r.outside ∧ r.Has (atomRegs .cas 62 0) ∧ r.anyActs ff = true ∧ r.guardQ ff = true ∧
       r.actLanes ff = [0] ∧ atomKeys s.cur 4 .relaxed s.draw [BitVec.ofNat 64 V] = (.ok [V], s.draw) ∧
       s.checked V = false ∧ sideBase ≤ V ∧ s.elemFault s.cur 8 (BitVec.ofNat 64 V) = none ∧
       atomKeys s.cur 4 .relaxed s.draw [BitVec.ofNat 64 (V + 1)] = (.error (cMisalign, BitVec.ofNat 64 (V + 1)), s.draw)) ∧
    (let s := st 32 (atoming V)
     (s.orderRow 0).atomReady 7 .ordinary 4 ⟨0, V, 0, 1, 0, none, false⟩ = true ∧ (s.die 0).far = [] ∧ (s.row 0).deferred = [] ∧
       (s.row 0).landed = [] ∧ s.barred 0 V = false ∧ ((s.modJob (fun j => { j with checked := [(sidePage V, true)] })).setOwner V 5).barred 0 V = true) ∧
    ((st32.row 0).anyActs f0 = false ∧ (st32.row 0).arm.em ≠ 0 ∧ (State.reset.row 0).anyActs ff = false ∧
      (State.reset.row 0).arm.em = 0) ∧
    (let s := st 32 (atoming (V + 4))
     (s.row 0).findOp 7 = some ⟨7, .single, none, .atomic .add .none 4 0 .ordinary
       [⟨0, V, 0, 1, 0, none, false⟩, ⟨1, V + 4, 0, 2, 0, none, false⟩]⟩ ∧ V + 4 ≠ V) := by
  simp only [Row.Quiet, Row.Has, Row.outside]
  refine ⟨⟨by decide +kernel, by decide +kernel, by decide +kernel, by decide +kernel, by decide +kernel, by decide +kernel,
    by decide +kernel, rfl, by decide +kernel, by decide +kernel, by decide +kernel, rfl⟩, ?_⟩
  decide +kernel

/-! The matrix array, barriers, pegs and the ring. -/

theorem test_witness_ResiduePipeline :
    (∀ k, k < 256 → -128 ≤ (fun _ => -128 : Nat → Int) k ∧ (fun _ => -128 : Nat → Int) k ≤ 127) ∧
    (∀ k, k < 256 → 0 ≤ (fun _ => 255 : Nat → Int) k ∧ (fun _ => 255 : Nat → Int) k ≤ 255) := by decide +kernel

/-- A full latch of width 8. -/
def latch8 : Latch := ⟨.full, 8, true, [], 0, 0, []⟩
/-- Blocks at V, their scales behind them. -/
def pairing (r : Row) : Row := { pointing V r with s := [(1, BitVec.ofNat 64 V), (2, BitVec.ofNat 64 V), (6, BitVec.ofNat 64 (V + 1))] }

theorem test_witness_MatrixIssue :
    (let s := st 128 (fun r => { pairing r with active := latch8 })
     let r := s.row s.cur
     s.ready ff ∧ r.outside ∧ r.mat.banked = false ∧ r.handler = false ∧ r.shadow.st = .empty ∧
       operandFault s s.cur (r.sreg 1) (r.sreg 4) 7 127 true = none ∧
       operandFault s s.cur (r.sreg 6) (r.sreg 4) 7 127 true = some (cMisalign, r.sreg 6) ∧
       mmacIllegal (mm 255 0 0) r = false ∧ r.Has (mmacRegs (mm 255 0 0) r) ∧
       mmacFault s s.cur (mm 255 0 0) (r.sreg 2) (r.sreg 3) = none ∧
       mmacFault s s.cur (mm 255 1 0) (r.sreg 2) (r.sreg 3) = some (cPortClosed, 0)) ∧
    (let r := (st 64 id).row 0; mmacIllegal (mm 0 0 2) r = true) ∧
    -- a range that begins at or beyond the count of a row of 1,024 lanes
    (let s := st 1024 id
     let r := s.row s.cur
     let f : MmacF := ⟨16, 2, false, 20, 0, 7, true, 1, 0, true⟩
     s.ready ff ∧ r.outside ∧ mmacIllegal f r = false ∧ f.dk = 2 ∧ r.vcount ≤ f.d.toNat ∧
       mmacIllegal { f with dk := 0 } r = false ∧ r.vcount ≤ f.a.toNat) ∧
    (let r := (st 32 (fun r => { r with shadow := latch8 })).row 0; r.shadow.st = .full) ∧
    (let s := st 128 (fun r => { r with handler := true })
     let r := s.row s.cur
     s.ready ff ∧ r.handler = true ∧ r.settled = true ∧ r.outside) := by
  simp only [State.ready, Row.Quiet, Row.outside, Row.Has]
  decide +kernel

/-- An MMAC at the head of the array's queue. -/
def inArray (f : MmacF) (r : Row) : Row :=
  { chain r with active := latch8, queue := [⟨0, .mmac 0 f (BitVec.ofNat 64 V) 0 0 0 0⟩], vgranted := true }
/-- A vector on its way to accumulator entry 5, or to the south port. -/
def vec (push : Bool) : VecFlight := ⟨if push then none else some 5, none, push, List.replicate 128 7, 0, false, 0, 0⟩

theorem test_witness_VectorFlow :
    (let s := st 128 (inArray (mm 0 2 0)); s.vectorReady 0 = true ∧ (s.row 0).vgranted = true) ∧
    (let s := st 128 (fun r => { inArray (mm 1 1 1) r with north := ⟨List.replicate 4 ⟨[], 0⟩, [], .none⟩ })
     s.vectorReady 0 = true ∧ (s.row 0).vgranted = true) ∧
    (let r := (st 128 (fun r => { r with inflight := [vec false] })).row 0
     r.outBuf = [] ∧ r.inflight = vec false :: [] ∧ (vec false).last = false ∧ (vec false).vals.length = 128 ∧
       (vec false).push = false) ∧
    (let s := st 128 (fun r => { chain r with inflight := [vec true] })
     let r := s.row 0
     r.inflight = vec true :: [] ∧ (vec true).push = true ∧ s.pushReady 0 (vec true) = true ∧ r.sbind = .row ∧
       r.southGone = false ∧ r.outBuf = [] ∧ (vec true).last = false ∧ s.barred 0 V = false ∧ (s.die 0).far = []) ∧
    -- a frozen array with no room south; the last vector of an MMAC
    (let s := (st 128 (fun r => { chain r with inflight := [vec true], frozen := true })).setRow 1 (fifo 32 .none (tRow 32))
     s.pushReady 0 (vec true) = false ∧ (s.row 0).frozen = true ∧ (s.row 0).outBuf = []) ∧
    (let x : VecFlight := { vec false with last := true }
     let r := (st 128 (fun r => { inArray (mm 0 0 0) r with inflight := [x] })).row 0
     r.outBuf = [] ∧ r.inflight = [x] ∧ x.last = true ∧ x.push = false ∧ x.src = 0 ∧
       r.queue = ⟨x.seq, .mmac 0 (mm 0 0 0) (BitVec.ofNat 64 V) 0 0 0 0⟩ :: []) ∧
    (let s := st 32 (fun r => { r with queue := [⟨0, .swap⟩], shadow := { latch8 with st := .swapQueued } })
     (s.row 0).entering = ⟨0, .swap⟩ :: [] ∧ (s.row 0).frozen = false ∧ (s.die (0 / 128)).halted = false ∧ (s.row 0).outBuf = [] ∧
       (s.row 0).mat.banked = false ∧ ({ (s.row 0).mat with banked := true } : Bank).banked = true) ∧
    -- a vector that has entered stands before the slot that enters next
    (let s := st 128 (fun r => { inArray (mm 0 0 0) r with queue := [⟨0, .mmac 0 (mm 0 0 0) 0 0 0 1 0⟩, ⟨1, .swap⟩] })
     (s.row 0).entering = ⟨1, .swap⟩ :: []) ∧
    (let k (b : Bool) (c : Nat) : Op := ⟨7, .single, none, .wld (BitVec.ofNat 64 V) 0 127 7 true none b c⟩
     (let r := (st 32 (fun r => { r with ops := [k false 0] })).row 0
      r.ops = [k false 0] ∧ r.mat.banked = false ∧ r.peg = [] ∧ r.shadow.st ≠ .swapQueued ∧ r.queue = []) ∧
     (let r := (st 32 (fun r => { r with ops := [k true 127], shadow := { latch8 with st := .filling } })).row 0
      r.ops = [k true 127] ∧ 127 ≤ 127 ∧ r.shadow.sgn = true ∧ r.queue = []) ∧
     (let r := (st 32 (fun r => { r with ops := [k true 128], shadow := { latch8 with st := .filling } })).row 0
      r.ops = [k true 128] ∧ 127 < 128)) ∧
    (let s := st 128 (fun r => { inArray (mm 0 1 0) r with north := ⟨List.replicate 3 ⟨[], 0⟩, [], .present⟩ })
     let r := s.row 0
     r.north.entries.length < 4 ∧ r.sealed = true ∧ r.arrStop = .run ∧ r.deferred = [] ∧ r.frozen = false ∧ r.outBuf = [] ∧
       blockMeets (BitVec.ofNat 64 V) 0 7 true (V + 255) 1 0 = true) ∧
    -- an operand's byte in a buffered store before the MMAC with number 9, and one that nothing covers
    (let s := st 128 (storing .ordinary)
     (s.row 0).buffered 9 V = some 9 ∧ (s.row 0).buffered 9 (V + 4) = none ∧ (∀ y ∈ (s.row 0).landed, y.addr ≠ V + 4) ∧
       s.barred 0 V = false ∧ (1 : Nat) ≠ 0) ∧
    (let s := (st 128 (fun r => { inArray (mm 0 1 0) r with wait := some .queue, csr := { r.csr with pwd := 9 } })).modDom 0
        (fun d => { d with clk := 9 })
     let r := s.row 0
     r.life = .running ∧ (s.die 0).halted = false ∧ r.waitsForArray = true ∧ r.csr.pwd ≠ 0 ∧
       r.csr.pwd.toNat ≤ (s.rowClk 0 - r.waitSince).toNat ∧ r.csr.pwd.toNat ≤ (s.rowClk 0 - r.arrSince).toNat ∧
       s.arrayStalled 0 = some 2 ∧ r.deferred = [] ∧ r.handler = false) := by
  and_intros <;> decide +kernel
theorem test_witness_no_operand_read : (∀ a m, (st32.row 0).mmacMeets 7 a m = false) ∧
    ((st 32 (fun r => { r with frozen := true })).row 0).frozen = true := ⟨fun _ _ => rfl, by decide +kernel⟩

/-- Memory that holds the first four bytes of an image at V. -/
def imageHead (s : State) : State := s.modJob (fun j => { j with mem := [(V, 0x01), (V + 2, 0x3C), (V + 3, 0x5A)] })

theorem test_witness_AccumulatorAccess :
    (let s := st 32 (fun r => { r with transfer := true }); (s.row 0).transfer = true ∧ Peg.free.side = false) ∧
    (let s := st 1024 id
     let r := s.row s.cur
     r.Quiet ∧ r.outside ∧ r.settled = true ∧ r.Has [15] ∧ r.L ≤ 1024 ∧ r.anyActs ff = true ∧ r.guardQ ff = true) ∧
    (latch8.w ≤ 8 ∧ latch8.st ≠ .empty) ∧
    (let s := imageHead (st 32 (fun r => { r with s := [(1, BitVec.ofNat 64 V), (2, BitVec.ofNat 64 (V + 63))] }))
     let r := s.row s.cur
     let get (o : Nat) : W8 := s.ownByte s.cur r.nextId (V + o)
     s.ready ff ∧ r.landed = [] ∧ r.outside ∧ r.settled = true ∧ r.outBuf = [] ∧ r.mat.banked = false ∧ (r.sreg 2).toNat % 64 ≠ 0 ∧
       (r.sreg 1).toNat = V ∧ V % 64 = 0 ∧ imageBad r get r.handler = none ∧
       imageBad r (fun _ => 0) r.handler = some 0) ∧
    (latch8.held = true ∧ 2 ≤ latch8.w ∧ latch8.w ≤ 8 ∧ latch8.st = .full) ∧ Latch.reset.held = false ∧ (st32.row 0).wldWaits = false := by
  simp only [State.ready, Row.Quiet, Row.outside, Row.Has]
  decide +kernel
theorem test_witness_image_range : rangeFault (st 32 id) 0 (BitVec.ofNat 64 V) 140288 = none := by decide +kernel

/-- A group of the band's first row or first two rows, with slots and a count; the placement that has it. -/
def grp (rows : BitVec 512) (n : Nat) (x : BarSlot) : Group := ⟨3, rows, [(0, x)], n, 0, redFresh, none, none, 0, 0⟩
def plWith (g : Group) : Pl :=
  ⟨1, 8, 7, some 0, 2, 32, 0, 0, 0, 1, .closed, .closed, [g], [], .running, [0], some 0, false⟩
/-- Rows 0 and 1 of placement 1. -/
def placed (g : Group) : State :=
  ((st 32 (fun r => { r with pl := some 1 })).setRow 1 { tRow 32 with pl := some 1 }).modJob (fun j => { j with pls := [plWith g] })

theorem test_witness_Barriers :
    (let s := placed (grp 1 1 .idle)
     let r := s.row s.cur
     let p := plWith (grp 1 1 .idle)
     let t := s.draw.arrive s.cur p (grp 1 1 .idle) .add ((r.sreg 2).setWidth 32) (some r.arm.pc)
     s.ready ff ∧ r.outside ∧ r.pool = none ∧ r.other = none ∧ r.arm.barPark = 0 ∧ r.barAbsent = false ∧
       s.groupOf s.cur 3 = some (p, grp 1 1 .idle) ∧ (grp 1 1 .idle).slot s.cur = .idle ∧ r.barParked = 0 ∧ r.barUneven = false ∧
       (grp 1 1 .idle).expected ≤ 1 ∧
       (t.groupOf s.cur 3).map (fun x => x.2.slot s.cur) = some (.complete 0 (some 8)) ∧ s.groupOf s.cur 4 = none) ∧
    -- lanes at another BAR, lanes still to come, and lanes parked under other tokens
    (let r := { tRow 32 with arm := { (tRow 32).arm with em := 0xFFFF, barPark := 0xFFFF0000, barAt := 16 } }
     r.barParked ≠ 0 ∧ r.lastBar ≠ r.arm.pc) ∧
    (let r := halfSet { tRow 32 with arm := { (tRow 32).arm with em := 0xFFFF, toks := [⟨.split, some 24, 16, 0xFFFF0000, 0, 0⟩] } }
     r.barParked = 0 ∧ r.barAbsent = true) ∧
    (let r := { tRow 32 with arm := { (tRow 32).arm with em := 0xFFFF, barPark := 0xFFFF0000, barAt := 8, barDepth := 1 } }
     r.lastBar = r.arm.pc ∧ r.barAbsent = false ∧ r.barUneven = true) ∧
    (let s := placed (grp 3 2 .idle)
     let t := s.draw.arrive s.cur (plWith (grp 3 2 .idle)) (grp 3 2 .idle) .add 5 (some 8)
     s.groupOf s.cur 3 = some (plWith (grp 3 2 .idle), grp 3 2 .idle) ∧ 2 ≤ (grp 3 2 .idle).expected ∧
       (t.groupOf s.cur 3).map (fun x => x.2.slot s.cur) = some (.arrived .add (some 8))) ∧
    (let s := placed (grp 3 2 (.complete 9 none))
     s.ready ff ∧ (grp 3 2 (.complete 9 none)).slot s.cur = .complete 9 none ∧
       s.groupOf s.cur 3 = some (plWith (grp 3 2 (.complete 9 none)), grp 3 2 (.complete 9 none))) ∧
    ((grp 3 1 (.arrived .or none)).slot 0 = .arrived .or none) ∧
    ((grp 3 2 (.complete 9 (some 8))).slot 0 = .complete 9 (some (st32.row st32.cur).arm.pc) ∧ (grp 3 1 (.arrived .or (some 8))).slot 0 = .arrived .or (some (st32.row st32.cur).arm.pc) ∧
      (none : Option Va) ≠ some (st32.row st32.cur).arm.pc) ∧
    -- TRIG of a placed row, the first of its band and the last; a row that has triggered
    (let s := placed (grp 3 2 .idle)
     let p := plWith (grp 3 2 .idle)
     s.ready ff ∧ (s.row s.cur).outside ∧ (s.row s.cur).pool = none ∧ (s.row s.cur).pl = some 1 ∧ (s.row s.cur).triggered = false ∧
       s.findPl 1 = some p ∧ p.st = .running ∧ p.early = false ∧ 1 ∈ p.band ∧ s.member p 1 = true ∧ (s.row 1).triggered = false) ∧
    (let s := ((placed (grp 3 2 .idle)).modRow 0 (fun r => { r with triggered := true })).modRow 1 (fun r => { r with triggered := true })
     let p := plWith (grp 3 2 .idle)
     s.ready ff ∧ (s.row s.cur).outside ∧ (s.row s.cur).pool = none ∧ (s.row s.cur).triggered = true ∧ s.findPl 1 = some p ∧
       ∀ m ∈ p.band, s.member p m = true → (s.row m).triggered = true) ∧
    ((tRow 32).other = none ∧ (twoArms (tRow 32)).other = some { (tRow 32).arm with st := .finished }) ∧
    (let s := st 32 (fun r => { r with pool := some 0 }); s.ready ff ∧ (s.row s.cur).pool ≠ none) ∧
    (let s := st 32 (fun r => { r with arm := { r.arm with flags := 1 } })
     s.ready ff ∧ (s.row s.cur).pl = none ∧ (s.row s.cur).flagsSet true 1 = true ∧ (s.row s.cur).flagsSet true 0xFFE = false) ∧
    BarOp.or ≠ BarOp.none ∧ (grp 3 1 .idle).slot 511 = .idle ∧ (0 : Nat) ≠ 511 := by
  simp only [State.ready, Row.Quiet, Row.outside]
  and_intros <;> decide +kernel

theorem test_witness_PegInstructions :
    (let s := st 32 (pegged .armed []); s.ready ff ∧ (s.row s.cur).outside ∧ ((s.row s.cur).pegAt 15).st = .armed) ∧
    (let s := st 32 (fun r => { r with s := [(2, BitVec.ofNat 64 V), (3, BitVec.ofNat 64 V1), (4, BitVec.ofNat 64 (V + 32))] })
     let r := s.row s.cur
     let here (t : W64) : Prop := t.getLsbD 55 = true ∧ (t.extractLsb' 32 2).toNat = s.cur / 128
     s.ready ff ∧ (r.pegAt 15).st ≠ .armed ∧ here (r.sreg 2) ∧ (r.sreg 2).toNat % 64 = 0 ∧
       pegRange s s.cur (r.sreg 2) = none ∧ ¬ here (r.sreg 3) ∧ here (r.sreg 4) ∧ (r.sreg 4).toNat % 64 ≠ 0 ∧
       ∀ k < 16, (r.pegAt k).fires = []) ∧
    (let s := st 32 (pegged .armed [⟨[], [], true⟩])
     s.ready ff ∧ ∃ k < 16, (0x8000 : BitVec 16).getLsbD k = true ∧ ((s.row s.cur).pegAt k).fires ≠ []) := by
  simp only [State.ready, Row.Quiet, Row.outside]
  decide +kernel

/-- A ring at work on a table, and one with items on it that die 0 is to pass. -/
def feeding (l : List RingEnt) : State := st32.modRing (fun g => { g with table := l, running := true })
def carrying (l : List RingItem) : State := State.reset.modRing (fun g => { g with items := l })

theorem test_witness_RingFlow :
    ((feeding [.gap 0]).job.ring.table ≠ [] ∧ (feeding [.gap 0]).job.ring.next = none ∧
      (st32.modRing (fun g => { g with table := [.gap 0] })).job.ring.running = false) ∧
    ((feeding [.gap 9]).job.ring.table[0]? = some (.gap 9) ∧ (feeding [.segment 255]).job.ring.table[0]? = some (.segment 255)) ∧
    (let s := (feeding [.tile 4096 8]).setByte 4105 8
     let b := s.job.ring.reads s 4096 (64 * (3 + 64 * 8))
     s.job.ring.got = [] ∧ s.job.ring.running = true ∧ s.job.ring.table[s.job.ring.pos]? = some (.tile 4096 8) ∧ s.stalled 4096 = false ∧
       tileAt b 8 = 0 ∧ tileW b = 8) ∧
    (let g := (carrying [.marker 9]).job.ring
     let x := (carrying [.marker 9]).die 0
     g.items[x.ringPos - g.base]? = some (.marker 9)) ∧
    ((carrying [.idle 3]).job.ring.items[0]? = some (.idle 3)) ∧
    ((carrying [.gap 1 255 7 2]).job.ring.items[0]? = some (.gap 1 255 7 2)) ∧
    ((carrying [.tile 1 0 1 0 []]).job.ring.items[0]? = some (.tile 1 0 1 0 []) ∧ (carrying [.tile 1 0 1 0 []]).job.rows = []) ∧
    (let s := (carrying [.gap 1 1 1 1]).modDie 0 (fun d => { d with ringPos := 1 })
     (s.die 1).ringPos < (s.die 0).ringPos ∧ s.job.ring.items[(s.die 1).ringPos - s.job.ring.base]? = some (.gap 1 1 1 1)) ∧
    ((State.reset.die 0).ringPos ≤ (State.reset.die 1).ringPos) ∧
    (let s := st 32 (pegged .armed [])
     let r := s.row 0
     let e := r.pegAt 15
     let t : List W8 := []
     e.st = .armed ∧ r.pegHeld 15 = false ∧ (tileNum t 0 ^^^ e.tag) &&& e.mask = 0 ∧ ¬ (tileNum t 4).toNat < e.minver.toNat ∧
       s.canTake 0 e = true ∧ e.side = false ∧ r.mat.banked = false) ∧
    (let s := st 32 (fun r => { pegged .armed [] r with shadow := latch8 }); s.canTake 0 ((s.row 0).pegAt 15) = false) ∧
    (tileNum [] 4).toNat < (1 : W32).toNat ∧ (let r := (st 32 (pegged .free [])).row 0; (r.pegAt 15).st ≠ .armed) ∧
    (let r := (st 32 (pegged .armed [⟨[], [], true⟩])).row 0; (r.pegAt 15).fires = ⟨[], [], true⟩ :: []) ∧
    (let r := (st 32 (pegged .armed [⟨[], [4111], true⟩])).row 0; (r.pegAt 15).fires = ⟨[], [4111], true⟩ :: [] ∧ [4111] ≠ []) ∧
    (let s := (st 32 (fun r => { r with ops := [⟨7, .single, none, .pegw 15 9 0⟩] })).modDie 0 (fun d => { d with clk := 9 })
     (s.row 0).ops = [⟨7, .single, none, .pegw 15 9 0⟩] ∧ (s.row 0).life = .running ∧ (s.die 0).halted = false ∧
       (9 : W64) ≠ 0 ∧ (9 : W64).toNat ≤ (s.clkOf 0 - 0).toNat ∧ (s.row 0).deferred = []) ∧
    -- a commit with its four targets, with and without a tile half read, one still without them, and a tile that it puts off
    (let b : Commit := ⟨0, 0, [], [[], [], [], []], false⟩
     let s := st32.modJob (fun j => { j with commit := some b })
     s.job.commit = some b ∧ s.job.ring.got = [] ∧ b.targets.length = 4 ∧ (s.modRing (fun g => { g with got := [0] })).job.ring.got ≠ [] ∧
       ({ b with targets := [] } : Commit).targets.length ≠ 4 ∧ st32.job.commit = none) ∧
    (let s := (feeding [.tile 4096 8]).modJob (fun j => { j with commit := some ⟨0, 0, [], [[], [], [], [4096]], true⟩ })
     s.job.ring.running = true ∧ s.job.ring.table[s.job.ring.pos]? = some (.tile 4096 8) ∧ s.job.ring.got = [] ∧
       s.stalled 4096 = true) ∧
    -- a PEGW alone, of an armed entry with a fire and without one, and of an entry that is free
    (let s (x : PegSt) (u : Nat) : State := st 32 (fun r => { r with
        peg := [(15, ⟨0, 0, 0, 0, 1, x, false, none, u, .single, 0, []⟩)], ops := [⟨7, .single, none, .pegw 15 0 0⟩] })
     (∀ x ∈ [PegSt.armed, .free], ∀ u ∈ [0, 1], ((s x u).row 0).ops = [⟨7, .single, none, .pegw 15 0 0⟩] ∧
       (((s x u).row 0).pegAt 15).st = x ∧ (((s x u).row 0).pegAt 15).unc = u) ∧ (st32.die 0).halted = false) := by
  decide +kernel

/-- n waits outstanding. -/
def waiting (n : Nat) (r : Row) : Row := { r with ops := List.replicate n ⟨7, .single, none, .pegw 1 0 0⟩ }

theorem test_witness_WaitLimit :
    ([0, 15, 16].all fun n =>
      let r := (st 32 (waiting n)).row 0
      decide (r.ops.all (fun o => match o.kind with | .pegw _ _ _ => true | _ => false) = true ∧ r.queue = [] ∧
        r.inflight = [] ∧ r.guardQ ff = true ∧ r.region = none ∧ r.ops.length = n)) = true := by decide +kernel

/-! Engines, links and tasks. -/

/-- Memory written with a few bytes. -/
def withMem (l : List (Nat × W8)) (s : State) : State := s.modJob (fun j => { j with mem := l })
/-- A draft at V of a descriptor of one 4-byte element at V + 4096 within an allocation range. -/
def drafted : State :=
  (withMem [(V + 1, 0x10), (V + 3, 2), (V + 6, 0x80), (V + 8, 2), (V + 12, 1), (V + 16, 1), (V + 20, 1), (V + 24, 1), (V + 28, 1)]
    (st 32 (fun r => { r with s := [(1, BitVec.ofNat 64 V), (2, 0x405), (3, BitVec.ofNat 64 (V + 64)), (4, 0x800)] }))).modJob
    (fun j => { j with alloc := [⟨V, 65536, true⟩] })
/-- The engine of command `c`, with a fault. -/
def atWork (d e : Nat) (c : Option Cmd) (fault : Nat) (s : State) : State :=
  s.setEng d e ⟨BitVec.ofNat 64 V, 0, 9, fault, 0, 0, c, 0, []⟩

theorem test_witness_EngineControl :
    (let s := drafted
     let r := s.row s.cur
     let x := r.sreg 1
     let near := (s.fillFor (s.cur / 128) x.toNat 64).fillFor (s.cur / 128) (x.toNat + 64) 64
     let bytes : List W8 := (List.range 128).map (fun i => near.nearByte (s.cur / 128) (x.toNat + i))
     let legal (y : W64) : Prop := y.extractLsb' 26 38 = 0 ∧ y.extractLsb' 12 4 = 0 ∧ (y.getLsbD 11 = true → y.getLsbD 10 = true)
     s.ready ff ∧ r.outside ∧ x.toNat % 128 = 0 ∧
       s.firstFault s.cur 1 ((List.range 128).map (fun i => x + BitVec.ofNat 64 i)) = none ∧ legal (r.sreg 2) ∧ ¬ legal (r.sreg 4) ∧
       (r.sreg 3).toNat % 128 ≠ 0 ∧ draftBad bytes (draftOf bytes (r.sreg 2)) = none ∧
       s.draw.descFault (draftOf bytes (r.sreg 2)) = none ∧
       (s.modJob (fun j => { j with alloc := [] })).draw.descFault (draftOf bytes (r.sreg 2)) =
         some (cBounds, BitVec.ofNat 64 (V + 4096)) ∧
       draftBad (bytes.set 8 11) (draftOf (bytes.set 8 11) (r.sreg 2)) = some 8) ∧
    ((atWork 3 7 none 5 st32).eng 3 7).fault ≠ 0 ∧ sideFault ((atWork 3 7 none 5 st32).eng 3 7).head = none ∧ (st32.eng 3 7).fault = 0 ∧ (st32.eng 3 7).idle = true ∧
    ((atWork 3 7 none 0 st32).eng 3 7).idle = false := by
  simp only [State.ready, Row.Quiet, Row.outside]
  decide +kernel

/-- A box of one element of format f, padded or not; a destination. -/
def box (f lo hi : Nat) (dst : Bool) : Desc :=
  ⟨BitVec.ofNat 64 (V + if dst then 4096 else 0), f, 0, [(0, 1 + lo + hi), (1, 1), (2, 1), (3, 1), (4, 1)], [(0, 8)], [(0, lo)], [(0, hi)],
   5, dst, none, true⟩
/-- A command of a kind with further words, its descriptors and its place. -/
def cmd (k : Nat) (w : Tbl W64) (pos phase : Nat) (lo : Nat) : Cmd :=
  ⟨(0, BitVec.ofNat 64 k) :: w, some (box 3 0 0 false), some (box 3 lo 0 true), pos, phase, none, 0, false, [], [], 0, [], []⟩
/-- An MMAC of pair operands into an entry, as a follow-on has it. -/
def foWord : W64 := match encode (.mmac ff (mm 0 0 0)) with | some w => w | none => 0

theorem test_witness_Engines :
    (let c := cmd 1 [(2, BitVec.ofNat 64 V), (3, BitVec.ofNat 64 (V + 4097)), (4, 9)] 7 0 0
     let s := atWork 0 1 (some c) 0 st32
     let a := c.word 3 + BitVec.ofNat 64 c.pos
     let b := c.word 2 + BitVec.ofNat 64 c.pos
     let n := min (8 - a.toNat % 8) ((c.word 4).toNat - c.pos)
     let ok (a : W64) : Prop := ∀ i, i < n → sideFault (a + BitVec.ofNat 64 i) = none ∧ s.checked (a + BitVec.ofNat 64 i).toNat = false
     (s.eng 0 1).cmd = some c ∧ (s.eng 0 1).fault = 0 ∧ (s.die 0).halted = false ∧ c.phase = 0 ∧ c.kind = 1 ∧ ok a ∧ ok b ∧ n = 2) ∧
    ([(5, 0), (2, 0), (2, 1), (4, 0), (4, 1), (3, 0)].all (fun (k, lo) =>
      let c := cmd k [] 0 0 lo
      let q := c.into
      let dst := q.byteAddr (q.idx (c.pos / q.pieces)) 0
      decide (c.phase = 0 ∧ c.kind = k ∧ q.isInner (q.idx 0) = (lo == 0) ∧ q.piece = 8 ∧ sideFault dst = none ∧
        sideFault (dst + 7) = none ∧ 0 < q.sz 0 ∧ 0 < q.sz 4 ∧ 0 < q.total ∧
        (q.work ≤ c.pos + 1 ∨ q.pieceAddr (c.pos + 1) >>> 3 ≠ q.pieceAddr c.pos >>> 3))) = true) ∧
    -- three bytes of one unit
    (let q : Desc := { box 0 0 0 true with size := [(0, 3), (1, 1), (2, 1), (3, 1), (4, 1)], stride := [(0, 1)] }
     let c : Cmd := { cmd 5 [] 0 0 0 with dst := some q }
     c.into.work = 3 ∧ (∀ j < 3, c.into.pieceAddr j >>> 3 = c.into.pieceAddr 0 >>> 3 ∧ sideFault (c.into.pieceAddr j) = none) ∧
       c.into.piece = 1) ∧
    (let c : Cmd := { cmd 3 [] 1 0 0 with src := some (box 4 0 0 false), dst := some (box 4 0 0 true) }
     c.kind = 3 ∧ c.pos % c.into.pieces ≠ 0 ∧ c.into.isInner (c.into.idx 0) = true) ∧
    (let s := atWork 0 1 none 0 st32
     let g := s.eng 0 1
     let rec_ : List W8 := (List.range 128).map (fun i => s.byte (g.head + BitVec.ofNat 64 i).toNat)
     let w (i : Nat) : W64 := BitVec.ofNat 64 (leVal ((rec_.drop (8 * i)).take 8))
     g.fault = 0 ∧ (s.die 0).halted = false ∧ g.idle = false ∧ g.cmd = none ∧ g.head.toNat % 128 = 0 ∧ (s.die 0).far = [] ∧
       (∀ i, i < 128 → sideFault (g.head + BitVec.ofNat 64 i) = none ∧ s.checked (g.head + BitVec.ofNat 64 i).toNat = false) ∧
       startFault s 0 w (s.desc (srcHandle w)) (s.desc (dstHandle w)) = some 1) ∧
    (let w : Nat → W64 := fun i => if i = 1 then BitVec.ofNat 64 (V + 128) else 0
     startFault st32 0 w (st32.desc (srcHandle w)) (st32.desc (dstHandle w)) = none) ∧
    (let c := cmd 0 [] 0 1 0; c.fo = false ∧ c.phase = 1) ∧ (cmd 9 [] 0 0 0).kind = 9 ∧ st32.bufBusy 0 0 = false ∧
    ((st32.setBuf 0 0 (cbuf [(0, .taken)] [] false)).bufBusy 0 0 = true) ∧
    (let c := cmd 7 [(3, 63)] 0 0 0
     let s := (atWork 0 1 (some c) 0 st32).setBuf 0 63 (cbuf [] [] false)
     c.kind = 7 ∧ c.slot = none ∧ s.bufBad 0 ((c.word 3).toNat % 64) true = false ∧
       (s.buf 0 63).slot (s.buf 0 63).p = .free) ∧
    (let s := st32.setBuf 0 63 (cbuf [(0, .filled)] [] false)
     s.bufBad 0 63 true = false ∧ (s.buf 0 63).slot (s.buf 0 63).p ≠ .free ∧ s.bufBad 0 63 false = false ∧
       (s.buf 0 63).slot (s.buf 0 63).c = .filled) ∧
    (let s := st32.setBuf 0 63 (cbuf [] [] true)
     let c := cmd 8 [] 0 0 0
     c.kind = 8 ∧ c.pos / c.into.E ≤ c.into.lastInner ∧ c.slot = none ∧ s.bufBad 0 63 false = false ∧ (s.buf 0 63).atEnd = true) ∧
    ((cmd 6 [] 0 0 0).kind = 6 ∧ st32.job.commit = none) ∧
    (let c : Cmd := ⟨[(0, 0x2001), (12, foWord), (13, BitVec.ofNat 64 V)], none, none, 0, 1, none, 0, false, [], [], 0, [], []⟩
     let s := atWork 0 1 (some c) 0 (st 32 (fun r => { r with active := latch8 }))
     let r := s.row c.row
     c.fo = true ∧ c.phase = 1 ∧ decode (c.word 12) = .ok (.mmac ff (mm 0 0 0)) ∧ r.life ≠ .idle ∧
       mmacIllegal (mm 0 0 0) r = false ∧ r.Has (mmacRegs (mm 0 0 0) r) ∧
       mmacFault s c.row (mm 0 0 0) (c.word 13) (c.word 14) = none ∧ r.queue.length < 4) := by
  simp only [Row.Has]
  and_intros <;> decide +kernel

/-- Two members, this device the first, and a path by port 0; eight for XOR-REDUCE. -/
def pair2 : Comm := ⟨2, 0, 1, 1, [], []⟩
def octet8 : Comm := ⟨8, 1, 1, 1, [], [(7, 1)]⟩
/-- An engine of C0 at a link command of a kind whose peer is rank 1, in a stage, with port 0 up or down. -/
def lcmd (k : Nat) (w : Tbl W64) (fill : Nat) : Cmd :=
  ⟨[(0, BitVec.ofNat 64 k), (2, BitVec.ofNat 64 V), (4, 1024), (5, 0x10000), (6, 9)] ++ w, none, none, 0, 0, none, fill, false, [], [], 0, [], []⟩
def linked (c : Cmd) (m : Comm) (rx : List Msg) (up : Bool) : State :=
  ((atWork 0 1 (some c) 0 st32).modJob (fun j => { j with comms := [(0, m)], linkRx := rx })).setPort 0 { Port.reset with up := up }
/-- An announcement of rank 1 with its kind and what else must agree; a cell of raw data from it. -/
def announce (k also : Nat) : Msg := ⟨0, 1, 9, 0, k, 1024, also, [], 0, 0⟩
def rawCell (peer cmd : Nat) (p : List W8) : Msg := ⟨0, peer, 9, 1, cmd, 1024, 0, p, 0, 0⟩
/-- The four cells of a compressed block from rank 1. -/
def blockCells (cmd : Nat) : List Msg := (List.range 4).map (fun i =>
  ⟨0, 1, 9, 2, cmd, 1024, i, ((List.replicate 256 (0 : W8)).drop (64 * i)).take 64, if i = 0 then BitVec.ofNat 32 127 else 0, 0⟩)

theorem test_witness_Links :
    (let c := lcmd 0x10 [] 0
     let s := linked c pair2 [] true
     let g := s.eng 0 1
     g.cmd = some c ∧ g.fault = 0 ∧ (s.die 0).halted = false ∧ c.phase = 0 ∧ c.kind = 0x10 ∧ c.fill = 0 ∧ linkFault s c = none ∧
       linkFault (linked c pair2 [] false) c = some 12 ∧ c.roles (s.comm c.comm) = [(1, true)] ∧ s.linkBusy c = false) ∧
    -- sixteen commands at work on one link engine; an earlier command with the same key
    (let c := lcmd 0x10 [] 1
     let s := (List.range 16).foldl (fun s i => atWork (i / 8) (i % 8) (some c) 0 s) (linked c pair2 [] true)
     s.linkBusy (lcmd 0x10 [] 0) = true) ∧
    (let c := lcmd 0x10 [] 1
     let s := atWork 0 2 (some { c with ser := 1 }) 0 (linked c pair2 [] true)
     s.linkBehind { c with ser := 1 } = true ∧ s.linkBehind c = false) ∧
    (let c := lcmd 0x10 [] 1
     let s := linked c pair2 [announce 0x11 0] true
     c.fill = 1 ∧ (∀ r ∈ c.roles (s.comm c.comm), s.pathUp ((s.comm c.comm).mask r.1) = true) ∧
       s.partner c (1, true) = some (announce 0x11 0) ∧ agrees c (s.comm c.comm) (1, true) (announce 0x11 0) = true ∧
       agrees c (s.comm c.comm) (1, true) (announce 0x11 1) = false ∧ (linked c pair2 [] true).partner c (1, true) = none ∧
       (linked c pair2 [announce 0x11 1] true).partner c (1, true) = some (announce 0x11 1)) ∧
    -- another command of the same communicator and tag beside one that faults
    (let c := lcmd 0x10 [] 0
     let s := atWork 0 2 (some { lcmd 0x11 [] 1 with ser := 1 }) 0 (linked c pair2 [] false)
     linkFault s c = some 12 ∧ (linkCmds s (fun x => x.comm == c.comm && x.tag == c.tag)).map (fun y => (y.1, y.2.1)) = [(0, 1), (0, 2)]) ∧
    (let s := linked (lcmd 0x11 [] 2) pair2 [] false; s.pathUp ((s.comm 0).mask 1) = false) ∧
    ([0, 1, 7, 63].all (fun i => sideFault (BitVec.ofNat 64 V + BitVec.ofNat 64 i) == none) = true ∧
      sideFault (BitVec.ofNat 64 (V + 1023)) = none ∧ st32.checked V = false) ∧
    ((lcmd 0x10 [] 2).packed = false ∧ (lcmd 0x10 [(6, 0x100000009)] 2).packed = false ∧
      ({ lcmd 0x10 [] 2 with w := [(0, 0x10), (4, 1024), (6, 0x100000009)] } : Cmd).packed = true) ∧
    (let s := linked (lcmd 0x11 [] 2) pair2 [rawCell 1 0x11 (List.replicate 64 7)] true
     s.job.linkRx = [⟨0, 1, 9, 1, 0x11, 1024, 0, List.replicate 64 7, 0, (lcmd 0x11 [] 2).mate 1⟩]) ∧
    (let c : Cmd := { lcmd 0x11 [] 2 with w := [(0, 0x11), (3, BitVec.ofNat 64 V), (4, 1024), (5, 0x10000), (6, 0x100000009)] }
     let s := linked c pair2 (blockCells 0x11) true
     c.packed = true ∧ c.peer = (s.comm c.comm).prev ∧ 127 < 256 ∧ s.job.linkRx.length = 4) ∧
    (let c (x : W64) := lcmd 0x12 [(7, x)] 2
     (c 1).first = true ∧ (c 1).last = false ∧ (c 0).first = false ∧ (c 0).last = false ∧ (c 2).last = true ∧ (c 2).first = false) ∧
    (let c := lcmd 0x13 [(7, 0x703)] 2; octet8.rank ≠ c.holder octet8) ∧
    (let c := lcmd 0x13 [(7, 0x183)] 2
     octet8.rank = c.holder octet8 ∧ c.contribs { octet8 with rank := 1 } = [0, 1, 7]) ∧
    (let c := lcmd 0x13 [(7, 0x182)] 2; octet8.rank = c.holder octet8 ∧ c.contribs octet8 = [octet8.rank, 7] ∧ (7 : Nat) ≠ octet8.rank) ∧
    (let c := lcmd 0x14 [(3, BitVec.ofNat 64 (V + 4096))] 2
     1024 ≤ c.bytes ∧ c.pos < c.bytes ∧ c.sources = [c.word 2] ∧ chunkPlace c { pair2 with rank := 1 } 0 = 0 ∧
       chunkPlace c { pair2 with rank := 1 } 0 < pair2.n - 1) ∧
    (let c : Cmd := { lcmd 0x14 [] 2 with w := [(0, 0x14), (2, BitVec.ofNat 64 V), (4, 3072), (6, 9)] }
     let m : Comm := ⟨3, 2, 1, 1, [], []⟩
     chunkPlace c m 0 = 1 ∧ chunkPlace c m 0 < m.n - 1) ∧
    (let c : Cmd := { lcmd 0x11 [(3, BitVec.ofNat 64 V)] 2 with buf := [7] }; c.buf ≠ [] ∧ sideFault (c.word 3) = none) ∧
    (let c : Cmd := { lcmd 0x12 [(3, BitVec.ofNat 64 V), (6, 0x200000009)] 2 with buf := [7], held := [127, 0] }
     c.buf.length ≤ 8 ∧ c.held = BitVec.ofNat 8 127 :: [0] ∧ 127 < 256) ∧
    (let c := lcmd 0x10 [] 1
     let s := linked c pair2 [] true
     linkCmds s (fun c => c.comm == 0 && c.tag.toNat == 9) = [(0, 1, c)] ∧ (s.eng 0 1).cmd = some c ∧ c.fill = 1 ∧
       linkCmds s (fun c => c.comm == 1 && c.tag.toNat == 9) = [] ∧ s.job.aborts = [] ∧ c.roles (s.comm 0) = [(1, true)] ∧
       (lcmd 0x10 [] 2).fill ≠ 1 ∧ (linked c pair2 [announce 0x11 1] true).partner c (1, true) = some (announce 0x11 1)) := by
  and_intros <;> decide +kernel

/-- Ports, cells and their copies: a cell of each channel that the port takes, one that it does not, and its buffers. -/
theorem test_witness_link_cells :
    (let x : Port := { Port.reset with up := true, rxFails := 15, asked := true }
     (st32.setPort 15 x).port 15 = x ∧ 15 ≤ x.rxFails ∧ ({ x with rxFails := 14 } : Port).rxFails < 15) ∧
    (st32.port 3).up = false ∧ ¬ 16 ≤ 3 ∧
    (let tag : W64 := 0x10100
     let c : Cell := ⟨0, tag, Config.crc24 0 tag⟩
     let x : Port := { Port.reset with up := true, rxSeq := 1, room := [(0, 1)] }
     c.crc = Config.crc24 c.payload c.tag ∧ c.tag.extractLsb' 9 7 = 0 ∧ c.tag.extractLsb' 16 16 = x.rxSeq ∧
       ¬ c.tag.extractLsb' 16 16 = (2 : BitVec 16) ∧ (c.tag.extractLsb' 0 2).toNat = 0 ∧ c.tag.getLsbD 8 = true ∧
       tget [] x.parts 0 = [] ∧ tget 0 x.room 0 ≠ 0 ∧ tget 0 x.room 2 = 0 ∧ tagTraffic 0 c = false ∧ tagTraffic 2 c = false ∧ 3 < 16 ∧ 16 ≤ 16) ∧
    (let s := st 32 (fun r => { r with nbind := .link 0 })
     (s.row 0).life ≠ .idle ∧ (s.row 0).nbind = .link 0 ∧ tget false s.job.saved 0 = false ∧ (s.row 0).nbind ≠ .link 3 ∧
       (0x002 : W64).getLsbD 8 = false ∧
       (s.row 0).north.entries.length + (s.row 0).north.flight.length < 128 ∧ (s.row 0).north.sealAt = .none ∧
       ((0x102 : W64).extractLsb' 0 2).toNat = 2 ∧ Port.reset.chainIn = []) ∧
    ((0x103 : W64).extractLsb' 0 2).toNat = 3 ∧ (0x103 : W64).getLsbD 8 = true ∧
    (let x : Port := { Port.reset with up := true, copies := [⟨0, 0, 0⟩, ⟨0, 0x10000, 0⟩], txFails := 14 }
     x.copies.findIdx? (fun c => c.tag.extractLsb' 16 16 == (1 : BitVec 16)) = some 1 ∧ 0 < 1 ∧
       x.copies.findIdx? (fun c => c.tag.extractLsb' 16 16 == (0 : BitVec 16)) = some 0 ∧ x.txFails < 15) ∧
    (let e : PEntry := ⟨[], 5⟩; (chainCells e).length = 2) ∧
    (let x : Port := { Port.reset with up := true, credit := [(2, 2)] }; x.may 0 2 2 = true ∧ x.may 0 2 1 = true) ∧
    Port.reset.may 0 2 2 = false ∧
    -- an announcement of a command that has ended; row 0's port sealed, and one that a link's end seals
    (let s := st32.modJob (fun j => { j with aborts := [(0, 9, 1, 5)] })
     let v := [0, 1, 9, 0, 0x10, 1024, 0, 5]
     v.getD 3 0 ≠ 5 ∧ (v.getD 0 0, (BitVec.ofNat 32 (v.getD 2 0)).toNat, v.getD 1 0, v.getD 7 0) ∈ s.job.aborts) ∧
    (let s := st 32 (fifo 0 .present); (s.row 0).north.sealAt ≠ .none ∧ (s.row 0).life ≠ .idle) ∧
    (let s := st 32 (fun r => { r with nbind := .link 0 })
     (s.row 0).nbind = .link 0 ∧ tget false s.job.saved 0 = false ∧ (s.row 0).life ≠ .idle ∧ s.job.chainOld = [] ∧
       (s.port 0).chainIn = [] ∧ (s.row 0).north.sealAt = .none) := by
  refine ⟨by decide +kernel, by decide +kernel, by decide +kernel, ⟨rfl, by decide +kernel⟩,
    ⟨by decide +kernel, by decide +kernel, by decide +kernel, by decide +kernel, by decide +kernel, by decide +kernel, by decide +kernel,
      by decide +kernel, rfl⟩,
    by decide +kernel, by decide +kernel, by decide +kernel, rfl, by decide +kernel, by decide +kernel, by decide +kernel,
    by decide +kernel, by decide +kernel⟩

theorem test_witness_WaveInstructions :
    (let s := st 32 (fun r => { r with pool := some 0 })
     let r := s.row s.cur
     r.Quiet ∧ r.outside ∧ r.L ≤ 1024 ∧ r.Has [63] ∧ r.pool ≠ none ∧ r.anyActs ff = true ∧ r.guardQ ff = true ∧
       r.anyActs f0 = false) ∧
    (let s := st 32 (fun r => { r with arm := { r.arm with em := 0 } })
     let r := s.row s.cur
     r.Quiet ∧ r.pool = none ∧ 31 < r.L ∧ r.guardL ff 31 = true ∧ r.guardQ ff = true) := by
  simp only [Row.Quiet, Row.Has, Row.outside]
  decide +kernel

/-- Task queue 3 of C0 with 1,024 slots, of which some are reserved. -/
def queued (res : Nat) (s : State) : State := s.setTq 0 3 ⟨0x10000, 10, 0, 0, res⟩

theorem test_witness_SpawnAndJoin :
    (let s := queued 928 (st 32 (fun r => { r with s := [(1, 8), (2, BitVec.ofNat 64 V), (3, 4), (4, 0x80000000000000), (5, 32)] }))
     let r := s.row s.cur
     let ls := r.actLanes ff
     s.acting ff ∧ r.outside ∧ r.spawn = none ∧ r.Has [60, 63] ∧ (r.sreg 1).extractLsb' 55 9 = 0 ∧ (r.sreg 1).toNat % 8 = 0 ∧
       (r.sreg 2).toNat % 64 = 0 ∧ ls.length + 64 ≤ (s.tq 0 3).free ∧ (r.sreg 2).getLsbD 55 = true ∧
       s.elemFault s.cur 8 (r.sreg 2) = none ∧ ¬ ls.length + 64 ≤ ((queued 929 s).tq 0 3).free ∧
       (r.sreg 4).extractLsb' 55 9 ≠ 0 ∧ (r.sreg 3).toNat % 8 ≠ 0 ∧ (r.sreg 5).toNat % 64 ≠ 0 ∧ (s.die 0).far = []) ∧
    -- a SPAWN behind a store, with slots for its records or without; one that has its slots, and its accesses performed or not
    (let s := queued 928 (st 32 (fun r => { storing .ordinary r with s := [(1, 8), (2, BitVec.ofNat 64 V)] }))
     let r := s.row s.cur
     let v := r.view s.drawn
     r.outside ∧ r.spawn = none ∧ r.drained = false ∧ r.heldBy = false ∧ v.anyActs ff = true ∧ (v.sreg 1).extractLsb' 55 9 = 0 ∧
       (v.sreg 1).toNat % 8 = 0 ∧ (v.sreg 2).toNat % 64 = 0 ∧ (v.actLanes ff).length + 64 ≤ (s.tq 0 3).free ∧
       ((queued 929 s).tq 0 3).free < (v.actLanes ff).length + 64 ∧
       ({ r with spawn := some ⟨3, none, [.zero]⟩ } : Row).spawn = some ⟨3, none, [.zero]⟩ ∧ (tRow 32).drained = true) ∧
    (let s := st 32 (fun r => { pointing V r with pool := some 0, taskBuf := [(0, ⟨8, 0, BitVec.ofNat 64 V, []⟩)] })
     let r := s.row s.cur
     s.acting ff ∧ r.outside ∧ r.tjoin = none ∧ r.pool ≠ none ∧ (tget .zero r.taskBuf 0).join = BitVec.ofNat 64 V ∧ V % 64 = 0 ∧
       (BitVec.ofNat 64 V).getLsbD 55 = true ∧ s.elemFault s.cur 8 (BitVec.ofNat 64 V) = none ∧ 32 ≤ (s.die 0).contFree) ∧
    (let s := (st 32 (pointing V)).modDie 0 (fun d => { d with contReserved := 64 })
     let r := s.row s.cur
     let ls := ((r.actLanes ff).map (fun l => (l, r.sreg 1))).filter (fun x => x.2 != 0)
     (s.die 0).contFree = 0 ∧ ls.head? = some (0, BitVec.ofNat 64 V)) ∧
    ((V + 32) % 64 ≠ 0) ∧
    -- a decrement due, and one behind a store
    (let s := st 32 (fun r => { r with ops := [⟨7, .single, none, .join 7 (BitVec.ofNat 64 V) V⟩] })
     (s.row 0).joins = [(7, 7, BitVec.ofNat 64 V, V)] ∧ (s.orderRow 0).drainedTo 7 = true ∧ (s.die 0).far = [] ∧ (s.row 0).landed = [] ∧
       (BitVec.ofNat 64 V).getLsbD 55 = true ∧ (s.row 0).wait ≠ some .contBuf) ∧
    -- two decrements, of one counter and of two
    ([V, V + 64].all (fun k =>
      let s := st 32 (fun r => { r with ops := [⟨7, .single, none, .join 7 (BitVec.ofNat 64 V) V⟩, ⟨8, .single, none, .join 7 (BitVec.ofNat 64 k) k⟩] })
      decide ((s.row 0).joins = [(7, 7, BitVec.ofNat 64 V, V), (8, 7, BitVec.ofNat 64 k, k)] ∧ (s.orderRow 0).drainedTo 7 = true ∧
        (s.row 0).wait ≠ some .contBuf)) = true) ∧
    (let s := st 32 (fun r => { r with ops := [⟨6, .single, none, .store 4 1 .ordinary [⟨0, V, 9, false⟩]⟩,
        ⟨7, .single, none, .join 7 (BitVec.ofNat 64 V) V⟩] })
     (s.row 0).joins.head? = some (7, 7, BitVec.ofNat 64 V, V) ∧ (s.orderRow 0).drainedTo 7 = false) := by
  simp only [State.acting, Row.Quiet, Row.Has, Row.outside]
  and_intros <;> decide +kernel

/-- A window of C0 with records of two entries, and an idle pool row. -/
def rcd (e : W64) (p : Nat) : WinRec := ⟨⟨e, 0, 0, []⟩, p, 0⟩
def windowed (d : Nat) (l : List WinRec) (s : State) : State := s.modDie d (fun y => { y with window := l })
def poolRow (r : Row) : Row := { r with life := .idle, pool := some 0 }

theorem test_witness_TaskFlow :
    (let s := st32.modDie 0 (fun y => { y with arriving := [⟨3, [⟨8, 0, 0, []⟩]⟩] })
     (s.die 0).arriving = [⟨3, [⟨8, 0, 0, []⟩]⟩] ∧ (st32.die 0).arriving = []) ∧
    (let s := (queued 0 st32).modDie 0 (fun y => { y with cont := [(3, .zero)] })
     (s.die 0).cont.find? (fun x => x.1 == 3) = some (3, .zero) ∧ (s.tq 0 3).free ≠ 0 ∧ (st32.tq 0 3).free = 0) ∧
    (let s := st32.setTq 0 2 ⟨0x10000, 10, 1023, 1, 0⟩
     (s.die 0).halted = false ∧ (s.die 0).window.length < 256 ∧ 2 < 4 ∧ (∀ p, p < 4 → 2 < p → (s.tq 0 p).count = 0) ∧
       (s.tq 0 2).count ≠ 0) ∧ (∀ p, p < 4 → (st32.tq 0 p).count = 0) ∧
    (let s := windowed 0 [rcd 8 3, rcd 16 3, rcd 16 3, rcd 8 1] (st 32 poolRow)
     let r := s.row 0
     let w := waveOf (s.die 0).window (s.die 0).clk r.resident
     (s.die 0).halted = false ∧ r.life = .idle ∧ r.pool ≠ none ∧ r.unbind = false ∧ w = [rcd 16 3, rcd 16 3]) ∧
    (let s := windowed 1 [rcd 8 3, rcd 8 0] (st 32 poolRow)
     s.mayAsk 0 = true ∧ (s.die 0).steal.asked < 3 ∧ 2 ≤ (s.die 1).window.length ∧ ∀ x ∈ (s.die 1).window, x.pri < 4) ∧
    (let s := st 32 poolRow; s.mayAsk 0 = true ∧ (s.die 1).window.length < 2 ∧ (s.die 0).window.length < 256) ∧
    -- a die with a row at work asks none; a request on its way goes on although the die has work now
    ((st32.die 0).steal.asked = 0 ∧ st32.mayAsk 0 = false) ∧
    (let s := (windowed 0 [rcd 8 3] st32).modDie 0 (fun y => { y with steal := ⟨2, none⟩ })
     (s.die 0).steal.asked ≠ 0 ∧ (s.die 0).steal.asked < 3 ∧ s.mayAsk 0 = false) := by decide +kernel

/-! Rows, power and the device. -/

/-- A page table at 4096 that maps the first 128 MiB to the first 2 MiB of memory for every use but atomics, and further bytes
from 0x8000 on. -/
def pages (l : List (Nat × W8)) (s : State) : State := s.modJob (fun j => { j with
  root := 4096
  mem := [(0x1000, 1), (0x1001, 0x20), (0x2000, 1), (0x2001, 0x30), (0x3000, 1), (0x3001, 0x40)]
    ++ (List.range 64).map (fun i => (0x4000 + 8 * i, (15 : W8))) ++ l })
/-- A clause of one NOP at 0x8000 that waits for flag 0 or for nothing. -/
def clauseAt (wait : W8) : List (Nat × W8) :=
  [(0x8003, 0xC0), (0x8004, 0x3F + wait), (0x8006, 0xC0), (0x8007, 0xDF), (0x800E, 0xFF)]
def oneNop (wait : BitVec 12) : Clause := ⟨0x8000, 0xF, wait, 15, 15, false, [nopW]⟩
/-- A row at the clause boundary at 0x8000. -/
def atHeader (r : Row) : Row := { r with arm := { r.arm with pc := 0x8000, clause := ⟨0x8000, 0, 0, 0, 0, false, []⟩ } }
def fetched (s : State) : Except W8 Clause := (s.fetchClause 0 (s.row 0).arm.pc).1

theorem test_witness_ClausesAndRetirement :
    (let s := pages (clauseAt 0) (st 32 atHeader)
     let r := s.row 0
     s.live 0 = true ∧ r.arm.clause.words = [] ∧ r.arm.clause.hdr = r.arm.pc ∧ r.nextDeferred = none ∧ r.req = none ∧
       (match fetched s with | .ok c => decide (c = oneNop 0 ∧ c.wait &&& r.arm.flags = 0) | _ => false) = true) ∧
    (let s := pages (clauseAt 0x40) (st 32 (fun r => atHeader { r with arm := { r.arm with flags := 1 } }))
     (match fetched s with | .ok c => decide (c = oneNop 1 ∧ c.wait &&& (s.row 0).arm.flags ≠ 0) | _ => false) = true) ∧
    (match fetched (st 32 atHeader) with | .error x => decide (x = cXlate) | _ => false) = true ∧
    (let r := (st 32 (fun r => { atHeader r with req := some (oneNop 0), granted := true })).row 0
     r.granted = true ∧ r.req = some (oneNop 0)) ∧
    (let s := st 32 (fun r => { r with life := .idle }); s.live 0 = false) ∧
    (let s := st 32 (fun r => { atHeader r with deferred := [⟨0x15, 8⟩, ⟨0x10, 9⟩] })
     let r := s.row 0
     s.live 0 = true ∧ r.nextDeferred = some ⟨0x10, 9⟩ ∧ r.handler = false ∧ r.deferred ≠ [] ∧ r.granted = false) ∧
    (let r := (st 32 (fun r => { r with deferred := [⟨0x15, 8⟩], wait := some .opLimit })).row 0
     r.nextDeferred = some ⟨0x15, 8⟩ ∧ r.wait = some .opLimit) ∧
    (let s := st 32 (fun r => { r with deferred := [⟨0x15, 8⟩], wait := some .operands })
     s.live 0 = true ∧ (s.row 0).nextDeferred = some ⟨0x15, 8⟩ ∧ (s.row 0).wait = some .operands ∧ (s.row 0).retake = false ∧
       (s.row 0).arm.clause.words ≠ []) ∧
    -- a BAR behind memory accesses, and a row that ERET has brought back with another trap pending
    (let r := (st 32 (fun r => { r with
        deferred := [⟨0x15, 8⟩], wait := some .memory
        arm := { r.arm with clause := ⟨0, 0xF, 0, 15, 15, false, [prdWord]⟩ } })).row 0
     r.wait = some .memory ∧ r.atPortWord = true ∧ r.nextDeferred = some ⟨0x15, 8⟩) ∧
    (let r := (st 32 (fun r => { r with deferred := [⟨0x15, 8⟩], retake := true })).row 0
     r.retake = true ∧ r.nextDeferred = some ⟨0x15, 8⟩) ∧
    (let r := (st 32 (fun r => { r with deferred := [⟨0x15, 8⟩], wait := some .flags })).row 0
     r.nextDeferred = some ⟨0x15, 8⟩ ∧ r.wait = some .flags ∧ r.arm.clause.words ≠ []) ∧
    (let r := (st 32 (fun r => { r with handler := true })).row 0; r.handler = true) ∧
    (let s := State.reset.setRow 1 { chain (tRow 32) with life := .retiring }
     let r := s.row 1
     r.life = .retiring ∧ (s.die 0).halted = false ∧ r.finished = true ∧ r.pool = none ∧ r.pl = none ∧ 0 < 1 ∧ r.nbind = .row ∧
       r.sbind = .row ∧ r.southSealed = false ∧ r.southGone = false) ∧
    ((st 32 (fun r => { r with life := .retiring, ops := [⟨7, .single, none, .fence .full .device⟩] })).row 0).finished = false ∧
    -- the middle row of a placement of three, while another row of it goes on
    (let p := { plWith (grp 1 1 .idle) with rows := 3 }
     let s := ((st 32 (fun r => { r with pl := some 1 })).setRow 1 { chain (tRow 32) with life := .retiring, pl := some 1 }).modJob
       (fun j => { j with pls := [p] })
     let r := s.row 1
     r.life = .retiring ∧ (s.die (1 / 128)).halted = false ∧ r.finished = true ∧ r.pool = none ∧ r.pl = some 1 ∧ s.findPl 1 = some p ∧
       0 ∈ p.band ∧ s.member p 0 = true ∧ 0 < 1 ∧ r.nbind = .row ∧ r.sbind = .row ∧ r.southSealed = false ∧ r.southGone = false) ∧
    -- the last row of a placement, with and without a command of its rows at work; after it has retired
    (let p := plWith (grp 1 1 .idle)
     let s := (st 32 (fun r => { r with life := .retiring, pl := some 1 })).modJob (fun j => { j with pls := [p] })
     (s.row 0).pl = some 1 ∧ s.job.pls = [p] ∧ p.num = 1 ∧ p.st = .running ∧ (∀ m ∈ p.band, m ≠ 0 → s.member p m = false) ∧
       s.copying 1 = false ∧ (s.setEng 0 1 ⟨BitVec.ofNat 64 V, 0, 9, 0, 0, 0, none, 0, [(1, 9)]⟩).copying 1 = true) ∧
    (let p := plWith (grp 1 1 .idle)
     let s := State.reset.modJob (fun j => { j with pls := [p] })
     (s.row 0).life = .idle ∧ (s.die (0 / 128)).halted = false ∧ 0 ∈ p.band ∧ s.copying 1 = false ∧
       ∀ m ∈ p.band, m ≠ 0 → s.member p m = false) ∧
    (((st32.modDie 0 (fun d => { d with halted := true })).die 0).halted = true) := by
  and_intros <;> decide +kernel

/-- Placement 1 in the queue of die 0, floating or fixed, its parts secured or not. -/
def toPlace (top : Option Nat) (secured : List Nat) (cls : Nat) : State :=
  let p : Pl := { plWith (grp 1 1 .idle) with st := .queued, top := top, topAt := if top.isNone then some 0 else none, secured := secured, cls := cls }
  (State.reset.modJob (fun j => { j with pls := [p] })).modDie 0 (fun d => { d with plq := [(0, [1])] })

theorem test_witness_Placements :
    (let s := toPlace none [] 0
     s.parts 0 = s.job.pls ∧ [0, 1] ∈ s.positions (s.job.pls.headD (plWith (grp 1 1 .idle))) 0 ∧
       (∀ n ∈ [0, 1], s.freeFor 0 n = true) ∧ (s.nextSecure 0).map (fun x => x.2) = some [0, 1] ∧ (s.die 0).halted = false) ∧
    (let s := toPlace (some 126) [] 3; (s.nextSecure 0).map (fun x => x.2) = some [126, 127]) ∧
    (State.reset.nextSecure 3).isNone = true ∧
    -- the head's fixed band is held, and a part behind it starts elsewhere
    (let s0 := toPlace (some 0) [] 0
     let s := ((s0.modJob (fun j => { j with pls := j.pls ++ [{ plWith (grp 1 1 .idle) with num := 2, st := .queued, top := some 4, secured := [] }] })).modDie 0
       (fun d => { d with plq := [(0, [1, 2])] })).setRow 1 (tRow 32)
     (s.parts 0).length = 2 ∧ (s.nextSecure 0).map (fun x => (x.1.num, x.2)) = some (2, [4, 5])) ∧
    (let s := State.reset.modDom 15 (fun x => { x with reassign := some 2 }); (s.dom 15).reassign = some 2) ∧
    (let s := toPlace (some 0) [0] 0
     let p := s.job.pls.headD (plWith (grp 1 1 .idle))
     s.findPl 1 = some p ∧ s.gangReady p = true ∧ p.band = [0, 1]) ∧
    (let s := toPlace (some 127) [0] 0
     let p := s.job.pls.headD (plWith (grp 1 1 .idle))
     p.band = [127, 128] ∧ s.gangReady p = false) := by
  simp only [List.mem_cons, List.not_mem_nil, or_false, forall_eq_or_imp, forall_eq]
  decide +kernel

/-- Row 0 asks to start a clause, withheld so far for n clk, in a domain of allowance a; row 0's array asks. -/
def asking (n : Nat) (a : Int) : State :=
  (st 32 (fun r => { atHeader r with req := some (oneNop 0), withheld := n })).modDom 0 (fun x => { x with A := a, refill := 0 })
def askingVec : State := (st 128 (inArray (mm 0 2 0))).modRow 0 (fun r => { r with vgranted := false })

theorem test_witness_Damper :
    State.reset.requests 15 = [] ∧
    ([(0, 1), (255, -98304), (254, 0)].all (fun (n, a) =>
      let s := asking n a
      let x := s.dom 0
      let A : Int := min (x.cap : Int) (x.A + s.refillOf 0) - (((x.due.filter (fun e => e.1 ≠ 0)).map Prod.snd).sum : Nat)
      decide (s.requests 0 = [(0, false)] ∧ A = a ∧ (s.row 0).withheld = n)) = true) ∧
    (let s := askingVec
     let x := s.dom 0
     let A : Int := min (x.cap : Int) (x.A + s.refillOf 0) - (((x.due.filter (fun e => e.1 ≠ 0)).map Prod.snd).sum : Nat)
     s.requests 0 = [(0, true)] ∧ 0 < A ∧ s.asksVector 1 = false ∧ x.ticked = false) ∧
    (let s := (asking 0 1).modDom 0 (fun x => { x with ticked := true })
     (s.dom 0).ticked = true ∧ ((asking 0 1).dom 0).ticked = false ∧ ((asking 255 (-98304)).dom 0).ticked = false) ∧
    (State.reset.dev.minimal = false ∧ (State.reset.modDev (fun d => { d with minimal := true })).dev.minimal = true) ∧
    -- a die whose domains have all had their turn, one of them in class 3
    ((State.reset.dom 15).ticked = false ∧
      (let s := ([0, 1, 2, 3] : List Nat).foldl (fun s m => s.modDom m (fun x => { x with ticked := true, cls := m })) State.reset
       (∀ i, i < 4 → (s.dom (4 * 0 + i)).ticked = true) ∧ 940 ≤ (s.dom 0).phase + classMHz (s.dom 0).cls ∧
         ¬ 940 ≤ (s.dom 3).phase + classMHz (s.dom 3).cls)) ∧
    -- two issue cycles owed, of which the clk takes one
    ([(2, 3), (0, 1)].filter (fun e : Nat × Nat => e.1 ≠ 0) = [(2, 3)]) ∧
    (10500 < (10501 : BitVec 16).toNat ∧ 9500 < (10500 : BitVec 16).toNat ∧ (9500 : BitVec 16).toNat ≤ 9500 ∧
      9000 ≤ (9000 : BitVec 16).toNat ∧ (8999 : BitVec 16).toNat < 9000) ∧
    ((tRow 32).matIdle = true ∧ (tRow 32).mat.banked = false ∧ (tRow 32).mat.asked = false ∧
      ({ Bank.reset with hint := some 2048 } : Bank).hint = some 2048 ∧
      (let s := st 32 (fun r => { r with fp := { r.fp with hold := some 0 } })
       (s.row 0).fp.hold = some 0 ∧ (0 : W64).toNat ≤ (s.rowClk 0).toNat ∧ 0 ∈ s.job.rows.map (fun e => e.1)) ∧ (tRow 32).fp.hint = none ∧ (tRow 32).fp.hold = none) ∧
    (let s := st 32 (fun r => { r with mat := { r.mat with banked := true, asked := true } })
     (s.row 0).mat.banked = true ∧ (s.row 0).mat.asked = true ∧ (s.die 0).inrush = []) ∧
    (let s := st32.modDie 0 (fun d => { d with clk := 16 })
     (s.die 0).clk.toNat % 16 = 0 ∧ (s.die 0).inrushAt ≠ (s.die 0).clk ∧ (st32.die 0).inrushAt = (st32.die 0).clk) ∧
    (let x : Stoke := ⟨0, true, 1, 0, some 48⟩
     let s := st32.modDie 0 (fun d => { d with clk := 48, inrush := [x] })
     (s.die 0).inrush = [x] ∧ x.row = 0 ∧ x.fp = true ∧ x.ready = some 48 ∧ (48 : W64).toNat ≤ (s.die 0).clk.toNat ∧
       ({ x with left := 3, ready := none } : Stoke).left ≤ 3 ∧ 8 < ({ x with left := 9, ready := none } : Stoke).left) := by
  decide +kernel

/-- The whole device halts for a pre-emption, row 0 with its hamper pinned at address 0. -/
def halting : State :=
  (([0, 1, 2, 3] : List Nat).foldl (fun s d => s.modDie d (fun y => { y with halted := true }))
    (st 32 id)).modJob (fun j => { j with pre := .asked, pinned := [(1, 65536), (2, 131072), (3, 196608)] })

theorem test_witness_Preemption :
    (let s := st32.modJob (fun j => { j with pre := .asked }); s.job.pre ≠ .none ∧ (s.die 3).halted = false) ∧
    (let s := halting
     s.job.pre = .asked ∧ s.atRest = true ∧ (s.row 0).life ≠ .idle ∧ tget false s.job.saved 0 = false ∧
       (∀ k, k < 4 → (s.die k).far = []) ∧ (s.row 0).mat.banked = false ∧ ∀ m ∈ s.threads, m = 0) ∧
    (let s := st 32 (fun r => { r with wait := some .queue, deferred := [⟨0x15, 8⟩] })
     s.live 0 = true ∧ (s.row 0).dueTrap = some ⟨0x15, 8⟩ ∧ (st32.row 0).dueTrap = none) ∧
    ((List.range 128).all (fun m => (st32.row m).spawn.isNone && match decode (st32.row m).curWord with
      | .ok (.mdrain _ _) => false | _ => true) = true) ∧
    (st32.job.pre ≠ .asked ∧ st32.job.pre = .none) := by decide +kernel
theorem test_witness_hamper : ∀ i j, i < hamperSize → j < hamperSize → halting.hamperKey 0 i = halting.hamperKey 0 j → i = j := by
  have h : halting.job.pinned = [(1, 65536), (2, 131072), (3, 196608)] := rfl
  have k (i : Nat) (hi : i < 242688) : halting.hamperKey 0 i = i := by
    have : i / 65536 = 0 ∨ i / 65536 = 1 ∨ i / 65536 = 2 ∨ i / 65536 = 3 := by omega
    rcases this with e | e | e | e <;> simp [State.hamperKey, h, e, tget] <;> omega
  intro i j hi hj e
  rwa [k i hi, k j hj] at e

/-- A device that runs, its job open, with a command at the head. -/
def device (f : Dev → Dev) (s : State) : State := s.modDev (fun d => f { d with
  phase := .up, mode := .normal, featDone := true, offered := 0x1F, accepted := 0x1F, jobSt := .opened, cmdTail := 1 })
def asked (code : W64) (w1 w2 w3 w4 w5 : W64) : CmdRec := ⟨code, w1, w2, w3, w4, w5, 0, 0⟩
def command1 (r : CmdRec) (f : Dev → Dev) (s : State) : State := device (fun d => f { d with cmds := [(0, r)] }) s

theorem test_witness_Starts :
    (State.reset.dev.phase = .off ∧ State.reset.dev.failCount < 3) ∧
    (let s := State.reset.modDev (fun d => { d with failCount := 3 }); s.dev.phase = .off ∧ 3 ≤ s.dev.failCount) ∧
    (let s := device (fun d => { d with featDone := false, mode := .starting }) .reset
     s.dev.phase = .up ∧ s.dev.featDone = false ∧ s.dev.mode ≠ .fatal ∧ (3 : BitVec 8).toNat ∈ [1, 2, 3] ∧ s.dev.jobKey = 0 ∧
       (s.modDev (fun d => { d with jobKey := 1 })).dev.jobKey ≠ 0) ∧
    (let s := device (fun d => { d with cmdTail := 255, cmdHead := 1 }) .reset
     s.dev.cmdTail < 256 ∧ 0 = (s.dev.cmdTail + 1) % 256 ∧ 0 ≠ s.dev.cmdHead) ∧
    (let s := device (fun d => { d with cmdTail := 255 }) .reset; 0 = (s.dev.cmdTail + 1) % 256 ∧ 0 = s.dev.cmdHead) ∧
    (let s := device (fun d => { d with cmdTail := 7, cmdHead := 7 }) .reset
     s.dev.phase = .up ∧ s.dev.cmdHead = s.dev.cmdTail ∧ cmdCode (asked 0x30 0 0 0 0 0) = 0x30 ∧ tget 0 s.dev.preAns s.dev.cmdTail = 0 ∧
       s.dev.refuses (asked 0x30 0 0 0 0 0) = none ∧ s.dev.jobSt = .opened ∧ s.job.pre = .none ∧
       s.dev.refuses (asked 0x30 1 0 0 0 0) = some 1) ∧
    (let s := device (fun d => { d with raised := [⟨3, 0x8000, 1, 0, none, 0, 0, 0⟩], evtTail := 4095 }) .reset
     s.dev.raised = [⟨3, 0x8000, 1, 0, none, 0, 0, 0⟩] ∧ 3 < 256 ∧ 0x8000 < 65536 ∧ s.dev.evtTail < 4096 ∧ s.dev.evtRoom = 4096 - 4096) ∧
    (let s := device id .reset; s.dev.evtRoom ≠ 0 ∧ 2 ≤ s.dev.evtRoom ∧ s.dev.evtTail < 4096) := by decide +kernel

/-- A command that runs. -/
def runsNow (s : State) (code : Nat) (r : CmdRec) : Bool :=
  decide (s.job.pre ≠ .asked ∧ s.dev.phase = .up ∧ s.dev.cmdHead ≠ s.dev.cmdTail ∧ s.dev.slot s.dev.cmdHead = r ∧ cmdCode r = code ∧ s.dev.refuses r = none)
def runsAs (r : CmdRec) (f : Dev → Dev) (s : State) : Bool := runsNow (command1 r f s) (cmdCode r) r

/-- A record with the code c, its other words 0, stands at CMD_HEAD. -/
def headed (c : W64) : State := command1 (asked c 0 0 0 0 0) id st32
/-- It is a record to execute, and no pre-emption is under way. -/
def heads (c : W64) : Bool :=
  let s := headed c
  s.dev.phase == .up && s.dev.cmdHead != s.dev.cmdTail && decide (s.finishHalt.job.pre ≠ .asked)

theorem test_witness_DeviceCommands :
    (let r := asked 0x60 0x10000 1 1 0 0
     let s := command1 r id st32
     (Instr.powerSet, 0x60) ∈ commandsOfMbabo ∧ s.dev.phase = .up ∧ s.dev.cmdHead ≠ s.dev.cmdTail ∧ cmdCode r = 0x60 ∧
       s.dev.refuses r = some 1 ∧ s.job.pre ≠ .asked ∧
       (s.modJob (fun j => { j with pre := .asked })).finishHalt.job.pre = .asked ∧ (s.modJob (fun j => { j with pre := .asked })).atRest = false) ∧
    State.reset.dev.cmdHead = State.reset.dev.cmdTail ∧
    -- at the head a code that none has, and one that is another's; each of R401's first four reasons, and none of them
    (heads 0x04 = true ∧ heads 0x60 = true ∧ cmdMask (cmdCode ((headed 0x04).dev.slot 0)) = none ∧
      cmdMask (cmdCode ((headed 0x60).dev.slot 0)) ≠ none ∧
      cmdCode ((headed 0x60).dev.slot 0) ≠ 0x03 ∧ cmdCode ((headed 0x60).dev.slot 0) ≠ 0x30) ∧
    ((asked 0x03 0 0 0 0 1).w5 &&& ~~~([] : List W64).getD 4 0 ≠ 0 ∧
      (device (fun d => { d with mode := .fatal }) st32).dev.mode = .fatal ∧
      (let d := { (device id st32).dev with accepted := 0, jobSt := .none }
       cmdCode (asked 0x40 0 1 0 0 0) = 0x40 ∧ cmdMask 0x40 = some [0xFFFFFFFFFFFFFF, 0xFFFFFFFFFFFFFFFF] ∧ d.mode = .normal ∧ d.featDone = true ∧
         d.accepted.getLsbD 0 = false ∧ d.jobSt ≠ .opened ∧ d.jobSt ≠ .halted) ∧ (device id st32).dev.failCount < 256) ∧
    runsAs (asked 0x01 0x1F 0 0 0 0) (fun d => { d with featDone := false, mode := .starting }) st32 = true ∧
    ((0x1F : W64) &&& ~~~0x1F = 0 ∧ (0x20 : W64) &&& ~~~0x1F ≠ 0) ∧ runsAs (asked 0x03 0 0 0 0 0) id st32 = true ∧
    (let r := asked 0x02 0x100000 0x200000 8192 0 0
     runsAs r id st32 = true ∧ (command1 r id st32).dev.minimal = false ∧ r.w2.toNat % 64 = 0 ∧ 8192 ≤ r.w3.toNat ∧ r.w1.toNat + 64 ≤ 2 ^ 39 ∧ r.w2.toNat + r.w3.toNat ≤ 2 ^ 39) ∧
    (let r := asked 0x12 0x8000 1 0 0 0
     let s := command1 r id (withMem [(0x8002, 1), (0x800A, 1), (0x800E, 1)] st32)
     let b : List W8 := (List.range 16).map (fun i => s.byte (0x8000 + i))
     runsNow s 0x12 r = true ∧ r.w1.toNat % 16 = 0 ∧ r.w2.toNat ≤ 256 ∧ s.paRead r.w1 (16 * r.w2.toNat) false = some b ∧
       (match rangesOf b 1 with | .ok l => decide (l = [⟨65536, 65536, true⟩]) | _ => false) = true ∧
       (match rangesOf (List.replicate 16 0) 1 with | .error k => k == 0x0E | _ => false) = true) ∧
    (let r := asked 0x13 0x8000031FFF0000 1 1 0 0
     runsAs r id st32 = true ∧ r.w1.toNat % 65536 = 0 ∧ sideFault r.w1 = none ∧ sidePage r.w1.toNat + 1 ≤ 32768) ∧
    runsAs (asked 0x14 0 0 0 0 0) id st32 = true ∧
    (let r := asked 0x60 0x8000 65535 0x100000 0 0
     runsAs r id st32 = true ∧ 0 < r.w2.toNat ∧ r.w2.toNat ≤ 65535 ∧ 0 < r.w3.toNat ∧ r.w3.toNat ≤ 0x100000) := by decide +kernel

/-- A job that stands halted, row 0's hamper in memory. -/
def halted0 : State := withMem [(0, 2), (2, 0x3C), (3, 0x5A), (4, 32), (0x9000, 1), (0x9002, 0x3C), (0x9003, 0x5A)] st32

theorem test_witness_JobCommands :
    (let r := asked 0x10 4096 0x8000 0 0 0
     runsAs r (fun d => { d with jobSt := .none }) st32 = true ∧ r.w1.toNat % 1024 = 0 ∧ r.w2.toNat % 8 = 0 ∧
       r.w4.toNat % 2 ^ 27 = 0 ∧ r.w4.getLsbD 55 = false ∧ r.w1.toNat < 2 ^ 39) ∧
    (let r := asked 0x10 0x8000000000 0x8000 0 0 0
     runsAs r (fun d => { d with jobSt := .none }) st32 = true ∧ r.w1.toNat % 1024 = 0 ∧ 2 ^ 39 ≤ r.w1.toNat) ∧
    (let r := asked 0x10 4097 0x8000 0 0 0; runsAs r (fun d => { d with jobSt := .none }) st32 = true ∧ r.w1.toNat % 1024 ≠ 0) ∧
    runsAs (asked 0x11 0 0 0 0 0) id st32 = true ∧ runsAs (asked 0x11 0 0 0 0 0) (fun d => { d with jobSt := .closing }) st32 = true ∧
    (let s := command1 (asked 0x30 0 0 0 0 0) (fun d => { d with preAns := [(0, 1)] }) st32
     cmdCode (s.dev.slot s.dev.cmdHead) = 0x30 ∧ tget 0 s.dev.preAns s.dev.cmdHead = 1 ∧
       (s.modJob (fun j => { j with pre := .halted })).job.pre = .halted ∧ (s.modJob (fun j => { j with pre := .asked })).atRest = false) ∧
    (let s := command1 (asked 0x30 0 0 0 0 0) (fun d => { d with preAns := [(0, 3)] }) st32; 2 ≤ tget 0 s.dev.preAns s.dev.cmdHead) ∧
    (let r := asked 0x31 0 0 0 0 0
     let s := command1 r (fun d => { d with jobSt := .halted }) halted0
     runsNow s 0x31 r = true ∧ s.threads = [0] ∧ hamperBad (s.row 0) (s.hamperGet 0) = false ∧
       hamperBad (s.row 0) (st32.hamperGet 0) = true) ∧
    (let r := asked 0x32 0x8000 1 0x40 7 0
     let s := (command1 r (fun d => { d with jobSt := .halted }) st32).setPort 0 { Port.reset with up := true }
     runsNow s 0x32 r = true ∧ r.w2 ≠ 0 ∧ r.w3.getLsbD 6 = true ∧ r.w5 = 0 ∧ s.paRead r.w1 32 false = some (List.replicate 32 0) ∧
       s.portsUp r.w2 = true ∧ s.dev.ckpt = none ∧ s.dev.jobSt = .halted ∧ (command1 r id st32).job.pre = .none ∧ (command1 r id st32).atRest = false) ∧
    (let r := asked 0x33 0x8000 1 7 0 0
     let x : Stream := ⟨0, 0, 7, List.replicate 32 0, .reset⟩
     let s := (command1 r (fun d => { d with tierStore := [x] }) st32).setPort 0 { Port.reset with up := true }
     runsNow s 0x33 r = true ∧ s.job.pls = [] ∧ s.paRead r.w1 32 false = some (List.replicate 32 0) ∧ s.portsUp r.w2 = true ∧
       r.w4.getLsbD 17 = false ∧ s.dev.tierStore = [x] ∧ x.tier = s.job.tier ∧ x.ident = s.dev.ident ∧ x.num = r.w3 ∧
       x.key = List.replicate 32 0 ∧ ({ x with key := [1] } : Stream).key ≠ List.replicate 32 0 ∧
       ∀ z ∈ [{ x with tier := 1 }], z.tier ≠ s.job.tier) ∧
    -- a parity stream, on its holder and on another member, and a communicator that is no multiple of eight
    (let r := asked 0x32 0x8000 1 1 7 3
     let f (n rank : Nat) : State := ((command1 r (fun d => { d with jobSt := .halted, jobKey := 1 }) st32).setPort 0 { Port.reset with up := true }).modJob
       (fun j => { j with comms := [(1, ⟨n, rank, 1, 1, [], (List.range 8).map (fun k => (k, 1))⟩)] })
     runsNow (f 8 7) 0x32 r = true ∧ r.w3.getLsbD 6 = false ∧ ((f 8 7).comm (r.w3.toNat % 64)).rank % 8 = r.w4.toNat % 8 ∧
       ((f 8 6).comm (r.w3.toNat % 64)).rank % 8 ≠ r.w4.toNat % 8 ∧ ((f 8 7).comm 1).n % 8 = 0 ∧ ((f 7 6).comm 1).n % 8 ≠ 0 ∧
       (f 8 7).dev.ckpt = none ∧ r.w2 ≠ 0 ∧ (f 8 7).paRead r.w1 32 false = some (List.replicate 32 0) ∧ (f 8 7).portsUp r.w2 = true ∧
       (∀ k ∈ [0, 1, 2, 3, 4, 5, 6], ((f 8 7).comm 1).mask k ≠ 0 ∧ (f 8 7).pathUp (((f 8 7).comm 1).mask k) = true) ∧
       ((f 8 7).setPort 0 .reset).portsUp r.w2 = false ∧ (f 8 7).dev.jobKey ≠ 0) ∧
    -- a block of the exchange to come and the last one past, on the holder and on another member
    (let r := asked 0x32 0x8000 1 1 7 3
     let k : Ckpt := ⟨List.replicate 32 0, none, 0, []⟩
     let f (k : Ckpt) (rank : Nat) (rx : List Msg) : State := ((command1 r (fun d => { d with jobSt := .halted, ckpt := some k }) st32).setPort 0
       { Port.reset with up := true }).modJob (fun j => { j with comms := [(1, ⟨8, rank, 1, 1, [], (List.range 8).map (fun k => (k, 1))⟩)], linkRx := rx })
     let s := f k 7 [parityMsg 1 5 7 0 3 []]
     let t := f k 6 []
     runsNow s 0x32 r = true ∧ s.dev.ckpt = some k ∧ k.blocks < 526400 ∧ 526400 ≤ (f { k with blocks := 526400 } 7 []).dev.ckpt.elim 0 Ckpt.blocks ∧
       (t.comm 1).mask 7 ≠ 0 ∧ t.pathUp ((t.comm 1).mask 7) = true ∧ (∀ j ∈ [0, 1, 2, 3, 4, 5, 6], (s.comm 1).mask j ≠ 0 ∧ s.pathUp ((s.comm 1).mask j) = true) ∧
       ¬ (t.setPort 0 .reset).pathUp ((t.comm 1).mask 7) ∧ s.parityRx 1 6 7 0 0 = none ∧ s.parityRx 1 5 7 0 3 = some (parityMsg 1 5 7 0 3 [])) ∧
    (State.reset.dev.accepted.getLsbD 4 = false ∧ (command1 (asked 0x33 0 0 0 0 0) id st32).dev.accepted.getLsbD 4 = true) := by
  and_intros <;> decide +kernel

/-- The commands on the job as a whole where they complete (JOB_OPEN: test_witness_JobOpen). -/
theorem test_witness_JobCommandsComplete :
    runsAs (asked 0x11 0 0 0 0 0) id st32 = true ∧ runsAs (asked 0x11 0 0 0 0 0) (fun d => { d with jobSt := .closing }) st32 = true ∧
    (let s := (command1 (asked 0x30 0 0 0 0 0) (fun d => { d with preAns := [(0, 1)] }) st32).modJob (fun j => { j with pre := .halted })
     s.dev.phase = .up ∧ s.dev.cmdHead ≠ s.dev.cmdTail ∧ cmdCode (s.dev.slot s.dev.cmdHead) = 0x30 ∧
       tget 0 s.dev.preAns s.dev.cmdHead = 1 ∧ s.job.pre = .halted) ∧
    (let s := command1 (asked 0x31 0 0 0 0 0) (fun d => { d with jobSt := .halted }) halted0
     runsNow s 0x31 (asked 0x31 0 0 0 0 0) = true ∧ ∀ m ∈ s.threads, hamperBad (s.row m) (s.hamperGet m) = false) ∧
    (let r := asked 0x32 0x8000 1 0x40 7 0
     let s := (command1 r (fun d => { d with jobSt := .halted }) st32).setPort 0 { Port.reset with up := true }
     runsNow s 0x32 r = true ∧ s.paRead r.w1 32 false = some (List.replicate 32 0) ∧ s.portsUp r.w2 = true ∧ s.dev.jobSt = .halted ∧
       s.dev.ckpt = none ∧ r.w2 ≠ 0 ∧ r.w3.getLsbD 6 = true ∧ r.w5 = 0) ∧
    (let r := asked 0x32 0x8000 1 1 7 3
     let s := command1 r (fun d => { d with jobSt := .halted, ckpt := some ⟨[], none, 526400, []⟩ }) st32
     runsNow s 0x32 r = true ∧ s.dev.ckpt = some ⟨[], none, 526400, []⟩ ∧ 526400 ≤ 526400) ∧
    (let r := asked 0x33 0x8000 1 7 0 0
     let x : Stream := ⟨0, 0, 7, List.replicate 32 0, .reset⟩
     let s := (command1 r (fun d => { d with tierStore := [x] }) st32).setPort 0 { Port.reset with up := true }
     runsNow s 0x33 r = true ∧ s.job.pls = [] ∧ s.paRead r.w1 32 false = some x.key ∧ s.portsUp r.w2 = true ∧
       s.dev.tierStore = [x] ∧ x.tier = s.job.tier ∧ x.ident = s.dev.ident) ∧
    (let r := asked 0x50 15 2 0 0 0
     let s := command1 r (fun d => { d with wired := 0x8000 }) st32
     runsNow s 0x50 r = true ∧ r.w2.toNat ≤ 2 ∧ s.dev.wired.getLsbD r.w1.toNat = true) := by
  and_intros <;> decide +kernel

/-- The page table of `pages`: three tables, and 64 leaves for each use. -/
def Table0 (T : State) : Prop :=
  T.job.root = 4096 ∧ T.w64 4096 = 0x2001 ∧ T.w64 0x2000 = 0x3001 ∧ T.w64 0x3000 = 0x4001 ∧ ∀ j < 64, T.w64 (0x4000 + 8 * j) = 15
/-- The entries on the way to a page below 128 MiB. -/
def path0 : List (Nat × W64) := [(48, 0x2001), (39, 0x3001), (30, 0x4001), (21, 15)]
/-- A state that differs from T in what X has cached on the way to an address: nothing, or what the table holds. -/
def OnPath (T : State) (va : Nat) (s : State) : Prop :=
  ∃ t n, s = { T with drawn := n, job := { T.job with tlb := t } } ∧
    ∀ x ∈ path0, tget none t (tlbKey 4 x.1 va) = none ∨ tget none t (tlbKey 4 x.1 va) = some x.2

theorem entry_onPath {T s : State} {va lo a : Nat} {e : W64} (hs : OnPath T va s) (hv : va < 2 ^ 27) (he : (lo, e) ∈ path0)
    (ha : T.w64 a = e) : ∃ u, s.entryAt 4 lo va a = (e, u) ∧ OnPath T va u := by
  obtain ⟨t, n, rfl, ht⟩ := hs
  have hm : State.w64 { T with drawn := n, job := { T.job with tlb := t } } a = e := ha
  have inj : ∀ x ∈ path0, ∀ y ∈ path0, tlbKey 4 x.1 va = tlbKey 4 y.1 va → x = y := by
    have hd (k : Nat) : va / 2 ^ k < 2 ^ 56 := lt_of_le_of_lt (Nat.div_le_self _ _) (by omega)
    have hk : ∀ x ∈ path0, ∀ y ∈ path0, x.1 = y.1 → x = y := by decide
    intro x hx y hy h
    refine hk x hx y hy ?_
    have h1 := hd x.1
    have h2 := hd y.1
    unfold tlbKey at h
    generalize va / 2 ^ x.1 = d1 at *
    generalize va / 2 ^ y.1 = d2 at *
    omega
  have put : OnPath T va { T with drawn := n, job := { T.job with tlb := tset none t (tlbKey 4 lo va) (some e) } } := by
    refine ⟨_, n, rfl, fun x hx => ?_⟩
    rw [tget_tset]
    split
    · exact .inr (congrArg some (congrArg Prod.snd (inj _ hx _ he ‹_›)).symm)
    · exact ht x hx
  unfold State.entryAt
  split
  · rename_i e' h _
    refine ⟨_, ?_, t, n, rfl, ht⟩
    rcases ht _ he with h' | h'
    · exact absurd (h.symm.trans h') (by simp)
    · rw [Option.some.inj (h.symm.trans h')]
  · dsimp only
    rw [hm]
    exact ⟨_, rfl, put⟩

theorem walk_onPath {T s : State} (h : Table0 T) {va : Nat} (hs : OnPath T va s) (hv : va < 2 ^ 27) :
    ∃ u, walk 4 va ptLevels T.job.root s = (some (BitVec.ofNat 64 (15 + va % 2 ^ 21 / 65536 * 65536)), u) ∧ OnPath T va u := by
  obtain ⟨h0, h1, h2, h3, h4⟩ := h
  obtain ⟨s1, q1, hs1⟩ := entry_onPath (lo := 48) hs hv (by decide) h1
  obtain ⟨s2, q2, hs2⟩ := entry_onPath (lo := 39) hs1 hv (by decide) h2
  obtain ⟨s3, q3, hs3⟩ := entry_onPath (lo := 30) hs2 hv (by decide) h3
  obtain ⟨s4, q4, hs4⟩ := entry_onPath (lo := 21) hs3 hv (by decide) (h4 (va / 2 ^ 21) (by omega))
  have e1 : va / 2 ^ 48 % 2 ^ 7 = 0 := by omega
  have e2 : va / 2 ^ 39 % 2 ^ 9 = 0 := by omega
  have e3 : va / 2 ^ 30 % 2 ^ 9 = 0 := by omega
  have e4 : va / 2 ^ 21 % 2 ^ 9 = va / 2 ^ 21 := by omega
  have p1 : entryPa 0x2001 = 0x2000 := by decide
  have p2 : entryPa 0x3001 = 0x3000 := by decide
  have p3 : entryPa 0x4001 = 0x4000 := by decide
  have p4 : entryPa 15 = 0 := by decide
  refine ⟨s4, ?_, hs4⟩
  simp only [ptLevels, walk, h0, e1, e2, e3, e4, Nat.mul_zero, Nat.add_zero, q1, q2, q3, q4, p1, p2, p3, p4, Nat.zero_add]
  rfl

theorem pinPages_some (s : State) (base : Nat) : ∀ n, (∀ k, k < n → ∃ e u, walk 4 (base + 65536 * k) ptLevels s.job.root s = (some e, u) ∧
    leafAllows e .write = true) → ∃ t, pinPages s base n = some t
  | 0, _ => ⟨_, rfl⟩
  | n + 1, h => by
    obtain ⟨t, ht⟩ := pinPages_some s base n (fun k hk => h k (by omega))
    obtain ⟨e, u, he, hw⟩ := h n (by omega)
    exact ⟨_, by simp only [pinPages, ht, he, hw, if_true]; rfl⟩

/-- JOB_OPEN finds its 2,048 pages mapped for writing. -/
theorem test_witness_JobOpen :
    let r := asked 0x10 4096 0x8000 0 0 0
    let s := command1 r (fun d => { d with jobSt := .none }) (pages [] st32)
    runsNow s 0x10 r = true ∧ r.w1.toNat % 1024 = 0 ∧ r.w2.toNat % 8 = 0 ∧ r.w4.toNat % 2 ^ 27 = 0 ∧ r.w4.getLsbD 55 = false ∧
      r.w1.toNat < 2 ^ 39 ∧ ∃ pins, pinPages (s.modJob (fun _ => { s.blankJob (s.job.mem.filter (fun e => e.1 < sideBase)) with
        root := r.w1.toNat, tvec := r.w2.setWidth 56, hamper := r.w4.setWidth 56, tier := r.w3 })) r.w4.toNat 2048 = some pins := by
  intro r s
  refine ⟨by decide +kernel, by decide, by decide, by decide, by decide, by decide, pinPages_some _ _ _ (fun k hk => ?_)⟩
  generalize hT : s.modJob _ = T
  have h : Table0 T := by subst hT; unfold Table0; decide +kernel
  have hs : OnPath T (65536 * k) T := ⟨T.job.tlb, T.drawn, rfl, fun _ _ => .inl (by subst hT; rfl)⟩
  obtain ⟨u, hu, -⟩ := walk_onPath h hs (by omega)
  have q : ∀ j, j < 32 → leafAllows (BitVec.ofNat 64 (15 + j * 65536)) .write = true := by decide
  have e0 : r.w4.toNat = 0 := rfl
  exact ⟨_, u, by rw [e0, Nat.zero_add]; exact hu, q _ (by omega)⟩

/-- A placement record at 0x8000 of two rows at rowid 0, with one group whose table is at 0x9000. -/
def plRecord (members : W8) : List (Nat × W8) :=
  [(0x8000, 8), (0x8012, 2), (0x8014, 32), (0x8017, 1), (0x801A, 1), (0x8021, 0x90), (0x9000, 3), (0x9008, members)]

theorem test_witness_WorkCommands :
    runsAs (asked 0x20 0x8000 0 0 0 0) id st32 = true ∧
    (placeReserved (List.replicate 64 0) = false ∧ placeRange (List.replicate 64 0) = true) ∧
    (let r := asked 0x21 0x8000 0 0 0 0
     let s := command1 r id (withMem [(0x8000, 1), (0x8010, 3), (0x8011, 1), (0x8012, 15)]
       ((st32.setTq 3 0 ⟨0x10000, 10, 0, 0, 0⟩).modDom 12 (fun x => { x with cls := 1 })))
     let b : List W8 := (List.range 64).map (fun i => s.byte (0x8000 + i))
     runsNow s 0x21 r = true ∧ s.paRead r.w1 64 false = some b ∧ poolReserved b = false ∧ recNum b 16 1 = 3 ∧ 0 < recNum b 18 1 ∧
       (∀ q, q < 4 → (poolQueue b q).1 = 0) ∧ (∀ q, q < 4 → (poolQueue b q).2.getLsbD 55 = false) ∧ (s.die 3).queues ≠ [] ∧
       maskRows 3 (recNum b 0 16) = [384] ∧ s.rowFree 384 = true ∧ s.domClass (domOf 384) = recNum b 17 1 ∧
       (s.setRow 384 (tRow 32)).rowFree 384 = false) ∧
    (let r := asked 0x22 3 0 0x8000000000000000 0 0
     runsAs r id st32 = true ∧ maskRows r.w1.toNat (r.w2.toNat + 2 ^ 64 * r.w3.toNat) = [511]) ∧
    (runsAs (asked 0x50 15 2 0 0 0) id st32 = true ∧ runsAs (asked 0x50 15 3 0 0 0) id st32 = true ∧
      (st32.dev.wired.getLsbD 15 = false) ∧ (command1 (asked 0x50 15 2 0 0 0) (fun d => { d with wired := 0x8000 }) st32).dev.wired.getLsbD 15 = true) ∧
    (let r := asked 0x51 63 0x8000 0 0 0
     let s := (command1 r id (withMem [(0x8000, 2), (0x8010, 1), (0x8012, 1)] st32)).setPort 0 { Port.reset with up := true }
     let h : List W8 := (List.range 32).map (fun i => s.byte (0x8000 + i))
     runsNow s 0x51 r = true ∧ r.w1.toNat ≤ 63 ∧ r.w2.toNat % 8 = 0 ∧ s.paRead r.w2 32 false = some h ∧ recNum h 0 8 < 2 ^ 18 ∧
       recNum h 8 8 < 2 ^ 17 ∧ 2 ≤ recNum h 0 4 ∧ recNum h 24 8 ≤ 4096 ∧ recNum h 8 8 < recNum h 0 4 ∧ recNum h 20 4 = 0 ∧
       (match s.paRead r.w2 40 false with
        | some b => (match commOf s b with | .ok c => c.n == 2 | _ => false) &&
          (match commOf (s.setPort 0 .reset) b with | .error k => k == 0x0A | _ => false)
        | none => false) = true) := by decide +kernel

/-- X's table agrees with T's on the way to page 0. -/
abbrev OfPage0 (T s : State) : Prop := OnPath T 0 s

theorem onPath_page0 {T s : State} {va : Nat} (hv : va < 65536) : OnPath T va s ↔ OfPage0 T s := by
  have k : ∀ x ∈ path0, tlbKey 4 x.1 va = tlbKey 4 x.1 0 := by
    intro x hx
    have : 2 ^ 21 ≤ 2 ^ x.1 := Nat.pow_le_pow_right (by decide) (by revert x; decide)
    simp only [tlbKey, Nat.div_eq_of_lt (show va < 2 ^ x.1 by omega), Nat.zero_div]
  exact ⟨fun ⟨t, n, e, h⟩ => ⟨t, n, e, fun x hx => k x hx ▸ h x hx⟩, fun ⟨t, n, e, h⟩ => ⟨t, n, e, fun x hx => (k x hx).symm ▸ h x hx⟩⟩

theorem lookup_page0 {T s : State} (h : Table0 T) (hs : OfPage0 T s) (va : Nat) (hv : va < 65536) :
    ∃ u, s.lookup 4 va = (some 15, u) ∧ OfPage0 T u := by
  obtain ⟨u, hu, hU⟩ := walk_onPath h ((onPath_page0 hv).2 hs) (by omega)
  have hr : s.job.root = T.job.root := by obtain ⟨t, n, rfl, -⟩ := hs; rfl
  have e : va % 2 ^ 21 / 65536 = 0 := by omega
  obtain ⟨t, n, rfl, ht⟩ := (onPath_page0 hv).1 hU
  refine ⟨_, ?_, t, n + 1, rfl, ht⟩
  simp only [State.lookup, hr, hu, e]
  rfl

theorem vaKeys_page0 {T : State} (h : Table0 T) : ∀ (n : Nat) (s : State) (a : W64), OfPage0 T s → a.toNat + n ≤ 65536 →
    ∃ u, vaKeys n s a = (some ((List.range n).map (fun i => a.toNat + i)), u) ∧ OfPage0 T u
  | 0, s, a, hs, _ => ⟨s, rfl, hs⟩
  | n + 1, s, a, hs, hn => by
    obtain ⟨u, hu, hU⟩ := lookup_page0 h hs a.toNat (by omega)
    have ha : (a + 1).toNat = a.toNat + 1 := by
      rw [BitVec.toNat_add, show (1 : W64).toNat = 1 from rfl]; omega
    obtain ⟨w, hw, hW⟩ := vaKeys_page0 h n u (a + 1) hU (by omega)
    have hb : (a.extractLsb' 55 9 != 0) = false := by
      have : a.extractLsb' 55 9 = 0 := by
        apply BitVec.eq_of_toNat_eq
        simp only [BitVec.extractLsb'_toNat, Nat.shiftRight_eq_div_pow, show (0 : BitVec 9).toNat = 0 from rfl]
        omega
      simp [this]
    have hm : a.toNat % 65536 = a.toNat := by omega
    refine ⟨w, ?_, hW⟩
    rw [ha] at hw
    unfold vaKeys
    simp only [hb, State.translate, hu, leafAllows, if_true]
    rw [hw]
    simp [hm, List.range_succ_eq_map, Nat.add_comm 1, Nat.add_assoc, Function.comp_def]

theorem vaRead_page0 {T s : State} (h : Table0 T) (hs : OfPage0 T s) (n : Nat) (a : W64) (hn : a.toNat + n ≤ 65536) :
    ∃ u, s.vaRead a n false = (some ((List.range n).map (fun i => T.byte (a.toNat + i))), u) ∧ OfPage0 T u := by
  obtain ⟨u, hu, t, m, rfl, ht⟩ := vaKeys_page0 h n s a hs hn
  refine ⟨_, ?_, t, m, rfl, ht⟩
  simp only [State.vaRead, hu, List.map_map]
  rfl

/-- A placement record at 0x8000 and its group table, as they lie in memory. -/
def recAt (T : State) : List W8 := (List.range 64).map (fun i => T.byte (0x8000 + i))
def tableAt (T : State) : List W8 := (List.range (72 * recNum (recAt T) 26 2)).map (fun i => T.byte ((recW (recAt T) 32).toNat + i))

theorem place_reads {T : State} (h : Table0 T) (h0 : OfPage0 T T) (k : (recW (recAt T) 32).toNat + 72 * recNum (recAt T) 26 2 ≤ 65536) :
    ∃ s1 s2 s3, T.vaRead 0x8000 64 false = (some (recAt T), s1) ∧
      s1.vaRead (recW (recAt T) 32) (72 * recNum (recAt T) 26 2) false = (some (tableAt T), s2) ∧
      s2.vaRead (recW (recAt T) 40) 0 false = (some [], s3) ∧ OfPage0 T s3 := by
  obtain ⟨u, hu, hU⟩ := vaRead_page0 h h0 64 0x8000 (by decide)
  obtain ⟨v, hv, hV⟩ := vaRead_page0 h hU _ _ k
  exact ⟨u, v, v, hu, hv, rfl, hV⟩

/-- PLACE's record, its group table and its empty list of dependencies, as Mbabo reads them: two members, and three in a band
of two rows. -/
theorem test_witness_Place : ∀ m : W8, m = 3 ∨ m = 7 →
    let s := command1 (asked 0x20 0x8000 0 0 0 0) id (pages (plRecord m) st32)
    ∃ b s1 t1 s2 l1 s3, s.vaRead 0x8000 64 false = (some b, s1) ∧
      s1.vaRead (recW b 32) (72 * recNum b 26 2) false = (some t1, s2) ∧ s2.vaRead (recW b 40) 0 false = (some l1, s3) ∧
      (placeReserved b = false ∧ placeRange b = false ∧
      edgeOf (b.getD 24 0) = some .closed ∧ edgeOf (b.getD 25 0) = some .closed ∧ recNum b 28 2 = 0 ∧
      ∀ i, i < recNum b 26 2 → recNum t1 (72 * i + 1) 7 = 0) ∧
      (let p := plOf s3 b t1 l1 .closed .closed
       groupsBad p.groups p.rows = (m == 7) ∧ s3.edgeBad p true = false ∧ s3.edgeBad p false = false ∧ p.twoLinks = false ∧
         ∀ d ∈ p.dies, s3.plq d p.pri = []) := by
  have k : ∀ m : W8, m = 3 ∨ m = 7 → let s := command1 (asked 0x20 0x8000 0 0 0 0) id (pages (plRecord m) st32)
      let p := plOf s (recAt s) (tableAt s) [] .closed .closed
      groupsBad p.groups p.rows = (m == 7) ∧ s.edgeBad p true = false ∧ s.edgeBad p false = false ∧ p.twoLinks = false ∧
        ∀ d ∈ p.dies, s.plq d p.pri = [] := by
    rintro m (rfl | rfl) <;> decide +kernel
  intro m hm s
  have k := k m hm
  obtain ⟨s1, s2, _, h1, h2, h3, t, n, rfl, -⟩ := place_reads (T := s)
    (by rcases hm with rfl | rfl <;> unfold Table0 <;> decide +kernel) ⟨[], 0, rfl, fun _ _ => .inl rfl⟩
    (by rcases hm with rfl | rfl <;> decide +kernel)
  exact ⟨_, s1, _, s2, _, _, h1, h2, h3, by rcases hm with rfl | rfl <;> decide +kernel, k⟩

/-- RING_LOAD's table of a gap and the end, as Mbabo reads it: of five cells, and of none. -/
theorem test_witness_RingLoad : ∀ x : W8, x = 5 ∨ x = 0 →
    let r := asked 0x40 0x8000 2 0 0 0
    let s := command1 r id (pages [(0x8000, 1), (0x8008, x), (0x8010, 15)] st32)
    runsNow s 0x40 r = true ∧ r.w1.toNat % 16 = 0 ∧ 0 < r.w2.toNat ∧ r.w2.toNat ≤ 1048576 ∧
      ∃ b s1, s.vaRead r.w1 (16 * r.w2.toNat) false = (some b, s1) ∧
        ringEntries b 2 2 s1 = (if x = 5 then some [.gap 5] else none, s1) := by
  intro x hx r s
  have h : Table0 s := by rcases hx with rfl | rfl <;> unfold Table0 <;> decide +kernel
  obtain ⟨u, hu, -⟩ := vaRead_page0 h ⟨[], 0, rfl, fun _ _ => .inl rfl⟩ 32 0x8000 (by decide)
  refine ⟨by rcases hx with rfl | rfl <;> decide +kernel, by decide, by decide, by decide, _, u, hu, ?_⟩
  have e : (List.range 32).map (fun i => s.byte ((0x8000 : W64).toNat + i)) =
      1 :: (List.replicate 7 0 ++ x :: (List.replicate 7 0 ++ 15 :: List.replicate 15 0)) := by
    rcases hx with rfl | rfl <;> decide +kernel
  rw [e]
  rcases hx with rfl | rfl <;> with_unfolding_all rfl

/-! ### Single steps, their results worked by hand from the rules named -/

/-- One instruction or event answers a next state that passes a test. -/
def after (i : Instr) (s : State) (f : State → Bool) : Bool := match exec i s with | .next t => f t | _ => false
/-- Row 0 of width 32 with scalars, and with the first lanes of v1 and v2. -/
def regs (l : Tbl W64) : State := st 32 (fun r => { r with s := l })
def lanes (a b : List W32) : State :=
  st 32 (fun r => { r with v := (a.zipIdx.map (fun (x, i) => (32 + i, x))) ++ (b.zipIdx.map (fun (x, i) => (64 + i, x))) })
def s3Is (x : W64) (t : State) : Bool := (t.row 0).sreg 3 == x
def v3Is (l : Nat) (x : W32) (t : State) : Bool := (t.row 0).vreg 3 l == x
/-- Row 0 is in its handler with a cause and csr.tval. -/
def trapped (c : W8) (x : W64) (t : State) : Bool :=
  (t.row 0).handler && (t.row 0).csr.cause == c && (t.row 0).csr.tval == x && (t.row 0).csr.epc == 8

-- Table 04-2, R106, R107, R109, R110.
theorem test_salu_add_wraps : after (.salu ff .add 3 1 2) (regs [(1, 0xFFFFFFFFFFFFFFFF), (2, 2)]) (s3Is 1) = true := by decide +kernel

theorem test_salu_sra_counts_six_bits :
    after (.salu ff .sra 3 1 2) (regs [(1, 0x8000000000000000), (2, 65)]) (s3Is 0xC000000000000000) = true := by decide +kernel

theorem test_salu_mulh_signed : after (.salu ff .mulh 3 1 2) (regs [(1, 0xFFFFFFFFFFFFFFFF), (2, 2)]) (s3Is 0xFFFFFFFFFFFFFFFF) = true := by
  decide +kernel

theorem test_salu_rem_sign : after (.salu ff .rem 3 1 2) (regs [(1, 0xFFFFFFFFFFFFFFF9), (2, 4)]) (s3Is 0xFFFFFFFFFFFFFFFD) = true := by
  decide +kernel

theorem test_slui : after (.slui ff 3 1 0x7FFFFFF) (regs [(1, 0x8040000000000003)]) (s3Is 0x807FFFFFF8000003) = true := by
  decide +kernel

theorem test_sadda_word : after (.sadda ff 3 1 2 true true 2) (regs [(1, 8), (2, 0x7FFFFFFFF)]) (s3Is 4) = true := by decide +kernel

theorem test_s0_discards : after (.sli ff 0 5) (regs []) (fun t => (t.row 0).sreg 0 == 0 && (t.row 0).arm.pc == 16) = true := by
  decide +kernel

-- R118 to R135: lane arithmetic, its modifiers and reductions.
theorem test_vialu_saturates_bytes :
    after (.vialu ff .adds .w8 3 1 .none 2) (lanes [0x7F80FF01] [0x01FF0101]) (v3Is 0 0x7F800002) = true := by decide +kernel

theorem test_vialu_guard_keeps_lanes :
    after (.vialu ⟨0xF0, 1, 0, 0⟩ .add .w32 3 1 .none 2)
      (let s := lanes [7, 9] [1, 1]; s.modRow 0 (fun r => { r with p := [(1, 2)] }))
      (fun t => v3Is 0 0 t && v3Is 1 10 t) = true := by decide +kernel

theorem test_vmov_rotates : after (.vmov ff 3 1 (.rot 4 1)) (lanes [5, 6] []) (fun t => v3Is 0 6 t && v3Is 31 5 t) = true := by
  decide +kernel

theorem test_vred_max_signed : after (.vred ff .max 3 1 .none 4) (lanes [0xFFFFFFFF, 3] []) (fun t => v3Is 0 3 t && v3Is 31 3 t) = true := by
  decide +kernel

theorem test_vscan_exclusive : after (.vscan ff .add true 3 1 .none 4) (lanes [4, 5, 6] []) (fun t => v3Is 0 0 t && v3Is 2 9 t) = true := by
  decide +kernel

-- R142 to R153: rounding once, flags, conversions, blocks.
theorem test_vfalu_add : after (.vfalu ff .add .f32 .rne 3 1 .none 2) (lanes [0x3F800000] [0x33800000]) (fun t =>
    v3Is 0 0x3F800000 t && (t.row 0).csr.fflags.getLsbD 0) = true := by decide +kernel

theorem test_vfma_once : after (.vfma ff .fma .f32 .rne 3 1 .none 2)
    (let s := lanes [0x3F800001] [0x3F800001]; s.modRow 0 (fun r => { r with v := r.v ++ [(96, 0xBF800002)] })) (v3Is 0 0x28800000) = true := by
  decide +kernel

theorem test_vcvt_ties_even : after (.vcvt ff .f32 .i32 .rne true 0 0 3 1 .none) (lanes [0x40200000, 0xC0600000] []) (fun t =>
    v3Is 0 2 t && v3Is 1 0xFFFFFFFC t) = true := by decide +kernel

theorem test_vfcmp_nan_unequal : after (.vfcmp ff 1 2 1 .none 2 false .ne .f32 .write) (lanes [0x7FC00000] [0x7FC00000]) (fun t =>
    ((t.row 0).preg 1).getLsbD 0 && !((t.row 0).preg 2).getLsbD 0) = true := by decide +kernel

-- R76 to R104: branches and divergence.
theorem test_br : after (.br ff .always 0 9) (regs []) (fun t => (t.row 0).arm.pc == 72) = true := by decide +kernel

theorem test_brv_splits : after (.brv ff 1 false 8) (st 32 halfSet) (fun t =>
    (t.row 0).arm.em == 0xFFFF && (t.row 0).arm.pc == 64 && (t.row 0).armId == .t &&
      (match (t.row 0).other with | some o => o.em == 0xFFFF0000 && o.pc == 16 | none => false)) = true := by decide +kernel

theorem test_call_pushes : after (.call ff 2) (regs []) (fun t =>
    (t.row 0).arm.pc == 16 && (match (t.row 0).arm.toks with | [x] => x.kind == .call && x.pca == some 16 | _ => false)) = true := by
  decide +kernel

-- R155 to R166: ports.
theorem test_pwr_to_row_below : after (.pwr ff 1 .none) (let s := st 32 chain; s.modRow 0 (fun r => { r with v := [(33, 9)] })) (fun t =>
    match (t.row 1).north.flight with | [e] => tget 0 e.words 1 == 9 && e.valid == 0xFFFFFFFF | _ => false) = true := by decide +kernel

theorem test_prd_drained : after (.prd ff 3 1) (st 32 (fifo 0 .present)) (trapped cPortDrained 0) = true := by decide +kernel

-- R181 to R183: six times one, scaled by 1, added to 1.
theorem test_combined : combined 6 127 127 (some 0x3F800000) = (0x40E00000, 0) := by decide +kernel

theorem test_dot_product : Machine.dotProduct (fun k => if k = 255 then -3 else 0) (fun k => if k = 255 then 5 else 7) = -15 := by decide +kernel

theorem test_swap_point : after (.swapPoint 0) (st 32 (fun r => { r with queue := [⟨0, .swap⟩], shadow := { latch8 with st := .swapQueued } }))
    (fun t => (t.row 0).active.st == .full && (t.row 0).shadow.st == .empty) = true := by decide +kernel

-- R236, R237, R264: memory is little-endian.
theorem test_store_far : after (.storePerform 0 7 0 false)
    (st 32 (fun r => { r with ops := [⟨7, .single, none, .store 4 1 .ordinary [⟨0, V1, 0x01020304, false⟩]⟩] }))
    (fun t => t.nearByte 0 (V1 + 3) == 1 && t.byte V1 == 0 && (t.row 0).ops.isEmpty) = true := by decide +kernel

theorem test_store_home : after (.storePerform 0 7 0 false)
    (st 32 (fun r => { r with ops := [⟨7, .single, none, .store 4 1 .ordinary [⟨0, V, 0x01020304, false⟩]⟩] }))
    (fun t => t.byte V == 4 && t.byte (V + 3) == 1 && (t.row 0).ops.isEmpty) = true := by decide +kernel

theorem test_load_outstanding : after (.ldv ff 3 ⟨1, 0, 2, 0, 0⟩ true) (regs [(1, BitVec.ofNat 64 V)]) (fun t =>
    (t.row 0).ops.length == 1 && (t.row 0).arm.flags == 0) = true := by decide +kernel

theorem test_atomic_add : after (.atomicPerform 0 7 0 false)
    (withMem [(V, 0xFF), (V + 1, 0xFF)] (st 32 (atoming (V + 4)))) (fun t => t.word V 4 == 0x10000) = true := by decide +kernel

-- R333 to R343: traps and the system instructions.
theorem test_trap_code : after (.trap ff 0x1234) (regs []) (fun t => (t.row 0).handler && (t.row 0).csr.tval == 0x1234) = true := by
  decide +kernel

theorem test_divide_by_zero : after (.salu ff .div 3 1 2) (regs [(1, 7)]) (trapped cIntDivzero 7) = true := by decide +kernel

theorem test_eret_outside_handler : after (.eret ff) (regs []) (trapped cPriv 0) = true := by decide +kernel

-- R308: the last arrival completes the phase with the sum, sign-extended.
theorem test_bar_add : after (.bar ff 3 2 .add 3)
    (let s := placed (grp 1 1 .idle); s.modRow 0 (fun r => { r with s := [(2, 0xFFFFFFFF)] })) (s3Is 0xFFFFFFFFFFFFFFFF) = true := by
  decide +kernel
-- R207, R212: an armed entry.
theorem test_peg_arms : after (.peg ff 1 2 3 2 false 5) (regs [(1, 0xFF00000012), (3, 0x400000000)]) (fun t =>
    let e := (t.row 0).pegAt 5
    e.tag == 0x12 && e.mask == 0xFF && e.count == 4 && e.st == .armed) = true := by decide +kernel
-- R279: COPY writes up to the next 8-byte boundary.
theorem test_copy_piece : after (.copy 0 1 false)
    (withMem [(V, 7)] (atWork 0 1 (some (cmd 1 [(2, BitVec.ofNat 64 V), (3, BitVec.ofNat 64 (V + 4099)), (4, 9)] 0 0 0)) 0 st32))
    (fun t => t.byte (V + 4099) == 7 && (match (t.eng 0 1).cmd with | some c => c.pos == 5 && c.phase == 0 | none => false)) = true := by
  decide +kernel
-- R376: the refill of a clk, up to the capacity.
theorem test_allowance : after (.allowanceTick 3) (State.reset.modDom 3 (fun x => { x with A := 97000, due := [(1, 100)] })) (fun t =>
    (t.dom 3).A == 98204 && (t.dom 3).due.isEmpty) = true := by decide +kernel
-- R406: a device in normal mode with a job open and its features accepted.
theorem test_status : after .status (command1 (asked 0x03 0 0 0 0 0) id st32) (fun t =>
    (t.dev.slot 0).w6 == 0x0C && (t.dev.slot 0).w7 == 0xC00000000 && t.dev.cmdHead == 1) = true := by decide +kernel
-- A step issues the word at the pc and goes to the next.
theorem test_step_nop : (match step (State.reset.withFetchWord 64 0x00FF000000000000) with
    | .next t => (t.row 0).arm.pc == 16 | _ => false) = true := by decide +kernel

end Sys2Proof.Tests
end

section
/-! SUPPORT. What a step runs: the move at the head of the agenda, the word at a row's pc, and a word placed by the host. -/

namespace Sys2Proof.Machine

/-! ### The move at the head of the agenda -/

theorem step_nil {s : State} (h : s.agenda = []) : step s = .next (drawMove s) := by
  simp [step, h]

theorem step_cons {s : State} {m : Move} {rest : List Move} (h : s.agenda = m :: rest) :
    step s = runMove m { s with agenda := rest } := by
  simp [step, h]

theorem runMove_issue {n : Nat} (h : n < 512) (s : State) : runMove (.issue n) s = issueNext n s := if_pos h

theorem runMove_issue_absent {n : Nat} (h : ¬ n < 512) (s : State) : runMove (.issue n) s = .next s := if_neg h

theorem runMove_event {i : Instr} (he : i.isEvent = true) (hw : i.wf = true) (s : State) :
    runMove (.event i) s = exec i s := by
  simp [runMove, he, hw]

/-! ### A row's turn to issue -/

/-- A row that may not issue, or that has no word at its pc, passes its turn. -/
theorem issueNext_of_not_issues {s : State} {n : Nat} (h : Row.issues s n = false) :
    issueNext n s = .next { s with cur := n } := by
  have hu : Row.issues { s with cur := n } n = false := h
  cases hw : (({ s with cur := n } : State).row n).arm.word with
  | none => simp [issueNext, hw]
  | some w => simp [issueNext, hw, hu]

/-- R336: the deferred trap that is due comes before the word. -/
theorem issueNext_of_dueTrap {s : State} {n : Nat} {w : W64} {d : Deferred} (hi : Row.issues s n = true)
    (hw : (s.row n).arm.word = some w) (hd : (s.row n).dueTrap = some d) :
    issueNext n s = .next ({ s with cur := n }.takeDeferred n d) := by
  have hi' : Row.issues { s with cur := n } n = true := hi
  have hw' : (({ s with cur := n } : State).row n).arm.word = some w := hw
  have hd' : (({ s with cur := n } : State).row n).dueTrap = some d := hd
  simp [issueNext, hi', hw', hd']

theorem issueNext_of_decode {s : State} {n : Nat} {w : W64} {i : Instr} (hi : Row.issues s n = true)
    (hw : (s.row n).arm.word = some w) (hd : (s.row n).dueTrap = none) (hf : wordFault (s.row n).arm w = none)
    (hdec : decode w = .ok i) : issueNext n s = exec i { s with cur := n } := by
  have hi' : Row.issues { s with cur := n } n = true := hi
  have hw' : (({ s with cur := n } : State).row n).arm.word = some w := hw
  have hd' : (({ s with cur := n } : State).row n).dueTrap = none := hd
  have hf' : wordFault (({ s with cur := n } : State).row n).arm w = none := hf
  simp [issueNext, hi', hw', hd', hf', hdec]

/-! ### A word that decodes, in a clause that allows every class -/

theorem decode_ok_assigned {w : W64} {i : Instr} (h : decode w = .ok i) :
    isMarker (wordOp w) = false ∧ (opFormat (wordOp w)).isNone = false := by
  cases hm : isMarker (wordOp w) with
  | true => simp [decode, hm] at h
  | false =>
    cases hf : opFormat (wordOp w) with
    | none => simp [decode, hm, hf] at h
    | some k => simp

theorem opClass_lt {op k : Nat} (h : opClass op = some k) : k < 4 := by
  unfold opClass at h
  split_ifs at h <;> simp_all <;> omega

theorem allClasses_getLsbD {k : Nat} (h : k < 4) : (0xF#4).getLsbD k = true := by
  revert k; decide

/-- R44, R45: a word that decodes raises nothing last in a clause of all four classes. -/
theorem wordFault_of_decode {a : Arm} {w : W64} {i : Instr} (h : decode w = .ok i) (hc : a.clause.cls = 0xF)
    (hl : a.atLast = true) : wordFault a w = none := by
  obtain ⟨hm, hf⟩ := decode_ok_assigned h
  cases hk : opClass (wordOp w) with
  | none => simp [wordFault, hm, hf, hl, h, hk]
  | some k => simp [wordFault, hm, hf, hl, h, hk, hc, allClasses_getLsbD (opClass_lt hk)]

/-! ### A word placed by the host (log entry 20) -/

theorem placeWord_agenda (s : State) (w : W64) : (placeWord s w).agenda = [.issue 0] := rfl

theorem placeWord_byte (s : State) (w : W64) (a : Nat) : (placeWord s w).byte a = s.byte a := rfl

/-- Row 0 standing before the word placed, the only one of its clause. -/
def Row.placed (w : W64) (r : Row) : Row :=
  { r with
    life := .running
    arm := { r.arm with pc := 8, clause := ⟨0, 0xF, 0, 15, 15, false, [w]⟩, em := laneMask r.L &&& ~~~r.exited }
    wait := none
    retake := false
    transfer := false }

theorem Row.placed_word (w : W64) (r : Row) : (r.placed w).arm.word = some w := by
  simp [Row.placed, Arm.word]

theorem placeWord_row_zero (s : State) (w : W64) : (placeWord s w).row 0 = (s.row 0).placed w :=
  modRow_row_same (s.modDie 0 (fun d => { d with halted := false })) 0 (Row.placed w)

theorem placeWord_halted (s : State) (w : W64) : ((placeWord s w).die 0).halted = false :=
  congrArg Die.halted (modDie_die_same s 0 (fun d => { d with halted := false }))

theorem placeWord_word (s : State) (w : W64) : ((placeWord s w).row 0).arm.word = some w := by
  rw [placeWord_row_zero, Row.placed_word]

theorem placeWord_issues (s : State) (w : W64) : Row.issues (placeWord s w) 0 = true := by
  simp only [Row.issues, dieOf, Nat.zero_div, placeWord_halted, placeWord_word]
  rw [placeWord_row_zero]
  rfl

theorem placeWord_dueTrap (s : State) (w : W64) : ((placeWord s w).row 0).dueTrap = none := by
  rw [placeWord_row_zero]; rfl

theorem placeWord_wordFault {w : W64} {i : Instr} (s : State) (h : decode w = .ok i) :
    wordFault ((placeWord s w).row 0).arm w = none := by
  rw [placeWord_row_zero]
  exact wordFault_of_decode h rfl rfl

/-- The host's placement is the next to run. -/
theorem step_placeWord {w : W64} {i : Instr} (s : State) (h : decode w = .ok i) :
    step (placeWord s w) = exec i { placeWord s w with agenda := [], cur := 0 } := by
  rw [step_cons (placeWord_agenda s w), runMove_issue (by decide)]
  exact issueNext_of_decode (s := { placeWord s w with agenda := [] }) (placeWord_issues s w) (placeWord_word s w)
    (placeWord_dueTrap s w) (placeWord_wordFault s h) h

theorem withFetchWord_toNat (s : State) (w : W64) : s.withFetchWord 64 w.toNat = placeWord s w := by
  rw [State.withFetchWord, Nat.mod_eq_of_lt w.isLt, BitVec.ofNat_toNat, BitVec.setWidth_eq]

/-- Settles O5: each kind of move by its lemma, and the host's word through its placement. -/
theorem stepRunsDecoded : Obligations.StepRunsDecoded := by
  unfold Obligations.StepRunsDecoded
  intro s n w i rest
  refine ⟨fun hs hn hi hw => ?_, fun hs he hwf => ?_, fun hs hi => ?_, step_nil, fun hdec => ?_⟩
  · rw [step_cons hs, runMove_issue hn]
    exact ⟨fun d hd => issueNext_of_dueTrap (s := { s with agenda := rest }) hi hw hd,
      fun hd hf hdec => issueNext_of_decode (s := { s with agenda := rest }) hi hw hd hf hdec⟩
  · rw [step_cons hs, runMove_event he hwf]
  · rw [step_cons hs]
    by_cases hn : n < 512
    · rw [runMove_issue hn]
      exact ⟨n, issueNext_of_not_issues (s := { s with agenda := rest }) hi⟩
    · exact ⟨s.cur, runMove_issue_absent hn _⟩
  · rw [withFetchWord_toNat]
    exact ⟨step_placeWord s hdec, placeWord_word s w, placeWord_byte s w⟩

end Sys2Proof.Machine
end

section
/-! SUPPORT. The end of a stoke (R385): the in-rush arbiter sets the clk of readiness on the die's count, and STOKE_COMPLETE
compares it with the count of the row's domain, which is behind the die's in every class but 0 (R374, log entry 3). -/

namespace Sys2Proof.Machine

/-- STOKE_COMPLETE does nothing before the row's domain has counted up to the clk of readiness, whatever the die has counted. -/
theorem exec_stokeComplete_early {s : State} {n : Nat} {fp : Bool} {x : Stoke} {z : W64} (hx : (s.die (dieOf n)).inrush = [x])
    (hrow : x.row = n) (hfp : x.fp = fp) (hz : x.ready = some z) (hlate : (s.rowClk n).toNat < z.toNat) :
    exec (.stokeComplete n fp) s = .next s := by
  have hwait : z.ule (s.rowClk n) = false := by simpa [BitVec.ule] using hlate
  show execStokeComplete n fp s = .next s
  simp [execStokeComplete, hx, hrow, hfp, hz, hwait]

/-- The FP datapath of row 0 was admitted at clk 0 of its die and is usable at clk 48. -/
def stokeAdmitted : Stoke := ⟨0, true, 0, 0, some 48⟩

/-- Clk 48 of die 0, whose domain 0 runs in class 3, at half the rate, and has counted 24. -/
def slowDomainStoking : State :=
  (State.reset.modDie 0 (fun y => { y with clk := 48, inrush := [stokeAdmitted] })).modDom 0
    (fun x => { x with cls := 3, clk := 24 })

theorem slowDomainStoking_inrush : (slowDomainStoking.die 0).inrush = [stokeAdmitted] := by
  simp [slowDomainStoking]

theorem slowDomainStoking_clk : (slowDomainStoking.die 0).clk = 48 := by
  simp [slowDomainStoking]

theorem slowDomainStoking_rowClk : slowDomainStoking.rowClk 0 = 24 := by
  simp [slowDomainStoking, State.rowClk, domOf]

theorem exec_stokeComplete_slowDomainStoking :
    exec (.stokeComplete 0 true) slowDomainStoking = .next slowDomainStoking :=
  exec_stokeComplete_early slowDomainStoking_inrush rfl rfl rfl (by rw [slowDomainStoking_rowClk]; decide)

/-- Refutes O54: 48 clk after its admission a unit in a domain of class 3 is not yet usable, as STOKE_COMPLETE waits for the
domain's count where R385 and the statement count the die's clk. -/
theorem not_damper : ¬ Obligations.Damper := by
  unfold Obligations.Damper
  rintro ⟨-, -, -, hstoke⟩
  obtain ⟨-, -, -, -, -, -, hcomplete, -⟩ := hstoke slowDomainStoking 0 true stokeAdmitted stokeAdmitted 48
  obtain ⟨t, ht, hdone, -⟩ := hcomplete slowDomainStoking_inrush rfl rfl rfl (by
    show (48 : W64).toNat ≤ (slowDomainStoking.die 0).clk.toNat
    rw [slowDomainStoking_clk])
  rw [exec_stokeComplete_slowDomainStoking] at ht
  cases ht
  exact List.cons_ne_nil _ _ (slowDomainStoking_inrush.symm.trans hdone)

end Sys2Proof.Machine
end

section
/-! SUPPORT. What a reset leaves (R13, R395): no row has a record of its own, so each stands at the values of Table 01-3, and
no byte has been written. -/

namespace Sys2Proof.Machine

@[simp] theorem reset_row (n : Nat) : State.reset.row n = .reset := tget_nil Row.reset n

/-- R228 (log entry 5): until a key of HBM has changed, what nothing has written reads zero, there and in side memory. -/
theorem unwritten_of_era_zero {j : Job} (h : j.era = 0) (a : Nat) : j.unwritten a = 0 := by
  simp [Job.unwritten, h]

@[simp] theorem reset_byte (a : Nat) : State.reset.byte a = 0 := by
  have hmem : tget 0 State.reset.job.mem a = 0 := tget_nil 0 a
  have hunwritten : State.reset.job.unwritten a = 0 := unwritten_of_era_zero rfl a
  rw [State.byte, Job.byte, hmem, hunwritten]
  exact BitVec.xor_self

/-- Settles O9: each row stands as `Row.reset` by `reset_row`, s0 reads zero by `sreg_zero`, the memory by `reset_byte`; every
other value is a field of the state that a reset leaves. -/
theorem resetState : Obligations.ResetState := by
  unfold Obligations.ResetState
  intro n a
  simp only [reset_row, sreg_zero, reset_byte]
  simp only [Row.reset, Csrs.reset, Bank.reset, State.reset, Job.reset, Dev.reset, and_self]

end Sys2Proof.Machine
end

section
/-! SUPPORT. Encoding and then decoding gives the instruction back (R52 to R61): what a word put together of fields holds in each
of them, and, format by format, that every instruction's word decodes to it. -/

namespace Sys2Proof

/-! ### Fields of words put together -/

@[simp] theorem fieldAt_append_low {a b lo n : Nat} (x : BitVec a) (y : BitVec b) (h : lo + n ≤ b) :
    fieldAt lo n (x ++ y) = fieldAt lo n y :=
  field_eq fun i hi => by rw [bit_of_append, if_pos (by omega), bit_of_field _ _ _ _ hi]

@[simp] theorem fieldAt_append_high {a b lo n : Nat} (x : BitVec a) (y : BitVec b) (h : b ≤ lo) :
    fieldAt lo n (x ++ y) = fieldAt (lo - b) n x :=
  field_eq fun i hi => by
    rw [bit_of_append, if_neg (by omega), bit_of_field _ _ _ _ hi]
    congr 1; omega

@[simp] theorem getLsbD_append_low {a b i : Nat} (x : BitVec a) (y : BitVec b) (h : i < b) :
    (x ++ y).getLsbD i = y.getLsbD i := by rw [bit_of_append, if_pos h]

@[simp] theorem getLsbD_append_high {a b i : Nat} (x : BitVec a) (y : BitVec b) (h : b ≤ i) :
    (x ++ y).getLsbD i = x.getLsbD (i - b) := by rw [bit_of_append, if_neg (by omega)]

@[simp] theorem fieldAt_all {n : Nat} (x : BitVec n) : fieldAt 0 n x = x :=
  field_eq fun i _ => by rw [Nat.zero_add]

@[simp] theorem fieldAt_zero {k lo n : Nat} : fieldAt lo n 0#k = 0#n := field_eq fun i _ => by simp

@[simp] theorem fieldAt_setWidth_low {a b : Nat} (x : BitVec a) (h : a ≤ b) : fieldAt 0 a (x.setWidth b) = x :=
  field_eq fun i hi => by simp; omega

@[simp] theorem fieldAt_setWidth_high {a b lo n : Nat} (x : BitVec a) (h : a ≤ lo) :
    fieldAt lo n (x.setWidth b) = 0 :=
  field_eq fun i _ => by simp [BitVec.getLsbD_of_ge x (lo + i) (by omega)]

@[simp] theorem fieldAt_one {k : Nat} (lo : Nat) (x : BitVec k) : fieldAt lo 1 x = bit (x.getLsbD lo) :=
  field_eq fun i hi => by
    obtain rfl : i = 0 := by omega
    cases x.getLsbD lo <;> simp [bit]

@[simp] theorem bit_getLsbD (b : Bool) : (bit b).getLsbD 0 = b := by cases b <;> rfl

@[simp] theorem bit_toNat_le (b : Bool) : (bit b).toNat ≤ 1 := by cases b <;> decide

@[simp] theorem zero_append_bit_eq_one (b : Bool) : (0#1 ++ bit b == 1#2) = b := by cases b <;> rfl

/-! ### Codes -/

@[simp] theorem need_true : need true = some () := rfl
@[simp] theorem sregOf_zero : sregOf 0#6 = some 0 := rfl
@[simp] theorem predOf_zero : predOf 0#6 = some 0 := rfl

theorem named_enc_EmSel (o : EmSel) : named EmSel.all (enc 9 EmSel.all o) = some o := by cases o <;> rfl
theorem named_enc_BrCond (o : BrCond) : named BrCond.codes (enc 3 BrCond.codes o) = some o := by cases o <;> rfl
theorem named_enc_FKind (o : FKind) : named FKind.all (enc 2 FKind.all o) = some o := by cases o <;> rfl
theorem named_enc9_Form3 (o : Form3) : named Form3.all (enc 9 Form3.all o) = some o := by cases o <;> rfl

/-! Codes that the encoder gives a wider field than the decoder reads: the bits above are zero. -/

theorem enc_FmaOp_four (o : FmaOp) : enc 4 FmaOp.all o = 0#2 ++ enc 2 FmaOp.all o := by cases o <;> rfl
theorem enc_FredOp_four (o : FredOp) : enc 4 FredOp.all o = 0#2 ++ enc 2 FredOp.all o := by cases o <;> rfl
theorem enc_FunOp_four (o : FunOp) : enc 4 FunOp.all o = 0#1 ++ enc 3 FunOp.all o := by cases o <;> rfl
theorem enc_Form3_imm (o : Form3) : enc 23 Form3.all o = 0#21 ++ enc 2 Form3.all o := by cases o <;> rfl
theorem csrNumber_in_imm (c : Csr) : BitVec.ofNat 27 c.number = 0#15 ++ BitVec.ofNat 12 c.number := by cases c <;> rfl

/-- Scope codes begin at 1, so that 0 names none (Tables 10-7 and 11-2). -/
theorem named_scopeCode (s : Scope) : named Scope.all (BitVec.ofNat 3 (codeIn Scope.all s + 1) - 1#3) = some s := by
  cases s <;> rfl

@[simp] theorem scopeCode_ne_zero (s : Scope) : (BitVec.ofNat 3 (codeIn Scope.all s + 1) != 0#3) = true := by
  cases s <;> rfl

/-- The two sizes of AMOS: sz = 3 where it works on 64 bits (Table 11-1). -/
@[simp] theorem amosSize_eq_two (w : Bool) : ((if w = true then 3#3 else 2#3) == 2#3) = !w := by cases w <;> rfl
@[simp] theorem amosSize_eq_three (w : Bool) : ((if w = true then 3#3 else 2#3) == 3#3) = w := by cases w <;> rfl

theorem atomicOff_eq (fn : AFn) (ret : Bool) (o : AOrd) :
    atomicOff fn ret o = enc 4 AFn.all fn ++ bit ret ++ 0#1 ++ o.bits ++ 0#1 := rfl

/-! ### From an instruction to its word and back -/

theorem decode_mkWord {op : BitVec 8} {g : Guard} {x : Body} {k : Fmt} {i : Instr} (hk : opFormat op.toNat = some k)
    (hm : isMarker op.toNat = false) (hi : decFields g op.toNat x k = some i) (hw : i.wf = true) :
    decode (mkWord op g x) = .ok i := by
  simp [decode, wordOp_mkWord, wordBody_mkWord, wordGuard_mkWord, hk, hm, hi, hw]

/-- An instruction that is well formed has a word, which decodes to it. -/
def DecodesBack (i : Instr) : Prop := i.wf = true → ∃ w, encode i = some w ∧ decode w = .ok i

/-- It does if the fields of its word, read in the format of its opcode, give it back. -/
theorem DecodesBack.of_fields {op : BitVec 8} {g : Guard} {x : Body} {i : Instr} (k : Fmt)
    (he : encode i = some (mkWord op g x)) (hk : opFormat op.toNat = some k) (hm : isMarker op.toNat = false)
    (hi : decFields g op.toNat x k = some i) : DecodesBack i :=
  fun hw => ⟨_, he, decode_mkWord hk hm hi hw⟩

/-! #### Format by format -/

theorem decodesBack_scalarR (g : Guard) :
    (∀ o d a b, DecodesBack (.salu g o d a b)) ∧ (∀ d a b x w sh, DecodesBack (.sadda g d a b x w sh)) ∧
    (∀ d a m b f s, DecodesBack (.smovv g d a m b f s)) := by
  and_intros <;> intros <;> refine .of_fields .scalarR rfl rfl rfl ?_
  all_goals simp [-Nat.reduceAdd, -BitVec.getLsbD_eq_getElem, decFields, FmtR.unpack_pack, decScalarR, sregOf_six,
    amodOf_bits, named_enc_SaluOp]

theorem decodesBack_scalarI (g : Guard) :
    (∀ d a i, DecodesBack (.saddi g d a i)) ∧ (∀ d a i, DecodesBack (.sandi g d a i)) ∧
    (∀ d a i, DecodesBack (.sori g d a i)) ∧ (∀ d a i, DecodesBack (.sxori g d a i)) ∧
    (∀ d a n, DecodesBack (.sshli g d a n)) ∧ (∀ d a n, DecodesBack (.sshri g d a n)) ∧
    (∀ d a n, DecodesBack (.ssrai g d a n)) ∧ (∀ d i, DecodesBack (.sli g d i)) ∧
    (∀ d a i, DecodesBack (.slui g d a i)) ∧ (∀ d a i, DecodesBack (.slhi g d a i)) ∧
    (∀ d c, DecodesBack (.scsr g d c)) ∧ (∀ a k c, DecodesBack (.scsw g a k c)) ∧
    (∀ d a k c, DecodesBack (.scsx g d a k c)) := by
  and_intros <;> intros <;> refine .of_fields .scalarI rfl rfl rfl ?_
  all_goals simp [-Nat.reduceAdd, -BitVec.getLsbD_eq_getElem, decFields, FmtI.unpack_pack, decScalarI, sregOf_six,
    csrNumber_in_imm, csr_ofNumber_number, named_enc_CsrMode]

theorem decodesBack_vectorR (g : Guard) :
    (∀ o w d a m b, DecodesBack (.vialu g o w d a m b)) ∧ (∀ o w d a m b, DecodesBack (.vialus g o w d a m b)) ∧
    (∀ o w d a m b, DecodesBack (.vmad g o w d a m b)) ∧ (∀ c d a m b, DecodesBack (.vsel g c d a m b)) ∧
    (∀ d a h, DecodesBack (.vbcast g d a h)) ∧ (∀ d a m, DecodesBack (.vmov g d a m)) ∧
    (∀ o d a m s, DecodesBack (.vred g o d a m s)) ∧ (∀ o x d a m s, DecodesBack (.vscan g o x d a m s)) ∧
    (∀ d a b n s, DecodesBack (.vperm g d a b n s)) := by
  and_intros <;> intros <;> refine .of_fields .vectorR rfl rfl rfl ?_
  all_goals simp [-Nat.reduceAdd, -BitVec.getLsbD_eq_getElem, decFields, FmtR.unpack_pack, decVectorR, sregOf_six,
    amodOf_bits, named_enc_VOp, named_enc_VW, named_enc_MadOp, named_enc_RedOp]

theorem decodesBack_vectorI (g : Guard) :
    (∀ d a i, DecodesBack (.vaddi g d a i)) ∧ (∀ d a i, DecodesBack (.vandi g d a i)) ∧
    (∀ d a i, DecodesBack (.vori g d a i)) ∧ (∀ d a i, DecodesBack (.vxori g d a i)) ∧
    (∀ d a n, DecodesBack (.vshli g d a n)) ∧ (∀ d a n, DecodesBack (.vshri g d a n)) ∧
    (∀ d a n, DecodesBack (.vsrai g d a n)) ∧ (∀ d i, DecodesBack (.vli g d i)) ∧
    (∀ d a i, DecodesBack (.vidx g d a i)) ∧ (∀ f h d, DecodesBack (.vfli g f h d)) := by
  and_intros <;> intros <;> refine .of_fields .vectorI rfl rfl rfl ?_
  all_goals simp [-Nat.reduceAdd, -BitVec.getLsbD_eq_getElem, decFields, FmtI.unpack_pack, decVectorI, sregOf_six]

theorem decodesBack_floatR (g : Guard) :
    (∀ o t r d a m b, DecodesBack (.vfalu g o t r d a m b)) ∧ (∀ o t r d a m b, DecodesBack (.vfma g o t r d a m b)) ∧
    (∀ o t r d a m b, DecodesBack (.vfmas g o t r d a m b)) ∧ (∀ o t r d a m, DecodesBack (.vfun g o t r d a m)) ∧
    (∀ t r d a m b, DecodesBack (.vfdiv g t r d a m b)) ∧ (∀ t h d a m b, DecodesBack (.vfclass g t h d a m b)) ∧
    (∀ t h a m b, DecodesBack (.vfclassTrap g t h a m b)) ∧
    (∀ o t r d a m s, DecodesBack (.vfred g o t r d a m s)) := by
  and_intros <;> intros <;> refine .of_fields .floatR rfl rfl rfl ?_
  all_goals simp [-Nat.reduceAdd, -BitVec.getLsbD_eq_getElem, decFields, FmtR.unpack_pack, decFloatR, fnFloat,
    enc_FmaOp_four, enc_FredOp_four, enc_FunOp_four, sregOf_six, predOf_six, amodOf_bits, named_enc_FTy, named_enc_Rnd,
      named_enc_FaluOp, named_enc_FmaOp, named_enc_FunOp, named_enc_Half, named_enc_FredOp]

theorem decodesBack_convR (g : Guard) :
    (∀ st dt r sgn ed es d a m, DecodesBack (.vcvt g st dt r sgn ed es d a m)) ∧
    (∀ bf k d a m b, DecodesBack (.vsrnd g bf k d a m b)) ∧
    (∀ j r sgn w d a m b, DecodesBack (.vqnt g j r sgn w d a m b)) ∧
    (∀ j sgn d a b, DecodesBack (.vdqnt g j sgn d a b)) ∧
    (∀ sto k sgn w d a b, DecodesBack (.vreq g sto k sgn w d a b)) ∧
    (∀ sgn w d a m, DecodesBack (.vbmax g sgn w d a m)) ∧ (∀ sgn w d a, DecodesBack (.vpln g sgn w d a)) ∧
    (∀ sgn w d a, DecodesBack (.vupln g sgn w d a)) := by
  and_intros <;> intros <;> refine .of_fields .convR rfl rfl rfl ?_
  all_goals simp [-Nat.reduceAdd, -BitVec.getLsbD_eq_getElem, decFields, FmtR.unpack_pack, decConvR, sregOf_six,
    amodOf_bits, named_enc_CTy, named_enc_Rnd]

theorem decodesBack_cmp (g : Guard) :
    (∀ pt pf a m b sb c ty k, DecodesBack (.vicmp g pt pf a m b sb c ty k)) ∧
    (∀ pt pf a m b sb c ty k, DecodesBack (.vfcmp g pt pf a m b sb c ty k)) ∧
    (∀ pt pf a b c ty k, DecodesBack (.sicmp g pt pf a b c ty k)) := by
  and_intros <;> intros <;> refine .of_fields .cmp rfl rfl rfl ?_
  all_goals simp [-Nat.reduceAdd, -BitVec.getLsbD_eq_getElem, decFields, FmtC.unpack_pack, decC, sregOf_six, amodOf_bits,
    named_enc_Cond, named_enc_Cmb, named_enc_FTy]

theorem decodesBack_predR (g : Guard) :
    (∀ q fn d a b, DecodesBack (.plop g q fn d a b)) ∧ (∀ a, DecodesBack (.emset g a)) ∧ DecodesBack (.emsetAll g) ∧
    (∀ d s, DecodesBack (.emget g d s)) ∧ (∀ a, DecodesBack (.jmpr g a)) ∧ (∀ a, DecodesBack (.jmprCall g a)) := by
  and_intros <;> intros <;> refine .of_fields .predR rfl rfl rfl ?_
  all_goals simp [-Nat.reduceAdd, -BitVec.getLsbD_eq_getElem, decFields, FmtR.unpack_pack, decPredR, sregOf_six,
    predOf_six, named_enc_EmSel]

theorem decodesBack_ctl (g : Guard) :
    (∀ c pr off, DecodesBack (.br g c pr off)) ∧ (∀ pr n off, DecodesBack (.brv g pr n off)) ∧
    (∀ off, DecodesBack (.join g off)) ∧ (∀ pr n, DecodesBack (.brk g pr n)) ∧ (∀ pr n, DecodesBack (.cont g pr n)) ∧
    (∀ off, DecodesBack (.loops g off)) ∧ (∀ off, DecodesBack (.call g off)) := by
  and_intros <;> intros <;> refine .of_fields .ctl rfl rfl rfl ?_
  all_goals simp [-Nat.reduceAdd, -BitVec.getLsbD_eq_getElem, decFields, FmtB.unpack_pack, decB, named_enc_BrCond]

theorem decodesBack_sys (g : Guard) :
    DecodesBack (.ret g) ∧ DecodesBack (.lexit g) ∧ DecodesBack (.exit g) ∧ (∀ x, DecodesBack (.plive g x)) ∧
    DecodesBack (.pseal g) ∧ DecodesBack (.wswap g) ∧ (∀ k sc, DecodesBack (.fence g k sc)) ∧
    (∀ all x, DecodesBack (.flwait g all x)) ∧ (∀ c, DecodesBack (.trap g c)) ∧ DecodesBack (.eret g) ∧
    (∀ m, DecodesBack (.idem g m)) ∧ DecodesBack (.idend g) ∧ (∀ wake u n, DecodesBack (.phint g wake u n)) ∧
    DecodesBack (.yield g) ∧ (∀ d run, DecodesBack (.rdcyc g d run)) ∧ (∀ c, DecodesBack (.halt g c)) := by
  and_intros <;> intros <;> refine .of_fields .sys rfl rfl rfl ?_
  all_goals simp [-Nat.reduceAdd, -BitVec.getLsbD_eq_getElem, decFields, FmtS.unpack_pack, decS, named_scopeCode,
    named_enc_FKind]

theorem decodesBack_portR (g : Guard) :
    (∀ a m, DecodesBack (.pwr g a m)) ∧ (∀ d pv, DecodesBack (.prd g d pv)) ∧
    (∀ d pv qt qs, DecodesBack (.prdn g d pv qt qs)) ∧ (∀ d s, DecodesBack (.pstat g d s)) ∧
    (∀ d a h e, DecodesBack (.accrd g d a h e)) ∧ (∀ d a h e, DecodesBack (.accwr g d a h e)) ∧
    (∀ d f, DecodesBack (.mstat g d f)) := by
  and_intros <;> intros <;> refine .of_fields .portR rfl rfl rfl ?_
  all_goals simp [-Nat.reduceAdd, -BitVec.getLsbD_eq_getElem, decFields, FmtR.unpack_pack, decPortR, sregOf_six,
    predOf_six, amodOf_bits, named_enc9_Form3]

theorem decodesBack_portI (g : Guard) :
    (∀ qs n, DecodesBack (.pxfer g qs n)) ∧ (∀ f c, DecodesBack (.accz g f c)) := by
  and_intros <;> intros <;> refine .of_fields .portI rfl rfl rfl ?_
  all_goals simp [-Nat.reduceAdd, -BitVec.getLsbD_eq_getElem, decFields, FmtI.unpack_pack, decPortI, six]

theorem decodesBack_mat (g : Guard) :
    (∀ a n fmt sa ss fs, DecodesBack (.wld g a n fmt sa ss fs)) ∧ (∀ f, DecodesBack (.mmac g f)) := by
  and_intros <;> intros <;> refine .of_fields .mat rfl rfl rfl ?_
  all_goals simp [-Nat.reduceAdd, -BitVec.getLsbD_eq_getElem, decFields, FmtX.unpack_pack, decX]

theorem decodesBack_mem (g : Guard) :
    (∀ d m vol fs, DecodesBack (.sld g d m vol fs)) ∧ (∀ d m vol, DecodesBack (.sst g d m vol)) ∧
    (∀ d m fs, DecodesBack (.ldv g d m fs)) ∧ (∀ d m, DecodesBack (.stv g d m)) ∧
    (∀ d m fs, DecodesBack (.ldx g d m fs)) ∧ (∀ d m, DecodesBack (.stx g d m)) ∧
    (∀ d m fs, DecodesBack (.ldt g d m fs)) ∧ (∀ d b off fs, DecodesBack (.ldm g d b off fs)) ∧
    (∀ d m fs, DecodesBack (.ldvol g d m fs)) ∧ (∀ d m, DecodesBack (.stvol g d m)) ∧
    (∀ d m fs, DecodesBack (.ldacq g d m fs)) ∧ (∀ d m, DecodesBack (.strel g d m)) ∧
    (∀ d b off many, DecodesBack (.own g d b off many)) ∧ (∀ d b off many, DecodesBack (.disown g d b off many)) ∧
    (∀ d b x sc fn ret o fs, DecodesBack (.amo g d b x sc fn ret o fs)) ∧
    (∀ d b x sc fn o, DecodesBack (.red g d b x sc fn o)) ∧
    (∀ d b w fn ret o fs, DecodesBack (.amos g d b w fn ret o fs)) := by
  and_intros <;> intros <;> refine .of_fields .mem rfl rfl rfl ?_
  all_goals simp [-Nat.reduceAdd, -BitVec.getLsbD_eq_getElem, decFields, FmtM.unpack_pack, decM, FmtM.mem, atomicOff_eq,
    sregOf_six, predOf_six, aordOf_bits, named_enc_AFn]

theorem decodesBack_ringE (g : Guard) :
    (∀ a, DecodesBack (.mdrain g a)) ∧ (∀ a, DecodesBack (.mfill g a)) ∧
    (∀ a b c fl act i, DecodesBack (.peg g a b c fl act i)) ∧ (∀ x, DecodesBack (.unpeg g x)) ∧
    (∀ a i fs, DecodesBack (.pegw g a i fs)) ∧ (∀ d t i, DecodesBack (.pegq g d t i)) ∧
    (∀ d f, DecodesBack (.rpos g d f)) := by
  and_intros <;> intros <;> refine .of_fields .ringE rfl rfl rfl ?_
  all_goals simp [-Nat.reduceAdd, -BitVec.getLsbD_eq_getElem, decFields, FmtE.unpack_pack, decRingE, enc_Form3_imm,
    named_enc_Form3]

theorem decodesBack_engineE (g : Guard) :
    (∀ a die e, DecodesBack (.ctail g a die e)) ∧ (∀ die e, DecodesBack (.ctailRetry g die e)) ∧
    (∀ die e, DecodesBack (.ctailSkip g die e)) ∧ (∀ a b die e, DecodesBack (.ctailStart g a b die e)) ∧
    (∀ d f die e, DecodesBack (.cseq g d f die e)) ∧ (∀ b die e fs, DecodesBack (.cwait g b die e fs)) ∧
    (∀ a b die u, DecodesBack (.cbacq g a b die u)) ∧ (∀ a die u, DecodesBack (.cbrel g a die u)) ∧
    (∀ a b fin die u, DecodesBack (.cbpub g a b fin die u)) ∧ (∀ a die u, DecodesBack (.cbpubGet g a die u)) ∧
    (∀ a b, DecodesBack (.desc g a b)) := by
  and_intros <;> intros <;> refine .of_fields .engineE rfl rfl rfl ?_
  all_goals simp [-Nat.reduceAdd, -BitVec.getLsbD_eq_getElem, decFields, FmtE.unpack_pack, decEngineE,
    -BitVec.zero_append_zero, -BitVec.reduceAppend, named_enc_Form3]

theorem decodesBack_taskE (g : Guard) :
    (∀ a b c inc pri vf n va, DecodesBack (.spawn g a b c inc pri vf n va)) ∧ (∀ a, DecodesBack (.tjoin g a)) ∧
    (∀ d k, DecodesBack (.targ g d k)) ∧ DecodesBack (.tend g) ∧ (∀ d b o n, DecodesBack (.bar g d b o n)) ∧
    (∀ b o n, DecodesBack (.bara g b o n)) ∧ (∀ d n, DecodesBack (.barw g d n)) ∧ DecodesBack (.trig g) := by
  and_intros <;> intros <;> refine .of_fields .taskE rfl rfl rfl ?_
  all_goals simp [-Nat.reduceAdd, -BitVec.getLsbD_eq_getElem, decFields, FmtE.unpack_pack, decTaskE, named_enc_BarOp]


theorem decodesBack_nop (g : Guard) : DecodesBack (.nop g) := .of_fields .nop rfl rfl rfl rfl

theorem decodesBack_pmov (g : Guard) (f : PmovForm) : DecodesBack (.pmov g f) := by
  cases f <;> refine .of_fields .predR rfl rfl rfl ?_
  all_goals simp [decFields, FmtR.unpack_pack, decPredR, sregOf_six, predOf_six, amodOf_bits]

/-- Every instruction of the opcode table does: the events, which have no word, are the other constructors. -/
theorem decodesBack_of_not_event {i : Instr} : i.isEvent = false → DecodesBack i := by
  cases i <;> simp only [Instr.isEvent, reduceCtorEq, forall_const, false_implies, decodesBack_nop, decodesBack_pmov,
    decodesBack_scalarR, decodesBack_scalarI,
    decodesBack_vectorR, decodesBack_vectorI, decodesBack_floatR, decodesBack_convR, decodesBack_cmp, decodesBack_predR,
    decodesBack_ctl, decodesBack_sys, decodesBack_portR, decodesBack_portI, decodesBack_mat, decodesBack_mem,
    decodesBack_ringE, decodesBack_engineE, decodesBack_taskE]

/-- Settles O1: format by format, the fields of an instruction's word read back (`decodesBack_scalarR` and its like). -/
theorem roundTrip : Obligations.RoundTrip := by
  unfold Obligations.RoundTrip
  exact fun i hw he => decodesBack_of_not_event he hw

end Sys2Proof
end

section
/-! SUPPORT. Decoding and then encoding gives the word back (R54, R61): what each field holds that the decoder takes, and, format
by format, that the encoder puts the same fields together again. -/

namespace Sys2Proof

/-! ### What a field that reads back holds -/

theorem need_eq_some {b : Bool} {u : Unit} : need b = some u ↔ b = true := by cases b <;> simp [need]

theorem sregOf_eq_some {x : BitVec 6} {r : SReg} : sregOf x = some r ↔ x = six r := by revert x r; decide

theorem predOf_eq_some {x : BitVec 6} {r : PReg} : predOf x = some r ↔ x = six r := by revert x r; decide

theorem named_eq_some {α : Type} [DecidableEq α] {n : Nat} {l : List α} {x : BitVec n} {o : α} (hl : l.Nodup)
    (ho : named l (enc n l o) = some o) : named l x = some o ↔ x = enc n l o := by
  refine ⟨fun h => ?_, fun h => h ▸ ho⟩
  obtain ⟨hx, rfl⟩ := List.getElem?_eq_some_iff.1 h
  rw [enc, codeIn, hl.idxOf_getElem, BitVec.ofNat_toNat, BitVec.setWidth_eq]

theorem named_scope_eq_some {x : BitVec 3} {s : Scope} :
    named Scope.all (x - 1#3) = some s ↔ x = BitVec.ofNat 3 (codeIn Scope.all s + 1) := by
  revert x; cases s <;> decide

theorem csr_number_of_mem : ∀ e ∈ Csr.numbers, e.2.number = e.1 := by decide

theorem csr_ofNumber_eq_some {x : BitVec 12} {c : Csr} : Csr.ofNumber x = some c ↔ x = BitVec.ofNat 12 c.number := by
  refine ⟨fun h => ?_, fun h => h ▸ csr_ofNumber_number c⟩
  obtain ⟨e, he, rfl⟩ := Option.map_eq_some_iff.1 h
  have hx : e.1 = x.toNat := by simpa using List.find?_some he
  rw [csr_number_of_mem e (List.mem_of_find?_eq_some he), hx, BitVec.ofNat_toNat, BitVec.setWidth_eq]

theorem append_eq {n m : Nat} {x : BitVec (n + m)} {a : BitVec n} {b : BitVec m} (ha : a = fieldAt m n x)
    (hb : b = fieldAt 0 m x) : a ++ b = x := by
  subst ha hb
  refine BitVec.eq_of_getLsbD_eq fun i hi => ?_
  rw [bit_of_append]
  split
  · next h => rw [bit_of_field _ _ _ _ h, Nat.zero_add]
  · rw [bit_of_field _ _ _ _ (by omega)]
    congr 1; omega

@[simp] theorem fieldAt_fieldAt {k lo n lo' n' : Nat} (x : BitVec k) (h : lo + n ≤ n') :
    fieldAt lo n (fieldAt lo' n' x) = fieldAt (lo' + lo) n x :=
  field_eq fun i hi => by rw [bit_of_field _ _ _ _ (by omega), bit_of_field _ _ _ _ hi, Nat.add_assoc]

theorem setWidth_fieldAt {k n : Nat} {x : BitVec k} (h : fieldAt n (k - n) x = 0#(k - n)) :
    (fieldAt 0 n x).setWidth k = x := by
  refine BitVec.eq_of_getLsbD_eq fun i hi => ?_
  have habove (hn : n ≤ i) : x.getLsbD i = false := by
    have := bit_of_field n (k - n) x (i - n) (by omega)
    rw [h, Nat.add_sub_cancel' hn] at this
    simpa using this.symm
  by_cases hn : i < n
  · simp [hi, bit_of_field _ _ _ _ hn]
  · simp [BitVec.getLsbD_of_ge _ i (Nat.le_of_not_lt hn), habove (Nat.le_of_not_lt hn)]

theorem eq_three {k : BitVec 2} (h0 : k.toNat ≠ 0) (h1 : k.toNat ≠ 1) (h2 : k.toNat ≠ 2) : k = 3#2 := by
  revert k; decide

/-- A modifier field is its kind, its segment code and its distance (Table 02-5). -/
theorem amod_field_eq {x : BitVec 12} {k : BitVec 2} (h : (fieldAt 10 2 x).toNat = k.toNat) :
    x = k ++ fieldAt 6 4 x ++ fieldAt 0 6 x := by
  have hk : k = fieldAt 10 2 x := (BitVec.eq_of_toNat_eq h).symm
  symm
  apply append_eq
  · apply append_eq <;> simp [hk]
  · rfl

theorem amodOf_eq_some {x : BitVec 12} {m : Amod} : amodOf x = some m ↔ x = m.bits := by
  refine ⟨fun h => ?_, fun h => h ▸ amodOf_bits m⟩
  simp only [amodOf] at h
  split at h
  · split at h
    · next hx =>
      cases h
      exact eq_of_beq hx
    · cases h
  · next hk =>
    cases h
    exact amod_field_eq hk
  · next hk =>
    cases h
    exact amod_field_eq hk
  · next h0 h1 h2 =>
    cases h
    exact amod_field_eq (congrArg BitVec.toNat (eq_three h0 h1 h2))

theorem aord_fields_eq {o : BitVec 2} {s : BitVec 3} {r : AOrd} : aordOf o s = some r ↔ o ++ s = r.bits := by
  cases r with
  | relaxed => revert o s; decide
  | acq c | rel c | acqrel c => cases c <;> (revert o s; decide)

theorem aordOf_eq_some {k lo : Nat} {x : BitVec k} {o : AOrd} :
    aordOf (fieldAt (lo + 3) 2 x) (fieldAt lo 3 x) = some o ↔ fieldAt lo 5 x = o.bits := by
  rw [aord_fields_eq, append_eq (x := fieldAt lo 5 x)]
  · rw [fieldAt_fieldAt _ (by decide)]
  · rw [fieldAt_fieldAt _ (by decide), Nat.add_zero]

theorem toNat_le_one {k : BitVec 3} : k.toNat ≤ 1 ↔ fieldAt 1 2 k = 0#2 := by revert k; decide

theorem amosSize_eq {z : BitVec 3} (h : z = 2#3 ∨ z = 3#3) : (if z = 3#3 then 3#3 else 2#3) = z := by
  obtain rfl | rfl := h <;> rfl

@[simp] theorem bit_false : bit false = 0#1 := rfl
@[simp] theorem bit_true : bit true = 1#1 := rfl
@[simp] theorem six_zero (n : Nat) : six 0#n = 0#6 := by simp [six]

theorem fieldAt_low_two {k : Nat} (x : BitVec k) : fieldAt 0 2 x = bit (x.getLsbD 1) ++ bit (x.getLsbD 0) := by
  symm
  apply append_eq <;> simp

theorem arrayKind_eq {k : BitVec 2} (h : k.toNat ≤ 1) : 0#1 ++ bit (k == 1#2) = k := by revert k; decide

theorem two_bit_cases (k : BitVec 2) : k = 0#2 ∨ k = 1#2 ∨ k = 2#2 ∨ k = 3#2 := by revert k; decide

/-! ### The opcodes of each format -/

/-- Table 02-6, read the other way: the major opcodes that a format has. -/
def opcodes : Fmt → List (BitVec 8)
  | .nop => [0x00]
  | .scalarR => [0x01, 0x0C, 0x0D]
  | .scalarI => [0x02, 0x03, 0x04, 0x05, 0x06, 0x07, 0x08, 0x09, 0x0A, 0x0B, 0x0F, 0x10, 0x11]
  | .vectorR => [0x20, 0x21, 0x2A, 0x2B, 0x2D, 0x2E, 0x2F, 0x30, 0x31]
  | .vectorI => [0x22, 0x23, 0x24, 0x25, 0x26, 0x27, 0x28, 0x29, 0x2C, 0x4F]
  | .floatR => [0x40, 0x41, 0x42, 0x43, 0x44, 0x45, 0x46]
  | .convR => [0x47, 0x48, 0x49, 0x4A, 0x4B, 0x4C, 0x4D, 0x4E]
  | .cmp => [0x60, 0x61, 0x62]
  | .predR => [0x64, 0x65, 0x66, 0x67, 0x70]
  | .ctl => [0x68, 0x69, 0x6A, 0x6B, 0x6C, 0x6D, 0x6E]
  | .sys => [0x6F, 0x71, 0x72, 0x73, 0x83, 0x89, 0xA8, 0xE4, 0xE5, 0xE6, 0xE7, 0xE8, 0xE9, 0xEA, 0xEB, 0xEC]
  | .portR => [0x80, 0x81, 0x82, 0x84, 0x8B, 0x8C, 0x90]
  | .portI => [0x85, 0x8D]
  | .mat => [0x88, 0x8A]
  | .mem => [0x12, 0x13, 0xA0, 0xA1, 0xA2, 0xA3, 0xA4, 0xA5, 0xA6, 0xA7, 0xA9, 0xAA, 0xAB, 0xAC, 0xAD, 0xAE, 0xAF]
  | .ringE => [0x8E, 0x8F, 0xC0, 0xC1, 0xC2, 0xC3, 0xC4]
  | .engineE => [0xC8, 0xC9, 0xCA, 0xCB, 0xCC, 0xCD, 0xD4]
  | .taskE => [0xD0, 0xD1, 0xD2, 0xD3, 0xE0, 0xE1, 0xE2, 0xE3]

theorem mem_opcodes (op : BitVec 8) (k : Fmt) : opFormat op.toNat = some k → op ∈ opcodes k := by
  revert op
  cases k <;> decide +kernel

/-! ### Words of each format with equal fields -/

section
variable {op : BitVec 8} {g : Guard}

theorem wordR_eq {d d' a a' : BitVec 6} {m m' : BitVec 12} {b b' : BitVec 6} {fn fn' : BitVec 9} (hd : d = d')
    (ha : a = a') (hm : m = m') (hb : b = b') (hfn : fn = fn') :
    wordR op g d a m b fn = some (mkWord op g (FmtR.pack ⟨d', a', m', b', fn'⟩)) := by subst_vars; rfl

theorem wordI_eq {d d' a a' : BitVec 6} {imm imm' : BitVec 27} (hd : d = d') (ha : a = a') (hi : imm = imm') :
    wordI op g d a imm = some (mkWord op g (FmtI.pack ⟨d', a', imm'⟩)) := by subst_vars; rfl

theorem wordB_eq {pr pr' k k' : BitVec 3} {off off' : BitVec 33} (hp : pr = pr') (hk : k = k') (ho : off = off') :
    wordB op g pr k off = some (mkWord op g (FmtB.pack ⟨pr', k', off'⟩)) := by subst_vars; rfl

theorem wordS_eq {fn fn' : BitVec 12} {imm imm' : BitVec 27} (hf : fn = fn') (hi : imm = imm') :
    wordS op g fn imm = some (mkWord op g (FmtS.pack ⟨fn', imm'⟩)) := by subst_vars; rfl

theorem wordE_eq {a a' b b' c c' : SReg} {imm imm' : BitVec 23} {fs fs' : Bool} (ha : a = a') (hb : b = b')
    (hc : c = c') (hi : imm = imm') (hf : fs = fs') :
    wordE op g a b c imm fs = some (mkWord op g (FmtE.pack ⟨a', b', c', imm', fs'⟩)) := by subst_vars; rfl

theorem wordC_eq {pt pt' pf pf' : PReg} {a a' b b' : BitVec 6} {m m' : BitVec 12} {c : Cond} {c' : BitVec 4}
    {ty ty' : BitVec 3} {k : Cmb} {k' : BitVec 2} (hpt : pt = pt') (hpf : pf = pf') (ha : a = a') (hm : m = m')
    (hb : b = b') (hc : enc 4 Cond.all c = c') (ht : ty = ty') (hk : enc 2 Cmb.all k = k') :
    wordC op g pt pf a m b c ty k = some (mkWord op g (FmtC.pack ⟨pt', pf', a', m', b', c', ty', k'⟩)) := by
  subst_vars; rfl

theorem wordM_eq {d : BitVec 6} {m : Mem} {vol own fs : Bool} {f : FmtM} (hd : d = f.d) (hb : m.base = f.base)
    (hx : m.idx = f.idx) (hz : m.sz = f.sz) (hc : m.sc = f.sc) (ho : m.off = f.off) (hv : vol = f.vol)
    (hw : own = f.own) (hr : false = f.rsv) (hf : fs = f.fs) :
    wordM op g d m vol own fs = some (mkWord op g f.pack) := by
  obtain ⟨⟩ := f
  dsimp only at *
  subst_vars; rfl

end

/-! ### The decoder of each format

An opcode whose decoder branches on its function field has a lemma of its own, before its format's. -/

theorem eq_ofNat {n k : Nat} {x : BitVec n} (h : x.toNat = k) : x = BitVec.ofNat n k := by
  rw [← h, BitVec.ofNat_toNat, BitVec.setWidth_eq]

theorem encode_decPredR_pmov {g : Guard} {f : FmtR} {i : Instr} :
    decPredR g 0x65 f = some i → encode i = some (mkWord 0x65 g f.pack) := by
  obtain ⟨d, a, m, b, fn⟩ := f
  simp only [decPredR]
  split
  case h_11 => simp
  all_goals
    rename_i hfn
    obtain rfl := eq_ofNat hfn
    simp [Option.bind_eq_some_iff, need_eq_some, sregOf_eq_some, predOf_eq_some, amodOf_eq_some]
    intros
    subst_vars
    rfl

theorem encode_decPredR_emset {g : Guard} {f : FmtR} {i : Instr} :
    decPredR g 0x66 f = some i → encode i = some (mkWord 0x66 g f.pack) := by
  obtain ⟨d, a, m, b, fn⟩ := f
  simp only [decPredR]
  split
  case h_3 => simp
  all_goals
    rename_i hfn
    obtain rfl := eq_ofNat hfn
    simp [Option.bind_eq_some_iff, need_eq_some, predOf_eq_some]
    intros
    subst_vars
    rfl
theorem encode_decPredR_jmpr {g : Guard} {f : FmtR} {i : Instr} :
    decPredR g 0x70 f = some i → encode i = some (mkWord 0x70 g f.pack) := by
  obtain ⟨d, a, m, b, fn⟩ := f
  simp only [decPredR]
  split
  case h_3 => simp
  all_goals
    rename_i hfn
    obtain rfl := eq_ofNat hfn
    simp [Option.bind_eq_some_iff, need_eq_some, sregOf_eq_some]
    intros
    subst_vars
    rfl
theorem encode_decFloatR_vfclass {g : Guard} {f : FmtR} {i : Instr} :
    decFloatR g 0x45 f = some i → encode i = some (mkWord 0x45 g f.pack) := by
  obtain ⟨d, a, m, b, fn⟩ := f
  have hmode := fieldAt_low_two fn
  cases htrap : fn.getLsbD 0
  all_goals
    simp +decide [-BitVec.getLsbD_eq_getElem, decFloatR, htrap, Option.bind_eq_some_iff, need_eq_some, sregOf_eq_some,
      predOf_eq_some, amodOf_eq_some, named_eq_some, named_enc_FTy, named_enc_Half]
    intros
    subst_vars
    refine wordR_eq ?_ ?_ ?_ ?_ ?_ <;> (repeat' apply append_eq) <;> simp [-BitVec.getLsbD_eq_getElem, *]

theorem encode_decEngineE_ctail {g : Guard} {f : FmtE} {i : Instr} :
    decEngineE g 0xC8 f = some i → encode i = some (mkWord 0xC8 g f.pack) := by
  obtain ⟨a, b, c, imm, fs⟩ := f
  obtain h | h | h | h := two_bit_cases (fieldAt 5 2 imm)
  all_goals
    simp [decEngineE, h, Option.bind_eq_some_iff, need_eq_some]
    intros
    subst_vars
    refine wordE_eq ?_ ?_ ?_ ?_ ?_ <;> (repeat' apply append_eq) <;> simp [*]

theorem encode_decEngineE_cbpub {g : Guard} {f : FmtE} {i : Instr} :
    decEngineE g 0xCD f = some i → encode i = some (mkWord 0xCD g f.pack) := by
  obtain ⟨a, b, c, imm, fs⟩ := f
  cases hget : imm.getLsbD 8
  all_goals
    simp [-BitVec.getLsbD_eq_getElem, decEngineE, hget, Option.bind_eq_some_iff, need_eq_some]
    intros
    subst_vars
    refine wordE_eq ?_ ?_ ?_ ?_ ?_ <;> (repeat' apply append_eq) <;> simp [-BitVec.getLsbD_eq_getElem, *]

theorem encode_decX {g : Guard} {f : FmtX} {i : Instr} :
    ∀ op ∈ opcodes .mat, decX g op.toNat f = some i → encode i = some (mkWord op g f.pack) := by
  obtain ⟨d, dk, ak, a, n, fmt, sa, ss, nk, rsv, fs⟩ := f
  simp only [opcodes, List.forall_mem_cons, List.not_mem_nil, false_implies, implies_true, and_true]
  refine ⟨?_, ?_⟩
  all_goals
    simp [decX, Option.bind_eq_some_iff, need_eq_some]
    intros
    subst_vars
    simp [encode, arrayKind_eq, *]

theorem encode_decScalarR {g : Guard} {f : FmtR} {i : Instr} :
    ∀ op ∈ opcodes .scalarR, decScalarR g op.toNat f = some i → encode i = some (mkWord op g f.pack) := by
  obtain ⟨d, a, m, b, fn⟩ := f
  simp only [opcodes, List.forall_mem_cons, List.not_mem_nil, false_implies, implies_true, and_true]
  refine ⟨?_, ?_, ?_⟩
  all_goals
    simp +decide [-BitVec.getLsbD_eq_getElem, decScalarR, Option.bind_eq_some_iff, need_eq_some, sregOf_eq_some,
      amodOf_eq_some, named_eq_some, named_enc_SaluOp]
    intros
    subst_vars
    refine wordR_eq ?_ ?_ ?_ ?_ ?_ <;> (repeat' apply append_eq) <;> simp [-BitVec.getLsbD_eq_getElem, *]

theorem encode_decScalarI {g : Guard} {f : FmtI} {i : Instr} :
    ∀ op ∈ opcodes .scalarI, decScalarI g op.toNat f = some i → encode i = some (mkWord op g f.pack) := by
  obtain ⟨d, a, imm⟩ := f
  simp only [opcodes, List.forall_mem_cons, List.not_mem_nil, false_implies, implies_true, and_true]
  refine ⟨?_, ?_, ?_, ?_, ?_, ?_, ?_, ?_, ?_, ?_, ?_, ?_, ?_⟩
  all_goals
    simp +decide [-BitVec.getLsbD_eq_getElem, decScalarI, Option.bind_eq_some_iff, need_eq_some, sregOf_eq_some,
      csr_ofNumber_eq_some, named_eq_some, named_enc_CsrMode]
    intros
    subst_vars
    simp only [encode, csrNumber_in_imm]
    refine wordI_eq ?_ ?_ ?_ <;> (repeat' apply append_eq) <;> simp [-BitVec.getLsbD_eq_getElem, setWidth_fieldAt, *]

theorem encode_decVectorR {g : Guard} {f : FmtR} {i : Instr} :
    ∀ op ∈ opcodes .vectorR, decVectorR g op.toNat f = some i → encode i = some (mkWord op g f.pack) := by
  obtain ⟨d, a, m, b, fn⟩ := f
  simp only [opcodes, List.forall_mem_cons, List.not_mem_nil, false_implies, implies_true, and_true]
  refine ⟨?_, ?_, ?_, ?_, ?_, ?_, ?_, ?_, ?_⟩
  all_goals
    simp +decide [-BitVec.getLsbD_eq_getElem, decVectorR, Option.bind_eq_some_iff, need_eq_some, sregOf_eq_some,
      amodOf_eq_some, named_eq_some, named_enc_VOp, named_enc_VW, named_enc_MadOp, named_enc_RedOp]
    intros
    subst_vars
    refine wordR_eq ?_ ?_ ?_ ?_ ?_ <;> (repeat' apply append_eq) <;> simp [-BitVec.getLsbD_eq_getElem, *]

theorem encode_decVectorI {g : Guard} {f : FmtI} {i : Instr} :
    ∀ op ∈ opcodes .vectorI, decVectorI g op.toNat f = some i → encode i = some (mkWord op g f.pack) := by
  obtain ⟨d, a, imm⟩ := f
  simp only [opcodes, List.forall_mem_cons, List.not_mem_nil, false_implies, implies_true, and_true]
  refine ⟨?_, ?_, ?_, ?_, ?_, ?_, ?_, ?_, ?_, ?_⟩
  all_goals
    simp +decide [-BitVec.getLsbD_eq_getElem, decVectorI, Option.bind_eq_some_iff, need_eq_some, sregOf_eq_some]
    intros
    subst_vars
    refine wordI_eq ?_ ?_ ?_ <;> (repeat' apply append_eq) <;> simp [-BitVec.getLsbD_eq_getElem, setWidth_fieldAt, *]

theorem encode_decFloatR {g : Guard} {f : FmtR} {i : Instr} :
    ∀ op ∈ opcodes .floatR, decFloatR g op.toNat f = some i → encode i = some (mkWord op g f.pack) := by
  obtain ⟨d, a, m, b, fn⟩ := f
  simp only [opcodes, List.forall_mem_cons, List.not_mem_nil, false_implies, implies_true, and_true]
  refine ⟨?_, ?_, ?_, ?_, ?_, encode_decFloatR_vfclass, ?_⟩
  all_goals
    simp +decide [-BitVec.getLsbD_eq_getElem, decFloatR, Option.bind_eq_some_iff, need_eq_some, sregOf_eq_some,
      amodOf_eq_some, named_eq_some, named_enc_FTy, named_enc_Rnd, named_enc_FaluOp, named_enc_FmaOp, named_enc_FunOp,
        named_enc_FredOp]
    intros
    subst_vars
    simp only [encode, fnFloat, enc_FmaOp_four, enc_FredOp_four, enc_FunOp_four]
    refine wordR_eq ?_ ?_ ?_ ?_ ?_ <;> (repeat' apply append_eq) <;> simp [-BitVec.getLsbD_eq_getElem, *]

theorem encode_decConvR {g : Guard} {f : FmtR} {i : Instr} :
    ∀ op ∈ opcodes .convR, decConvR g op.toNat f = some i → encode i = some (mkWord op g f.pack) := by
  obtain ⟨d, a, m, b, fn⟩ := f
  simp only [opcodes, List.forall_mem_cons, List.not_mem_nil, false_implies, implies_true, and_true]
  refine ⟨?_, ?_, ?_, ?_, ?_, ?_, ?_, ?_⟩
  all_goals
    simp +decide [-BitVec.getLsbD_eq_getElem, decConvR, Option.bind_eq_some_iff, need_eq_some, sregOf_eq_some,
      amodOf_eq_some, named_eq_some, named_enc_CTy, named_enc_Rnd]
    intros
    subst_vars
    refine wordR_eq ?_ ?_ ?_ ?_ ?_ <;> (repeat' apply append_eq) <;> simp [-BitVec.getLsbD_eq_getElem, *]

theorem encode_decC {g : Guard} {f : FmtC} {i : Instr} :
    ∀ op ∈ opcodes .cmp, decC g op.toNat f = some i → encode i = some (mkWord op g f.pack) := by
  obtain ⟨pt, pf, a, m, b, cond, ty, cmb⟩ := f
  simp only [opcodes, List.forall_mem_cons, List.not_mem_nil, false_implies, implies_true, and_true]
  refine ⟨?_, ?_, ?_⟩
  all_goals
    simp +decide [-BitVec.getLsbD_eq_getElem, decC, Option.bind_eq_some_iff, need_eq_some, sregOf_eq_some,
      amodOf_eq_some, named_eq_some, named_enc_Cond, named_enc_Cmb, named_enc_FTy]
    intros
    subst_vars
    refine wordC_eq ?_ ?_ ?_ ?_ ?_ ?_ ?_ ?_ <;> (repeat' apply append_eq) <;> simp [-BitVec.getLsbD_eq_getElem, *]

theorem encode_decPredR {g : Guard} {f : FmtR} {i : Instr} :
    ∀ op ∈ opcodes .predR, decPredR g op.toNat f = some i → encode i = some (mkWord op g f.pack) := by
  obtain ⟨d, a, m, b, fn⟩ := f
  simp only [opcodes, List.forall_mem_cons, List.not_mem_nil, false_implies, implies_true, and_true]
  refine ⟨?_, encode_decPredR_pmov, encode_decPredR_emset, ?_, encode_decPredR_jmpr⟩
  all_goals
    simp +decide [-BitVec.getLsbD_eq_getElem, decPredR, Option.bind_eq_some_iff, need_eq_some, predOf_eq_some,
      named_eq_some, named_enc_EmSel]
    intros
    subst_vars
    refine wordR_eq ?_ ?_ ?_ ?_ ?_ <;> (repeat' apply append_eq) <;> simp [-BitVec.getLsbD_eq_getElem, *]

theorem encode_decB {g : Guard} {f : FmtB} {i : Instr} :
    ∀ op ∈ opcodes .ctl, decB g op.toNat f = some i → encode i = some (mkWord op g f.pack) := by
  obtain ⟨pr, k, off⟩ := f
  simp only [opcodes, List.forall_mem_cons, List.not_mem_nil, false_implies, implies_true, and_true]
  refine ⟨?_, ?_, ?_, ?_, ?_, ?_, ?_⟩
  all_goals
    simp +decide [-BitVec.getLsbD_eq_getElem, decB, Option.bind_eq_some_iff, need_eq_some, toNat_le_one, named_eq_some,
      named_enc_BrCond]
    intros
    subst_vars
    refine wordB_eq ?_ ?_ ?_ <;> (repeat' apply append_eq) <;> simp [-BitVec.getLsbD_eq_getElem, *]

theorem encode_decS {g : Guard} {f : FmtS} {i : Instr} :
    ∀ op ∈ opcodes .sys, decS g op.toNat f = some i → encode i = some (mkWord op g f.pack) := by
  obtain ⟨fn, imm⟩ := f
  simp only [opcodes, List.forall_mem_cons, List.not_mem_nil, false_implies, implies_true, and_true]
  refine ⟨?_, ?_, ?_, ?_, ?_, ?_, ?_, ?_, ?_, ?_, ?_, ?_, ?_, ?_, ?_, ?_⟩
  all_goals
    simp +decide [-BitVec.getLsbD_eq_getElem, decS, Option.bind_eq_some_iff, need_eq_some, named_scope_eq_some,
      named_eq_some, named_enc_FKind]
    intros
    subst_vars
    refine wordS_eq ?_ ?_ <;> (repeat' apply append_eq) <;> simp [-BitVec.getLsbD_eq_getElem, setWidth_fieldAt, *]

theorem encode_decPortR {g : Guard} {f : FmtR} {i : Instr} :
    ∀ op ∈ opcodes .portR, decPortR g op.toNat f = some i → encode i = some (mkWord op g f.pack) := by
  obtain ⟨d, a, m, b, fn⟩ := f
  simp only [opcodes, List.forall_mem_cons, List.not_mem_nil, false_implies, implies_true, and_true]
  refine ⟨?_, ?_, ?_, ?_, ?_, ?_, ?_⟩
  all_goals
    simp +decide [-BitVec.getLsbD_eq_getElem, decPortR, Option.bind_eq_some_iff, need_eq_some, sregOf_eq_some,
      predOf_eq_some, amodOf_eq_some, named_eq_some, named_enc9_Form3]
    intros
    subst_vars
    refine wordR_eq ?_ ?_ ?_ ?_ ?_ <;> (repeat' apply append_eq) <;> simp [-BitVec.getLsbD_eq_getElem, *]

theorem encode_decPortI {g : Guard} {f : FmtI} {i : Instr} :
    ∀ op ∈ opcodes .portI, decPortI g op.toNat f = some i → encode i = some (mkWord op g f.pack) := by
  obtain ⟨d, a, imm⟩ := f
  simp only [opcodes, List.forall_mem_cons, List.not_mem_nil, false_implies, implies_true, and_true]
  refine ⟨?_, ?_⟩
  all_goals
    simp +decide [-BitVec.getLsbD_eq_getElem, decPortI, Option.bind_eq_some_iff, need_eq_some]
    intros
    subst_vars
    simp only [encode, six]
    refine wordI_eq ?_ ?_ ?_ <;> (repeat' apply append_eq) <;> simp [-BitVec.getLsbD_eq_getElem, setWidth_fieldAt, *]

theorem encode_decM {g : Guard} {f : FmtM} {i : Instr} :
    ∀ op ∈ opcodes .mem, decM g op.toNat f = some i → encode i = some (mkWord op g f.pack) := by
  obtain ⟨d, base, idx, sz, sc, off, vol, own, rsv, fs⟩ := f
  simp only [opcodes, List.forall_mem_cons, List.not_mem_nil, false_implies, implies_true, and_true]
  refine ⟨?_, ?_, ?_, ?_, ?_, ?_, ?_, ?_, ?_, ?_, ?_, ?_, ?_, ?_, ?_, ?_, ?_⟩
  all_goals
    simp +decide [-BitVec.getLsbD_eq_getElem, decM, Option.bind_eq_some_iff, need_eq_some, FmtM.mem, sregOf_eq_some,
      predOf_eq_some, aordOf_eq_some, named_eq_some, named_enc_AFn]
    intros
    subst_vars
    simp only [encode, atomicOff_eq]
    refine wordM_eq ?_ ?_ ?_ ?_ ?_ ?_ ?_ ?_ ?_ ?_ <;> (repeat' apply append_eq) <;> simp [-BitVec.getLsbD_eq_getElem,
      amosSize_eq, *]

theorem encode_decRingE {g : Guard} {f : FmtE} {i : Instr} :
    ∀ op ∈ opcodes .ringE, decRingE g op.toNat f = some i → encode i = some (mkWord op g f.pack) := by
  obtain ⟨a, b, c, imm, fs⟩ := f
  simp only [opcodes, List.forall_mem_cons, List.not_mem_nil, false_implies, implies_true, and_true]
  refine ⟨?_, ?_, ?_, ?_, ?_, ?_, ?_⟩
  all_goals
    simp +decide [-BitVec.getLsbD_eq_getElem, decRingE, Option.bind_eq_some_iff, need_eq_some, named_eq_some,
      named_enc_Form3]
    intros
    subst_vars
    simp only [encode, enc_Form3_imm]
    refine wordE_eq ?_ ?_ ?_ ?_ ?_ <;> (repeat' apply append_eq) <;> simp [-BitVec.getLsbD_eq_getElem, setWidth_fieldAt, *]

theorem encode_decEngineE {g : Guard} {f : FmtE} {i : Instr} :
    ∀ op ∈ opcodes .engineE, decEngineE g op.toNat f = some i → encode i = some (mkWord op g f.pack) := by
  obtain ⟨a, b, c, imm, fs⟩ := f
  simp only [opcodes, List.forall_mem_cons, List.not_mem_nil, false_implies, implies_true, and_true]
  refine ⟨encode_decEngineE_ctail, ?_, ?_, ?_, ?_, encode_decEngineE_cbpub, ?_⟩
  all_goals
    simp +decide [-BitVec.getLsbD_eq_getElem, decEngineE, Option.bind_eq_some_iff, need_eq_some, named_eq_some,
      named_enc_Form3]
    intros
    subst_vars
    refine wordE_eq ?_ ?_ ?_ ?_ ?_ <;> (repeat' apply append_eq) <;> simp [-BitVec.getLsbD_eq_getElem, *]

theorem encode_decTaskE {g : Guard} {f : FmtE} {i : Instr} :
    ∀ op ∈ opcodes .taskE, decTaskE g op.toNat f = some i → encode i = some (mkWord op g f.pack) := by
  obtain ⟨a, b, c, imm, fs⟩ := f
  simp only [opcodes, List.forall_mem_cons, List.not_mem_nil, false_implies, implies_true, and_true]
  refine ⟨?_, ?_, ?_, ?_, ?_, ?_, ?_, ?_⟩
  all_goals
    simp +decide [-BitVec.getLsbD_eq_getElem, decTaskE, Option.bind_eq_some_iff, need_eq_some, named_eq_some,
      named_enc_BarOp]
    intros
    subst_vars
    refine wordE_eq ?_ ?_ ?_ ?_ ?_ <;> (repeat' apply append_eq) <;> simp [-BitVec.getLsbD_eq_getElem, setWidth_fieldAt, *]

/-! ### A word is its parts -/

theorem FmtR.pack_unpack (x : Body) : (FmtR.unpack x).pack = x := by
  show _ ++ _ = x
  repeat' apply append_eq
  all_goals simp [FmtR.unpack]

theorem FmtI.pack_unpack (x : Body) : (FmtI.unpack x).pack = x := by
  show _ ++ _ = x
  repeat' apply append_eq
  all_goals simp [FmtI.unpack]

theorem FmtC.pack_unpack (x : Body) : (FmtC.unpack x).pack = x := by
  show _ ++ _ = x
  repeat' apply append_eq
  all_goals simp [FmtC.unpack]

theorem FmtB.pack_unpack (x : Body) : (FmtB.unpack x).pack = x := by
  show _ ++ _ = x
  repeat' apply append_eq
  all_goals simp [FmtB.unpack]

theorem FmtM.pack_unpack (x : Body) : (FmtM.unpack x).pack = x := by
  show _ ++ _ = x
  repeat' apply append_eq
  all_goals simp [-BitVec.getLsbD_eq_getElem, FmtM.unpack, bit]

theorem FmtX.pack_unpack (x : Body) : (FmtX.unpack x).pack = x := by
  show _ ++ _ = x
  repeat' apply append_eq
  all_goals simp [-BitVec.getLsbD_eq_getElem, FmtX.unpack, bit]

theorem FmtE.pack_unpack (x : Body) : (FmtE.unpack x).pack = x := by
  show _ ++ _ = x
  repeat' apply append_eq
  all_goals simp [-BitVec.getLsbD_eq_getElem, FmtE.unpack, bit]

theorem FmtS.pack_unpack (x : Body) : (FmtS.unpack x).pack = x := by
  show _ ++ _ = x
  repeat' apply append_eq
  all_goals simp [FmtS.unpack]

theorem mkWord_parts (w : W64) : mkWord (fieldAt 56 8 w) (wordGuard w) (fieldAt 0 39 w) = w := by
  show _ ++ _ = w
  repeat' apply append_eq
  all_goals simp [wordGuard]

/-- R54: no bit of a body is dropped, whatever its format. -/
theorem encode_decFields {op : BitVec 8} {g : Guard} {x : Body} {k : Fmt} {i : Instr} (hk : opFormat op.toNat = some k)
    (h : decFields g op.toNat x k = some i) : encode i = some (mkWord op g x) := by
  have hop := mem_opcodes op k hk
  cases k with
  | nop =>
    obtain rfl : op = 0x00 := by simpa [opcodes] using hop
    obtain ⟨rfl, rfl⟩ : x = 0 ∧ .nop g = i := by simpa [decFields] using h
    rfl
  | scalarR => simpa only [FmtR.pack_unpack] using encode_decScalarR op hop h
  | scalarI => simpa only [FmtI.pack_unpack] using encode_decScalarI op hop h
  | vectorR => simpa only [FmtR.pack_unpack] using encode_decVectorR op hop h
  | vectorI => simpa only [FmtI.pack_unpack] using encode_decVectorI op hop h
  | floatR => simpa only [FmtR.pack_unpack] using encode_decFloatR op hop h
  | convR => simpa only [FmtR.pack_unpack] using encode_decConvR op hop h
  | cmp => simpa only [FmtC.pack_unpack] using encode_decC op hop h
  | predR => simpa only [FmtR.pack_unpack] using encode_decPredR op hop h
  | ctl => simpa only [FmtB.pack_unpack] using encode_decB op hop h
  | sys => simpa only [FmtS.pack_unpack] using encode_decS op hop h
  | portR => simpa only [FmtR.pack_unpack] using encode_decPortR op hop h
  | portI => simpa only [FmtI.pack_unpack] using encode_decPortI op hop h
  | mat => simpa only [FmtX.pack_unpack] using encode_decX op hop h
  | mem => simpa only [FmtM.pack_unpack] using encode_decM op hop h
  | ringE => simpa only [FmtE.pack_unpack] using encode_decRingE op hop h
  | engineE => simpa only [FmtE.pack_unpack] using encode_decEngineE op hop h
  | taskE => simpa only [FmtE.pack_unpack] using encode_decTaskE op hop h

/-- R52: an instruction has a word, and an event has none. -/
theorem encode_isSome (i : Instr) : (encode i).isSome = !i.isEvent := by
  cases i with
  | pmov g f => exact Laws.Encodes.pmov g f
  | _ => rfl

/-- What a word that decodes has: an assigned opcode, fields of its format, and a well-formed instruction in them. -/
theorem decode_eq_ok {w : W64} {i : Instr} (h : decode w = .ok i) :
    ∃ k, opFormat (wordOp w) = some k ∧ decFields (wordGuard w) (wordOp w) (fieldAt 0 39 w) k = some i ∧ i.wf = true := by
  simp only [decode] at h
  split at h
  · cases h
  · split at h
    · cases h
    · next k hk =>
      split at h
      · next j hj =>
        split at h
        · next hw =>
          cases h
          exact ⟨k, hk, hj, hw⟩
        · cases h
      · cases h

theorem encode_of_decode {w : W64} {i : Instr} (h : decode w = .ok i) : encode i = some w := by
  obtain ⟨k, hk, hi, -⟩ := decode_eq_ok h
  rw [encode_decFields hk hi, mkWord_parts]

/-- Settles O2: the encoder builds the decoded word again (`encode_of_decode`), so that two words with one instruction are one
word. -/
theorem decodeSound : Obligations.DecodeSound := by
  unfold Obligations.DecodeSound
  intro w i h
  obtain ⟨-, -, -, hw⟩ := decode_eq_ok h
  have he := encode_of_decode h
  refine ⟨hw, by simpa [he] using encode_isSome i, he, fun v hv => ?_⟩
  exact Option.some.inj ((encode_of_decode hv).symm.trans he)

/-- Settles O3, by evaluating the decoder on the four words. -/
theorem sampleWords : Obligations.SampleWords := by
  unfold Obligations.SampleWords
  decide +kernel

end Sys2Proof
end

section
/-! SUPPORT. A word that is no instruction of its clause (R44, R45, R61): each fault that a word raises before it runs. -/

namespace Sys2Proof.Machine

theorem wordOp_eq (w : W64) : wordOp w = w.toNat / 2 ^ 56 := by
  have hw := w.isLt
  rw [wordOp, fieldAt, BitVec.extractLsb'_toNat, Nat.shiftRight_eq_div_pow]
  omega

theorem isMarker_iff {op : Nat} : isMarker op = true ↔ 0xDC ≤ op ∧ op ≤ 0xDF := by simp [isMarker]

/-- Table 02-6 assigns no marker. -/
theorem isMarker_of_assigned {op : Nat} (h : opFormat op ≠ none) : isMarker op = false := by
  by_contra hm
  obtain ⟨hlo, hhi⟩ := isMarker_iff.1 (Bool.eq_true_of_not_eq_false hm)
  refine h ?_
  interval_cases op <;> rfl

/-! ### The faults of a word, in the order of R413 -/

section
variable {a : Arm} {w : W64}

theorem wordFault_marker (hm : isMarker (wordOp w) = true) : wordFault a w = some (cIllClause, a.pc.setWidth 64) := by
  simp [wordFault, hm]

theorem wordFault_unassigned (hm : isMarker (wordOp w) = false) (hf : opFormat (wordOp w) = none) :
    wordFault a w = some (cIllEnc, w) := by
  simp [wordFault, hm, hf]

theorem wordFault_class {k : Nat} (hf : opFormat (wordOp w) ≠ none) (hk : opClass (wordOp w) = some k)
    (hc : a.clause.cls.getLsbD k = false) : wordFault a w = some (cIllClause, a.pc.setWidth 64) := by
  simp [wordFault, isMarker_of_assigned hf, hf, hk, hc]

/-- R45: either way the clause is at fault, for the opcode's class or for its place. -/
theorem wordFault_last (hf : opFormat (wordOp w) ≠ none) (hl : mustBeLast (wordOp w) = true)
    (hpc : a.pc ≠ a.clause.last) : wordFault a w = some (cIllClause, a.pc.setWidth 64) := by
  have hat : a.atLast = false := beq_eq_false_iff_ne.2 hpc
  simp [wordFault, isMarker_of_assigned hf, hf, hl, hat]

theorem wordFault_encoding (hf : opFormat (wordOp w) ≠ none)
    (hc : ∀ k, opClass (wordOp w) = some k → a.clause.cls.getLsbD k = true)
    (hl : mustBeLast (wordOp w) = false ∨ a.pc = a.clause.last) (hd : ∀ i, decode w ≠ .ok i) :
    wordFault a w = some (cIllEnc, w) := by
  have hnone : (opFormat (wordOp w)).isNone = false := Option.isNone_eq_false_iff.2 (Option.isSome_iff_ne_none.2 hf)
  have hplace : (mustBeLast (wordOp w) && !a.atLast) = false := by
    obtain hl | hl := hl <;> simp [hl, Arm.atLast]
  cases hdec : decode w with
  | ok i => exact absurd hdec (hd i)
  | error e =>
    cases hk : opClass (wordOp w) with
    | none => simp only [wordFault, isMarker_of_assigned hf, hnone, hk, hplace, hdec, Bool.false_eq_true, if_false]
    | some k =>
      simp only [wordFault, isMarker_of_assigned hf, hnone, hk, hc k hk, hplace, hdec, Bool.not_true, Bool.false_eq_true,
        if_false]

end

/-! ### The trap -/

/-- R413: a fault of the word at a row's pc is a trap in place of the instruction. -/
theorem issueNext_of_wordFault {s : State} {n : Nat} {w : W64} {c : W8} {t : W64} (hi : Row.issues s n = true)
    (hw : (s.row n).arm.word = some w) (hd : (s.row n).dueTrap = none) (hf : wordFault (s.row n).arm w = some (c, t)) :
    issueNext n s = .next ({ s with cur := n }.trapHere n c t) := by
  have hi' : Row.issues { s with cur := n } n = true := hi
  have hw' : (({ s with cur := n } : State).row n).arm.word = some w := hw
  have hd' : (({ s with cur := n } : State).row n).dueTrap = none := hd
  have hf' : wordFault (({ s with cur := n } : State).row n).arm w = some (c, t) := hf
  simp [issueNext, hi', hw', hd', hf']

/-- Settles O4: each kind of word by its fault, which `issueNext_of_wordFault` turns into the trap. -/
theorem illegalWords : Obligations.IllegalWords := by
  unfold Obligations.IllegalWords
  intro s n w rest k hs hn hi hd hw
  have traps {c : W8} {t : W64} (hf : wordFault (s.row n).arm w = some (c, t)) :
      step s = .next ({ s with agenda := rest, cur := n }.trapHere n c t) := by
    rw [step_cons hs, runMove_issue hn]
    exact issueNext_of_wordFault (s := { s with agenda := rest }) hi hw hd hf
  simp only [← wordOp_eq]
  refine ⟨fun hm => traps (wordFault_marker (isMarker_iff.2 hm)), fun hm hf => traps (wordFault_unassigned ?_ hf),
    fun hf hk hc => traps (wordFault_class hf hk hc), fun hf hc => ⟨fun hl hpc => traps (wordFault_last hf hl hpc),
    fun hl hdec => traps (wordFault_encoding hf hc hl hdec)⟩⟩
  exact Bool.eq_false_iff.2 (mt isMarker_iff.1 hm)

end Sys2Proof.Machine
end

section
/-! SUPPORT. Source modifiers, permutation, reductions and scans (R59, R124, R133): the lane that a modifier reads, the algebra of
the combines of Table 05-8, and the words VPERM, VRED and VSCAN. -/

namespace Sys2Proof.Machine

/-! ### Source modifiers (R59) -/

/-- The first lane of l's segment. -/
theorem sub_mod_eq_div_mul (l S : Nat) : l - l % S = l / S * S := by
  rw [Nat.mul_comm, Nat.sub_eq_of_eq_add (Nat.div_add_mod l S).symm]

theorem sub_div_mul_eq_mod (l S : Nat) : l - l / S * S = l % S := by
  rw [Nat.mul_comm, ← Nat.mod_eq_sub_mul_div]

theorem srcLane_rot (seg : BitVec 4) (dist : BitVec 6) (l : Nat) : srcLane (.rot seg dist) l =
    l / 2 ^ (seg.toNat + 1) * 2 ^ (seg.toNat + 1) + (l % 2 ^ (seg.toNat + 1) + dist.toNat) % 2 ^ (seg.toNat + 1) := by
  simp only [srcLane, sub_mod_eq_div_mul, sub_div_mul_eq_mod]

theorem srcLane_bcast (seg : BitVec 4) (dist : BitVec 6) (l : Nat) : srcLane (.bcast seg dist) l =
    l / 2 ^ (seg.toNat + 1) * 2 ^ (seg.toNat + 1) + dist.toNat := by
  simp only [srcLane, sub_mod_eq_div_mul]

/-! ### The combines of Table 05-8 -/

/-! The four that choose an operand choose the least or the greatest value. -/

theorem redComb_min_toInt (x y : W32) : (redComb .min x y).toInt = min x.toInt y.toInt := by
  simp only [redComb, BitVec.slt, decide_eq_true_eq]
  split <;> omega

theorem redComb_max_toInt (x y : W32) : (redComb .max x y).toInt = max x.toInt y.toInt := by
  simp only [redComb, BitVec.slt, decide_eq_true_eq]
  split <;> omega

theorem redComb_minn_toNat (x y : W32) : (redComb .minn x y).toNat = min x.toNat y.toNat := by
  simp only [redComb, BitVec.ult, decide_eq_true_eq]
  split <;> omega

theorem redComb_maxn_toNat (x y : W32) : (redComb .maxn x y).toNat = max x.toNat y.toNat := by
  simp only [redComb, BitVec.ult, decide_eq_true_eq]
  split <;> omega

theorem redComb_comm (op : RedOp) (x y : W32) : redComb op x y = redComb op y x := by
  cases op with
  | add => exact BitVec.add_comm x y
  | and => exact BitVec.and_comm x y
  | or => exact BitVec.or_comm x y
  | xor => exact BitVec.xor_comm x y
  | min => exact BitVec.eq_of_toInt_eq (by simp only [redComb_min_toInt, min_comm])
  | max => exact BitVec.eq_of_toInt_eq (by simp only [redComb_max_toInt, max_comm])
  | minn => exact BitVec.eq_of_toNat_eq (by simp only [redComb_minn_toNat, min_comm])
  | maxn => exact BitVec.eq_of_toNat_eq (by simp only [redComb_maxn_toNat, max_comm])

theorem redComb_assoc (op : RedOp) (x y z : W32) : redComb op (redComb op x y) z = redComb op x (redComb op y z) := by
  cases op with
  | add => exact BitVec.add_assoc x y z
  | and => exact BitVec.and_assoc x y z
  | or => exact BitVec.or_assoc x y z
  | xor => exact BitVec.xor_assoc x y z
  | min => exact BitVec.eq_of_toInt_eq (by simp only [redComb_min_toInt, min_assoc])
  | max => exact BitVec.eq_of_toInt_eq (by simp only [redComb_max_toInt, max_assoc])
  | minn => exact BitVec.eq_of_toNat_eq (by simp only [redComb_minn_toNat, min_assoc])
  | maxn => exact BitVec.eq_of_toNat_eq (by simp only [redComb_maxn_toNat, max_assoc])

theorem redComb_id (op : RedOp) (x : W32) : redComb op (redId op) x = x := by
  have hlow : -2147483648 ≤ x.toInt := BitVec.le_toInt x
  have hhigh : x.toInt ≤ 2147483647 := by have := BitVec.toInt_lt (x := x); omega
  have hlt : x.toNat < 4294967296 := x.isLt
  cases op with
  | add => exact BitVec.zero_add x
  | and => exact BitVec.allOnes_and
  | or => exact BitVec.zero_or
  | xor => exact BitVec.zero_xor
  | min => exact BitVec.eq_of_toInt_eq ((redComb_min_toInt _ _).trans (min_eq_right hhigh))
  | max => exact BitVec.eq_of_toInt_eq ((redComb_max_toInt _ _).trans (max_eq_right hlow))
  | minn => exact BitVec.eq_of_toNat_eq ((redComb_minn_toNat _ _).trans (min_eq_right (Nat.le_of_lt_succ hlt)))
  | maxn => exact BitVec.eq_of_toNat_eq ((redComb_maxn_toNat _ _).trans (max_eq_right (Nat.zero_le _)))

/-- R133: the order in which a reduction takes its lanes makes no difference. -/
theorem foldl_redComb_perm (op : RedOp) {l l' : List W32} (h : l.Perm l') (x : W32) :
    l.foldl (redComb op) x = l'.foldl (redComb op) x :=
  have : RightCommutative (redComb op) := ⟨fun a b c => by
    rw [redComb_assoc, redComb_comm op b c, ← redComb_assoc]⟩
  h.foldl_eq x

theorem redOver_eq (v : Row) (op : RedOp) (a : VReg) (m : Amod) (ls : List Nat) :
    redOver v op a m ls = (ls.map (v.src a m)).foldl (redComb op) (redId op) :=
  List.foldl_map.symm

/-! ### VPERM, VRED and VSCAN -/

theorem Row.Has.mono {r : Row} {l k : List Nat} (h : r.Has l) (hk : k ⊆ l) : r.Has k := fun x hx => h x (hk hx)

theorem segWide_eq_false {n : Nat} {code : BitVec n} {r : Row} (h : 2 ^ (code.toNat + 1) ≤ r.L) : segWide code r = false :=
  decide_eq_false (Nat.not_lt.2 h)

section
variable {s : State} {g : Guard} {d a b : VReg} {m : Amod} {op : RedOp}

/-- The rule for a plan that names only registers and a condition of illegality. -/
theorem vectorTo_writes_of_has {i : Instr} (illegal : Row → Bool) {regs : List Nat} (f : Row → Nat → W32)
    (he : exec i s = vectorTo { illegal := illegal, regs := regs } g d f s) (ha : s.acting g)
    (hl : illegal (s.row s.cur) = false) (hh : (s.row s.cur).Has regs) :
    WritesV i s s d.toNat ((s.row s.cur).inActs g (f (s.row s.cur))) :=
  vectorTo_writes he ha hl ((congrArg _ (List.append_nil regs)).trans hh.badReg) rfl rfl rfl

theorem exec_vperm (g : Guard) (d a b : VReg) (inn : Bool) (k : BitVec 4) (s : State) :
    exec (.vperm g d a b inn k) s =
      vectorTo { illegal := fun r => inn && segWide k r, regs := [d.toNat, a.toNat, b.toNat] } g d
        (fun v l => (permLane v.L inn k l (v.vreg b.toNat l).toNat).elim 0 (v.vreg a.toNat)) s := by
  show execVperm g d a b inn k s = _
  unfold execVperm
  congr with v l
  split <;> simp_all

theorem vperm_writes_across (ha : s.acting g) (hh : (s.row s.cur).Has [d.toNat, a.toNat, b.toNat]) :
    WritesV (.vperm g d a b false 0) s s d.toNat ((s.row s.cur).inActs g (fun l =>
      if ((s.row s.cur).vreg b.toNat l).toNat < (s.row s.cur).L then
        (s.row s.cur).vreg a.toNat ((s.row s.cur).vreg b.toNat l).toNat else 0)) := by
  have h := vectorTo_writes_of_has (i := .vperm g d a b false 0) (fun _ => false)
    (fun v l => (permLane v.L false 0 l (v.vreg b.toNat l).toNat).elim 0 (v.vreg a.toNat))
    (exec_vperm g d a b false 0 s) ha rfl hh
  convert h using 3 with l
  by_cases hl : ((s.row s.cur).vreg b.toNat l).toNat < (s.row s.cur).L <;> simp [permLane, hl]

theorem vperm_writes_within {k : BitVec 4} (ha : s.acting g) (hh : (s.row s.cur).Has [d.toNat, a.toNat, b.toNat])
    (hk : 2 ^ (k.toNat + 1) ≤ (s.row s.cur).L) :
    WritesV (.vperm g d a b true k) s s d.toNat ((s.row s.cur).inActs g (fun l => (s.row s.cur).vreg a.toNat
      (l / 2 ^ (k.toNat + 1) * 2 ^ (k.toNat + 1) + ((s.row s.cur).vreg b.toNat l).toNat % 2 ^ (k.toNat + 1)))) := by
  have h := vectorTo_writes_of_has (i := .vperm g d a b true k) (segWide k)
    (fun v l => (permLane v.L true k l (v.vreg b.toNat l).toNat).elim 0 (v.vreg a.toNat))
    (exec_vperm g d a b true k s) ha (segWide_eq_false hk) hh
  convert h using 3 with l
  simp only [permLane, if_true, sub_mod_eq_div_mul, Option.elim_some]

variable {seg : BitVec 6}

theorem redWide_eq_false (hm : (s.row s.cur).Fits m) (hs : 2 ^ (seg.toNat + 1) ≤ (s.row s.cur).L) :
    (amodWide m (s.row s.cur) || segWide seg (s.row s.cur)) = false := by
  rw [hm.amodWide, segWide_eq_false hs, Bool.or_false]

theorem vred_writes (ha : s.acting g) (hm : (s.row s.cur).Fits m) (hh : (s.row s.cur).Has [d.toNat, a.toNat])
    (hs : 2 ^ (seg.toNat + 1) ≤ (s.row s.cur).L) :
    WritesV (.vred g op d a m seg) s s d.toNat ((s.row s.cur).inActs g (fun l =>
      redOver (s.row s.cur) op a m (segLanes (s.row s.cur) g seg l))) :=
  vectorTo_writes_of_has (fun r => amodWide m r || segWide seg r)
    (fun v l => redOver v op a m (segLanes v g seg l)) rfl ha (redWide_eq_false hm hs) hh

theorem vscan_writes (excl : Bool) (ha : s.acting g) (hm : (s.row s.cur).Fits m) (hh : (s.row s.cur).Has [d.toNat, a.toNat])
    (hs : 2 ^ (seg.toNat + 1) ≤ (s.row s.cur).L) :
    WritesV (.vscan g op excl d a m seg) s s d.toNat ((s.row s.cur).inActs g (fun l =>
      redOver (s.row s.cur) op a m
        ((segLanes (s.row s.cur) g seg l).filter (fun j => j < l || (j == l && !excl))))) :=
  vectorTo_writes_of_has (fun r => amodWide m r || segWide seg r)
    (fun v l => redOver v op a m ((segLanes v g seg l).filter (fun j => j < l || (j == l && !excl)))) rfl ha
    (redWide_eq_false hm hs) hh

end

theorem scanLane_inclusive (j l : Nat) : (decide (j < l) || (j == l && !false)) = decide (j ≤ l) := by
  simp [Nat.le_iff_lt_or_eq, Bool.decide_or, beq_eq_decide]

theorem scanLane_exclusive (j l : Nat) : (decide (j < l) || (j == l && !true)) = decide (j < l) := by simp

/-- Settles O16: the modifiers' lanes by arithmetic on segments, each instruction through its rule for vector results, and the
algebra of the combines through their values as integers. -/
theorem permuteAndReduce : Obligations.PermuteAndReduce := by
  unfold Obligations.PermuteAndReduce
  refine ⟨fun r a seg dist l => ⟨rfl, ?_, rfl, ?_⟩, ?_, fun op x y z l l' =>
    ⟨redComb_comm op x y, redComb_assoc op x y z, redComb_id op x, fun h => foldl_redComb_perm op h _⟩⟩
  · exact congrArg (r.vreg a.toNat) (srcLane_rot seg dist l)
  · exact congrArg (r.vreg a.toNat) (srcLane_bcast seg dist l)
  · intro s g d a b m op k seg ha hm hh hs hk r S K lanes comb gives
    have hda : r.Has [d.toNat, a.toNat] := hh.mono (by simp)
    refine ⟨vperm_writes_across ha hh, vperm_writes_within ha hh hk, ?vred, ?inclusive, ?exclusive⟩
    case vred => simpa only [redOver_eq, gives, comb, lanes, segLanes] using vred_writes ha hm hda hs
    case inclusive => simpa only [redOver_eq, scanLane_inclusive, gives, comb, lanes, segLanes]
      using vscan_writes false ha hm hda hs
    case exclusive => simpa only [redOver_eq, scanLane_exclusive, gives, comb, lanes, segLanes]
      using vscan_writes true ha hm hda hs

end Sys2Proof.Machine
end

section
/-! SUPPORT. A retirement (R34, R35) in a state whose table of dies holds two entries of one key: a table that `tset` does not make
out of canonical ones, but one that the statement about retirement, which asks for no canonical form, ranges over. -/

namespace Sys2Proof.Machine

/-- A running placement that is row 0 alone. -/
def oneRowPl : Pl := ⟨0, 8, 0, some 0, 1, 32, 0, 0, 0, 1, .closed, .closed, [], [], .running, [0], some 0, false⟩

/-- Die 0 with one dirty byte in its far cache. -/
def dirtyDie : Die := { Die.reset with far := [(sideBase, some ⟨1, true, 0⟩)] }

/-- Die 0 with one engine that has still to execute a copy command which a row of placement 0 has issued. -/
def copyingDie : Die := { Die.reset with engines := [(0, { Engine.reset with tail := 1, issuers := [(0, 0)] })] }

/-- Row 0, the last of its placement, retires. Of the two entries of die 0 what is read by its key is the first; `State.copying`,
which goes through the whole table, meets the second. -/
def doubledDie : State :=
  { State.reset with job := { State.reset.job with
      rows := [(0, { Row.reset with life := .retiring, pl := some 0 })]
      dies := [(0, dirtyDie), (0, copyingDie)]
      pls := [oneRowPl] } }

theorem doubledDie_copying : doubledDie.copying 0 = true := by decide +kernel

/-- The release of the retiring row writes the dirty byte back; die 0 is then set anew, its second entry is lost, and with it what
the placement's end would have waited for. -/
theorem rowRetire_doubledDie :
    ∃ t, exec (.rowRetire 0) doubledDie = .next t ∧ t.job.pls = [{ oneRowPl with st := .ended, early := true }] :=
  ⟨_, rfl, by decide +kernel⟩

/-- Refutes O52: its clause that a placement does not end while a copy command of its rows is at work fails where the table of dies
holds a second entry of die 0, which the retiring row's write-back drops. -/
theorem not_clausesAndRetirement : ¬ Obligations.ClausesAndRetirement := by
  unfold Obligations.ClausesAndRetirement
  rintro ⟨-, -, retire⟩
  obtain ⟨-, -, hretiring⟩ := retire doubledDie 0 0 oneRowPl
  obtain ⟨-, hfinished⟩ := hretiring (by decide +kernel) (by decide +kernel)
  obtain ⟨t, ht, -, -, -, -, hlast⟩ := hfinished (by decide +kernel)
  obtain ⟨-, hcopying⟩ := hlast (by decide +kernel) (by decide +kernel) (by decide +kernel)
  obtain ⟨q, hq, -, hrunning⟩ := hcopying doubledDie_copying
  obtain ⟨t', ht', hended⟩ := rowRetire_doubledDie
  obtain rfl : t = t' := Host.Outcome.next.inj (ht.symm.trans ht')
  obtain rfl : q = { oneRowPl with st := .ended, early := true } := List.head_eq_of_cons_eq (hq.symm.trans hended)
  exact absurd hrunning (by decide)

end Sys2Proof.Machine
end

section
/-! SUPPORT. Words that set the pc (R88 to R94): the arm that issued stands at the target, whichever arm issues next, and the
outcome of a word after which Resume runs (R86, R101). -/

namespace Sys2Proof.Machine

/-! ### The arm that set its pc -/

/-- A switch leaves the arm that issued under its own name (R97). -/
theorem Row.armOf_switch (r : Row) : r.switch.armOf r.armId = some r.arm := by
  cases ho : r.other with
  | none => simp [Row.switch, Row.armOf, ho]
  | some o =>
    have hne : r.otherId ≠ r.armId := by
      unfold Row.otherId
      cases r.armId <;> decide
    simp [Row.switch, Row.armOf, ho, hne]

theorem Row.armOf_endClause (y : Bool) (r : Row) : (Row.endClause y r).armOf r.armId = some r.arm := by
  unfold Row.endClause
  split
  · exact r.armOf_switch
  · simp [Row.armOf]

/-- Only where the row's arms stand separates what `Acted` compares with. -/
theorem Acted.of_setRow {u t : State} {q : Row} (h : Acted (u.setRow u.cur q) t) (hq : q.still = (u.row u.cur).still) :
    Acted u t where
  row := by rw [← hq, ← setRow_row_same u u.cur q]; exact h.row
  others m hm := (h.others m hm).trans (setRow_row_ne u q hm)
  doms := h.doms
  dies := h.dies
  bytes := h.bytes
  rest := h.rest
  dev := h.dev
  agenda := h.agenda
  cur := h.cur

theorem Acted.of_now {s t : State} {q x : Row} (h : Acted (s.draw.setRow s.cur x) t) (hx : x.still = q.still) :
    Acted (s.now (fun _ => q)) t := by
  have hset : (s.draw.setRow s.cur q).setRow s.cur x = s.draw.setRow s.cur x := setRow_setRow _ _ _ _
  rw [← hset] at h
  refine (Acted.of_setRow (u := s.draw.setRow s.cur q) h ?_).drawn (u := s.now (fun _ => q))
  rw [setRow_cur, draw_cur, setRow_row_same, hx]

/-- The row once its word has set the pc: passed on where the clause's y may permit it. -/
theorem settle_jump_row (w : State) (n k c : Nat) (y sw : Bool) (h : w.cur = n) :
    ∃ t, settle n y ((Res.jump w sw).after (fun s => State.charge s n k c)) = .next t ∧ Acted w t ∧
      t.row n = (if sw then (w.row n).paid.endClause y else (w.row n).paid).ready := by
  obtain ⟨t, ht, hacted⟩ := settle_jump w n k c y sw h
  refine ⟨t, ht, hacted, ?_⟩
  obtain rfl := Host.Outcome.next.inj ht
  rw [modRow_row_same, charge_row_same]

/-! ### What the body of a word comes to -/

/-- The word at hand reaches its body, which comes to `x`, and its issue is charged. -/
def ComesTo (i : Instr) (s : State) (x : Res) : Prop :=
  ∃ units cycles, exec i s =
    settle s.cur (s.row s.cur).arm.clause.y (x.after (fun s' => State.charge s' s.cur units cycles))

section
variable {i : Instr} {p : Plan} {body : State → Nat → Row → Res} {s u w : State}

theorem comesTo_issueWord {go : Row → Bool} (he : exec i s = issueWord p go body s) (hq : (s.row s.cur).Quiet)
    (hp : p.Clear (s.row s.cur)) (hgo : go (s.row s.cur) = true) : ComesTo i s (body (p.start s) s.cur (s.row s.cur)) :=
  ⟨p.units, p.cycles (s.row s.cur), he.trans (issueWord_acts p go body s hq hp hgo)⟩

theorem comesTo_issueQ {g : Guard} (he : exec i s = issueQ p g body s) (h : s.ready g) (hp : p.Clear (s.row s.cur))
    (hf : p.fp = false) : ComesTo i s (body s.draw s.cur (s.row s.cur)) := by
  have hcome := comesTo_issueWord (go := fun r => r.guardQ g) he h.1 hp h.2
  rwa [Plan.start, hf, if_neg Bool.false_ne_true] at hcome

theorem comesTo_issueL {g : Guard} (he : exec i s = issueL p g body s) (h : s.acting g) (hp : p.Clear (s.row s.cur))
    (hf : p.fp = false) : ComesTo i s (body s.draw s.cur (s.row s.cur)) := by
  have hcome := comesTo_issueWord (go := fun r => r.anyActs g) he h.1 hp h.2
  rwa [Plan.start, hf, if_neg Bool.false_ne_true] at hcome

theorem ComesTo.completes (k : Nat) (h : ComesTo i s (.done { u with drawn := k })) (hu : u.cur = s.cur) :
    Completes i s u := by
  obtain ⟨units, cycles, he⟩ := h
  obtain ⟨t, ht, hacted⟩ := settle_done { u with drawn := k } s.cur units cycles (s.row s.cur).arm.clause.y hu
  exact ⟨t, he.trans ht, hacted.drawn⟩

/-- A body that makes the row `q`. -/
theorem ComesTo.completes_setRow {q : Row} (h : ComesTo i s (.done (s.draw.setRow s.cur q))) :
    Completes i s (s.now (fun _ => q)) :=
  ComesTo.completes (u := s.now (fun _ => q)) (s.drawn + 1) h rfl

theorem ComesTo.completes_draw (h : ComesTo i s (.done s.draw)) : Completes i s s :=
  ComesTo.completes (s.drawn + 1) h rfl

theorem ComesTo.raises {c : W8} {x : W64} (h : ComesTo i s (.trap c x s.draw)) : Raises i s c x := by
  obtain ⟨units, cycles, he⟩ := h
  exact he

/-- A body that sets the pc: the arm stands where it was set, whichever arm issues next. -/
theorem ComesTo.jump {sw : Bool} (h : ComesTo i s (.jump w sw)) (hw : w.cur = s.cur) :
    ∃ t, exec i s = .next t ∧ Acted w t ∧ (t.row s.cur).armOf (w.row s.cur).armId = some (w.row s.cur).arm := by
  obtain ⟨units, cycles, he⟩ := h
  obtain ⟨t, ht, hacted, hrow⟩ := settle_jump_row w s.cur units cycles (s.row s.cur).arm.clause.y sw hw
  refine ⟨t, he.trans ht, hacted, ?_⟩
  rw [hrow]
  cases sw with
  | true => exact Row.armOf_endClause _ (w.row s.cur).paid
  | false => exact if_pos rfl

/-- Where the clause's y is not asked, the arm that issued stays. -/
theorem ComesTo.jump_stays (h : ComesTo i s (.jump w false)) (hw : w.cur = s.cur) :
    ∃ t, exec i s = .next t ∧ Acted w t ∧ t.row s.cur = (w.row s.cur).paid.ready := by
  obtain ⟨units, cycles, he⟩ := h
  obtain ⟨t, ht, hacted, hrow⟩ := settle_jump_row w s.cur units cycles (s.row s.cur).arm.clause.y false hw
  exact ⟨t, he.trans ht, hacted, hrow⟩

/-- A body that makes the row `q` with its arm gone to an address. -/
theorem ComesTo.jumpsTo {q : Row} {x : Va} {sw : Bool}
    (h : ComesTo i s (.jump (s.draw.setRow s.cur { q with arm := q.arm.goto x }) sw))
    (hid : q.armId = (s.row s.cur).armId) : JumpsTo i s (s.now (fun _ => q)) x := by
  obtain ⟨t, ht, hacted, harm⟩ := h.jump rfl
  rw [setRow_row_same] at harm
  refine ⟨t, ht, hacted.of_now (Row.still_arm q _ (Arm.still_goto _ _)), ?_⟩
  rw [State.now, modRow_row_same, ← hid]
  exact harm

theorem ComesTo.branch {x : Va} (h : ComesTo i s (branch s.draw s.cur x)) : JumpsTo i s s x := by
  obtain ⟨t, ht, hacted, harm⟩ := h.jump rfl
  rw [modRow_row_same] at harm
  exact ⟨t, ht, (Acted.of_setRow (u := s.draw) hacted (Row.still_arm _ _ (Arm.still_goto _ _))).drawn, harm⟩

theorem resumed_of_none {q : Row} (n : Nat) (hq : q.resume = none) :
    resumed s n q = .trap cBarDiverge (q.lastBar.setWidth 64) s := by
  simp only [resumed, hq]

theorem resumed_of_some {q r : Row} {moved : Bool} (n : Nat) (hq : q.resume = some (r, moved)) :
    resumed s n q = if moved then .jump (s.setRow n r) (r.armId == q.armId) else .done (s.setRow n r) := by
  simp only [resumed, hq]

theorem resumes_of_none {q : Row} (hq : q.resume = none) :
    Resumes i s q ↔ Raises i s cBarDiverge (q.lastBar.setWidth 64) := by
  simp only [Resumes, hq]

theorem resumes_of_some {q r : Row} {moved : Bool} (hq : q.resume = some (r, moved)) :
    Resumes i s q ↔ ∃ t, exec i s = .next t ∧ Acted (s.setRow s.cur r) t ∧
      (moved = true → (t.row s.cur).armOf r.armId = some r.arm) := by
  simp only [Resumes, hq]

/-- A body that ends in Resume (R86). -/
theorem ComesTo.resumes {q : Row} (h : ComesTo i s (resumed s.draw s.cur q)) : Resumes i s q := by
  cases hq : q.resume with
  | none =>
    rw [resumed_of_none _ hq] at h
    exact (resumes_of_none hq).2 h.raises
  | some x =>
    obtain ⟨r, moved⟩ := x
    rw [resumed_of_some _ hq] at h
    rw [resumes_of_some hq]
    cases moved with
    | false =>
      rw [if_neg Bool.false_ne_true] at h
      obtain ⟨t, ht, hacted⟩ := ComesTo.completes (u := s.setRow s.cur r) (s.drawn + 1) h rfl
      exact ⟨t, ht, hacted, fun hmoved => absurd hmoved Bool.false_ne_true⟩
    | true =>
      rw [if_pos rfl] at h
      obtain ⟨t, ht, hacted, harm⟩ := ComesTo.jump h rfl
      rw [setRow_row_same] at harm
      exact ⟨t, ht, Acted.drawn (u := s.setRow s.cur r) hacted, fun _ => harm⟩

end

end Sys2Proof.Machine
end

section
/-! SUPPORT. Masks of lanes: the bits of the masks that the model builds from a width or a predicate. -/

namespace Sys2Proof.Machine

theorem foldl_setLane_true (f : Nat → Bool) (ls : List Nat) (m : Mask) {j : Nat} (hls : ∀ x ∈ ls, x < 1024) (hj : j < 1024) :
    (ls.foldl (fun m l => if f l then setLane m l true else m) m).getLsbD j = (m.getLsbD j || (decide (j ∈ ls) && f j)) := by
  induction ls generalizing m with
  | nil => simp
  | cons x ls ih =>
    rw [List.foldl_cons, ih _ (fun y hy => hls y (List.mem_cons_of_mem x hy))]
    by_cases hf : f x = true
    · rw [if_pos hf, setLane_get m x j true (hls x List.mem_cons_self) hj]
      by_cases hjx : j = x
      · simp [hjx, hf]
      · simp [hjx]
    · rw [if_neg hf]
      by_cases hjx : j = x
      · simp [hjx, hf]
      · simp [hjx]

theorem maskOf_getLsbD {L : Nat} (f : Nat → Bool) (hL : L ≤ 1024) {l : Nat} (hl : l < 1024) :
    (maskOf L f).getLsbD l = (decide (l < L) && f l) := by
  rw [maskOf, foldl_setLane_true f _ 0 (fun x hx => Nat.lt_of_lt_of_le (List.mem_range.1 hx) hL) hl]
  simp

theorem Mask.ne_zero_iff {m : Mask} : m ≠ 0 ↔ ∃ l, l < 1024 ∧ m.getLsbD l = true := by
  constructor
  · intro hm
    by_contra hnone
    refine hm (BitVec.eq_of_getLsbD_eq fun l hl => ?_)
    have hbit : ¬ m.getLsbD l = true := fun hbit => hnone ⟨l, hl, hbit⟩
    simpa using hbit
  · rintro ⟨l, -, hbit⟩ rfl
    simp at hbit

/-- The lanes that BRV, BRK and CONT move (R87, R92). -/
theorem Row.moving_getLsbD (r : Row) (g : Guard) (p : PReg) (neg : Bool) (hL : r.L ≤ 1024) {l : Nat} (hl : l < 1024) :
    (r.moving g p neg).getLsbD l = (decide (l < r.L) && r.acts g l && ((r.preg p.toNat).getLsbD l != neg)) := by
  have hpred : (if neg then ~~~(r.preg p.toNat) else r.preg p.toNat).getLsbD l = ((r.preg p.toNat).getLsbD l != neg) := by
    cases neg <;> simp [hl]
  rw [Row.moving, BitVec.getLsbD_and, BitVec.getLsbD_and, Row.guardMask, maskOf_getLsbD _ hL hl, hpred, Row.acts,
    Bool.and_left_comm (r.arm.em.getLsbD l), Bool.and_assoc]

theorem Row.moving_eq {r : Row} {g : Guard} {p : PReg} {neg : Bool} {M : Mask} (hL : r.L ≤ 1024)
    (hM : ∀ l, l < 1024 → M.getLsbD l = (decide (l < r.L) && r.acts g l && ((r.preg p.toNat).getLsbD l != neg))) :
    r.moving g p neg = M :=
  BitVec.eq_of_getLsbD_eq fun l hl => (r.moving_getLsbD g p neg hL hl).trans (hM l hl).symm

end Sys2Proof.Machine
end

section
/-! SUPPORT. Branches, loops and calls (R88, R91, R93, R94): each word by the outcome of its body. -/

namespace Sys2Proof.Machine

/-! ### Targets and conditions -/

theorem Row.target_eq (r : Row) (off : BitVec 33) : r.target off = r.arm.clause.hdr + 8 * off.signExtend 56 := by
  have hshift : off.signExtend 56 <<< 3 = 8 * off.signExtend 56 :=
    (BitVec.shiftLeft_eq_mul_twoPow _ _).trans (BitVec.mul_comm _ _)
  rw [Row.target, hshift]

theorem brTaken_any {em p : Mask} :
    brTaken .any em p = true ↔ ∃ l, (l < 1024 ∧ em.getLsbD l = true) ∧ p.getLsbD l = true := by
  show (em &&& p != 0) = true ↔ _
  rw [bne_iff_ne, Mask.ne_zero_iff]
  simp only [BitVec.getLsbD_and, Bool.and_eq_true, and_assoc]

theorem brTaken_none {em p : Mask} :
    brTaken .none em p = true ↔ ∀ l, l < 1024 ∧ em.getLsbD l = true → ¬ p.getLsbD l = true := by
  have hany : brTaken .none em p = !brTaken .any em p := (Bool.not_not _).symm
  rw [hany, Bool.not_eq_true', ← Bool.not_eq_true, brTaken_any]
  simp only [not_exists, not_and]

theorem brTaken_all {em p : Mask} :
    brTaken .all em p = true ↔ ∀ l, l < 1024 ∧ em.getLsbD l = true → p.getLsbD l = true := by
  have hnone : brTaken .all em p = brTaken .none em (~~~p) := rfl
  rw [hnone, brTaken_none]
  refine forall_congr' fun l => imp_congr_right fun hl => ?_
  simp [hl.1]

theorem jumpReg_target (r : Row) (a : SReg) : (jumpReg r a).1 = (r.sreg a.toNat).extractLsb' 0 56 :=
  BitVec.setWidth_eq_extractLsb' (x := r.sreg a.toNat) (by decide)

theorem jumpReg_aligned (r : Row) (a : SReg) : (jumpReg r a).2 = true ↔ (jumpReg r a).1.toNat % 8 = 0 := by
  show ((jumpReg r a).1 &&& 7 == 0) = true ↔ _
  rw [beq_iff_eq, ← BitVec.toNat_inj, BitVec.toNat_and]
  exact Eq.congr_left (Nat.and_two_pow_sub_one_eq_mod _ 3)

/-! ### Words that jump -/

section
variable (g : Guard) (a : SReg) (off : BitVec 33) (s : State)

theorem exec_br (c : BrCond) (p : PReg) : exec (.br g c p off) s = execBr g c p off s := rfl
theorem exec_jmpr : exec (.jmpr g a) s = execJmpr g a s := rfl
theorem exec_join : exec (.join g off) s = execJoin g off s := rfl
theorem exec_loops : exec (.loops g off) s = execLoops g off s := rfl
theorem exec_call : exec (.call g off) s = execCall g off s := rfl
theorem exec_jmprCall : exec (.jmprCall g a) s = execJmprCall g a s := rfl
theorem exec_ret : exec (.ret g) s = execRet g s := rfl

end

/-- Nothing keeps a word from acting that has no condition of its own. -/
theorem Plan.clear_default (r : Row) : ({} : Plan).Clear r := ⟨rfl, rfl, rfl, rfl, rfl, rfl⟩

/-- Nor one that handler mode alone refuses (R335). -/
theorem Plan.clear_priv {r : Row} (h : r.handler = false) (cycles : Row → Nat) :
    ({ priv := true, cycles := cycles } : Plan).Clear r := ⟨rfl, rfl, rfl, h, rfl, rfl⟩

section
variable {s : State} {g : Guard} {a : SReg}

theorem br_comesTo (c : BrCond) (p : PReg) (off : BitVec 33) (h : s.ready g) :
    ComesTo (.br g c p off) s
      (if brTaken c (s.row s.cur).arm.em ((s.row s.cur).preg p.toNat) then branch s.draw s.cur ((s.row s.cur).target off)
       else .done s.draw) :=
  comesTo_issueQ (exec_br g off s c p) h (Plan.clear_default _) rfl

theorem br_taken {c : BrCond} {p : PReg} (off : BitVec 33) (h : s.ready g)
    (hc : brTaken c (s.row s.cur).arm.em ((s.row s.cur).preg p.toNat) = true) :
    JumpsTo (.br g c p off) s s ((s.row s.cur).target off) := by
  have hcome := br_comesTo c p off h
  rw [if_pos hc] at hcome
  exact hcome.branch

theorem br_not_taken {c : BrCond} {p : PReg} (off : BitVec 33) (h : s.ready g)
    (hc : ¬ brTaken c (s.row s.cur).arm.em ((s.row s.cur).preg p.toNat) = true) : Completes (.br g c p off) s s := by
  have hcome := br_comesTo c p off h
  rw [if_neg hc] at hcome
  exact hcome.completes_draw

theorem jmpr_comesTo (h : s.ready g) :
    ComesTo (.jmpr g a) s
      (if (jumpReg (s.row s.cur) a).2 then branch s.draw s.cur (jumpReg (s.row s.cur) a).1
       else .trap cMisalign ((jumpReg (s.row s.cur) a).1.setWidth 64) s.draw) :=
  comesTo_issueQ (exec_jmpr g a s) h (Plan.clear_default _) rfl

theorem jmpr_aligned (h : s.ready g) (ha : (jumpReg (s.row s.cur) a).1.toNat % 8 = 0) :
    JumpsTo (.jmpr g a) s s (jumpReg (s.row s.cur) a).1 := by
  have hcome := jmpr_comesTo (a := a) h
  rw [if_pos ((jumpReg_aligned _ _).2 ha)] at hcome
  exact hcome.branch

theorem jmpr_misaligned (h : s.ready g) (ha : (jumpReg (s.row s.cur) a).1.toNat % 8 ≠ 0) :
    Raises (.jmpr g a) s cMisalign ((jumpReg (s.row s.cur) a).1.setWidth 64) := by
  have hcome := jmpr_comesTo (a := a) h
  rw [if_neg (mt (jumpReg_aligned _ _).1 ha)] at hcome
  exact hcome.raises

/-! ### Calls and loops -/

/-- The row that a call leaves, before its arm goes to the target (R93). -/
def Row.called (r : Row) : Row := r.push .call (some (r.arm.pc + 8)) 0 0

/-- A word whose body is a call, with a token left to push. -/
theorem ComesTo.call_room {i : Instr} {x : Va} (h : ComesTo i s (callTo s.draw s.cur x))
    (hroom : (s.row s.cur).tokTotal < 32) : JumpsTo i s (s.now (fun _ => (s.row s.cur).called)) x := by
  unfold callTo at h
  rw [draw_row, if_neg (Nat.not_le.2 hroom)] at h
  exact ComesTo.jumpsTo (q := (s.row s.cur).called) h rfl

/-- R84: the overflow of the token stack, with lanes parked at a BAR and without. -/
theorem ComesTo.overflow {i : Instr} (h : ComesTo i s (.trap (s.row s.cur).overflow.1 (s.row s.cur).overflow.2 s.draw)) :
    if (s.row s.cur).barParked = 0 then Raises i s cTokenOverflow 0
    else Raises i s cBarDiverge ((s.row s.cur).arm.pc.setWidth 64) := by
  unfold Row.overflow at h
  split
  next hfree =>
    rw [if_neg (fun hne => bne_iff_ne.1 hne hfree)] at h
    exact h.raises
  next hparked =>
    rw [if_pos (bne_iff_ne.2 hparked)] at h
    exact h.raises

theorem ComesTo.call_full {i : Instr} {x : Va} (h : ComesTo i s (callTo s.draw s.cur x))
    (hfull : ¬ (s.row s.cur).tokTotal < 32) :
    if (s.row s.cur).barParked = 0 then Raises i s cTokenOverflow 0
    else Raises i s cBarDiverge ((s.row s.cur).arm.pc.setWidth 64) := by
  unfold callTo at h
  rw [draw_row, if_pos (Nat.not_lt.1 hfull)] at h
  exact h.overflow

theorem call_comesTo (off : BitVec 33) (h : s.ready g) (hh : (s.row s.cur).handler = false) :
    ComesTo (.call g off) s (callTo s.draw s.cur ((s.row s.cur).target off)) :=
  comesTo_issueQ (exec_call g off s) h (Plan.clear_priv hh _) rfl

theorem jmprCall_comesTo (h : s.ready g) (hh : (s.row s.cur).handler = false) :
    ComesTo (.jmprCall g a) s
      (if (jumpReg (s.row s.cur) a).2 then callTo s.draw s.cur (jumpReg (s.row s.cur) a).1
       else .trap cMisalign ((jumpReg (s.row s.cur) a).1.setWidth 64) s.draw) :=
  comesTo_issueQ (exec_jmprCall g a s) h (Plan.clear_priv hh _) rfl

theorem jmprCall_aligned (h : s.ready g) (hh : (s.row s.cur).handler = false)
    (ha : (jumpReg (s.row s.cur) a).1.toNat % 8 = 0) :
    ComesTo (.jmprCall g a) s (callTo s.draw s.cur (jumpReg (s.row s.cur) a).1) := by
  have hcome := jmprCall_comesTo (a := a) h hh
  rwa [if_pos ((jumpReg_aligned _ _).2 ha)] at hcome

theorem jmprCall_misaligned (h : s.ready g) (hh : (s.row s.cur).handler = false)
    (ha : (jumpReg (s.row s.cur) a).1.toNat % 8 ≠ 0) :
    Raises (.jmprCall g a) s cMisalign ((jumpReg (s.row s.cur) a).1.setWidth 64) := by
  have hcome := jmprCall_comesTo (a := a) h hh
  rw [if_neg (mt (jumpReg_aligned _ _).1 ha)] at hcome
  exact hcome.raises

theorem loops_comesTo (off : BitVec 33) (h : s.ready g) (hh : (s.row s.cur).handler = false) :
    ComesTo (.loops g off) s
      (if 32 ≤ (s.row s.cur).tokTotal then .trap (s.row s.cur).overflow.1 (s.row s.cur).overflow.2 s.draw
       else .done (s.draw.setRow s.cur
        ((s.row s.cur).push .loop (some ((s.row s.cur).target off)) ((s.row s.cur).arm.clause.last + 8) 0))) :=
  comesTo_issueQ (exec_loops g off s) h (Plan.clear_priv hh _) rfl

theorem loops_room (off : BitVec 33) (h : s.ready g) (hh : (s.row s.cur).handler = false)
    (hroom : (s.row s.cur).tokTotal < 32) :
    Completes (.loops g off) s (s.now (fun _ =>
      (s.row s.cur).push .loop (some ((s.row s.cur).target off)) ((s.row s.cur).arm.clause.last + 8) 0)) := by
  have hcome := loops_comesTo off h hh
  rw [if_neg (Nat.not_le.2 hroom)] at hcome
  exact hcome.completes_setRow

theorem loops_full (off : BitVec 33) (h : s.ready g) (hh : (s.row s.cur).handler = false)
    (hfull : ¬ (s.row s.cur).tokTotal < 32) :
    if (s.row s.cur).barParked = 0 then Raises (.loops g off) s cTokenOverflow 0
    else Raises (.loops g off) s cBarDiverge ((s.row s.cur).arm.pc.setWidth 64) := by
  have hcome := loops_comesTo off h hh
  rw [if_pos (Nat.not_lt.1 hfull)] at hcome
  exact hcome.overflow

/-! ### JOIN with no token, and RET -/

/-- Outside an open region no token is below its snapshot (R345). -/
theorem Row.below_of_region {r : Row} (h : r.region = none) (k : Nat) : r.below k = false := by
  simp [Row.below, h]

theorem join_no_token (off : BitVec 33) (h : s.ready g) (hh : (s.row s.cur).handler = false)
    (hd : (s.row s.cur).tokdepth = 0) : JumpsTo (.join g off) s s ((s.row s.cur).target off) := by
  have hcome := comesTo_issueQ (exec_join g off s) h (Plan.clear_priv hh _) rfl
  dsimp only at hcome
  rw [draw_row, if_pos hd] at hcome
  exact hcome.branch

theorem ret_call {p b : Va} {w k : Mask} {n : Nat} {rest : List Token} (h : s.ready g)
    (hh : (s.row s.cur).handler = false) (hreg : (s.row s.cur).region = none)
    (ht : (s.row s.cur).arm.toks = ⟨.call, some p, b, w, k, n⟩ :: rest) :
    JumpsTo (.ret g) s (s.now (fun r => { r with arm := { r.arm with toks := rest } })) p := by
  have hcome := comesTo_issueQ (exec_ret g s) h (Plan.clear_priv hh _) rfl
  simp only [draw_row, Row.below_of_region hreg, Bool.and_false, Bool.false_eq_true, if_false, ht] at hcome
  exact ComesTo.jumpsTo (q := { s.row s.cur with arm := { (s.row s.cur).arm with toks := rest } }) hcome rfl

theorem ret_no_call (h : s.ready g) (hh : (s.row s.cur).handler = false) (hreg : (s.row s.cur).region = none)
    (ht : ∀ u ∈ (s.row s.cur).arm.toks.head?, u.kind ≠ .call) :
    Raises (.ret g) s cBarDiverge ((s.row s.cur).arm.pc.setWidth 64) := by
  have hcome := comesTo_issueQ (exec_ret g s) h (Plan.clear_priv hh _) rfl
  simp only [draw_row, Row.below_of_region hreg, Bool.and_false, Bool.false_eq_true, if_false] at hcome
  split at hcome
  next htoks => exact absurd rfl (ht _ (by rw [htoks]; exact rfl))
  next => exact hcome.raises

end

/-- Settles O23: each word by the outcome of its body, the conditions of BR by the lanes that they ask for. -/
theorem branches : Obligations.Branches := by
  unfold Obligations.Branches
  refine ⟨fun s g c p off a h => ?_, fun s g off a p rest w k b n h hh => ?_⟩
  · intro r lane set taken x t
    have htaken : taken ↔ brTaken c r.arm.em (r.preg p.toNat) = true := by
      cases c with
      | always => exact iff_of_true trivial rfl
      | any => exact brTaken_any.symm
      | all => exact brTaken_all.symm
      | none => exact brTaken_none.symm
    have hx : r.target off = x := r.target_eq off
    have ht : (jumpReg r a).1 = t := jumpReg_target r a
    rw [← hx, ← ht, htaken]
    exact ⟨br_taken off h, br_not_taken off h, jmpr_aligned h, jmpr_misaligned h,
      fun hh htoks harms => join_no_token off h hh (by rw [Row.tokdepth, htoks, harms]; rfl)⟩
  · intro r push call x t room full
    have hx : r.target off = x := r.target_eq off
    have ht : (jumpReg r a).1 = t := jumpReg_target r a
    rw [← hx, ← ht]
    exact ⟨fun hroom => ⟨(call_comesTo off h hh).call_room hroom,
        fun ha => (jmprCall_aligned h hh ha).call_room hroom, loops_room off h hh hroom⟩,
      fun hfull => ⟨(call_comesTo off h hh).call_full hfull, loops_full off h hh hfull,
        fun ha => (jmprCall_aligned h hh ha).call_full hfull⟩,
      jmprCall_misaligned h hh, fun htoks hreg => ret_call h hh hreg htoks,
      fun hhead hreg => ret_no_call h hh hreg hhead⟩

end Sys2Proof.Machine
end

section
/-! SUPPORT. BRV and JOIN (R87, R89, R90): how a row splits, and where JOIN parks the lanes of an arm. -/

namespace Sys2Proof.Machine

/-! ### BRV -/

theorem exec_brv (g : Guard) (p : PReg) (neg : Bool) (off : BitVec 33) (s : State) :
    exec (.brv g p neg off) s = execBrv g p neg off s := rfl

section
variable {s : State} {g : Guard} {p : PReg} {neg : Bool} {M F : Mask}

/-- The row that BRV splits under a token, before its arm goes to the target (R89). -/
def Row.splitUnder (r : Row) (M F : Mask) : Row :=
  { r with
    arm := { r.arm with em := M, toks := ⟨.split, none, r.arm.pc + 8, F, 0, r.tokSerial⟩ :: r.arm.toks }
    tokSerial := r.tokSerial + 1 }

theorem brv_comesTo (off : BitVec 33) (h : s.acting g) (hh : (s.row s.cur).handler = false)
    (hM : (s.row s.cur).moving g p neg = M) (hF : (s.row s.cur).arm.em &&& ~~~M = F) :
    ComesTo (.brv g p neg off) s (
      let r := s.row s.cur
      let x := r.target off
      if M == 0 then .done s.draw
      else if F == 0 then branch s.draw s.cur x
      else if r.tokdepth = 0 then
        if r.region.isSome && !r.handler then .trap cIdemNest 5 s.draw
        else .jump (s.draw.setRow s.cur (r.split M F x)) false
      else if 32 ≤ r.tokTotal then .trap r.overflow.1 r.overflow.2 s.draw
      else .jump (s.draw.setRow s.cur { r.splitUnder M F with arm := (r.splitUnder M F).arm.goto x }) true) := by
  subst hM hF
  exact comesTo_issueL (exec_brv g p neg off s) h (Plan.clear_priv hh _) rfl

section
variable (off : BitVec 33) (h : s.acting g) (hh : (s.row s.cur).handler = false)
  (hM : (s.row s.cur).moving g p neg = M) (hF : (s.row s.cur).arm.em &&& ~~~M = F)
include h hh hM hF

theorem brv_none (hM0 : M = 0) : Completes (.brv g p neg off) s s := by
  have hcome := brv_comesTo off h hh hM hF
  simp only [hM0, beq_self_eq_true, if_true] at hcome
  exact hcome.completes_draw

theorem brv_all (hM0 : M ≠ 0) (hF0 : F = 0) : JumpsTo (.brv g p neg off) s s ((s.row s.cur).target off) := by
  have hcome := brv_comesTo off h hh hM hF
  rw [if_neg (mt beq_iff_eq.1 hM0), if_pos (beq_iff_eq.2 hF0)] at hcome
  exact hcome.branch

/-- The first split of a row makes arms T and F (R85, R89). -/
theorem brv_arms (hM0 : M ≠ 0) (hF0 : F ≠ 0) (hd : (s.row s.cur).tokdepth = 0) (hreg : (s.row s.cur).region = none) :
    ∃ t, exec (.brv g p neg off) s = .next t ∧
      Acted (s.draw.setRow s.cur ((s.row s.cur).split M F ((s.row s.cur).target off))) t ∧
      t.row s.cur = ((s.row s.cur).split M F ((s.row s.cur).target off)).paid.ready := by
  have hcome := brv_comesTo off h hh hM hF
  rw [if_neg (mt beq_iff_eq.1 hM0), if_neg (mt beq_iff_eq.1 hF0), if_pos hd, hreg] at hcome
  obtain ⟨t, ht, hacted, hrow⟩ := ComesTo.jump_stays hcome rfl
  rw [setRow_row_same] at hrow
  exact ⟨t, ht, hacted, hrow⟩

theorem brv_under (hM0 : M ≠ 0) (hF0 : F ≠ 0) (hd : (s.row s.cur).tokdepth ≠ 0) (hroom : (s.row s.cur).tokTotal < 32) :
    JumpsTo (.brv g p neg off) s (s.now (fun _ => (s.row s.cur).splitUnder M F)) ((s.row s.cur).target off) := by
  have hcome := brv_comesTo off h hh hM hF
  rw [if_neg (mt beq_iff_eq.1 hM0), if_neg (mt beq_iff_eq.1 hF0), if_neg hd, if_neg (Nat.not_le.2 hroom)] at hcome
  exact ComesTo.jumpsTo (q := (s.row s.cur).splitUnder M F) hcome rfl

theorem brv_full (hM0 : M ≠ 0) (hF0 : F ≠ 0) (hd : (s.row s.cur).tokdepth ≠ 0) (hfull : 32 ≤ (s.row s.cur).tokTotal)
    (hfree : (s.row s.cur).barParked = 0) : Raises (.brv g p neg off) s cTokenOverflow 0 := by
  have hcome := brv_comesTo off h hh hM hF
  rw [if_neg (mt beq_iff_eq.1 hM0), if_neg (mt beq_iff_eq.1 hF0), if_neg hd, if_pos hfull] at hcome
  have hraise := hcome.overflow
  rwa [if_pos hfree] at hraise

end

end

/-! ### JOIN -/

section
variable {r : Row} {x : Va} {t : Token} {rest : List Token} {k : ArmsTok}

theorem Row.park_split (ht : r.arm.toks = t :: rest) (hk : t.kind = .split) (hx : ∀ y ∈ t.pca, y = x) :
    r.park x = some { r with arm := { r.arm with
      em := 0, toks := { t with pca := some x, park := t.park ||| r.arm.em } :: rest } } := by
  have hpca : (t.pca.isNone || t.pca == some x) = true := by
    cases hp : t.pca with
    | none => rfl
    | some y => simp [hx y hp]
  simp only [Row.park, ht, hk, hpca, beq_self_eq_true, Bool.and_self, if_true]

theorem Row.park_split_elsewhere (ht : r.arm.toks = t :: rest) (hx : ∃ y ∈ t.pca, y ≠ x) : r.park x = none := by
  obtain ⟨y, hy, hne⟩ := hx
  have hpca : (t.pca.isNone || t.pca == some x) = false := by simp [Option.mem_def.1 hy, hne]
  simp only [Row.park, ht, hpca, Bool.and_false, Bool.false_eq_true, if_false]

theorem Row.park_not_split (ht : r.arm.toks = t :: rest) (hk : t.kind ≠ .split) : r.park x = none := by
  simp only [Row.park, ht, beq_eq_false_iff_ne.2 hk, Bool.false_and, Bool.false_eq_true, if_false]

theorem Row.park_arms (ht : r.arm.toks = []) (hk : r.armsTok = some k) (hx : ∀ y ∈ k.pca, y = x) :
    r.park x = some { r with
      arm := { r.arm with em := 0, st := .joinPark }
      armsTok := some { k with
        pca := some x
        parkT := if r.armId = .f then k.parkT else k.parkT ||| r.arm.em
        parkF := if r.armId = .f then k.parkF ||| r.arm.em else k.parkF } } := by
  have hpca : (k.pca.isNone || k.pca == some x) = true := by
    cases hp : k.pca with
    | none => rfl
    | some y => simp [hx y hp]
  by_cases hf : r.armId = .f
  · simp [Row.park, ht, hk, hpca, hf]
  · simp [Row.park, ht, hk, hpca, hf]

theorem Row.park_arms_elsewhere (ht : r.arm.toks = []) (hk : r.armsTok = some k) (hx : ∃ y ∈ k.pca, y ≠ x) :
    r.park x = none := by
  obtain ⟨y, hy, hne⟩ := hx
  have hpca : (k.pca.isNone || k.pca == some x) = false := by simp [Option.mem_def.1 hy, hne]
  simp only [Row.park, ht, hk, hpca, Bool.false_eq_true, if_false]

theorem Row.tokdepth_of_toks (ht : r.arm.toks = t :: rest) : r.tokdepth ≠ 0 := by
  simp [Row.tokdepth, ht]

theorem Row.tokdepth_of_arms (hk : r.armsTok = some k) : r.tokdepth ≠ 0 := by
  simp [Row.tokdepth, hk]

end

section
variable {s : State} {g : Guard} (off : BitVec 33) (h : s.ready g) (hh : (s.row s.cur).handler = false)
  (hreg : (s.row s.cur).region = none) (hd : (s.row s.cur).tokdepth ≠ 0)
include h hh hreg hd

theorem join_parks {q : Row} (hq : (s.row s.cur).park ((s.row s.cur).target off) = some q) :
    Resumes (.join g off) s q := by
  have hcome := comesTo_issueQ (exec_join g off s) h (Plan.clear_priv hh _) rfl
  simp only [draw_row, hd, Row.below_of_region hreg, Bool.false_eq_true, if_false, hq] at hcome
  exact hcome.resumes

theorem join_diverges (hq : (s.row s.cur).park ((s.row s.cur).target off) = none) :
    Raises (.join g off) s cBarDiverge ((s.row s.cur).arm.pc.setWidth 64) := by
  have hcome := comesTo_issueQ (exec_join g off s) h (Plan.clear_priv hh _) rfl
  simp only [draw_row, hd, Row.below_of_region hreg, Bool.false_eq_true, if_false, hq] at hcome
  exact hcome.raises

end

/-- Settles O24: BRV by the masks that it moves and leaves, JOIN by where `Row.park` puts the lanes. -/
theorem divergentBranch : Obligations.DivergentBranch := by
  unfold Obligations.DivergentBranch
  refine ⟨fun s g p neg off M F h hh hreg hL => ?_, fun s g off t rest k h hh hreg => ?_⟩
  · intro r hMbits hFbits i x u
    have hx : r.target off = x := r.target_eq off
    have hM : r.moving g p neg = M := Row.moving_eq hL hMbits
    have hF : r.arm.em &&& ~~~M = F := BitVec.eq_of_getLsbD_eq fun l hl => by
      rw [hFbits l hl, BitVec.getLsbD_and, BitVec.getLsbD_not, decide_eq_true hl, Bool.true_and]
    rw [← hx]
    refine ⟨brv_none off h hh hM hF, brv_all off h hh hM hF, fun hM0 hF0 htoks harms => ?_,
      brv_under off h hh hM hF, brv_full off h hh hM hF⟩
    have hd : r.tokdepth = 0 := by rw [Row.tokdepth, htoks, harms]; rfl
    obtain ⟨t, ht, hacted, hrow⟩ := brv_arms off h hh hM hF hM0 hF0 hd hreg
    refine ⟨t, ht, hacted.of_now rfl, ?_⟩
    rw [hrow]
    exact ⟨rfl, rfl, rfl⟩
  · intro r i x diverge
    have hx : r.target off = x := r.target_eq off
    rw [← hx]
    refine ⟨fun ht hk hpca => ?_, fun ht hk hpca => ?_, fun ht hk => ?_, fun ht hk hpca => ?_, fun ht hk hpca => ?_⟩
    · exact join_parks off h hh hreg (Row.tokdepth_of_toks ht) (Row.park_split ht hk hpca)
    · exact join_diverges off h hh hreg (Row.tokdepth_of_toks ht) (Row.park_split_elsewhere ht hpca)
    · exact join_diverges off h hh hreg (Row.tokdepth_of_toks ht) (Row.park_not_split ht hk)
    · exact join_parks off h hh hreg (Row.tokdepth_of_arms hk) (Row.park_arms ht hk hpca)
    · exact join_diverges off h hh hreg (Row.tokdepth_of_arms hk) (Row.park_arms_elsewhere ht hk hpca)

end Sys2Proof.Machine
end

section
/-! SUPPORT. Words that write lane predicates (R74 to R78): what `setPreds` and `setPair` leave in each bit, and the conditions of
Table 03-2. -/

namespace Sys2Proof.Machine

/-! ### What a write of predicates leaves -/

theorem setPreds_eq (r : Row) (d : Nat) (ls : List Nat) (f : Nat → Bool) :
    r.setPreds d ls f = { r with p := (r.setPreds d ls f).p } := by
  unfold Row.setPreds
  split <;> rfl

theorem setPreds_p_congr {r q : Row} (h : q.p = r.p) (d : Nat) (ls : List Nat) (f : Nat → Bool) :
    (q.setPreds d ls f).p = (r.setPreds d ls f).p := by
  unfold Row.setPreds
  split
  · exact h
  · rw [h]

theorem setPair_eq (r v : Row) (k : Cmb) (pt pf : PReg) (ls : List Nat) (c : Nat → Bool) :
    r.setPair v k pt pf ls c = { r with p := (r.setPair v k pt pf ls c).p } := by
  unfold Row.setPair
  rw [setPreds_eq (r.setPreds _ _ _), setPreds_eq r]

theorem setPair_p_congr {r q : Row} (h : q.p = r.p) (v : Row) (k : Cmb) (pt pf : PReg) (ls : List Nat) (c : Nat → Bool) :
    (q.setPair v k pt pf ls c).p = (r.setPair v k pt pf ls c).p :=
  setPreds_p_congr (setPreds_p_congr h _ _ _) _ _ _

theorem setPair_orFlags {r q : Row} (h : q.p = r.p) (v : Row) (k : Cmb) (pt pf : PReg) (ls : List Nat) (c : Nat → Bool)
    (fl : Flags) : (q.setPair v k pt pf ls c).orFlags fl =
      { q.orFlags fl with p := (r.setPair v k pt pf ls c).p } := by
  rw [setPair_eq q, setPair_p_congr h]
  rfl

theorem lt_of_mem_actLanes {r : Row} {g : Guard} (hL : r.L ≤ 1024) {l : Nat} (h : l ∈ r.actLanes g) : l < 1024 :=
  Nat.lt_of_lt_of_le (mem_actLanes.1 h).1 hL

/-- A predicate that a word writes in the lanes that act, each lane's bit by `f`. -/
def Row.predWrite (r : Row) (g : Guard) (d : Nat) (f : Nat → Bool) (n l : Nat) : Option Bool :=
  if r.acts g l = true ∧ n = d ∧ n ≠ 0 then some (f l) else none

theorem setPreds_acts (r : Row) (g : Guard) (d n l : Nat) (f : Nat → Bool) (hL : r.L ≤ 1024) (hl : l < r.L) :
    ((r.setPreds d (r.actLanes g) f).preg n).getLsbD l = (r.predWrite g d f n l).getD ((r.preg n).getLsbD l) := by
  rw [setPreds_preg r d n l _ f (fun _ hx => lt_of_mem_actLanes hL hx) (Nat.lt_of_lt_of_le hl hL), Row.predWrite]
  simp only [mem_actLanes, hl, true_and]
  by_cases ha : r.acts g l = true
  · by_cases hn : n = d
    · subst hn
      by_cases h0 : n = 0 <;> simp [ha, h0]
    · simp [hn]
  · simp [ha]

/-- A pair that a compare writes in the lanes that act (R75): what is written to pf stands where pt and pf are one. -/
def Row.pairWrite (r : Row) (g : Guard) (k : Cmb) (pt pf : PReg) (f : Nat → Bool) (n l : Nat) : Option Bool :=
  let p := combine k (f l) ((r.preg pt.toNat).getLsbD l) ((r.preg pf.toNat).getLsbD l)
  if r.acts g l = false ∨ n = 0 then none
  else if n = pf.toNat then some p.2 else if n = pt.toNat then some p.1 else none

theorem setPair_acts (r : Row) (g : Guard) (k : Cmb) (pt pf : PReg) (n l : Nat) (f : Nat → Bool) (hL : r.L ≤ 1024)
    (hl : l < r.L) : ((r.setPair r k pt pf (r.actLanes g) f).preg n).getLsbD l =
      (r.pairWrite g k pt pf f n l).getD ((r.preg n).getLsbD l) := by
  have hlt : ∀ x ∈ r.actLanes g, x < 1024 := fun _ hx => lt_of_mem_actLanes hL hx
  have hl' : l < 1024 := Nat.lt_of_lt_of_le hl hL
  rw [Row.setPair, setPreds_preg _ _ _ _ _ _ hlt hl', setPreds_preg _ _ _ _ _ _ hlt hl', Row.pairWrite]
  by_cases h0 : n = 0
  · rw [if_neg (fun h => h.2.1 (h.1.symm.trans h0)), if_neg (fun h => h.2.1 (h.1.symm.trans h0)), if_pos (Or.inr h0)]
    rfl
  · simp only [mem_actLanes, hl, true_and, h0, or_false]
    by_cases ha : r.acts g l = true
    · by_cases hf : n = pf.toNat
      · simp [ha, ← hf, h0]
      · by_cases ht : n = pt.toNat
        · simp [ha, hf, ← ht, h0]
        · simp [hf, ht]
    · simp [ha]

/-! ### Words that write predicates -/

section
variable {i : Instr} {p : Plan} {g : Guard} {s : State} {f : Nat → Nat → Option Bool}

theorem WritesP.of_completes {u : State} {p : Tbl Mask} (h : Completes i s (u.now (fun r => { r with p := p })))
    (hp : ∀ k l, l < (s.row s.cur).L → (({ s.row s.cur with p := p } : Row).preg k).getLsbD l =
      (f k l).getD (((s.row s.cur).preg k).getLsbD l)) : WritesP i s u f := by
  obtain ⟨t, ht, hacted⟩ := h
  exact ⟨t, p, ht, hacted, hp⟩

/-- A body that only changes the predicates of its row. -/
theorem ComesTo.writesP {q : Row} (h : ComesTo i s (.done (s.draw.setRow s.cur q)))
    (hq : q = { s.row s.cur with p := q.p })
    (hbits : ∀ k l, l < (s.row s.cur).L → (q.preg k).getLsbD l = (f k l).getD (((s.row s.cur).preg k).getLsbD l)) :
    WritesP i s s f := by
  have hnow : s.now (fun _ => q) = s.now (fun r => { r with p := q.p }) := modRow_apply hq
  refine WritesP.of_completes (p := q.p) (hnow ▸ h.completes_setRow) fun k l hl => ?_
  rw [← hq]
  exact hbits k l hl

/-- Nothing keeps a lane-class word from acting whose registers exist and whose modifier fits. -/
theorem Plan.clear_lanes {r : Row} (hl : p.illegal r = false) (hr : r.Has p.regs) (ho : p.regsOf r = [])
    (hn : p.nest = false) (hp : p.priv = false) (hh : p.hold r = false) (hf : (p.fp && r.fp.banked) = false) :
    p.Clear r where
  legal := hl
  regs := by rw [ho, List.append_nil]; exact hr.badReg
  nest := by rw [hn, Bool.false_and, Bool.false_and]
  priv := by rw [hp, Bool.false_and]
  hold := hh
  fp := hf

theorem Row.has_nil (r : Row) : r.Has [] := fun _ hx => absurd hx List.not_mem_nil

/-- A lane-class word that writes one predicate. -/
theorem writesP_setPreds {d : Nat} {f : Row → Nat → Bool}
    (he : exec i s = issueL p g (onRow (fun r v => r.setPreds d (v.actLanes g) (f v))) s) (h : s.acting g)
    (hp : p.Clear (s.row s.cur)) (hf : p.fp = false) (hL : (s.row s.cur).L ≤ 1024) :
    WritesP i s s ((s.row s.cur).predWrite g d (f (s.row s.cur))) :=
  ComesTo.writesP (q := (s.row s.cur).setPreds d ((s.row s.cur).actLanes g) (f (s.row s.cur)))
    (comesTo_issueL he h hp hf) (setPreds_eq _ _ _ _) fun n l hl => setPreds_acts _ g d n l _ hL hl

/-- A lane-class word that writes a pair of predicates. -/
theorem writesP_setPair {k : Cmb} {pt pf : PReg} {f : Row → Nat → Bool}
    (he : exec i s = issueL p g (onRow (fun r v => r.setPair v k pt pf (v.actLanes g) (f v))) s) (h : s.acting g)
    (hp : p.Clear (s.row s.cur)) (hf : p.fp = false) (hL : (s.row s.cur).L ≤ 1024) :
    WritesP i s s ((s.row s.cur).pairWrite g k pt pf (f (s.row s.cur))) :=
  ComesTo.writesP (q := (s.row s.cur).setPair (s.row s.cur) k pt pf ((s.row s.cur).actLanes g) (f (s.row s.cur)))
    (comesTo_issueL he h hp hf) (setPair_eq _ _ _ _ _ _ _) fun n l hl => setPair_acts _ g k pt pf n l _ hL hl

end

section
variable {s : State} {g : Guard} {m : Amod} (h : s.acting g)
include h

theorem vicmp_writes {pt pf : PReg} {a : VReg} {b : BitVec 6} {sb : Bool} (c : Cond) (ty : BitVec 2) (k : Cmb)
    (hm : (s.row s.cur).Fits m) (hL : (s.row s.cur).L ≤ 1024) (hr : (s.row s.cur).Has (cmpRegs a b sb)) :
    WritesP (.vicmp g pt pf a m b sb c ty k) s s ((s.row s.cur).pairWrite g k pt pf
      (fun l => vicond c ty ((s.row s.cur).src a m l) ((s.row s.cur).cmpB b sb l))) := by
  have he : exec (.vicmp g pt pf a m b sb c ty k) s = execVicmp g pt pf a m b sb c ty k s := rfl
  exact writesP_setPair (f := fun v l => vicond c ty (v.src a m l) (v.cmpB b sb l)) he h
    (Plan.clear_lanes hm.amodWide hr rfl rfl rfl (by simp [h.1.pendP]) rfl) rfl hL

theorem plop_writes (fn : BitVec 4) (d a b : PReg) (hL : (s.row s.cur).L ≤ 1024) :
    WritesP (.plop g false fn d a b) s s ((s.row s.cur).predWrite g d.toNat
      (fun l => plopVal fn (((s.row s.cur).preg a.toNat).getLsbD l) (((s.row s.cur).preg b.toNat).getLsbD l))) := by
  have he : exec (.plop g false fn d a b) s =
      issueL { units := 2, cycles := Row.passes, hold := fun r => r.pendP d.toNat } g (onRow (fun r v =>
        r.setPreds d.toNat (v.actLanes g)
          (fun l => plopVal fn ((v.preg a.toNat).getLsbD l) ((v.preg b.toNat).getLsbD l)))) s := rfl
  exact writesP_setPreds (f := fun v l => plopVal fn ((v.preg a.toNat).getLsbD l) ((v.preg b.toNat).getLsbD l)) he h
    (Plan.clear_lanes rfl (Row.has_nil _) rfl rfl rfl (h.1.pendP _) rfl) rfl hL

theorem pmov_pv_writes (d : PReg) (a : VReg) (hm : (s.row s.cur).Fits m) (hL : (s.row s.cur).L ≤ 1024)
    (hr : (s.row s.cur).Has [a.toNat]) :
    WritesP (.pmov g (.pv d a m)) s s ((s.row s.cur).predWrite g d.toNat (fun l => (s.row s.cur).src a m l != 0)) := by
  have he : exec (.pmov g (.pv d a m)) s = execPmov g (.pv d a m) s := rfl
  exact writesP_setPreds (f := fun v l => v.src a m l != 0) he h
    (Plan.clear_lanes hm.amodWide hr rfl rfl rfl (h.1.pendP _) rfl) rfl hL

theorem pmov_pp_writes (d a : PReg) (hm : (s.row s.cur).Fits m) (hL : (s.row s.cur).L ≤ 1024) :
    WritesP (.pmov g (.pp d a m)) s s ((s.row s.cur).predWrite g d.toNat (fun l => (s.row s.cur).srcP a m l)) := by
  have he : exec (.pmov g (.pp d a m)) s = execPmov g (.pp d a m) s := rfl
  exact writesP_setPreds (f := fun v l => v.srcP a m l) he h
    (Plan.clear_lanes hm.amodWide (Row.has_nil _) rfl rfl rfl (h.1.pendP _) rfl) rfl hL

theorem pmov_vp_writes (d : VReg) (a : PReg) (hm : (s.row s.cur).Fits m) (hr : (s.row s.cur).Has [d.toNat]) :
    WritesV (.pmov g (.vp d a m)) s s d.toNat
      ((s.row s.cur).inActs g (fun l => if (s.row s.cur).srcP a m l then 1 else 0)) := by
  have he : exec (.pmov g (.vp d a m)) s = execPmov g (.vp d a m) s := rfl
  have hcome := comesTo_issueL he h
    (Plan.clear_lanes hm.amodWide hr rfl rfl rfl (h.1.holdV _) rfl) rfl
  exact WritesV.lanes (ComesTo.completes_setRow hcome)

/-- VFCMP writes its pair, and ORs in the flags of the lanes that act (R75, R76). -/
theorem vfcmp_writes {pt pf : PReg} {a : VReg} {b : BitVec 6} {sb : Bool} (c : Cond) (ty : FTy) (k : Cmb)
    (hm : (s.row s.cur).Fits m) (hL : (s.row s.cur).L ≤ 1024) (hb : (s.row s.cur).fp.banked = false)
    (hr : (s.row s.cur).Has (cmpRegs a b sb)) :
    let r := s.row s.cur
    let x (l : Nat) : FVal := (ftyFmt ty).decode (fpart ty 0 (r.src a m l))
    let y (l : Nat) : FVal := (ftyFmt ty).decode (fpart ty 0 (r.cmpB b sb l))
    WritesP (.vfcmp g pt pf a m b sb c ty k) s
      (s.usedFp.now (fun q => q.orFlags ((r.actLanes g).foldl (fun o l => o ||| condFlags c (x l) (y l)) 0)))
      (r.pairWrite g k pt pf (fun l => condFp c (x l) (y l))) := by
  intro r x y
  have he : exec (.vfcmp g pt pf a m b sb c ty k) s = execVfcmp g pt pf a m b sb c ty k s := rfl
  have hcome := comesTo_issueWord (go := fun r => r.anyActs g) he h.1
    (Plan.clear_lanes hm.amodWide hr rfl rfl rfl (by simp [h.1.pendP]) (by rw [hb, Bool.and_false])) h.2
  refine WritesP.of_completes (p := (r.setPair r k pt pf (r.actLanes g) (fun l => condFp c (x l) (y l))).p)
    (ComesTo.completes (s.drawn + 1) ?_ (usedFp_now_cur s _ _)) fun n l hl => ?_
  · rw [← usedFp_body]
    · exact hcome
    · exact setPair_orFlags (r := r) (q := r.useFp (s.rowClk s.cur)) rfl r k pt pf (r.actLanes g) (fun l => condFp c (x l) (y l)) _
  · rw [← setPair_eq]
    exact setPair_acts r g k pt pf n l _ hL hl

end

/-! ### Conditions -/

/-- R75: a pair of complementary bits stays complementary. -/
theorem combine_complementary (k : Cmb) (c t : Bool) : (combine k c t (!t)).2 = !(combine k c t (!t)).1 := by
  cases k with
  | write => rfl
  | and => exact (Bool.not_and t c).symm
  | or => exact (Bool.not_or t c).symm

theorem condInt_c7 {w : Nat} (sgn : Bool) (x y : BitVec w) : condInt .c7 sgn x y = !condInt .c6 sgn x y :=
  (Bool.not_not _).symm

theorem condInt_lt_iff {w : Nat} (sgn : Bool) (x y : BitVec w) :
    condInt .lt sgn x y = true ↔ if sgn then x.toInt < y.toInt else x.toNat < y.toNat := by
  cases sgn with
  | true => exact decide_eq_true_iff
  | false => exact decide_eq_true_iff

theorem FVal.lt_nan_left {x : FVal} (h : x.isNan = true) (y : FVal) : x.lt y = false := by
  cases x with
  | nan => rfl
  | inf | fin => cases h

theorem FVal.lt_nan_right {y : FVal} (h : y.isNan = true) (x : FVal) : x.lt y = false := by
  cases y with
  | nan => cases x <;> rfl
  | inf | fin => cases h

/-- Of two floats at most one is the less. -/
theorem FVal.lt_asymm {x y : FVal} (h : x.lt y = true) : y.lt x = false := by
  cases x with
  | nan => cases h
  | inf a =>
    cases y with
    | nan => cases h
    | inf b =>
      simp only [FVal.lt, Bool.and_eq_true] at h
      simp [FVal.lt, h.1]
    | fin n m e => simpa [FVal.lt] using h
  | fin n m e =>
    cases y with
    | nan => cases h
    | inf b => simpa [FVal.lt] using h
    | fin n' m' e' =>
      simp only [FVal.lt, decide_eq_true_eq, decide_eq_false_iff_not, min_comm e' e] at h ⊢
      exact not_lt.2 h.le

theorem FVal.numEq_nan {x : FVal} (h : x.isNan = true) (y : FVal) : x.numEq y = false := by
  simp [FVal.numEq, h]

/-- Two numbers are equal or one is the less (Table 03-2). -/
theorem FVal.lt_or_numEq {x y : FVal} (hx : x.isNan = false) (hy : y.isNan = false) :
    (y.lt x || x.numEq y) = !x.lt y := by
  simp only [FVal.numEq, hx, hy, Bool.not_false, Bool.true_and]
  cases hxy : x.lt y with
  | true => rw [FVal.lt_asymm hxy]; rfl
  | false => cases y.lt x <;> rfl

theorem FVal.numEq_comm (x y : FVal) : x.numEq y = y.numEq x := by
  unfold FVal.numEq
  ac_rfl

/-- Settles O22: each word by what it leaves in each bit, the conditions one by one. -/
theorem lanePredicates : Obligations.LanePredicates := by
  unfold Obligations.LanePredicates
  refine ⟨fun s g pt pf d a b v m vb sb c ty k fn h hm hL hr => ?_, fun s g pt pf a m b sb c ty k h hm hL hb hr => ?_,
    combine_complementary, fun w sgn x y => ?_, fun x y => ?_⟩
  · intro r B pair one
    have hv : r.Has [v.toNat] := hr.mono (by cases sb <;> simp)
    have hpv : (fun l => r.src v m l != 0) = fun l => decide (r.src v m l ≠ 0) :=
      funext fun l => Bool.eq_iff_iff.2 (bne_iff_ne.trans decide_eq_true_iff.symm)
    refine ⟨vicmp_writes h c ty k hm hL hr, plop_writes h fn d a b hL, ?_, pmov_pp_writes h d a hm hL,
      pmov_vp_writes h v a hm hv⟩
    rw [← hpv]
    exact pmov_pv_writes h d v hm hL hv
  · exact vfcmp_writes h c ty k hm hL hb hr
  · exact ⟨rfl, rfl, rfl, condInt_c7 sgn x y, rfl, condInt_lt_iff sgn x y⟩
  · refine ⟨rfl, rfl, rfl, fun hx => ?_, fun hx hy => ⟨FVal.lt_or_numEq hx hy, ?_⟩⟩
    · simp [condFp, FVal.numEq_nan hx, FVal.lt_nan_left hx, FVal.lt_nan_right hx]
    · exact (congrArg (x.lt y || ·) (FVal.numEq_comm x y)).trans (FVal.lt_or_numEq hy hx)

end Sys2Proof.Machine
end

section
/-! SUPPORT. PMOV into 64 bits of a lane predicate (Table 03-6) in a row wider than the 1024 lanes of R9: a row that no start
makes, but one that the statement about scalar predicates, which bounds no width there, ranges over. -/

namespace Sys2Proof.Machine

/-- A row of 1025 lanes with 1 in s1. -/
def wideRow : Row := { Row.reset with L := 1025, s := [(1, 1)] }

/-- Row 0 is that row. -/
def wideState : State := State.reset.setRow 0 wideRow

/-- The guard that always holds. -/
def always : Guard := ⟨0xFF, 0, 0, 0⟩

theorem wideState_row : wideState.row wideState.cur = wideRow := setRow_row_same State.reset 0 wideRow

theorem wideState_ready : wideState.ready always := by
  rw [State.ready, wideState_row]
  exact ⟨⟨rfl, rfl, rfl⟩, rfl⟩

/-- Refutes O21: PMOV p1[16] := s1 should set bit 1024 of p1 in a row of 1025 lanes, and a predicate has the bits 0 to 1023. -/
theorem not_scalarPredicates : ¬ Obligations.ScalarPredicates := by
  unfold Obligations.ScalarPredicates
  rintro ⟨hscalar, -⟩
  obtain ⟨-, -, -, -, -, -, hset, -⟩ :=
    hscalar wideState always 0 0 1 0 0 1 0 0 .eq 0 .write 0 16 0 wideState_ready
  rw [wideState_row] at hset
  obtain ⟨t, p, -, -, hbits⟩ := hset (by decide)
  have hbit := hbits 1 1024 (by rw [wideState_row]; decide)
  rw [BitVec.getLsbD_of_ge _ _ (Nat.le_refl 1024)] at hbit
  exact absurd hbit (by decide)

end Sys2Proof.Machine
end

section
/-! SUPPORT. Resume (R86) past a CALL token, where the SPLIT token below it holds parked lanes and no reconvergence pc: a token that
no JOIN leaves (R90), though a hamper that RESUME takes can hold one (R350, R353), and that the statement about Resume ranges
over. -/

namespace Sys2Proof.Machine

section
variable {r : Row} {t : Token} {rest : List Token}

theorem Row.resume_eq_resumeLoop (hb : r.barParked = 0) (hh : r.handler = false) :
    r.resume = resumeLoop (r.tokTotal + 2) r false := by
  have harm : r.arm.barPark = 0 := (BitVec.or_eq_zero_iff.1 hb).1
  have hdue : r.barDue = false := by rw [Row.barDue, hb, bne_self_eq_false, Bool.false_and]
  simp only [Row.resume, hdue, harm, hh, bne_self_eq_false, Bool.false_eq_true, if_false, Bool.not_false, Bool.true_or]
  cases resumeLoop (r.tokTotal + 2) r false with
  | none => rfl
  | some x => rfl

/-- A CALL token is dropped, and the arm returns (R86). -/
theorem resumeLoop_call {x : Va} (ht : r.arm.toks = t :: rest) (hk : t.kind = .call) (hx : t.pca = some x) (k : Nat)
    (moved : Bool) :
    resumeLoop (k + 1) r moved = resumeLoop k { r with arm := { r.arm with toks := rest }.goto x } true := by
  simp [resumeLoop, ht, hk, hx]

/-- Whether taking the parked lanes of a token sets the pc is a matter of the token alone. -/
theorem resumeLoop_parked (ht : r.arm.toks = t :: rest) (hk : t.kind ≠ .call) (hw : t.wait = 0) (hp : t.park ≠ 0) (k : Nat)
    (moved : Bool) : (resumeLoop (k + 1) r moved).map Prod.snd = some t.pca.isSome := by
  have hpark : (t.park != 0) = true := bne_iff_ne.2 hp
  cases hkind : t.kind with
  | call => exact absurd hkind hk
  | split | loop =>
    simp only [resumeLoop, ht, hkind, hw, hpark, bne_self_eq_false, Bool.and_false, Bool.false_eq_true, if_false, if_true,
      Option.map_some]

end

/-- A CALL token that returns to 64. -/
def callToken : Token := ⟨.call, some 64, 0, 0, 0, 1⟩

/-- A SPLIT token with lane 0 parked and no reconvergence pc. -/
def parkedNowhere : Token := ⟨.split, none, 0, 0, 1, 0⟩

/-- A row whose arm holds the two. -/
def calledRow : Row := { Row.reset with arm := { Arm.reset with toks := [callToken, parkedNowhere] } }

theorem calledRow_barParked : calledRow.barParked = 0 := BitVec.or_zero

/-- Resume drops the CALL token, which sets the pc, takes the lanes parked under it, and reports the pc as not set. -/
theorem calledRow_resume_moved : calledRow.resume.map Prod.snd = some false := by
  have hloop : calledRow.resume = resumeLoop 4 calledRow false :=
    Row.resume_eq_resumeLoop calledRow_barParked rfl
  rw [hloop, resumeLoop_call (t := callToken) (x := 64) rfl rfl rfl]
  exact resumeLoop_parked (t := parkedNowhere) rfl (by decide) rfl (by simp [parkedNowhere]) 2 true

/-- Refutes O25: its clause about a CALL token, that the pc counts as set, fails over a SPLIT token without a reconvergence pc. -/
theorem not_resumeProcedure : ¬ Obligations.ResumeProcedure := by
  unfold Obligations.ResumeProcedure
  rintro ⟨-, hresume, -⟩
  obtain ⟨-, -, -, hcall, -⟩ :=
    hresume calledRow callToken [parkedNowhere] ⟨none, 0, 0, 0⟩ Arm.reset calledRow_barParked rfl
  have hmoved := congrArg (Option.map Prod.snd) (hcall rfl rfl 64 rfl)
  rw [calledRow_resume_moved, Option.map_map] at hmoved
  obtain ⟨y, -, hy⟩ := Option.map_eq_some_iff.1 hmoved.symm
  exact Bool.noConfusion hy

end Sys2Proof.Machine
end

section
/-! SUPPORT. Scalar arithmetic (R106 to R111): a scalar-class word held only by its interlock, the values of Tables 04-2 and 04-3,
and the lane that SMOVV reads. -/

namespace Sys2Proof.Machine

/-! ### Scalar-class words -/

/-- Nothing keeps a word from acting whose one condition is an interlock that does not hold it. -/
theorem Plan.clear_hold {r : Row} {held : Row → Bool} (h : held r = false) : ({ hold := held } : Plan).Clear r :=
  ⟨rfl, rfl, rfl, rfl, h, rfl⟩

section
variable {i : Instr} {s : State} {g : Guard}

/-- A body that changes its row. -/
theorem ComesTo.completes_now {f : Row → Row} (h : ComesTo i s (.done (s.draw.modRow s.cur f))) :
    Completes i s (s.now f) :=
  ComesTo.completes (u := s.now f) (s.drawn + 1) h rfl

theorem scalarTo_completes {d : SReg} {f : Row → W64} (he : exec i s = scalarTo g d f s) (h : s.ready g) :
    Completes i s (s.now (fun r => r.setS d.toNat (f (s.row s.cur)))) :=
  ComesTo.completes_now (comesTo_issueQ he h (Plan.clear_hold (h.1.pendS d.toNat)) rfl)

end

/-! ### SALU (Table 04-2) -/

/-- The shift count B[5:0]. -/
theorem toNat_and_63 (y : W64) : (y &&& 63).toNat = y.toNat % 64 := by
  rw [BitVec.toNat_and]
  exact Nat.and_two_pow_sub_one_eq_mod _ 6

/-- A choice by strict order is one by order, where equal keys mean equal choices. -/
theorem ite_lt_eq_ite_le {α β : Type} [LinearOrder β] {u v : β} {x y : α} (h : u = v → x = y) :
    (if u < v then x else y) = if u ≤ v then x else y := by
  obtain hlt | heq | hgt := lt_trichotomy u v
  · rw [if_pos hlt, if_pos hlt.le]
  · rw [h heq, ite_self, ite_self]
  · rw [if_neg hgt.not_gt, if_neg hgt.not_ge]

theorem saluVal_min (x y : W64) : saluVal .min x y = if x.toInt ≤ y.toInt then x else y :=
  (if_congr BitVec.slt_iff_toInt_lt rfl rfl).trans (ite_lt_eq_ite_le BitVec.eq_of_toInt_eq)

theorem saluVal_max (x y : W64) : saluVal .max x y = if x.toInt ≤ y.toInt then y else x :=
  (if_congr BitVec.slt_iff_toInt_lt rfl rfl).trans (ite_lt_eq_ite_le fun h => (BitVec.eq_of_toInt_eq h).symm)

theorem saluVal_minn (x y : W64) : saluVal .minn x y = if x.toNat ≤ y.toNat then x else y :=
  (if_congr BitVec.ult_iff_toNat_lt rfl rfl).trans (ite_lt_eq_ite_le BitVec.eq_of_toNat_eq)

theorem saluVal_maxn (x y : W64) : saluVal .maxn x y = if x.toNat ≤ y.toNat then y else x :=
  (if_congr BitVec.ult_iff_toNat_lt rfl rfl).trans (ite_lt_eq_ite_le fun h => (BitVec.eq_of_toNat_eq h).symm)

theorem saluVal_slt (x y : W64) : saluVal .slt x y = if x.toInt < y.toInt then 1 else 0 :=
  if_congr BitVec.slt_iff_toInt_lt rfl rfl

theorem saluVal_sltn (x y : W64) : saluVal .sltn x y = if x.toNat < y.toNat then 1 else 0 :=
  if_congr BitVec.ult_iff_toNat_lt rfl rfl

/-- Bits [127:64] of an integer. -/
theorem extractLsb'_ofInt (z : Int) : (BitVec.ofInt 128 z).extractLsb' 64 64 = BitVec.ofInt 64 (z / 2 ^ 64) := by
  refine BitVec.eq_of_toNat_eq ?_
  rw [BitVec.extractLsb'_toNat, BitVec.toNat_ofInt, BitVec.toNat_ofInt, Nat.shiftRight_eq_div_pow]
  omega

theorem saluVal_mulh (x y : W64) : saluVal .mulh x y = BitVec.ofInt 64 (x.toInt * y.toInt / 2 ^ 64) := by
  have hprod : x.signExtend 128 * y.signExtend 128 = BitVec.ofInt 128 (x.toInt * y.toInt) := (BitVec.ofInt_mul _ _).symm
  rw [← extractLsb'_ofInt, ← hprod]
  rfl

theorem saluVal_mulhn (x y : W64) : saluVal .mulhn x y = BitVec.ofNat 64 (x.toNat * y.toNat / 2 ^ 64) := by
  have hlt : x.toNat * y.toNat < 2 ^ 128 :=
    Nat.lt_of_lt_of_eq (Nat.mul_lt_mul'' x.isLt y.isLt) (Nat.pow_add 2 64 64).symm
  have hprod : (x.zeroExtend 128 * y.zeroExtend 128).toNat = x.toNat * y.toNat := by
    rw [BitVec.toNat_mul, BitVec.toNat_setWidth_of_le (by decide), BitVec.toNat_setWidth_of_le (by decide),
      Nat.mod_eq_of_lt hlt]
  show (x.zeroExtend 128 * y.zeroExtend 128).extractLsb' 64 64 = _
  rw [BitVec.extractLsb', hprod, Nat.shiftRight_eq_div_pow]

/-- The numbers up to the first that a condition fails of. -/
theorem takeWhile_range {p : Nat → Bool} {k n : Nat} (hk : k < n) (hp : ∀ i < k, p i = true) (he : p k = false) :
    (List.range n).takeWhile p = List.range k := by
  obtain ⟨m, rfl⟩ := Nat.exists_eq_add_of_lt hk
  rw [Nat.add_assoc, List.range_add, List.takeWhile_append_of_pos (fun i hi => hp i (List.mem_range.1 hi)),
    List.range_succ_eq_map, List.map_cons, Nat.add_zero, List.takeWhile_cons_of_neg (by rw [he]; decide), List.append_nil]

/-- The leading zero bits are the bits from the top down that are zero. -/
theorem clzOf_eq_takeWhile {w : Nat} (x : BitVec w) :
    clzOf x = ((List.range w).takeWhile (fun i => !x.getMsbD i)).length := by
  unfold clzOf
  split
  next hx =>
    subst hx
    rw [List.takeWhile_eq_self_iff.2 (fun i _ => by simp), List.length_range]
  next hx =>
    have hne : x.toNat ≠ 0 := fun h => hx (BitVec.eq_of_toNat_eq h)
    have hlog : x.toNat.log2 < w := (Nat.log2_lt hne).2 x.isLt
    have hzero : ∀ i < w - 1 - x.toNat.log2, (!x.getMsbD i) = true := fun i hi => by
      rw [BitVec.getMsbD_eq_getLsbD, BitVec.getLsbD, Nat.testBit_lt_two_pow (Nat.lt_of_lt_of_le Nat.lt_log2_self
        (Nat.pow_le_pow_right Nat.two_pos (by omega))), Bool.and_false, Bool.not_false]
    have hone : (!x.getMsbD (w - 1 - x.toNat.log2)) = false := by
      rw [BitVec.getMsbD_eq_getLsbD, BitVec.getLsbD, Nat.sub_sub_self (by omega), Nat.testBit_log2 hne,
        decide_eq_true (by omega), Bool.and_true, Bool.not_true]
    rw [takeWhile_range (by omega) hzero hone, List.length_range]

section
variable {s : State} {g : Guard} {op : SaluOp} {d a b : SReg}

theorem salu_comesTo (h : s.ready g) : ComesTo (.salu g op d a b) s
    (if saluDivides op && (s.row s.cur).sreg b.toNat == 0 then .trap cIntDivzero ((s.row s.cur).sreg a.toNat) s.draw
     else .done (s.draw.modRow s.cur
      (fun r => r.setS d.toNat (saluVal op ((s.row s.cur).sreg a.toNat) ((s.row s.cur).sreg b.toNat))))) := by
  have he : exec (.salu g op d a b) s = execSalu g op d a b s := rfl
  exact comesTo_issueQ he h (Plan.clear_hold (h.1.pendS d.toNat)) rfl

theorem salu_completes (h : s.ready g) (hdiv : saluDivides op = true → (s.row s.cur).sreg b.toNat ≠ 0) :
    Completes (.salu g op d a b) s (s.now (fun r =>
      r.setS d.toNat (saluVal op ((s.row s.cur).sreg a.toNat) ((s.row s.cur).sreg b.toNat)))) := by
  have hcome := salu_comesTo (op := op) (d := d) (a := a) (b := b) h
  have hfree : ¬ (saluDivides op && (s.row s.cur).sreg b.toNat == 0) = true := by simpa using hdiv
  rw [if_neg hfree] at hcome
  exact hcome.completes_now

/-- R107: the trap of a zero divisor. -/
theorem salu_raises (h : s.ready g) (hdiv : saluDivides op = true) (hb : (s.row s.cur).sreg b.toNat = 0) :
    Raises (.salu g op d a b) s cIntDivzero ((s.row s.cur).sreg a.toNat) := by
  have hcome := salu_comesTo (op := op) (d := d) (a := a) (b := b) h
  rw [if_pos (by rw [hdiv, hb]; rfl)] at hcome
  exact hcome.raises

end

/-! ### The immediate forms (Table 04-3) -/

section
variable (g : Guard) (d a b : SReg) (i : BitVec 27) (n : BitVec 6) (s : State)

theorem exec_saddi : exec (.saddi g d a i) s = scalarTo g d (fun v => v.sreg a.toNat + i.signExtend 64) s := rfl
theorem exec_sandi : exec (.sandi g d a i) s = scalarTo g d (fun v => v.sreg a.toNat &&& i.signExtend 64) s := rfl
theorem exec_sori : exec (.sori g d a i) s = scalarTo g d (fun v => v.sreg a.toNat ||| i.signExtend 64) s := rfl
theorem exec_sxori : exec (.sxori g d a i) s = scalarTo g d (fun v => v.sreg a.toNat ^^^ i.signExtend 64) s := rfl
theorem exec_sshli : exec (.sshli g d a n) s = scalarTo g d (fun v => v.sreg a.toNat <<< n.toNat) s := rfl
theorem exec_sshri : exec (.sshri g d a n) s = scalarTo g d (fun v => v.sreg a.toNat >>> n.toNat) s := rfl
theorem exec_ssrai : exec (.ssrai g d a n) s = scalarTo g d (fun v => (v.sreg a.toNat).sshiftRight n.toNat) s := rfl
theorem exec_sli : exec (.sli g d i) s = scalarTo g d (fun _ => i.signExtend 64) s := rfl
theorem exec_slui : exec (.slui g d a i) s = scalarTo g d (fun v => sluiVal (v.sreg a.toNat) i) s := rfl
theorem exec_slhi (h : BitVec 10) : exec (.slhi g d a h) s = scalarTo g d (fun v => slhiVal (v.sreg a.toNat) h) s := rfl
theorem exec_sadda (a56 w : Bool) (sh : BitVec 3) : exec (.sadda g d a b a56 w sh) s =
    scalarTo g d (fun v => saddaVal (v.sreg a.toNat) (v.sreg b.toNat) a56 w sh.toNat) s := rfl

end

/-! ### SADDA (R110) -/

theorem and_low56 (t : W64) : t &&& 0xFFFFFFFFFFFFFF = (t.setWidth 56).setWidth 64 := by
  refine BitVec.eq_of_toNat_eq ?_
  rw [BitVec.toNat_and, BitVec.toNat_setWidth, BitVec.toNat_setWidth]
  have hmod := Nat.and_two_pow_sub_one_eq_mod t.toNat 56
  show t.toNat &&& (2 ^ 56 - 1) = _
  omega

theorem saddaVal_eq (x y : W64) (a56 w : Bool) (n : Nat) : saddaVal x y a56 w n =
    let t := x + ((if w then (y.setWidth 32).signExtend 64 else y) <<< n)
    if a56 then t &&& 0xFFFFFFFFFFFFFF else t := by
  simp only [and_low56]
  rfl

/-! ### SMOVV (R111) -/

section
variable {s : State} {g : Guard} {d : SReg} {a : VReg} {m : Amod} {b : SReg} {first sx : Bool} (h : s.ready g)
  (hm : (s.row s.cur).Fits m) (hr : (s.row s.cur).Has [a.toNat])
include h hm hr

theorem smovv_comesTo : ComesTo (.smovv g d a m b first sx) s
    (match smovvLane (s.row s.cur) b first with
     | none => .done (s.draw.modRow s.cur (fun r => r.setS d.toNat 0))
     | some j =>
       if (s.row s.cur).L ≤ j then .trap cBounds (BitVec.ofNat 64 j) s.draw
       else .done (s.draw.modRow s.cur (fun r => r.setS d.toNat
        (if sx then ((s.row s.cur).src a m j).signExtend 64 else ((s.row s.cur).src a m j).zeroExtend 64)))) := by
  have he : exec (.smovv g d a m b first sx) s = execSmovv g d a m b first sx s := rfl
  exact comesTo_issueQ he h
    ⟨hm.amodWide, (congrArg _ (List.append_nil _)).trans hr.badReg, rfl, rfl, h.1.pendS d.toNat, rfl⟩ rfl

theorem smovv_reads {j : Nat} (hj : smovvLane (s.row s.cur) b first = some j) (hL : j < (s.row s.cur).L) :
    Completes (.smovv g d a m b first sx) s (s.now (fun r => r.setS d.toNat
      (if sx then ((s.row s.cur).src a m j).signExtend 64 else ((s.row s.cur).src a m j).zeroExtend 64))) := by
  have hcome := smovv_comesTo (d := d) (b := b) (first := first) (sx := sx) h hm hr
  simp only [hj, if_neg (Nat.not_le.2 hL)] at hcome
  exact hcome.completes_now

theorem smovv_none (hj : smovvLane (s.row s.cur) b first = none) :
    Completes (.smovv g d a m b first sx) s (s.now (fun r => r.setS d.toNat 0)) := by
  have hcome := smovv_comesTo (d := d) (b := b) (first := first) (sx := sx) h hm hr
  simp only [hj] at hcome
  exact hcome.completes_now

theorem smovv_beyond {j : Nat} (hj : smovvLane (s.row s.cur) b first = some j) (hL : (s.row s.cur).L ≤ j) :
    Raises (.smovv g d a m b first sx) s cBounds (BitVec.ofNat 64 j) := by
  have hcome := smovv_comesTo (d := d) (b := b) (first := first) (sx := sx) h hm hr
  simp only [hj, if_pos hL] at hcome
  exact hcome.raises

end

theorem smovvLane_named (r : Row) (b : SReg) : smovvLane r b false = some (r.sreg b.toNat).toNat := rfl

theorem smovvLane_first {r : Row} {b : SReg} {j : Nat} (hj : j < r.L) (hem : r.arm.em.getLsbD j = true)
    (hlow : ∀ k < j, r.arm.em.getLsbD k = false) : smovvLane r b true = some j :=
  List.find?_range_eq_some.2 ⟨hem, List.mem_range.2 hj, fun k hk => by rw [hlow k hk]; rfl⟩

theorem smovvLane_first_none {r : Row} {b : SReg} (hem : ∀ k < r.L, r.arm.em.getLsbD k = false) :
    smovvLane r b true = none :=
  List.find?_range_eq_none.2 fun k hk => by rw [hem k hk]; rfl

/-- Settles O10: SALU by the value of each function, the immediate forms and SADDA by the rule for words that write sd, SMOVV by
the lane that it reads. -/
theorem scalarArithmetic : Obligations.ScalarArithmetic := by
  unfold Obligations.ScalarArithmetic
  refine ⟨fun s g d a b h => ?_, fun s g d a b i n c sh a56 w h => ?_, fun s g d a m b sx j h hm hr => ?_⟩
  · intro x y gives
    have computes {op : SaluOp} {v : W64} (hdiv : saluDivides op = true → y ≠ 0) (hv : saluVal op x y = v) : gives op v :=
      hv ▸ salu_completes h hdiv
    have plain {op : SaluOp} {v : W64} (hop : saluDivides op = false) (hv : saluVal op x y = v) : gives op v :=
      computes (fun hdiv => absurd (hop.symm.trans hdiv) Bool.false_ne_true) hv
    have hn := toNat_and_63 y
    exact ⟨plain rfl rfl, plain rfl rfl, plain rfl rfl, plain rfl rfl, plain rfl rfl, plain rfl rfl,
      plain rfl (congrArg (x <<< ·) hn), plain rfl (congrArg (x >>> ·) hn), plain rfl (congrArg x.sshiftRight hn),
      plain rfl (saluVal_min x y), plain rfl (saluVal_max x y), plain rfl (saluVal_minn x y), plain rfl (saluVal_maxn x y),
      plain rfl (saluVal_slt x y), plain rfl (saluVal_sltn x y), plain rfl rfl, plain rfl (saluVal_mulh x y),
      plain rfl (saluVal_mulhn x y),
      fun hy => ⟨computes (fun _ => hy) BitVec.udiv_def, computes (fun _ => hy) BitVec.umod_def⟩,
      plain rfl (congrArg (BitVec.ofNat 64) (clzOf_eq_takeWhile x)), plain rfl rfl⟩
  · intro x y gives
    have writes {j : Instr} {f : Row → W64} {v : W64} (he : exec j s = scalarTo g d f s) (hv : f (s.row s.cur) = v) :
        gives j v := hv ▸ scalarTo_completes he h
    exact ⟨writes (exec_saddi g d a i s) rfl, writes (exec_sandi g d a i s) rfl, writes (exec_sori g d a i s) rfl,
      writes (exec_sxori g d a i s) rfl, writes (exec_sshli g d a n s) rfl, writes (exec_sshri g d a n s) rfl,
      writes (exec_ssrai g d a n s) rfl, writes (exec_sli g d i s) rfl, writes (exec_slui g d a i s) rfl,
      writes (exec_slhi g d a s c) rfl, writes (exec_sadda g d a b s a56 w sh) (saddaVal_eq x y a56 w sh.toNat)⟩
  · intro r put
    refine ⟨smovv_reads h hm hr (smovvLane_named r b), fun hL => ?_, fun hj hem hlow =>
      smovv_reads h hm hr (smovvLane_first hj hem hlow) hj, fun hem => smovv_none h hm hr (smovvLane_first_none hem)⟩
    have hraise := smovv_beyond (d := d) (sx := sx) h hm hr (smovvLane_named r b) hL
    rwa [BitVec.ofNat_toNat, BitVec.setWidth_eq] at hraise

end Sys2Proof.Machine
end

section
/-! SUPPORT. Division (R107): the truncated quotient and its remainder, and the row that a zero divisor traps. -/

namespace Sys2Proof.Machine

theorem sdiv_eq_ofInt {w : Nat} (x y : BitVec w) : x.sdiv y = BitVec.ofInt w (x.toInt.tdiv y.toInt) :=
  BitVec.eq_of_toInt_eq ((BitVec.toInt_sdiv x y).trans (BitVec.toInt_ofInt _).symm)

theorem srem_eq_ofInt {w : Nat} (x y : BitVec w) :
    x.srem y = BitVec.ofInt w (x.toInt - y.toInt * x.toInt.tdiv y.toInt) := by
  rw [← Int.tmod_def, ← BitVec.toInt_srem, BitVec.ofInt_toInt]

theorem saluDivides_of_mem : ∀ op ∈ [SaluOp.div, .divn, .rem, .remn], saluDivides op = true := by decide

/-- The row that a trap at its own instruction enters from normal mode (R334). -/
theorem trapHere_row_normal (s : State) (n : Nat) (c : W8) (x : W64) (h : (s.row n).handler = false) :
    (s.trapHere n c x).row n = (s.row n).enterTrap c x (s.row n).arm.pc (s.row n).arm.clause :=
  trap_row_normal s n c x _ _ h

/-- A trap in normal mode writes csr.cause and csr.tval and no scalar register. -/
theorem Raises.normal {i : Instr} {s : State} {c : W8} {x : W64} (h : Raises i s c x)
    (hh : (s.row s.cur).handler = false) : ∃ t, exec i s = .next t ∧ (t.row s.cur).csr.cause = c ∧
      (t.row s.cur).csr.tval = x ∧ (t.row s.cur).s = (s.row s.cur).s := by
  refine ⟨_, h, ?_⟩
  rw [trapHere_row_normal s.draw s.cur c x hh]
  exact ⟨rfl, rfl, rfl⟩

/-- Settles O11: a zero divisor by `salu_raises`, any other by what the quotient and the remainder are as integers. -/
theorem scalarDivision : Obligations.ScalarDivision := by
  unfold Obligations.ScalarDivision
  intro s g d a b h x y gives
  have computes {op : SaluOp} {v : W64} (hy : y ≠ 0) (hv : saluVal op x y = v) : gives op v :=
    hv ▸ salu_completes h fun _ => hy
  refine ⟨fun op hop hy => ?_, fun hy => ⟨computes hy (sdiv_eq_ofInt x y), computes hy (srem_eq_ofInt x y)⟩,
    fun hx hy => ?_⟩
  · have hraise : Raises (.salu g op d a b) s cIntDivzero x := salu_raises h (saluDivides_of_mem op hop) hy
    exact ⟨hraise, hraise.normal⟩
  · have hne : y ≠ 0 := by rw [hy]; decide
    exact ⟨computes hne (by rw [hx, hy]; decide), computes hne (by rw [hx, hy]; decide)⟩

end Sys2Proof.Machine
end

section
/-! SUPPORT. CSRs (R112 to R114, R342): which of them a row may write, the outcome of SCSW and SCSX, and that what a completed
word leaves in a CSR is what is read next. -/

namespace Sys2Proof.Machine

/-! ### The outcome of a CSR write -/

/-- Table 04-5: the row may write the CSR now. -/
def Row.Opens (r : Row) (c : Csr) : Prop := csrAcc c = .rw ∨ (csrAcc c = .h ∧ r.handler = true)

theorem Row.not_opens_iff {r : Row} {c : Csr} :
    ¬ r.Opens c ↔ (csrAcc c == .r || (csrAcc c == .h && !r.handler)) = true := by
  unfold Row.Opens
  cases csrAcc c with
  | r | rw => simp
  | h => simp

theorem Row.Quiet.csrHold {r : Row} (h : r.Quiet) (c : Csr) : csrHold c r = false := by
  simp [Sys2Proof.Machine.csrHold, h.1]

theorem csrRead_draw (s : State) (n : Nat) (c : Csr) : csrRead s.draw n c = csrRead s n c := rfl

section
variable {i : Instr} {s : State} {c : Csr} {k : CsrMode} {a : SReg} {d : Option SReg}

theorem ComesTo.csr_refused (h : ComesTo i s (csrBody c k a d s.draw s.cur (s.row s.cur)))
    (ho : ¬ (s.row s.cur).Opens c) : Raises i s cPriv (BitVec.ofNat 64 c.number) := by
  unfold csrBody at h
  rw [draw_row, if_pos (Row.not_opens_iff.1 ho)] at h
  exact h.raises

theorem ComesTo.csr_misaligned (h : ComesTo i s (csrBody .tvec k a d s.draw s.cur (s.row s.cur)))
    (hx : csrMix k (csrRead s s.cur .tvec) ((s.row s.cur).sreg a.toNat) &&& 7 ≠ 0) :
    Raises i s cMisalign (csrMix k (csrRead s s.cur .tvec) ((s.row s.cur).sreg a.toNat)) := by
  have hbody : csrBody .tvec k a d s.draw s.cur (s.row s.cur) =
      .trap cMisalign (csrMix k (csrRead s s.cur .tvec) ((s.row s.cur).sreg a.toNat)) s.draw := if_pos (bne_iff_ne.2 hx)
  exact ComesTo.raises (hbody ▸ h)

theorem ComesTo.csr_writes (h : ComesTo i s (csrBody c k a d s.draw s.cur (s.row s.cur))) (ho : (s.row s.cur).Opens c)
    (hx : c = .tvec → csrMix k (csrRead s s.cur c) ((s.row s.cur).sreg a.toNat) &&& 7 = 0) :
    Completes i s (s.now (fun r =>
      let q : Row := { r with csr := csrWrite r.csr c (csrMix k (csrRead s s.cur c) ((s.row s.cur).sreg a.toNat)) }
      d.elim q (fun d => q.setS d.toNat (csrRead s s.cur c)))) := by
  have haligned : ¬ (c == .tvec && csrMix k (csrRead s s.cur c) ((s.row s.cur).sreg a.toNat) &&& 7 != 0) = true := by
    simpa using hx
  unfold csrBody at h
  rw [draw_row, csrRead_draw, if_neg fun hacc => Row.not_opens_iff.2 hacc ho, if_neg haligned] at h
  cases d with
  | none => exact h.completes_now
  | some d => exact h.completes_now

end

/-! ### SCSR, SCSW, SCSX, PLIVE and RDCYC -/

section
variable {s : State} {g : Guard} {d a : SReg} {c : Csr} {k : CsrMode} (h : s.ready g)
include h

theorem scsr_completes : Completes (.scsr g d c) s (s.now (fun r => r.setS d.toNat (csrRead s s.cur c))) := by
  have he : exec (.scsr g d c) s = execScsr g d c s := rfl
  exact ComesTo.completes_now
    (comesTo_issueQ he h (Plan.clear_hold (by rw [h.1.pendS, h.1.csrHold]; rfl)) rfl)

theorem scsw_comesTo : ComesTo (.scsw g a k c) s (csrBody c k a none s.draw s.cur (s.row s.cur)) := by
  have he : exec (.scsw g a k c) s = execScsw g a k c s := rfl
  exact comesTo_issueQ he h (Plan.clear_hold (h.1.csrHold c)) rfl

theorem scsx_comesTo : ComesTo (.scsx g d a k c) s (csrBody c k a (some d) s.draw s.cur (s.row s.cur)) := by
  have he : exec (.scsx g d a k c) s = execScsx g d a k c s := rfl
  exact comesTo_issueQ he h (Plan.clear_hold (by rw [h.1.pendS, h.1.csrHold]; rfl)) rfl

theorem scsw_completes (ho : (s.row s.cur).Opens c)
    (hx : c = .tvec → csrMix k (csrRead s s.cur c) ((s.row s.cur).sreg a.toNat) &&& 7 = 0) :
    Completes (.scsw g a k c) s (s.now (fun r =>
      { r with csr := csrWrite r.csr c (csrMix k (csrRead s s.cur c) ((s.row s.cur).sreg a.toNat)) })) :=
  (scsw_comesTo h).csr_writes ho hx

theorem plive_completes (x : W8) :
    Completes (.plive g x) s (s.now (fun r => { r with csr := { r.csr with plive := x ||| 1 } })) := by
  have he : exec (.plive g x) s = execPlive g x s := rfl
  exact ComesTo.completes_now (comesTo_issueQ he h (Plan.clear_default _) rfl)

theorem rdcyc_completes (run : Bool) : Completes (.rdcyc g d run) s
    (s.now (fun r => r.setS d.toNat (if run then s.runCount s.cur else s.clkOf s.cur))) := by
  have he : exec (.rdcyc g d run) s = execRdcyc g d run s := rfl
  exact ComesTo.completes_now (comesTo_issueQ he h (Plan.clear_hold (h.1.pendS d.toNat)) rfl)

end

/-- Settles O12: each word by the outcome of its body. -/
theorem csrAccess : Obligations.CsrAccess := by
  unfold Obligations.CsrAccess
  refine ⟨fun s g d a c k h => ?_, fun s g d h => ⟨rdcyc_completes h false, rdcyc_completes h true⟩⟩
  intro r old x new opens
  have hnew : csrMix k old x = new := by cases k <;> rfl
  rw [← hnew]
  exact ⟨scsr_completes h, fun ho hx => ⟨scsw_completes h ho hx, (scsx_comesTo h).csr_writes ho hx⟩,
    fun ho => ⟨(scsw_comesTo h).csr_refused ho, (scsx_comesTo h).csr_refused ho⟩⟩

/-! ### What the next instruction reads -/

theorem Row.still_csr (r : Row) : r.still.csr = r.csr := by
  unfold Row.still
  split
  · rfl
  · split <;> rfl

/-- The passage to the next word changes no CSR. -/
theorem Completes.csr {i : Instr} {s u t : State} (h : Completes i s u) (hu : u.cur = s.cur) (ht : exec i s = .next t) :
    (t.row s.cur).csr = (u.row s.cur).csr := by
  obtain ⟨t', ht', hacted⟩ := h
  obtain rfl : t = t' := Host.Outcome.next.inj (ht.symm.trans ht')
  rw [← Row.still_csr, ← Row.still_csr (u.row s.cur), ← hu, hacted.row]

/-- Settles O13: csr.tvec by the two outcomes of its write, csr.plive by the one row that both words leave, and the next read by
`Completes.csr`. -/
theorem csrVectorAndMask : Obligations.CsrVectorAndMask := by
  unfold Obligations.CsrVectorAndMask
  intro s g d a k h x mix
  have hmix (c : Csr) : csrMix k (csrRead s s.cur c) x = mix c := by cases k <;> rfl
  simp only [← hmix]
  have written {c : Csr} {t : State} (ho : (s.row s.cur).Opens c)
      (hx : c = .tvec → csrMix k (csrRead s s.cur c) x &&& 7 = 0) (ht : exec (.scsw g a k c) s = .next t) :
      (t.row s.cur).csr = csrWrite (s.row s.cur).csr c (csrMix k (csrRead s s.cur c) x) := by
    rw [(scsw_completes h ho hx).csr rfl ht, State.now, modRow_row_same]
  refine ⟨fun hx => ⟨(scsw_comesTo h).csr_misaligned hx, (scsx_comesTo h).csr_misaligned hx⟩,
    ⟨_, scsw_completes h (.inl rfl) nofun, plive_completes h _, ?_⟩, fun t ht => ?_, fun hx t ht => ?_⟩
  · exact congrArg (fun r : Row => r.csr.plive.setWidth 64) (modRow_row_same s s.cur _)
  · exact congrArg Csrs.rng (written (c := .rng) (.inl rfl) nofun ht)
  · exact congrArg (fun q : Csrs => q.tvec.setWidth 64) (written (.inl rfl) (fun _ => hx) ht)

end Sys2Proof.Machine
end

section
/-! SUPPORT. The register files (R12, R73, R104, R334): a predicate that is written, and the two banks of scalar registers. -/

namespace Sys2Proof.Machine

theorem laneMask_getLsbD (L : Nat) {l : Nat} (hl : l < 1024) : (laneMask L).getLsbD l = decide (l < L) := by
  rw [laneMask, BitVec.getLsbD_ofNat, Nat.testBit_two_pow_sub_one, decide_eq_true hl, Bool.true_and]

theorem setP_preg (r : Row) {n : Nat} (m : Nat) (k : Mask) (hn : n ≠ 0) :
    (r.setP n k).preg m = if m = n then k &&& laneMask r.L else r.preg m := by
  rw [Row.setP, if_neg hn]
  by_cases hm : m = 0
  · rw [if_neg (hm.trans_ne hn.symm), hm]
    rfl
  · rw [Row.preg, Row.preg, if_neg hm, if_neg hm, tget_tset]

/-! ### The banks of scalar registers (R334) -/

section
variable {r : Row} {n : Nat}

theorem setS_of_bank (x : W64) (hh : r.handler = true) (hn : 24 ≤ n) :
    r.setS n x = { r with h := tset 0 r.h (n - 24) x } := by
  rw [Row.setS, if_neg (by omega), if_pos (by simp [hh, hn])]

theorem setS_of_program (x : W64) (hn : n ≠ 0) (hb : r.handler = true → n < 24) :
    r.setS n x = { r with s := tset 0 r.s n x } := by
  rw [Row.setS, if_neg hn, if_neg (by simpa using hb)]

theorem sreg_of_bank (hh : r.handler = true) (hn : 24 ≤ n) : r.sreg n = tget 0 r.h (n - 24) := by
  rw [Row.sreg, if_neg (by omega), if_pos (by simp [hh, hn])]

theorem sreg_of_program (hn : n ≠ 0) (hb : r.handler = true → n < 24) : r.sreg n = tget 0 r.s n := by
  rw [Row.sreg, if_neg hn, if_neg (by simpa using hb)]

end

/-- Settles O14: each file by what a read gives after a write, the banks by the register that a name reaches in each mode. -/
theorem registerFiles : Obligations.RegisterFiles := by
  unfold Obligations.RegisterFiles
  refine ⟨fun r n m x b k => ?_, fun r n m x hn _ hm hm' => ?_, fun r d k l ls f hl hls => setLanes_vreg r d k l ls f hl hls⟩
  · refine ⟨sreg_zero r, setS_zero r x, rfl, setQ_zero r b, setP_zero r k, fun l => laneMask_getLsbD r.L, fun hn _ _ => ?_,
      fun hn hlt hmt => ?_, fun hn _ _ => setP_preg r m k hn⟩
    · simpa only [hn, ne_eq, not_false_eq_true, and_true] using setS_sreg r n m x
    · simpa only [hn, ne_eq, not_false_eq_true, and_true] using setQ_qreg r n m b hlt hmt
  · intro h p
    have hn0 : n ≠ 0 := by omega
    have hm0 : m ≠ 0 := by omega
    rw [setS_of_bank (r := h) x rfl hn, setS_of_program (r := p) x hn0 nofun, setS_of_program (r := h) x hm0 (fun _ => hm'),
      setS_of_program (r := p) x hm0 nofun, sreg_of_bank (r := h) rfl hn, sreg_of_program (r := p) hn0 nofun,
      sreg_of_program (r := h) hm0 (fun _ => hm'), sreg_of_program (r := p) hm0 nofun]
    exact ⟨rfl, rfl, rfl, rfl, rfl, rfl, rfl, rfl, rfl⟩

end Sys2Proof.Machine
end

section
/-! SUPPORT. Integer vector words (R120 to R123): the elements of a lane word (Table 05-3), the functions of Table 05-4 on one element,
and the words that write vd. -/

namespace Sys2Proof.Machine

/-! ### Elements of a lane word (Table 05-3) -/

theorem setElem_getLsbD {w e i : Nat} (x : W32) (v : BitVec w) (hi : i < 32) :
    (setElem w x e v).getLsbD i = if w * e ≤ i ∧ i < w * e + w then v.getLsbD (i - w * e) else x.getLsbD i := by
  simp only [setElem, BitVec.getLsbD_or, BitVec.getLsbD_and, BitVec.getLsbD_not, BitVec.getLsbD_ofNat, hi, decide_true,
    Bool.true_and, Nat.testBit_mul_two_pow, Nat.testBit_two_pow_sub_one, BitVec.testBit_toNat]
  by_cases hlo : w * e ≤ i
  · by_cases hhi : i < w * e + w
    · have : i - w * e < w := by omega
      simp [hlo, hhi, this]
    · have : ¬ i - w * e < w := by omega
      simp [hlo, hhi, this, BitVec.getLsbD_of_ge v _ (Nat.le_of_not_lt this)]
  · simp [hlo]

theorem elemAt_getLsbD (w : Nat) (x : W32) (e i : Nat) :
    (elemAt w x e).getLsbD i = (decide (i < w) && x.getLsbD (w * e + i)) :=
  BitVec.getLsbD_extractLsb' _ _ x i

theorem elemAt_setElem_self {w e : Nat} (x : W32) (v : BitVec w) (he : w * e + w ≤ 32) : elemAt w (setElem w x e v) e = v := by
  refine BitVec.eq_of_getLsbD_eq fun i hi => ?_
  rw [elemAt_getLsbD, setElem_getLsbD _ _ (by omega), if_pos (by omega), Nat.add_sub_cancel_left, decide_eq_true hi,
    Bool.true_and]

theorem elemAt_setElem_of_lt {w e k : Nat} (x : W32) (v : BitVec w) (he : e < k) (hk : w * k ≤ 32) :
    elemAt w (setElem w x k v) e = elemAt w x e := by
  refine BitVec.eq_of_getLsbD_eq fun i hi => ?_
  have hle : w * e + w ≤ w * k := by rw [← Nat.mul_succ]; exact Nat.mul_le_mul_left w he
  rw [elemAt_getLsbD, elemAt_getLsbD, setElem_getLsbD _ _ (by omega), if_neg (by omega)]

/-- A lane word built element by element. -/
theorem elemAt_foldl_setElem {w : Nat} (f : Nat → BitVec w) {e n : Nat} (he : e < n) (hn : w * n ≤ 32) :
    elemAt w ((List.range n).foldl (fun acc k => setElem w acc k (f k)) 0) e = f e := by
  induction n with
  | zero => exact absurd he (Nat.not_lt_zero e)
  | succ n ih =>
    rw [List.range_succ, List.foldl_append, List.foldl_cons, List.foldl_nil]
    rw [Nat.mul_succ] at hn
    obtain hlt | rfl := Nat.lt_succ_iff_lt_or_eq.1 he
    · rw [elemAt_setElem_of_lt _ _ hlt (by omega), ih hlt (by omega)]
    · exact elemAt_setElem_self _ _ hn

theorem elemAt_vialuVal (op : VOp) {w : VW} (x y : W32) {e : Nat} (he : e < 32 / vwBits w) :
    elemAt (vwBits w) (vialuVal op w x y) e = vopVal op (elemAt (vwBits w) x e) (elemAt (vwBits w) y e) :=
  elemAt_foldl_setElem (fun k => vopVal op (elemAt (vwBits w) x k) (elemAt (vwBits w) y k)) he (Nat.mul_div_le 32 _)

theorem elemAt_vmadVal_mad {w : VW} (z x y : W32) {e : Nat} (he : e < 32 / vwBits w) : elemAt (vwBits w) (vmadVal .mad w z x y) e =
    elemAt (vwBits w) z e + elemAt (vwBits w) x e * elemAt (vwBits w) y e :=
  elemAt_foldl_setElem (fun k => elemAt (vwBits w) z k + elemAt (vwBits w) x k * elemAt (vwBits w) y k) he (Nat.mul_div_le 32 _)

theorem dotVal_w8 (x y : W32) : dotVal 8 x y = (elemAt 8 x 0).toInt * (elemAt 8 y 0).toInt
    + (elemAt 8 x 1).toInt * (elemAt 8 y 1).toInt + (elemAt 8 x 2).toInt * (elemAt 8 y 2).toInt
    + (elemAt 8 x 3).toInt * (elemAt 8 y 3).toInt := by
  show (List.map _ [0, 1, 2, 3]).sum = _
  simp only [List.map_cons, List.map_nil, List.sum_cons, List.sum_nil]
  omega

/-! ### Saturation and choice -/

/-- A value that two tests clamp is the clamped value. -/
theorem ite_clamp_eq {α : Type} (f : Int → α) {lo hi : Int} (h : lo ≤ hi) (x : Int) :
    (if x < lo then f lo else if hi < x then f hi else f x) = f (max lo (min x hi)) := by
  split
  · rw [max_eq_left (by omega)]
  · split
    · rw [min_eq_right (by omega), max_eq_right h]
    · rw [min_eq_left (by omega), max_eq_right (by omega)]

theorem satS_eq (w : Nat) (x : Int) :
    satS w x = BitVec.ofInt w (max (-(2 ^ (w - 1) : Int)) (min x ((2 ^ (w - 1) : Int) - 1))) := by
  have hpos : (0 : Int) < 2 ^ (w - 1) := by positivity
  exact ite_clamp_eq (BitVec.ofInt w) (by omega) x

theorem satU_eq (w : Nat) (x : Int) : satU w x = BitVec.ofInt w (max 0 (min x ((2 ^ w : Int) - 1))) := by
  have hpos : (0 : Int) < 2 ^ w := by positivity
  exact ite_clamp_eq (BitVec.ofInt w) (by omega) x

theorem vopVal_min {w : Nat} (p q : BitVec w) : vopVal .min p q = if p.toInt ≤ q.toInt then p else q :=
  (if_congr BitVec.slt_iff_toInt_lt rfl rfl).trans (ite_lt_eq_ite_le BitVec.eq_of_toInt_eq)

theorem vopVal_max {w : Nat} (p q : BitVec w) : vopVal .max p q = if p.toInt ≤ q.toInt then q else p :=
  (if_congr BitVec.slt_iff_toInt_lt rfl rfl).trans (ite_lt_eq_ite_le fun h => (BitVec.eq_of_toInt_eq h).symm)

theorem vopVal_minn {w : Nat} (p q : BitVec w) : vopVal .minn p q = if p.toNat ≤ q.toNat then p else q :=
  (if_congr BitVec.ult_iff_toNat_lt rfl rfl).trans (ite_lt_eq_ite_le BitVec.eq_of_toNat_eq)

theorem vopVal_maxn {w : Nat} (p q : BitVec w) : vopVal .maxn p q = if p.toNat ≤ q.toNat then q else p :=
  (if_congr BitVec.ult_iff_toNat_lt rfl rfl).trans (ite_lt_eq_ite_le fun h => (BitVec.eq_of_toNat_eq h).symm)

theorem vopVal_abs {w : Nat} (p q : BitVec w) : vopVal .abs p q = satS w |p.toInt| :=
  congrArg (satS w) (Int.abs_eq_natAbs p.toInt).symm

/-! ### The words that write vd -/

section
variable {s : State} {g : Guard} {d : VReg} {f : Row → Nat → W32} {i : Instr} {regs : List Nat} (ha : s.acting g)
include ha

/-- A word whose only modifier fits. -/
theorem vectorTo_writes_of_fits {m : Amod} (he : exec i s = vectorTo { illegal := amodWide m, regs := regs } g d f s)
    (hm : (s.row s.cur).Fits m) (hh : (s.row s.cur).Has regs) :
    WritesV i s s d.toNat ((s.row s.cur).inActs g (f (s.row s.cur))) :=
  vectorTo_writes_of_has (amodWide m) f he ha hm.amodWide hh

/-- A word without a modifier. -/
theorem vectorTo_writes_plain (he : exec i s = vectorTo { regs := regs } g d f s) (hh : (s.row s.cur).Has regs) :
    WritesV i s s d.toNat ((s.row s.cur).inActs g (f (s.row s.cur))) :=
  vectorTo_writes_of_has (fun _ => false) f he ha rfl hh

end

/-! ### The meanings of the words -/

section
variable (g : Guard) (d a b : VReg) (m : Amod) (i : BitVec 27) (n : BitVec 5) (c : SReg) (s : State)

theorem exec_vialu (op : VOp) (w : VW) : exec (.vialu g op w d a m b) s =
    vectorTo { illegal := amodWide m, regs := [d.toNat, a.toNat, b.toNat] } g d
      (fun v l => vialuVal op w (v.src a m l) (v.vreg b.toNat l)) s := rfl
theorem exec_vialus (op : VOp) (w : VW) : exec (.vialus g op w d a m c) s =
    vectorTo { illegal := amodWide m, regs := [d.toNat, a.toNat] } g d
      (fun v l => vialuVal op w (v.src a m l) ((v.sreg c.toNat).setWidth 32)) s := rfl
theorem exec_vaddi : exec (.vaddi g d a i) s =
    vectorTo { regs := [d.toNat, a.toNat] } g d (fun v l => v.vreg a.toNat l + i.signExtend 32) s := rfl
theorem exec_vandi : exec (.vandi g d a i) s =
    vectorTo { regs := [d.toNat, a.toNat] } g d (fun v l => v.vreg a.toNat l &&& i.signExtend 32) s := rfl
theorem exec_vori : exec (.vori g d a i) s =
    vectorTo { regs := [d.toNat, a.toNat] } g d (fun v l => v.vreg a.toNat l ||| i.signExtend 32) s := rfl
theorem exec_vxori : exec (.vxori g d a i) s =
    vectorTo { regs := [d.toNat, a.toNat] } g d (fun v l => v.vreg a.toNat l ^^^ i.signExtend 32) s := rfl
theorem exec_vshli : exec (.vshli g d a n) s =
    vectorTo { regs := [d.toNat, a.toNat] } g d (fun v l => v.vreg a.toNat l <<< n.toNat) s := rfl
theorem exec_vshri : exec (.vshri g d a n) s =
    vectorTo { regs := [d.toNat, a.toNat] } g d (fun v l => v.vreg a.toNat l >>> n.toNat) s := rfl
theorem exec_vsrai : exec (.vsrai g d a n) s =
    vectorTo { regs := [d.toNat, a.toNat] } g d (fun v l => (v.vreg a.toNat l).sshiftRight n.toNat) s := rfl
theorem exec_vli : exec (.vli g d i) s = vectorTo { regs := [d.toNat] } g d (fun _ _ => i.signExtend 32) s := rfl
theorem exec_vmad (op : MadOp) (w : VW) : exec (.vmad g op w d a m b) s =
    vectorTo { illegal := amodWide m, regs := [d.toNat, a.toNat, b.toNat] } g d
      (fun v l => vmadVal op w (v.vreg d.toNat l) (v.src a m l) (v.vreg b.toNat l)) s := rfl
theorem exec_vsel (p : PReg) : exec (.vsel g p d a m b) s =
    vectorTo { illegal := amodWide m, regs := [d.toNat, a.toNat, b.toNat] } g d
      (fun v l => if (v.preg p.toNat).getLsbD l then v.src a m l else v.vreg b.toNat l) s := rfl
theorem exec_vidx : exec (.vidx g d c i) s = vectorTo { regs := [d.toNat] } g d
    (fun v l => (v.sreg c.toNat).setWidth 32 + BitVec.ofNat 32 l * i.signExtend 32) s := rfl
theorem exec_vbcast (h : Bool) : exec (.vbcast g d c h) s = vectorTo { regs := [d.toNat] } g d
    (fun v _ => (v.sreg c.toNat).extractLsb' (if h then 32 else 0) 32) s := rfl
theorem exec_vmov : exec (.vmov g d a m) s =
    vectorTo { illegal := amodWide m, regs := [d.toNat, a.toNat] } g d (fun v l => v.src a m l) s := rfl

end

/-- Settles O15: each word by the rule for vector results, a lane word by its elements, and Table 05-4 function by function. -/
theorem vectorResultsHold : Obligations.VectorResults := by
  unfold Obligations.VectorResults
  refine ⟨fun s g d a b m op w i n c p h ha hm hh => ?_, fun s g d a b m op w ha hm hh => ⟨?_, fun x y z e he => ?_⟩,
    fun op w x y e he => ?_⟩
  · have hda : (s.row s.cur).Has [d.toNat, a.toNat] := hh.mono (by simp)
    have hd : (s.row s.cur).Has [d.toNat] := hh.mono (by simp)
    have fits {j : Instr} {f : Row → Nat → W32} {regs : List Nat}
        (he : exec j s = vectorTo { illegal := amodWide m, regs := regs } g d f s) (hr : (s.row s.cur).Has regs) :=
      vectorTo_writes_of_fits ha he hm hr
    have plain {j : Instr} {f : Row → Nat → W32} {regs : List Nat}
        (he : exec j s = vectorTo { regs := regs } g d f s) (hr : (s.row s.cur).Has regs) := vectorTo_writes_plain ha he hr
    exact ⟨fits (exec_vialu g d a b m s op w) hh, fits (exec_vialus g d a m c s op w) hda, plain (exec_vaddi g d a i s) hda,
      plain (exec_vandi g d a i s) hda, plain (exec_vori g d a i s) hda, plain (exec_vxori g d a i s) hda,
      plain (exec_vshli g d a n s) hda, plain (exec_vshri g d a n s) hda, plain (exec_vsrai g d a n s) hda,
      plain (exec_vli g d i s) hd, fits (exec_vsel g d a b m s p) hh, plain (exec_vidx g d i c s) hd,
      plain (exec_vbcast g d c s h) hd, fits (exec_vmov g d a m s) hda⟩
  · exact vectorTo_writes_of_fits ha (exec_vmad g d a b m s op w) hm hh
  · exact ⟨elemAt_vmadVal_mad z x y he, congrArg (fun v => z + BitVec.ofInt 32 v) (dotVal_w8 x y)⟩
  · intro n p q z sat satn
    have hz : z = vopVal op p q := elemAt_vialuVal op x y he
    rw [hz]
    have hsat (v : Int) : satS n v = sat v := satS_eq n v
    have hsatn (v : Int) : satU n v = satn v := satU_eq n v
    cases op with
    | add | sub | and | or | xor | andn | shl | shr | sra | mul | mulh | mulhn | popc | avgn => rfl
    | adds | subs | muls => exact hsat _
    | addns | subns => exact hsatn _
    | min => exact vopVal_min p q
    | max => exact vopVal_max p q
    | minn => exact vopVal_minn p q
    | maxn => exact vopVal_maxn p q
    | abs => exact (vopVal_abs p q).trans (hsat _)
    | clz => exact congrArg (BitVec.ofNat n) (clzOf_eq_takeWhile p)

end Sys2Proof.Machine
end

section
/-! SUPPORT. Float formats (R136): the fields of an encoding, and what each pattern of them decodes to. -/

namespace Sys2Proof.Machine

/-! ### The formats -/

/-- What the three formats have in common. -/
structure FFmt.Ok (f : FFmt) : Prop where
  one_lt_mb : 1 < f.mb
  mb_le : f.mb ≤ 23
  four_le : 4 ≤ 2 ^ f.eb
  span : f.umax + 3 = f.umin + (2 ^ f.eb : Nat)
  umin_nonpos : f.umin ≤ 0
  small : -1000 ≤ f.umin
  large : f.umax ≤ 1000

theorem FFmt.Ok.of_mem {f : FFmt} (h : f ∈ [fmt32, fmt16, fmtB16]) : f.Ok := by
  simp only [List.mem_cons, List.not_mem_nil, or_false] at h
  obtain rfl | rfl | rfl := h <;> constructor <;> decide

theorem FFmt.signBit_eq (f : FFmt) : f.signBit = 2 ^ f.eb * 2 ^ f.mb := Nat.pow_add 2 f.eb f.mb

section
variable {f : FFmt}

theorem FFmt.Ok.umin_le_umax (hf : f.Ok) : f.umin ≤ f.umax := by
  have h4 := hf.four_le
  have hs := hf.span
  omega

/-- The bits of an encoding below its sign, from the exponent and the fraction. -/
theorem FFmt.field_lt_signBit {k r : Nat} (hk : k < 2 ^ f.eb) (hr : r < 2 ^ f.mb) : k * 2 ^ f.mb + r < f.signBit :=
  calc k * 2 ^ f.mb + r < (k + 1) * 2 ^ f.mb := by rw [Nat.succ_mul]; omega
    _ ≤ 2 ^ f.eb * 2 ^ f.mb := Nat.mul_le_mul_right _ hk
    _ = f.signBit := f.signBit_eq.symm

theorem FFmt.infBits_lt_signBit (hf : f.Ok) : f.infBits < f.signBit := by
  have h4 := hf.four_le
  exact FFmt.field_lt_signBit (r := 0) (by omega) (by positivity)

theorem FFmt.infBits_pos (hf : f.Ok) : 0 < f.infBits := by
  have h4 := hf.four_le
  exact Nat.mul_pos (by omega) (by positivity)

theorem FFmt.maxBits_eq (hf : f.Ok) : f.maxBits = (2 ^ f.eb - 2) * 2 ^ f.mb + (2 ^ f.mb - 1) := by
  have h4 := hf.four_le
  have hp : 0 < 2 ^ f.mb := by positivity
  have hk : f.infBits = (2 ^ f.eb - 2) * 2 ^ f.mb + 2 ^ f.mb := by
    rw [FFmt.infBits, ← Nat.succ_mul]
    congr 1
    omega
  rw [FFmt.maxBits, hk]
  omega

theorem FFmt.signed_mod {b : Nat} (n : Bool) (hb : b < f.signBit) : f.signed n b % f.signBit = b := by
  cases n with
  | false => exact Nat.mod_eq_of_lt hb
  | true => exact (Nat.add_mod_right b f.signBit).trans (Nat.mod_eq_of_lt hb)

theorem FFmt.signed_lt {b : Nat} (n : Bool) (hb : b < f.signBit) : f.signed n b < 2 * f.signBit := by
  cases n with
  | false => exact Nat.lt_of_lt_of_le hb (Nat.le_mul_of_pos_left _ Nat.two_pos)
  | true => show b + f.signBit < _; omega

/-! ### Decoding (R136) -/

/-- The value of a sign and of the bits below it. -/
def FFmt.decodeMag (f : FFmt) (neg : Bool) (x : Nat) : FVal :=
  if x / 2 ^ f.mb = 2 ^ f.eb - 1 then
    (if x % 2 ^ f.mb = 0 then .inf neg else .nan (x % 2 ^ f.mb < 2 ^ (f.mb - 1)))
  else if x / 2 ^ f.mb = 0 then .fin neg (x % 2 ^ f.mb) f.umin
  else .fin neg (x % 2 ^ f.mb + 2 ^ f.mb) (f.umin + (x / 2 ^ f.mb : Nat) - 1)

theorem FFmt.decode_eq (f : FFmt) (b : Nat) :
    f.decode b = f.decodeMag (decide (f.signBit ≤ b % (2 * f.signBit))) (b % f.signBit) := rfl

theorem FFmt.decode_of_lt {b : Nat} (hb : b < 2 * f.signBit) :
    f.decode b = f.decodeMag (decide (f.signBit ≤ b)) (b % f.signBit) := by
  rw [FFmt.decode_eq, Nat.mod_eq_of_lt hb]

theorem FFmt.decode_signed {b : Nat} (n : Bool) (hb : b < f.signBit) : f.decode (f.signed n b) = f.decodeMag n b := by
  rw [FFmt.decode_of_lt (FFmt.signed_lt n hb), FFmt.signed_mod n hb]
  cases n with
  | false => exact congrArg (f.decodeMag · b) (decide_eq_false (Nat.not_le.2 hb))
  | true => exact congrArg (f.decodeMag · b) (decide_eq_true (Nat.le_add_left f.signBit b))

theorem FFmt.decodeMag_field {k r : Nat} (n : Bool) (hr : r < 2 ^ f.mb) : f.decodeMag n (k * 2 ^ f.mb + r) =
    if k = 2 ^ f.eb - 1 then (if r = 0 then .inf n else .nan (r < 2 ^ (f.mb - 1)))
    else if k = 0 then .fin n r f.umin else .fin n (r + 2 ^ f.mb) (f.umin + (k : Nat) - 1) := by
  have hdiv : (k * 2 ^ f.mb + r) / 2 ^ f.mb = k := by
    rw [Nat.mul_comm, Nat.mul_add_div (by positivity), Nat.div_eq_of_lt hr, Nat.add_zero]
  have hmod : (k * 2 ^ f.mb + r) % 2 ^ f.mb = r := by
    rw [Nat.mul_comm, Nat.mul_add_mod, Nat.mod_eq_of_lt hr]
  rw [FFmt.decodeMag, hdiv, hmod]

theorem FFmt.decode_subnormal (hf : f.Ok) (n : Bool) {q : Nat} (hq : q < 2 ^ f.mb) :
    f.decode (f.signed n q) = .fin n q f.umin := by
  have h4 := hf.four_le
  have hfield := FFmt.decodeMag_field (k := 0) n hq
  have hlt := FFmt.field_lt_signBit (f := f) (k := 0) (by omega) hq
  rw [Nat.zero_mul, Nat.zero_add] at hfield hlt
  rw [FFmt.decode_signed n hlt, hfield, if_neg (by omega), if_pos rfl]

theorem FFmt.decode_normal (n : Bool) {k q : Nat} (hk : k + 2 < 2 ^ f.eb) (hlo : 2 ^ f.mb ≤ q)
    (hhi : q < 2 ^ (f.mb + 1)) : f.decode (f.signed n ((k + 1) * 2 ^ f.mb + (q - 2 ^ f.mb))) = .fin n q (f.umin + k) := by
  rw [Nat.pow_succ] at hhi
  have hr : q - 2 ^ f.mb < 2 ^ f.mb := by omega
  rw [FFmt.decode_signed n (FFmt.field_lt_signBit (by omega) hr), FFmt.decodeMag_field n hr, if_neg (by omega),
    if_neg (Nat.succ_ne_zero k), Nat.sub_add_cancel hlo, Nat.cast_add, Nat.cast_one, ← Int.add_assoc, Int.add_sub_cancel]

theorem FFmt.decode_inf (hf : f.Ok) (n : Bool) : f.decode (f.signed n f.infBits) = .inf n := by
  have hfield := FFmt.decodeMag_field (f := f) (k := 2 ^ f.eb - 1) (r := 0) n (by positivity)
  rw [if_pos rfl, if_pos rfl] at hfield
  exact (FFmt.decode_signed n (FFmt.infBits_lt_signBit hf)).trans hfield

theorem FFmt.decode_zero (hf : f.Ok) (n : Bool) : f.decode (f.signed n 0) = .fin n 0 f.umin :=
  FFmt.decode_subnormal hf n (by positivity)

theorem FFmt.decode_max (hf : f.Ok) (n : Bool) : f.decode (f.signed n f.maxBits) = .fin n (2 ^ (f.mb + 1) - 1) f.umax := by
  have h4 := hf.four_le
  have hs := hf.span
  have hp : 0 < 2 ^ f.mb := by positivity
  have hpow : 2 ^ (f.mb + 1) = 2 ^ f.mb * 2 := pow_succ 2 f.mb
  have hbits : f.maxBits = (2 ^ f.eb - 3 + 1) * 2 ^ f.mb + (2 ^ (f.mb + 1) - 1 - 2 ^ f.mb) := by
    rw [FFmt.maxBits_eq hf, hpow, show 2 ^ f.eb - 3 + 1 = 2 ^ f.eb - 2 by omega,
      show 2 ^ f.mb * 2 - 1 - 2 ^ f.mb = 2 ^ f.mb - 1 by omega]
  rw [hbits, FFmt.decode_normal n (by omega) (by omega) (by omega)]
  congr 1
  omega

/-! ### The form of a decoded number -/

/-- The significand and the unit of an encoding: a subnormal number at the least unit, or a normal one. -/
def FFmt.Form (f : FFmt) (m : Nat) (e : Int) : Prop :=
  (m < 2 ^ f.mb ∧ e = f.umin) ∨ (2 ^ f.mb ≤ m ∧ m < 2 ^ (f.mb + 1) ∧ f.umin ≤ e ∧ e ≤ f.umax)

theorem FFmt.decodeMag_form (hf : f.Ok) {n k : Bool} {x m : Nat} {e : Int} (hx : x < f.signBit)
    (h : f.decodeMag n x = .fin k m e) : k = n ∧ f.Form m e := by
  have hs := hf.span
  have hr : x % 2 ^ f.mb < 2 ^ f.mb := Nat.mod_lt _ (by positivity)
  have hk : x / 2 ^ f.mb < 2 ^ f.eb := Nat.div_lt_of_lt_mul (by rwa [Nat.mul_comm, ← f.signBit_eq])
  unfold FFmt.decodeMag at h
  generalize x / 2 ^ f.mb = q at h hk
  generalize x % 2 ^ f.mb = r at h hr
  split at h
  · split at h <;> cases h
  · split at h
    · cases h
      exact ⟨rfl, .inl ⟨hr, rfl⟩⟩
    · cases h
      refine ⟨rfl, .inr ⟨Nat.le_add_left _ _, ?_, ?_, ?_⟩⟩
      · rw [Nat.pow_succ]; omega
      · omega
      · omega

theorem FFmt.form_of_decode (hf : f.Ok) {b m : Nat} {n : Bool} {e : Int} (h : f.decode b = .fin n m e) : f.Form m e :=
  (FFmt.decodeMag_form hf (Nat.mod_lt _ (by rw [f.signBit_eq]; positivity)) h).2

theorem FFmt.Form.lt {m : Nat} {e : Int} (h : f.Form m e) : m < 2 ^ (f.mb + 1) := by
  obtain ⟨hm, -⟩ | ⟨-, hm, -⟩ := h
  · rw [Nat.pow_succ]; omega
  · exact hm

theorem FFmt.Form.lt_of_ok (hf : f.Ok) {m : Nat} {e : Int} (h : f.Form m e) : m < 2 ^ 24 :=
  h.lt.trans_le (Nat.pow_le_pow_right Nat.two_pos (Nat.succ_le_succ hf.mb_le))

theorem FFmt.Form.umin_le {m : Nat} {e : Int} (h : f.Form m e) : f.umin ≤ e := by
  obtain ⟨-, he⟩ | ⟨-, -, he, -⟩ := h
  · exact he.ge
  · exact he

end

end Sys2Proof.Machine
end

section
/-! SUPPORT. Rounding a magnitude to a multiple of a unit (R126): what each mode takes, and that `roundAt` takes it. -/

namespace Sys2Proof

/-! ### What a mode takes -/

/-- The mode leads to zero for the sign. -/
def Rnd.Inward (mode : Rnd) (neg : Bool) : Prop :=
  mode = .rtz ∨ (mode = .rup ∧ neg = true) ∨ (mode = .rdn ∧ neg = false)

/-- A magnitude comes to the integer q: to a nearest one and of two to the even one, to the one below, or to the one above. -/
def Rnd.Takes (mode : Rnd) (neg : Bool) (t : ℝ) (q : Nat) : Prop :=
  (mode = .rne → (q - 1 / 2 ≤ t ∧ t ≤ q + 1 / 2) ∧ (t = q - 1 / 2 ∨ t = q + 1 / 2 → q % 2 = 0)) ∧
  (mode.Inward neg → q ≤ t ∧ t < q + 1) ∧
  (mode ≠ .rne → ¬ mode.Inward neg → q - 1 < t ∧ t ≤ q)

/-- R126's three ways to round a magnitude. -/
theorem Rnd.nearest_inward_or_outward (mode : Rnd) (neg : Bool) :
    mode = .rne ∨ mode.Inward neg ∨ (mode ≠ .rne ∧ ¬ mode.Inward neg) := by
  by_cases h : mode = .rne
  · exact .inl h
  · by_cases hi : mode.Inward neg
    · exact .inr (.inl hi)
    · exact .inr (.inr ⟨h, hi⟩)

theorem Rnd.Inward.ne_rne {mode : Rnd} {neg : Bool} (h : mode.Inward neg) : mode ≠ .rne := by
  rintro rfl
  obtain h | ⟨h, -⟩ | ⟨h, -⟩ := h <;> cases h

section
variable {mode : Rnd} {neg : Bool} {t : ℝ} {q : Nat}

theorem Rnd.Takes.nearest (h : mode = .rne) (hlo : q - 1 / 2 ≤ t) (hhi : t ≤ q + 1 / 2)
    (htie : t = q - 1 / 2 ∨ t = q + 1 / 2 → q % 2 = 0) : mode.Takes neg t q :=
  ⟨fun _ => ⟨⟨hlo, hhi⟩, htie⟩, fun hi => absurd h hi.ne_rne, fun hne => absurd h hne⟩

theorem Rnd.Takes.inward (h : mode.Inward neg) (hlo : q ≤ t) (hhi : t < q + 1) : mode.Takes neg t q :=
  ⟨fun hn => absurd hn h.ne_rne, fun _ => ⟨hlo, hhi⟩, fun _ hi => absurd h hi⟩

theorem Rnd.Takes.outward (hn : mode ≠ .rne) (hi : ¬ mode.Inward neg) (hlo : q - 1 < t) (hhi : t ≤ q) : mode.Takes neg t q :=
  ⟨fun h => absurd h hn, fun h => absurd h hi, fun _ _ => ⟨hlo, hhi⟩⟩

/-- An integer is taken as it is. -/
theorem Rnd.takes_self (mode : Rnd) (neg : Bool) (q : Nat) : mode.Takes neg q q := by
  obtain h | h | ⟨h, hi⟩ := mode.nearest_inward_or_outward neg
  · exact .nearest h (by linarith) (by linarith) (by rintro (h | h) <;> linarith)
  · exact .inward h le_rfl (by linarith)
  · exact .outward h hi (by linarith) le_rfl

theorem Rnd.Takes.lt_add_one (h : mode.Takes neg t q) : t < q + 1 := by
  obtain ⟨hn, hi, ho⟩ := h
  obtain h | h | ⟨h, h'⟩ := mode.nearest_inward_or_outward neg
  · linarith [(hn h).1.2]
  · exact (hi h).2
  · linarith [(ho h h').2]

theorem Rnd.Takes.sub_one_lt (h : mode.Takes neg t q) : q - 1 < t := by
  obtain ⟨hn, hi, ho⟩ := h
  obtain h | h | ⟨h, h'⟩ := mode.nearest_inward_or_outward neg
  · linarith [(hn h).1.1]
  · linarith [(hi h).1]
  · exact (ho h h').1

/-- Rounding stays at or above an integer. -/
theorem Rnd.Takes.le_of_le (h : mode.Takes neg t q) {k : Nat} (hk : (k : ℝ) ≤ t) : k ≤ q := by
  have : (k : ℝ) < q + 1 := hk.trans_lt h.lt_add_one
  exact Nat.lt_succ_iff.1 (by exact_mod_cast this)

/-- Rounding stays at or below an integer. -/
theorem Rnd.Takes.ge_of_ge (h : mode.Takes neg t q) {k : Nat} (hk : t ≤ (k : ℝ)) : q ≤ k := by
  have : (q : ℝ) < k + 1 := by linarith [h.sub_one_lt]
  exact Nat.lt_succ_iff.1 (by exact_mod_cast this)

theorem Rnd.Takes.eq_of_nat {k : Nat} (h : mode.Takes neg (k : ℝ) q) : q = k :=
  Nat.le_antisymm (h.ge_of_ge le_rfl) (h.le_of_le le_rfl)

/-- A fraction is taken as it is only where it is zero. -/
theorem Rnd.Takes.eq_add_iff {p : ℝ} {k : Nat} (h : mode.Takes neg (q + p) (q + k)) (h0 : 0 ≤ p) (h1 : p < 1) :
    q + p = (q + k : Nat) ↔ p = 0 := by
  push_cast
  refine ⟨fun heq => ?_, fun hp => ?_⟩
  · have hk : (k : ℝ) < 1 := by linarith
    have hk : k = 0 := Nat.lt_one_iff.1 (by exact_mod_cast hk)
    rw [hk, Nat.cast_zero] at heq
    linarith
  · rw [hp, add_zero] at h ⊢
    have hk := h.eq_of_nat
    rw [Nat.add_eq_left.1 hk, Nat.cast_zero, add_zero]

/-- No integer is nearer. -/
theorem Rnd.Takes.nearest_int (hT : mode.Takes neg t q) (hn : mode = .rne)
    (k : Int) : |t - q| ≤ |t - k| ∧ ((k : ℝ) ≠ q → |t - q| = |t - k| → q % 2 = 0) := by
  obtain ⟨⟨hlo, hhi⟩, htie⟩ := hT.1 hn
  have hhalf : |t - q| ≤ 1 / 2 := abs_le.2 ⟨by linarith, by linarith⟩
  by_cases hk : k = q
  · subst hk
    exact ⟨le_rfl, fun h => absurd rfl h⟩
  · have hone : (1 : ℝ) ≤ |(k : ℝ) - q| := by
      have : (1 : Int) ≤ |k - q| := Int.one_le_abs (sub_ne_zero.2 hk)
      exact_mod_cast this
    have htri : |(k : ℝ) - q| ≤ |t - q| + |t - k| := by
      rw [abs_sub_comm t k, add_comm]
      exact abs_sub_le _ _ _
    refine ⟨by linarith, fun _ heq => htie ?_⟩
    have hq : |t - q| = 1 / 2 := by linarith
    obtain h | h := (abs_eq (by norm_num)).1 hq
    · exact .inr (by linarith)
    · exact .inl (by linarith)

/-- A magnitude x reaches b once rounded, where the values below b stand d apart. -/
def Rnd.Reaches (mode : Rnd) (neg : Bool) (x b d : ℝ) : Prop :=
  (mode = .rne → b - d / 2 ≤ x) ∧ (mode.Inward neg → b ≤ x) ∧ (mode ≠ .rne → ¬ mode.Inward neg → b - d < x)

theorem Rnd.reaches_of_le {x b d : ℝ} (hd : 0 < d) (h : b ≤ x) : mode.Reaches neg x b d :=
  ⟨fun _ => by linarith, fun _ => h, fun _ _ => by linarith⟩

theorem Rnd.not_reaches_of_le {x b d : ℝ} (hd : 0 < d) (h : x + d ≤ b) : ¬ mode.Reaches neg x b d := by
  rintro ⟨hn, hi, ho⟩
  obtain h' | h' | ⟨h', h''⟩ := mode.nearest_inward_or_outward neg
  · linarith [hn h']
  · linarith [hi h']
  · linarith [ho h' h'']

/-- An even multiple of the unit is reached where it is taken. -/
theorem Rnd.Takes.reaches_iff {k : Nat} (h : mode.Takes neg t q) (hk : k % 2 = 0) : mode.Reaches neg t k 1 ↔ k ≤ q := by
  refine ⟨fun ⟨hn, hi, ho⟩ => ?_, fun hkq => ?_⟩
  · by_contra! hlt
    have hlt' : (q : ℝ) + 1 ≤ k := by exact_mod_cast hlt
    obtain ⟨hn', hi', ho'⟩ := h
    obtain h' | h' | ⟨h', h''⟩ := mode.nearest_inward_or_outward neg
    · obtain ⟨⟨-, hhi⟩, htie⟩ := hn' h'
      have hle := hn h'
      have hkq : (k : ℝ) = q + 1 := by linarith
      have hkq : k = q + 1 := by exact_mod_cast hkq
      have := htie (.inr (by linarith))
      omega
    · linarith [hi h', (hi' h').2]
    · linarith [ho h' h'', (ho' h' h'').2]
  · have hkq' : (k : ℝ) ≤ q := by exact_mod_cast hkq
    obtain ⟨hn', hi', ho'⟩ := h
    exact ⟨fun h' => by linarith [(hn' h').1.1], fun h' => hkq'.trans (hi' h').1, fun h' h'' => by linarith [(ho' h' h'').1]⟩

theorem Rnd.reaches_div {x b d w : ℝ} (hw : 0 < w) : mode.Reaches neg (x / w) b d ↔ mode.Reaches neg x (b * w) (d * w) := by
  unfold Rnd.Reaches
  rw [le_div_iff₀ hw, le_div_iff₀ hw, lt_div_iff₀ hw, sub_mul, sub_mul, div_mul_eq_mul_div]

end

end Sys2Proof

namespace Sys2Proof.Machine

/-! ### Bits of a number -/

theorem bitLen_le_iff {m k : Nat} : bitLen m ≤ k ↔ m < 2 ^ k := by
  unfold bitLen
  split
  next h => simp [h]
  next h => rw [Nat.succ_le_iff, Nat.log2_lt h]

theorem lt_two_pow_bitLen (m : Nat) : m < 2 ^ bitLen m := bitLen_le_iff.1 le_rfl

theorem lt_bitLen_iff {m k : Nat} : k < bitLen m ↔ 2 ^ k ≤ m := by
  rw [← not_le, bitLen_le_iff, not_lt]

theorem bitLen_two_pow (k : Nat) : bitLen (2 ^ k) = k + 1 :=
  Nat.le_antisymm (bitLen_le_iff.2 (Nat.pow_lt_pow_succ Nat.one_lt_two)) (lt_bitLen_iff.2 le_rfl)

/-! ### `roundAt` -/

/-- A magnitude of m units of 2^e, and something less than one more where `sticky`. -/
def Reps (x : ℝ) (m : Nat) (e : Int) (sticky : Bool) : Prop :=
  m * (2 : ℝ) ^ e ≤ x ∧ x < (m + 1) * (2 : ℝ) ^ e ∧ (sticky = true ↔ x ≠ m * (2 : ℝ) ^ e)

theorem reps_exact (m : Nat) (e : Int) : Reps (m * (2 : ℝ) ^ e) m e false :=
  ⟨le_rfl, by have : (0 : ℝ) < (2 : ℝ) ^ e := by positivity
              linarith, by simp⟩

theorem roundsUp_inward {mode : Rnd} {neg : Bool} (h : mode.Inward neg) (q rem sh : Nat) (sticky : Bool) :
    roundsUp mode neg q rem sh sticky = false := by
  obtain rfl | ⟨rfl, rfl⟩ | ⟨rfl, rfl⟩ := h <;> rfl

theorem roundsUp_outward {mode : Rnd} {neg : Bool} (hn : mode ≠ .rne) (h : ¬ mode.Inward neg) (q rem sh : Nat)
    (sticky : Bool) : roundsUp mode neg q rem sh sticky = (rem != 0 || sticky) := by
  cases mode with
  | rne => exact absurd rfl hn
  | rtz => exact absurd (.inl rfl) h
  | rup =>
    cases neg with
    | false => rfl
    | true => exact absurd (.inr (.inl ⟨rfl, rfl⟩)) h
  | rdn =>
    cases neg with
    | true => rfl
    | false => exact absurd (.inr (.inr ⟨rfl, rfl⟩)) h

theorem roundsUp_rne (neg : Bool) (q rem h : Nat) (sticky : Bool) : roundsUp .rne neg q rem (h + 1) sticky =
    (decide (2 ^ h < rem) || (rem == 2 ^ h && (sticky || q % 2 == 1))) := rfl

theorem takes_rne_down (neg : Bool) (q : Nat) {p : ℝ} (h0 : 0 ≤ p) (h : p < 1 / 2) : Rnd.rne.Takes neg (q + p) q :=
  .nearest rfl (by linarith) (by linarith) (by rintro (h | h) <;> linarith)

theorem takes_rne_up (neg : Bool) (q : Nat) {p : ℝ} (h : 1 / 2 < p) (h1 : p < 1) : Rnd.rne.Takes neg (q + p) (q + 1) :=
  .nearest rfl (by push_cast; linarith) (by push_cast; linarith) (by push_cast; rintro (h | h) <;> linarith)

theorem takes_rne_even (neg : Bool) (q : Nat) : Rnd.rne.Takes neg (q + 1 / 2) (q + (q % 2 == 1).toNat) := by
  cases hq : q % 2 == 1 with
  | true =>
    rw [beq_iff_eq] at hq
    rw [Bool.toNat_true]
    exact .nearest rfl (by push_cast; linarith) (by push_cast; linarith) (fun _ => by omega)
  | false =>
    rw [beq_eq_false_iff_ne] at hq
    rw [Bool.toNat_false, Nat.add_zero]
    exact .nearest rfl (by linarith) le_rfl (fun _ => by omega)

/-- A fraction of `rem` units of 2^-(h+1), and a rest below these, to the nearest integer. -/
theorem takes_roundsUp_rne (neg : Bool) (q : Nat) {rem h : Nat} {sticky : Bool} {d : ℝ} (hd : 0 ≤ d) (hd1 : d < 1)
    (hs : sticky = true ↔ d ≠ 0) (hrem : (rem + d) / 2 ^ (h + 1) < 1) :
    Rnd.rne.Takes neg (q + (rem + d) / 2 ^ (h + 1)) (q + (roundsUp .rne neg q rem (h + 1) sticky).toNat) := by
  have hp : (0 : ℝ) < 2 ^ (h + 1) := by positivity
  have hhalf : (2 : ℝ) ^ (h + 1) = 2 * 2 ^ h := by ring
  have hge : 0 ≤ (rem + d) / 2 ^ (h + 1) := by positivity
  rw [roundsUp_rne]
  obtain hlow | hmid | hhigh := lt_trichotomy rem (2 ^ h)
  · have hcast : (rem : ℝ) + 1 ≤ 2 ^ h := by exact_mod_cast hlow
    have hlt : (rem + d) / 2 ^ (h + 1) < 1 / 2 := by
      rw [div_lt_iff₀ hp, hhalf]
      linarith
    simpa [beq_eq_false_iff_ne.2 hlow.ne, hlow.not_gt] using takes_rne_down neg q hge hlt
  · have hcast : (rem : ℝ) = 2 ^ h := by exact_mod_cast hmid
    cases sticky with
    | true =>
      have hpos : 0 < d := lt_of_le_of_ne hd (hs.1 rfl).symm
      have hgt : 1 / 2 < (rem + d) / 2 ^ (h + 1) := by
        rw [lt_div_iff₀ hp, hhalf]
        linarith
      simpa [hmid] using takes_rne_up neg q hgt hrem
    | false =>
      have hd0 : d = 0 := by simpa using hs
      have heq : (rem + d) / 2 ^ (h + 1) = 1 / 2 := by
        rw [div_eq_iff hp.ne', hhalf]
        linarith
      rw [heq]
      simpa [hmid] using takes_rne_even neg q
  · have hcast : (2 : ℝ) ^ h + 1 ≤ rem := by exact_mod_cast hhigh
    have hgt : 1 / 2 < (rem + d) / 2 ^ (h + 1) := by
      rw [lt_div_iff₀ hp, hhalf]
      linarith
    simpa [hhigh] using takes_rne_up neg q hgt hrem

/-- Something is left below the unit. -/
theorem rest_iff {rem h : Nat} {sticky : Bool} {d : ℝ} (hd : 0 ≤ d) (hs : sticky = true ↔ d ≠ 0) :
    (rem != 0 || sticky) = true ↔ (rem + d) / 2 ^ (h + 1) ≠ 0 := by
  have hp : (2 : ℝ) ^ (h + 1) ≠ 0 := by positivity
  rw [Bool.or_eq_true, bne_iff_ne, hs, Ne, Ne, Ne, div_eq_zero_iff, or_iff_left hp,
    add_eq_zero_iff_of_nonneg (Nat.cast_nonneg rem) hd, Nat.cast_eq_zero, not_and_or]

/-- What is below the unit that a magnitude is rounded at: `rem` units of 2^-(h+1), and less than one more. -/
theorem takes_roundsUp (mode : Rnd) (neg : Bool) (q : Nat) {rem h : Nat} {sticky : Bool} {d : ℝ} (hd : 0 ≤ d) (hd1 : d < 1)
    (hs : sticky = true ↔ d ≠ 0) (hrem : (rem + d) / 2 ^ (h + 1) < 1) :
    mode.Takes neg (q + (rem + d) / 2 ^ (h + 1)) (q + (roundsUp mode neg q rem (h + 1) sticky).toNat) := by
  have hge : 0 ≤ (rem + d) / 2 ^ (h + 1) := by positivity
  obtain rfl | hi | ⟨hn, ho⟩ := mode.nearest_inward_or_outward neg
  · exact takes_roundsUp_rne neg q hd hd1 hs hrem
  · rw [roundsUp_inward hi]
    exact .inward hi (by simpa using hge) (by simpa using hrem)
  · rw [roundsUp_outward hn ho]
    have hrest := rest_iff (rem := rem) (h := h) hd hs
    cases hup : rem != 0 || sticky with
    | false =>
      rw [hup, Bool.false_eq_true, false_iff, not_not] at hrest
      rw [hrest, add_zero]
      exact mode.takes_self neg q
    | true =>
      have hpos := lt_of_le_of_ne hge (hrest.1 hup).symm
      rw [Bool.toNat_true]
      exact .outward hn ho (by push_cast; linarith) (by push_cast; linarith)

theorem two_zpow_pos (k : Int) : (0 : ℝ) < (2 : ℝ) ^ k := by positivity

theorem two_zpow_add_nat (u : Int) (k : Nat) : (2 : ℝ) ^ (u + k) = 2 ^ k * (2 : ℝ) ^ u := by
  rw [zpow_add₀ two_ne_zero, zpow_natCast, mul_comm]

/-- What is asked of `roundAt`: it takes the integer that the mode takes, and says whether that differs. -/
def RoundsAt (mode : Rnd) (neg : Bool) (x : ℝ) (u : Int) (out : Nat × Bool) : Prop :=
  mode.Takes neg (x / (2 : ℝ) ^ u) out.1 ∧ (out.2 = true ↔ x ≠ out.1 * (2 : ℝ) ^ u)

section
variable (mode : Rnd) (neg : Bool) {x : ℝ} {m : Nat} {e u : Int} {sticky : Bool}

/-- A unit no larger than the last bit's. -/
theorem roundAt_exact (hu : u ≤ e) : RoundsAt mode neg (m * (2 : ℝ) ^ e) u (roundAt mode neg m e u false) := by
  obtain ⟨k, rfl⟩ := Int.le.dest hu
  have hq : roundAt mode neg m (u + k) u false = (m * 2 ^ k, false) := by
    rw [roundAt, if_pos hu, add_sub_cancel_left, Int.toNat_natCast]
  have hx : m * (2 : ℝ) ^ (u + k) = (m * 2 ^ k : Nat) * (2 : ℝ) ^ u := by
    rw [two_zpow_add_nat]
    push_cast
    ring
  rw [RoundsAt, hq, hx, mul_div_cancel_right₀ _ (two_zpow_pos u).ne']
  exact ⟨mode.takes_self neg _, by simp⟩

/-- A larger unit, of 2^(h+1) of the last bit's. -/
theorem roundAt_shift (h : Reps x m e sticky) (k : Nat) :
    RoundsAt mode neg x (e + (k + 1 : Nat)) (roundAt mode neg m e (e + (k + 1 : Nat)) sticky) := by
  obtain ⟨hlo, hhi, hst⟩ := h
  have hE := two_zpow_pos e
  have hr : roundAt mode neg m e (e + (k + 1 : Nat)) sticky =
      (m / 2 ^ (k + 1) + (roundsUp mode neg (m / 2 ^ (k + 1)) (m % 2 ^ (k + 1)) (k + 1) sticky).toNat,
        m % 2 ^ (k + 1) != 0 || sticky) := by
    rw [roundAt, if_neg (by omega), add_sub_cancel_left, Int.toNat_natCast]
  have hm : (m : ℝ) = (m / 2 ^ (k + 1) : Nat) * 2 ^ (k + 1) + (m % 2 ^ (k + 1) : Nat) := by
    exact_mod_cast (Nat.div_add_mod' m (2 ^ (k + 1))).symm
  have hlt : ((m % 2 ^ (k + 1) : Nat) : ℝ) + 1 ≤ 2 ^ (k + 1) := by exact_mod_cast Nat.mod_lt m (by positivity)
  rw [RoundsAt, hr, two_zpow_add_nat]
  generalize m / 2 ^ (k + 1) = q at hm
  generalize m % 2 ^ (k + 1) = rem at hm hlt
  have hx : x / (2 ^ (k + 1) * (2 : ℝ) ^ e) = q + (rem + (x / (2 : ℝ) ^ e - m)) / 2 ^ (k + 1) := by
    rw [hm]
    field_simp
    ring
  have hd0 : 0 ≤ x / (2 : ℝ) ^ e - m := by rw [sub_nonneg, le_div_iff₀ hE]; exact hlo
  have hd1 : x / (2 : ℝ) ^ e - m < 1 := by rw [sub_lt_iff_lt_add, div_lt_iff₀ hE, add_comm]; exact hhi
  have hds : sticky = true ↔ x / (2 : ℝ) ^ e - m ≠ 0 := by rw [hst, sub_ne_zero, ne_eq, ne_eq, div_eq_iff hE.ne']
  have hone : (rem + (x / (2 : ℝ) ^ e - m)) / 2 ^ (k + 1) < 1 := by
    rw [div_lt_one (by positivity)]
    linarith
  have htakes := takes_roundsUp mode neg q hd0 hd1 hds hone
  refine ⟨hx ▸ htakes, ?_⟩
  rw [rest_iff hd0 hds, Ne, Ne, ← div_eq_iff (by positivity), hx, htakes.eq_add_iff (by positivity) hone]

/-- `roundAt` takes the integer that the mode takes, and says whether it differs. -/
theorem roundAt_takes (h : Reps x m e sticky) (hu : sticky = true → e < u) :
    RoundsAt mode neg x u (roundAt mode neg m e u sticky) := by
  obtain hue | hue := le_or_gt u e
  · obtain rfl : sticky = false := Bool.eq_false_iff.2 fun hs => absurd (hu hs) (not_lt.2 hue)
    obtain rfl : x = m * (2 : ℝ) ^ e := by simpa using h.2.2
    exact roundAt_exact mode neg hue
  · obtain ⟨k, rfl⟩ : ∃ k : Nat, u = e + (k + 1 : Nat) := ⟨(u - e - 1).toNat, by omega⟩
    exact roundAt_shift mode neg h k

end

end Sys2Proof.Machine
end

section
/-! SUPPORT. The one rounding of every float instruction (R125, R126): `FFmt.round` gives the value of the format that the mode asks
for, and the flags that are due. -/

namespace Sys2Proof.Machine

/-! ### What `round` packs -/

section
variable {f : FFmt} {q : Nat} {u : Int}

theorem FFmt.decode_pack_subnormal (hf : f.Ok) (neg : Bool) (hq : q < 2 ^ f.mb) (u : Int) :
    f.decode (f.pack neg q u) = .fin neg q f.umin := by
  rw [FFmt.pack, if_pos hq]
  exact FFmt.decode_subnormal hf neg hq

theorem FFmt.decode_pack_normal (hf : f.Ok) (neg : Bool) (hlo : 2 ^ f.mb ≤ q) (hhi : q < 2 ^ (f.mb + 1)) (hu : f.umin ≤ u)
    (hu' : u ≤ f.umax) : f.decode (f.pack neg q u) = .fin neg q u := by
  have hs := hf.span
  rw [FFmt.pack, if_neg (by omega), FFmt.decode_normal neg (by omega) hlo hhi]
  congr 1
  omega

theorem FFmt.decode_pack_carry (hf : f.Ok) (neg : Bool) (hu : f.umin ≤ u) (hu' : u < f.umax) :
    f.decode (f.pack neg (2 ^ (f.mb + 1)) u) = .fin neg (2 ^ f.mb) (u + 1) := by
  have hs := hf.span
  have hpow : 2 ^ (f.mb + 1) = 2 ^ f.mb * 2 := pow_succ 2 f.mb
  have hp : 0 < 2 ^ f.mb := by positivity
  have hbits : ((u - f.umin).toNat + 1) * 2 ^ f.mb + (2 ^ (f.mb + 1) - 2 ^ f.mb) =
      ((u - f.umin).toNat + 1 + 1) * 2 ^ f.mb + (2 ^ f.mb - 2 ^ f.mb) := by
    rw [Nat.succ_mul ((u - f.umin).toNat + 1)]
    omega
  rw [FFmt.pack, if_neg (by omega), hbits, FFmt.decode_normal neg (by omega) le_rfl (by omega)]
  congr 1
  omega

/-- A rounded significand that the format's range holds: what it decodes to is the same number, and even where it was. -/
theorem FFmt.decode_pack (hf : f.Ok) (neg : Bool) (hu : f.umin ≤ u) (hu' : u ≤ f.umax) (hq : q ≤ 2 ^ (f.mb + 1))
    (hover : ¬ (u = f.umax ∧ 2 ^ (f.mb + 1) ≤ q)) (hlow : u = f.umin ∨ 2 ^ f.mb ≤ q) :
    ∃ k v, f.decode (f.pack neg q u) = .fin neg k v ∧ (k : ℝ) * (2 : ℝ) ^ v = q * (2 : ℝ) ^ u ∧ (q % 2 = 0 → k % 2 = 0) := by
  by_cases hsub : q < 2 ^ f.mb
  · obtain rfl | hlow := hlow
    · exact ⟨q, _, FFmt.decode_pack_subnormal hf neg hsub _, rfl, id⟩
    · exact absurd hsub (not_lt.2 hlow)
  · obtain hlt | rfl := hq.lt_or_eq
    · exact ⟨q, u, FFmt.decode_pack_normal hf neg (not_lt.1 hsub) hlt hu hu', rfl, id⟩
    · refine ⟨2 ^ f.mb, u + 1, FFmt.decode_pack_carry hf neg hu (lt_of_le_of_ne hu' fun h => hover ⟨h, le_rfl⟩), ?_, fun _ => ?_⟩
      · rw [zpow_add_one₀ two_ne_zero, pow_succ]
        push_cast
        ring
      · exact Nat.even_iff.1 (Nat.even_pow.2 ⟨even_two, (Nat.zero_lt_of_lt hf.one_lt_mb).ne'⟩)

/-! ### The best of the values that a format has -/

/-- A real number as it lies to a unit, in multiples of it: an integer, or below the least significand of a normal number. -/
def FFmt.OnGrid (f : FFmt) (u : Int) (z : ℝ) : Prop := (∃ k : Int, z = k) ∨ (f.umin < u ∧ z < 2 ^ f.mb)

theorem FFmt.Form.onGrid {m : Nat} {e : Int} (h : f.Form m e) (u : Int) {z : ℝ} (hz : |z| = m * (2 : ℝ) ^ e) :
    f.OnGrid u (z / (2 : ℝ) ^ u) := by
  have hu := two_zpow_pos u
  by_cases hue : u ≤ e
  · obtain ⟨k, rfl⟩ := Int.le.dest hue
    have hpow : m * (2 : ℝ) ^ (u + k) = m * 2 ^ k * (2 : ℝ) ^ u := by
      rw [zpow_add₀ two_ne_zero, zpow_natCast]
      ring
    rw [hpow] at hz
    refine .inl ?_
    obtain hz | hz := (abs_eq (by positivity)).1 hz
    · exact ⟨m * 2 ^ k, by rw [hz, mul_div_cancel_right₀ _ hu.ne']; push_cast; rfl⟩
    · exact ⟨-(m * 2 ^ k), by rw [hz, neg_div, mul_div_cancel_right₀ _ hu.ne']; push_cast; rfl⟩
  · refine .inr ⟨h.umin_le.trans_lt (not_le.1 hue), ?_⟩
    have hm : (m : ℝ) < 2 ^ f.mb * 2 := by
      have := h.lt
      rw [pow_succ] at this
      exact_mod_cast this
    have he : (2 : ℝ) ^ e * 2 ≤ (2 : ℝ) ^ u := by
      rw [← zpow_add_one₀ two_ne_zero]
      exact zpow_le_zpow_right₀ one_le_two (by omega)
    rw [div_lt_iff₀ hu]
    calc z ≤ |z| := le_abs_self z
      _ = m * (2 : ℝ) ^ e := hz
      _ < 2 ^ f.mb * 2 * (2 : ℝ) ^ e := mul_lt_mul_of_pos_right hm (two_zpow_pos e)
      _ = 2 ^ f.mb * ((2 : ℝ) ^ e * 2) := by ring
      _ ≤ 2 ^ f.mb * (2 : ℝ) ^ u := mul_le_mul_of_nonneg_left he (by positivity)

section
variable {mode : Rnd} {neg : Bool} {t z : ℝ} (hT : mode.Takes neg t q) (hlow : u = f.umin ∨ 2 ^ f.mb ≤ t) (hz : f.OnGrid u z)
include hT hlow hz

theorem FFmt.OnGrid.le_of_inward (hi : mode.Inward neg) (h : z ≤ t) : z ≤ q := by
  have ⟨_, hT', _⟩ := hT
  obtain ⟨k, rfl⟩ | ⟨hu, hz⟩ := hz
  · have hk : (k : ℝ) < (q + 1 : Int) := by push_cast; linarith [(hT' hi).2]
    have hk : k ≤ q := Int.lt_add_one_iff.1 (by exact_mod_cast hk)
    exact_mod_cast hk
  · obtain rfl | hlow := hlow
    · exact absurd hu (lt_irrefl _)
    · have : 2 ^ f.mb ≤ q := hT.le_of_le (by exact_mod_cast hlow)
      have : (2 : ℝ) ^ f.mb ≤ q := by exact_mod_cast this
      linarith

theorem FFmt.OnGrid.ge_of_outward (hn : mode ≠ .rne) (ho : ¬ mode.Inward neg) (h : t ≤ z) : q ≤ z := by
  have ⟨_, _, hT'⟩ := hT
  obtain ⟨k, rfl⟩ | ⟨hu, hz⟩ := hz
  · have hk : ((q - 1 : Int) : ℝ) < k := by push_cast; linarith [(hT' hn ho).1]
    have hk : (q : Int) ≤ k := Int.sub_one_lt_iff.1 (by exact_mod_cast hk)
    exact_mod_cast hk
  · obtain rfl | hlow := hlow
    · exact absurd hu (lt_irrefl _)
    · linarith

theorem FFmt.OnGrid.nearest (hn : mode = .rne) : |t - q| ≤ |t - z| ∧ (z ≠ q → |t - q| = |t - z| → q % 2 = 0) := by
  obtain ⟨k, rfl⟩ | ⟨hu, hz⟩ := hz
  · exact hT.nearest_int hn k
  · obtain rfl | hlow := hlow
    · exact absurd hu (lt_irrefl _)
    · have hB := (hT.nearest_int hn (2 ^ f.mb : Nat)).1
      push_cast at hB
      have hlt : |t - q| < |t - z| := by
        rw [abs_of_pos (show 0 < t - z by linarith)]
        rw [abs_of_nonneg (show 0 ≤ t - 2 ^ f.mb by linarith)] at hB
        linarith
      exact ⟨hlt.le, fun _ h => absurd h hlt.ne⟩

end

/-! ### Values of the format about a number -/

/-- A sign as a factor. -/
def sgn (neg : Bool) : ℝ := if neg then -1 else 1

theorem sgn_mul_self (neg : Bool) : sgn neg * sgn neg = 1 := by cases neg <;> norm_num [sgn]

theorem abs_sgn (neg : Bool) : |sgn neg| = 1 := by cases neg <;> norm_num [sgn]

theorem FVal.is_fin {n : Bool} {m : Nat} {e : Int} {x : ℝ} : (FVal.fin n m e).Is x ↔ x = sgn n * (m * (2 : ℝ) ^ e) := by
  rw [← mul_assoc]
  rfl

theorem FVal.Is.abs_eq {n : Bool} {m : Nat} {e : Int} {x : ℝ} (h : (FVal.fin n m e).Is x) : |x| = m * (2 : ℝ) ^ e := by
  rw [FVal.is_fin.1 h, abs_mul, abs_sgn, one_mul, abs_of_nonneg (by positivity)]

theorem FVal.Is.eq_fin {v : FVal} {x : ℝ} (h : v.Is x) : ∃ n m e, v = .fin n m e := by
  cases v with
  | nan | inf => exact h.elim
  | fin n m e => exact ⟨n, m, e, rfl⟩

/-- Any number of the format, seen from a unit. -/
theorem FFmt.onGrid_of_is (hf : f.Ok) {b : Nat} {z w : ℝ} (h : (f.decode b).Is z) (hw : |w| = |z|) (u : Int) :
    f.OnGrid u (w / (2 : ℝ) ^ u) := by
  obtain ⟨n, m, e, hb⟩ := h.eq_fin
  rw [hb] at h
  exact (FFmt.form_of_decode hf hb).onGrid u (hw.trans h.abs_eq)

/-- R126: of the format's values, y is the one that the mode gives for x, and k its significand. -/
structure FFmt.Best (f : FFmt) (mode : Rnd) (x y : ℝ) (k : Nat) : Prop where
  rne : mode = .rne → ∀ b z, (f.decode b).Is z → |x - y| ≤ |x - z| ∧ (z ≠ y → |x - y| = |x - z| → k % 2 = 0)
  rtz : mode = .rtz → |y| ≤ |x| ∧ ∀ b z, (f.decode b).Is z → |z| ≤ |x| → |z| ≤ |y|
  rup : mode = .rup → x ≤ y ∧ ∀ b z, (f.decode b).Is z → x ≤ z → y ≤ z
  rdn : mode = .rdn → y ≤ x ∧ ∀ b z, (f.decode b).Is z → z ≤ x → z ≤ y

section
variable {mode : Rnd} {neg : Bool} {x : ℝ} {k : Nat} (hf : f.Ok) (hT : mode.Takes neg (|x| / (2 : ℝ) ^ u) q)
  (hlow : u = f.umin ∨ 2 ^ f.mb ≤ |x| / (2 : ℝ) ^ u) (hx : x = sgn neg * |x|)
include hf hT hlow

/-- Towards zero: no value of the format lies between. -/
theorem FFmt.below_of_inward (hi : mode.Inward neg) : q * (2 : ℝ) ^ u ≤ |x| ∧
    ∀ b z w, (f.decode b).Is z → |w| = |z| → w ≤ |x| → w ≤ q * (2 : ℝ) ^ u := by
  have hu := two_zpow_pos u
  refine ⟨(le_div_iff₀ hu).1 (hT.2.1 hi).1, fun b z w hz hw h => ?_⟩
  rw [← div_le_iff₀ hu]
  exact (FFmt.onGrid_of_is hf hz hw u).le_of_inward hT hlow hi (by gcongr)

/-- Away from zero likewise. -/
theorem FFmt.above_of_outward (hn : mode ≠ .rne) (ho : ¬ mode.Inward neg) : |x| ≤ q * (2 : ℝ) ^ u ∧
    ∀ b z w, (f.decode b).Is z → |w| = |z| → |x| ≤ w → q * (2 : ℝ) ^ u ≤ w := by
  have hu := two_zpow_pos u
  refine ⟨(div_le_iff₀ hu).1 (hT.2.2 hn ho).2, fun b z w hz hw h => ?_⟩
  rw [← le_div_iff₀ hu]
  exact (FFmt.onGrid_of_is hf hz hw u).ge_of_outward hT hlow hn ho (by gcongr)

theorem FFmt.nearest_of_takes (hn : mode = .rne) {b : Nat} {z w : ℝ} (hz : (f.decode b).Is z) (hw : |w| = |z|) :
    |(|x| - q * (2 : ℝ) ^ u)| ≤ |(|x| - w)| ∧
      (w ≠ q * (2 : ℝ) ^ u → |(|x| - q * (2 : ℝ) ^ u)| = |(|x| - w)| → q % 2 = 0) := by
  have hu := two_zpow_pos u
  have hscale (v : ℝ) : |(|x| - v)| = |(|x| / (2 : ℝ) ^ u - v / (2 : ℝ) ^ u)| * (2 : ℝ) ^ u := by
    rw [← sub_div, abs_div, abs_of_pos hu, div_mul_cancel₀ _ hu.ne']
  obtain ⟨hle, htie⟩ := (FFmt.onGrid_of_is hf hz hw u).nearest hT hlow hn
  rw [hscale, hscale w, mul_div_cancel_right₀ _ hu.ne']
  refine ⟨mul_le_mul_of_nonneg_right hle hu.le, fun hne heq => htie ?_ (mul_right_cancel₀ hu.ne' heq)⟩
  rwa [ne_eq, div_eq_iff hu.ne']

include hx in
/-- The integer that a mode takes at the unit of the format is the best value. -/
theorem FFmt.best_of_takes (hk : q % 2 = 0 → k % 2 = 0) : f.Best mode x (sgn neg * (q * (2 : ℝ) ^ u)) k where
  rne hn b z hz := by
    have hs := sgn_mul_self neg
    have hdist (v : ℝ) : |x - v| = |(|x| - sgn neg * v)| := by
      have hv : x - v = sgn neg * (|x| - sgn neg * v) := by rw [mul_sub, ← hx, ← mul_assoc, hs, one_mul]
      rw [hv, abs_mul, abs_sgn, one_mul]
    obtain ⟨hle, htie⟩ := FFmt.nearest_of_takes hf hT hlow hn hz (w := sgn neg * z) (by rw [abs_mul, abs_sgn, one_mul])
    rw [hdist, hdist z, ← mul_assoc, hs, one_mul]
    refine ⟨hle, fun hne heq => hk (htie (fun h => hne ?_) heq)⟩
    rw [← h, ← mul_assoc, hs, one_mul]
  rtz hm := by
    obtain ⟨hle, hbest⟩ := FFmt.below_of_inward hf hT hlow (.inl hm)
    rw [abs_mul, abs_sgn, one_mul, abs_of_nonneg (by positivity)]
    exact ⟨hle, fun b z hz => hbest b z _ hz (abs_abs z)⟩
  rup hm := by
    subst hm
    cases neg with
    | false =>
      obtain ⟨hle, hbest⟩ := FFmt.above_of_outward hf hT hlow nofun (by simp [Rnd.Inward])
      rw [sgn, if_neg Bool.false_ne_true, one_mul] at hx ⊢
      rw [← hx] at hle hbest
      exact ⟨hle, fun b z hz => hbest b z z hz rfl⟩
    | true =>
      obtain ⟨hle, hbest⟩ := FFmt.below_of_inward hf hT hlow (.inr (.inl ⟨rfl, rfl⟩))
      rw [sgn, if_pos rfl, neg_one_mul] at hx ⊢
      refine ⟨by linarith, fun b z hz h => ?_⟩
      have := hbest b z (-z) hz (abs_neg z) (by linarith)
      linarith
  rdn hm := by
    subst hm
    cases neg with
    | false =>
      obtain ⟨hle, hbest⟩ := FFmt.below_of_inward hf hT hlow (.inr (.inr ⟨rfl, rfl⟩))
      rw [sgn, if_neg Bool.false_ne_true, one_mul] at hx ⊢
      rw [← hx] at hle hbest
      exact ⟨hle, fun b z hz => hbest b z z hz rfl⟩
    | true =>
      obtain ⟨hle, hbest⟩ := FFmt.above_of_outward hf hT hlow nofun (by simp [Rnd.Inward])
      rw [sgn, if_pos rfl, neg_one_mul] at hx ⊢
      refine ⟨by linarith, fun b z hz h => ?_⟩
      have := hbest b z (-z) hz (abs_neg z) (by linarith)
      linarith

end

/-! ### Overflow -/

theorem FFmt.overflowBits_of_inward {mode : Rnd} {neg : Bool} (h : mode.Inward neg) :
    f.overflowBits mode neg = f.signed neg f.maxBits := by
  obtain rfl | ⟨rfl, rfl⟩ | ⟨rfl, rfl⟩ := h <;> rfl

theorem FFmt.overflowBits_of_not_inward {mode : Rnd} {neg : Bool} (h : ¬ mode.Inward neg) :
    f.overflowBits mode neg = f.signed neg f.infBits := by
  cases mode with
  | rne => rfl
  | rtz => exact absurd (.inl rfl) h
  | rup =>
    cases neg with
    | false => rfl
    | true => exact absurd (.inr (.inl ⟨rfl, rfl⟩)) h
  | rdn =>
    cases neg with
    | true => rfl
    | false => exact absurd (.inr (.inr ⟨rfl, rfl⟩)) h

/-- What overflow answers. -/
def FFmt.overflowOut (f : FFmt) (mode : Rnd) (neg : Bool) : Nat × Flags :=
  (f.overflowBits mode neg,
    fOverflow ||| fInexact ||| flagIf (f.infBits ≤ f.overflowBits mode neg % f.signBit) fNF)

theorem FFmt.overflowOut_of_inward (hf : f.Ok) {mode : Rnd} {neg : Bool} (h : mode.Inward neg) :
    f.overflowOut mode neg = (f.signed neg f.maxBits, fOverflow ||| fInexact) := by
  have hlt := FFmt.infBits_lt_signBit hf
  have hmax : f.maxBits < f.infBits := Nat.sub_lt (FFmt.infBits_pos hf) Nat.one_pos
  rw [FFmt.overflowOut, FFmt.overflowBits_of_inward h, FFmt.signed_mod neg (hmax.trans hlt), decide_eq_false (not_le.2 hmax)]
  rfl

theorem FFmt.overflowOut_of_not_inward (hf : f.Ok) {mode : Rnd} {neg : Bool} (h : ¬ mode.Inward neg) :
    f.overflowOut mode neg = (f.signed neg f.infBits, fOverflow ||| fInexact ||| fNF) := by
  rw [FFmt.overflowOut, FFmt.overflowBits_of_not_inward h, FFmt.signed_mod neg (FFmt.infBits_lt_signBit hf),
    decide_eq_true le_rfl]
  rfl

/-! ### `round` -/

/-- The unit at which a significand has the bits of the format. -/
def FFmt.lead (f : FFmt) (m : Nat) (e : Int) : Int := e + bitLen m - (f.mb + 1)

/-- Below the normal numbers once rounded as though the exponent had no least value. -/
def FFmt.tinyAt (f : FFmt) (mode : Rnd) (neg : Bool) (m : Nat) (e : Int) (sticky : Bool) : Bool :=
  f.lead m e < f.umin && (bitLen (roundAt mode neg m e (f.lead m e) sticky).1 : Int) + f.lead m e ≤ f.umin + f.mb

/-- What `round` answers for the significand q that is taken at the unit 2^u. -/
def FFmt.answer (f : FFmt) (mode : Rnd) (neg : Bool) (q : Nat) (u : Int) (inex tiny : Bool) : Nat × Flags :=
  if f.umax < u ∨ (u = f.umax ∧ 2 ^ (f.mb + 1) ≤ q) then f.overflowOut mode neg
  else (f.pack neg q u, flagIf inex fInexact ||| flagIf (inex && tiny) fUnderflow)

theorem FFmt.round_eq (f : FFmt) (mode : Rnd) (neg : Bool) {m : Nat} (e : Int) {sticky : Bool}
    (hm : ¬ (m = 0 ∧ sticky = false)) : f.round mode neg m e sticky =
      f.answer mode neg (roundAt mode neg m e (max (f.lead m e) f.umin) sticky).1 (max (f.lead m e) f.umin)
        (roundAt mode neg m e (max (f.lead m e) f.umin) sticky).2 (f.tinyAt mode neg m e sticky) := by
  have hcond : (decide (m = 0) && !sticky) = false := by simpa using hm
  rw [FFmt.round, hcond, if_neg Bool.false_ne_true]
  simp only [FFmt.answer, Bool.or_eq_true, Bool.and_eq_true, decide_eq_true_eq]
  rfl

theorem FFmt.round_zero (f : FFmt) (mode : Rnd) (neg : Bool) (e : Int) : f.round mode neg 0 e = (f.signed neg 0, 0) := rfl

end

section
variable {f : FFmt} {mode : Rnd} {neg sticky : Bool} {x : ℝ} {m : Nat} {e : Int}

/-- At its leading unit a magnitude has as many bits as the format. -/
theorem Reps.lead_bounds (f : FFmt) (h : Reps x m e sticky) (hm : m ≠ 0) :
    2 ^ f.mb * (2 : ℝ) ^ f.lead m e ≤ x ∧ x < 2 ^ (f.mb + 1) * (2 : ℝ) ^ f.lead m e := by
  obtain ⟨hlo, hhi, -⟩ := h
  have he := two_zpow_pos e
  obtain ⟨k, hk⟩ : ∃ k, bitLen m = k + 1 :=
    Nat.exists_eq_succ_of_ne_zero fun h0 => hm (Nat.lt_one_iff.1 (bitLen_le_iff.1 h0.le))
  have hl : f.lead m e + f.mb = e + k := by rw [FFmt.lead, hk]; push_cast; ring
  have hmlo : (2 : ℝ) ^ k ≤ m := by exact_mod_cast lt_bitLen_iff.1 (by omega)
  have hmhi : (m : ℝ) + 1 ≤ 2 ^ k * 2 := by
    have := bitLen_le_iff.1 hk.le
    rw [pow_succ] at this
    exact_mod_cast this
  rw [pow_succ, mul_right_comm, ← two_zpow_add_nat, hl, two_zpow_add_nat]
  constructor
  · calc 2 ^ k * (2 : ℝ) ^ e ≤ m * (2 : ℝ) ^ e := by gcongr
      _ ≤ x := hlo
  · calc x < (m + 1) * (2 : ℝ) ^ e := hhi
      _ ≤ 2 ^ k * 2 * (2 : ℝ) ^ e := by gcongr
      _ = 2 ^ k * (2 : ℝ) ^ e * 2 := by ring

/-- A value beyond the range, as the mode sees it. -/
def FFmt.Past (f : FFmt) (mode : Rnd) (neg : Bool) (x : ℝ) : Prop :=
  mode.Reaches neg x ((2 : ℝ) ^ (f.umax + f.mb + 1)) ((2 : ℝ) ^ f.umax)

/-- A value below the normal numbers, as the mode sees it. -/
def FFmt.Tiny (f : FFmt) (mode : Rnd) (neg : Bool) (x : ℝ) : Prop :=
  ¬ mode.Reaches neg x ((2 : ℝ) ^ (f.umin + f.mb)) ((2 : ℝ) ^ (f.umin - 1))

/-- A magnitude with the bits of the format at one unit is away from a magnitude with one bit more at a higher one. -/
theorem add_unit_le {u w : Int} {k : Nat} (h : x < 2 ^ (k + 1) * (2 : ℝ) ^ u) (huw : u < w) :
    x + (2 : ℝ) ^ w ≤ 2 ^ (k + 1) * (2 : ℝ) ^ w := by
  have hstep : (2 : ℝ) ^ u * 2 ≤ (2 : ℝ) ^ w := by
    rw [← zpow_add_one₀ two_ne_zero]
    exact zpow_le_zpow_right₀ one_le_two (by omega)
  have hk : (2 : ℝ) ^ k * ((2 : ℝ) ^ u * 2) ≤ 2 ^ k * (2 : ℝ) ^ w := mul_le_mul_of_nonneg_left hstep (by positivity)
  have hone : (2 : ℝ) ^ w ≤ 2 ^ k * (2 : ℝ) ^ w := le_mul_of_one_le_left (two_zpow_pos w).le (one_le_pow₀ one_le_two)
  rw [pow_succ] at h ⊢
  linarith

/-- `round` finds a value beyond the range by the significand that it takes. -/
theorem FFmt.past_iff {u : Int} {q : Nat} (hT : mode.Takes neg (x / (2 : ℝ) ^ u) q)
    (hle : x < 2 ^ (f.mb + 1) * (2 : ℝ) ^ u) (hge : f.umax < u → 2 ^ f.mb * (2 : ℝ) ^ u ≤ x) :
    f.Past mode neg x ↔ f.umax < u ∨ (u = f.umax ∧ 2 ^ (f.mb + 1) ≤ q) := by
  have htop : (2 : ℝ) ^ (f.umax + f.mb + 1) = 2 ^ (f.mb + 1) * (2 : ℝ) ^ f.umax := by
    rw [add_assoc, ← two_zpow_add_nat]
    push_cast
    rfl
  obtain hlt | rfl | hgt := lt_trichotomy u f.umax
  · refine iff_of_false (Rnd.not_reaches_of_le (two_zpow_pos _) ?_) (by omega)
    rw [htop]
    exact add_unit_le hle hlt
  · have hiff := hT.reaches_iff (k := 2 ^ (f.mb + 1)) (by rw [pow_succ]; exact Nat.mul_mod_left _ _)
    rw [Rnd.reaches_div (two_zpow_pos _), one_mul] at hiff
    push_cast at hiff
    rw [FFmt.Past, htop, hiff]
    simp
  · refine iff_of_true (Rnd.reaches_of_le (two_zpow_pos _) ?_) (.inl hgt)
    calc (2 : ℝ) ^ (f.umax + f.mb + 1) ≤ (2 : ℝ) ^ (u + f.mb) := zpow_le_zpow_right₀ one_le_two (by omega)
      _ = 2 ^ f.mb * (2 : ℝ) ^ u := two_zpow_add_nat u f.mb
      _ ≤ x := hge hgt

/-- `round` finds a tiny value by the significand that it takes at the leading unit. -/
theorem FFmt.tinyAt_iff (h : Reps x m e sticky) (hm : m ≠ 0) (hprec : sticky = true → e < f.lead m e) :
    f.tinyAt mode neg m e sticky = true ↔ f.Tiny mode neg x := by
  obtain ⟨hT, -⟩ := roundAt_takes mode neg h hprec
  obtain ⟨hlo, hhi⟩ := h.lead_bounds f hm
  generalize hl : f.lead m e = l at hT hlo hhi
  have hlow : (2 : ℝ) ^ (f.umin + f.mb) = 2 ^ (f.mb + 1) * (2 : ℝ) ^ (f.umin - 1) := by
    rw [← two_zpow_add_nat]
    push_cast
    congr 1
    ring
  have htest : f.tinyAt mode neg m e sticky = true ↔
      l < f.umin ∧ (bitLen (roundAt mode neg m e l sticky).1 : Int) + l ≤ f.umin + f.mb := by
    rw [FFmt.tinyAt, hl, Bool.and_eq_true, decide_eq_true_eq, decide_eq_true_eq]
  rw [htest]
  generalize (roundAt mode neg m e l sticky).1 = q at hT
  obtain hlt | rfl | hgt := lt_trichotomy l (f.umin - 1)
  · have hq : q ≤ 2 ^ (f.mb + 1) := hT.ge_of_ge (by rw [div_le_iff₀ (two_zpow_pos l)]; exact_mod_cast hhi.le)
    have hlen : bitLen q ≤ f.mb + 2 := bitLen_le_iff.2 (hq.trans_lt (Nat.pow_lt_pow_right Nat.one_lt_two (by omega)))
    refine iff_of_true ⟨by omega, by omega⟩ (Rnd.not_reaches_of_le (two_zpow_pos _) ?_)
    rw [hlow]
    exact add_unit_le hhi hlt
  · have hiff := hT.reaches_iff (k := 2 ^ (f.mb + 1)) (by rw [pow_succ]; exact Nat.mul_mod_left _ _)
    rw [Rnd.reaches_div (two_zpow_pos _), one_mul] at hiff
    push_cast at hiff
    rw [FFmt.Tiny, hlow, hiff, not_le, ← bitLen_le_iff]
    omega
  · refine iff_of_false (by omega) (not_not.2 (Rnd.reaches_of_le (two_zpow_pos _) ?_))
    calc (2 : ℝ) ^ (f.umin + f.mb) ≤ (2 : ℝ) ^ (l + f.mb) := zpow_le_zpow_right₀ one_le_two (by omega)
      _ = 2 ^ f.mb * (2 : ℝ) ^ l := two_zpow_add_nat l f.mb
      _ ≤ x := hlo

/-- What is left to show of `Rounds`, in terms of what rounding reaches and of the best value of the format. -/
theorem FFmt.Rounds.intro {out : Nat × Flags} (hneg : neg = true ↔ x < 0)
    (hpast : f.Past mode neg |x| → mode.Inward neg → out = (f.signed neg f.maxBits, fOverflow ||| fInexact))
    (hpast' : f.Past mode neg |x| → ¬ mode.Inward neg → out = (f.signed neg f.infBits, fOverflow ||| fInexact ||| fNF))
    (hin : ¬ f.Past mode neg |x| → ∃ q u y, f.decode out.1 = .fin neg q u ∧ (FVal.fin neg q u).Is y ∧ f.Best mode x y q ∧
      (y = x → out.2 = 0) ∧ (y ≠ x → f.Tiny mode neg |x| → out.2 = fInexact ||| fUnderflow) ∧
      (y ≠ x → ¬ f.Tiny mode neg |x| → out.2 = fInexact)) : f.Rounds mode x out := by
  refine ⟨neg, hneg, hpast, hpast', fun hp => ?_⟩
  obtain ⟨q, u, y, hdec, hy, ⟨hrne, hrtz, hrup, hrdn⟩, hflags⟩ := hin hp
  exact ⟨q, u, y, hdec, hy, hrne, hrtz, hrup, hrdn, hflags⟩

theorem roundFlags_exact {inex : Bool} (tiny : Bool) (h : inex = false) :
    flagIf inex fInexact ||| flagIf (inex && tiny) fUnderflow = 0 := by
  simp [h, flagIf]

theorem sgn_ne_zero (neg : Bool) : sgn neg ≠ 0 := by cases neg <;> norm_num [sgn]

theorem eq_sgn_mul_abs (hneg : neg = true ↔ x < 0) : x = sgn neg * |x| := by
  cases neg with
  | false => rw [abs_of_nonneg (not_lt.1 (mt hneg.2 Bool.false_ne_true))]; exact (one_mul x).symm
  | true => rw [abs_of_neg (hneg.1 rfl)]; exact (neg_one_mul (-x)).symm ▸ (neg_neg x).symm

/-- The significand that the mode takes at the unit of the format is the answer that R126 asks for. -/
theorem FFmt.answer_rounds (hf : f.Ok) {q : Nat} {u : Int} {inex tiny : Bool} (hneg : neg = true ↔ x < 0)
    (hT : mode.Takes neg (|x| / (2 : ℝ) ^ u) q) (hinex : inex = true ↔ |x| ≠ q * (2 : ℝ) ^ u)
    (htiny : tiny = true ↔ f.Tiny mode neg |x|) (hu : f.umin ≤ u) (hhi : |x| < 2 ^ (f.mb + 1) * (2 : ℝ) ^ u)
    (hlow : u = f.umin ∨ 2 ^ f.mb * (2 : ℝ) ^ u ≤ |x|) : f.Rounds mode x (f.answer mode neg q u inex tiny) := by
  have hx := eq_sgn_mul_abs hneg
  have hq : q ≤ 2 ^ (f.mb + 1) := hT.ge_of_ge (by rw [div_le_iff₀ (two_zpow_pos u)]; exact_mod_cast hhi.le)
  have hlow' : u = f.umin ∨ 2 ^ f.mb ≤ |x| / (2 : ℝ) ^ u := hlow.imp_right (le_div_iff₀ (two_zpow_pos u)).2
  have hpast := FFmt.past_iff hT hhi (fun hgt => hlow.resolve_left (hf.umin_le_umax.trans_lt hgt).ne')
  unfold FFmt.answer
  refine FFmt.Rounds.intro hneg (fun hp hi => ?_) (fun hp ho => ?_) (fun hp => ?_)
  · rw [if_pos (hpast.1 hp), FFmt.overflowOut_of_inward hf hi]
  · rw [if_pos (hpast.1 hp), FFmt.overflowOut_of_not_inward hf ho]
  · have hin := mt hpast.2 hp
    rw [if_neg hin]
    rw [not_or, not_lt] at hin
    obtain ⟨k, v, hdec, hval, heven⟩ := FFmt.decode_pack hf neg hu hin.1 hq hin.2
      (hlow'.imp_right fun h => hT.le_of_le (by exact_mod_cast h))
    refine ⟨k, v, sgn neg * (q * (2 : ℝ) ^ u), hdec, FVal.is_fin.2 (by rw [hval]), FFmt.best_of_takes hf hT hlow' hx heven, ?_⟩
    have hne : sgn neg * (q * (2 : ℝ) ^ u) ≠ x ↔ inex = true := by
      conv_lhs => rw [hx]
      rw [hinex, Ne, mul_right_inj' (sgn_ne_zero neg), eq_comm]
    refine ⟨fun hy => roundFlags_exact tiny (Bool.eq_false_iff.2 (mt hne.2 (not_not.2 hy))), fun hy ht => ?_, fun hy ht => ?_⟩
    · rw [hne.1 hy, htiny.2 ht]
      rfl
    · rw [hne.1 hy, Bool.eq_false_iff.2 (mt htiny.1 ht)]
      rfl

/-- R126: a magnitude of enough bits, and less than one unit more, rounded once. -/
theorem FFmt.round_rounds (hf : f.Ok) (h : Reps |x| m e sticky) (hm : m ≠ 0) (hneg : neg = true ↔ x < 0)
    (hprec : sticky = true → f.mb + 1 < bitLen m) : f.Rounds mode x (f.round mode neg m e sticky) := by
  have hlead : sticky = true → e < f.lead m e := fun hs => by
    have := hprec hs
    rw [FFmt.lead]
    omega
  have hle : f.lead m e ≤ max (f.lead m e) f.umin := le_max_left _ _
  obtain ⟨hlo, hhi⟩ := h.lead_bounds f hm
  obtain ⟨hT, hinex⟩ := roundAt_takes mode neg h (fun hs => (hlead hs).trans_le hle)
  rw [FFmt.round_eq f mode neg e (fun h0 => hm h0.1)]
  refine FFmt.answer_rounds hf hneg hT hinex (FFmt.tinyAt_iff h hm hlead) (le_max_right _ _) ?_ ?_
  · exact hhi.trans_le (mul_le_mul_of_nonneg_left (zpow_le_zpow_right₀ one_le_two hle) (by positivity))
  · obtain hmax | hmax := max_choice (f.lead m e) f.umin
    · exact .inr (hmax.symm ▸ hlo)
    · exact .inl hmax

/-- An exact value rounded once. -/
theorem FFmt.round_rounds_exact (hf : f.Ok) (hm : 0 < m) (hx : (FVal.fin neg m e).Is x) :
    f.Rounds mode x (f.round mode neg m e) := by
  have hpos : 0 < m * (2 : ℝ) ^ e := by positivity
  refine FFmt.round_rounds hf (hx.abs_eq ▸ reps_exact m e) hm.ne' ?_ (fun h => absurd h Bool.false_ne_true)
  rw [FVal.is_fin.1 hx]
  cases neg with
  | false => simpa [sgn] using hpos.le
  | true => simpa [sgn] using hpos

/-- The same where the value may be zero. -/
theorem FFmt.round_gives (hf : f.Ok) (hx : (FVal.fin neg m e).Is x) : f.Gives mode x neg (f.round mode neg m e) := by
  have hzero : x = 0 ↔ m = 0 := by
    rw [FVal.is_fin.1 hx, mul_eq_zero, mul_eq_zero, Nat.cast_eq_zero]
    simp [sgn_ne_zero, (two_zpow_pos e).ne']
  refine ⟨fun h => FFmt.round_rounds_exact hf (Nat.pos_of_ne_zero (mt hzero.2 h)) hx, fun h => ?_⟩
  rw [hzero.1 h]
  rfl

end

end Sys2Proof.Machine
end

section
/-! SUPPORT. Float arithmetic on finite operands (R127 to R130): each operation rounds its exact value. -/

namespace Sys2Proof.Machine

section
variable {f : FFmt} {r : Rnd} {n n1 n2 n3 : Bool} {m m1 m2 m3 : Nat} {e e1 e2 e3 : Int} {x y z : ℝ}

/-! ### Sums -/

/-- A signed number in units of 2^k. -/
def signedUnits (n : Bool) (m : Nat) (e k : Int) : Int := (if n then -1 else 1) * (m * 2 ^ (e - k).toNat : Nat)

/-- A number is an integer multiple of each unit no larger than its own. -/
theorem FVal.Is.eq_signedUnits (h : (FVal.fin n m e).Is x) {k : Int} (hk : k ≤ e) :
    x = signedUnits n m e k * (2 : ℝ) ^ k := by
  obtain ⟨j, rfl⟩ := Int.le.dest hk
  rw [FVal.is_fin.1 h, signedUnits, add_sub_cancel_left, Int.toNat_natCast, two_zpow_add_nat, sgn]
  push_cast
  cases n <;> simp only [Bool.false_eq_true, if_true, if_false] <;> ring

theorem addFin_eq (r : Rnd) (n1 : Bool) (m1 : Nat) (e1 : Int) (n2 : Bool) (m2 : Nat) (e2 : Int) :
    addFin r n1 m1 e1 n2 m2 e2 =
      let c := signedUnits n1 m1 e1 (min e1 e2) + signedUnits n2 m2 e2 (min e1 e2)
      if c = 0 then ((if n1 == n2 then n1 else r == .rdn), 0, min e1 e2) else (decide (c < 0), c.natAbs, min e1 e2) := rfl

theorem FVal.is_natAbs (c : Int) (k : Int) : (FVal.fin (decide (c < 0)) c.natAbs k).Is (c * (2 : ℝ) ^ k) := by
  rw [FVal.is_fin, ← mul_assoc]
  congr 1
  rw [sgn, Nat.cast_natAbs, Int.cast_abs]
  by_cases h : c < 0
  · rw [decide_eq_true h, if_pos rfl, abs_of_neg (by exact_mod_cast h), neg_one_mul, neg_neg]
  · rw [decide_eq_false h, if_neg Bool.false_ne_true, abs_of_nonneg (by exact_mod_cast not_lt.1 h), one_mul]

/-- The sum of two numbers is exact, and R126 gives its sign where it is zero. -/
theorem addFin_is (r : Rnd) (hx : (FVal.fin n1 m1 e1).Is x) (hy : (FVal.fin n2 m2 e2).Is y) :
    let s := addFin r n1 m1 e1 n2 m2 e2
    (FVal.fin s.1 s.2.1 s.2.2).Is (x + y) ∧ (x + y = 0 → s.1 = if n1 = n2 then n1 else r == .rdn) := by
  have hsum : x + y = ((signedUnits n1 m1 e1 (min e1 e2) + signedUnits n2 m2 e2 (min e1 e2) : Int) : ℝ) *
      (2 : ℝ) ^ min e1 e2 := by
    rw [hx.eq_signedUnits (min_le_left e1 e2), hy.eq_signedUnits (min_le_right e1 e2), ← add_mul, Int.cast_add]
  simp only [addFin_eq, beq_iff_eq]
  generalize signedUnits n1 m1 e1 (min e1 e2) + signedUnits n2 m2 e2 (min e1 e2) = c at hsum
  split
  next h0 =>
    rw [hsum, h0]
    exact ⟨by simp [FVal.is_fin], fun _ => rfl⟩
  next h0 =>
    refine ⟨hsum ▸ FVal.is_natAbs c (min e1 e2), fun h => absurd ?_ h0⟩
    rw [hsum, mul_eq_zero] at h
    exact_mod_cast h.resolve_right (two_zpow_pos _).ne'

theorem FFmt.Gives.zero_eq {zero zero' : Bool} {out : Nat × Flags} (h : f.Gives r x zero out) (h0 : x = 0 → zero = zero') :
    f.Gives r x zero' out :=
  ⟨h.1, fun hx => h0 hx ▸ h.2 hx⟩

theorem FFmt.add_gives (hf : f.Ok) (hx : (FVal.fin n1 m1 e1).Is x) (hy : (FVal.fin n2 m2 e2).Is y) :
    f.Gives r (x + y) (if n1 = n2 then n1 else r == .rdn) (f.add r (.fin n1 m1 e1) (.fin n2 m2 e2)) := by
  obtain ⟨hsum, hzero⟩ := addFin_is r hx hy
  exact (FFmt.round_gives hf hsum).zero_eq hzero

theorem FVal.Is.neg (hx : (FVal.fin n m e).Is x) : (FVal.fin (!n) m e).Is (-x) := by
  rw [FVal.is_fin] at hx ⊢
  rw [hx]
  cases n <;> simp [sgn]

theorem FVal.Is.mul (hx : (FVal.fin n1 m1 e1).Is x) (hy : (FVal.fin n2 m2 e2).Is y) :
    (FVal.fin (n1 != n2) (m1 * m2) (e1 + e2)).Is (x * y) := by
  rw [FVal.is_fin] at hx hy ⊢
  have hs : sgn (n1 != n2) = sgn n1 * sgn n2 := by cases n1 <;> cases n2 <;> norm_num [sgn]
  rw [hx, hy, hs, zpow_add₀ two_ne_zero]
  push_cast
  ring

theorem FFmt.mul_gives (hf : f.Ok) (hx : (FVal.fin n1 m1 e1).Is x) (hy : (FVal.fin n2 m2 e2).Is y) :
    f.Gives r (x * y) (n1 != n2) (f.mul r (.fin n1 m1 e1) (.fin n2 m2 e2)) :=
  FFmt.round_gives hf (hx.mul hy)

theorem FFmt.fma_fin (f : FFmt) (r : Rnd) (n1 : Bool) (m1 : Nat) (e1 : Int) (n2 : Bool) (m2 : Nat) (e2 : Int) (n3 : Bool)
    (m3 : Nat) (e3 : Int) : f.fma r (.fin n1 m1 e1) (.fin n2 m2 e2) (.fin n3 m3 e3) =
      let s := addFin r (n1 != n2) (m1 * m2) (e1 + e2) n3 m3 e3
      f.round r s.1 s.2.1 s.2.2 := by
  simp [FFmt.fma, FVal.isNan, FVal.isInf, FVal.neg]

theorem FFmt.fma_gives (hf : f.Ok) (hx : (FVal.fin n1 m1 e1).Is x) (hy : (FVal.fin n2 m2 e2).Is y)
    (hz : (FVal.fin n3 m3 e3).Is z) : f.Gives r (x * y + z) (if (n1 != n2) = n3 then n1 != n2 else r == .rdn)
      (f.fma r (.fin n1 m1 e1) (.fin n2 m2 e2) (.fin n3 m3 e3)) := by
  obtain ⟨hsum, hzero⟩ := addFin_is r (hx.mul hy) hz
  rw [FFmt.fma_fin]
  exact (FFmt.round_gives hf hsum).zero_eq hzero

/-! ### Quotients -/

/-- A quotient by its whole part. -/
theorem reps_div (a : Nat) {d : Nat} (hd : 0 < d) (e : Int) :
    Reps ((a / d : ℝ) * (2 : ℝ) ^ e) (a / d) e (a % d != 0) := by
  have he := two_zpow_pos e
  have hd' : (0 : ℝ) < d := by exact_mod_cast hd
  have hlo : ((a / d : Nat) : ℝ) ≤ a / d := Nat.cast_div_le
  have hhi : (a / d : ℝ) < (a / d : Nat) + 1 := by
    rw [div_lt_iff₀ hd']
    exact_mod_cast Nat.lt_mul_of_div_lt (Nat.lt_succ_self _) hd
  have hrem : (a : ℝ) / d = (a / d : Nat) ↔ a % d = 0 := by
    rw [div_eq_iff hd'.ne', ← Nat.dvd_iff_mod_eq_zero, Nat.dvd_iff_div_mul_eq, eq_comm]
    exact_mod_cast Iff.rfl
  refine ⟨mul_le_mul_of_nonneg_right hlo he.le, mul_lt_mul_of_pos_right hhi he, ?_⟩
  rw [bne_iff_ne, Ne, Ne, mul_left_inj' he.ne', hrem]

/-- A quotient of significands of the format has bits enough. -/
theorem lt_bitLen_div (hf : f.Ok) {a d k : Nat} (ha : 2 ^ (24 + k) ≤ a) (hd : 0 < d) (hk : d ≤ 2 ^ k) :
    f.mb + 1 < bitLen (a / d) := by
  refine lt_bitLen_iff.2 ((Nat.pow_le_pow_right Nat.two_pos (Nat.succ_le_succ hf.mb_le)).trans ?_)
  rw [Nat.le_div_iff_mul_le hd]
  calc 2 ^ 24 * d ≤ 2 ^ 24 * 2 ^ k := Nat.mul_le_mul_left _ hk
    _ ≤ a := by rw [← pow_add]; exact ha

theorem FVal.Is.neg_iff (h : (FVal.fin n m e).Is x) (hx : x ≠ 0) : n = true ↔ x < 0 := by
  have hpos : 0 < m * (2 : ℝ) ^ e := h.abs_eq ▸ abs_pos.2 hx
  rw [FVal.is_fin.1 h]
  cases n with
  | false => simpa [sgn] using hpos.le
  | true => simpa [sgn] using hpos

theorem FVal.Is.eq_zero_iff (h : (FVal.fin n m e).Is x) : x = 0 ↔ m = 0 := by
  rw [FVal.is_fin.1 h, mul_eq_zero, mul_eq_zero, Nat.cast_eq_zero]
  simp [sgn_ne_zero, (two_zpow_pos e).ne']

theorem neg_div_iff (hx : n1 = true ↔ x < 0) (hy : n2 = true ↔ y < 0) (hx0 : x ≠ 0) (hy0 : y ≠ 0) :
    (n1 != n2) = true ↔ x / y < 0 := by
  have hpos {b : Bool} {w : ℝ} (h : b = true ↔ w < 0) (hw : 0 < w) : b = false := Bool.eq_false_iff.2 (mt h.1 hw.not_gt)
  rw [div_neg_iff]
  obtain hx' | hx' := hx0.lt_or_gt <;> obtain hy' | hy' := hy0.lt_or_gt
  · simp [hx.2 hx', hy.2 hy', hx'.not_gt, hy'.not_gt]
  · simp [hx.2 hx', hpos hy hy', hx', hy']
  · simp [hpos hx hx', hy.2 hy', hx', hy']
  · simp [hpos hx hx', hpos hy hy', hx'.not_gt, hy'.not_gt]

/-- R130: the quotient, of significands below 2^24, from 160 bits of it and whether more follow. -/
theorem FFmt.div_gives (hf : f.Ok) (hx : (FVal.fin n1 m1 e1).Is x) (hy : (FVal.fin n2 m2 e2).Is y) (hy0 : y ≠ 0)
    (hm2 : m2 < 2 ^ 24) : f.Gives r (x / y) (n1 != n2) (f.div r (.fin n1 m1 e1) (.fin n2 m2 e2)) := by
  have hm2' : m2 ≠ 0 := mt hy.eq_zero_iff.2 hy0
  have hdiv : f.div r (.fin n1 m1 e1) (.fin n2 m2 e2) =
      f.round r (n1 != n2) (m1 * 2 ^ 160 / m2) (e1 - e2 - 160) (m1 * 2 ^ 160 % m2 != 0) := by
    simp only [FFmt.div, if_neg hm2']
    rfl
  rw [hdiv]
  by_cases hx0 : x = 0
  · refine ⟨fun h => absurd (by rw [hx0, zero_div]) h, fun _ => ?_⟩
    rw [hx.eq_zero_iff.1 hx0, Nat.zero_mul, Nat.zero_div, Nat.zero_mod]
    rfl
  · have hm1 : m1 ≠ 0 := mt hx.eq_zero_iff.2 hx0
    have hlen := lt_bitLen_div hf (a := m1 * 2 ^ 160) (k := 24) (by
      have := Nat.pos_of_ne_zero hm1
      omega) (Nat.pos_of_ne_zero hm2') hm2.le
    have hval : |x / y| = ((m1 * 2 ^ 160 : Nat) / m2 : ℝ) * (2 : ℝ) ^ (e1 - e2 - 160) := by
      rw [abs_div, hx.abs_eq, hy.abs_eq, zpow_sub₀ two_ne_zero, zpow_sub₀ two_ne_zero]
      push_cast
      have := two_zpow_pos e2
      field_simp
      norm_cast
    refine ⟨fun h => FFmt.round_rounds hf (hval ▸ reps_div _ (Nat.pos_of_ne_zero hm2') _) ?_ ?_ (fun _ => hlen), fun h => ?_⟩
    · intro h0
      rw [h0] at hlen
      exact absurd hlen (Nat.not_lt_zero _)
    · exact neg_div_iff (hx.neg_iff hx0) (hy.neg_iff hy0) hx0 hy0
    · exact absurd h (div_ne_zero hx0 hy0)

/-! ### Reciprocals and roots (R129) -/

theorem FFmt.rcp_rounds (hf : f.Ok) (hx : (FVal.fin n m e).Is x) (hx0 : x ≠ 0) (hm24 : m < 2 ^ 24) :
    f.Rounds r (1 / x) (f.fun_ .rcp r (.fin n m e)) := by
  have hm : m ≠ 0 := mt hx.eq_zero_iff.2 hx0
  have hfun : f.fun_ .rcp r (.fin n m e) = f.round r n (2 ^ 200 / m) (-e - 200) (2 ^ 200 % m != 0) := by
    simp only [FFmt.fun_, if_neg hm]
  have hlen := lt_bitLen_div hf (a := 2 ^ 200) (k := 24) (by norm_num) (Nat.pos_of_ne_zero hm) hm24.le
  have hval : |1 / x| = ((2 ^ 200 : Nat) / m : ℝ) * (2 : ℝ) ^ (-e - 200) := by
    rw [abs_div, hx.abs_eq, abs_one, zpow_sub₀ two_ne_zero, zpow_neg]
    have := two_zpow_pos e
    have : (m : ℝ) ≠ 0 := by exact_mod_cast hm
    push_cast
    field_simp
    norm_cast
  rw [hfun]
  refine FFmt.round_rounds hf (hval ▸ reps_div _ (Nat.pos_of_ne_zero hm) _) ?_ ?_ (fun _ => hlen)
  · intro h0
    rw [h0] at hlen
    exact absurd hlen (Nat.not_lt_zero _)
  · rw [one_div_neg]
    exact hx.neg_iff hx0

theorem isqrtFrom_eq_sqrt (n : Nat) : ∀ k s : Nat, s * s ≤ n → n < (s + 2 ^ k) * (s + 2 ^ k) → isqrtFrom k n s = n.sqrt
  | 0, s, hlo, hhi => Nat.eq_sqrt.2 ⟨hlo, hhi⟩
  | k + 1, s, hlo, hhi => by
    rw [isqrtFrom]
    rw [pow_succ, mul_two, ← add_assoc] at hhi
    split
    next h => exact isqrtFrom_eq_sqrt n k _ h hhi
    next h => exact isqrtFrom_eq_sqrt n k _ hlo (not_le.1 h)

theorem isqrt_eq_sqrt (n : Nat) : isqrt n = n.sqrt := by
  refine isqrtFrom_eq_sqrt n _ 0 (Nat.zero_le n) ?_
  rw [Nat.zero_add, ← pow_add]
  exact bitLen_le_iff.1 (by omega)

/-- The root of a quotient by its whole part. -/
theorem reps_sqrt (a : Nat) {d : Nat} (hd : 0 < d) (e : Int) :
    Reps (√(a / d : ℝ) * (2 : ℝ) ^ e) (a / d).sqrt e ((a / d).sqrt * (a / d).sqrt * d != a) := by
  have he := two_zpow_pos e
  have hd' : (0 : ℝ) < d := by exact_mod_cast hd
  have hnn : (0 : ℝ) ≤ a / d := by positivity
  have hlo : ((a / d).sqrt : ℝ) ≤ √(a / d : ℝ) := by
    refine Real.le_sqrt_of_sq_le ?_
    rw [le_div_iff₀ hd', sq]
    exact_mod_cast (Nat.le_div_iff_mul_le hd).1 (Nat.sqrt_le (a / d))
  have hhi : √(a / d : ℝ) < (a / d).sqrt + 1 := by
    rw [Real.sqrt_lt hnn (by positivity), div_lt_iff₀ hd', sq]
    exact_mod_cast Nat.lt_mul_of_div_lt (Nat.lt_succ_sqrt (a / d)) hd
  have heq : √(a / d : ℝ) = (a / d).sqrt ↔ (a / d).sqrt * (a / d).sqrt * d = a := by
    rw [Real.sqrt_eq_iff_mul_self_eq hnn (by positivity), div_eq_iff hd'.ne', eq_comm]
    exact_mod_cast Iff.rfl
  refine ⟨mul_le_mul_of_nonneg_right hlo he.le, mul_lt_mul_of_pos_right hhi he, ?_⟩
  rw [bne_iff_ne, Ne, Ne, mul_left_inj' he.ne', heq]

/-- A root from the whole part of a quotient that has bits enough. -/
theorem FFmt.sqrt_rounds (hf : f.Ok) {a d : Nat} (hd : 0 < d) (ha : 2 ^ 48 * d ≤ a) {h : Int}
    (hval : x = (a / d : ℝ) * ((2 : ℝ) ^ h) ^ 2) :
    f.Rounds r (√x) (f.round r false (isqrt (a / d)) h (isqrt (a / d) * isqrt (a / d) * d != a)) := by
  have hroot : |√x| = √(a / d : ℝ) * (2 : ℝ) ^ h := by
    rw [abs_of_nonneg (Real.sqrt_nonneg x), hval, Real.sqrt_mul (by positivity), Real.sqrt_sq (two_zpow_pos h).le]
  have hbig : 2 ^ 24 ≤ (a / d).sqrt := Nat.le_sqrt.2 ((Nat.le_div_iff_mul_le hd).2 ha)
  rw [isqrt_eq_sqrt]
  refine FFmt.round_rounds hf (hroot ▸ reps_sqrt a hd h) (by omega) ?_ (fun _ => lt_bitLen_iff.2 ?_)
  · exact iff_of_false Bool.false_ne_true (not_lt.2 (Real.sqrt_nonneg x))
  · exact (Nat.pow_le_pow_right Nat.two_pos (Nat.succ_le_succ hf.mb_le)).trans hbig

theorem evenExp_spec (m : Nat) (e : Int) : ∃ (k : Nat) (h : Int), evenExp m e = (k, 2 * h) ∧
    k * ((2 : ℝ) ^ h) ^ 2 = m * (2 : ℝ) ^ e ∧ m ≤ k ∧ k ≤ 2 * m := by
  unfold evenExp
  split
  next h =>
    obtain ⟨j, rfl⟩ := Int.dvd_of_emod_eq_zero h
    exact ⟨m, j, rfl, by rw [← zpow_natCast, ← zpow_mul, mul_comm j]; rfl, le_rfl, by omega⟩
  next h =>
    obtain ⟨h, hh⟩ : ∃ h, e - 1 = 2 * h := ⟨(e - 1) / 2, by omega⟩
    refine ⟨2 * m, h, by rw [hh], ?_, by omega, le_rfl⟩
    have he : e = 2 * h + 1 := by omega
    rw [he, zpow_add_one₀ two_ne_zero, ← zpow_natCast, ← zpow_mul, mul_comm h]
    push_cast
    ring

theorem FFmt.sqrt_fun_rounds (hf : f.Ok) (hx : (FVal.fin n m e).Is x) (hx0 : 0 < x) :
    f.Rounds r (√x) (f.fun_ .sqrt r (.fin n m e)) := by
  have hm : m ≠ 0 := mt hx.eq_zero_iff.2 hx0.ne'
  have hn : n = false := Bool.eq_false_iff.2 (mt (hx.neg_iff hx0.ne').1 hx0.not_gt)
  obtain ⟨k, h, hev, hval, hmk, -⟩ := evenExp_spec m e
  have hfun : f.fun_ .sqrt r (.fin n m e) = f.round r false (isqrt (k * 2 ^ 160 / 1)) (h - 80)
      (isqrt (k * 2 ^ 160 / 1) * isqrt (k * 2 ^ 160 / 1) * 1 != k * 2 ^ 160) := by
    simp only [FFmt.fun_, if_neg hm, hn, Bool.false_eq_true, if_false, sqrtDigits, hev, Nat.div_one, Nat.mul_one]
    congr 1
    omega
  rw [hfun]
  refine FFmt.sqrt_rounds hf Nat.one_pos (by omega) ?_
  rw [← abs_of_pos hx0, hx.abs_eq, ← hval, zpow_sub₀ two_ne_zero]
  push_cast
  field_simp
  norm_cast

theorem FFmt.sqrt_gives (hf : f.Ok) (hx : (FVal.fin n m e).Is x) (h0 : 0 ≤ x) :
    f.Gives r (√x) n (f.fun_ .sqrt r (.fin n m e)) := by
  obtain h0 | h0 := h0.eq_or_lt
  · rw [hx.eq_zero_iff.1 h0.symm, ← h0, Real.sqrt_zero]
    exact ⟨fun h => absurd rfl h, fun _ => rfl⟩
  · exact ⟨fun _ => FFmt.sqrt_fun_rounds hf hx h0, fun h => absurd h (Real.sqrt_pos.2 h0).ne'⟩

theorem FFmt.rsq_rounds (hf : f.Ok) (hx : (FVal.fin n m e).Is x) (hx0 : 0 < x) (hm24 : m < 2 ^ 24) :
    f.Rounds r (1 / √x) (f.fun_ .rsq r (.fin n m e)) := by
  have hm : m ≠ 0 := mt hx.eq_zero_iff.2 hx0.ne'
  have hn : n = false := Bool.eq_false_iff.2 (mt (hx.neg_iff hx0.ne').1 hx0.not_gt)
  obtain ⟨k, h, hev, hval, hmk, hk⟩ := evenExp_spec m e
  have hfun : f.fun_ .rsq r (.fin n m e) = f.round r false (isqrt (2 ^ 320 / k)) (-h - 160)
      (isqrt (2 ^ 320 / k) * isqrt (2 ^ 320 / k) * k != 2 ^ 320) := by
    simp only [FFmt.fun_, if_neg hm, hn, Bool.false_eq_true, if_false, rsqDigits, hev]
    congr 1
    omega
  rw [hfun, one_div, ← Real.sqrt_inv]
  have hbits : 2 ^ 48 * k ≤ 2 ^ 320 := by
    rw [show 320 = 48 + (25 + 247) from rfl, pow_add, pow_add]
    exact Nat.mul_le_mul_left _ ((show k ≤ 2 ^ 25 by omega).trans (Nat.le_mul_of_pos_right _ (by positivity)))
  refine FFmt.sqrt_rounds hf (by omega) hbits ?_
  have hk0 : (k : ℝ) ≠ 0 := by
    have : k ≠ 0 := by omega
    exact_mod_cast this
  have hh := two_zpow_pos h
  rw [← abs_of_pos hx0, hx.abs_eq, ← hval, zpow_sub₀ two_ne_zero, zpow_neg]
  simp only [Nat.cast_pow, Nat.cast_ofNat]
  field_simp

end

end Sys2Proof.Machine
end

section
/-! SUPPORT. The elementary functions where their value is a power of two or an integer (R129). -/

namespace Sys2Proof.Machine

section
variable {f : FFmt} {r : Rnd} {n : Bool} {m : Nat} {e k : Int} {x : ℝ}

theorem FFmt.lead_one (f : FFmt) (k : Int) : f.lead 1 k = k - f.mb := by
  rw [FFmt.lead, show bitLen 1 = 1 from rfl]
  push_cast
  ring

/-- A power of two beyond the range. -/
theorem FFmt.round_one_high (hf : f.Ok) (hk : f.umax + f.mb < k) : f.round r false 1 k = f.overflowOut r false := by
  have := hf.umin_le_umax
  rw [FFmt.round_eq f r false k (by simp), FFmt.lead_one, max_eq_left (by omega), FFmt.answer, if_pos (.inl (by omega))]

/-- A power of two of which rounding sees only that it is not zero. -/
theorem FFmt.round_one_low (hk : k < f.umin - 1) :
    f.round r false 1 k = f.answer r false (r == .rup).toNat f.umin true true := by
  obtain ⟨h, hh⟩ : ∃ h : Nat, f.umin - k = (h + 2 : Nat) := ⟨(f.umin - k - 2).toNat, by omega⟩
  have hone : (1 : Nat) < 2 ^ (h + 2) := Nat.one_lt_two_pow (Nat.succ_ne_zero (h + 1))
  have hup : roundsUp r false 0 1 (h + 2) false = (r == .rup) := by
    cases r with
    | rne =>
      rw [roundsUp_rne]
      simp
    | rtz | rup | rdn => rfl
  have hat : roundAt r false 1 k f.umin false = ((r == .rup).toNat, true) := by
    rw [roundAt, if_neg (by omega), hh, Int.toNat_natCast]
    simp only [Nat.div_eq_of_lt hone, Nat.mod_eq_of_lt hone, hup, Nat.zero_add]
    rfl
  have hlead : roundAt r false 1 k (k - f.mb) false = (2 ^ f.mb, false) := by
    rw [roundAt, if_pos (by omega), sub_sub_cancel, Int.toNat_natCast, Nat.one_mul]
  have htiny : f.tinyAt r false 1 k false = true := by
    rw [FFmt.tinyAt, FFmt.lead_one, hlead, bitLen_two_pow, Bool.and_eq_true, decide_eq_true_eq, decide_eq_true_eq]
    omega
  rw [FFmt.round_eq f r false k (by simp), FFmt.lead_one, max_eq_right (by omega), hat, htiny]

/-- No exponent beyond 2000 makes a difference. -/
theorem FFmt.round_one_clamp (hf : f.Ok) (k : Int) : f.round r false 1 (max (-2000) (min 2000 k)) = f.round r false 1 k := by
  have hsmall := hf.small
  have hlarge := hf.large
  have hmb := hf.mb_le
  obtain hlt | hle := lt_or_ge k (-2000)
  · rw [FFmt.round_one_low (k := k) (by omega), FFmt.round_one_low (by omega)]
  · obtain hgt | hge := lt_or_ge 2000 k
    · rw [FFmt.round_one_high hf (k := k) (by omega), FFmt.round_one_high hf (by omega)]
    · rw [min_eq_right hge, max_eq_right hle]

theorem FVal.is_two_zpow (k : Int) : (FVal.fin false 1 k).Is ((2 : ℝ) ^ k) := by simp [FVal.is_fin, sgn]

/-- An integer by the digits of a number with no fraction. -/
theorem FVal.Is.eq_of_nonneg (hx : (FVal.fin n m e).Is k) (he : 0 ≤ e) :
    k = if n then -((m * 2 ^ e.toNat : Nat) : Int) else (m * 2 ^ e.toNat : Nat) := by
  have hk := hx.eq_signedUnits he
  rw [zpow_zero, mul_one, Int.cast_inj] at hk
  rw [hk, signedUnits, Int.sub_zero]
  cases n
  · exact one_mul _
  · exact neg_one_mul _

theorem FFmt.exp2_eq_of_nonneg (hf : f.Ok) (h : f.Form m e) (hx : (FVal.fin n m e).Is k) (he : 0 ≤ e) :
    f.exp2 r n m e = f.round r false 1 (max (-2000) (min 2000 k)) := by
  have hk := hx.eq_of_nonneg he
  rw [FFmt.exp2, decide_eq_true he, Bool.true_or, if_pos rfl]
  by_cases hbig : 20 < e
  · have hm : 1 ≤ m := by
      obtain ⟨-, he'⟩ | ⟨hm, -⟩ := h
      · exact absurd hf.umin_nonpos (by omega)
      · exact (Nat.one_le_two_pow).trans hm
    have hpow : 2 ^ 20 ≤ m * 2 ^ e.toNat :=
      (Nat.pow_le_pow_right Nat.two_pos (by omega)).trans (Nat.le_mul_of_pos_left _ hm)
    simp only [if_pos hbig]
    cases n <;> simp only [Bool.false_eq_true, if_true, if_false] at hk ⊢ <;> congr 1 <;> omega
  · simp only [if_neg hbig, hk]
    push_cast
    rfl

theorem FFmt.exp2_eq_of_zero (hf : f.Ok) (h : f.Form 0 e) (hx : (FVal.fin n 0 e).Is k) :
    f.exp2 r n 0 e = f.round r false 1 (max (-2000) (min 2000 k)) := by
  have hk : k = 0 := by exact_mod_cast hx.eq_zero_iff.2 rfl
  have he : e ≤ 0 := by
    obtain ⟨-, he⟩ | ⟨hm, -⟩ := h
    · exact he.trans_le hf.umin_nonpos
    · exact absurd hm (not_le.2 (by positivity))
  rw [FFmt.exp2, decide_eq_true rfl, Bool.or_true, if_pos rfl, hk]
  cases n <;> simp [not_lt.2 (show e ≤ 20 by omega)]

theorem FFmt.exp2_eq_of_neg (he : e < 0) (hm : m ≠ 0) (hx : (FVal.fin n m e).Is k) :
    f.exp2 r n m e = f.round r false 1 (max (-2000) (min 2000 k)) := by
  have hv : (if n then -(m : Int) else m) = k * 2 ^ (-e).toNat := by
    obtain ⟨j, rfl⟩ : ∃ j : Nat, e = -j := ⟨(-e).toNat, by omega⟩
    rw [FVal.is_fin, zpow_neg, zpow_natCast, ← mul_assoc, eq_mul_inv_iff_mul_eq₀ (by positivity)] at hx
    rw [neg_neg, Int.toNat_natCast]
    have hx' : sgn n * m = ((k * 2 ^ j : Int) : ℝ) := by rw [← hx]; push_cast; rfl
    cases n <;> simp only [sgn, Bool.false_eq_true, if_true, if_false, one_mul, neg_one_mul] at hx' ⊢ <;> exact_mod_cast hx'
  have hcond : (decide (0 ≤ e) || decide (m = 0)) = false := by simp [he, hm]
  have hp : (2 : Int) ^ (-e).toNat ≠ 0 := by positivity
  rw [FFmt.exp2, hcond, if_neg Bool.false_ne_true]
  simp only [hv, Int.mul_emod_left, Int.toNat_zero, if_true, Int.mul_ediv_cancel _ hp]

theorem FFmt.exp2_rounds (hf : f.Ok) (h : f.Form m e) (hx : (FVal.fin n m e).Is k) :
    f.Rounds r ((2 : ℝ) ^ k) (f.fun_ .exp2 r (.fin n m e)) := by
  have hexp : f.exp2 r n m e = f.round r false 1 (max (-2000) (min 2000 k)) := by
    obtain he | he := lt_or_ge e 0
    · by_cases hm : m = 0
      · subst hm
        exact FFmt.exp2_eq_of_zero hf h hx
      · exact FFmt.exp2_eq_of_neg he hm hx
    · exact FFmt.exp2_eq_of_nonneg hf h hx he
  show f.Rounds r _ (f.exp2 r n m e)
  rw [hexp, FFmt.round_one_clamp hf]
  exact FFmt.round_rounds_exact hf Nat.one_pos (FVal.is_two_zpow k)

theorem FFmt.log2_gives (hf : f.Ok) (hx : (FVal.fin n m e).Is ((2 : ℝ) ^ k)) :
    f.Gives r k false (f.fun_ .log2 r (.fin n m e)) := by
  have hpos := two_zpow_pos k
  have hm : m ≠ 0 := mt hx.eq_zero_iff.2 hpos.ne'
  have hn : n = false := Bool.eq_false_iff.2 (mt (hx.neg_iff hpos.ne').1 hpos.not_gt)
  have hmk : (m : ℝ) = (2 : ℝ) ^ (k - e) := by
    rw [zpow_sub₀ two_ne_zero, eq_div_iff (two_zpow_pos e).ne', ← hx.abs_eq, abs_of_pos hpos]
  have hle : 0 ≤ k - e := by
    have hone : (1 : ℝ) ≤ (2 : ℝ) ^ (k - e) := hmk ▸ (by exact_mod_cast Nat.one_le_iff_ne_zero.2 hm)
    exact (one_le_zpow_iff_right₀ one_lt_two).1 hone
  obtain ⟨j, hj⟩ := Int.eq_ofNat_of_zero_le hle
  have hmj : m = 2 ^ j := by
    rw [hj, zpow_natCast] at hmk
    exact_mod_cast hmk
  have hfun : f.fun_ .log2 r (.fin n m e) = f.round r (decide (k < 0)) k.natAbs 0 := by
    have hlog : f.log2 r m e = f.round r (decide (k < 0)) k.natAbs 0 := by
      rw [FFmt.log2, hmj, bitLen_two_pow, Nat.add_sub_cancel]
      simp only [if_true]
      rw [show e + (j + 1 : Nat) - 1 = k by push_cast; omega]
    simp only [FFmt.fun_, if_neg hm, hn, Bool.false_eq_true, if_false, hlog]
  have hk := FVal.is_natAbs k 0
  rw [zpow_zero, mul_one] at hk
  rw [hfun]
  refine (FFmt.round_gives hf hk).zero_eq fun h0 => ?_
  have : k = 0 := by exact_mod_cast h0
  rw [this]
  rfl

end

end Sys2Proof.Machine
end

section
/-! SUPPORT. NaNs, infinities and invalid operations (R125 to R130): which results are a NaN, and with which flags. -/

namespace Sys2Proof.Machine

/-! ### Rounding gives no NaN -/

section
variable {f : FFmt} {r : Rnd} {neg n sticky : Bool} {m q : Nat} {e u : Int}

theorem roundAt_le (hu : f.lead m e ≤ u) : (roundAt r neg m e u sticky).1 ≤ 2 ^ (f.mb + 1) := by
  have hm := lt_two_pow_bitLen m
  rw [FFmt.lead] at hu
  unfold roundAt
  split
  next h =>
    calc m * 2 ^ (e - u).toNat ≤ 2 ^ bitLen m * 2 ^ (e - u).toNat := Nat.mul_le_mul_right _ hm.le
      _ = 2 ^ (bitLen m + (e - u).toNat) := (pow_add _ _ _).symm
      _ ≤ 2 ^ (f.mb + 1) := Nat.pow_le_pow_right Nat.two_pos (by omega)
  next h =>
    have hdiv : m / 2 ^ (u - e).toNat < 2 ^ (f.mb + 1) := by
      rw [Nat.div_lt_iff_lt_mul (by positivity), ← pow_add]
      exact hm.trans_le (Nat.pow_le_pow_right Nat.two_pos (by omega))
    exact (Nat.add_le_add_left (Bool.toNat_le _) _).trans hdiv

theorem FFmt.pack_finite (hf : f.Ok) (neg : Bool) (hu : f.umin ≤ u) (hu' : u ≤ f.umax) (hq : q ≤ 2 ^ (f.mb + 1))
    (hover : ¬ (u = f.umax ∧ 2 ^ (f.mb + 1) ≤ q)) : (f.decode (f.pack neg q u)).finite = true := by
  obtain hsub | hnorm := lt_or_ge q (2 ^ f.mb)
  · rw [FFmt.decode_pack_subnormal hf neg hsub]
    rfl
  · obtain hlt | rfl := hq.lt_or_eq
    · rw [FFmt.decode_pack_normal hf neg hnorm hlt hu hu']
      rfl
    · rw [FFmt.decode_pack_carry hf neg hu (lt_of_le_of_ne hu' fun h => hover ⟨h, le_rfl⟩)]
      rfl

theorem FFmt.overflowOut_not_nan (hf : f.Ok) (r : Rnd) (neg : Bool) : (f.decode (f.overflowOut r neg).1).isNan = false := by
  by_cases h : r.Inward neg
  · rw [FFmt.overflowOut_of_inward hf h, FFmt.decode_max hf]
    rfl
  · rw [FFmt.overflowOut_of_not_inward hf h, FFmt.decode_inf hf]
    rfl

theorem FVal.isNan_of_finite {x : FVal} (h : x.finite = true) : x.isNan = false := by
  cases x with
  | fin => rfl
  | nan | inf => cases h

theorem FFmt.round_not_nan (hf : f.Ok) (r : Rnd) (neg : Bool) (m : Nat) (e : Int) (sticky : Bool) :
    (f.decode (f.round r neg m e sticky).1).isNan = false := by
  by_cases hm : m = 0 ∧ sticky = false
  · rw [hm.1, hm.2, FFmt.round_zero, FFmt.decode_zero hf]
    rfl
  · rw [FFmt.round_eq f r neg e hm]
    have hle : f.lead m e ≤ max (f.lead m e) f.umin := le_max_left _ _
    have hmin : f.umin ≤ max (f.lead m e) f.umin := le_max_right _ _
    have hq := roundAt_le (r := r) (neg := neg) (sticky := sticky) hle
    unfold FFmt.answer
    split
    next => exact FFmt.overflowOut_not_nan hf r neg
    next hin =>
      rw [not_or, not_lt] at hin
      exact FVal.isNan_of_finite (FFmt.pack_finite hf neg hmin hin.1 hq hin.2)

end

/-! ### A NaN that arithmetic computes is the canonical one -/

/-- R126: an answer that is a NaN is the canonical one, with NF. -/
def FFmt.Canonical (f : FFmt) (out : Nat × Flags) : Prop :=
  (f.decode out.1).isNan = true → out.1 = f.nanBits ∧ out.2 &&& fNF ≠ 0

section
variable {f : FFmt} (hf : f.Ok) (r : Rnd) (x y z : FVal)

theorem FFmt.Canonical.of_not_nan {out : Nat × Flags} (h : (f.decode out.1).isNan = false) : f.Canonical out :=
  fun hn => absurd (h.symm.trans hn) Bool.false_ne_true

theorem FFmt.canonical_nan {fl : Flags} (h : fl &&& fNF ≠ 0) : f.Canonical (f.nanBits, fl) := fun _ => ⟨rfl, h⟩

theorem FFmt.canonical_nanOut (inv : Bool) : f.Canonical (f.nanOut inv) :=
  FFmt.canonical_nan (by revert inv; decide)

theorem FFmt.Canonical.or {out : Nat × Flags} (h : f.Canonical out) (fl : Flags) : f.Canonical (out.1, out.2 ||| fl) := by
  intro hn
  obtain ⟨hbits, hfl⟩ := h hn
  refine ⟨hbits, fun h0 => hfl ?_⟩
  refine BitVec.eq_of_getLsbD_eq fun i _ => ?_
  have hi := congrArg (BitVec.getLsbD · i) h0
  simp only [BitVec.getLsbD_and, BitVec.getLsbD_or, BitVec.ofNat_eq_ofNat, BitVec.getLsbD_zero,
    Bool.and_eq_false_iff, Bool.or_eq_false_iff] at hi ⊢
  exact hi.imp_left And.left

theorem FFmt.Canonical.ite {c : Prop} [Decidable c] {out out' : Nat × Flags} (h : f.Canonical out) (h' : f.Canonical out') :
    f.Canonical (if c then out else out') := by
  split
  · exact h
  · exact h'

include hf

theorem FFmt.canonical_round (neg : Bool) (m : Nat) (e : Int) (sticky : Bool) : f.Canonical (f.round r neg m e sticky) :=
  .of_not_nan (FFmt.round_not_nan hf r neg m e sticky)

theorem FFmt.canonical_inf (n : Bool) (fl : Flags) : f.Canonical (f.signed n f.infBits, fl) :=
  .of_not_nan (by rw [FFmt.decode_inf hf]; rfl)

theorem FFmt.canonical_zero (n : Bool) (fl : Flags) : f.Canonical (f.signed n 0, fl) :=
  .of_not_nan (by rw [FFmt.decode_zero hf]; rfl)

theorem FFmt.canonical_exp2 (n : Bool) (m : Nat) (e : Int) : f.Canonical (f.exp2 r n m e) :=
  .ite (FFmt.canonical_round hf r _ _ _ _) (.ite (FFmt.canonical_round hf r _ _ _ _) (FFmt.canonical_round hf r _ _ _ _))

theorem FFmt.canonical_log2 (m : Nat) (e : Int) : f.Canonical (f.log2 r m e) :=
  .ite (FFmt.canonical_round hf r _ _ _ _) (.ite (FFmt.canonical_round hf r _ _ _ _) (FFmt.canonical_round hf r _ _ _ _))

theorem FFmt.canonical_add : f.Canonical (f.add r x y) := by
  unfold FFmt.add
  split
  · exact FFmt.canonical_nanOut _
  · exact FFmt.canonical_nanOut _
  · exact .ite (FFmt.canonical_inf hf _ _) (FFmt.canonical_nanOut _)
  · exact FFmt.canonical_inf hf _ _
  · exact FFmt.canonical_inf hf _ _
  · exact FFmt.canonical_round hf r _ _ _ _

theorem FFmt.canonical_mul : f.Canonical (f.mul r x y) := by
  unfold FFmt.mul
  split
  · exact FFmt.canonical_nanOut _
  · exact FFmt.canonical_nanOut _
  · exact .ite (FFmt.canonical_nanOut _) (FFmt.canonical_inf hf _ _)
  · exact .ite (FFmt.canonical_nanOut _) (FFmt.canonical_inf hf _ _)
  · exact FFmt.canonical_round hf r _ _ _ _

theorem FFmt.canonical_div : f.Canonical (f.div r x y) := by
  unfold FFmt.div
  split
  · exact FFmt.canonical_nanOut _
  · exact FFmt.canonical_nanOut _
  · exact FFmt.canonical_nanOut _
  · exact FFmt.canonical_inf hf _ _
  · exact FFmt.canonical_zero hf _ _
  · exact .ite (.ite (FFmt.canonical_nanOut _) (FFmt.canonical_inf hf _ _)) (FFmt.canonical_round hf r _ _ _ _)

theorem FFmt.canonical_fma : f.Canonical (f.fma r x y z) := by
  refine .ite (FFmt.canonical_nanOut _) (.ite ?_ ?_)
  · split
    · exact .ite (FFmt.canonical_inf hf _ _) (FFmt.canonical_nanOut _)
    · exact FFmt.canonical_inf hf _ _
  · split
    · exact FFmt.canonical_round hf r _ _ _ _
    · exact FFmt.canonical_inf hf _ _
    · exact FFmt.canonical_nanOut _

theorem FFmt.canonical_fun (op : FunOp) : f.Canonical (f.fun_ op r x) := by
  have hnan := FFmt.canonical_nanOut (f := f) true
  have hinf := FFmt.canonical_inf hf
  have hround := FFmt.canonical_round hf r
  cases x with
  | nan s => cases op <;> exact FFmt.canonical_nanOut s
  | inf n =>
    cases op with
    | rcp => exact FFmt.canonical_zero hf n _
    | rsq => exact .ite hnan (FFmt.canonical_zero hf false _)
    | exp2 => exact .ite (FFmt.canonical_zero hf false _) (hinf false _)
    | sqrt | log2 => exact .ite hnan (hinf false _)
  | fin n m e =>
    cases op with
    | rcp => exact .ite (hinf n _) (hround _ _ _ _)
    | rsq => exact .ite (hinf n _) (.ite hnan (hround _ _ _ _))
    | sqrt => exact .ite (FFmt.canonical_zero hf n _) (.ite hnan (hround _ _ _ _))
    | exp2 => exact FFmt.canonical_exp2 hf r n m e
    | log2 => exact .ite (hinf true _) (.ite hnan (FFmt.canonical_log2 hf r m e))

end

/-! ### The answers of the instructions -/

/-- An answer with NF for operands that are not finite (R125). -/
def withNF (l : List FVal) (out : Nat × Flags) : Nat × Flags := (out.1, out.2 ||| nfOf l)

theorem nfOf_finite {l : List FVal} (h : ∀ x ∈ l, x.finite = true) : nfOf l = 0 := by
  have hany : l.any (fun x => !x.finite) = false := by simpa using h
  rw [nfOf, hany]
  rfl

theorem withNF_finite {l : List FVal} (h : ∀ x ∈ l, x.finite = true) (out : Nat × Flags) : withNF l out = out := by
  rw [withNF, nfOf_finite h, BitVec.ofNat_eq_ofNat, BitVec.or_zero]

theorem withNF_nanOut (l : List FVal) (f : FFmt) : withNF l (f.nanOut true) = f.nanOut true := by
  have hfl : ∀ b, flagIf true fInvalid ||| fNF ||| flagIf b fNF = flagIf true fInvalid ||| fNF := by decide
  exact congrArg (Prod.mk f.nanBits) (hfl _)

section
variable (f : FFmt) (r : Rnd) (a b d : Nat)

theorem faluVal_add : faluVal f .add r a b = withNF [f.decode a, f.decode b] (f.add r (f.decode a) (f.decode b)) := rfl
theorem faluVal_sub : faluVal f .sub r a b = withNF [f.decode a, f.decode b] (f.add r (f.decode a) (f.decode b).flip) := rfl
theorem faluVal_mul : faluVal f .mul r a b = withNF [f.decode a, f.decode b] (f.mul r (f.decode a) (f.decode b)) := rfl
theorem fmaVal_fma : fmaVal f .fma r a b d =
    withNF [f.decode a, f.decode b, f.decode d] (f.fma r (f.decode a) (f.decode b) (f.decode d)) := rfl
theorem fmaVal_fms : fmaVal f .fms r a b d =
    withNF [f.decode a, f.decode b, f.decode d] (f.fma r (f.decode a) (f.decode b) (f.decode d).flip) := rfl
theorem fmaVal_fnma : fmaVal f .fnma r a b d =
    withNF [f.decode a, f.decode b, f.decode d] (f.fma r (f.decode a).flip (f.decode b) (f.decode d)) := rfl
theorem fdivVal_eq : fdivVal f r a b = withNF [f.decode a, f.decode b] (f.div r (f.decode a) (f.decode b)) := rfl

end

section
variable {f : FFmt} (hf : f.Ok) (r : Rnd) (a b d : Nat)

theorem FFmt.resign_of_nan {f : FFmt} {a : Nat} (h : (f.decode a).isNan = true) (n : Bool) : f.resign a n = f.nanBits := by
  rw [FFmt.resign, if_pos h]

theorem FFmt.resign_of_not_nan {f : FFmt} {a : Nat} (h : (f.decode a).isNan = false) (n : Bool) :
    f.resign a n = f.signed n (a % f.signBit) := by
  rw [FFmt.resign, h, if_neg Bool.false_ne_true]

/-- A value with its sign replaced. -/
def FVal.withSign (n : Bool) (v : FVal) : FVal :=
  match v with
  | .fin _ m e => .fin n m e
  | .inf _ => .inf n
  | v => v

theorem FFmt.decodeMag_withSign (f : FFmt) (n k : Bool) (x : Nat) : f.decodeMag n x = (f.decodeMag k x).withSign n := by
  unfold FFmt.decodeMag
  split
  · split <;> rfl
  · split <;> rfl

theorem FFmt.decode_signed_mod (f : FFmt) (n : Bool) (a : Nat) :
    f.decode (f.signed n (a % f.signBit)) = (f.decode a).withSign n := by
  have hlt : a % f.signBit < f.signBit := Nat.mod_lt _ (by rw [f.signBit_eq]; positivity)
  rw [FFmt.decode_signed n hlt, FFmt.decode_eq, ← FFmt.decodeMag_withSign]

theorem FVal.withSign_isNan (n : Bool) (v : FVal) : (v.withSign n).isNan = v.isNan := by
  cases v <;> rfl

theorem nfOf_of_nan {x : FVal} (h : x.isNan = true) (l : List FVal) : nfOf (x :: l) = fNF := by
  cases x with
  | nan => rfl
  | inf | fin => cases h

/-- The sign functions keep a number a number. -/
theorem FFmt.canonical_resign (n : Bool) (l : List FVal) : f.Canonical (f.resign a n, nfOf (f.decode a :: l)) := by
  cases h : (f.decode a).isNan with
  | true =>
    rw [FFmt.resign_of_nan h, nfOf_of_nan h]
    exact FFmt.canonical_nan (by decide)
  | false =>
    rw [FFmt.resign_of_not_nan h]
    exact .of_not_nan (by rw [FFmt.decode_signed_mod, FVal.withSign_isNan, h])

include hf

theorem canonical_faluVal {op : FaluOp} (h : op ∈ [FaluOp.add, .sub, .mul, .abs, .neg, .copysign]) :
    f.Canonical (faluVal f op r a b) := by
  cases op with
  | add => exact (FFmt.canonical_add hf r _ _).or _
  | sub => exact (FFmt.canonical_add hf r _ _).or _
  | mul => exact (FFmt.canonical_mul hf r _ _).or _
  | abs | neg | copysign => exact FFmt.canonical_resign _ _ _
  | min | max => simp at h

theorem canonical_fmaVal (op : FmaOp) : f.Canonical (fmaVal f op r a b d) := by
  cases op <;> exact (FFmt.canonical_fma hf r _ _ _).or _

theorem canonical_fdivVal : f.Canonical (fdivVal f r a b) := (FFmt.canonical_div hf r _ _).or _

end

/-! ### Invalid operations -/

section
variable (f : FFmt) (r : Rnd) {x y z : FVal}

/-- An operand that is a NaN. -/
theorem FFmt.add_mul_div_of_nan (h : x.isNan = true ∨ y.isNan = true) :
    f.add r x y = f.nanOut (x.isSNan || y.isSNan) ∧ f.mul r x y = f.nanOut (x.isSNan || y.isSNan) ∧
      f.div r x y = f.nanOut (x.isSNan || y.isSNan) := by
  cases x with
  | nan => exact ⟨rfl, rfl, rfl⟩
  | inf | fin =>
    cases y with
    | nan => exact ⟨rfl, rfl, rfl⟩
    | inf | fin => exact absurd h (by simp [FVal.isNan])

theorem FVal.isNan_of_isSNan {x : FVal} (h : x.isSNan = true) : x.isNan = true := by
  cases x with
  | nan => rfl
  | inf | fin => cases h

theorem FFmt.fma_of_nan (h : (x.isNan || y.isNan || z.isNan) = true) :
    f.fma r x y z = f.nanOut (x.isSNan || y.isSNan || z.isSNan || ((x.isInf && y.isZero) || (x.isZero && y.isInf))) := by
  rw [FFmt.fma, h, Bool.true_or, if_pos rfl]

theorem FFmt.fma_of_bad (h : ((x.isInf && y.isZero) || (x.isZero && y.isInf)) = true) : f.fma r x y z = f.nanOut true := by
  rw [FFmt.fma, h, Bool.or_true, Bool.or_true, if_pos rfl]

/-- A signalling operand (R126). -/
theorem invalid_of_sNaN {a b : Nat} (d : Nat) (h : (f.decode a).isSNan = true ∨ (f.decode b).isSNan = true) :
    faluVal f .add r a b = f.nanOut true ∧ faluVal f .mul r a b = f.nanOut true ∧ fdivVal f r a b = f.nanOut true ∧
      fmaVal f .fma r a b d = f.nanOut true := by
  have hnan := h.imp FVal.isNan_of_isSNan FVal.isNan_of_isSNan
  have hsig : ((f.decode a).isSNan || (f.decode b).isSNan) = true := by rwa [Bool.or_eq_true]
  have hnan' : ((f.decode a).isNan || (f.decode b).isNan) = true := by rwa [Bool.or_eq_true]
  obtain ⟨hadd, hmul, hdiv⟩ := FFmt.add_mul_div_of_nan f r hnan
  rw [faluVal_add, faluVal_mul, fdivVal_eq, fmaVal_fma, hadd, hmul, hdiv, FFmt.fma_of_nan f r (by rw [hnan', Bool.true_or]), hsig]
  simp only [Bool.true_or, withNF_nanOut, and_self]

theorem FVal.isInf_iff {x : FVal} : x.isInf = true ↔ ∃ n, x = .inf n := by
  cases x <;> simp [FVal.isInf]

theorem FVal.isZero_iff {x : FVal} : x.isZero = true ↔ ∃ n e, x = .fin n 0 e := by
  cases x <;> simp [FVal.isZero]

theorem FVal.finite_iff {x : FVal} : x.finite = true ↔ ∃ n m e, x = .fin n m e := by
  cases x <;> simp [FVal.finite]

/-- A root or a logarithm of a negative number (R129). -/
theorem FFmt.fun_of_neg (hx : x.finite = true) (h0 : x.isZero = false) (hneg : x.neg = true) :
    f.fun_ .sqrt r x = f.nanOut true ∧ f.fun_ .rsq r x = f.nanOut true ∧ f.fun_ .log2 r x = f.nanOut true := by
  obtain ⟨n, m, e, rfl⟩ := FVal.finite_iff.1 hx
  have hn : n = true := hneg
  have hm : m ≠ 0 := of_decide_eq_false h0
  simp only [FFmt.fun_, if_neg hm, if_pos hn, and_self]

end

section
variable {f : FFmt} (r : Rnd) {a b : Nat}

theorem faluVal_sub_inf {n : Bool} (ha : f.decode a = .inf n) (hb : f.decode b = .inf n) :
    faluVal f .sub r a b = f.nanOut true := by
  have hinf : f.add r (.inf n) (FVal.inf n).flip = f.nanOut true := by cases n <;> rfl
  rw [faluVal_sub, ha, hb, hinf, withNF_nanOut]

theorem faluVal_mul_inf_zero (ha : (f.decode a).isInf = true) (hb : (f.decode b).isZero = true) :
    faluVal f .mul r a b = f.nanOut true := by
  obtain ⟨n, ha⟩ := FVal.isInf_iff.1 ha
  obtain ⟨n', e, hb⟩ := FVal.isZero_iff.1 hb
  rw [faluVal_mul, ha, hb]
  exact withNF_nanOut _ f

theorem fmaVal_inf_zero (d : Nat) (ha : (f.decode a).isInf = true) (hb : (f.decode b).isZero = true) :
    fmaVal f .fma r a b d = f.nanOut true := by
  rw [fmaVal_fma, FFmt.fma_of_bad f r (by rw [ha, hb]; rfl), withNF_nanOut]

theorem fdivVal_zeros (ha : (f.decode a).isZero = true) (hb : (f.decode b).isZero = true) :
    fdivVal f r a b = f.nanOut true := by
  obtain ⟨n, e, ha⟩ := FVal.isZero_iff.1 ha
  obtain ⟨n', e', hb⟩ := FVal.isZero_iff.1 hb
  rw [fdivVal_eq, ha, hb]
  exact withNF_nanOut _ f

theorem fdivVal_infs (ha : (f.decode a).isInf = true) (hb : (f.decode b).isInf = true) :
    fdivVal f r a b = f.nanOut true := by
  obtain ⟨n, ha⟩ := FVal.isInf_iff.1 ha
  obtain ⟨n', hb⟩ := FVal.isInf_iff.1 hb
  rw [fdivVal_eq, ha, hb]
  exact withNF_nanOut _ f

theorem fdivVal_by_zero (ha : (f.decode a).finite = true) (ha0 : (f.decode a).isZero = false)
    (hb : (f.decode b).isZero = true) :
    fdivVal f r a b = (f.signed ((f.decode a).neg != (f.decode b).neg) f.infBits, fNF ||| fDivzero) := by
  obtain ⟨n, m, e, ha⟩ := FVal.finite_iff.1 ha
  obtain ⟨n', e', hb⟩ := FVal.isZero_iff.1 hb
  have hm : m ≠ 0 := of_decide_eq_false (by rw [ha] at ha0; exact ha0)
  have hdiv : f.div r (.fin n m e) (.fin n' 0 e') = (f.signed (n != n') f.infBits, fNF ||| fDivzero) := by
    simp only [FFmt.div, if_true, if_neg hm]
    rfl
  rw [fdivVal_eq, ha, hb, withNF_finite (by simp [FVal.finite]), hdiv]
  rfl

end

section
variable {f : FFmt} (r : Rnd) {a b d : Nat} {n1 n2 n3 : Bool} {m1 m2 m3 : Nat} {e1 e2 e3 : Int} (ha : f.decode a = .fin n1 m1 e1)
  (hb : f.decode b = .fin n2 m2 e2)
include ha hb

theorem faluVal_of_fin : faluVal f .add r a b = f.add r (.fin n1 m1 e1) (.fin n2 m2 e2) ∧
    faluVal f .sub r a b = f.add r (.fin n1 m1 e1) (.fin (!n2) m2 e2) ∧
    faluVal f .mul r a b = f.mul r (.fin n1 m1 e1) (.fin n2 m2 e2) ∧
    fdivVal f r a b = f.div r (.fin n1 m1 e1) (.fin n2 m2 e2) := by
  rw [faluVal_add, faluVal_sub, faluVal_mul, fdivVal_eq, ha, hb]
  simp only [withNF_finite (show ∀ x ∈ [FVal.fin n1 m1 e1, .fin n2 m2 e2], x.finite = true by simp [FVal.finite]), FVal.flip,
    and_self]

theorem fmaVal_of_fin (hd : f.decode d = .fin n3 m3 e3) :
    fmaVal f .fma r a b d = f.fma r (.fin n1 m1 e1) (.fin n2 m2 e2) (.fin n3 m3 e3) ∧
    fmaVal f .fms r a b d = f.fma r (.fin n1 m1 e1) (.fin n2 m2 e2) (.fin (!n3) m3 e3) ∧
    fmaVal f .fnma r a b d = f.fma r (.fin (!n1) m1 e1) (.fin n2 m2 e2) (.fin n3 m3 e3) := by
  rw [fmaVal_fma, fmaVal_fms, fmaVal_fnma, ha, hb, hd]
  simp only [withNF_finite (show ∀ x ∈ [FVal.fin n1 m1 e1, .fin n2 m2 e2, .fin n3 m3 e3], x.finite = true by
    simp [FVal.finite]), FVal.flip, and_self]

end

/-- Settles O17: each value by the rounding of its exact value, each special value by the cases of its operation. -/
theorem roundingOnce : Obligations.RoundingOnce := by
  unfold Obligations.RoundingOnce
  refine ⟨fun f mode neg m e x hf hm hx => FFmt.round_rounds_exact (.of_mem hf) hm hx, fun f r a b d X Y Z hf => ?_,
    fun f r a b d hf => ?_⟩
  · have hf := FFmt.Ok.of_mem hf
    intro x y z zero hx hy hz
    obtain ⟨n1, m1, e1, ha⟩ := hx.eq_fin
    obtain ⟨n2, m2, e2, hb⟩ := hy.eq_fin
    obtain ⟨n3, m3, e3, hd⟩ := hz.eq_fin
    have hm1 := (FFmt.form_of_decode hf ha).lt_of_ok hf
    have hm2 := (FFmt.form_of_decode hf hb).lt_of_ok hf
    obtain ⟨hadd, hsub, hmul, hdiv⟩ := faluVal_of_fin r ha hb
    obtain ⟨hfma, hfms, hfnma⟩ := fmaVal_of_fin r ha hb hd
    rw [ha] at hx
    rw [hb] at hy
    rw [hd] at hz
    rw [hadd, hsub, hmul, hdiv, hfma, hfms, hfnma, ha, hb, hd, sub_eq_add_neg, sub_eq_add_neg, ← neg_mul]
    refine ⟨FFmt.add_gives hf hx hy, FFmt.add_gives hf hx hy.neg, FFmt.mul_gives hf hx hy, FFmt.fma_gives hf hx hy hz,
      FFmt.fma_gives hf hx hy hz.neg, ?_, fun h0 => FFmt.div_gives hf hx hy h0 hm2,
      fun h0 => FFmt.rcp_rounds hf hx h0 hm1, fun h0 => FFmt.rsq_rounds hf hx h0 hm1, FFmt.sqrt_gives hf hx, fun k => ⟨?_, ?_⟩⟩
    · have hsign : ((!n1) != n2) = (n1 == n2) := by cases n1 <;> cases n2 <;> rfl
      exact hsign ▸ FFmt.fma_gives hf hx.neg hy hz
    · rintro rfl
      exact FFmt.exp2_rounds hf (FFmt.form_of_decode hf ha) hx
    · rintro rfl
      exact FFmt.log2_gives hf hx
  · have hf := FFmt.Ok.of_mem hf
    intro x y z canonical bad
    have isBad {out : Nat × Flags} (h : out = f.nanOut true) : bad out := h ▸ ⟨rfl, rfl⟩
    refine ⟨fun op hop => canonical_faluVal hf r a b hop, canonical_fmaVal hf r a b d, canonical_fdivVal hf r a b,
      FFmt.canonical_fun hf r x, fun h => ?_, fun n hx hy => ?_, fun hx hy => ⟨?_, fun hz => ?_⟩, fun hx hy => ?_, fun hx hy => ?_,
      fun hx hx0 hy => ?_, fun hx hx0 hneg => ?_⟩
    · obtain ⟨hadd, hmul, hdiv, hfma⟩ := invalid_of_sNaN f r d h
      exact ⟨isBad hadd, isBad hmul, isBad hdiv, isBad hfma⟩
    · exact isBad (faluVal_sub_inf r hx hy)
    · exact isBad (faluVal_mul_inf_zero r hx hy)
    · exact isBad (fmaVal_inf_zero r d hx hy)
    · exact isBad (fdivVal_zeros r hx hy)
    · exact isBad (fdivVal_infs r hx hy)
    · exact fdivVal_by_zero r hx hx0 hy
    · obtain ⟨hsqrt, hrsq, hlog⟩ := FFmt.fun_of_neg f r hx hx0 hneg
      exact ⟨isBad hsqrt, isBad hrsq, isBad hlog⟩

end Sys2Proof.Machine
end

section
/-! SUPPORT. The float words (R126 to R134): the words of the FP datapath, VFCLASS and VFRED, and the values of min, max and of the sign
functions (R127). -/

namespace Sys2Proof.Machine

/-! ### Words that write vd in each lane that acts (R126 to R130) -/

section
variable (g : Guard) (d a b : VReg) (m : Amod) (t : FTy) (rd : Rnd) (c : SReg) (s : State)

theorem exec_vfalu (op : FaluOp) : exec (.vfalu g op t rd d a m b) s =
    floatTo { fpPlan (t != .f32) with illegal := amodWide m, regs := [d.toNat, a.toNat, b.toNat] } g d
      (fun v l => perValue t (fun k =>
        faluVal (ftyFmt t) op rd (fpart t k (v.src a m l)) (fpart t k (v.vreg b.toNat l)))) s := rfl
theorem exec_vfma (op : FmaOp) : exec (.vfma g op t rd d a m b) s =
    floatTo { fpPlan (t != .f32) with illegal := amodWide m, regs := [d.toNat, a.toNat, b.toNat] } g d
      (fun v l => perValue t (fun k => fmaVal (ftyFmt t) op rd (fpart t k (v.src a m l)) (fpart t k (v.vreg b.toNat l))
        (fpart t k (v.vreg d.toNat l)))) s := rfl
theorem exec_vfmas (op : FmaOp) : exec (.vfmas g op t rd d a m c) s =
    floatTo { fpPlan (t != .f32) with illegal := amodWide m, regs := [d.toNat, a.toNat] } g d
      (fun v l => perValue t (fun k => fmaVal (ftyFmt t) op rd (fpart t k (v.src a m l))
        (fpart t k ((v.sreg c.toNat).setWidth 32)) (fpart t k (v.vreg d.toNat l)))) s := rfl
theorem exec_vfun (op : FunOp) : exec (.vfun g op t rd d a m) s =
    floatTo { fpPlan (t != .f32) 2 with illegal := amodWide m, regs := [d.toNat, a.toNat] } g d
      (fun v l => perValue t (fun k => (ftyFmt t).fun_ op rd ((ftyFmt t).decode (fpart t k (v.src a m l))))) s := rfl
theorem exec_vfdiv : exec (.vfdiv g t rd d a m b) s =
    floatTo { fpPlan (t != .f32) 12 with illegal := amodWide m, regs := [d.toNat, a.toNat, b.toNat] } g d
      (fun v l => perValue t (fun k => fdivVal (ftyFmt t) rd (fpart t k (v.src a m l)) (fpart t k (v.vreg b.toNat l)))) s :=
  rfl

end

section
variable {s : State} {g : Guard} {m : Amod} {i : Instr} {regs : List Nat} {k : Nat} {paired : Bool} (ha : s.acting g)
  (hb : (s.row s.cur).fp.banked = false) (hm : (s.row s.cur).Fits m) (hh : (s.row s.cur).Has regs)
include ha hb hm hh

theorem floatTo_writes_of_fits {d : VReg} {f : Row → Nat → W32 × Flags}
    (he : exec i s = floatTo { fpPlan paired k with illegal := amodWide m, regs := regs } g d f s) :
    WritesV i s (s.usedFp.now (fun r => r.orFlags (((s.row s.cur).actLanes g).foldl (fun a l => a ||| (f (s.row s.cur) l).2) 0)))
      d.toNat ((s.row s.cur).inActs g (fun l => (f (s.row s.cur) l).1)) :=
  floatTo_writes he ha hm.amodWide ((congrArg _ (List.append_nil regs)).trans hh.badReg) rfl rfl rfl hb

end

/-- The state from which the body of a word of the FP datapath acts. -/
theorem comesTo_fp {s : State} {g : Guard} {i : Instr} {regs : List Nat} {k : Nat} {paired : Bool} {illegal hold : Row → Bool}
    {body : State → Nat → Row → Res} (ha : s.acting g) (hb : (s.row s.cur).fp.banked = false)
    (hl : illegal (s.row s.cur) = false) (hh : (s.row s.cur).Has regs) (hhold : hold (s.row s.cur) = false)
    (he : exec i s = issueL { fpPlan paired k with illegal := illegal, regs := regs, hold := hold } g body s) :
    ComesTo i s (body s.draw.usedFp s.cur (s.row s.cur)) :=
  comesTo_issueWord (go := fun r => r.anyActs g) he ha.1
    (Plan.clear_lanes hl hh rfl rfl rfl hhold (by rw [hb, Bool.and_false])) ha.2

/-! ### VFCLASS (R131) -/

theorem setPreds_of_p {r q : Row} (h : q.p = r.p) (d : Nat) (ls : List Nat) (f : Nat → Bool) :
    q.setPreds d ls f = { q with p := (r.setPreds d ls f).p } := by
  rw [setPreds_eq q, setPreds_p_congr h]

theorem predWrite_eq (r : Row) (g : Guard) (d : PReg) (f : Nat → Bool) (k l : Nat) :
    r.predWrite g d.toNat f k l = if k = d.toNat ∧ d ≠ 0 ∧ r.acts g l = true then some (f l) else none := by
  have hd : d.toNat = 0 ↔ d = 0 := BitVec.toNat_inj (y := 0)
  unfold Row.predWrite
  refine if_congr ⟨fun ⟨ha, hk, h0⟩ => ⟨hk, fun h => h0 (hk.trans (hd.2 h)), ha⟩,
    fun ⟨hk, h0, ha⟩ => ⟨ha, hk, fun h => h0 (hd.1 (hk.symm.trans h))⟩⟩ rfl rfl

section
variable {s : State} {g : Guard} {m : Amod} {a : VReg} {t : FTy} {h : Half} {b : SReg} (ha : s.acting g)
  (hb : (s.row s.cur).fp.banked = false) (hm : (s.row s.cur).Fits m) (hr : (s.row s.cur).Has [a.toNat])

theorem find?_actLanes {r : Row} {p : Nat → Bool} {j : Nat} (hj : j ∈ r.actLanes g) (hp : p j = true)
    (hlow : ∀ k ∈ r.actLanes g, k < j → p k = false) : (r.actLanes g).find? p = some j := by
  rw [Row.actLanes, List.find?_filter, List.find?_range_eq_some]
  obtain ⟨hL, hact⟩ := mem_actLanes.1 hj
  refine ⟨by rw [hact, hp]; rfl, List.mem_range.2 hL, fun k hk => ?_⟩
  cases hk' : r.acts g k with
  | false => rfl
  | true => rw [hlow k (mem_actLanes.2 ⟨hk.trans hL, hk'⟩) hk]; rfl

theorem usedFp_now_id (s : State) : s.usedFp.now (fun r => r) = s.usedFp := modRow_modRow s s.cur _ _

include ha hb hm hr

theorem vfclass_writes (d : PReg) (hL : (s.row s.cur).L ≤ 1024) : WritesP (.vfclass g t h d a m b) s s.usedFp
    ((s.row s.cur).predWrite g d.toNat (fun l => classMatch t h ((s.row s.cur).src a m l) ((s.row s.cur).sreg b.toNat))) := by
  have he : exec (.vfclass g t h d a m b) s = execVfclass g t h d a m b s := rfl
  have hcome := comesTo_fp ha hb hm.amodWide hr (ha.1.pendP d.toNat) he
  refine WritesP.of_completes (p := ((s.row s.cur).setPreds d.toNat ((s.row s.cur).actLanes g)
    (fun l => classMatch t h ((s.row s.cur).src a m l) ((s.row s.cur).sreg b.toNat))).p)
    (ComesTo.completes (s.drawn + 1) ?_ rfl) fun n l hl => ?_
  · rw [← usedFp_now_id, ← usedFp_body]
    · exact hcome
    · exact setPreds_of_p (r := s.row s.cur) (q := (s.row s.cur).useFp (s.rowClk s.cur)) rfl _ _ _
  · rw [← setPreds_eq]
    exact setPreds_acts _ g d.toNat n l _ hL hl

theorem vfclassTrap_comesTo : ComesTo (.vfclassTrap g t h a m b) s
    (match ((s.row s.cur).actLanes g).find? (fun l => classMatch t h ((s.row s.cur).src a m l) ((s.row s.cur).sreg b.toNat)) with
      | some l => .trap cFpTrap (BitVec.ofNat 64 l) s.draw.usedFp
      | none => .done s.draw.usedFp) := by
  have he : exec (.vfclassTrap g t h a m b) s = execVfclassTrap g t h a m b s := rfl
  exact comesTo_fp ha hb hm.amodWide hr rfl he

/-- The lowest matching lane traps. -/
theorem vfclassTrap_traps {j : Nat} (hj : j ∈ (s.row s.cur).actLanes g)
    (hit : classMatch t h ((s.row s.cur).src a m j) ((s.row s.cur).sreg b.toNat) = true)
    (hlow : ∀ k ∈ (s.row s.cur).actLanes g, k < j →
      classMatch t h ((s.row s.cur).src a m k) ((s.row s.cur).sreg b.toNat) = false) :
    exec (.vfclassTrap g t h a m b) s = .next (s.draw.usedFp.trapHere s.cur cFpTrap (BitVec.ofNat 64 j)) := by
  obtain ⟨units, cycles, hexec⟩ := vfclassTrap_comesTo (t := t) (h := h) (b := b) ha hb hm hr
  rw [hexec, find?_actLanes hj hit hlow]
  rfl

/-- Without a matching lane the word passes. -/
theorem vfclassTrap_passes
    (hmiss : ∀ k ∈ (s.row s.cur).actLanes g, classMatch t h ((s.row s.cur).src a m k) ((s.row s.cur).sreg b.toNat) = false) :
    Completes (.vfclassTrap g t h a m b) s s.usedFp := by
  have hcome := vfclassTrap_comesTo (t := t) (h := h) (b := b) ha hb hm hr
  rw [List.find?_eq_none.2 (fun k hk => by rw [hmiss k hk]; exact Bool.false_ne_true)] at hcome
  exact ComesTo.completes (u := s.usedFp) (s.drawn + 1) hcome rfl

end

/-! ### VFRED (R132, R134) -/

theorem orFlags_zero (q : Row) : q.orFlags 0 = q := by
  simp [Row.orFlags]

theorem orFlags_or (q : Row) (fl fl' : Flags) : (q.orFlags fl).orFlags fl' = q.orFlags (fl ||| fl') := by
  simp [Row.orFlags, BitVec.or_assoc]

section
variable {d S : Nat} {lanes : List Nat} {w : Nat → Nat × Flags}

/-- The lanes of segment k among those given. -/
def segmentOf (S : Nat) (lanes : List Nat) (k : Nat) : List Nat := lanes.filter (fun l => l / S == k)

/-- vd as the segment k leaves it: its value in each of the lanes given. -/
def Row.putSegment (q : Row) (d S : Nat) (lanes : List Nat) (w : Nat → Nat × Flags) (k : Nat) : Row :=
  q.setLanes d (segmentOf S lanes k) (fun _ => BitVec.ofNat 32 (w k).1)

/-- Segments that write one after another leave what they write, and their flags together. -/
theorem foldl_putSegment_orFlags (ks : List Nat) (q : Row) (fl : Flags) :
    ks.foldl (fun q k => (q.putSegment d S lanes w k).orFlags (w k).2) (q.orFlags fl) =
      (ks.foldl (fun q k => q.putSegment d S lanes w k) q).orFlags (ks.foldl (fun o k => o ||| (w k).2) fl) := by
  induction ks generalizing q fl with
  | nil => rfl
  | cons k ks ih =>
    rw [List.foldl_cons, List.foldl_cons, List.foldl_cons, ← ih (q.putSegment d S lanes w k), ← orFlags_or]
    rfl

/-- Only the vector registers change. -/
theorem foldl_putSegment_eq (ks : List Nat) (q : Row) : ks.foldl (fun q k => q.putSegment d S lanes w k) q =
    { q with v := (ks.foldl (fun q k => q.putSegment d S lanes w k) q).v } := by
  induction ks generalizing q with
  | nil => rfl
  | cons k ks ih =>
    rw [List.foldl_cons, ih]
    rfl

theorem foldl_putSegment_fp (ks : List Nat) (q : Row) (x : Bank) :
    ks.foldl (fun q k => q.putSegment d S lanes w k) { q with fp := x } =
      { ks.foldl (fun q k => q.putSegment d S lanes w k) q with fp := x } := by
  induction ks generalizing q with
  | nil => rfl
  | cons k ks ih => exact ih (q.putSegment d S lanes w k)

/-- The segments of a row whose FP datapath has been used. -/
theorem foldl_segments_useFp (ks : List Nat) (q : Row) (clk : W64) :
    ks.foldl (fun q k => (q.putSegment d S lanes w k).orFlags (w k).2) (q.useFp clk) =
      { (q.useFp clk).orFlags (ks.foldl (fun o k => o ||| (w k).2) 0) with
        v := (ks.foldl (fun q k => q.putSegment d S lanes w k) q).v } := by
  have hfold := foldl_putSegment_orFlags (d := d) (S := S) (lanes := lanes) (w := w) ks (q.useFp clk) 0
  rw [orFlags_zero] at hfold
  rw [hfold, Row.useFp, foldl_putSegment_fp, foldl_putSegment_eq]
  rfl

theorem foldl_putSegment_vreg (ks : List Nat) (q : Row) (hlanes : ∀ l ∈ lanes, l < q.L) (n l : Nat) (hl : l < q.L) :
    (ks.foldl (fun q k => q.putSegment d S lanes w k) q).vreg n l =
      if n = d ∧ l ∈ lanes ∧ l / S ∈ ks then BitVec.ofNat 32 (w (l / S)).1 else q.vreg n l := by
  induction ks generalizing q with
  | nil => simp
  | cons k ks ih =>
    have hput : (q.putSegment d S lanes w k).vreg n l =
        if n = d ∧ l ∈ segmentOf S lanes k then BitVec.ofNat 32 (w k).1 else q.vreg n l :=
      setLanes_vreg q d n l _ _ hl fun x hx => hlanes x (List.mem_of_mem_filter hx)
    rw [List.foldl_cons, ih (q.putSegment d S lanes w k) hlanes hl, hput]
    simp only [segmentOf, List.mem_filter, beq_iff_eq, List.mem_cons]
    by_cases hn : n = d ∧ l ∈ lanes
    · obtain rfl | hk := eq_or_ne (l / S) k
      · simp [hn.1, hn.2]
      · simp [hn.1, hn.2, hk]
    · simp only [← and_assoc, hn, false_and, if_false]

end

section
variable {s : State} {g : Guard} {op : FredOp} {t : FTy} {rd : Rnd} {d a : VReg} {m : Amod} {seg : BitVec 6}

theorem isEmpty_filter {α : Type} (p : α → Bool) (l : List α) : (l.filter p).isEmpty = !l.any p := by
  rw [Bool.eq_iff_iff]
  simp [List.isEmpty_iff]

/-- The segments with a lane that acts. -/
def Row.liveSegments (r : Row) (g : Guard) (S : Nat) : List Nat :=
  (List.range (r.L / S)).filter (fun k => (r.actLanes g).any (fun l => l / S == k))

theorem execVfred_eq (s : State) : exec (.vfred g op t rd d a m seg) s =
    issueL { fpPlan (t != .f32) with
      illegal := fun r => amodWide m r || segWide seg r, regs := [d.toNat, a.toNat], hold := fun r => r.holdV d.toNat } g
      (onRow (fun rw v =>
        (v.liveSegments g (2 ^ (seg.toNat + 1))).foldl (fun q k =>
          (q.putSegment d.toNat (2 ^ (seg.toNat + 1)) (v.actLanes g)
            (fun k => fredSeg v g op t rd a m seg.toNat (k * 2 ^ (seg.toNat + 1))) k).orFlags
          (fredSeg v g op t rd a m seg.toNat (k * 2 ^ (seg.toNat + 1))).2) rw)) s := by
  show execVfred g op t rd d a m seg s = _
  unfold execVfred
  congr 3 with rw v
  rw [Row.liveSegments, List.foldl_filter]
  refine congrArg (fun step => List.foldl step rw _) (funext₂ fun q k => ?_)
  simp only [isEmpty_filter]
  cases (v.actLanes g).any (fun l => l / 2 ^ (seg.toNat + 1) == k) <;> rfl

/-- Every lane that acts lies in a segment with a lane that acts. -/
theorem mem_liveSegments {r : Row} {S l : Nat} (hS : S ∣ r.L) (hl : l ∈ r.actLanes g) : l / S ∈ r.liveSegments g S := by
  rw [Row.liveSegments, List.mem_filter, List.mem_range, List.any_eq_true]
  exact ⟨Nat.div_lt_div_of_lt_of_dvd hS (mem_actLanes.1 hl).1, l, hl, beq_self_eq_true _⟩

theorem vfred_writes (ha : s.acting g) (hb : (s.row s.cur).fp.banked = false) (hm : (s.row s.cur).Fits m)
    (hh : (s.row s.cur).Has [d.toNat, a.toNat]) (hS : 2 ^ (seg.toNat + 1) ∣ (s.row s.cur).L) :
    let S := 2 ^ (seg.toNat + 1)
    let tree (k : Nat) : Nat × Flags := fredSeg (s.row s.cur) g op t rd a m seg.toNat (k * S)
    WritesV (.vfred g op t rd d a m seg) s (s.usedFp.now (fun q =>
        q.orFlags (((s.row s.cur).liveSegments g S).foldl (fun o k => o ||| (tree k).2) 0)))
      d.toNat ((s.row s.cur).inActs g (fun l => BitVec.ofNat 32 (tree (l / S)).1)) := by
  intro S tree
  have hwide : (amodWide m (s.row s.cur) || segWide seg (s.row s.cur)) = false := by
    obtain ⟨l, hl⟩ := List.exists_mem_of_ne_nil _ (by simpa [Row.anyActs] using ha.2)
    exact redWide_eq_false hm (Nat.le_of_dvd (Nat.zero_lt_of_lt (mem_actLanes.1 hl).1) hS)
  have hcome := comesTo_fp ha hb hwide hh (ha.1.holdV d.toNat) (execVfred_eq (op := op) (t := t) (rd := rd) s)
  refine WritesV.of (v := (((s.row s.cur).liveSegments g S).foldl
    (fun q k => q.putSegment d.toNat S ((s.row s.cur).actLanes g) tree k) (s.row s.cur)).v)
    (ComesTo.completes (s.drawn + 1) ?_ (usedFp_now_cur s _ _)) fun k l hl => ?_
  · rw [← usedFp_body]
    · exact hcome
    · exact foldl_segments_useFp _ _ _
  · rw [← foldl_putSegment_eq, foldl_putSegment_vreg _ _ (fun x hx => (mem_actLanes.1 hx).1) k l hl]
    by_cases hk : k = d.toNat
    · cases hact : (s.row s.cur).acts g l with
      | false => simp [mem_actLanes, Row.inActs, hact]
      | true =>
        have hmem := mem_actLanes.2 ⟨hl, hact⟩
        simp [Row.inActs, hact, hk, hmem, mem_liveSegments hS hmem, S]
    · simp [hk]

end

end Sys2Proof.Machine
end

section
/-! SUPPORT. The values of min, max and of the sign functions (R127), and the statement on the float words (R126 to R134). -/

namespace Sys2Proof.Machine

/-! ### The order of numbers -/

section
variable {f : FFmt} {n n1 n2 : Bool} {m m1 m2 : Nat} {e e1 e2 : Int} {x y : ℝ}

theorem FVal.lt_fin_iff (hx : (FVal.fin n1 m1 e1).Is x) (hy : (FVal.fin n2 m2 e2).Is y) :
    (FVal.fin n1 m1 e1).lt (.fin n2 m2 e2) = true ↔ x < y := by
  have hlt : (FVal.fin n1 m1 e1).lt (.fin n2 m2 e2) =
      decide (signedUnits n1 m1 e1 (min e1 e2) < signedUnits n2 m2 e2 (min e1 e2)) := rfl
  rw [hlt, decide_eq_true_eq, hx.eq_signedUnits (min_le_left e1 e2), hy.eq_signedUnits (min_le_right e1 e2),
    mul_lt_mul_iff_left₀ (two_zpow_pos _), Int.cast_lt]

theorem FVal.lt_iff {v w : FVal} (hx : v.Is x) (hy : w.Is y) : v.lt w = true ↔ x < y := by
  obtain ⟨n1, m1, e1, rfl⟩ := hx.eq_fin
  obtain ⟨n2, m2, e2, rfl⟩ := hy.eq_fin
  exact FVal.lt_fin_iff hx hy

/-- A format has one form for each magnitude. -/
theorem FFmt.Form.unique (h1 : f.Form m1 e1) (h2 : f.Form m2 e2) (h : (m1 : ℝ) * (2 : ℝ) ^ e1 = m2 * (2 : ℝ) ^ e2) :
    m1 = m2 ∧ e1 = e2 := by
  have key {m m' : Nat} {e e' : Int} (h1 : f.Form m e) (h2 : f.Form m' e') (hle : e ≤ e')
      (h : (m : ℝ) * (2 : ℝ) ^ e = m' * (2 : ℝ) ^ e') : m = m' ∧ e = e' := by
    obtain ⟨j, rfl⟩ := Int.le.dest hle
    rw [two_zpow_add_nat, ← mul_assoc, mul_left_inj' (two_zpow_pos e).ne'] at h
    have hm : m = m' * 2 ^ j := by exact_mod_cast h
    cases j with
    | zero => simpa using hm
    | succ j =>
      obtain ⟨-, he⟩ | ⟨hm', -⟩ := h2
      · have := h1.umin_le
        omega
      · refine absurd h1.lt (not_lt.2 ?_)
        rw [hm]
        exact Nat.mul_le_mul hm' (Nat.pow_le_pow_right Nat.two_pos (Nat.succ_le_succ (Nat.zero_le j)))
  obtain hle | hle := le_total e1 e2
  · exact key h1 h2 hle h
  · obtain ⟨hm, he⟩ := key h2 h1 hle h.symm
    exact ⟨hm.symm, he.symm⟩

/-- Two encodings of one number with one sign decode alike. -/
theorem FFmt.decode_unique (hf : f.Ok) {a b : Nat} (hx : (f.decode a).Is x) (hy : (f.decode b).Is x)
    (hn : (f.decode a).neg = (f.decode b).neg) : f.decode a = f.decode b := by
  obtain ⟨n1, m1, e1, ha⟩ := hx.eq_fin
  obtain ⟨n2, m2, e2, hb⟩ := hy.eq_fin
  rw [ha] at hx hn
  rw [hb] at hy hn
  obtain ⟨hm, he⟩ := (FFmt.form_of_decode hf ha).unique (FFmt.form_of_decode hf hb) (hx.abs_eq.symm.trans hy.abs_eq)
  have hn : n1 = n2 := hn
  rw [ha, hb, hn, hm, he]

end

/-! ### Min and max -/

/-- The order of R127, in which -0 is less than +0. -/
def FVal.below (x y : FVal) : Bool := x.lt y || (!y.lt x && x.neg && !y.neg)

section
variable {f : FFmt} (r : Rnd) {a b : Nat}

theorem faluVal_minmax_flags {op : FaluOp} (h : op ∈ [FaluOp.min, .max]) : (faluVal f op r a b).2 =
    flagIf ((f.decode a).isSNan || (f.decode b).isSNan) fInvalid ||| nfOf [f.decode a, f.decode b] := by
  have hflags (wantMax : Bool) : (f.minmax wantMax a b).2 =
      flagIf ((f.decode a).isSNan || (f.decode b).isSNan) fInvalid ||| nfOf [f.decode a, f.decode b] := by
    simp only [FFmt.minmax]
    split
    · rfl
    · split
      · rfl
      · split <;> rfl
  cases op with
  | min | max => exact hflags _
  | _ => simp at h

theorem faluVal_minmax_nan {op : FaluOp} (h : op ∈ [FaluOp.min, .max]) :
    ((f.decode a).isNan = true → (f.decode b).isNan = true → (faluVal f op r a b).1 = f.nanBits) ∧
    ((f.decode a).isNan = true → (f.decode b).isNan = false → (faluVal f op r a b).1 = b) ∧
    ((f.decode a).isNan = false → (f.decode b).isNan = true → (faluVal f op r a b).1 = a) := by
  cases op with
  | min | max =>
    refine ⟨fun ha hb => ?_, fun ha hb => ?_, fun ha hb => ?_⟩ <;> simp [faluVal, FFmt.minmax, ha, hb]
  | _ => simp at h

section
variable (ha : (f.decode a).isNan = false) (hb : (f.decode b).isNan = false)
include ha hb

theorem faluVal_min_max : (faluVal f .min r a b).1 = (if (f.decode a).below (f.decode b) then a else b) ∧
    (faluVal f .max r a b).1 = (if (f.decode a).below (f.decode b) then b else a) := by
  have hchoice (wantMax : Bool) :
      (f.minmax wantMax a b).1 = if ((f.decode a).below (f.decode b) != wantMax) = true then a else b := by
    simp only [FFmt.minmax, ha, hb, Bool.false_and, Bool.false_eq_true, if_false]
    rfl
  have hmin := hchoice false
  have hmax := hchoice true
  cases h : (f.decode a).below (f.decode b) <;> rw [h] at hmin hmax <;> exact ⟨hmin, hmax⟩

/-- The left operand is the less, or both are one value. -/
theorem faluVal_min_left (h : (f.decode a).below (f.decode b) = true ∨ f.decode a = f.decode b) :
    f.decode (faluVal f .min r a b).1 = f.decode a ∧ f.decode (faluVal f .max r a b).1 = f.decode b := by
  obtain ⟨hmin, hmax⟩ := faluVal_min_max r ha hb
  rw [hmin, hmax]
  obtain h | h := h
  · rw [if_pos h, if_pos h]
    exact ⟨rfl, rfl⟩
  · split <;> simp [h]

theorem faluVal_min_right (h : (f.decode a).below (f.decode b) = false ∨ f.decode a = f.decode b) :
    f.decode (faluVal f .min r a b).1 = f.decode b ∧ f.decode (faluVal f .max r a b).1 = f.decode a := by
  obtain ⟨hmin, hmax⟩ := faluVal_min_max r ha hb
  rw [hmin, hmax]
  obtain h | h := h
  · rw [h, if_neg Bool.false_ne_true, if_neg Bool.false_ne_true]
    exact ⟨rfl, rfl⟩
  · split <;> simp [h]

end

end

theorem FVal.below_of_inf {x y : FVal} (hx : x.isNan = false) (hy : y.isNan = false) (h : x = .inf true ∨ y = .inf false) :
    x.below y = true ∨ x = y := by
  obtain rfl | rfl := h
  · cases y with
    | nan => cases hy
    | inf n => cases n <;> simp [FVal.below, FVal.lt]
    | fin => simp [FVal.below, FVal.lt]
  · cases x with
    | nan => cases hx
    | inf n => cases n <;> simp [FVal.below, FVal.lt]
    | fin => simp [FVal.below, FVal.lt]

theorem FVal.not_below_of_inf {x y : FVal} (hx : x.isNan = false) (hy : y.isNan = false) (h : x = .inf false ∨ y = .inf true) :
    x.below y = false := by
  obtain rfl | rfl := h
  · cases y with
    | nan => cases hy
    | inf n => cases n <;> simp [FVal.below, FVal.lt, FVal.neg]
    | fin => simp [FVal.below, FVal.lt, FVal.neg]
  · cases x with
    | nan => cases hx
    | inf n => cases n <;> simp [FVal.below, FVal.lt, FVal.neg]
    | fin => simp [FVal.below, FVal.lt, FVal.neg]

section
variable {v w : FVal} {x y : ℝ}

theorem FVal.below_iff (hx : v.Is x) (hy : w.Is y) : v.below w = true ↔ x < y ∨ (x = y ∧ v.neg = true ∧ w.neg = false) := by
  rw [FVal.below, Bool.or_eq_true, FVal.lt_iff hx hy, Bool.and_eq_true, Bool.and_eq_true, Bool.not_eq_true',
    ← Bool.not_eq_true, FVal.lt_iff hy hx, Bool.not_eq_true', not_lt, and_assoc]
  constructor
  · rintro (h | ⟨hle, hneg⟩)
    · exact .inl h
    · exact hle.lt_or_eq.imp_right fun h => ⟨h, hneg⟩
  · rintro (h | ⟨rfl, hneg⟩)
    · exact .inl h
    · exact .inr ⟨le_rfl, hneg⟩

theorem FVal.not_below (hx : v.Is x) (hy : w.Is y) (h : y < x ∨ (x = y ∧ w.neg = true)) : v.below w = false := by
  rw [← Bool.not_eq_true, FVal.below_iff hx hy]
  rintro (hlt | ⟨rfl, -, hw⟩)
  · obtain h | ⟨rfl, -⟩ := h
    · exact hlt.not_gt h
    · exact lt_irrefl _ hlt
  · obtain h | ⟨-, hw'⟩ := h
    · exact lt_irrefl _ h
    · exact Bool.false_ne_true (hw.symm.trans hw')

/-- Of two numbers of one value, of which the left is negative, the left is -0 and the right +0, or both decode alike. -/
theorem FFmt.below_or_eq {f : FFmt} (hf : f.Ok) {a b : Nat} (hx : (f.decode a).Is x) (hy : (f.decode b).Is y)
    (h : x < y ∨ (x = y ∧ (f.decode a).neg = true)) :
    (f.decode a).below (f.decode b) = true ∨ f.decode a = f.decode b := by
  obtain h | ⟨rfl, ha⟩ := h
  · exact .inl ((FVal.below_iff hx hy).2 (.inl h))
  · cases hb : (f.decode b).neg with
    | false => exact .inl ((FVal.below_iff hx hy).2 (.inr ⟨rfl, ha, hb⟩))
    | true => exact .inr (FFmt.decode_unique hf hx hy (ha.trans hb.symm))

end

theorem FVal.Is.not_nan {v : FVal} {x : ℝ} (h : v.Is x) : v.isNan = false := by
  obtain ⟨n, m, e, rfl⟩ := h.eq_fin
  rfl

theorem nfOf_one (x : FVal) : nfOf [x] = if x.finite = true then 0 else fNF := by
  cases x <;> rfl

theorem nfOf_two (x y : FVal) : nfOf [x, y] = if x.finite = true ∧ y.finite = true then 0 else fNF := by
  cases x <;> cases y <;> rfl

/-- Settles O18: each word by the rule for words of the FP datapath, the sign functions by the sign of the encoding, min and max by the
order of the operands. -/
theorem floatResults : Obligations.FloatResults := by
  unfold Obligations.FloatResults
  refine ⟨fun s g d a b m t rd c ha hb hm hh => ?_, fun f r a b hf ha hb => ?_,
    fun s g t h d a m b j ha hb hm hr hL => ⟨?_, fun hj hit hlow => vfclassTrap_traps ha hb hm hr hj hit hlow,
      fun hmiss => vfclassTrap_passes ha hb hm hr hmiss⟩, fun s g op t rd d a m seg ha hb hm hh hS => ?_⟩
  · intro r F gives A B D C
    have hda : r.Has [d.toNat, a.toNat] := hh.mono (by simp)
    exact ⟨fun op => (floatTo_writes_of_fits ha hb hm hh (exec_vfalu g d a b m t rd s op) :),
      fun op => (floatTo_writes_of_fits ha hb hm hh (exec_vfma g d a b m t rd s op) :),
      fun op => (floatTo_writes_of_fits ha hb hm hda (exec_vfmas g d a m t rd c s op) :),
      fun op => (floatTo_writes_of_fits ha hb hm hda (exec_vfun g d a m t rd s op) :),
      (floatTo_writes_of_fits ha hb hm hh (exec_vfdiv g d a b m t rd s) :)⟩
  · have hf := FFmt.Ok.of_mem hf
    intro x y val withSign quiet nf
    have hsign (n : Bool) (v : FVal) : v.withSign n = withSign n v := by cases v <;> rfl
    have hmod : b % (2 * f.signBit) = b := Nat.mod_eq_of_lt hb
    have hresign (hx : x.isNan = false) (n : Bool) : f.decode (f.resign a n) = withSign n x := by
      rw [FFmt.resign_of_not_nan hx, FFmt.decode_signed_mod, ← hsign]
    refine ⟨fun hx => ⟨hresign hx _, hresign hx _, ?_⟩, fun hx => ⟨FFmt.resign_of_nan hx _, FFmt.resign_of_nan hx _,
      FFmt.resign_of_nan hx _⟩, ?_, nfOf_two x y, fun op hop => ?_, fun op hop => faluVal_minmax_nan r hop, fun hx hy h => ?_,
      fun hx hy h => ?_, fun X Y hX hY => ⟨fun h => ?_, fun h => ?_, fun hXY hx hy => ?_⟩⟩
    · show f.decode (f.resign a (decide (f.signBit ≤ b % (2 * f.signBit)))) = _
      rw [hmod]
      exact hresign hx _
    · intro op hop
      cases op with
      | abs | neg => exact nfOf_one x
      | _ => simp at hop
    · rw [faluVal_minmax_flags r hop, nfOf_two]
      rfl
    · exact faluVal_min_left r hx hy (FVal.below_of_inf hx hy h)
    · exact faluVal_min_right r hx hy (.inl (FVal.not_below_of_inf hx hy h))
    · exact faluVal_min_left r hX.not_nan hY.not_nan (FFmt.below_or_eq hf hX hY h)
    · exact faluVal_min_right r hX.not_nan hY.not_nan (.inl (FVal.not_below hX hY h))
    · subst hXY
      have heq := FFmt.decode_unique hf hX hY (hx.trans hy.symm)
      obtain ⟨hmin, hmax⟩ := faluVal_min_left r hX.not_nan hY.not_nan (.inr heq)
      exact ⟨hmin, hmax.trans heq.symm⟩
  · convert vfclass_writes ha hb hm hr d hL using 1
    funext k l
    rw [predWrite_eq]
  · exact vfred_writes ha hb hm hh hS

end Sys2Proof.Machine
end

section
/-! SUPPORT. Integers of a format (R138, R139) and saturation (R142): what the bits of an integer read back as, and what Sat gives
below, within and above its range. -/

namespace Sys2Proof.Machine

section
variable {w : Nat} {sgn : Bool} {x : Int}

theorem rangeLo_le_rangeHi (w : Nat) (sgn : Bool) : rangeLo w sgn ≤ rangeHi w sgn := by
  have hhalf : (0 : Int) < 2 ^ (w - 1) := by positivity
  have hfull : (0 : Int) < 2 ^ w := by positivity
  cases sgn <;> simp only [rangeLo, rangeHi, if_true, Bool.false_eq_true, if_false] <;> omega

theorem satRange_of_lt (h : x < rangeLo w sgn) (inexact : Bool) : satRange w sgn x inexact = (rangeLo w sgn, fInvalid) :=
  if_pos h

theorem satRange_of_gt (h : rangeHi w sgn < x) (inexact : Bool) : satRange w sgn x inexact = (rangeHi w sgn, fInvalid) := by
  have hle := rangeLo_le_rangeHi w sgn
  rw [satRange, if_neg (by omega), if_pos h]

theorem satRange_of_mem (hlo : rangeLo w sgn ≤ x) (hhi : x ≤ rangeHi w sgn) (inexact : Bool) :
    satRange w sgn x inexact = (x, flagIf inexact fInexact) := by
  rw [satRange, if_neg (not_lt.2 hlo), if_neg (not_lt.2 hhi)]

theorem satRange_mem (w : Nat) (sgn : Bool) (x : Int) (inexact : Bool) :
    rangeLo w sgn ≤ (satRange w sgn x inexact).1 ∧ (satRange w sgn x inexact).1 ≤ rangeHi w sgn := by
  have hle := rangeLo_le_rangeHi w sgn
  obtain hlt | hlo := lt_or_ge x (rangeLo w sgn)
  · rw [satRange_of_lt hlt]
    exact ⟨le_rfl, hle⟩
  · obtain hgt | hhi := lt_or_ge (rangeHi w sgn) x
    · rw [satRange_of_gt hgt]
      exact ⟨hle, le_rfl⟩
    · rw [satRange_of_mem hlo hhi]
      exact ⟨hlo, hhi⟩

/-- The bits of an integer of the range read back as that integer. -/
theorem intOf_bitsOf (hw : 0 < w) (hlo : rangeLo w sgn ≤ x) (hhi : x ≤ rangeHi w sgn) : intOf w sgn (bitsOf w x) = x := by
  obtain ⟨k, rfl⟩ := Nat.exists_eq_succ_of_ne_zero hw.ne'
  have hpos : (0 : Int) < 2 ^ k := by positivity
  have hpow : (2 : Int) ^ (k + 1) = 2 * 2 ^ k := by ring
  have hnat : ((2 ^ k : Nat) : Int) = 2 ^ k := by push_cast; rfl
  simp only [rangeLo, rangeHi, intOf, bitsOf, Nat.succ_eq_add_one, Nat.add_sub_cancel, hpow] at *
  generalize (2 : Int) ^ k = p at *
  generalize 2 ^ k = n at *
  cases sgn with
  | false =>
    simp only [Bool.false_eq_true, if_false, Bool.false_and] at *
    rw [Int.emod_eq_of_lt (by omega) (by omega)]
    omega
  | true =>
    simp only [if_true, Bool.true_and, decide_eq_true_eq] at *
    obtain hneg | hpos := lt_or_ge x 0
    · rw [← Int.add_emod_right, Int.emod_eq_of_lt (by omega) (by omega)]
      split <;> omega
    · rw [Int.emod_eq_of_lt (by omega) (by omega)]
      split <;> omega

/-- Fewer bits of an integer are the low ones of more. -/
theorem bitsOf_mod_two_pow {v : Nat} (h : v ≤ w) (x : Int) : bitsOf w x % 2 ^ v = bitsOf v x := by
  have hpos : (0 : Int) < 2 ^ w := by positivity
  have hpos' : (0 : Int) < 2 ^ v := by positivity
  have hmod := Int.emod_nonneg x hpos.ne'
  have hmod' := Int.emod_nonneg x hpos'.ne'
  zify
  rw [bitsOf, bitsOf, Int.toNat_of_nonneg hmod, Int.toNat_of_nonneg hmod',
    Int.emod_emod_of_dvd x (pow_dvd_pow 2 h)]

theorem signedInt_natAbs (x : Int) : signedInt (decide (x < 0)) x.natAbs = x := by
  rw [signedInt]
  split
  next h => have := of_decide_eq_true h; omega
  next h => have := of_decide_eq_false (Bool.eq_false_iff.2 h); omega

/-- A float that holds an integer needs no rounding. -/
theorem floatToRange_int (w : Nat) (sgn : Bool) (mode : Rnd) (x : Int) :
    floatToRange w sgn mode (.fin (decide (x < 0)) x.natAbs 0) = satRange w sgn x false := by
  have hint : toIntegral mode (decide (x < 0)) x.natAbs 0 = (x.natAbs, false) := by
    rw [toIntegral, roundAt, if_pos le_rfl, Int.sub_zero, Int.toNat_zero, pow_zero, Nat.mul_one]
  simp only [floatToRange, hint, signedInt_natAbs]

end

end Sys2Proof.Machine
end

section
/-! SUPPORT. Conversions (R142 to R145, R151): a magnitude that a format holds without rounding, one beyond its range, and the words
VCVT, VFLI and VDQNT. -/

namespace Sys2Proof.Machine

/-! ### Magnitudes that need no rounding -/

section
variable {f : FFmt} {mode : Rnd} {neg : Bool} {m : Nat} {e : Int}

/-- A significand of the format's bits within its exponents is packed as it stands, and raises nothing. -/
theorem FFmt.round_fits (hf : f.Ok) (hm : m < 2 ^ (f.mb + 1)) (he : f.umin ≤ e) (htop : e + bitLen m ≤ f.umax + f.mb + 1) :
    ∃ k v, f.decode (f.round mode neg m e).1 = .fin neg k v ∧ (k : ℝ) * (2 : ℝ) ^ v = m * (2 : ℝ) ^ e ∧
      (f.round mode neg m e).2 = 0 := by
  obtain rfl | hm0 := Nat.eq_zero_or_pos m
  · exact ⟨0, f.umin, FFmt.decode_zero hf neg, by simp, rfl⟩
  have hlen : bitLen m ≤ f.mb + 1 := bitLen_le_iff.2 hm
  obtain ⟨n, hn⟩ : ∃ n, bitLen m = n + 1 := Nat.exists_eq_succ_of_ne_zero fun h0 =>
    hm0.ne' (Nat.lt_one_iff.1 (bitLen_le_iff.1 h0.le))
  have hspan := hf.span
  have hfour := hf.four_le
  have hlead : f.lead m e = e + bitLen m - (f.mb + 1) := rfl
  obtain ⟨u, hu⟩ : ∃ u, u = max (f.lead m e) f.umin := ⟨_, rfl⟩
  obtain ⟨k, rfl⟩ := Int.le.dest (show u ≤ e by omega)
  have hat : roundAt mode neg m (u + k) u false = (m * 2 ^ k, false) := by
    rw [roundAt, if_pos (by omega), add_sub_cancel_left, Int.toNat_natCast]
  have hlt : m * 2 ^ k < 2 ^ (f.mb + 1) := by
    have := Nat.mul_lt_mul_of_pos_right (lt_two_pow_bitLen m) (show 0 < 2 ^ k by positivity)
    rw [← pow_add] at this
    exact this.trans_le (Nat.pow_le_pow_right Nat.two_pos (by omega))
  have hlow : u = f.umin ∨ 2 ^ f.mb ≤ m * 2 ^ k := by
    obtain hmax | hmin := max_choice (f.lead m (u + k)) f.umin
    · refine .inr ?_
      calc 2 ^ f.mb = 2 ^ n * 2 ^ k := by rw [← pow_add]; congr 1; omega
        _ ≤ m * 2 ^ k := Nat.mul_le_mul_right _ (lt_bitLen_iff.1 (by omega))
    · exact .inl (hu.trans hmin)
  have hin : ¬ (f.umax < u ∨ (u = f.umax ∧ 2 ^ (f.mb + 1) ≤ m * 2 ^ k)) := by omega
  rw [FFmt.round_eq f mode neg _ (fun h => hm0.ne' h.1), ← hu, hat, FFmt.answer, if_neg hin]
  obtain ⟨q, v, hdec, hval, -⟩ := FFmt.decode_pack hf neg (show f.umin ≤ u by omega) (show u ≤ f.umax by omega) hlt.le
    (fun h => absurd h.2 (not_le.2 hlt)) hlow
  refine ⟨q, v, hdec, ?_, roundFlags_exact _ rfl⟩
  rw [hval, two_zpow_add_nat]
  push_cast
  ring

/-- A magnitude of more bits than the format's range has overflows. -/
theorem FFmt.round_beyond (hf : f.Ok) (hm : m ≠ 0) (htop : f.umax + f.mb + 1 < e + bitLen m) :
    f.round mode neg m e = f.overflowOut mode neg := by
  have hspan := hf.umin_le_umax
  have hlead : f.lead m e = e + bitLen m - (f.mb + 1) := rfl
  rw [FFmt.round_eq f mode neg e (fun h => hm h.1), FFmt.answer, if_pos (.inl (by omega))]

theorem bitLen_le_of_lt_zpow {t : Int} (h : m * (2 : ℝ) ^ e < (2 : ℝ) ^ t) (hm : m ≠ 0) : e + bitLen m ≤ t := by
  obtain ⟨n, hn⟩ : ∃ n, bitLen m = n + 1 := Nat.exists_eq_succ_of_ne_zero fun h0 =>
    hm (Nat.lt_one_iff.1 (bitLen_le_iff.1 h0.le))
  have hlow : (2 : ℝ) ^ n ≤ m := by exact_mod_cast lt_bitLen_iff.1 (show n < bitLen m by omega)
  have hlt : (2 : ℝ) ^ (e + n) < (2 : ℝ) ^ t := by
    rw [two_zpow_add_nat]
    exact (mul_le_mul_of_nonneg_right hlow (two_zpow_pos e).le).trans_lt h
  have := (zpow_lt_zpow_iff_right₀ one_lt_two).1 hlt
  omega

end

/-! ### VDQNT's element (R151) -/

theorem fmt32_ok : fmt32.Ok := .of_mem (by simp)

section
variable {sgn : Bool} {e b : Nat}

theorem natAbs_intOf_lt (hb : b < 256) : (intOf 8 sgn b).natAbs < 256 := by
  rw [intOf]
  split
  next h => simp only [Bool.and_eq_true, decide_eq_true_eq] at h; omega
  next => omega

/-- The element is the stored integer at the scale's exponent, rounded once. -/
theorem dqntVal_of_scale (he : e < 255) : dqntVal sgn e b =
    ((fmt32.round .rne (decide (intOf 8 sgn b < 0)) (intOf 8 sgn b).natAbs ((e : Int) - 127)).1,
      (fmt32.round .rne (decide (intOf 8 sgn b < 0)) (intOf 8 sgn b).natAbs ((e : Int) - 127)).2 &&& ~~~fNF) :=
  if_neg he.ne

theorem dqntVal_exact (he : e < 255) (hb : b < 256)
    (hlt : |(intOf 8 sgn b : ℝ) * (2 : ℝ) ^ ((e : Int) - 127)| < (2 : ℝ) ^ (128 : Int)) :
    (fmt32.decode (dqntVal sgn e b).1).Is ((intOf 8 sgn b : ℝ) * (2 : ℝ) ^ ((e : Int) - 127)) ∧ (dqntVal sgn e b).2 = 0 := by
  have hsmall := natAbs_intOf_lt (sgn := sgn) hb
  have his := FVal.is_natAbs (intOf 8 sgn b) ((e : Int) - 127)
  have hmin : fmt32.umin ≤ (e : Int) - 127 := by
    show (-149 : Int) ≤ _
    omega
  have htop : (e : Int) - 127 + bitLen (intOf 8 sgn b).natAbs ≤ fmt32.umax + fmt32.mb + 1 := by
    show _ ≤ (128 : Int)
    obtain h0 | h0 := eq_or_ne (intOf 8 sgn b).natAbs 0
    · rw [h0, show bitLen 0 = 0 from rfl]
      omega
    · exact bitLen_le_of_lt_zpow (his.abs_eq ▸ hlt) h0
  obtain ⟨k, v, hdec, hval, hflags⟩ := FFmt.round_fits (mode := .rne) (neg := decide (intOf 8 sgn b < 0)) fmt32_ok
    (hsmall.trans (by decide)) hmin htop
  rw [dqntVal_of_scale he, hdec, hflags, FVal.is_fin, hval]
  exact ⟨FVal.is_fin.1 his, BitVec.zero_and⟩

theorem dqntVal_beyond (he : e < 255) (hbig : 2 ^ (255 - e) ≤ (intOf 8 sgn b).natAbs) :
    dqntVal sgn e b = (fmt32.signed (decide (intOf 8 sgn b < 0)) fmt32.infBits, fOverflow ||| fInexact) := by
  have hlen := lt_bitLen_iff.2 hbig
  have hne : (intOf 8 sgn b).natAbs ≠ 0 := fun h0 => absurd hbig (by rw [h0, not_le]; positivity)
  have htop : fmt32.umax + fmt32.mb + 1 < (e : Int) - 127 + bitLen (intOf 8 sgn b).natAbs := by
    show (128 : Int) < _
    omega
  rw [dqntVal_of_scale he, FFmt.round_beyond fmt32_ok hne htop, FFmt.overflowOut_of_not_inward fmt32_ok (by simp [Rnd.Inward])]
  have hflags : (fOverflow ||| fInexact ||| fNF) &&& ~~~fNF = fOverflow ||| fInexact := by decide
  exact congrArg (Prod.mk _) hflags

end

/-! ### The words (R143, R145, R151) -/

section
variable (g : Guard) (d a : VReg) (m : Amod) (s : State)

theorem exec_vcvt (st dt : CTy) (rd : Rnd) (sgn : Bool) (ed es : BitVec 2) : exec (.vcvt g st dt rd sgn ed es d a m) s =
    floatTo { fpPlan false with units := cvtUnits st dt, illegal := amodWide m, regs := [d.toNat, a.toNat] } g d
      (fun v l => cvtLane st dt rd sgn ed.toNat es.toNat (v.vreg d.toNat l) (v.src a m l)) s := rfl

theorem exec_vfli (form : BitVec 2) (h : BitVec 16) : exec (.vfli g form h d) s =
    floatTo { fpPlan (form == 1 || form == 2) with regs := [d.toNat] } g d (fun _ _ => (vfliVal form h, 0)) s := rfl

/-- One lane of VDQNT: element l % 256 of its segment's block, at the segment's scale. -/
def dqntLane (j : BitVec 2) (sgn : Bool) (a : VReg) (b : SReg) (v : Row) (l : Nat) : W32 × Flags :=
  let w := v.vreg a.toNat (l / 256 * 256 + 64 * j.toNat + l % 256 / 4)
  let y := dqntVal sgn (scaleByte (v.sreg b.toNat) (l / 256)) (elemAt 8 w (l % 4)).toNat
  (BitVec.ofNat 32 y.1, y.2)

theorem exec_vdqnt (j : BitVec 2) (sgn : Bool) (b : SReg) : exec (.vdqnt g j sgn d a b) s =
    floatTo { fpPlan false with illegal := fun r => r.L < 256, regs := [d.toNat, a.toNat] } g d (dqntLane j sgn a b) s := by
  show execVdqnt g j sgn d a b s = _
  unfold execVdqnt
  refine congrArg (fun f => floatTo _ g d f s) (funext₂ fun v l => ?_)
  simp only [sub_mod_eq_div_mul, Nat.mod_mod_of_dvd l (show 4 ∣ 256 by decide), dqntLane]

end

/-- The rule for words of the FP datapath, for a plan that names its registers. -/
theorem floatTo_writes_of_has {i : Instr} {s : State} {p : Plan} {g : Guard} {d : VReg} {f : Row → Nat → W32 × Flags}
    (he : exec i s = floatTo p g d f s) (ha : s.acting g) (hb : (s.row s.cur).fp.banked = false)
    (hl : p.illegal (s.row s.cur) = false) (hr : (s.row s.cur).Has p.regs) (ho : p.regsOf (s.row s.cur) = [])
    (hn : p.nest = false) (hp : p.priv = false) (hf : p.fp = true) :
    WritesV i s (s.usedFp.now (fun r => r.orFlags (((s.row s.cur).actLanes g).foldl (fun a l => a ||| (f (s.row s.cur) l).2) 0)))
      d.toNat ((s.row s.cur).inActs g (fun l => (f (s.row s.cur) l).1)) :=
  floatTo_writes he ha hl (by rw [ho, List.append_nil]; exact hr.badReg) hn hp hf hb

/-- Settles O19: each word by the rule for words of the FP datapath, saturation by the three parts of its range, and VDQNT's element
by the one rounding of a magnitude that the format holds or that lies beyond its range (its flags there are the model's choice of log
entry 68). -/
theorem conversionResults : Obligations.ConversionResults := by
  unfold Obligations.ConversionResults
  refine ⟨fun s g d a m b st dt rd sgn ed es j form h ha hb hm hh => ?_, fun w sgn x mode n hw => ?_, fun sgn e b he hb => ?_⟩
  · intro r gives
    have hd : r.Has [d.toNat] := hh.mono (by simp)
    refine ⟨?vcvt, ?vfli, fun hL => ?vdqnt⟩
    case vcvt =>
      exact (floatTo_writes_of_has (exec_vcvt g d a m s st dt rd sgn ed es) ha hb hm.amodWide hh rfl rfl rfl rfl :)
    case vfli => exact (floatTo_writes_of_has (exec_vfli g d s form h) ha hb rfl hd rfl rfl rfl rfl :)
    case vdqnt =>
      exact (floatTo_writes_of_has (exec_vdqnt g d a s j sgn b) ha hb (decide_eq_false (not_lt.2 hL)) hh rfl rfl rfl rfl :)
  · intro lo hi
    refine ⟨fun hlo hhi => ⟨satRange_of_mem hlo hhi false, intOf_bitsOf hw hlo hhi, ?_⟩, fun h => satRange_of_lt h false,
      fun h => satRange_of_gt h false, rfl, rfl⟩
    rw [floatToRange_int]
    exact satRange_of_mem hlo hhi false
  · intro out q
    refine ⟨fun h => if_pos h, fun h => ⟨?_, fun _ hbig => dqntVal_beyond h hbig⟩⟩
    rintro x rfl hlt
    exact dqntVal_exact h hb hlt

end Sys2Proof.Machine
end

section
/-! SUPPORT. Stochastic rounding (R146 to R148, R152): words of the FP datapath by what their body leaves, the sweep of csr.rng over the
lanes that act, and RoundSto's integer. -/

namespace Sys2Proof.Machine

/-! ### Words of the FP datapath that write one vector register -/

/-- Nothing of a plan keeps a word of the FP datapath from acting. -/
structure Plan.FpClear (p : Plan) (r : Row) : Prop where
  legal : p.illegal r = false
  regs : r.Has p.regs
  regsOf : p.regsOf r = []
  nest : p.nest = false
  priv : p.priv = false
  hold : p.hold r = false
  fp : p.fp = true
  banked : r.fp.banked = false

section
variable {i : Instr} {s : State} {g : Guard} {p : Plan}

theorem Plan.FpClear.clear (hp : p.FpClear (s.row s.cur)) : p.Clear (s.row s.cur) :=
  Plan.clear_lanes hp.legal hp.regs hp.regsOf hp.nest hp.priv hp.hold (by rw [hp.banked, Bool.and_false])

theorem comesTo_fpWord {go : Row → Bool} {body : State → Nat → Row → Res} (he : exec i s = issueWord p go body s)
    (hq : (s.row s.cur).Quiet) (hp : p.FpClear (s.row s.cur)) (hgo : go (s.row s.cur) = true) :
    ComesTo i s (body s.draw.usedFp s.cur (s.row s.cur)) := by
  have hcome := comesTo_issueWord he hq hp.clear hgo
  rwa [Plan.start, hp.fp, if_pos rfl] at hcome

/-- A word whose body leaves its row as F does, but for the vector registers v. -/
theorem WritesV.of_body {H : Row → Row → Row} {F : Row → Row} {v : Tbl W32} {d : Nat} {f : Nat → Option W32}
    (he : exec i s = issueL p g (onRow H) s) (ha : s.acting g) (hp : p.FpClear (s.row s.cur))
    (hH : ∀ clk, H ((s.row s.cur).useFp clk) (s.row s.cur) = { F ((s.row s.cur).useFp clk) with v := v })
    (hv : ∀ k l, l < (s.row s.cur).L → ({ s.row s.cur with v := v } : Row).vreg k l =
      (if k = d then f l else none).getD ((s.row s.cur).vreg k l)) : WritesV i s (s.usedFp.now F) d f := by
  have hcome := comesTo_fpWord (go := fun r => r.anyActs g) he ha.1 hp ha.2
  refine WritesV.of (v := v) (ComesTo.completes (s.drawn + 1) ?_ (usedFp_now_cur s F _)) hv
  rw [← usedFp_body]
  · exact hcome
  · exact hH (s.rowClk s.cur)

end

/-! ### The sweep (R146) -/

/-- csr.rng as the advance of lane l leaves it, where the lanes of p advance it in ascending order. -/
def rngAfter (p : Nat → Bool) (x : W64) (l : Nat) : W64 := Nat.repeat rngNext ((List.range (l + 1)).countP p) x

theorem rngSweep_filter_range (p : Nat → Bool) (x : W64) (f : Nat → W64 → W32 × Flags) (n : Nat) :
    rngSweep ((List.range n).filter p) x f =
      (((List.range n).filter p).map (fun l => (l, (f l (rngAfter p x l)).1)),
        ((List.range n).filter p).foldl (fun o l => o ||| (f l (rngAfter p x l)).2) 0,
        Nat.repeat rngNext ((List.range n).countP p) x) := by
  induction n with
  | zero => rfl
  | succ n ih =>
    rw [rngSweep] at ih ⊢
    rw [List.range_succ, List.filter_append, List.foldl_append, ih]
    cases hp : p n with
    | false => simp [hp]
    | true =>
      have hafter : rngAfter p x n = rngNext (Nat.repeat rngNext ((List.range n).countP p) x) := by
        rw [rngAfter, List.range_succ, List.countP_append, List.countP_singleton, hp]
        rfl
      simp [hp, hafter, Nat.repeat]

/-- What a sweep over the lanes that act leaves of a row. -/
theorem rngLanes_actLanes (q r : Row) (g : Guard) (d : Nat) (f : Nat → W64 → W32 × Flags) :
    let out (l : Nat) : W32 × Flags := f l (rngAfter (r.acts g) q.csr.rng l)
    q.rngLanes d (r.actLanes g) f =
      { ({ q with csr := { q.csr with rng := Nat.repeat rngNext (r.actLanes g).length q.csr.rng } } : Row).orFlags
          ((r.actLanes g).foldl (fun o l => o ||| (out l).2) 0) with
        v := (q.setLanes d (r.actLanes g) (fun l => (out l).1)).v } := by
  intro out
  have hsweep := rngSweep_filter_range (r.acts g) q.csr.rng f r.L
  rw [List.countP_eq_length_filter] at hsweep
  rw [Row.rngLanes, Row.actLanes, hsweep]
  simp only [List.map_map]
  rfl

/-- A word that rounds each lane that acts with a state of csr.rng. -/
theorem rngLanes_writes {i : Instr} {s : State} {g : Guard} {p : Plan} {d : Nat} {lane : Row → Nat → W64 → W32 × Flags}
    (he : exec i s = issueL p g (onRow (fun r v => r.rngLanes d (v.actLanes g) (lane v))) s) (ha : s.acting g)
    (hp : p.FpClear (s.row s.cur)) :
    let r := s.row s.cur
    let out (l : Nat) : W32 × Flags := lane r l (rngAfter (r.acts g) r.csr.rng l)
    WritesV i s (s.usedFp.now (fun q => ({ q with
        csr := { q.csr with rng := Nat.repeat rngNext (r.actLanes g).length r.csr.rng } } : Row).orFlags
          ((r.actLanes g).foldl (fun o l => o ||| (out l).2) 0))) d (r.inActs g (fun l => (out l).1)) := by
  intro r out
  exact WritesV.of_body (v := (r.setLanes d (r.actLanes g) (fun l => (out l).1)).v) he ha hp
    (fun clk => rngLanes_actLanes (r.useFp clk) r g d (lane r)) (fun k l hl => setLanes_acts r g d k l _ hl)

/-! ### VSRND and VREQ.sto (R148, R152) -/

/-- One lane of VSRND with a state of csr.rng. -/
def srndLane (bf : Bool) (n : Nat) (a : VReg) (m : Amod) (b : VReg) (v : Row) (l : Nat) (st : W64) : W32 × Flags :=
  let f := if bf then fmtB16 else fmt16
  let lo := srndVal f n (rngField st 64 n) (v.src a m l).toNat
  let hi := srndVal f n (rngField st 48 n) (v.vreg b.toNat l).toNat
  (BitVec.ofNat 16 hi.1 ++ BitVec.ofNat 16 lo.1, lo.2 ||| hi.2)

/-- One lane of VREQ.sto with a state of csr.rng. -/
def reqStoLane (n w : Nat) (sgn : Bool) (a b : VReg) (v : Row) (l : Nat) (st : W64) : W32 × Flags :=
  reqLane w sgn (v.vreg b.toNat (l / 64 * 64)) (v.vreg a.toNat l)
    (fun c _ m e => stoInt m e 0 n (rngField st (64 - 16 * c) n))

theorem exec_vsrnd (g : Guard) (bf : Bool) (k : BitVec 4) (d a : VReg) (m : Amod) (b : VReg) (s : State) :
    exec (.vsrnd g bf k d a m b) s =
      issueL { fpPlan true with
        illegal := amodWide m, regs := [d.toNat, a.toNat, b.toNat], hold := fun r => r.holdV d.toNat } g
        (onRow (fun r v => r.rngLanes d.toNat (v.actLanes g) (srndLane bf (k.toNat + 1) a m b v))) s := rfl

/-- The plan of VREQ. -/
def vreqPlan (d a b : VReg) : Plan :=
  { fpPlan false with
    units := 2, illegal := fun r => r.L < 64, regs := [d.toNat, a.toNat, b.toNat], hold := fun r => r.holdV d.toNat }

theorem exec_vreq_sto (g : Guard) (k : BitVec 4) (sgn : Bool) (w : BitVec 3) (d a b : VReg) (s : State) :
    exec (.vreq g true k sgn w d a b) s = issueL (vreqPlan d a b) g
      (onRow (fun r v => r.rngLanes d.toNat (v.actLanes g) (reqStoLane (k.toNat + 1) (w.toNat + 1) sgn a b v))) s := by
  have hseg (l : Nat) : l / 64 * 64 = l - l % 64 := (sub_mod_eq_div_mul l 64).symm
  unfold reqStoLane
  simp only [hseg]
  rfl

/-! ### RoundSto's integer (R147) -/

section
variable {m k r : Nat} {e u : Int}

theorem stoInt_of_le (h : u ≤ e) : stoInt m e u k r = m * 2 ^ (e - u).toNat := if_pos h

/-- The test of `up` (R147) for d discarded bits. -/
def stoUp (m d k r : Nat) : Bool := decide (2 ^ min k d ≤ m % 2 ^ d * 2 ^ min k d / 2 ^ d + r / 2 ^ (k - min k d))

theorem stoInt_of_lt (h : e < u) :
    stoInt m e u k r = m / 2 ^ (u - e).toNat + (stoUp m (u - e).toNat k r).toNat := if_neg (not_le.2 h)

theorem stoUp_exact {d : Nat} (hr : r < 2 ^ k) (h : m % 2 ^ d = 0) : stoUp m d k r = false := by
  have hlt : r / 2 ^ (k - min k d) < 2 ^ min k d := by
    rw [Nat.div_lt_iff_lt_mul (by positivity), ← pow_add, Nat.add_sub_cancel' (min_le_left k d)]
    exact hr
  rw [stoUp, h, Nat.zero_mul, Nat.zero_div, Nat.zero_add, decide_eq_false (not_le.2 hlt)]

/-- With no more random bits than discarded ones, the random value is added to the top k of these. -/
theorem stoUp_iff {d : Nat} (hk : k ≤ d) : stoUp m d k r = decide (2 ^ k - m % 2 ^ d / 2 ^ (d - k) ≤ r) := by
  have htop : m % 2 ^ d * 2 ^ k / 2 ^ d = m % 2 ^ d / 2 ^ (d - k) := by
    have hpow : 2 ^ (d - k) * 2 ^ k = 2 ^ d := by rw [← pow_add, Nat.sub_add_cancel hk]
    calc m % 2 ^ d * 2 ^ k / 2 ^ d = m % 2 ^ d * 2 ^ k / (2 ^ (d - k) * 2 ^ k) := by rw [hpow]
      _ = m % 2 ^ d / 2 ^ (d - k) := Nat.mul_div_mul_right _ _ (by positivity)
  rw [stoUp, min_eq_left hk, htop, Nat.sub_self, pow_zero, Nat.div_one]
  exact decide_eq_decide.2 (by omega)

theorem countP_range_le {n c : Nat} (hc : c ≤ n) : (List.range n).countP (fun x => decide (n - c ≤ x)) = c := by
  have hn : List.range n = List.range (n - c + c) := by rw [Nat.sub_add_cancel hc]
  rw [hn, List.range_add, List.countP_append, List.countP_eq_zero.2, List.countP_eq_length.2, List.length_map,
    List.length_range, Nat.zero_add]
  · intro x hx
    obtain ⟨y, -, rfl⟩ := List.mem_map.1 hx
    exact decide_eq_true (Nat.le_add_right _ _)
  · intro x hx
    rw [decide_eq_true_eq, not_le]
    exact List.mem_range.1 hx

theorem countP_stoInt (h : e < u) (hk : k ≤ (u - e).toNat) :
    (List.range (2 ^ k)).countP (fun x => decide (stoInt m e u k x = m / 2 ^ (u - e).toNat + 1)) =
      m % 2 ^ (u - e).toNat / 2 ^ ((u - e).toNat - k) := by
  have hle : m % 2 ^ (u - e).toNat / 2 ^ ((u - e).toNat - k) ≤ 2 ^ k := by
    refine (Nat.div_lt_of_lt_mul ?_).le
    rw [← pow_add, Nat.sub_add_cancel hk]
    exact Nat.mod_lt _ (by positivity)
  rw [← countP_range_le hle]
  congr 1
  funext x
  rw [stoInt_of_lt h, ← stoUp_iff hk]
  cases stoUp m (u - e).toNat k x <;> simp

theorem stoInt_neighbour (h : e < u) (k r : Nat) :
    stoInt m e u k r = m / 2 ^ (u - e).toNat ∨ stoInt m e u k r = m / 2 ^ (u - e).toNat + 1 := by
  rw [stoInt_of_lt h]
  cases stoUp m (u - e).toNat k r with
  | false => exact .inl rfl
  | true => exact .inr rfl

theorem stoInt_exact (h : e < u) (hr : r < 2 ^ k) (hm : m % 2 ^ (u - e).toNat = 0) :
    stoInt m e u k r = m / 2 ^ (u - e).toNat := by
  rw [stoInt_of_lt h, stoUp_exact hr hm]
  rfl

end

end Sys2Proof.Machine
end

section
/-! SUPPORT. Block scaling (R149, R150, R152): VQNT's block, byte by byte of its lanes, the scales that VBMAX packs into a scalar, and the
least scale at which a segment fits. -/

namespace Sys2Proof.Machine

/-! ### Numbers built digit by digit -/

/-- n digits of w bits each, the first the lowest. -/
def packDigits (w n : Nat) (f : Nat → Nat) : Nat := (List.range n).foldl (fun acc k => acc + f k * 2 ^ (w * k)) 0

section
variable {w n k : Nat} {f : Nat → Nat}

theorem packDigits_succ (w n : Nat) (f : Nat → Nat) : packDigits w (n + 1) f = packDigits w n f + 2 ^ (w * n) * f n := by
  rw [packDigits, List.range_succ, List.foldl_append, Nat.mul_comm]
  rfl

theorem packDigits_lt (hf : ∀ k < n, f k < 2 ^ w) : packDigits w n f < 2 ^ (w * n) := by
  induction n with
  | zero => simp [packDigits]
  | succ n ih =>
    have hlow := ih fun k hk => hf k (hk.trans n.lt_succ_self)
    have hdigit := hf n n.lt_succ_self
    rw [packDigits_succ, Nat.mul_succ, pow_add]
    calc packDigits w n f + 2 ^ (w * n) * f n < 2 ^ (w * n) * (f n + 1) := by rw [Nat.mul_succ]; omega
      _ ≤ 2 ^ (w * n) * 2 ^ w := Nat.mul_le_mul_left _ hdigit

theorem packDigits_digit (hf : ∀ k < n, f k < 2 ^ w) :
    packDigits w n f / 2 ^ (w * k) % 2 ^ w = if k < n then f k else 0 := by
  induction n with
  | zero => simp [packDigits]
  | succ n ih =>
    have hf' : ∀ k < n, f k < 2 ^ w := fun k hk => hf k (hk.trans n.lt_succ_self)
    have hlow := packDigits_lt hf'
    obtain hlt | rfl | hgt := lt_trichotomy k n
    · obtain ⟨j, rfl⟩ := Nat.exists_eq_add_of_lt hlt
      have hpow : 2 ^ (w * (k + j + 1)) * f (k + j + 1) = 2 ^ (w * k) * (2 ^ w * (2 ^ (w * j) * f (k + j + 1))) := by
        rw [Nat.mul_succ, Nat.mul_add, pow_add, pow_add]
        ring
      rw [packDigits_succ, hpow, Nat.add_mul_div_left _ _ (by positivity), Nat.add_mul_mod_self_left, ih hf', if_pos hlt,
        if_pos (by omega)]
    · rw [packDigits_succ, Nat.add_mul_div_left _ _ (by positivity), Nat.div_eq_of_lt hlow, Nat.zero_add,
        Nat.mod_eq_of_lt (hf k k.lt_succ_self), if_pos k.lt_succ_self]
    · have hbig := (packDigits_lt hf).trans_le (Nat.pow_le_pow_right Nat.two_pos (Nat.mul_le_mul_left w hgt))
      rw [Nat.div_eq_of_lt hbig, Nat.zero_mod, if_neg (by omega)]

end

/-! ### VQNT (R150) -/

/-- Lanes of vd rewritten one after another, each from what it held. -/
def Row.rewriteLanes (q : Row) (d : Nat) (ts : List Nat) (h : Nat → W32 → W32) : Row :=
  ts.foldl (fun q t => q.setV d t (h t (q.vreg d t))) q

theorem rewriteLanes_vreg (d : Nat) (h : Nat → W32 → W32) (ts : List Nat) (q : Row) (hts : ∀ t ∈ ts, t < q.L)
    (hnodup : ts.Nodup) (k l : Nat) (hl : l < q.L) :
    (q.rewriteLanes d ts h).vreg k l = if k = d ∧ l ∈ ts then h l (q.vreg d l) else q.vreg k l := by
  induction ts generalizing q with
  | nil => simp [Row.rewriteLanes]
  | cons t ts ih =>
    obtain ⟨hnot, hnodup⟩ := List.nodup_cons.1 hnodup
    have ht := hts t List.mem_cons_self
    have hput (n : Nat) : (q.setV d t (h t (q.vreg d t))).vreg n l =
        if n = d ∧ l = t then h t (q.vreg d t) else q.vreg n l := setV_vreg q _ ht hl
    have hrec := ih (q.setV d t (h t (q.vreg d t))) (fun x hx => hts x (List.mem_cons_of_mem _ hx)) hnodup hl
    rw [hput, hput] at hrec
    refine hrec.trans ?_
    obtain rfl | hlt := eq_or_ne l t
    · simp [hnot]
    · simp [hlt]

/-- Only the vector registers change, and no unit has a part in it. -/
theorem rewriteLanes_useFp (d : Nat) (h : Nat → W32 → W32) (ts : List Nat) (q : Row) (clk : W64) :
    (q.useFp clk).rewriteLanes d ts h = { q.useFp clk with v := (q.rewriteLanes d ts h).v } := by
  suffices hrec : ∀ (ts : List Nat) (q : Row) (x : Bank), ({ q with fp := x } : Row).rewriteLanes d ts h =
      { q with fp := x, v := (q.rewriteLanes d ts h).v } from hrec ts q _
  intro ts
  induction ts with
  | nil => exact fun _ _ => rfl
  | cons t ts ih => exact fun q x => ih (q.setV d t (h t (q.vreg d t))) x

theorem rewriteLanes_eq (d : Nat) (h : Nat → W32 → W32) (ts : List Nat) (q : Row) :
    q.rewriteLanes d ts h = { q with v := (q.rewriteLanes d ts h).v } := by
  induction ts generalizing q with
  | nil => rfl
  | cons t ts ih => exact ih (q.setV d t (h t (q.vreg d t)))

/-- The lanes of slot j in each of the first n segments. -/
def slotLanes (n j : Nat) : List Nat :=
  ((List.range n).product (List.range 64)).map (fun x => 256 * x.1 + 64 * j + x.2)

theorem mem_slotLanes {n j t : Nat} (hj : j < 4) : t ∈ slotLanes n j ↔ t / 256 < n ∧ t % 256 / 64 = j := by
  simp only [slotLanes, List.mem_map, Prod.exists, List.pair_mem_product, List.mem_range]
  constructor
  · rintro ⟨k, i, ⟨hk, hi⟩, rfl⟩
    omega
  · rintro ⟨hk, hslot⟩
    exact ⟨t / 256, t % 64, ⟨hk, Nat.mod_lt _ (by decide)⟩, by omega⟩

theorem nodup_slotLanes (n j : Nat) : (slotLanes n j).Nodup := by
  refine (List.nodup_range.product List.nodup_range).map_on ?_
  rintro ⟨k, i⟩ hx ⟨k', i'⟩ hy heq
  have hi := List.mem_range.1 (List.pair_mem_product.1 hx).2
  have hi' := List.mem_range.1 (List.pair_mem_product.1 hy).2
  rw [Prod.mk.injEq]
  omega

/-- Lane t of VQNT's result: its bytes are the elements of four lanes of its segment, where these act. -/
def qntLane (v : Row) (g : Guard) (q : Nat → Int × Flags) (t : Nat) (old : W32) : W32 :=
  patchBytes old (fun c =>
    let l := t / 256 * 256 + 4 * (t % 64) + c
    if v.acts g l then some (bitsOf 8 (q l).1) else none)

/-- VQNT's element of lane l. -/
def qntElem (v : Row) (rd : Rnd) (sgn : Bool) (w : Nat) (a : VReg) (m : Amod) (b : SReg) (l : Nat) : Int × Flags :=
  qntVal w sgn rd (scaleByte (v.sreg b.toNat) (l / 256)) (v.src a m l).toNat

theorem exec_vqnt (g : Guard) (j : BitVec 2) (rd : Rnd) (sgn : Bool) (w : BitVec 3) (d a : VReg) (m : Amod) (b : SReg)
    (s : State) : exec (.vqnt g j rd sgn w d a m b) s =
      issueL { fpPlan false with
        illegal := fun r => amodWide m r || r.L < 256, regs := [d.toNat, a.toNat], hold := fun r => r.holdV d.toNat } g
        (onRow (fun r v => (r.rewriteLanes d.toNat (slotLanes (v.L / 256) j.toNat)
          (qntLane v g (qntElem v rd sgn (w.toNat + 1) a m b))).orFlags
            ((v.actLanes g).foldl (fun f l => f ||| (qntElem v rd sgn (w.toNat + 1) a m b l).2) 0))) s := by
  show execVqnt g j rd sgn w d a m b s = _
  unfold execVqnt
  refine congrArg (fun body => issueL _ g (onRow body) s) (funext₂ fun r v => congrArg (Row.orFlags · _) ?_)
  rw [Row.rewriteLanes, slotLanes, List.foldl_map]
  refine List.foldl_ext _ _ r fun q x hx => ?_
  obtain ⟨k, i⟩ := x
  obtain ⟨-, hi⟩ := List.pair_mem_product.1 hx
  rw [List.mem_range] at hi
  have hj := j.isLt
  have hlane (c : Nat) : (256 * k + 64 * j.toNat + i) / 256 * 256 + 4 * ((256 * k + 64 * j.toNat + i) % 64) + c =
      256 * k + 4 * i + c := by omega
  simp only [qntLane, hlane]
  rfl

section
variable {s : State} {g : Guard} {d a : VReg} {m : Amod} (ha : s.acting g) (hb : (s.row s.cur).fp.banked = false)
include ha

theorem exists_acts : ∃ l, l < (s.row s.cur).L ∧ (s.row s.cur).acts g l = true := by
  obtain ⟨l, hl⟩ := List.exists_mem_of_ne_nil _ (by simpa [Row.anyActs] using ha.2)
  exact ⟨l, mem_actLanes.1 hl⟩

/-- Where some lane acts, a width that is a multiple of c is at least c. -/
theorem le_width_of_dvd {c : Nat} (h : c ∣ (s.row s.cur).L) : c ≤ (s.row s.cur).L := by
  obtain ⟨l, hl, -⟩ := exists_acts ha
  exact Nat.le_of_dvd (Nat.zero_lt_of_lt hl) h

include hb

theorem vqnt_writes {j : BitVec 2} {rd : Rnd} {sgn : Bool} {w : BitVec 3} {c : SReg} (hm : (s.row s.cur).Fits m)
    (hh : (s.row s.cur).Has [d.toNat, a.toNat]) (hL : 256 ∣ (s.row s.cur).L) :
    let r := s.row s.cur
    let q := qntElem r rd sgn (w.toNat + 1) a m c
    WritesV (.vqnt g j rd sgn w d a m c) s
      (s.usedFp.now (fun x => x.orFlags ((r.actLanes g).foldl (fun o l => o ||| (q l).2) 0))) d.toNat
      (fun t => if t % 256 / 64 = j.toNat then some (qntLane r g q t (r.vreg d.toNat t)) else none) := by
  intro r q
  have hwide : (amodWide m r || decide (r.L < 256)) = false := by
    rw [hm.amodWide, decide_eq_false (not_lt.2 (le_width_of_dvd ha hL)), Bool.or_false]
  have hlanes : ∀ t ∈ slotLanes (r.L / 256) j.toNat, t < r.L := fun t ht => by
    have hdiv := ((mem_slotLanes j.isLt).1 ht).1
    obtain ⟨n, hn⟩ := hL
    have : r.L = 256 * n := hn
    omega
  refine WritesV.of_body (v := (r.rewriteLanes d.toNat (slotLanes (r.L / 256) j.toNat) (qntLane r g q)).v)
    (exec_vqnt g j rd sgn w d a m c s) ha ⟨hwide, hh, rfl, rfl, rfl, ha.1.holdV d.toNat, rfl, hb⟩ (fun clk => ?_)
    fun k l hl => ?_
  · rw [rewriteLanes_useFp]
    rfl
  · have hmem : l ∈ slotLanes (r.L / 256) j.toNat ↔ l % 256 / 64 = j.toNat := by
      rw [mem_slotLanes j.isLt, and_iff_right (Nat.div_lt_div_of_lt_of_dvd hL hl)]
    rw [← rewriteLanes_eq, rewriteLanes_vreg _ _ _ _ hlanes (nodup_slotLanes _ _) k l hl]
    by_cases hk : k = d.toNat
    · subst hk
      by_cases hslot : l % 256 / 64 = j.toNat <;> simp [hmem, hslot, r]
    · simp [hk, r]

end

/-! ### VREQ without random bits (R152) -/

/-- One lane of VREQ. -/
def reqRneLane (w : Nat) (sgn : Bool) (a b : VReg) (v : Row) (l : Nat) : W32 × Flags :=
  reqLane w sgn (v.vreg b.toNat (l / 64 * 64)) (v.vreg a.toNat l) (fun _ neg m e => (roundAt .rne neg m e 0 false).1)

theorem exec_vreq_rne (g : Guard) (k : BitVec 4) (sgn : Bool) (w : BitVec 3) (d a b : VReg) (s : State) :
    exec (.vreq g false k sgn w d a b) s = floatTo (vreqPlan d a b) g d (reqRneLane (w.toNat + 1) sgn a b) s := by
  have hseg (l : Nat) : l / 64 * 64 = l - l % 64 := (sub_mod_eq_div_mul l 64).symm
  unfold reqRneLane
  simp only [hseg]
  rfl

/-! ### VBMAX (R149) -/

/-- The magnitudes that a segment's scale has to fit, with their exponents. -/
def bmaxMags (sgn : Bool) (xs : List FVal) : List (Nat × Int) :=
  xs.filterMap (fun x => match x with | .fin n m e => if n && !sgn then none else some (m, e) | _ => none)

section
variable {w : Nat} {sgn : Bool} {xs : List FVal}

theorem mem_bmaxMags {m : Nat} {e : Int} : (m, e) ∈ bmaxMags sgn xs ↔ ∃ n, FVal.fin n m e ∈ xs ∧ (n && !sgn) = false := by
  rw [bmaxMags, List.mem_filterMap]
  constructor
  · rintro ⟨x, hx, hsome⟩
    cases x with
    | nan | inf => cases hsome
    | fin n m' e' =>
      cases hn : n && !sgn with
      | true => simp [hn] at hsome
      | false =>
        simp only [hn, Bool.false_eq_true, if_false, Option.some.injEq, Prod.mk.injEq] at hsome
        obtain ⟨rfl, rfl⟩ := hsome
        exact ⟨n, hx, hn⟩
  · rintro ⟨n, hx, hn⟩
    exact ⟨_, hx, by simp [hn]⟩

/-- Every magnitude fits the elements at scale k. -/
def bmaxFits (w : Nat) (sgn : Bool) (xs : List FVal) (k : Nat) : Bool :=
  (bmaxMags sgn xs).all (fun x => scaledLe x.1 (x.2 + 127 - (k : Nat)) (2 ^ (if sgn then w - 1 else w) - 1))

theorem bmaxFits_iff {k : Nat} : bmaxFits w sgn xs k = true ↔ ∀ (n : Bool) (m : Nat) (x : Int), FVal.fin n m x ∈ xs →
    (n && !sgn) = false → scaledLe m (x + 127 - (k : Int)) (2 ^ (if sgn then w - 1 else w) - 1) = true := by
  rw [bmaxFits, List.all_eq_true]
  constructor
  · exact fun h n m x hx hn => h (m, x) (mem_bmaxMags.2 ⟨n, hx, hn⟩)
  · rintro h ⟨m, x⟩ hmem
    obtain ⟨n, hx, hn⟩ := mem_bmaxMags.1 hmem
    exact h n m x hx hn

theorem bmaxVal_eq (w : Nat) (sgn : Bool) (xs : List FVal) : bmaxVal w sgn xs =
    if xs.any (fun x => !x.finite) then (255, true)
    else if (bmaxMags sgn xs).all (fun x => x.1 = 0) then (0, false)
    else (((List.range 255).find? (bmaxFits w sgn xs)).getD 254, false) := rfl

theorem bmaxVal_le (w : Nat) (sgn : Bool) (xs : List FVal) : (bmaxVal w sgn xs).1 ≤ 255 := by
  rw [bmaxVal_eq]
  split
  · exact le_rfl
  · split
    · exact Nat.zero_le _
    · cases hfind : (List.range 255).find? (bmaxFits w sgn xs) with
      | none => exact Nat.le_succ 254
      | some e => exact (List.mem_range.1 (List.mem_of_find?_eq_some hfind)).le

theorem scaledLe_zero (e : Int) (q : Nat) : scaledLe 0 e q = true := by
  rw [scaledLe]
  split <;> simp

/-- A segment of finite values: zeros need scale 0, others the least scale that fits, or 254. -/
theorem bmaxVal_finite {e : Nat} (h : bmaxVal w sgn xs = (e, false)) : (∀ x ∈ xs, x.finite = true) ∧ e ≤ 254 ∧
    (e < 254 → bmaxFits w sgn xs e = true) ∧ ∀ k < e, bmaxFits w sgn xs k = false := by
  rw [bmaxVal_eq] at h
  split at h
  next => simp at h
  next hfin =>
    refine ⟨by simpa using hfin, ?_⟩
    split at h
    next hzero =>
      obtain rfl : 0 = e := (Prod.mk.inj h).1
      refine ⟨Nat.zero_le _, fun _ => List.all_eq_true.2 fun x hx => ?_, fun k hk => absurd hk (Nat.not_lt_zero k)⟩
      rw [of_decide_eq_true (List.all_eq_true.1 hzero x hx)]
      exact scaledLe_zero _ _
    next =>
      obtain rfl := (Prod.mk.inj h).1
      cases hfind : (List.range 255).find? (bmaxFits w sgn xs) with
      | none =>
        rw [List.find?_range_eq_none] at hfind
        refine ⟨le_rfl, fun hlt => absurd hlt (lt_irrefl _), fun k hk => ?_⟩
        simpa using hfind k (hk.trans (Nat.lt_succ_self 254))
      | some e =>
        obtain ⟨hfits, hmem, hleast⟩ := List.find?_range_eq_some.1 hfind
        exact ⟨Nat.le_of_lt_succ (List.mem_range.1 hmem), fun _ => hfits, fun k hk => by simpa using hleast k hk⟩

end

/-- A fold over a list with its places, for the list of a function on the numbers below n. -/
theorem foldl_zipIdx_map_range {α β : Type} (f : Nat → α) (h : β → α × Nat → β) (b : β) (n : Nat) :
    ((List.range n).map f).zipIdx.foldl h b = (List.range n).foldl (fun acc k => h acc (f k, k)) b := by
  induction n generalizing b with
  | zero => rfl
  | succ n ih => simp [List.range_succ, List.zipIdx_append, ih]

/-- The scalar that holds byte k of each of n segments. -/
theorem scaleByte_packDigits {n k : Nat} {f : Nat → Nat} (hn : n ≤ 8) (hf : ∀ k < n, f k < 2 ^ 8) :
    scaleByte (BitVec.ofNat 64 (packDigits 8 n f)) k = if k < n then f k else 0 := by
  have hlt : packDigits 8 n f < 2 ^ 64 :=
    (packDigits_lt hf).trans_le (Nat.pow_le_pow_right Nat.two_pos (by omega))
  rw [scaleByte, BitVec.extractLsb'_toNat, BitVec.toNat_ofNat, Nat.mod_eq_of_lt hlt, Nat.shiftRight_eq_div_pow,
    packDigits_digit hf]

section
variable {s : State} {g : Guard} {d : SReg} {a : VReg} {m : Amod} {sgn : Bool} {w : BitVec 3}

/-- Segment k's scale, and whether it holds a value that is not finite. -/
def bmaxSeg (v : Row) (g : Guard) (w : Nat) (sgn : Bool) (a : VReg) (m : Amod) (k : Nat) : Nat × Bool :=
  bmaxVal w sgn (((v.actLanes g).filter (fun l => l / 256 == k)).map (fun l => fmt32.decode (v.src a m l).toNat))

theorem exec_vbmax (s : State) : exec (.vbmax g sgn w d a m) s =
    issueWord { fpPlan false with
      illegal := fun r => amodWide m r || r.L < 256, regs := [a.toNat], hold := fun r => r.pendS d.toNat }
      (fun r => r.arm.em != 0)
      (onRow (fun r v => (r.setS d.toNat (BitVec.ofNat 64 (packDigits 8 (v.L / 256)
        (fun k => (bmaxSeg v g (w.toNat + 1) sgn a m k).1)))).orFlags
          (if ∃ n < v.L / 256, (bmaxSeg v g (w.toNat + 1) sgn a m n).2 = true then fNF else 0))) s := by
  show execVbmax g sgn w d a m s = _
  unfold execVbmax
  refine congrArg (fun body => issueWord _ _ (onRow body) s) (funext₂ fun r v => ?_)
  simp only [foldl_zipIdx_map_range]
  refine congrArg (Row.orFlags _) (if_congr ?_ rfl rfl)
  simp only [List.any_map, List.any_eq_true, List.mem_range, Function.comp]
  rfl

theorem vbmax_completes (ha : s.acting g) (hb : (s.row s.cur).fp.banked = false) (hm : (s.row s.cur).Fits m)
    (hh : (s.row s.cur).Has [a.toNat]) (hL : 256 ≤ (s.row s.cur).L) :
    let r := s.row s.cur
    let seg := bmaxSeg r g (w.toNat + 1) sgn a m
    Completes (.vbmax g sgn w d a m) s (s.usedFp.now (fun q =>
      (q.setS d.toNat (BitVec.ofNat 64 (packDigits 8 (r.L / 256) (fun k => (seg k).1)))).orFlags
        (if ∃ n < r.L / 256, (seg n).2 = true then fNF else 0))) := by
  intro r seg
  have hwide : (amodWide m r || decide (r.L < 256)) = false := by
    rw [hm.amodWide, decide_eq_false (not_lt.2 hL), Bool.or_false]
  have hem : (r.arm.em != 0) = true := by
    obtain ⟨l, -, hact⟩ := exists_acts ha
    rw [bne_iff_ne]
    intro h0
    rw [Row.acts, show (s.row s.cur).arm.em = 0 from h0] at hact
    simp at hact
  have hcome := comesTo_fpWord (exec_vbmax (g := g) (sgn := sgn) (w := w) s) ha.1
    ⟨hwide, hh, rfl, rfl, rfl, ha.1.pendS d.toNat, rfl, hb⟩ hem
  exact ComesTo.completes (s.drawn + 1) hcome rfl

end

end Sys2Proof.Machine
end

section
/-! SUPPORT. Planar packing (R141, R153): the groups of lanes that VPLN and VUPLN write, and the planes read back; and the statement on
block formats (R146 to R153). -/

namespace Sys2Proof.Machine

/-! ### Groups of lanes -/

/-- The lanes of block group n (R141). -/
def groupLanes (n : Nat) : List Nat := (List.range 64).map (64 * n + ·)

theorem mem_groupLanes {n l : Nat} : l ∈ groupLanes n ↔ l / 64 = n := by
  simp only [groupLanes, List.mem_map, List.mem_range]
  constructor
  · rintro ⟨i, hi, rfl⟩
    omega
  · rintro rfl
    exact ⟨l % 64, Nat.mod_lt _ (by decide), Nat.div_add_mod l 64⟩

/-- The lanes of the groups whose first lane acts. -/
def groupsLanes (v : Row) (g : Guard) : List Nat := (groupsOf v g).flatMap groupLanes

theorem mem_groupsLanes {v : Row} {g : Guard} {l : Nat} (hL : 64 ∣ v.L) (hl : l < v.L) :
    l ∈ groupsLanes v g ↔ v.acts g (l / 64 * 64) = true := by
  simp only [groupsLanes, List.mem_flatMap, mem_groupLanes, groupsOf, List.mem_filter, List.mem_range]
  constructor
  · rintro ⟨n, ⟨-, hact⟩, rfl⟩
    rwa [Nat.mul_comm]
  · exact fun hact => ⟨_, ⟨Nat.div_lt_div_of_lt_of_dvd hL hl, by rwa [Nat.mul_comm]⟩, rfl⟩

theorem lt_of_mem_groupsLanes {v : Row} {g : Guard} {l : Nat} (h : l ∈ groupsLanes v g) : l < v.L := by
  simp only [groupsLanes, List.mem_flatMap, mem_groupLanes, groupsOf, List.mem_filter, List.mem_range] at h
  obtain ⟨n, ⟨hn, -⟩, rfl⟩ := h
  omega

/-- Flags raised after others are what they are from none, and the others. -/
theorem foldl_or_eq {α : Type} (f : α → Flags) (ls : List α) (o : Flags) :
    ls.foldl (fun o x => o ||| f x) o = o ||| ls.foldl (fun o x => o ||| f x) 0 := by
  induction ls generalizing o with
  | nil => simp
  | cons x ls ih =>
    rw [List.foldl_cons, List.foldl_cons, ih, ih (0 ||| f x), BitVec.or_assoc]
    simp

/-- Groups of lanes written one after another, with the flags of each. -/
theorem foldl_setLanes_orFlags (d : Nat) (ls : Nat → List Nat) (f : Nat → W32) (fl : Nat → Flags) (ns : List Nat) (q : Row)
    (o : Flags) :
    ns.foldl (fun q n => (q.setLanes d (ls n) f).orFlags (fl n)) (q.orFlags o) =
      (q.setLanes d (ns.flatMap ls) f).orFlags (ns.foldl (fun o n => o ||| fl n) o) := by
  induction ns generalizing q o with
  | nil => rfl
  | cons n ns ih =>
    have hput : ((q.orFlags o).setLanes d (ls n) f).orFlags (fl n) = (q.setLanes d (ls n) f).orFlags (o ||| fl n) :=
      orFlags_or (q.setLanes d (ls n) f) o (fl n)
    rw [List.foldl_cons, hput, ih, List.flatMap_cons, List.foldl_cons]
    refine congrArg (Row.orFlags · _) ?_
    simp only [Row.setLanes, List.map_append, tsets, List.foldl_append]

theorem setLanes_congr {q : Row} {d : Nat} {ls : List Nat} {f f' : Nat → W32} (h : ∀ l ∈ ls, f l = f' l) :
    q.setLanes d ls f = q.setLanes d ls f' := by
  rw [Row.setLanes, Row.setLanes, List.map_congr_left fun l hl => by rw [h l hl]]

/-! ### VPLN and VUPLN -/

/-- The plan of VPLN and VUPLN. -/
def planarPlan (d a : VReg) : Plan :=
  { fpPlan false with
    units := 2, illegal := fun r => r.L < 64, regs := [d.toNat, a.toNat], hold := fun r => r.holdV d.toNat }

/-- The flags of group n: those of its bytes that lie in lanes that act (log entry 65). -/
def plnFlags (v : Row) (g : Guard) (w : Nat) (sgn : Bool) (a : VReg) (n : Nat) : Flags :=
  ((List.range 256).filter (fun i => v.acts g (64 * n + i / 4))).foldl (fun f i => f ||| (plnElem v w sgn a n i).2) 0

/-- Lane l of VPLN's result. -/
def plnWord (v : Row) (w : Nat) (sgn : Bool) (a : VReg) (l : Nat) : W32 := plnLane v w sgn a (l / 64) (l % 64)

/-- Lane l of VUPLN's result. -/
def uplnWord (v : Row) (w : Nat) (sgn : Bool) (a : VReg) (l : Nat) : W32 :=
  patchBytes 0 (fun b => some (uplnElem v w sgn a (l / 64) (4 * (l % 64) + b)))

section
variable {s : State} {g : Guard} {sgn : Bool} {w : BitVec 3} {d a : VReg}

theorem exec_vpln (s : State) : exec (.vpln g sgn w d a) s =
    issueL (planarPlan d a) g (onRow (fun r v => (r.setLanes d.toNat (groupsLanes v g) (plnWord v (w.toNat + 1) sgn a)).orFlags
      ((groupsOf v g).foldl (fun o n => o ||| plnFlags v g (w.toNat + 1) sgn a n) 0))) s := by
  show execVpln g sgn w d a s = _
  refine congrArg (fun body => issueL (planarPlan d a) g (onRow body) s) (funext₂ fun r v => ?_)
  have hfold := foldl_setLanes_orFlags d.toNat groupLanes (plnWord v (w.toNat + 1) sgn a) (plnFlags v g (w.toNat + 1) sgn a)
    (groupsOf v g) r 0
  rw [orFlags_zero] at hfold
  refine Eq.trans (List.foldl_ext _ _ r fun q n _ => ?_) hfold
  refine congrArg (Row.orFlags · _) (setLanes_congr fun l hl => ?_)
  rw [plnWord, mem_groupLanes.1 hl]

theorem exec_vupln (s : State) : exec (.vupln g sgn w d a) s =
    issueL (planarPlan d a) g
      (onRow (fun r v => r.setLanes d.toNat (groupsLanes v g) (uplnWord v (w.toNat + 1) sgn a))) s := by
  show execVupln g sgn w d a s = _
  refine congrArg (fun body => issueL (planarPlan d a) g (onRow body) s) (funext₂ fun r v => ?_)
  have hfold := foldl_setLanes_orFlags d.toNat groupLanes (uplnWord v (w.toNat + 1) sgn a) (fun _ => 0) (groupsOf v g) r 0
  have hnone : (groupsOf v g).foldl (fun (o : Flags) _ => o ||| 0) 0 = 0 := by simp
  simp only [orFlags_zero, hnone] at hfold
  refine Eq.trans (List.foldl_ext _ _ r fun q n _ => setLanes_congr fun l hl => ?_) hfold
  rw [uplnWord, mem_groupLanes.1 hl]

theorem setLanes_groups (r : Row) (g : Guard) (d k l : Nat) (f : Nat → W32) (hL : 64 ∣ r.L) (hl : l < r.L) :
    (r.setLanes d (groupsLanes r g) f).vreg k l =
      (if k = d then (if r.acts g (l / 64 * 64) then some (f l) else none) else none).getD (r.vreg k l) := by
  rw [setLanes_vreg _ _ _ _ _ _ hl fun x hx => lt_of_mem_groupsLanes hx]
  simp only [mem_groupsLanes hL hl]
  by_cases hk : k = d
  · by_cases hact : r.acts g (l / 64 * 64) = true <;> simp [hk, hact]
  · simp [hk]

variable (ha : s.acting g) (hb : (s.row s.cur).fp.banked = false) (hh : (s.row s.cur).Has [d.toNat, a.toNat])
  (hL : 64 ∣ (s.row s.cur).L)
include ha hb hh hL

theorem planarPlan_clear : (planarPlan d a).FpClear (s.row s.cur) :=
  ⟨decide_eq_false (not_lt.2 (le_width_of_dvd ha hL)), hh, rfl, rfl, rfl, ha.1.holdV d.toNat, rfl, hb⟩

theorem vpln_writes :
    let r := s.row s.cur
    WritesV (.vpln g sgn w d a) s
      (s.usedFp.now (fun q => q.orFlags ((groupsOf r g).foldl (fun o n => o ||| plnFlags r g (w.toNat + 1) sgn a n) 0))) d.toNat
      (fun l => if r.acts g (l / 64 * 64) then some (plnWord r (w.toNat + 1) sgn a l) else none) := by
  intro r
  exact WritesV.of_body (v := (r.setLanes d.toNat (groupsLanes r g) (plnWord r (w.toNat + 1) sgn a)).v) (exec_vpln s) ha
    (planarPlan_clear ha hb hh hL) (fun clk => rfl) fun k l hl => setLanes_groups r g d.toNat k l _ hL hl

theorem vupln_writes :
    let r := s.row s.cur
    WritesV (.vupln g sgn w d a) s s.usedFp d.toNat
      (fun l => if r.acts g (l / 64 * 64) then some (uplnWord r (w.toNat + 1) sgn a l) else none) := by
  intro r
  rw [← usedFp_now_id]
  exact WritesV.of_body (v := (r.setLanes d.toNat (groupsLanes r g) (uplnWord r (w.toNat + 1) sgn a)).v) (exec_vupln s) ha
    (planarPlan_clear ha hb hh hL) (fun clk => rfl) fun k l hl => setLanes_groups r g d.toNat k l _ hL hl

end

/-! ### The planes read back (R141) -/

/-- A number's low bits, weighed by their places. -/
theorem foldl_bits (x n : Nat) : (List.range n).foldl (fun acc p => acc + x / 2 ^ p % 2 * 2 ^ p) 0 = x % 2 ^ n := by
  induction n with
  | zero => simp [Nat.mod_one]
  | succ n ih =>
    rw [List.range_succ, List.foldl_append, ih, Nat.pow_succ, Nat.mod_mul, Nat.mul_comm (2 ^ n)]
    rfl

section
variable {r : Row} {w : Nat} {sgn : Bool} {a : VReg} {n : Nat}

/-- Bit u of byte row k % 8 of plane k / 8 is that bit of element 32 (k % 8) + u. -/
theorem plnLane_getLsbD {k u : Nat} (hk : k < 8 * w) (hu : u < 32) :
    ((plnLane r w sgn a n k).getLsbD u).toNat = bitsOf 8 (plnElem r w sgn a n (32 * (k % 8) + u)).1 / 2 ^ (k / 8) % 2 := by
  have hdigit := packDigits_digit (w := 1) (n := 32) (k := u)
    (f := fun u => bitsOf 8 (plnElem r w sgn a n (32 * (k % 8) + u)).1 / 2 ^ (k / 8) % 2) fun _ _ => Nat.mod_lt _ Nat.two_pos
  simp only [packDigits, Nat.one_mul, pow_one, hu, if_true] at hdigit
  rw [plnLane, if_pos hk, BitVec.getLsbD_ofNat, decide_eq_true hu, Bool.true_and, Nat.toNat_testBit]
  exact hdigit

/-- What VPLN packed into register d, VUPLN takes out of it. -/
theorem uplnElem_of_plnLane {r' : Row} {d : VReg} {i : Nat} (hw : 0 < w) (hw8 : w ≤ 8) (hi : i < 256)
    (hpacked : ∀ k < 64, r'.vreg d.toNat (64 * n + k) = plnLane r w sgn a n k) :
    uplnElem r' w sgn d n i = bitsOf 8 (plnElem r w sgn a n i).1 := by
  have hbit : ∀ p ∈ List.range w, ((r'.vreg d.toNat (64 * n + 8 * p + i / 32)).getLsbD (i % 32)).toNat =
      bitsOf 8 (plnElem r w sgn a n i).1 / 2 ^ p % 2 := fun p hp => by
    have hp := List.mem_range.1 hp
    rw [Nat.add_assoc, hpacked _ (by omega), plnLane_getLsbD (by omega) (Nat.mod_lt _ (by decide)),
      show (8 * p + i / 32) / 8 = p by omega, show 32 * ((8 * p + i / 32) % 8) + i % 32 = i by omega]
  obtain ⟨hlo, hhi⟩ := satRange_mem w sgn (intOf 8 sgn (elemAt 8 (r.vreg a.toNat (64 * n + i / 4)) (i % 4)).toNat) false
  rw [uplnElem, List.foldl_ext _ _ 0 fun acc p hp => by rw [hbit p hp], foldl_bits, bitsOf_mod_two_pow hw8]
  exact congrArg (bitsOf 8) (intOf_bitsOf hw hlo hhi)

end

/-- Settles O20: the sweep of csr.rng lane by lane, RoundSto's integer by the test of `up`, VQNT's block byte by byte, the scale by the
search that finds the least, and the planes bit by bit (VPLN's flags are the model's choice of log entry 65). -/
theorem blockFormats : Obligations.BlockFormats := by
  unfold Obligations.BlockFormats
  refine ⟨fun s g d a b m bf sgn k w ha hb hm hh => ?sweep, fun m e u k r hr => ?roundSto,
    fun s g d a b m sd sb j rd sgn k w ha hb hm hh hL hL' => ?words, fun w sgn xs e hmax => ?scale,
    fun s g sgn w d a ha hb hh hL => ?planar⟩
  case sweep =>
    intro r n state F gives
    refine ⟨?_, fun hL => ?_⟩
    · exact (rngLanes_writes (exec_vsrnd g bf k d a m b s) ha
        ⟨hm.amodWide, hh, rfl, rfl, rfl, ha.1.holdV d.toNat, rfl, hb⟩ :)
    · exact (rngLanes_writes (exec_vreq_sto g k sgn w d a b s) ha
        ⟨decide_eq_false (not_lt.2 hL), hh, rfl, rfl, rfl, ha.1.holdV d.toNat, rfl, hb⟩ :)
  case roundSto =>
    exact ⟨stoInt_of_le, fun h => stoInt_neighbour h k r, fun h hm => stoInt_exact h hr hm, fun h hk => countP_stoInt h hk⟩
  case words =>
    intro r flagged q seg re
    have hwidth : 256 ≤ r.L := le_width_of_dvd ha hL
    have hda : r.Has [d.toNat, a.toNat] := hh.mono (by simp)
    refine ⟨?vqnt, ?vreq, ?vbmax⟩
    case vqnt => exact (vqnt_writes ha hb hm hda hL :)
    case vreq =>
      exact (floatTo_writes_of_has (exec_vreq_rne g k sgn w d a b s) ha hb
        (decide_eq_false (not_lt.2 ((by decide : 64 ≤ 256).trans hwidth))) hh rfl rfl rfl rfl :)
    case vbmax =>
      have hbyte (n : Nat) := scaleByte_packDigits (k := n) (show r.L / 256 ≤ 8 from (Nat.div_le_div_right hL').trans (by decide))
        (fun k _ => Nat.lt_succ_of_le (bmaxVal_le (w.toNat + 1) sgn (((r.actLanes g).filter (fun l => l / 256 == k)).map
          (fun l => fmt32.decode (r.src a m l).toNat))))
      exact ⟨_, fun n hn => (hbyte n).trans (if_pos hn), fun n hn _ => (hbyte n).trans (if_neg (not_lt.2 hn)),
        vbmax_completes ha hb hm (hh.mono (by simp)) hwidth⟩
  case scale =>
    obtain ⟨hfin, hle, hfits, hleast⟩ := bmaxVal_finite hmax
    exact ⟨hfin, hle, fun h => bmaxFits_iff.1 (hfits h), fun k hk h =>
      Bool.false_ne_true ((hleast k hk).symm.trans (bmaxFits_iff.2 h))⟩
  case planar =>
    intro r W fl
    refine ⟨?_, vupln_writes ha hb hh hL, fun r' n i hi hpacked => uplnElem_of_plnLane (Nat.succ_pos _) w.isLt hi hpacked⟩
    have hfl : fl = (groupsOf r g).foldl (fun o n => o ||| plnFlags r g W sgn a n) 0 :=
      List.foldl_ext _ _ 0 fun o n _ => foldl_or_eq _ _ o
    rw [hfl]
    exact vpln_writes ha hb hh hL

end Sys2Proof.Machine
end

section
/-! SUPPORT. The far cache between a release and an acquire (R241, log entry 10): what a release leaves clean bears the number of the
draw, and what an acquire drops does not come to depend on it. -/

namespace Sys2Proof.Machine

/-! ### Parts of a table -/

section
variable {α : Type}

theorem filter_tdel (t : Tbl α) (n : Nat) (p : Nat × α → Bool) : (tdel t n).filter p = tdel (t.filter p) n := by
  induction t with
  | nil => rfl
  | cons e t ih =>
    obtain ⟨k, x⟩ := e
    by_cases hk : n = k
    · subst hk
      cases hp : p (n, x) <;> simp [tdel, hp, ih]
    · cases hp : p (k, x) <;> simp [tdel, hk, hp, ih]

theorem filter_tput {n : Nat} {x : α} {p : Nat × α → Bool} (hx : p (n, x) = false) (t : Tbl α) :
    (tput t n x).filter p = t.filter p := by
  induction t with
  | nil => simp [tput, hx]
  | cons e t ih =>
    obtain ⟨k, y⟩ := e
    by_cases hk : n < k
    · simp [tput, hk, hx]
    · simp [tput, hk, List.filter_cons, ih]

/-- Of an entry that a part leaves out, its write only takes what stood at its key. -/
theorem filter_tset [DecidableEq α] {n : Nat} {x : α} {p : Nat × α → Bool} (hx : p (n, x) = false) (d : α) (t : Tbl α) :
    (tset d t n x).filter p = tdel (t.filter p) n := by
  unfold tset
  split
  · exact filter_tdel t n p
  · rw [filter_tput hx, filter_tdel]

end

/-! ### Dies and bytes -/

theorem modDie_modDie (s : State) (d : Nat) (f g : Die → Die) : (s.modDie d f).modDie d g = s.modDie d (fun y => g (f y)) := by
  simp only [State.modDie, setDie_setDie, setDie_die_same]

/-- Of a byte written home only its place in the cache is left empty once the clean bytes are dropped. -/
theorem dropClean_setFar_clean (s : State) (d a k : Nat) (v : W8) :
    (s.setFar d a (some ⟨v, false, k⟩)).dropClean d = (s.dropClean d).modDie d (fun y => { y with far := tdel y.far a }) := by
  simp only [State.setFar, State.dropClean, State.dropIf, modDie_modDie]
  congr 1
  funext y
  rw [filter_tset]
  rfl

theorem dropClean_setBuf (s : State) (d b : Nat) (x : CBuf) : (s.setBuf d b x).dropClean d = (s.dropClean d).setBuf d b x := by
  simp only [State.setBuf, State.dropClean, State.dropIf, modDie_modDie]

/-! ### A release and then an acquire -/

/-- A release and then an acquire of one die leave no byte that bears the draw's number. -/
theorem dropClean_writeBack_draw (s : State) (d : Nat) :
    (s.draw.writeBack d).dropClean d = ((s.writeBack d).dropClean d).draw := by
  unfold State.writeBack State.writeBackIf
  refine congrArg State.draw (List.foldl_rel (r := fun t u : State => t.dropClean d = (u.dropClean d).draw) rfl ?_)
  rintro ⟨a, x⟩ - t u htu
  have hbyte (v : W8) : (t.setByte a v).dropClean d = ((u.setByte a v).dropClean d).draw :=
    congrArg (fun w : State => w.setByte a v) htu
  split
  · next v _ =>
    rw [if_pos rfl, if_pos rfl, dropClean_setFar_clean, dropClean_setFar_clean, hbyte]
    rfl
  · exact htu

/-- What neither a byte, nor a far cache, nor the count of draws enters, a release leaves alone. -/
theorem writeBack_keeps {β : Type} {f : State → β} (hbyte : ∀ u a v, f (State.setByte u a v) = f u)
    (hfar : ∀ u d a x, f (State.setFar u d a x) = f u) (hdraw : ∀ u, f (State.draw u) = f u) (s : State) (d : Nat) :
    f (s.writeBack d) = f s := by
  unfold State.writeBack State.writeBackIf
  rw [hdraw]
  refine List.foldlRecOn (motive := fun t : State => f t = f s) _ _ rfl fun t ht e _ => ?_
  split
  · split
    · rw [hfar, hbyte, ht]
    · exact ht
  · exact ht

theorem writeBack_cur (s : State) (d : Nat) : (s.writeBack d).cur = s.cur :=
  writeBack_keeps (f := State.cur) (fun _ _ _ => rfl) (fun _ _ _ _ => rfl) (fun _ => rfl) s d

theorem writeBack_row (s : State) (d n : Nat) : (s.writeBack d).row n = s.row n :=
  writeBack_keeps (f := fun u => u.row n) (fun _ _ _ => rfl) (fun _ _ _ _ => rfl) (fun _ => rfl) s d

/-- A release leaves a dirty byte clean, with the number of its draw. -/
theorem writeBack_farAt {s : State} {d a k : Nat} {v : W8} (h : (s.die d).far = [(a, some ⟨v, true, k⟩)]) :
    (s.writeBack d).farAt d a = some ⟨v, false, s.drawn⟩ := by
  unfold State.writeBack State.writeBackIf
  rw [h]
  simp [State.farAt, State.setFar, State.setByte]

end Sys2Proof.Machine
end

section
/-! SUPPORT. PRD and PRDN (R158 to R160): what the pop of entries leaves in the registers, that the state after it does not depend on
the value drawn at issue, and the outcome of both words. -/

namespace Sys2Proof.Machine

/-! ### Words that act whatever their lanes hold, and wait or trap in their body -/

section
variable {i : Instr} {p : Plan} {body : State → Nat → Row → Res} {s w : State}

theorem comesTo_issueAll (he : exec i s = issueAll p body s) (hq : (s.row s.cur).Quiet) (hp : p.Clear (s.row s.cur))
    (hf : p.fp = false) : ComesTo i s (body s.draw s.cur (s.row s.cur)) := by
  have hcome := comesTo_issueWord (go := fun _ => true) he hq hp rfl
  rwa [Plan.start, hf, if_neg Bool.false_ne_true] at hcome

theorem ComesTo.waits {x : Wait} (h : ComesTo i s (.wait x s.draw)) : Waits i s x := by
  obtain ⟨units, cycles, he⟩ := h
  exact he

theorem ComesTo.traps {c : W8} {x : W64} (h : ComesTo i s (.trap c x w)) : exec i s = .next (w.trapHere s.cur c x) := by
  obtain ⟨units, cycles, he⟩ := h
  exact he

theorem Row.outside.nest {r : Row} (h : r.outside) : (r.region.isSome && !r.handler) = false := by
  rcases h with h | h <;> simp [h]

theorem Row.Quiet.arrayPops {r : Row} (h : r.Quiet) : r.arrayPops = false := by simp [Row.arrayPops, h.2.1]
theorem Row.Quiet.arrayPushes {r : Row} (h : r.Quiet) (ho : r.outBuf = []) : r.arrayPushes = false := by
  simp [Row.arrayPushes, h.2.1, h.2.2, ho]
theorem Row.Quiet.popHeld {r : Row} (h : r.Quiet) : r.popHeld = false := by simp [Row.popHeld, Row.volatileOpen, h.1]

end

/-! ### The registers that a pop writes (R158) -/

/-- One entry delivered into pass k: vd and pv in the lanes that act there. -/
def Row.deliverEntry (q v : Row) (g : Guard) (d : VReg) (pv : PReg) (e : PEntry) (k : Nat) : Row :=
  let ls := (v.actLanes g).filter (fun l => l / 32 == k)
  (q.setLanes d.toNat ls (fun l => tget 0 e.words (l % 32))).setPreds pv.toNat ls (fun l => e.valid.getLsbD (l % 32))

theorem deliver_eq (r v : Row) (g : Guard) (d : VReg) (pv : PReg) (es : List PEntry) :
    r.deliver v g d pv es = es.zipIdx.foldl (fun q x => q.deliverEntry v g d pv x.1 x.2) r := rfl

section
variable {v q : Row} {g : Guard} {d : VReg} {pv : PReg}

theorem deliverEntry_frame (e : PEntry) (k : Nat) :
    q.deliverEntry v g d pv e k = { q with v := (q.deliverEntry v g d pv e k).v, p := (q.deliverEntry v g d pv e k).p } := by
  unfold Row.deliverEntry
  rw [setPreds_eq]
  rfl

theorem deliverEntry_vreg (hL : q.L = v.L) (e : PEntry) (k n l : Nat) (hl : l < v.L) :
    (q.deliverEntry v g d pv e k).vreg n l =
      if n = d.toNat ∧ v.acts g l = true ∧ l / 32 = k then tget 0 e.words (l % 32) else q.vreg n l := by
  unfold Row.deliverEntry
  rw [setPreds_eq]
  refine (setLanes_vreg q d.toNat n l _ _ (hL ▸ hl) fun x hx => ?_).trans ?_
  · exact hL ▸ (mem_actLanes.1 (List.mem_filter.1 hx).1).1
  · simp only [List.mem_filter, mem_actLanes, hl, true_and, beq_iff_eq]

theorem deliverEntry_preg (h1024 : v.L ≤ 1024) (e : PEntry) (k n l : Nat) (hl : l < v.L) :
    ((q.deliverEntry v g d pv e k).preg n).getLsbD l =
      if n = pv.toNat ∧ n ≠ 0 ∧ v.acts g l = true ∧ l / 32 = k then e.valid.getLsbD (l % 32)
      else (q.preg n).getLsbD l := by
  unfold Row.deliverEntry
  refine (setPreds_preg _ pv.toNat n l _ _ (fun x hx => ?_) (Nat.lt_of_lt_of_le hl h1024)).trans ?_
  · exact lt_of_mem_actLanes h1024 (List.mem_filter.1 hx).1
  · simp only [List.mem_filter, mem_actLanes, hl, true_and, beq_iff_eq]
    refine if_congr (and_congr_right fun hn => ?_) rfl rfl
    rw [hn]

end

/-- What the delivery of entries leaves of a row: nothing but vd and pv, lane by lane. -/
structure Delivered (r q : Row) (g : Guard) (d : VReg) (pv : PReg) (es : List PEntry) : Prop where
  frame : { q with v := r.v, p := r.p } = r
  vreg : ∀ n l, l < r.L → q.vreg n l = if n = d.toNat ∧ r.acts g l = true ∧ l / 32 < es.length then
    tget 0 (es.getD (l / 32) ⟨[], 0⟩).words (l % 32) else r.vreg n l
  preg : ∀ n l, l < r.L → (q.preg n).getLsbD l = if n = pv.toNat ∧ n ≠ 0 ∧ r.acts g l = true ∧ l / 32 < es.length then
    (es.getD (l / 32) ⟨[], 0⟩).valid.getLsbD (l % 32) else (r.preg n).getLsbD l

/-- A choice by what is new, made before the choice among what is old. -/
theorem ite_getD_concat {α : Type} {es : List PEntry} {e : PEntry} {k : Nat} {c : Prop} [Decidable c] (f : PEntry → α) (x : α) :
    (if c ∧ k = es.length then f e else if c ∧ k < es.length then f (es.getD k ⟨[], 0⟩) else x) =
      if c ∧ k < (es ++ [e]).length then f ((es ++ [e]).getD k ⟨[], 0⟩) else x := by
  rw [List.length_append, List.length_singleton]
  rcases lt_trichotomy k es.length with hk | hk | hk
  · have hlt : k < es.length + 1 := by omega
    simp [hk, hk.ne, hlt]
  · simp [hk]
  · have hge : ¬ k < es.length + 1 := by omega
    simp [hk.ne', hk.not_gt, hge]

theorem deliver_delivered {r : Row} {g : Guard} {d : VReg} {pv : PReg} (h1024 : r.L ≤ 1024) (es : List PEntry) :
    Delivered r (r.deliver r g d pv es) g d pv es := by
  induction es using List.reverseRecOn with
  | nil => exact ⟨rfl, fun n l _ => by simp [Row.deliver], fun n l _ => by simp [Row.deliver]⟩
  | append_singleton es e ih =>
    have hq : r.deliver r g d pv (es ++ [e]) = (r.deliver r g d pv es).deliverEntry r g d pv e es.length := by
      simp [deliver_eq, List.zipIdx_append]
    obtain ⟨hframe, hv, hp⟩ := ih
    have hL : (r.deliver r g d pv es).L = r.L := (congrArg Row.L hframe :)
    rw [hq]
    refine ⟨?_, fun n l hl => ?_, fun n l hl => ?_⟩
    · rw [deliverEntry_frame]
      exact hframe
    · rw [deliverEntry_vreg hL e es.length n l hl, hv n l hl]
      simpa only [and_assoc] using ite_getD_concat (c := n = d.toNat ∧ r.acts g l = true) (fun e => tget 0 e.words (l % 32)) _
    · rw [deliverEntry_preg h1024 e es.length n l hl, hp n l hl]
      simpa only [and_assoc] using
        ite_getD_concat (c := n = pv.toNat ∧ n ≠ 0 ∧ r.acts g l = true) (fun e => e.valid.getLsbD (l % 32)) _

theorem getD_take {es : List PEntry} {j k : Nat} (h : k < j) (e : PEntry) : (es.take j).getD k e = es.getD k e := by
  rw [List.getD_eq_getElem?_getD, List.getElem?_take_of_lt h, List.getD_eq_getElem?_getD]

/-! ### The pop (R158, R171) -/

/-- The k oldest entries gone from row n's north port, and with them the ends of an edge's slots. -/
def State.popped (s : State) (n k : Nat) : State :=
  s.modRow n (fun q => { q with
    north := { q.north with entries := q.north.entries.drop k }, edgeIn := (edgePop (s.row n).edgeIn k).1
    unseen := if q.nbind == .row && n % 128 = 0 then q.unseen + min k q.north.entries.length else q.unseen })

/-- The slots that a pop releases at a buffer. -/
def State.poppedSlots (s : State) (n k b : Nat) : State :=
  ((s.popped n k).releaseAt (dieOf n) .device).setBuf (dieOf n) b
    ((edgePop (s.row n).edgeIn k).2.foldl CBuf.release ((s.popped n k).buf (dieOf n) b))

section
variable {s : State} {n : Nat}

theorem dropNorth_of_cb {b : Nat} (h : (s.row n).nbind = .cb b) (k : Nat) : s.dropNorth n k =
    if (edgePop (s.row n).edgeIn k).2.isEmpty then s.popped n k else s.poppedSlots n k b := by
  simp only [State.dropNorth, h]
  rfl

theorem dropNorth_of_link {p : Nat} (h : (s.row n).nbind = .link p) (k : Nat) : s.dropNorth n k =
    (s.popped n k).modPort p (fun x => x.free 2 (2 * min k (s.row n).north.entries.length)) := by
  simp only [State.dropNorth, h]
  rfl

theorem dropNorth_of_row_or_closed (h : (s.row n).nbind = .row ∨ (s.row n).nbind = .closed) (k : Nat) :
    s.dropNorth n k = s.popped n k := by
  rcases h with h | h <;> simp only [State.dropNorth, h] <;> rfl

end

theorem popped_draw (s : State) (n k : Nat) : s.draw.popped n k = (s.popped n k).draw := rfl

theorem popped_nbind (s : State) (n k : Nat) : ((s.popped n k).row n).nbind = (s.row n).nbind := by
  rw [State.popped, modRow_row_same]

theorem poppedSlots_nbind (s : State) (n k b : Nat) : ((s.poppedSlots n k b).row n).nbind = (s.row n).nbind := by
  show (((s.popped n k).writeBack (dieOf n)).row n).nbind = _
  rw [writeBack_row, popped_nbind]

/-- An acquire of a pop at a circular buffer, and at a link, reaches the whole device (R171). -/
theorem acquireNorth_of_cb {s : State} {n b : Nat} (h : (s.row n).nbind = .cb b) :
    s.acquireNorth n = s.dropClean (dieOf n) := by
  simp [State.acquireNorth, State.northScope, State.acquireAt, Scope.wide, h]

theorem acquireNorth_draw (s : State) (n : Nat) : s.draw.acquireNorth n = (s.acquireNorth n).draw := by
  have hscope : s.draw.northScope n = s.northScope n := rfl
  rw [State.acquireNorth, State.acquireNorth, hscope, State.acquireAt, State.acquireAt, apply_ite State.draw]
  rfl

theorem acquireNorth_cur (s : State) (n : Nat) : (s.acquireNorth n).cur = s.cur :=
  (apply_ite State.cur _ _ _).trans (ite_self s.cur)

/-- What a pop with its acquire leaves does not depend on the value drawn. -/
theorem dropNorth_acquireNorth_draw (s : State) (n k : Nat) :
    (s.draw.dropNorth n k).acquireNorth n = ((s.dropNorth n k).acquireNorth n).draw := by
  cases h : (s.row n).nbind with
  | row =>
    rw [dropNorth_of_row_or_closed (.inl h), dropNorth_of_row_or_closed (s := s.draw) (.inl h)]
    exact acquireNorth_draw (s.popped n k) n
  | closed =>
    rw [dropNorth_of_row_or_closed (.inr h), dropNorth_of_row_or_closed (s := s.draw) (.inr h)]
    exact acquireNorth_draw (s.popped n k) n
  | link p =>
    rw [dropNorth_of_link h, dropNorth_of_link (s := s.draw) h]
    exact acquireNorth_draw ((s.popped n k).modPort p (fun x => x.free 2 (2 * min k (s.row n).north.entries.length))) n
  | cb b =>
    rw [dropNorth_of_cb h, dropNorth_of_cb (s := s.draw) h, draw_row]
    by_cases hfree : (edgePop (s.row n).edgeIn k).2.isEmpty = true
    · rw [if_pos hfree, if_pos hfree]
      exact acquireNorth_draw (s.popped n k) n
    · have hs := (poppedSlots_nbind s n k b).trans h
      have ht := (poppedSlots_nbind s.draw n k b).trans h
      have hwide (u : State) : u.releaseAt (dieOf n) .device = u.writeBack (dieOf n) := rfl
      rw [if_neg hfree, if_neg hfree, acquireNorth_of_cb hs, acquireNorth_of_cb ht, State.poppedSlots, State.poppedSlots,
        hwide, hwide, dropClean_setBuf, dropClean_setBuf, popped_draw, dropClean_writeBack_draw]
      rfl

theorem dropNorth_cur (s : State) (n k : Nat) : (s.dropNorth n k).cur = s.cur := by
  cases h : (s.row n).nbind with
  | row => rw [dropNorth_of_row_or_closed (.inl h)]; rfl
  | closed => rw [dropNorth_of_row_or_closed (.inr h)]; rfl
  | link p => rw [dropNorth_of_link h]; rfl
  | cb b =>
    rw [dropNorth_of_cb h]
    split
    · rfl
    · exact writeBack_cur (s.popped n k) (dieOf n)

/-! ### PRD and PRDN (R158 to R160) -/

section
variable {s : State} {g : Guard} {d : VReg} {pv qt qs : PReg} {k : Nat}

theorem take_isEmpty {es : List PEntry} (hk : k ≤ es.length) : (es.take k).isEmpty = decide (k = 0) := by
  cases es with
  | nil => simpa using hk
  | cons e es => cases k <;> simp

theorem popInto_eq (hk : k ≤ (s.row s.cur).north.entries.length) :
    popInto s s.cur (s.row s.cur) g d pv k = if k = 0 then s else
      ((s.now (fun _ => (s.row s.cur).deliver (s.row s.cur) g d pv ((s.row s.cur).north.entries.take k))).dropNorth s.cur
        k).acquireNorth s.cur := by
  unfold popInto
  simp only [take_isEmpty hk, decide_eq_true_eq]
  rfl

theorem popInto_draw (s : State) (n : Nat) (v : Row) (k : Nat) :
    popInto s.draw n v g d pv k = (popInto s n v g d pv k).draw := by
  unfold popInto
  rw [apply_ite State.draw, ← dropNorth_acquireNorth_draw]
  rfl

theorem popInto_cur (s : State) (n : Nat) (v : Row) (k : Nat) : (popInto s n v g d pv k).cur = s.cur := by
  unfold popInto
  rw [apply_ite State.cur, acquireNorth_cur, dropNorth_cur]
  exact ite_self s.cur

/-- Nothing keeps PRD or PRDN from its body in a row with nothing outstanding. -/
theorem planPop_clear {r : Row} (hq : r.Quiet) (ho : r.outside) (hd : r.Has [d.toNat]) : (planPop d pv).Clear r where
  legal := rfl
  regs := hd.badReg
  nest := ho.nest
  priv := rfl
  hold := by
    show (r.holdV d.toNat || r.pendP pv.toNat) = false
    rw [hq.holdV, hq.pendP]
    rfl
  fp := rfl

end

/-- What the body of PRD comes to at a state `u` that has the row's port, where no array and no access is in its way. -/
def prdOutcome (u : State) (n : Nat) (r : Row) (g : Guard) (d : VReg) (pv : PReg) : Res :=
  if r.nbind = .closed then .trap cPortClosed 0 u
  else if r.L / 32 ≤ r.north.entries.length then .done (popInto u n r g d pv (r.L / 32))
  else if r.sealed = true then
    .trap cPortDrained (BitVec.ofNat 64 r.north.entries.length) (popInto u n r g d pv r.north.entries.length)
  else .wait .portNorth u

/-- The two flags that PRDN writes: what is written to qs stands where both are one (log entry 50). -/
def State.setFlags (u : State) (n : Nat) (qt qs : PReg) (t f : Bool) : State :=
  u.modRow n (fun r => (r.setQ qt.toNat t).setQ qs.toNat f)

/-- The same for PRDN, which does not wait. -/
def prdnOutcome (u : State) (n : Nat) (r : Row) (g : Guard) (d : VReg) (pv qt qs : PReg) : Res :=
  if r.nbind = .closed then .trap cPortClosed 0 u
  else if r.L / 32 ≤ r.north.entries.length then
    .done ((popInto u n r g d pv (r.L / 32)).setFlags n qt qs true false)
  else if r.sealed = true then .done ((popInto u n r g d pv r.north.entries.length).setFlags n qt qs false true)
  else .done (u.setFlags n qt qs false false)

section
variable {s : State} {d : VReg} (g : Guard) (pv qt qs : PReg)
variable (hq : (s.row s.cur).Quiet) (ho : (s.row s.cur).outside) (hd : (s.row s.cur).Has [d.toNat])
include hq ho hd

theorem prd_comesTo : ComesTo (.prd g d pv) s (prdOutcome s.draw s.cur (s.row s.cur) g d pv) := by
  have he : exec (.prd g d pv) s = execPrd g d pv s := rfl
  unfold execPrd at he
  have h := comesTo_issueAll he hq (planPop_clear hq ho hd) rfl
  simp only [draw_row, hq.arrayPops, hq.popHeld, Bool.false_eq_true, if_false, beq_iff_eq] at h
  exact h

theorem prdn_comesTo : ComesTo (.prdn g d pv qt qs) s (prdnOutcome s.draw s.cur (s.row s.cur) g d pv qt qs) := by
  have he : exec (.prdn g d pv qt qs) s = execPrdn g d pv qt qs s := rfl
  unfold execPrdn at he
  have h := comesTo_issueAll he hq (planPop_clear hq ho hd) rfl
  simp only [draw_row, hq.arrayPops, hq.popHeld, Bool.false_eq_true, if_false, beq_iff_eq] at h
  exact h

end

/-- Settles O27: PRD and PRDN issue whatever their lanes hold, and what a pop leaves, its acquire included, does not depend on the
value drawn at issue. -/
theorem portPop : Obligations.PortPop := by
  unfold Obligations.PortPop
  intro s g d pv qt qs hq ho hL hd r
  have hprd := prd_comesTo g pv hq ho hd
  have hprdn := prdn_comesTo g pv qt qs hq ho hd
  unfold prdOutcome at hprd
  unfold prdnOutcome at hprdn
  refine ⟨fun hclosed => ?_, fun hopen => ?_⟩
  · rw [if_pos hclosed] at hprd hprdn
    exact ⟨hprd.raises, hprdn.raises⟩
  rw [if_neg hopen] at hprd hprdn
  intro k took flags
  have htook (j : Nat) (hj : j ≤ k) : took j (popInto s s.cur r g d pv j) := by
    obtain ⟨hframe, hv, hp⟩ := deliver_delivered (g := g) (d := d) (pv := pv) hL (r.north.entries.take j)
    have hlen : (r.north.entries.take j).length = j := List.length_take_of_le hj
    rw [hlen] at hv hp
    refine ⟨_, popInto_eq hj, fun _ => ⟨hframe, fun n l hl => ⟨?_, ?_⟩⟩⟩
    · exact (hv n l hl).trans (if_ctx_congr Iff.rfl (fun h => by rw [getD_take h.2.2]) fun _ => rfl)
    · exact (hp n l hl).trans (if_ctx_congr Iff.rfl (fun h => by rw [getD_take h.2.2.2]) fun _ => rfl)
  refine ⟨fun henough => ?_, fun hshort hsealed => ?_, fun hshort hsealed => ?_⟩
  · rw [if_pos henough, popInto_draw] at hprd hprdn
    exact ⟨_, htook _ henough, hprd.completes (u := popInto s s.cur r g d pv (r.L / 32)) _ (popInto_cur ..),
      hprdn.completes (u := flags true false _) _ (popInto_cur ..)⟩
  · rw [if_neg (Nat.not_le.2 hshort), if_neg (by rw [hsealed]; exact Bool.false_ne_true)] at hprd hprdn
    exact ⟨hprd.waits, hprdn.completes (u := flags false false s) _ rfl⟩
  · rw [if_neg (Nat.not_le.2 hshort), if_pos hsealed, popInto_draw] at hprd hprdn
    exact ⟨_, htook k le_rfl, hprdn.completes (u := flags false true _) _ (popInto_cur ..), hprd.traps⟩

end Sys2Proof.Machine
end

section
/-! SUPPORT. A push that releases to the whole device (R171) where the die's far cache holds a dirty byte: the byte is written home and
stays as a clean copy that bears the number of the draw (log entry 10), and the issue of the word has drawn a value before. -/

namespace Sys2Proof.Machine

theorem ComesTo.die_of_completes {i : Instr} {s u w : State} (h : ComesTo i s (.done w)) (hc : Completes i s u) (d : Nat) :
    w.die d = u.die d := by
  obtain ⟨units, cycles, he⟩ := h
  obtain ⟨t, ht, hacted⟩ := hc
  obtain rfl := Host.Outcome.next.inj (he.symm.trans ht)
  rw [← hacted.dies, modRow_die, charge_die]

/-! ### PWR and PXFER where nothing is in their way -/

section
variable {s : State} {g : Guard}
variable (ho : (s.row s.cur).outside) (hb : (s.row s.cur).outBuf = []) (hshut : s.southShut s.cur = false)
  (hopen : (s.row s.cur).sbind ≠ .closed)
include ho hb hshut hopen

theorem pwr_comesTo {a : VReg} {m : Amod} (hq : (s.row s.cur).Quiet) (hm : (s.row s.cur).Fits m)
    (ha : (s.row s.cur).Has [a.toNat]) (hroom : s.southRoom s.cur ((s.row s.cur).L / 32) = true) :
    ComesTo (.pwr g a m) s (.done ((s.draw.releaseSouth s.cur).pushSouth s.cur
      ((List.range ((s.row s.cur).L / 32)).map (pushEntry (s.row s.cur) g a m)))) := by
  have he : exec (.pwr g a m) s = execPwr g a m s := rfl
  unfold execPwr at he
  have hshut' : s.draw.southShut s.cur = false := hshut
  have hroom' : s.draw.southRoom s.cur ((s.row s.cur).L / 32) = true := hroom
  have h := comesTo_issueAll he hq ⟨hm.amodWide, ha.badReg, ho.nest, rfl, rfl, rfl⟩ rfl
  simp only [draw_row, beq_iff_eq, hopen, hshut', hq.arrayPushes hb, hroom', hq.drained, Bool.not_true, Bool.false_eq_true,
    if_false] at h
  exact h

theorem pxfer_comesTo {qs : PReg} {n : BitVec 5} (h : s.ready g) (hopenN : (s.row s.cur).nbind ≠ .closed)
    (hk : n.toNat + 1 ≤ (s.row s.cur).north.entries.length) (hroom : s.southRoom s.cur (n.toNat + 1) = true) :
    ComesTo (.pxfer g qs n) s (.done (((((s.draw.dropNorth s.cur (n.toNat + 1)).acquireNorth s.cur).releaseSouth
      s.cur).pushSouth s.cur ((s.row s.cur).north.entries.take (n.toNat + 1))).modRow s.cur
        (fun r => r.setQ qs.toNat false))) := by
  have he : exec (.pxfer g qs n) s = execPxfer g qs n s := rfl
  unfold execPxfer at he
  have hshut' : s.draw.southShut s.cur = false := hshut
  have hroom' : s.draw.southRoom s.cur (min (n.toNat + 1) (s.row s.cur).north.entries.length) = true := by
    rw [Nat.min_eq_left hk]
    exact hroom
  have hcome := comesTo_issueQ he h ⟨rfl, rfl, ho.nest, rfl, rfl, rfl⟩ rfl
  simp only [draw_row, beq_iff_eq, hopen, hopenN, hshut', h.1.arrayPushes hb, h.1.arrayPops, hroom', h.1.drained,
    Nat.not_lt.2 hk, take_isEmpty hk, Nat.succ_ne_zero, Bool.or_eq_true, or_self, decide_false, Bool.false_and, Bool.not_true,
    Bool.false_eq_true, if_false] at hcome
  exact hcome

end

/-! ### The release of a push -/

theorem pushSouth_die (s : State) (n : Nat) (es : List PEntry) (d : Nat) : (s.pushSouth n es).die d = s.die d := by
  unfold State.pushSouth
  dsimp only
  split
  · rfl
  split
  · rfl
  · rfl
  · split
    · unfold State.defer
      dsimp only
      split
      · rfl
      · split <;> rfl
    · rfl
  · rfl

/-- The one byte of a far cache, dirty before a push that releases to the device, bears the number of the draw after it. -/
theorem pushReleased_farAt {s : State} {n a k : Nat} {v : W8} (es : List PEntry) (hw : Scope.wide (s.southScope n) = true)
    (hfar : (s.die (dieOf n)).far = [(a, some ⟨v, true, k⟩)]) :
    tget none (((s.releaseSouth n).pushSouth n es).die (dieOf n)).far a = some ⟨v, false, s.drawn⟩ := by
  rw [pushSouth_die, State.releaseSouth, State.releaseAt, if_pos hw]
  exact writeBack_farAt hfar

/-- So the value drawn before such a push shows in the die that it leaves. -/
theorem pushReleased_draw_die_ne {s : State} {n a k : Nat} {v : W8} (es : List PEntry)
    (hw : Scope.wide (s.southScope n) = true) (hfar : (s.die (dieOf n)).far = [(a, some ⟨v, true, k⟩)]) :
    ((s.draw.releaseSouth n).pushSouth n es).die (dieOf n) ≠ ((s.releaseSouth n).pushSouth n es).die (dieOf n) := by
  intro h
  have hat := congrArg (fun y : Die => tget none y.far a) h
  simp only [pushReleased_farAt (s := s.draw) es hw hfar, pushReleased_farAt es hw hfar] at hat
  simp at hat

/-! ### A row at a die boundary -/

/-- A row inside a band, one entry at its north port. -/
def bandRow : Row := { Row.reset with nbind := .row, sbind := .row, north := ⟨[⟨[], 0⟩], [], .none⟩ }

/-- Row 127, the last of die 0, inside a band, with one dirty byte in the die's far cache: its pushes cross the die boundary, so
that they release to the device. -/
def dirtyBoundary : State :=
  { State.reset with cur := 127, job := { State.reset.job with rows := [(127, bandRow)], dies := [(0, dirtyDie)] } }

theorem dirtyBoundary_quiet : (dirtyBoundary.row dirtyBoundary.cur).Quiet := ⟨rfl, rfl, rfl⟩

theorem dirtyBoundary_fits : (dirtyBoundary.row dirtyBoundary.cur).Fits .none := by
  unfold Row.Fits
  decide

theorem dirtyBoundary_has : (dirtyBoundary.row dirtyBoundary.cur).Has [(0 : VReg).toNat] := by
  unfold Row.Has
  decide

/-- Refutes O26: by its clause on a push with room PWR leaves the state that releases and pushes without a value drawn. In
`dirtyBoundary` the release leaves the byte that it writes home in the far cache with the number of the draw, and the word's issue has
drawn one before, so that die 0 differs. -/
theorem not_portOrder : ¬ Obligations.PortOrder := by
  unfold Obligations.PortOrder
  rintro ⟨-, hpwr⟩
  obtain ⟨hdone, -⟩ := hpwr dirtyBoundary always 0 .none dirtyBoundary_quiet rfl (.inl rfl)
    dirtyBoundary_fits dirtyBoundary_has
  have hcome := pwr_comesTo (s := dirtyBoundary) (g := always) (a := 0) (m := .none) (.inl rfl) rfl rfl (by decide)
    dirtyBoundary_quiet dirtyBoundary_fits dirtyBoundary_has rfl
  have hdie := hcome.die_of_completes (hdone (by decide) rfl rfl) 0
  exact pushReleased_draw_die_ne (s := dirtyBoundary) (n := 127) _ rfl rfl hdie

/-- Refutes O28: its clause on a PXFER with its entries and room fails in the same way, by the release of the push. -/
theorem not_portTransfers : ¬ Obligations.PortTransfers := by
  unfold Obligations.PortTransfers
  rintro ⟨hports, -⟩
  have hready : dirtyBoundary.ready always := ⟨dirtyBoundary_quiet, rfl⟩
  obtain ⟨-, -, -, hpxfer⟩ := hports dirtyBoundary always 1 0 0 true hready (.inl rfl) rfl
  obtain ⟨-, hopen⟩ := hpxfer (by decide) (by decide)
  obtain ⟨hdone, -⟩ := hopen rfl
  have hcome := pxfer_comesTo (s := dirtyBoundary) (g := always) (qs := 1) (n := 0) (.inl rfl) rfl rfl (by decide) hready
    (by decide) (by decide) rfl
  have hdie := hcome.die_of_completes (hdone (by decide) rfl) 0
  simp only [modRow_die, Nat.succ_ne_zero, if_false, dropNorth_acquireNorth_draw] at hdie
  exact pushReleased_draw_die_ne (s := (dirtyBoundary.dropNorth 127 1).acquireNorth 127) (n := 127) (a := sideBase) (k := 0)
    (v := 1) _ (by decide +kernel) (by decide +kernel) hdie

end Sys2Proof.Machine
end

section
/-! SUPPORT. The residue pipeline (R181): three residues of a dot product determine it, by its bounds for each mix of signedness. -/

namespace Sys2Proof.Machine

/-! ### Residues -/

/-- Sums whose terms have equal residues have equal residues. -/
theorem sum_emod_congr {m : Int} {f g : Nat → Int} (l : List Nat) (h : ∀ k, f k % m = g k % m) :
    (l.map f).sum % m = (l.map g).sum % m := by
  induction l with
  | nil => rfl
  | cons k l ih =>
    rw [List.map_cons, List.map_cons, List.sum_cons, List.sum_cons, Int.add_emod, h k, ih, ← Int.add_emod]

/-- A residue of the dot product, computed from the residues of its elements. -/
theorem residue_dotProduct (qa qw : Nat → Int) (m : Int) :
    ((List.range 256).map (fun k => qa k % m * (qw k % m))).sum % m = dotProduct qa qw % m :=
  sum_emod_congr _ fun _ => (Int.mul_emod _ _ _).symm

/-- The residues by 255, 256 and 257 give the residue by their product. -/
theorem residues_combine (x : Int) :
    (x % 255 * 8421376 + x % 256 * 16711425 + x % 257 * 8421120) % 16776960 = x % 16776960 := by
  omega

/-! ### Bounds -/

/-- The greatest magnitude of an 8-bit integer. -/
def topOf (sgn : Bool) : Int := if sgn then 128 else 255

theorem topOf_nonneg (sgn : Bool) : 0 ≤ topOf sgn := by cases sgn <;> decide

theorem abs_le_topOf {sgn : Bool} {q : Int} (h : if sgn then -128 ≤ q ∧ q ≤ 127 else 0 ≤ q ∧ q ≤ 255) : |q| ≤ topOf sgn := by
  rw [abs_le]
  cases sgn <;> simp only [topOf, if_true, Bool.false_eq_true, if_false] at h ⊢ <;> omega

theorem sum_range_bounds {f : Nat → Int} {lo hi : Int} (h : ∀ k, k < 256 → lo ≤ f k ∧ f k ≤ hi) :
    256 * lo ≤ ((List.range 256).map f).sum ∧ ((List.range 256).map f).sum ≤ 256 * hi := by
  have hmem : ∀ x ∈ (List.range 256).map f, lo ≤ x ∧ x ≤ hi := fun x hx => by
    obtain ⟨k, hk, rfl⟩ := List.mem_map.1 hx
    exact h k (List.mem_range.1 hk)
  have hlo := List.card_nsmul_le_sum _ lo fun x hx => (hmem x hx).1
  have hhi := List.sum_le_card_nsmul _ hi fun x hx => (hmem x hx).2
  simp only [List.length_map, List.length_range, nsmul_eq_mul] at hlo hhi
  exact ⟨hlo, hhi⟩

/-- Where a factor is signed, the dot product's magnitude is less than half of the modulus; otherwise it is in the modulus' range. -/
theorem dotProduct_bounds {qa qw : Nat → Int} {sa sw : Bool}
    (ha : ∀ k, k < 256 → (if sa then -128 ≤ qa k ∧ qa k ≤ 127 else 0 ≤ qa k ∧ qa k ≤ 255))
    (hw : ∀ k, k < 256 → (if sw then -128 ≤ qw k ∧ qw k ≤ 127 else 0 ≤ qw k ∧ qw k ≤ 255)) :
    if (sa || sw) = true then -8388480 < dotProduct qa qw ∧ dotProduct qa qw < 8388480
      else 0 ≤ dotProduct qa qw ∧ dotProduct qa qw < 16776960 := by
  have habs (k : Nat) (hk : k < 256) : |qa k * qw k| ≤ topOf sa * topOf sw := by
    rw [abs_mul]
    exact mul_le_mul (abs_le_topOf (ha k hk)) (abs_le_topOf (hw k hk)) (abs_nonneg _) (topOf_nonneg sa)
  obtain ⟨hlo, hhi⟩ := sum_range_bounds fun k hk => abs_le.1 (habs k hk)
  rw [dotProduct]
  split
  · next hs =>
    have htop : topOf sa * topOf sw ≤ 32640 := by revert hs; cases sa <;> cases sw <;> decide
    omega
  · next hs =>
    obtain ⟨rfl, rfl⟩ : sa = false ∧ sw = false := by simpa using hs
    have hnonneg (k : Nat) (hk : k < 256) : 0 ≤ qa k * qw k := mul_nonneg (ha k hk).1 (hw k hk).1
    have hzero := (sum_range_bounds fun k hk => ⟨hnonneg k hk, (abs_le.1 (habs k hk)).2⟩).1
    have htop : topOf false * topOf false = 65025 := by decide
    omega

/-- Settles O38: the residues give the dot product modulo 255 · 256 · 257, and its bounds single it out. -/
theorem residuePipeline : Obligations.ResiduePipeline := by
  unfold Obligations.ResiduePipeline
  intro qa qw sa sw ha hw t x
  have hx : x = dotProduct qa qw % 16776960 := by
    rw [← residues_combine]
    simp only [x, t, residue_dotProduct]
  have hbounds := dotProduct_bounds ha hw
  rw [hx]
  by_cases hs : (sa || sw) = true
  · rw [if_pos hs] at hbounds
    simp only [hs, true_and]
    split <;> omega
  · rw [if_neg hs] at hbounds
    rw [if_neg (fun h => hs h.1)]
    omega

end Sys2Proof.Machine
end

section
/-! SUPPORT. WLD, WSWAP and MMAC at issue (R175, R186 to R188, R196): the outcome of each body, in and out of handler mode, and the
encoding causes of MMAC (R118, R177). -/

namespace Sys2Proof.Machine

/-! ### Encoding causes, and handler mode -/

section
variable {i : Instr} {p : Plan} {go : Row → Bool} {body : State → Nat → Row → Res} {s : State}

/-- A field value that the width forbids is tested first (R413). -/
theorem Raises.illegal (he : exec i s = issueWord p go body s) (h : p.illegal (s.row s.cur) = true) :
    Raises i s cIllEnc (s.row s.cur).curWord := by
  rw [Raises, he]
  simp only [issueWord, h, if_true, settle]

/-- The first register number beyond the count is tested next (R118). -/
theorem Raises.badReg {k : Nat} (he : exec i s = issueWord p go body s) (hl : p.illegal (s.row s.cur) = false)
    (h : (s.row s.cur).badReg (p.regs ++ p.regsOf (s.row s.cur)) = some k) : Raises i s cIllEnc (BitVec.ofNat 64 k) := by
  rw [Raises, he]
  simp only [issueWord, hl, h, Bool.false_eq_true, if_false, settle]

/-- In handler mode, once the array has settled, the three instructions that use it trap (R196). -/
theorem ComesTo.raises_handler (h : ComesTo i s (whenRunning body s.draw s.cur (s.row s.cur)))
    (hh : (s.row s.cur).handler = true) (hs : (s.row s.cur).settled = true) : Raises i s cMatrixFmt 2 := by
  simp only [whenRunning, draw_row, hh, hs, if_true] at h
  exact h.raises

end

theorem whenRunning_of_running {s : State} {n : Nat} (h : (s.row n).handler = false) (body : State → Nat → Row → Res) (v : Row) :
    whenRunning body s n v = body s n v := by
  simp only [whenRunning, h, Bool.false_eq_true, if_false]

theorem operandFault_draw (s : State) (n : Nat) (sA sB : W64) (fmt k : Nat) (arr : Bool) :
    operandFault s.draw n sA sB fmt k arr = operandFault s n sA sB fmt k arr := rfl

theorem mmacFault_draw (s : State) (n : Nat) (f : MmacF) (sA sB : W64) : mmacFault s.draw n f sA sB = mmacFault s n f sA sB := rfl

theorem rowClk_draw (s : State) (n : Nat) : s.draw.rowClk n = s.rowClk n := rfl

theorem reserve_eq (r : Row) : r.reserve =
    { r with shadow := if r.shadow.st = .empty ∨ r.shadow.st = .full then { Latch.reset with st := .filling } else r.shadow } := by
  unfold Row.reserve
  cases h : r.shadow.st <;> simp [Latch.reserved]

/-! ### WLD -/

section
variable {s : State} {g : Guard} {a : VReg} {n : BitVec 8} {fmt : BitVec 3} {sa fs : Bool} {ss : SReg}

/-- What WLD leaves of its row: the shadow reserved, and its operation under way. -/
def Row.takeWld (r : Row) (a n fmt : Nat) (sa fs : Bool) (ss : SReg) (clk : W64) : Row :=
  { ({ r with shadow := if r.shadow.st = .empty ∨ r.shadow.st = .full then { Latch.reset with st := .filling }
        else r.shadow } : Row).addOp (r.flagSel fs)
      (.wld (r.sreg a) (r.sreg (a + 1)) n fmt sa (if ss = 0 then none else some (r.sreg ss.toNat)) false 0) with
    mat := r.mat.use clk }

theorem wld_comesTo (h : s.ready g) (ho : (s.row s.cur).outside) (hb : (s.row s.cur).mat.banked = false)
    (hh : (s.row s.cur).handler = false) : ComesTo (.wld g a n fmt sa ss fs) s
      ((operandFault s s.cur ((s.row s.cur).sreg a.toNat) ((s.row s.cur).sreg (a.toNat + 1)) fmt.toNat n.toNat (ss == 0)).elim
        (.done (s.draw.modRow s.cur (fun r => r.takeWld a.toNat n.toNat fmt.toNat sa fs ss (s.rowClk s.cur))))
        (fun e => .trap e.1 e.2 s.draw)) := by
  have he : exec (.wld g a n fmt sa ss fs) s = execWld g a n fmt sa ss fs s := rfl
  have hcome := comesTo_issueQ he h ⟨rfl, rfl, ho.nest, rfl, rfl, rfl⟩ rfl
  rw [whenRunning_of_running (s := s.draw) hh] at hcome
  simp only [draw_row, hb, operandFault_draw, reserve_eq, beq_iff_eq, Bool.false_eq_true, if_false] at hcome
  cases hf : operandFault s s.cur ((s.row s.cur).sreg a.toNat) ((s.row s.cur).sreg (a.toNat + 1)) fmt.toNat n.toNat (ss == 0) with
  | none => rw [hf] at hcome; exact hcome
  | some e => rw [hf] at hcome; exact hcome

theorem wld_handler (h : s.ready g) (ho : (s.row s.cur).outside) (hh : (s.row s.cur).handler = true)
    (hs : (s.row s.cur).settled = true) : Raises (.wld g a n fmt sa ss fs) s cMatrixFmt 2 := by
  have he : exec (.wld g a n fmt sa ss fs) s = execWld g a n fmt sa ss fs s := rfl
  exact (comesTo_issueQ he h ⟨rfl, rfl, ho.nest, rfl, rfl, rfl⟩ rfl).raises_handler hh hs

end

/-! ### WSWAP -/

section
variable {s : State} {g : Guard} (h : s.ready g) (ho : (s.row s.cur).outside)
include h ho

theorem wswap_handler (hh : (s.row s.cur).handler = true) (hs : (s.row s.cur).settled = true) :
    Raises (.wswap g) s cMatrixFmt 2 := by
  have he : exec (.wswap g) s = execWswap g s := rfl
  exact (comesTo_issueQ he h ⟨rfl, rfl, ho.nest, rfl, rfl, rfl⟩ rfl).raises_handler hh hs

theorem wswap_full (hh : (s.row s.cur).handler = false) (hst : (s.row s.cur).shadow.st = .full) :
    Completes (.wswap g) s (s.now (fun r => { r with
      shadow := { r.shadow with st := .swapQueued }, queue := r.queue ++ [⟨r.nextId, .swap⟩]
      mat := r.mat.use (s.rowClk s.cur) })) := by
  have he : exec (.wswap g) s = execWswap g s := rfl
  have hcome := comesTo_issueQ he h ⟨rfl, rfl, ho.nest, rfl, rfl, rfl⟩ rfl
  have hroom : ¬ 4 ≤ (s.row s.cur).queue.length := by rw [h.1.2.1]; decide
  rw [whenRunning_of_running (s := s.draw) hh] at hcome
  simp only [draw_row, hst, hroom, if_false] at hcome
  exact hcome.completes_setRow

theorem wswap_empty (hh : (s.row s.cur).handler = false) (hst : (s.row s.cur).shadow.st = .empty) :
    Raises (.wswap g) s cMatrixFmt 1 := by
  have he : exec (.wswap g) s = execWswap g s := rfl
  have hcome := comesTo_issueQ he h ⟨rfl, rfl, ho.nest, rfl, rfl, rfl⟩ rfl
  rw [whenRunning_of_running (s := s.draw) hh] at hcome
  simp only [draw_row, hst] at hcome
  exact hcome.raises

theorem wswap_busy (hh : (s.row s.cur).handler = false)
    (hst : (s.row s.cur).shadow.st = .filling ∨ (s.row s.cur).shadow.st = .swapQueued) : Waits (.wswap g) s .array := by
  have he : exec (.wswap g) s = execWswap g s := rfl
  have hcome := comesTo_issueQ he h ⟨rfl, rfl, ho.nest, rfl, rfl, rfl⟩ rfl
  rw [whenRunning_of_running (s := s.draw) hh] at hcome
  rcases hst with hst | hst <;> simp only [draw_row, hst] at hcome <;> exact hcome.waits

end

/-! ### MMAC -/

/-- What is tested of an MMAC before its body. -/
def mmacPlan (f : MmacF) : Plan :=
  { illegal := mmacIllegal f, regsOf := mmacRegs f, hold := mmacHold f, nest := true, access := true }

/-- What MMAC leaves of its row: its slot at the end of the queue, and its operation under way. -/
def Row.takeMmac (r : Row) (f : MmacF) (sA sB clk : W64) : Row :=
  { r.addOp (r.flagSel f.fs) .mmac with
    queue := r.queue ++ [⟨r.nextId, .mmac r.curWord f sA sB (r.sreg f.ss.toNat) 0 0⟩]
    mat := r.mat.use clk, arrSince := clk }

theorem Row.Quiet.mmacHold {r : Row} (h : r.Quiet) (f : MmacF) : mmacHold f r = false := by
  simp [Sys2Proof.Machine.mmacHold, h.holdV]

section
variable {s : State} {g : Guard} {f : MmacF} (hi : mmacIllegal f (s.row s.cur) = false)

theorem exec_mmac (g : Guard) (f : MmacF) (s : State) :
    ∃ body, exec (.mmac g f) s = issueQ (mmacPlan f) g (whenRunning body) s := ⟨_, rfl⟩

theorem mmac_illegal (hi : mmacIllegal f (s.row s.cur) = true) : Raises (.mmac g f) s cIllEnc (s.row s.cur).curWord := by
  obtain ⟨body, he⟩ := exec_mmac g f s
  exact Raises.illegal he hi

include hi

/-- The range of d, where MMAC writes registers, is tested first (log entry 66). -/
theorem mmac_badD (hd : f.dk = 2) (hc : (s.row s.cur).vcount ≤ f.d.toNat) :
    Raises (.mmac g f) s cIllEnc (BitVec.ofNat 64 f.d.toNat) := by
  obtain ⟨body, he⟩ := exec_mmac g f s
  refine Raises.badReg he hi ?_
  simp [mmacPlan, Row.badReg, mmacRegs, hd, List.range_succ_eq_map, hc]

theorem mmac_badA (hd : f.dk ≠ 2) (hp : f.pair = false) (hc : (s.row s.cur).vcount ≤ f.a.toNat) :
    Raises (.mmac g f) s cIllEnc (BitVec.ofNat 64 f.a.toNat) := by
  obtain ⟨body, he⟩ := exec_mmac g f s
  refine Raises.badReg he hi ?_
  have hd' : (f.dk == 2) = false := beq_false_of_ne hd
  simp only [mmacPlan, Row.badReg, mmacRegs, hd', hp, Bool.false_eq_true, if_false]
  simp [List.range_succ_eq_map, hc]

variable (h : s.ready g) (ho : (s.row s.cur).outside) (hr : (s.row s.cur).Has (mmacRegs f (s.row s.cur)))
include h ho hr

theorem mmacPlan_clear : (mmacPlan f).Clear (s.row s.cur) :=
  ⟨hi, hr.badReg, ho.nest, rfl, h.1.mmacHold f, rfl⟩

theorem mmac_handler (hh : (s.row s.cur).handler = true) (hs : (s.row s.cur).settled = true) :
    Raises (.mmac g f) s cMatrixFmt 2 := by
  obtain ⟨body, he⟩ := exec_mmac g f s
  exact (comesTo_issueQ he h (mmacPlan_clear hi h ho hr) rfl).raises_handler hh hs

theorem mmac_comesTo (hb : (s.row s.cur).mat.banked = false) (hh : (s.row s.cur).handler = false) {sA sB : W64}
    (hA : sA = if f.pair then (s.row s.cur).sreg f.a.toNat else 0)
    (hB : sB = if f.pair then (s.row s.cur).sreg (f.a.toNat + 1) else 0) :
    ComesTo (.mmac g f) s ((mmacFault s s.cur f sA sB).elim
      (.done (s.draw.modRow s.cur (fun r => r.takeMmac f sA sB (s.rowClk s.cur)))) (fun e => .trap e.1 e.2 s.draw)) := by
  have he : exec (.mmac g f) s = execMmac g f s := rfl
  have hcome := comesTo_issueQ he h (mmacPlan_clear hi h ho hr) rfl
  have hroom : ¬ 4 ≤ (s.row s.cur).queue.length := by rw [h.1.2.1]; decide
  rw [whenRunning_of_running (s := s.draw) hh] at hcome
  simp only [draw_row, hb, ← hA, ← hB, mmacFault_draw, hroom, Bool.false_eq_true, if_false] at hcome
  cases hf : mmacFault s s.cur f sA sB with
  | none => rw [hf] at hcome; exact hcome
  | some e => rw [hf] at hcome; exact hcome

end

/-- Settles O39: each word by the outcome of its body, or by the cause that is tested before it. -/
theorem matrixIssue : Obligations.MatrixIssue := by
  unfold Obligations.MatrixIssue
  intro s g a n fmt sa fs ss f c x hready hout hb r clk A B fA fB wld
  refine ⟨fun hh => ⟨fun hnone => ?wld, fun hsome => ?wldFault, fun hst => wswap_full hready hout hh hst,
      fun hst => wswap_empty hready hout hh hst, fun hst => wswap_busy hready hout hh hst⟩,
    mmac_illegal, fun hi => ⟨mmac_badD hi, mmac_badA hi⟩, fun hi hr hh => ⟨fun hnone => ?mmac, fun hsome => ?mmacFault⟩,
    fun hi hr hh hs => ?handler⟩
  case wld =>
    have hcome := wld_comesTo (a := a) (n := n) (fmt := fmt) (sa := sa) (fs := fs) (ss := ss) hready hout hb hh
    rw [hnone] at hcome
    exact hcome.completes_now
  case wldFault =>
    have hcome := wld_comesTo (a := a) (n := n) (fmt := fmt) (sa := sa) (fs := fs) (ss := ss) hready hout hb hh
    rw [hsome] at hcome
    exact hcome.raises
  case mmac =>
    have hcome := mmac_comesTo hi hready hout hr hb hh rfl rfl
    rw [hnone] at hcome
    exact hcome.completes_now
  case mmacFault =>
    have hcome := mmac_comesTo hi hready hout hr hb hh rfl rfl
    rw [hsome] at hcome
    exact hcome.raises
  case handler =>
    intro i hmem
    simp only [List.mem_cons, List.not_mem_nil, or_false] at hmem
    rcases hmem with rfl | rfl | rfl
    · exact wld_handler hready hout hh hs
    · exact wswap_handler hready hout hh hs
    · exact mmac_handler hi hready hout hr hh hs

end Sys2Proof.Machine
end

section
/-! SUPPORT. The operands of the array in memory (R178, R189): what the filling of the far cache for them leaves alone, and that a
cache which has held nothing changes no byte that the die reads (R227, R268). -/

namespace Sys2Proof.Machine

/-! ### What a filling leaves alone -/

section
variable {β : Type} {f : State → β} (hbyte : ∀ u a v, f (State.setByte u a v) = f u)
  (hdie : ∀ u d g, f (State.modDie u d g) = f u) (hdraw : ∀ u, f (State.draw u) = f u)
include hdie hdraw

theorem fillLine_keeps (s : State) (d a : Nat) : f (s.fillLine d a) = f s := by
  unfold State.fillLine
  split
  · rfl
  · rw [hdraw]
    refine List.foldlRecOn (motive := fun t : State => f t = f s) _ _ rfl fun t ht b _ => ?_
    split
    · exact ht
    · exact (hdie t d _).trans ht

theorem fillFor_keeps (s : State) (d a n : Nat) : f (s.fillFor d a n) = f s := by
  have hline (u : State) (b : Nat) : f (u.fillLine d b) = f u := fillLine_keeps hdie hdraw u d b
  unfold State.fillFor
  split
  · split
    · exact hline s a
    · rw [hline, hline]
  · rfl

include hbyte

theorem flushFor_keeps (s : State) (d a n : Nat) : f (s.flushFor d a n) = f s := by
  unfold State.flushFor State.flushIf State.dropIf State.writeBackIf
  rw [hdie, hdraw]
  refine List.foldlRecOn (motive := fun t : State => f t = f s) _ _ rfl fun t ht e _ => ?_
  split
  · split
    · exact (hdie _ d _).trans ((hbyte t e.1 _).trans ht)
    · exact ht
  · exact ht

theorem fillOperand_keeps (s : State) (d a n : Nat) : f (s.fillOperand d a n) = f s := by
  unfold State.fillOperand State.fillLoad
  refine List.foldlRecOn (motive := fun t : State => f t = f s) _ _ rfl fun t ht i _ => ?_
  rw [fillFor_keeps hdie hdraw]
  split
  · exact (flushFor_keeps hbyte hdie hdraw t d _ _).trans ht
  · exact ht

end

/-! ### A cache that agrees with its homes -/

theorem mem_of_mem_tdel {α : Type} {t : Tbl α} {n : Nat} {e : Nat × α} (h : e ∈ tdel t n) : e ∈ t := by
  induction t with
  | nil => exact h
  | cons y t ih =>
    obtain ⟨k, x⟩ := y
    rw [tdel] at h
    split at h
    · exact List.mem_cons_of_mem _ (ih h)
    · rcases List.mem_cons.1 h with rfl | h
      · exact List.mem_cons_self
      · exact List.mem_cons_of_mem _ (ih h)

theorem mem_tput {α : Type} {t : Tbl α} {n : Nat} {x : α} {e : Nat × α} (h : e ∈ tput t n x) : e = (n, x) ∨ e ∈ t := by
  induction t with
  | nil => exact .inl (List.mem_singleton.1 h)
  | cons y t ih =>
    obtain ⟨k, z⟩ := y
    rw [tput] at h
    split at h
    · exact List.mem_cons.1 h
    · rcases List.mem_cons.1 h with rfl | h
      · exact .inr List.mem_cons_self
      · exact (ih h).imp_right (List.mem_cons_of_mem _)

/-- An entry of a table after a write is the one written or one from before. -/
theorem mem_tset {α : Type} [DecidableEq α] {d : α} {t : Tbl α} {n : Nat} {x : α} {e : Nat × α} (h : e ∈ tset d t n x) :
    e = (n, x) ∨ e ∈ t := by
  unfold tset at h
  split at h
  · exact .inr (mem_of_mem_tdel h)
  · exact (mem_tput h).imp_right mem_of_mem_tdel

theorem mem_of_tget {α : Type} {d : α} {t : Tbl α} {n : Nat} (h : tget d t n ≠ d) : (n, tget d t n) ∈ t := by
  induction t with
  | nil => exact absurd rfl h
  | cons y t ih =>
    obtain ⟨k, x⟩ := y
    rw [tget] at h ⊢
    split at h
    · next hk => rw [if_pos hk, hk]; exact List.mem_cons_self
    · next hk => rw [if_neg hk]; exact List.mem_cons_of_mem _ (ih h)

/-- Every byte that die d's far cache holds is clean and the one at its home. -/
def State.FarAgrees (s : State) (d : Nat) : Prop :=
  ∀ e ∈ (s.die d).far, ∀ x, e.2 = some x → x.dirty = false ∧ x.val = s.byte e.1

theorem State.FarAgrees.of_empty {s : State} {d : Nat} (h : (s.die d).far = []) : s.FarAgrees d := by
  intro e he
  rw [h] at he
  exact absurd he List.not_mem_nil

/-- Such a cache shows each byte as its home has it. -/
theorem State.FarAgrees.nearByte {s : State} {d : Nat} (h : s.FarAgrees d) (a : Nat) : s.nearByte d a = s.byte a := by
  unfold State.nearByte
  split
  · cases hx : s.farAt d a with
    | none => rfl
    | some x =>
      have hmem : (a, s.farAt d a) ∈ (s.die d).far := mem_of_tget (by rw [← State.farAt, hx]; exact Option.some_ne_none x)
      exact (h _ hmem x hx).2
  · rfl

theorem State.FarAgrees.setFar {s : State} {d : Nat} (h : s.FarAgrees d) (a k : Nat) :
    (s.setFar d a (some ⟨s.byte a, false, k⟩)).FarAgrees d := by
  intro e he x hx
  rw [State.setFar, modDie_die_same] at he
  rcases mem_tset (show e ∈ tset none (s.die d).far a (some ⟨s.byte a, false, k⟩) from he) with rfl | he
  · cases hx
    exact ⟨rfl, rfl⟩
  · exact h e he x hx

theorem State.FarAgrees.dropIf {s : State} {d : Nat} (h : s.FarAgrees d) (f : Nat → Bool) : (s.dropIf d f).FarAgrees d := by
  intro e he x hx
  rw [State.dropIf, modDie_die_same] at he
  exact h e (List.mem_of_mem_filter he) x hx

theorem State.FarAgrees.writeBackIf {s : State} {d : Nat} (h : s.FarAgrees d) (f : Nat → Bool) : s.writeBackIf d f = s.draw := by
  unfold State.writeBackIf
  congr 1
  refine List.foldlRecOn (motive := fun t : State => t = s) _ _ rfl fun t ht e he => ?_
  split
  · next v k hv => exact absurd (h e he _ hv).1.symm Bool.false_ne_true
  · exact ht

/-- From `s` to `t` no byte of memory has changed, and die d's far cache agrees with its homes. -/
def State.ReadsAs (s : State) (d : Nat) (t : State) : Prop := t.FarAgrees d ∧ ∀ a, t.byte a = s.byte a

theorem State.ReadsAs.draw {s t : State} {d : Nat} (h : s.ReadsAs d t) : s.ReadsAs d t.draw := h

theorem State.ReadsAs.fillLine {s t : State} {d : Nat} (h : s.ReadsAs d t) (a : Nat) : s.ReadsAs d (t.fillLine d a) := by
  unfold State.fillLine
  split
  · exact h
  · refine State.ReadsAs.draw (List.foldlRecOn (motive := fun u : State => s.ReadsAs d u) _ _ h fun u hu b _ => ?_)
    split
    · exact hu
    · exact ⟨hu.1.setFar b _, hu.2⟩

theorem State.ReadsAs.fillFor {s t : State} {d : Nat} (h : s.ReadsAs d t) (a n : Nat) : s.ReadsAs d (t.fillFor d a n) := by
  unfold State.fillFor
  split
  · split
    · exact h.fillLine a
    · exact (h.fillLine a).fillLine _
  · exact h

theorem State.ReadsAs.flushFor {s t : State} {d : Nat} (h : s.ReadsAs d t) (a n : Nat) : s.ReadsAs d (t.flushFor d a n) := by
  unfold State.flushFor State.flushIf
  rw [h.1.writeBackIf]
  exact ⟨State.FarAgrees.dropIf (s := t.draw) h.1 _, h.2⟩

theorem State.ReadsAs.fillOperand {s t : State} {d : Nat} (h : s.ReadsAs d t) (a n : Nat) : s.ReadsAs d (t.fillOperand d a n) := by
  unfold State.fillOperand State.fillLoad
  refine List.foldlRecOn (motive := fun u : State => s.ReadsAs d u) _ _ h fun u hu i _ => State.ReadsAs.fillFor ?_ _ _
  split
  · exact hu.flushFor _ _
  · exact hu

/-! ### The fillings for a block and its scale -/

/-- The far cache filled for block j and, where its scale is in the scale array, for that. -/
def State.fillBlock (s : State) (d fmt : Nat) (arr : Bool) (sA sB : W64) (j : Nat) : State :=
  let u := (List.range (blockBytes fmt / 32)).foldl (fun s c => s.fillOperand d (blockAddr sA sB j (32 * c)) 32) s
  if arr then u.fillOperand d (scaleAddr sA sB j) 1 else u

section
variable (s : State) (d fmt : Nat) (arr : Bool) (sA sB : W64) (j : Nat)

theorem fillBlock_keeps {β : Type} {f : State → β} (hbyte : ∀ u a v, f (State.setByte u a v) = f u)
    (hdie : ∀ u d g, f (State.modDie u d g) = f u) (hdraw : ∀ u, f (State.draw u) = f u) :
    f (s.fillBlock d fmt arr sA sB j) = f s := by
  have hfill (u : State) (a n : Nat) : f (u.fillOperand d a n) = f u := fillOperand_keeps hbyte hdie hdraw u d a n
  have hblock : f ((List.range (blockBytes fmt / 32)).foldl (fun s c => s.fillOperand d (blockAddr sA sB j (32 * c)) 32) s) = f s :=
    List.foldlRecOn (motive := fun t : State => f t = f s) _ _ rfl fun t ht c _ => (hfill t _ _).trans ht
  unfold State.fillBlock
  dsimp only
  split
  · exact (hfill _ _ _).trans hblock
  · exact hblock

@[simp] theorem fillBlock_row (n : Nat) : (s.fillBlock d fmt arr sA sB j).row n = s.row n :=
  fillBlock_keeps s d fmt arr sA sB j (f := fun u => u.row n) (fun _ _ _ => rfl) (fun _ _ _ => rfl) (fun _ => rfl)

theorem fillBlock_barred (n a : Nat) : (s.fillBlock d fmt arr sA sB j).barred n a = s.barred n a :=
  fillBlock_keeps s d fmt arr sA sB j (f := fun u => u.barred n a) (fun _ _ _ => rfl) (fun _ _ _ => rfl) (fun _ => rfl)

/-- Where the cache has held nothing, memory and what the die reads of it are as before. -/
theorem fillBlock_readsAs {s : State} {d : Nat} (h : (s.die d).far = []) :
    s.ReadsAs d (s.fillBlock d fmt arr sA sB j) := by
  have hblock : s.ReadsAs d
      ((List.range (blockBytes fmt / 32)).foldl (fun s c => s.fillOperand d (blockAddr sA sB j (32 * c)) 32) s) :=
    List.foldlRecOn (motive := fun t : State => s.ReadsAs d t) _ _ ⟨.of_empty h, fun _ => rfl⟩ fun t ht c _ => ht.fillOperand _ _
  unfold State.fillBlock
  dsimp only
  split
  · exact hblock.fillOperand _ _
  · exact hblock

theorem fillBlock_nearByte {s : State} {d : Nat} (h : (s.die d).far = []) (a : Nat) :
    (s.fillBlock d fmt arr sA sB j).nearByte d a = s.byte a := by
  obtain ⟨hfar, hbyte⟩ := fillBlock_readsAs fmt arr sA sB j h
  rw [hfar.nearByte, hbyte]

end

/-! ### A byte of an operand -/

/-- Of a byte that the row may reach, and that neither a store of its own nor a fire stands over, the array reads what its die reads. -/
theorem operandByte_near {s : State} {n a : Nat} {k : Option Nat} (hb : s.barred n a = false)
    (h : ∀ i ∈ k, (s.row n).buffered i a = none ∧ ∀ y ∈ (s.row n).landed, y.addr ≠ a) :
    s.operandByte n k a = s.nearByte (dieOf n) a := by
  unfold State.operandByte
  rw [hb, if_neg Bool.false_ne_true]
  cases k with
  | none => rfl
  | some i =>
    obtain ⟨hbuf, hland⟩ := h i rfl
    simp only [hbuf, Option.getD_none]
    exact s.ownByte_none n i a hland

/-- R237: a buffered store of the row before the instruction passes its byte on. -/
theorem operandByte_buffered {s : State} {n a i : Nat} {b : W8} (hb : s.barred n a = false)
    (h : (s.row n).buffered i a = some b) : s.operandByte n (some i) a = b := by
  simp only [State.operandByte, hb, h, Bool.false_eq_true, if_false, Option.getD_some]

end Sys2Proof.Machine
end

section
/-! SUPPORT. VECTOR_ENTER (R189, R190): the operands of a vector as it enters, its 128 results, and what the array and the row keep. -/

namespace Sys2Proof.Machine

/-! ### The operands -/

section
variable (s : State) (n : Nat) (id : Option Nat) (f : MmacF) (sA sB sc : W64) (j : Nat)

/-- The activation elements of vector j: of its block in memory, the far cache filled for it, or of its block group of registers. -/
def State.vecElem : Nat → Int :=
  if f.pair then
    blockElem f.fmt.toNat f.sa
      (fun b => (s.fillBlock (dieOf n) f.fmt.toNat (f.ss == 0) sA sB j).operandByte n id (blockAddr sA sB j b))
  else regElem ((s.row n).view s.drawn) f.fmt.toNat f.sa (f.a.toNat + j / ((s.row n).L / 64)) (j % ((s.row n).L / 64))

/-- The scale of vector j: of the scale array, or of the scale word. -/
def State.vecScale : Nat :=
  if f.pair then
    (if f.ss == 0 then
      ((s.fillBlock (dieOf n) f.fmt.toNat (f.ss == 0) sA sB j).operandByte n id (scaleAddr sA sB j)).toNat
    else wordScale sc j)
  else wordScale sc j

/-- The state once vector j's operands have been taken. -/
def State.vecTaken : State :=
  if f.pair then (s.fillBlock (dieOf n) f.fmt.toNat (f.ss == 0) sA sB j).draw else s.draw

theorem vectorOperand_eq : vectorOperand s n id f sA sB sc j =
    (s.vecElem n id f sA sB j, s.vecScale n id f sA sB sc j, s.vecTaken n f sA sB j) := by
  unfold vectorOperand State.vecTaken State.vecScale State.vecElem
  cases f.pair <;> rfl

theorem vecTaken_row (m : Nat) : (s.vecTaken n f sA sB j).row m = s.row m := by
  unfold State.vecTaken
  split
  · exact fillBlock_row ..
  · rfl

end

/-- The addend of a column of vector j (R183): of the four oldest north entries, of the accumulator, or none. -/
def Row.vecAddend (r : Row) (f : MmacF) (j c : Nat) : Option W32 :=
  if f.nk = 1 then (r.north.entries[c / 32]?).map (fun y => tget 0 y.words (c % 32))
  else if f.nk = 2 then some (tget 0 r.ac (128 * ((f.d.toNat + j) % 128) + c)) else none

/-! ### The results -/

theorem vectorResults_fst (t : Latch) (qa : Nat → Int) (ea : Nat) (addend : Nat → Option W32) :
    (vectorResults t qa ea addend).1 = (List.range 128).map
      (fun c => (combined (dotProduct qa (t.weight c)) ea (tget 0 t.scales c).toNat (addend c)).1) := by
  have hfold (l : List Nat) (acc : List W32 × W8) :
      (l.foldl (fun (p : List W32 × W8) c =>
        (p.1 ++ [(combined (dotProduct qa (t.weight c)) ea (tget 0 t.scales c).toNat (addend c)).1],
          p.2 ||| (combined (dotProduct qa (t.weight c)) ea (tget 0 t.scales c).toNat (addend c)).2)) acc).1 =
        acc.1 ++ l.map (fun c => (combined (dotProduct qa (t.weight c)) ea (tget 0 t.scales c).toNat (addend c)).1) := by
    induction l generalizing acc with
    | nil => exact (List.append_nil _).symm
    | cons c l ih => rw [List.foldl_cons, ih, List.map_cons, List.append_assoc]; rfl
  exact hfold (List.range 128) ([], 0)

/-- The vector that enters: where its results go, and to which MMAC it belongs. -/
def State.vecEntering (s : State) (n seq : Nat) (f : MmacF) (sA sB sc : W64) (j src : Nat) : VecFlight :=
  let r := s.row n
  let id := if src = 0 then some seq else none
  let out := vectorResults r.active (s.vecElem n id f sA sB j) (s.vecScale n id f sA sB sc j) (fun col =>
    if f.nk == 1 then ((r.north.entries.take 4)[col / 32]?).map (fun x => tget 0 x.words (col % 32))
    else if f.nk == 2 then some (tget 0 r.ac (128 * ((f.d.toNat + j) % 128) + col)) else none)
  ⟨if f.dk == 0 || f.dk == 3 then some ((f.d.toNat + j) % 128) else none,
   if f.dk == 2 then some (f.d.toNat + j / (r.L / 128), j % (r.L / 128)) else none,
   f.dk == 1 || f.dk == 3, out.1, out.2, j == f.n.toNat, seq, src⟩

section
variable (s : State) (n seq : Nat) (f : MmacF) (sA sB sc : W64) (j src : Nat)

theorem vecEntering_length : (s.vecEntering n seq f sA sB sc j src).vals.length = 128 := by
  simp only [State.vecEntering, vectorResults_fst, List.length_map, List.length_range]

/-- R181 to R183: the result of a column. -/
theorem vecEntering_val {c : Nat} (hc : c < 128) : (s.vecEntering n seq f sA sB sc j src).vals.getD c 0 =
    (combined (dotProduct (s.vecElem n (if src = 0 then some seq else none) f sA sB j) ((s.row n).active.weight c))
      (s.vecScale n (if src = 0 then some seq else none) f sA sB sc j) (tget 0 (s.row n).active.scales c).toNat
      ((s.row n).vecAddend f j c)).1 := by
  have hentry : c / 32 < 4 := by omega
  simp only [State.vecEntering, vectorResults_fst, Row.vecAddend, beq_iff_eq, List.getElem?_take_of_lt hentry,
    List.getD_eq_getElem?_getD, List.getElem?_map, List.getElem?_range hc, Option.map_some, Option.getD_some]

end

/-! ### The pops of north entries -/

theorem dropNorth_row (s : State) (n k m : Nat) : (s.dropNorth n k).row m = (s.popped n k).row m := by
  cases h : (s.row n).nbind with
  | row => rw [dropNorth_of_row_or_closed (.inl h)]
  | closed => rw [dropNorth_of_row_or_closed (.inr h)]
  | link p => rw [dropNorth_of_link h]; rfl
  | cb b =>
    rw [dropNorth_of_cb h]
    split
    · rfl
    · exact writeBack_row ..

theorem acquireNorth_row (s : State) (n m : Nat) : (s.acquireNorth n).row m = s.row m := by
  unfold State.acquireNorth State.acquireAt
  split <;> rfl

/-- What a vector's addends leave of the north port: nothing popped, or four entries, with the acquire (R171). -/
def State.vecPopped (s : State) (n : Nat) (f : MmacF) : State :=
  if f.nk == 1 then (s.dropNorth n 4).acquireNorth n else s

section
variable (s : State) (n : Nat) (f : MmacF)

theorem vecPopped_row_ne {m : Nat} (h : m ≠ n) : (s.vecPopped n f).row m = s.row m := by
  unfold State.vecPopped
  split
  · rw [acquireNorth_row, dropNorth_row, State.popped, modRow_row_ne _ _ h]
  · rfl

/-- A row without its north port. -/
def Row.noNorth (r : Row) : Row := { r with north := .reset, edgeIn := [], unseen := 0 }

theorem vecPopped_row_same : ((s.vecPopped n f).row n).noNorth = (s.row n).noNorth := by
  unfold State.vecPopped
  split
  · rw [acquireNorth_row, dropNorth_row, State.popped, modRow_row_same]
    rfl
  · rfl

theorem vecPopped_entries : ((s.vecPopped n f).row n).north.entries =
    if f.nk = 1 then (s.row n).north.entries.drop 4 else (s.row n).north.entries := by
  unfold State.vecPopped
  by_cases h : f.nk = 1
  · rw [if_pos h, if_pos (beq_iff_eq.2 h), acquireNorth_row, dropNorth_row, State.popped, modRow_row_same]
  · rw [if_neg h, if_neg (fun h' => h (beq_iff_eq.1 h'))]

end

/-! ### The move -/

section
variable {s : State} {n seq : Nat} {w : W64} {f : MmacF} {sA sB sc : W64} {j src : Nat} {rest : List Slot}

theorem exec_vectorEnter (hent : (s.row n).entering = ⟨seq, .mmac w f sA sB sc j src⟩ :: rest)
    (hready : s.vectorReady n = true) (hgrant : (s.row n).vgranted = true) :
    exec (.vectorEnter n) s = .next (((s.vecTaken n f sA sB j).vecPopped n f).modRow n (fun r =>
      { r with
        inflight := r.inflight ++ [s.vecEntering n seq f sA sB sc j src]
        queue := r.queue.takeWhile Slot.spent ++ ⟨seq, .mmac w f sA sB sc (j + 1) src⟩ :: rest
        vgranted := false, arrSince := s.rowClk n })) := by
  show execVectorEnter n s = _
  simp only [execVectorEnter, hent, hready, hgrant, vectorOperand_eq, Bool.not_true, Bool.or_self, Bool.false_eq_true, if_false]
  rfl

end

end Sys2Proof.Machine
end

section
/-! SUPPORT. VECTOR_WRITE (R189, R196): the results of a vector in registers and accumulator, at the south port, or in the output
buffer, and the end of an MMAC. -/

namespace Sys2Proof.Machine

/-! ### The row after a write -/

/-- The results of a vector in place in its row, with their flags. -/
def Row.written (r : Row) (x : VecFlight) (xs : List VecFlight) : Row :=
  { r.putVec x with inflight := xs, csr := { r.csr with mflags := r.csr.mflags ||| x.mflags } }

/-- An array that may have become idle at a clk, which counts as its last sign of life. -/
def Row.restAt (clk : W64) (r : Row) : Row := { r.matRest clk with arrSince := clk }

theorem matRest_keeps {β : Type} {f : Row → β} (h : ∀ r b, f { r with mat := b } = f r) (r : Row) (clk : W64) :
    f (r.matRest clk) = f r := by
  unfold Row.matRest
  split
  · exact h r _
  · rfl

theorem restAt_keeps {β : Type} {f : Row → β} (hmat : ∀ r b, f { r with mat := b } = f r)
    (hsince : ∀ r k, f { r with arrSince := k } = f r) (r : Row) (clk : W64) : f (r.restAt clk) = f r :=
  (hsince _ _).trans (matRest_keeps hmat r clk)

theorem putVec_keeps {β : Type} {f : Row → β} (hac : ∀ r t, f { r with ac := t } = f r) (hv : ∀ r t, f { r with v := t } = f r)
    (r : Row) (x : VecFlight) : f (r.putVec x) = f r := by
  unfold Row.putVec
  cases x.acc with
  | none => cases x.vdst with
    | none => rfl
    | some y => exact hv r _
  | some e => cases x.vdst with
    | none => exact hac r _
    | some y => exact (hv _ _).trans (hac r _)

theorem putVec_ac (r : Row) (x : VecFlight) (k : Nat) :
    tget 0 (r.putVec x).ac k = if x.acc = some (k / 128) then x.vals.getD (k % 128) 0 else tget 0 r.ac k := by
  have hac : (r.putVec x).ac = match x.acc with
      | some e => tsets 0 r.ac ((List.range 128).map (fun c => (128 * e + c, x.vals.getD c 0)))
      | none => r.ac := by
    unfold Row.putVec
    cases x.acc <;> cases x.vdst <;> rfl
  rw [hac]
  cases x.acc with
  | none => rfl
  | some e =>
    by_cases he : e = k / 128
    · have hk : 128 * e + k % 128 = k := by omega
      have hread := tget_tsets_map 0 (fun c => 128 * e + c) (fun c => x.vals.getD c 0) (List.range 128) r.ac (k % 128)
        (List.mem_range.2 (by omega)) (fun a _ b _ h => by omega)
      rw [hk] at hread
      exact hread.trans (if_pos (congrArg some he)).symm
    · rw [if_neg (fun h => he (Option.some.inj h))]
      refine tget_tsets_ne 0 _ _ _ fun y hy => ?_
      obtain ⟨c, hc, rfl⟩ := List.mem_map.1 hy
      have := List.mem_range.1 hc
      dsimp only
      omega

theorem putVec_vreg {r : Row} {x : VecFlight} {y q l : Nat} (h : x.vdst = some (y, q)) (hl : l < 128) :
    (r.putVec x).vreg y (128 * q + l) = x.vals.getD l 0 := by
  have hL : (r.putVec x).L = r.L := putVec_keeps (f := Row.L) (fun _ _ => rfl) (fun _ _ => rfl) r x
  have hv : (r.putVec x).v = tsets 0 r.v ((List.range 128).map (fun c => (r.L * y + 128 * q + c, x.vals.getD c 0))) := by
    unfold Row.putVec
    cases x.acc <;> simp only [h]
  rw [Row.vreg, hL, hv, ← Nat.add_assoc]
  exact tget_tsets_map 0 (fun c => r.L * y + 128 * q + c) (fun c => x.vals.getD c 0) (List.range 128) r.v l
    (List.mem_range.2 hl) (fun a _ b _ h => by omega)

theorem putVec_v {r : Row} {x : VecFlight} (h : x.vdst = none) : (r.putVec x).v = r.v := by
  unfold Row.putVec
  rw [h]
  cases x.acc <;> rfl

/-! ### The end of an MMAC (R189) -/

theorem dropFlag_keeps {β : Type} {f : Row → β} (harm : ∀ r a, f { r with arm := a } = f r)
    (hother : ∀ r o, f { r with other := o } = f r) (r : Row) (id : Nat) (a : ArmId) (k : Nat) : f (r.dropFlag id a k) = f r := by
  unfold Row.dropFlag
  extract_lets q
  have hq : f q = f r := by
    unfold q
    split
    · exact harm r _
    · rfl
  clear_value q
  split
  · split
    · exact (hother q _).trans hq
    · exact hq
  · exact hq

theorem endOp_queue (r : Row) (o : Op) : (r.endOp o).queue = r.queue := by
  unfold Row.endOp
  cases o.flag with
  | none => rfl
  | some k => exact dropFlag_keeps (f := Row.queue) (fun _ _ => rfl) (fun _ _ => rfl) r o.id o.arm k

theorem endOp_findOp (r : Row) (o : Op) : (r.endOp o).findOp o.id = none := by
  unfold Row.endOp Row.findOp
  rw [List.find?_eq_none]
  intro y hy
  have hne := (List.mem_filter.1 hy).2
  simpa using hne

/-- An MMAC of the row leaves the queue, and its operation ends. -/
theorem endMmac_row {s : State} {n seq : Nat} {w : W64} {f : MmacF} {sA sB sc : W64} {j : Nat} {rest : List Slot}
    (hq : (s.row n).queue = ⟨seq, .mmac w f sA sB sc j 0⟩ :: rest) (hrest : ∀ q ∈ rest, q.seq ≠ seq) :
    ((s.endMmac n seq).row n).queue = rest ∧ ((s.endMmac n seq).row n).findOp seq = none := by
  have hfind : (s.row n).queue.find? (fun q => q.seq == seq) = some ⟨seq, .mmac w f sA sB sc j 0⟩ := by
    simp [hq]
  have hleft : (s.row n).queue.filter (fun q => q.seq != seq) = rest := by
    rw [hq, List.filter_cons_of_neg (by simp), List.filter_eq_self]
    exact fun q hq => bne_iff_ne.2 (hrest q hq)
  simp only [State.endMmac, hfind, ne_eq, not_true_eq_false, if_false, modRow_modRow, modRow_row_same, hleft]
  cases hop : (s.row n).findOp seq with
  | none =>
    have hop' : Row.findOp { s.row n with queue := rest } seq = none := hop
    rw [hop']
    exact ⟨rfl, hop'⟩
  | some o =>
    have hop' : Row.findOp { s.row n with queue := rest } seq = some o := hop
    have hid : o.id = seq := by simpa using List.find?_some hop
    rw [hop']
    subst hid
    exact ⟨endOp_queue _ o, endOp_findOp _ o⟩

/-! ### The move -/

section
variable {s : State} {n : Nat} {x : VecFlight} {xs : List VecFlight} (ho : (s.row n).outBuf = []) (hx : (s.row n).inflight = x :: xs)
include ho hx

theorem exec_vectorWrite (hw : s.writeReady n x = true) :
    exec (.vectorWrite n) s = .next (execVectorWrite.writeVector s n x xs) := by
  show execVectorWrite n s = _
  simp only [execVectorWrite, ho, hx, hw, if_true]

/-- Results that stay in the row. -/
theorem vectorWrite_kept (hp : x.push = false) (hl : x.last = false) : exec (.vectorWrite n) s =
    .next (s.modRow n (fun r => (r.written x xs).restAt (s.rowClk n))) := by
  rw [exec_vectorWrite ho hx (by simp [State.writeReady, hp])]
  simp only [execVectorWrite.writeVector, hp, hl, Bool.not_false, if_true, Bool.false_eq_true, if_false, modRow_modRow]
  rfl

/-- The last results of an MMAC that stay in the row. -/
theorem vectorWrite_last (hp : x.push = false) (hl : x.last = true) : exec (.vectorWrite n) s =
    .next (((s.modRow n (fun r => r.written x xs)).endMmac n x.seq).modRow n (Row.restAt (s.rowClk n))) := by
  rw [exec_vectorWrite ho hx (by simp [State.writeReady, hp])]
  simp only [execVectorWrite.writeVector, hp, hl, Bool.not_false, if_true]
  rfl

/-- Results pushed south. -/
theorem vectorWrite_pushed (hp : x.push = true) (hl : x.last = false) (hr : s.pushReady n x = true) : exec (.vectorWrite n) s =
    .next ((((s.modRow n (fun r => r.written x xs)).releaseSouth n).pushSouth n (resultEntries x.vals)).modRow n
      (Row.restAt (s.rowClk n))) := by
  rw [exec_vectorWrite ho hx (by simp [State.writeReady, hr])]
  simp only [execVectorWrite.writeVector, hp, hl, hr, Bool.not_true, if_true, Bool.false_eq_true, if_false]
  rfl

/-- Results that a frozen array cannot push. -/
theorem vectorWrite_buffered (hp : x.push = true) (hr : s.pushReady n x = false) (hf : (s.row n).frozen = true) :
    exec (.vectorWrite n) s = .next (s.modRow n (fun r =>
      ({ r.written x xs with outBuf := (r.written x xs).outBuf ++ outEntries x } : Row).restAt (s.rowClk n))) := by
  rw [exec_vectorWrite ho hx (by simp [State.writeReady, hf, ho])]
  simp only [execVectorWrite.writeVector, hp, hr, Bool.not_true, Bool.false_eq_true, if_false, modRow_modRow]
  rfl

end

/-! ### Pushed entries -/

theorem releaseSouth_row (s : State) (n m : Nat) : (s.releaseSouth n).row m = s.row m := by
  unfold State.releaseSouth State.releaseAt
  split
  · exact writeBack_row ..
  · rfl

/-- Inside a band entries go to the row below. -/
theorem pushSouth_of_row {s : State} {n : Nat} (hg : (s.row n).southGone = false) (hb : (s.row n).sbind = .row) (es : List PEntry) :
    s.pushSouth n es = s.modRow (n + 1) (fun q => { q with north := { q.north with flight := q.north.flight ++ es } }) := by
  simp only [State.pushSouth, hg, hb, Bool.false_eq_true, if_false]

theorem tget_tabulate {α : Type} [DecidableEq α] (d : α) {n l : Nat} (f : Nat → α) (h : l < n) :
    tget d (tabulate d n f) l = f l := by
  have hkeys (p : List (Nat × α)) (hp : ∀ e ∈ p, e.2 = f e.1) (hl : f l ≠ d → (l, f l) ∈ p) (hd : ∀ e ∈ p, e.2 ≠ d) :
      tget d p l = f l := by
    induction p with
    | nil => exact (not_not.1 fun hne => List.not_mem_nil (hl hne)).symm
    | cons e p ih =>
      obtain ⟨k, y⟩ := e
      rw [tget]
      split
      · next hk => rw [hk]; exact hp (k, y) List.mem_cons_self
      · next hk =>
        refine ih (fun e he => hp e (List.mem_cons_of_mem _ he)) (fun hne => ?_) fun e he => hd e (List.mem_cons_of_mem _ he)
        exact (List.mem_cons.1 (hl hne)).resolve_left fun he => hk (Prod.mk.inj he).1
  unfold tabulate
  refine hkeys _ (fun e he => ?_) (fun hne => ?_) fun e he => ?_
  · obtain ⟨k, -, rfl⟩ := List.mem_map.1 (List.mem_filter.1 he).1
    rfl
  · exact List.mem_filter.2 ⟨List.mem_map.2 ⟨l, List.mem_range.2 h, rfl⟩, decide_eq_true hne⟩
  · exact of_decide_eq_true (List.mem_filter.1 he).2

theorem resultEntries_word (vals : List W32) {k l : Nat} (hk : k < 4) (hl : l < 32) :
    tget 0 ((resultEntries vals).getD k ⟨[], 0⟩).words l = vals.getD (32 * k + l) 0 := by
  rw [resultEntries, List.getD_eq_getElem?_getD, List.getElem?_map, List.getElem?_range hk]
  exact tget_tabulate 0 (fun c => vals.getD (32 * k + c) 0) hl

end Sys2Proof.Machine
end

section
/-! SUPPORT. SWAP_POINT and SHADOW_FILL_START (R186, R187), and the fill of the shadow column by column (R174). -/

namespace Sys2Proof.Machine

/-! ### The swap point -/

section
variable {s : State} {n seq : Nat} {rest : List Slot} (he : (s.row n).entering = ⟨seq, .swap⟩ :: rest)
  (hf : (s.row n).frozen = false) (hh : (s.die (dieOf n)).halted = false) (ho : (s.row n).outBuf = [])
include he hf hh ho

/-- The array is banked: it is to be stoked first (R191). -/
theorem swapPoint_banked (hb : (s.row n).mat.banked = true) :
    exec (.swapPoint n) s = .next (s.modRow n (Row.askMat (s.rowClk n))) := by
  show execSwapPoint n s = _
  simp only [execSwapPoint, he, hf, hh, ho, hb, List.isEmpty_nil, Bool.not_true, Bool.or_self, Bool.false_eq_true, if_false, if_true]

theorem swapPoint_stoked (hb : (s.row n).mat.banked = false) :
    exec (.swapPoint n) s = .next (s.setRow n (({ s.row n with
      active := { (s.row n).shadow with st := .full }
      shadow := (s.row n).shadowNext .reset
      queue := (s.row n).queue.takeWhile Slot.spent ++ rest } : Row).matRest (s.rowClk n))) := by
  show execSwapPoint n s = _
  simp only [execSwapPoint, he, hf, hh, ho, hb, List.isEmpty_nil, Bool.not_true, Bool.or_self, Bool.false_eq_true, if_false]

end

theorem shadowNext_reset_st (r : Row) : (r.shadowNext .reset).st = if r.wldWaits then .filling else .empty := by
  unfold Row.shadowNext
  cases r.wldWaits <;> rfl

/-! ### The start of a fill -/

section
variable {s : State} {n id : Nat} {arm : ArmId} {sA sB : W64} {cols fmt col : Nat} {sgn : Bool} {ss : Option W64}

section
variable (hops : (s.row n).ops = [⟨id, arm, none, .wld sA sB cols fmt sgn ss false col⟩])
include hops

theorem wldNext_of_waiting : (s.row n).wldNext = some ⟨id, arm, none, .wld sA sB cols fmt sgn ss false col⟩ := by
  simp [Row.wldNext, hops]

theorem shadowFillStart_banked (hb : (s.row n).mat.banked = true) :
    exec (.shadowFillStart n) s = .next (s.modRow n (Row.askMat (s.rowClk n))) := by
  show execShadowFillStart n s = _
  simp only [execShadowFillStart, wldNext_of_waiting hops, hb, if_true]

theorem wldReady_of_waiting (hb : (s.row n).mat.banked = false) (hpeg : (s.row n).peg = [])
    (hst : (s.row n).shadow.st ≠ .swapQueued) : (s.row n).wldReady = true := by
  have hfill : (s.row n).filling = false := by simp [Row.filling, hops, hpeg]
  simp [Row.wldReady, hfill, hb, hst, wldNext_of_waiting hops]

theorem shadowFillStart_begins (hb : (s.row n).mat.banked = false) (hpeg : (s.row n).peg = [])
    (hst : (s.row n).shadow.st ≠ .swapQueued) :
    exec (.shadowFillStart n) s = .next (s.setRow n { (s.row n).setOp id (.wld sA sB cols fmt sgn ss true 0) with
      shadow := { Latch.reset with st := .filling, w := fmt + 1, sgn := sgn } }) := by
  show execShadowFillStart n s = _
  simp only [execShadowFillStart, wldNext_of_waiting hops, wldReady_of_waiting hops hb hpeg hst, hb, Bool.not_true,
    Bool.false_eq_true, if_false]
  rfl

end

theorem setOp_single {r : Row} {id : Nat} {arm : ArmId} {flag : Option Nat} {k : OpKind}
    (h : r.ops = [⟨id, arm, flag, k⟩]) (m : OpKind) :
    (r.setOp id m).ops = [⟨id, arm, flag, m⟩] := by
  simp [Row.setOp, h]

/-! ### Elements of a block (R139, R140) -/

theorem intOf_mem {w b : Nat} {sgn : Bool} (hw : 0 < w) (hb : b < 2 ^ w) :
    rangeLo w sgn ≤ intOf w sgn b ∧ intOf w sgn b ≤ rangeHi w sgn := by
  obtain ⟨v, rfl⟩ := Nat.exists_eq_succ_of_ne_zero hw.ne'
  have hpow : (2 : Int) ^ (v + 1) = 2 * 2 ^ v := by ring
  have hnat : ((2 ^ v : Nat) : Int) = 2 ^ v := by push_cast; rfl
  have hnat' : 2 ^ (v + 1) = 2 * 2 ^ v := by ring
  simp only [Nat.succ_eq_add_one, hnat'] at hb
  simp only [rangeLo, rangeHi, intOf, Nat.succ_eq_add_one, Nat.add_sub_cancel, hpow]
  generalize (2 : Int) ^ v = p at *
  generalize 2 ^ v = m at *
  cases sgn with
  | false => simp only [Bool.false_and, Bool.false_eq_true, if_false]; omega
  | true =>
    simp only [Bool.true_and, decide_eq_true_eq, if_true]
    split <;> omega

/-- An integer of fewer bits is one of more. -/
theorem range_mono {v w : Nat} (h : v ≤ w) (sgn : Bool) : rangeLo w sgn ≤ rangeLo v sgn ∧ rangeHi v sgn ≤ rangeHi w sgn := by
  have hhalf : (2 : Int) ^ (v - 1) ≤ 2 ^ (w - 1) := pow_le_pow_right₀ (by decide) (Nat.sub_le_sub_right h 1)
  have hfull : (2 : Int) ^ v ≤ 2 ^ w := pow_le_pow_right₀ (by decide) h
  cases sgn <;> simp only [rangeLo, rangeHi, if_true, Bool.false_eq_true, if_false] <;> omega

theorem blockElem_mem {fmt : Nat} (h : fmt < 8) (sgn : Bool) (get : Nat → W8) (i : Nat) :
    rangeLo 8 sgn ≤ blockElem fmt sgn get i ∧ blockElem fmt sgn get i ≤ rangeHi 8 sgn := by
  unfold blockElem
  split
  · exact intOf_mem (by decide) (get i).isLt
  · have hbits := packDigits_lt (w := 1) (n := fmt + 1) (f := fun p => ((get (32 * p + i / 8)).getLsbD (i % 8)).toNat)
      fun p _ => Bool.toNat_lt _
    simp only [packDigits, one_mul] at hbits
    obtain ⟨hlo, hhi⟩ := intOf_mem (sgn := sgn) (Nat.succ_pos fmt) hbits
    obtain ⟨hlo', hhi'⟩ := range_mono (show fmt + 1 ≤ 8 from h) sgn
    exact ⟨hlo'.trans hlo, hhi.trans hhi'⟩

/-! ### A column of a latch (R174) -/

/-- A latch with a column's scale and weights taken. -/
def Latch.loaded (t : Latch) (col : Nat) (sc : W8) (elem : Nat → Int) : Latch :=
  { t with
    scales := tset 0 t.scales col sc
    q := tsets 0 t.q ((List.range 256).map (fun k => (256 * col + k, BitVec.ofInt 8 (elem k)))) }

theorem loaded_q (t : Latch) (col : Nat) (sc : W8) (elem : Nat → Int) : (t.loaded col sc elem).q =
    tsets 0 t.q ((List.range 256).map (fun k => (256 * col + k, BitVec.ofInt 8 (elem k)))) := by
  rw [Latch.loaded]

theorem loaded_sgn (t : Latch) (col : Nat) (sc : W8) (elem : Nat → Int) : (t.loaded col sc elem).sgn = t.sgn := rfl

section
variable (t : Latch) (col : Nat) (sc : W8) {elem : Nat → Int} {k : Nat} (hk : k < 256)
include hk

theorem loaded_weight_same (hlo : rangeLo 8 t.sgn ≤ elem k) (hhi : elem k ≤ rangeHi 8 t.sgn) :
    (t.loaded col sc elem).weight col k = elem k := by
  have hread := tget_tsets_map (0 : W8) (fun k => 256 * col + k) (fun k => BitVec.ofInt 8 (elem k)) (List.range 256) t.q k
    (List.mem_range.2 hk) fun a _ b _ h => by omega
  have hnat : (BitVec.ofInt 8 (elem k)).toNat = bitsOf 8 (elem k) := BitVec.toNat_ofInt ..
  rw [Latch.weight, loaded_q, loaded_sgn, hread, hnat, intOf_bitsOf (by decide) hlo hhi]

theorem loaded_weight_ne {c : Nat} (hc : c ≠ col) : (t.loaded col sc elem).weight c k = t.weight c k := by
  have hread : tget 0 (t.loaded col sc elem).q (256 * c + k) = tget 0 t.q (256 * c + k) := by
    rw [loaded_q]
    refine tget_tsets_ne 0 _ _ _ fun y hy => ?_
    obtain ⟨i, hi, rfl⟩ := List.mem_map.1 hy
    have := List.mem_range.1 hi
    dsimp only
    omega
  rw [Latch.weight, hread, loaded_sgn]
  rfl

end

theorem loaded_scale (t : Latch) (col : Nat) (sc : W8) (elem : Nat → Int) : tget 0 (t.loaded col sc elem).scales col = sc :=
  tget_tset_same ..

/-! ### The steps of a fill (R186) -/

section
variable (hops : (s.row n).ops = [⟨id, arm, none, .wld sA sB cols fmt sgn ss true col⟩])
include hops

theorem exec_operationComplete_wld : exec (.operationComplete n id 0 false) s =
    .next (wldStep s n ⟨id, arm, none, .wld sA sB cols fmt sgn ss true col⟩ false) := by
  have hfind : (s.row n).findOp id = some ⟨id, arm, none, .wld sA sB cols fmt sgn ss true col⟩ := by simp [Row.findOp, hops]
  show execOperationComplete n id 0 false s = _
  simp only [execOperationComplete, hfind, opStep]

/-- No access of the row is before a WLD that is its only operation; nor does an MMAC hold it. -/
theorem wldBusy_of_alone (h : (s.row n).frozen = true ∨ ∀ a m, (s.row n).mmacMeets id a m = false) :
    (s.row n).wldBusy id sA sB fmt ss.isNone col = false := by
  have hearlier : (s.row n).earlier id = [] := by simp [Row.earlier, hops]
  rcases h with h | h <;> simp [Row.wldBusy, hearlier, h]

/-- The scale of a column: of the scale word, or of the scale array. -/
def State.colScale (s : State) (n id : Nat) (sA sB : W64) (ss : Option W64) (col : Nat) : W8 :=
  match ss with
  | some x => BitVec.ofNat 8 (wordScale x col)
  | none => s.operandByte n (some id) (scaleAddr sA sB col)

/-- A column is taken. -/
theorem wldStep_column (hcol : col ≤ cols) (h : (s.row n).frozen = true ∨ ∀ a m, (s.row n).mmacMeets id a m = false) :
    wldStep s n ⟨id, arm, none, .wld sA sB cols fmt sgn ss true col⟩ false =
      (s.fillBlock (dieOf n) fmt ss.isNone sA sB col).draw.modRow n (fun r =>
        { r.setOp id (.wld sA sB cols fmt sgn ss true (col + 1)) with
          shadow := r.shadow.loaded col ((s.fillBlock (dieOf n) fmt ss.isNone sA sB col).colScale n id sA sB ss col)
            (blockElem fmt sgn (fun b => (s.fillBlock (dieOf n) fmt ss.isNone sA sB col).operandByte n (some id)
              (blockAddr sA sB col b))) }) := by
  simp only [wldStep, wldBusy_of_alone hops h, Nat.not_lt.2 hcol, Bool.false_eq_true, if_false, List.foldl_map]
  rfl

/-- After the last column the shadow is full. -/
theorem wldStep_end (hcol : cols < col) :
    ((wldStep s n ⟨id, arm, none, .wld sA sB cols fmt sgn ss true col⟩ false).row n).ops = [] ∧
    ((wldStep s n ⟨id, arm, none, .wld sA sB cols fmt sgn ss true col⟩ false).row n).shadow =
      { (s.row n).shadow with st := .full } := by
  have hdrop : ((s.row n).dropOp id).wldWaits = false := by simp [Row.wldWaits, Row.dropOp, hops]
  simp only [wldStep, hcol, if_true, modRow_row_same]
  refine ⟨?_, ?_⟩
  · rw [matRest_keeps (f := Row.ops) fun _ _ => rfl]
    simp [Row.endOp, hops]
  · rw [matRest_keeps (f := Row.shadow) fun _ _ => rfl]
    simp only [Row.shadowNext, hdrop, Bool.false_eq_true, if_false]

end
end
end Sys2Proof.Machine
end

section
/-! SUPPORT. What stops the array (R192, R196, R336): a seal before its next vector, an error in an operand byte, and the watchdog of a
wait at a port. -/

namespace Sys2Proof.Machine

/-! ### Deferred traps -/

theorem defer_first {s : State} {n : Nat} (h : (s.row n).deferred = []) (c : W8) (x : W64) :
    s.defer n c x = s.modRow n (fun r => { r with deferred := [⟨c, x⟩] }) := by
  simp only [State.defer, h, List.contains_nil, List.length_nil, Nat.zero_lt_succ, Bool.false_eq_true, if_false, if_true,
    List.nil_append, State.modRow]

/-- In its handler a row keeps its deferred traps. -/
theorem takeDue_of_handler {s : State} {n : Nat} (h : (s.row n).handler = true) : s.takeDue n = s := by
  have hdue : (s.row n).dueTrap = none := by
    unfold Row.dueTrap Row.nextDeferred
    rw [if_pos h, ite_self]
  unfold State.takeDue
  rw [hdue]
  cases s.live n <;> rfl

/-- A row that waits where a deferred trap is taken at once takes its only one. -/
theorem takeDue_row {s : State} {n : Nat} {d : Deferred} (hlive : s.live n = true) (hh : (s.row n).handler = false)
    (hd : (s.row n).deferred = [d]) (hw : (s.row n).waitsAtOnce = true) : (s.takeDue n).row n =
      ({ s.row n with deferred := [] } : Row).enterTrap d.cause d.tval (s.row n).arm.pc (s.row n).arm.clause := by
  have hdue : (s.row n).dueTrap = some d := by
    unfold Row.dueTrap Row.nextDeferred
    rw [hw, hh, hd]
    rfl
  have hleft : (s.row n).deferred.erase d = [] := by rw [hd, List.erase_cons_head]
  have hmode : ((s.modRow n (fun r => { r with deferred := [] })).row n).handler = false := by
    rw [modRow_row_same]
    exact hh
  simp only [State.takeDue, hlive, hdue, State.takeDeferred, hleft, State.trapHere, modRow_row_same]
  rw [trap_row_normal _ _ _ _ _ _ hmode, modRow_row_same]
  rfl

/-! ### ARRAY_PORT_STOP -/

theorem stopped_row {s : State} {n : Nat} (hd : (s.row n).deferred = []) (a : ArrStop) (c : W8) (x : W64) :
    ((s.setRow n { s.row n with arrStop := a }).defer n c x).row n = { s.row n with arrStop := a, deferred := [⟨c, x⟩] } := by
  rw [defer_first (by rw [setRow_row_same]; exact hd), modRow_row_same, setRow_row_same]

section
variable {s : State} {n b seq : Nat} {w : W64} {f : MmacF} {sA sB sc : W64} {j src : Nat} {rest : List Slot}
  (he : (s.row n).entering = ⟨seq, .mmac w f sA sB sc j src⟩ :: rest) (hf : (s.row n).frozen = false)
  (hs : (s.row n).arrStop = .run) (ho : (s.row n).outBuf = [])
include he hf hs ho

/-- A seal before the next vector, with the entries that are left. -/
theorem arrayPortStop_seal (hn : f.nk = 1) (hk : (s.row n).north.entries.length < 4) (hseal : (s.row n).sealed = true) :
    exec (.arrayPortStop n none) s =
      .next ((s.setRow n { s.row n with arrStop := .sealMet (s.row n).north.entries.length }).defer n cPortDrained
        (BitVec.ofNat 64 (256 + (s.row n).north.entries.length))) := by
  show execArrayPortStop n none s = _
  simp only [execArrayPortStop, he, hf, hs, ho, hn, hk, hseal, List.isEmpty_nil, Bool.not_true, bne_self_eq_false, Bool.or_self,
    Bool.false_eq_true, if_false, beq_self_eq_true, decide_true, Bool.and_self, if_true]

/-- An uncorrectable error in an operand byte. -/
theorem arrayPortStop_ecc (hp : f.pair = true) (hb : blockMeets sA sB f.fmt.toNat (f.ss == 0) b 1 j = true) :
    exec (.arrayPortStop n (some b)) s =
      .next ((s.setRow n { s.row n with arrStop := .ecc }).defer n cEccUncorr (BitVec.ofNat 64 b)) := by
  show execArrayPortStop n (some b) s = _
  simp only [execArrayPortStop, he, hf, hs, ho, hp, hb, List.isEmpty_nil, Bool.not_true, bne_self_eq_false, Bool.or_self,
    Bool.false_eq_true, if_false, Bool.and_self, if_true]

end

/-! ### The watchdog (R192) -/

theorem lateFor_iff {s : State} {n : Nat} {since : W64} : s.lateFor n since = true ↔
    (s.row n).csr.pwd ≠ 0 ∧ (s.row n).csr.pwd.toNat ≤ (s.rowClk n - since).toNat := by
  simp [State.lateFor]

theorem arrayLate_of_zero {s : State} {n : Nat} (h : (s.row n).csr.pwd = 0) : s.arrayLate n = none := by
  have hlate (k : W64) : s.lateFor n k = false := Bool.eq_false_iff.2 fun hl => (lateFor_iff.1 hl).1 h
  simp [State.arrayLate, hlate]

/-- A row other than the one at reset has a record of its own. -/
theorem mem_rows_of_running {s : State} {n : Nat} (h : (s.row n).life = .running) : ∃ e ∈ s.job.rows, e.1 = n := by
  have hne : tget .reset s.job.rows n ≠ .reset := fun he => by
    have hidle : (s.row n).life = .idle := congrArg Row.life he
    rw [h] at hidle
    cases hidle
  exact ⟨_, mem_of_tget hne, rfl⟩

theorem arrayWatchdog_due {s : State} {n c : Nat} (hlife : (s.row n).life = .running) (h : s.arrayLate n = some c) :
    Move.event (.arrayWatchdog n) ∈ s.dueMoves := by
  obtain ⟨e, he, rfl⟩ := mem_rows_of_running hlife
  have hmoves : Instr.arrayWatchdog e.1 ∈ s.lateMoves e.1 := by simp [State.lateMoves, h]
  unfold State.dueMoves
  exact List.mem_append_right _ (List.mem_map_of_mem (List.mem_append_left _ (List.mem_flatMap.2 ⟨e, he, hmoves⟩)))

section
variable {s : State} {n c : Nat} (hlate : s.arrayLate n = some c) (hd : (s.row n).deferred = [])
include hlate hd

theorem exec_arrayWatchdog : exec (.arrayWatchdog n) s = .next ((s.modRow n (fun r =>
    { r with arrSince := s.rowClk n, deferred := [⟨cPortStarved, BitVec.ofNat 64 c⟩] })).takeDue n) := by
  have hd' : ((s.modRow n (fun r => { r with arrSince := s.rowClk n })).row n).deferred = [] := by
    rw [modRow_row_same]
    exact hd
  show execArrayWatchdog n s = _
  simp only [execArrayWatchdog, hlate]
  rw [defer_first hd', modRow_modRow]

/-- In its handler the row keeps the trap until it leaves (R336). -/
theorem arrayWatchdog_handler (hh : (s.row n).handler = true) : ∃ t, exec (.arrayWatchdog n) s = .next t ∧
    t.row n = { s.row n with arrSince := s.rowClk n, deferred := [⟨cPortStarved, BitVec.ofNat 64 c⟩] } := by
  refine ⟨_, exec_arrayWatchdog hlate hd, ?_⟩
  rw [takeDue_of_handler (by rw [modRow_row_same]; exact hh), modRow_row_same]

/-- A row that waits before an instruction takes the trap at once. -/
theorem arrayWatchdog_taken (hlive : s.live n = true) (hh : (s.row n).handler = false) (hw : (s.row n).waitsAtOnce = true) :
    ∃ t, exec (.arrayWatchdog n) s = .next t ∧
      t.row n = ({ s.row n with arrSince := s.rowClk n, deferred := [] } : Row).enterTrap cPortStarved (BitVec.ofNat 64 c)
        (s.row n).arm.pc (s.row n).arm.clause := by
  refine ⟨_, exec_arrayWatchdog hlate hd, ?_⟩
  rw [takeDue_row (d := ⟨cPortStarved, BitVec.ofNat 64 c⟩) (by simpa [State.live] using hlive) (by rw [modRow_row_same]; exact hh)
    (by rw [modRow_row_same]) (by rw [modRow_row_same]; exact hw), modRow_row_same]

end

end Sys2Proof.Machine
end

section
/-! SUPPORT. The statement on the flow of vectors and latches through the array (R174, R186 to R192, R196). -/

namespace Sys2Proof.Machine

/-! ### VECTOR_ENTER -/

section
variable {s : State} {n seq : Nat} {w : W64} {f : MmacF} {sA sB sc : W64} {j src : Nat} {rest : List Slot}

theorem vectorEnter_row (hent : (s.row n).entering = ⟨seq, .mmac w f sA sB sc j src⟩ :: rest)
    (hready : s.vectorReady n = true) (hgrant : (s.row n).vgranted = true) :
    ∃ t, exec (.vectorEnter n) s = .next t ∧ (∀ m, m ≠ n → t.row m = s.row m) ∧
      (t.row n).inflight = (s.row n).inflight ++ [s.vecEntering n seq f sA sB sc j src] ∧
      (t.row n).queue = (s.row n).queue.takeWhile Slot.spent ++ ⟨seq, .mmac w f sA sB sc (j + 1) src⟩ :: rest ∧
      (t.row n).north.entries = (if f.nk = 1 then (s.row n).north.entries.drop 4 else (s.row n).north.entries) ∧
      (t.row n).ac = (s.row n).ac ∧ (t.row n).v = (s.row n).v := by
  have hkeeps := vecPopped_row_same (s.vecTaken n f sA sB j) n f
  have hentries := vecPopped_entries (s.vecTaken n f sA sB j) n f
  rw [vecTaken_row] at hkeeps hentries
  refine ⟨_, exec_vectorEnter hent hready hgrant, fun m hm => ?_, ?_, ?_, ?_, ?_, ?_⟩
  · rw [modRow_row_ne _ _ hm, vecPopped_row_ne _ _ _ hm, vecTaken_row]
  all_goals rw [modRow_row_same]
  · exact congrArg (· ++ _) (congrArg Row.inflight hkeeps :)
  · exact congrArg (·.takeWhile Slot.spent ++ _) (congrArg Row.queue hkeeps :)
  · exact hentries
  · exact (congrArg Row.ac hkeeps :)
  · exact (congrArg Row.v hkeeps :)

end

theorem vecEntering_acc (s : State) (n seq : Nat) (f : MmacF) (sA sB sc : W64) (j src : Nat) :
    (s.vecEntering n seq f sA sB sc j src).acc = if f.dk = 0 ∨ f.dk = 3 then some ((f.d.toNat + j) % 128) else none := by
  simp only [State.vecEntering, Bool.or_eq_true, beq_iff_eq]

theorem vecEntering_vdst (s : State) (n seq : Nat) (f : MmacF) (sA sB sc : W64) (j src : Nat) :
    (s.vecEntering n seq f sA sB sc j src).vdst =
      if f.dk = 2 then some (f.d.toNat + j / ((s.row n).L / 128), j % ((s.row n).L / 128)) else none := by
  simp only [State.vecEntering, beq_iff_eq]

theorem vecScale_eq (s : State) (n : Nat) (id : Option Nat) (f : MmacF) (sA sB sc : W64) (j : Nat) :
    s.vecScale n id f sA sB sc j = if f.pair = true ∧ f.ss = 0 then
      ((s.fillBlock (dieOf n) f.fmt.toNat (f.ss == 0) sA sB j).operandByte n id (scaleAddr sA sB j)).toNat
    else wordScale sc j := by
  unfold State.vecScale
  cases f.pair with
  | false => simp only [Bool.false_eq_true, false_and, if_false]
  | true => simp only [if_true, true_and, beq_iff_eq]

/-! ### VECTOR_WRITE -/

/-- What the row is once the results of a vector are in it. -/
theorem restAt_written {r : Row} {x : VecFlight} {xs : List VecFlight} (clk : W64) (k l : Nat) :
    let q := (r.written x xs).restAt clk
    q.inflight = xs ∧ q.csr.mflags = r.csr.mflags ||| x.mflags ∧
      tget 0 q.ac k = (if x.acc = some (k / 128) then x.vals.getD (k % 128) 0 else tget 0 r.ac k) ∧
      (∀ y g, x.vdst = some (y, g) → l < 128 → 128 * g + l < r.L → q.vreg y (128 * g + l) = x.vals.getD l 0) ∧
      (x.vdst = none → q.v = r.v) := by
  intro q
  have hkeeps {β : Type} {f : Row → β} (hmat : ∀ r b, f { r with mat := b } = f r)
      (hsince : ∀ r k, f { r with arrSince := k } = f r) :
      f q = f (r.written x xs) := restAt_keeps hmat hsince _ clk
  refine ⟨hkeeps (f := Row.inflight) (fun _ _ => rfl) fun _ _ => rfl,
    hkeeps (f := fun r => r.csr.mflags) (fun _ _ => rfl) fun _ _ => rfl, ?_, fun y g hy hl _ => ?_, fun hy => ?_⟩
  · rw [hkeeps (f := Row.ac) (fun _ _ => rfl) fun _ _ => rfl]
    exact putVec_ac r x k
  · rw [hkeeps (f := fun r => r.vreg y (128 * g + l)) (fun _ _ => rfl) fun _ _ => rfl]
    exact putVec_vreg hy hl
  · rw [hkeeps (f := Row.v) (fun _ _ => rfl) fun _ _ => rfl]
    exact putVec_v hy

section
variable {s : State} {n : Nat} {x : VecFlight} {xs : List VecFlight} (ho : (s.row n).outBuf = []) (hx : (s.row n).inflight = x :: xs)
include ho hx

theorem vectorWrite_pushed_row (hp : x.push = true) (hl : x.last = false) (hr : s.pushReady n x = true)
    (hb : (s.row n).sbind = .row) (hg : (s.row n).southGone = false) : ∃ t, exec (.vectorWrite n) s = .next t ∧
      (t.row n).inflight = xs ∧
      (t.row (n + 1)).north.flight = (s.row (n + 1)).north.flight ++ resultEntries x.vals := by
  have hrow : ((s.modRow n (fun r => r.written x xs)).releaseSouth n).row n = (s.row n).written x xs := by
    rw [releaseSouth_row, modRow_row_same]
  have hkeeps {β : Type} {f : Row → β} (hac : ∀ r t, f { r with ac := t } = f r) (hv : ∀ r t, f { r with v := t } = f r) :
      f ((s.row n).putVec x) = f (s.row n) := putVec_keeps hac hv _ x
  have hgone : ((s.row n).written x xs).southGone = false :=
    (hkeeps (f := Row.southGone) (fun _ _ => rfl) fun _ _ => rfl).trans hg
  have hbind : ((s.row n).written x xs).sbind = .row :=
    (hkeeps (f := Row.sbind) (fun _ _ => rfl) fun _ _ => rfl).trans hb
  have hne : n + 1 ≠ n := Nat.succ_ne_self n
  refine ⟨_, vectorWrite_pushed ho hx hp hl hr, ?_, ?_⟩
  · rw [modRow_row_same, restAt_keeps (f := Row.inflight) (fun _ _ => rfl) fun _ _ => rfl,
      pushSouth_of_row (by rw [hrow]; exact hgone) (by rw [hrow]; exact hbind), modRow_row_ne _ _ hne.symm, hrow]
    rfl
  · rw [modRow_row_ne _ _ hne, pushSouth_of_row (by rw [hrow]; exact hgone) (by rw [hrow]; exact hbind), modRow_row_same,
      releaseSouth_row, modRow_row_ne _ _ hne]

theorem vectorWrite_buffered_row (hp : x.push = true) (hr : s.pushReady n x = false) (hf : (s.row n).frozen = true) :
    ∃ t, exec (.vectorWrite n) s = .next t ∧ (t.row n).inflight = xs ∧ (t.row n).outBuf = outEntries x ∧
      (t.row n).queue = (s.row n).queue ∧ (t.row n).ops = (s.row n).ops ∧ ∀ m, m ≠ n → t.row m = s.row m := by
  have hkeeps {β : Type} {f : Row → β} (hac : ∀ r t, f { r with ac := t } = f r) (hv : ∀ r t, f { r with v := t } = f r) :
      f ((s.row n).putVec x) = f (s.row n) := putVec_keeps hac hv _ x
  have hbuf : ((s.row n).written x xs).outBuf = [] := (hkeeps (f := Row.outBuf) (fun _ _ => rfl) fun _ _ => rfl).trans ho
  refine ⟨_, vectorWrite_buffered ho hx hp hr hf, ?_, ?_, ?_, ?_, fun m hm => modRow_row_ne _ _ hm⟩
  all_goals rw [modRow_row_same]
  · rw [restAt_keeps (f := Row.inflight) (fun _ _ => rfl) fun _ _ => rfl]
    rfl
  · rw [restAt_keeps (f := Row.outBuf) (fun _ _ => rfl) fun _ _ => rfl, hbuf]
    rfl
  · rw [restAt_keeps (f := Row.queue) (fun _ _ => rfl) fun _ _ => rfl]
    exact hkeeps (f := Row.queue) (fun _ _ => rfl) fun _ _ => rfl
  · rw [restAt_keeps (f := Row.ops) (fun _ _ => rfl) fun _ _ => rfl]
    exact hkeeps (f := Row.ops) (fun _ _ => rfl) fun _ _ => rfl

/-- With its last results an MMAC of the row completes (R189). -/
theorem vectorWrite_last_row {w : W64} {f : MmacF} {sA sB sc : W64} {j : Nat} {rest : List Slot} (hp : x.push = false)
    (hl : x.last = true) (hq : (s.row n).queue = ⟨x.seq, .mmac w f sA sB sc j 0⟩ :: rest) (hrest : ∀ q ∈ rest, q.seq ≠ x.seq) :
    ∃ t, exec (.vectorWrite n) s = .next t ∧ (t.row n).queue = rest ∧ (t.row n).findOp x.seq = none := by
  have hqueue : ((s.modRow n (fun r => r.written x xs)).row n).queue = ⟨x.seq, .mmac w f sA sB sc j 0⟩ :: rest := by
    rw [modRow_row_same, ← hq]
    exact putVec_keeps (f := Row.queue) (fun _ _ => rfl) (fun _ _ => rfl) _ x
  obtain ⟨hleft, hop⟩ := endMmac_row hqueue hrest
  refine ⟨_, vectorWrite_last ho hx hp hl, ?_, ?_⟩
  · rw [modRow_row_same, restAt_keeps (f := Row.queue) (fun _ _ => rfl) fun _ _ => rfl, hleft]
  · rw [modRow_row_same, restAt_keeps (f := fun r => r.findOp x.seq) (fun _ _ => rfl) fun _ _ => rfl, hop]

end

/-! ### The latches -/

section
variable {s : State} {n id : Nat} {arm : ArmId} {sA sB : W64} {cols fmt col : Nat} {sgn : Bool} {ss : Option W64} {k : Nat}

theorem swapPoint_row {seq : Nat} {rest : List Slot} (he : (s.row n).entering = ⟨seq, .swap⟩ :: rest) (hf : (s.row n).frozen = false)
    (hh : (s.die (dieOf n)).halted = false) (ho : (s.row n).outBuf = []) (hb : (s.row n).mat.banked = false) :
    ∃ t, exec (.swapPoint n) s = .next t ∧ (t.row n).active = { (s.row n).shadow with st := .full } ∧
      (t.row n).queue = (s.row n).queue.takeWhile Slot.spent ++ rest ∧
      (t.row n).shadow.st = (if (s.row n).wldWaits then .filling else .empty) ∧ (t.row n).ac = (s.row n).ac := by
  refine ⟨_, swapPoint_stoked he hf hh ho hb, ?_, ?_, ?_, ?_⟩
  all_goals rw [setRow_row_same]
  · rw [matRest_keeps (f := Row.active) fun _ _ => rfl]
  · rw [matRest_keeps (f := Row.queue) fun _ _ => rfl]
  · rw [matRest_keeps (f := fun r => r.shadow.st) fun _ _ => rfl]
    exact shadowNext_reset_st _
  · rw [matRest_keeps (f := Row.ac) fun _ _ => rfl]

/-- A column of a fill: its weights and scale are those of its block, and no other column changes. -/
theorem fill_column (hops : (s.row n).ops = [⟨id, arm, none, .wld sA sB cols fmt sgn ss true col⟩]) (hcol : col ≤ cols)
    (hsgn : (s.row n).shadow.sgn = sgn) (hfmt : fmt < 8)
    (hfree : (s.row n).frozen = true ∨ ∀ a m, (s.row n).mmacMeets id a m = false) :
    let u := s.fillBlock (dieOf n) fmt ss.isNone sA sB col
    ∃ t, exec (.operationComplete n id 0 false) s = .next t ∧
      (t.row n).ops = [⟨id, arm, none, .wld sA sB cols fmt sgn ss true (col + 1)⟩] ∧
      (k < 256 → (t.row n).shadow.weight col k =
        blockElem fmt sgn (fun b => u.operandByte n (some id) (blockAddr sA sB col b)) k) ∧
      tget 0 (t.row n).shadow.scales col = u.colScale n id sA sB ss col ∧
      (∀ c, c ≠ col → k < 256 → (t.row n).shadow.weight c k = (s.row n).shadow.weight c k) ∧ ∀ a, t.byte a = u.byte a := by
  intro u
  refine ⟨_, exec_operationComplete_wld hops, ?_⟩
  rw [wldStep_column hops hcol hfree]
  have hrow : (u.draw.row n) = s.row n := fillBlock_row ..
  refine ⟨?_, fun hk => ?_, ?_, fun c hc hk => ?_, fun a => rfl⟩
  all_goals rw [modRow_row_same, hrow]
  · exact setOp_single hops _
  · obtain ⟨hlo, hhi⟩ := blockElem_mem hfmt sgn (fun b => u.operandByte n (some id) (blockAddr sA sB col b)) k
    exact loaded_weight_same _ _ _ hk (by rw [hsgn]; exact hlo) (by rw [hsgn]; exact hhi)
  · exact loaded_scale ..
  · exact loaded_weight_ne _ _ _ hk hc

theorem colScale_word_toNat (u : State) (n id : Nat) (sA sB y : W64) (col : Nat) :
    (u.colScale n id sA sB (some y) col).toNat = wordScale y col := by
  have hlt : wordScale y col < 2 ^ 8 := (y.extractLsb' (8 * (col % 8)) 8).isLt
  exact (BitVec.toNat_ofNat ..).trans (Nat.mod_eq_of_lt hlt)

end

/-- Settles O40: each move by the state that it leaves, an operand's bytes by what the filling for them leaves alone. -/
theorem vectorFlow : Obligations.VectorFlow := by
  unfold Obligations.VectorFlow
  refine ⟨fun s n seq w f sA sB sc j src rest x xs k l a => ?vectors,
    fun s n id seq arm sA sB cols fmt col sgn begun ss rest k => ?latches,
    fun s n b seq w f sA sB sc j src rest => ?stops⟩
  case vectors =>
    intro r v G d u1 u near qa ea e addend
    have hu : u = s.fillBlock d f.fmt.toNat (f.ss == 0) sA sB j := by
      simp only [u, u1, State.fillBlock, beq_iff_eq]
    refine ⟨fun hb => ⟨fun hreach => ?near, fun hsrc b hbuf => ?forwarded, fun hfar => ?home⟩, fun hent hready hgrant => ?enter,
      fun ho hx hl _ => ⟨fun hp => ?kept, fun hp hr hsb hg => vectorWrite_pushed_row ho hx hp hl hr hsb hg,
        fun hp hr hf => vectorWrite_buffered_row ho hx hp hr hf⟩,
      fun ho hx hl hp hsrc hseq hq hrest => ?last, rfl, fun hk hl => resultEntries_word x.vals hk hl⟩
    case near =>
      refine operandByte_near (by rw [hu, fillBlock_barred]; exact hb) fun i hi => ?_
      by_cases hsrc : src = 0
      · rw [if_pos hsrc] at hi
        obtain rfl := Option.mem_some.1 hi
        rw [hu, fillBlock_row]
        exact hreach.resolve_left fun h => h hsrc
      · rw [if_neg hsrc] at hi
        exact absurd hi (Option.not_mem_none i)
    case forwarded =>
      show u.operandByte n (if src = 0 then some seq else none) a = b
      rw [if_pos hsrc]
      exact operandByte_buffered (by rw [hu, fillBlock_barred]; exact hb) (by rw [hu, fillBlock_row]; exact hbuf)
    case home =>
      rw [hu]
      exact fillBlock_nearByte _ _ _ _ _ hfar a
    case enter =>
      obtain ⟨t, ht, hother, hin, hqueue, hnorth, hac, hv⟩ := vectorEnter_row hent hready hgrant
      refine ⟨t, _, ht, hother, hin, vecEntering_length .., fun c hc => ?_, vecEntering_acc .., vecEntering_vdst .., hqueue,
        fun hj => beq_iff_eq.2 hj, rfl, rfl, hnorth, hac, hv⟩
      have hqa : s.vecElem n (if src = 0 then some seq else none) f sA sB j = qa := by
        funext i
        simp only [qa, near, hu, State.vecElem]
        split <;> rfl
      have hea : s.vecScale n (if src = 0 then some seq else none) f sA sB sc j = ea := by
        rw [vecScale_eq]
        simp only [ea, near, hu]
        rfl
      rw [vecEntering_val _ _ _ _ _ _ _ _ _ hc, hqa, hea]
      rfl
    case kept =>
      exact ⟨_, vectorWrite_kept ho hx hp hl, fun m hm => modRow_row_ne _ _ hm, by
        rw [modRow_row_same]
        exact restAt_written (s.rowClk n) k l⟩
    case last =>
      subst hseq
      exact vectorWrite_last_row ho hx hp hl hq hrest
  case latches =>
    intro r d u1 u near runs asks
    have hu : u = s.fillBlock (dieOf n) fmt ss.isNone sA sB col := by
      simp only [u, u1, d, dieOf, State.fillBlock, List.foldl_map, Option.isNone_iff_eq_none]
    refine ⟨fun hent hruns hb => swapPoint_banked hent hruns.1 hruns.2.1 hruns.2.2 hb,
      fun hent hruns hb => swapPoint_row hent hruns.1 hruns.2.1 hruns.2.2 hb, fun hops =>
      ⟨fun hbegun hb => ?_, fun hbegun hb hpeg hst => ?begin, fun hbegun hcol hsgn hfmt hfree => ?column, fun hbegun hcol => ?full⟩⟩
    all_goals subst hbegun
    · exact shadowFillStart_banked hops hb
    case begin =>
      refine ⟨_, shadowFillStart_begins hops hb hpeg hst, ?_⟩
      rw [setRow_row_same]
      exact ⟨rfl, setOp_single hops _, rfl⟩
    case column =>
      obtain ⟨t, ht, hops', hweight, hscale, hothers, hbyte⟩ := fill_column (k := k) hops hcol hsgn hfmt hfree
      refine ⟨t, ht, hops', fun hk => ?_, ?_, hothers, fun a => ⟨?_, fun hfar => ?_⟩⟩
      · rw [hweight hk, ← hu]
      · rw [hscale]
        cases ss with
        | none => exact congrArg (fun z => (z.operandByte n (some id) (scaleAddr sA sB col)).toNat) hu.symm
        | some y => exact colScale_word_toNat ..
      · rw [hbyte, ← hu]
      · rw [hu]
        exact (fillBlock_readsAs _ _ _ _ _ hfar).2 a
    case full =>
      obtain ⟨hops', hshadow⟩ := wldStep_end (s := s) hops hcol
      exact ⟨_, exec_operationComplete_wld hops, hops', hshadow⟩
  case stops =>
    intro r k
    refine ⟨fun hent hf hs ho hd => ⟨fun hn hk hseal => ⟨_, arrayPortStop_seal hent hf hs ho hn hk hseal, stopped_row hd ..⟩,
      fun hp hb => ⟨_, arrayPortStop_ecc hent hf hs ho hp hb, stopped_row hd ..⟩⟩,
      fun hlife hhalt hwaits hpwd hwait harr hd c hstall => ?watchdog, fun hpwd => ?off⟩
    case watchdog =>
      have hlive : s.live n = true := by simp [State.live, dieOf, hhalt, show (s.row n).life = .running from hlife]
      have hwait' : s.lateFor n (s.row n).waitSince = true := lateFor_iff.2 ⟨hpwd, hwait⟩
      have harr' : s.lateFor n (s.row n).arrSince = true := lateFor_iff.2 ⟨hpwd, harr⟩
      have hwaits' : (s.row n).waitsForArray = true := hwaits
      have hlate : s.arrayLate n = some c := by
        simp only [State.arrayLate, hlive, hwait', harr', hwaits', Bool.and_self, if_true]
        exact hstall
      refine ⟨arrayWatchdog_due hlife hlate, ?_⟩
      cases hh : r.handler with
      | true =>
        obtain ⟨t, ht, hrow⟩ := arrayWatchdog_handler hlate hd hh
        refine ⟨t, ht, fun _ => ?_, fun h => Bool.noConfusion h⟩
        rw [hrow]
        exact ⟨rfl, hlife, rfl⟩
      | false =>
        by_cases hw : r.wait = some .behind ∨ r.wait = some .queue
        · have honce : r.waitsAtOnce = true := by rcases hw with hw | hw <;> simp [Row.waitsAtOnce, hw]
          obtain ⟨t, ht, hrow⟩ := arrayWatchdog_taken hlate hd hlive hh honce
          refine ⟨t, ht, fun h => Bool.noConfusion h, fun _ _ => ?_⟩
          rw [hrow]
          exact ⟨rfl, rfl, rfl⟩
        · exact ⟨_, exec_arrayWatchdog hlate hd, fun h => Bool.noConfusion h, fun _ h => absurd h hw⟩
    case off =>
      show execArrayWatchdog n s = _
      simp only [execArrayWatchdog, arrayLate_of_zero hpwd]

end Sys2Proof.Machine
end

section
/-! SUPPORT. A store through the far cache of the row's own die (R227): each byte that the cache takes bears the number of the
values drawn by then, which is what refutes O41. -/

namespace Sys2Proof.Machine

/-! ### Stores that the far cache takes -/

@[simp] theorem setNear_row (s : State) (d a : Nat) (b : W8) (m : Nat) : (s.setNear d a b).row m = s.row m := by
  unfold State.setNear
  split <;> rfl

theorem setNear_farAt_same {s : State} {d a : Nat} (b : W8) (h : s.cacheable d a = true) :
    (s.setNear d a b).farAt d a = some ⟨b, true, s.drawn⟩ := by
  simp [State.setNear, h, State.farAt, State.setFar]

/-- A store at another address leaves a byte of the far cache. -/
theorem setNear_farAt_ne (s : State) (d : Nat) {a k : Nat} (b : W8) (h : k ≠ a) :
    (s.setNear d a b).farAt d k = s.farAt d k := by
  unfold State.setNear
  split
  · simp [State.farAt, State.setFar, tget_tset_ne _ _ _ h]
  · rfl

/-- A row with nothing landed stores each byte through the far cache of its die. -/
theorem setOwn_eq_setNear {s : State} {n : Nat} (k a : Nat) (b : W8) (hl : (s.row n).landed = []) :
    s.setOwn n k true a b = s.setNear (dieOf n) a b := by
  rw [State.setOwn_none _ _ _ _ _ _ (by simp [hl]), if_pos rfl]

/-- Bytes stored above an address leave what the far cache holds there. -/
theorem storeBytes_farAt_below {s : State} {n : Nat} (k : Nat) {a c : Nat} (l : List W8) (hl : (s.row n).landed = [])
    (hc : c < a) : (s.storeBytes n k true a l).farAt (dieOf n) c = s.farAt (dieOf n) c := by
  induction l generalizing s a with
  | nil => rfl
  | cons b l ih =>
    rw [State.storeBytes, setOwn_eq_setNear k a b hl, ih (by rw [setNear_row]; exact hl) (by omega),
      setNear_farAt_ne s _ b (by omega)]

/-- The lowest of the bytes stored bears the number of values drawn before the store. -/
theorem storeBytes_farAt_at {s : State} {n a : Nat} (k : Nat) {l : List W8} (hl : (s.row n).landed = [])
    (hc : s.cacheable (dieOf n) a = true) (hne : l ≠ []) :
    ((s.storeBytes n k true a l).farAt (dieOf n) a).map FarByte.at_ = some s.drawn := by
  cases l with
  | nil => exact absurd rfl hne
  | cons b l =>
    rw [State.storeBytes, setOwn_eq_setNear k a b hl, storeBytes_farAt_below k l (by rw [setNear_row]; exact hl) (by omega),
      setNear_farAt_same b hc]
    rfl

/-- So the value drawn at a word's issue shows in the die that its store leaves. -/
theorem storeBytes_draw_die_ne {s : State} {n a : Nat} (k : Nat) {l : List W8} (hl : (s.row n).landed = [])
    (hc : s.cacheable (dieOf n) a = true) (hne : l ≠ []) :
    (s.draw.storeBytes n k true a l).die (dieOf n) ≠ (s.storeBytes n k true a l).die (dieOf n) := by
  intro h
  have hat := congrArg (fun y : Die => (tget none y.far a).map FarByte.at_) h
  have hdrawn : some (s.drawn + 1) = some s.drawn :=
    (storeBytes_farAt_at (s := s.draw) k hl hc hne).symm.trans (hat.trans (storeBytes_farAt_at k hl hc hne))
  simp at hdrawn

/-! ### An image drained to another die's side memory -/

/-- MDRAIN of a row with nothing outstanding and an idle array that is not banked stores the whole image at once. -/
theorem mdrain_comesTo {s : State} {g : Guard} {a : SReg} (h : s.ready g) (ho : (s.row s.cur).outside)
    (hset : (s.row s.cur).settled = true) (hqueue : (s.row s.cur).queue = []) (hout : (s.row s.cur).outBuf = [])
    (hops : (s.row s.cur).ops = []) (hb : (s.row s.cur).mat.banked = false)
    (hal : (s.row s.cur).sreg a.toNat &&& 63 = 0)
    (hrange : rangeFault s s.cur ((s.row s.cur).sreg a.toNat) imageSize = none) :
    ∃ f, ComesTo (.mdrain g a) s
      (.done ((s.draw.drainBytes s.cur ((s.row s.cur).sreg a.toNat).toNat imageSize).modRow s.cur f)) := by
  have hfill : (s.row s.cur).fillDue = false := by
    simp only [Row.settled, Bool.and_eq_true, Bool.not_eq_true'] at hset
    exact hset.2
  have hrange' : rangeFault s.draw s.cur ((s.row s.cur).sreg a.toNat) imageSize = none := hrange
  have hmeets (x : Nat) : (s.row s.cur).operandMeets x imageSize = false := by
    simp [Row.operandMeets, Row.mmacMeets, hqueue, hops]
  have he : exec (.mdrain g a) s = imageInstr g a true (fun s n x => .done (s.drainBytes n x imageSize)) s := rfl
  unfold imageInstr at he
  have hcome := comesTo_issueQ he h ⟨rfl, rfl, ho.nest, rfl, by simp [freezeHold, hset], rfl⟩ rfl
  rw [draw_row] at hcome
  simp only [hal, hrange', hfill, hmeets, hqueue, hout, hops, hb, bne_self_eq_false, Bool.false_eq_true, if_false, List.isEmpty_nil,
    List.any_nil, Bool.not_false, Bool.not_true, Bool.and_true, Bool.and_false] at hcome
  exact ⟨_, hcome⟩

/-- An address in the stack of die 1, seen from die 0. -/
def farBase : Nat := sideBase + 2 ^ 32

/-- Row 0 of die 0, idle, with the address in s1. -/
def farImage : State :=
  { State.reset with
    job := { State.reset.job with rows := [(0, { Row.reset with s := [(1, BitVec.ofNat 64 farBase)] })] } }

theorem farImage_ready : farImage.ready always := ⟨⟨rfl, rfl, rfl⟩, rfl⟩

theorem farImage_range : rangeFault farImage farImage.cur ((farImage.row farImage.cur).sreg 1) imageSize = none := by
  decide +kernel

theorem farImage_cacheable :
    farImage.cacheable (dieOf farImage.cur) ((farImage.row farImage.cur).sreg 1).toNat = true := by
  decide +kernel

/-- Refutes O41: by its clause on an aligned address MDRAIN leaves the state that stores the image without a value drawn. In
`farImage` the image goes through die 0's far cache to die 1's stack; each byte bears the number of the draw, and the word's
issue has drawn one before, so that die 0 differs. -/
theorem not_accumulatorAccess : ¬ Obligations.AccumulatorAccess := by
  unfold Obligations.AccumulatorAccess
  rintro ⟨-, -, himage⟩
  obtain ⟨-, -, haligned, -⟩ := himage farImage always 1 0 Row.reset 0 farImage_ready (.inl rfl) rfl rfl rfl
  obtain ⟨hdone, -⟩ := haligned (by decide +kernel) farImage_range
  obtain ⟨f, hcome⟩ := mdrain_comesTo (a := 1) farImage_ready (.inl rfl) rfl rfl rfl rfl rfl (by decide +kernel) farImage_range
  have hdie := hcome.die_of_completes hdone (dieOf farImage.cur)
  rw [modRow_die, State.now, modRow_die, State.drainBytes, draw_row] at hdie
  exact storeBytes_draw_die_ne _ rfl farImage_cacheable (by simp [imageSize]) hdie

end Sys2Proof.Machine
end

section
/-! SUPPORT. The peg table (R207, R216, R217): what a read of an entry returns after each operation on the table, and the outcome of
PEG, UNPEG, PEGW, PEGQ and RPOS. -/

namespace Sys2Proof.Machine

/-! ### Entries of the table -/

theorem setPeg_pegAt (r : Row) (i k : Nat) (e : Peg) : (r.setPeg i e).pegAt k = if k = i then e else r.pegAt k :=
  tget_tset Peg.free r.peg i k e

@[simp] theorem setPeg_pegAt_same (r : Row) (i : Nat) (e : Peg) : (r.setPeg i e).pegAt i = e := tget_tset_same Peg.free r.peg i e

theorem endOp_keeps {β : Type} {f : Row → β} (harm : ∀ r a, f { r with arm := a } = f r)
    (hother : ∀ r o, f { r with other := o } = f r) (hops : ∀ r l, f { r with ops := l } = f r) (r : Row) (o : Op) :
    f (r.endOp o) = f r := by
  unfold Row.endOp
  cases o.flag with
  | none => exact hops r _
  | some k => exact (hops _ _).trans (dropFlag_keeps harm hother r o.id o.arm k)

theorem pegFlag_keeps {β : Type} {f : Row → β} (harm : ∀ r a, f { r with arm := a } = f r)
    (hother : ∀ r o, f { r with other := o } = f r) (r : Row) (e : Peg) : f (r.pegFlag e) = f r := by
  unfold Row.pegFlag
  cases e.flag with
  | none => rfl
  | some k => exact dropFlag_keeps harm hother r _ _ k

theorem endOp_peg (r : Row) (o : Op) : (r.endOp o).peg = r.peg :=
  endOp_keeps (f := Row.peg) (fun _ _ => rfl) (fun _ _ => rfl) (fun _ _ => rfl) r o

theorem pegFlag_peg (r : Row) (e : Peg) : (r.pegFlag e).peg = r.peg :=
  pegFlag_keeps (f := Row.peg) (fun _ _ => rfl) (fun _ _ => rfl) r e

theorem foldl_endOp_peg (l : List Op) (r : Row) : (l.foldl Row.endOp r).peg = r.peg := by
  induction l generalizing r with
  | nil => rfl
  | cons o l ih => rw [List.foldl_cons, ih, endOp_peg]

/-- R217: the freed entry keeps its other fields, and every other entry stands. -/
theorem freePeg_pegAt (r : Row) (i k : Nat) :
    (r.freePeg i).pegAt k = if k = i then { r.pegAt i with st := .free, unc := 0 } else r.pegAt k := by
  have hpeg : (r.freePeg i).peg = (r.setPeg i { r.pegAt i with st := .free, unc := 0 }).peg := by
    unfold Row.freePeg
    rw [foldl_endOp_peg]
    split
    · exact pegFlag_peg _ _
    · rfl
  rw [← setPeg_pegAt, Row.pegAt, hpeg]
  rfl

theorem foldl_freePeg_pegAt (l : List Nat) (r : Row) (k : Nat) :
    (l.foldl Row.freePeg r).pegAt k = if k ∈ l then { r.pegAt k with st := .free, unc := 0 } else r.pegAt k := by
  induction l generalizing r with
  | nil => rfl
  | cons i l ih =>
    rw [List.foldl_cons, ih, freePeg_pegAt]
    by_cases hk : k = i
    · subst hk
      simp
    · simp [hk]

/-! ### PEG (R212 to R216) -/

/-- The entry that PEG arms. -/
def Row.pegEntry (r : Row) (a b c : SReg) (flag : BitVec 4) (act : Bool) : Peg :=
  let x := r.sreg a.toNat
  let y := r.sreg c.toNat
  { tag := x.setWidth 32, mask := x.extractLsb' 32 32, target := if act then r.sreg b.toNat else 0, minver := y.setWidth 32
    count := (y.extractLsb' 32 8).toNat, st := .armed, side := act, flag := if flag.toNat < 12 then some flag.toNat else none
    unc := 0, arm := r.armId, lastver := 0, fires := [] }

/-- The row with that entry armed, and the flag set that it selects. -/
def Row.armPeg (r : Row) (i : Nat) (e : Peg) : Row :=
  let q := (r.bare i).setPeg i e
  match e.flag with
  | some k => { q with arm := r.arm.setFlag k }
  | none => q

/-- A target does not lie in side memory of the die of row n (R216). -/
def pegsAway (n : Nat) (t : W64) : Bool := !t.getLsbD 55 || (t.extractLsb' 32 2).toNat != dieOf n

theorem pegsAway_iff {n : Nat} {t : W64} :
    pegsAway n t = true ↔ ¬ (t.getLsbD 55 = true ∧ (t.extractLsb' 32 2).toNat = n / 128) := by
  simp only [pegsAway, dieOf, Bool.or_eq_true, Bool.not_eq_true', bne_iff_ne, not_and_or, Bool.not_eq_true, Ne]

theorem pegsAway_eq_false {n : Nat} {t : W64} (h : t.getLsbD 55 = true ∧ (t.extractLsb' 32 2).toNat = n / 128) :
    pegsAway n t = false := Bool.eq_false_iff.2 fun ht => pegsAway_iff.1 ht h

theorem target_misaligned_iff {t : W64} : (t &&& 63 != 0) = true ↔ t.toNat % 64 ≠ 0 := by
  have hmask : (t &&& 63).toNat = t.toNat % 64 := by
    rw [BitVec.toNat_and]
    exact Nat.and_two_pow_sub_one_eq_mod t.toNat 6
  rw [bne_iff_ne, Ne, ← BitVec.toNat_inj, hmask]
  rfl

/-- The entries that a mask of UNPEG names. -/
def pegsNamed (mask : BitVec 16) : List Nat := (List.range 16).filter (fun i => mask.getLsbD i)

theorem mem_pegsNamed {mask : BitVec 16} {k : Nat} : k ∈ pegsNamed mask ↔ k < 16 ∧ mask.getLsbD k = true := by
  simp [pegsNamed]

section
variable {s : State} {g : Guard} (h : s.ready g) (ho : (s.row s.cur).outside)
include h ho

/-- A word of the peg table reaches its body where R345 refuses nothing and its interlock does not hold it. -/
theorem comesTo_pegWord {i : Instr} {held : Row → Bool} {body : State → Nat → Row → Res}
    (he : exec i s = issueQ { nest := true, hold := held } g body s) (hh : held (s.row s.cur) = false) :
    ComesTo i s (body s.draw s.cur (s.row s.cur)) :=
  comesTo_issueQ he h ⟨rfl, rfl, ho.nest, rfl, hh, rfl⟩ rfl

section
variable {a b c : SReg} {flag i : BitVec 4} {act : Bool}

theorem peg_full (hst : ((s.row s.cur).pegAt i.toNat).st = .armed) :
    Raises (.peg g a b c flag act i) s cPegFull (i.setWidth 64) := by
  have he : exec (.peg g a b c flag act i) s = execPeg g a b c flag act i s := rfl
  have hcome := comesTo_pegWord h ho he rfl
  simp only [draw_row, hst, beq_self_eq_true, if_true, BitVec.ofNat_toNat] at hcome
  exact hcome.raises

section
variable (hst : ((s.row s.cur).pegAt i.toNat).st ≠ .armed)
include hst

/-- What PEG comes to where the entry is not armed (R215, R216). -/
theorem peg_comesTo : ComesTo (.peg g a b c flag act i) s
    (let t := (s.row s.cur).sreg b.toNat
     if act && pegsAway s.cur t then .trap cBounds t s.draw
     else if act && t &&& 63 != 0 then .trap cMisalign t s.draw
     else (if act then pegRange s s.cur t else none).elim
       (.done (s.draw.modRow s.cur (fun r => r.armPeg i.toNat ((s.row s.cur).pegEntry a b c flag act))))
       (fun e => .trap e.1 e.2 s.draw)) := by
  have he : exec (.peg g a b c flag act i) s = execPeg g a b c flag act i s := rfl
  have hcome := comesTo_pegWord h ho he rfl
  have hbeq : (((s.row s.cur).pegAt i.toNat).st == .armed) = false := beq_false_of_ne hst
  have hrange : pegRange s.draw s.cur ((s.row s.cur).sreg b.toNat) = pegRange s s.cur ((s.row s.cur).sreg b.toNat) := rfl
  simp only [draw_row, hbeq, Bool.false_eq_true, if_false, hrange] at hcome
  dsimp only
  generalize (if act = true then pegRange s s.cur ((s.row s.cur).sreg b.toNat) else none) = q at hcome ⊢
  cases q <;> exact hcome

/-- The entry is armed where the target may be used. -/
theorem peg_arms {t : W64} (hb : (s.row s.cur).sreg b.toNat = t)
    (ht : act = false ∨ ((t.getLsbD 55 = true ∧ (t.extractLsb' 32 2).toNat = s.cur / 128) ∧ t.toNat % 64 = 0 ∧
      pegRange s s.cur t = none)) : Completes (.peg g a b c flag act i) s
      (s.now (fun r => r.armPeg i.toNat ((s.row s.cur).pegEntry a b c flag act))) := by
  have hcome := peg_comesTo (a := a) (b := b) (c := c) (flag := flag) (act := act) h ho hst
  subst hb
  rcases ht with rfl | ⟨hhere, halign, hfree⟩
  · exact hcome.completes_now
  · have halign' := Bool.eq_false_iff.2 (mt target_misaligned_iff.1 (not_not_intro halign))
    simp only [pegsAway_eq_false hhere, halign', hfree, Bool.and_false, Bool.false_eq_true, if_false, ite_self] at hcome
    exact hcome.completes_now

theorem peg_elsewhere {t : W64} (hb : (s.row s.cur).sreg b.toNat = t)
    (ht : ¬ (t.getLsbD 55 = true ∧ (t.extractLsb' 32 2).toNat = s.cur / 128)) :
    Raises (.peg g a b c flag true i) s cBounds t := by
  have hcome := peg_comesTo (a := a) (b := b) (c := c) (flag := flag) (act := true) h ho hst
  subst hb
  simp only [pegsAway_iff.2 ht, Bool.and_self, if_true] at hcome
  exact hcome.raises

theorem peg_misaligned {t : W64} (hb : (s.row s.cur).sreg b.toNat = t)
    (hhere : t.getLsbD 55 = true ∧ (t.extractLsb' 32 2).toNat = s.cur / 128) (ht : t.toNat % 64 ≠ 0) :
    Raises (.peg g a b c flag true i) s cMisalign t := by
  have hcome := peg_comesTo (a := a) (b := b) (c := c) (flag := flag) (act := true) h ho hst
  subst hb
  simp only [pegsAway_eq_false hhere, target_misaligned_iff.2 ht, Bool.and_false, Bool.and_self, Bool.false_eq_true, if_false,
    if_true] at hcome
  exact hcome.raises

end

end

/-! ### UNPEG, PEGW, PEGQ and RPOS (R217 to R220) -/

section
variable {mask : BitVec 16}

theorem unpeg_comesTo : ComesTo (.unpeg g mask) s
    (if (pegsNamed mask).any (fun k => !((s.row s.cur).pegAt k).fires.isEmpty) then .wait (.pegs mask) s.draw
     else .done (s.draw.modRow s.cur (fun r => (pegsNamed mask).foldl Row.freePeg r))) := by
  have he : exec (.unpeg g mask) s = execUnpeg g mask s := rfl
  exact comesTo_pegWord h ho he rfl

theorem unpeg_frees (hf : ∀ k < 16, mask.getLsbD k = true → ((s.row s.cur).pegAt k).fires = []) :
    Completes (.unpeg g mask) s (s.now (fun r => (pegsNamed mask).foldl Row.freePeg r)) := by
  have hcome := unpeg_comesTo (mask := mask) h ho
  have hnone : (pegsNamed mask).any (fun k => !((s.row s.cur).pegAt k).fires.isEmpty) = false :=
    List.any_eq_false.2 fun k hk => by simp [hf k (mem_pegsNamed.1 hk).1 (mem_pegsNamed.1 hk).2]
  simp only [hnone, Bool.false_eq_true, if_false] at hcome
  exact hcome.completes_now

theorem unpeg_waits (hf : ∃ k < 16, mask.getLsbD k = true ∧ ((s.row s.cur).pegAt k).fires ≠ []) :
    Waits (.unpeg g mask) s (.pegs mask) := by
  obtain ⟨k, hk, hmask, hne⟩ := hf
  have hcome := unpeg_comesTo (mask := mask) h ho
  have hsome : (pegsNamed mask).any (fun k => !((s.row s.cur).pegAt k).fires.isEmpty) = true :=
    List.any_eq_true.2 ⟨k, mem_pegsNamed.2 ⟨hk, hmask⟩, by simpa using hne⟩
  simp only [hsome, if_true] at hcome
  exact hcome.waits

end

theorem pegw_completes (a : SReg) (i : BitVec 4) (fs : Bool) : Completes (.pegw g a i fs) s
    (s.now (fun r => r.addOp ((s.row s.cur).flagSel fs) (.pegw i.toNat ((s.row s.cur).sreg a.toNat) (s.clkOf s.cur)))) := by
  have he : exec (.pegw g a i fs) s = execPegw g a i fs s := rfl
  have hcome := comesTo_pegWord h ho he rfl
  have hroom : ¬ 16 ≤ (s.row s.cur).waitOps := by simp [Row.waitOps, h.1.1]
  simp only [draw_row, hroom, if_false] at hcome
  exact hcome.completes_now

theorem pegq_completes (d : SReg) (tag : Bool) (i : BitVec 4) : Completes (.pegq g d tag i) s
    (s.now (fun r => r.setS d.toNat (pegqVal (r.pegAt i.toNat) tag))) := by
  have he : exec (.pegq g d tag i) s = execPegq g d tag i s := rfl
  exact (comesTo_pegWord h ho he (h.1.pendS d.toNat)).completes_now

theorem rpos_completes (d : SReg) (f : Form3) : Completes (.rpos g d f) s
    (s.now (fun r => r.setS d.toNat (rposVal s s.cur f))) := by
  have he : exec (.rpos g d f) s = execRpos g d f s := rfl
  exact (comesTo_pegWord h ho he (h.1.pendS d.toNat)).completes_now

end

/-- Settles O43: each word of the peg table by what its body comes to, the entries that UNPEG leaves by induction on those it
names. -/
theorem pegInstructions : Obligations.PegInstructions := by
  unfold Obligations.PegInstructions
  intro s g a b c d flag i act tag fs mask f h ho
  extract_lets r x t y fl e peg local_
  refine ⟨peg_full h ho, fun hst => ⟨peg_arms h ho hst rfl, ?_, ?_⟩, fun hf => ⟨unpeg_frees h ho hf, fun k hk => ?_⟩,
    unpeg_waits h ho, pegw_completes h ho a i fs, pegq_completes h ho d tag i, rpos_completes h ho d f⟩
  · rintro rfl
    exact peg_elsewhere h ho hst rfl
  · rintro rfl
    exact peg_misaligned h ho hst rfl
  · show (((pegsNamed mask).foldl Row.freePeg r).pegAt k).st = _ ∧ (((pegsNamed mask).foldl Row.freePeg r).pegAt k).tag = _
    rw [foldl_freePeg_pegAt]
    by_cases hm : mask.getLsbD k = true
    · simp [mem_pegsNamed, hk, hm]
    · simp [mem_pegsNamed, hm]

end Sys2Proof.Machine
end

section
/-! SUPPORT. The feeders of the ring (R200 to R205, R214): what a revolution's start and each entry of the table put on it, and the
header that a tile bears there. -/

namespace Sys2Proof.Machine

/-! ### The ring changed -/

theorem modJob_congr {s : State} {f f' : Job → Job} (h : f s.job = f' s.job) : s.modJob f = s.modJob f' := by
  simp only [State.modJob, h]

theorem modRing_congr {s : State} {f f' : Ring → Ring} (h : f s.job.ring = f' s.job.ring) : s.modRing f = s.modRing f' :=
  modJob_congr (by rw [h])

/-! ### REVOLUTION_START (R204) -/

/-- The next revolution under the table in use. -/
theorem revolutionStart_again {s : State} (htable : s.job.ring.table ≠ []) (hnext : s.job.ring.next = none)
    (hfed : s.job.ring.running = false ∨ s.job.ring.table.length ≤ s.job.ring.pos) :
    exec .revolutionStart s = .next (s.modRing (fun g => { g with
      running := true, rev := g.rev + 1, pos := 0, seg := 0, cell := 1
      items := g.items ++ (if g.running = true ∧ g.cell % 256 ≠ 0 then [.idle g.seg] else []) ++ [.marker (g.rev + 1)] })) := by
  have hstands : ((s.job.ring.table.isEmpty && s.job.ring.next.isNone) || (s.job.ring.running && !s.job.ring.fed)) = false := by
    rcases hfed with hrun | hpos
    · simp [htable, hrun]
    · simp [htable, Ring.fed, hpos]
  show execRevolutionStart s = _
  simp only [execRevolutionStart, hstands, Bool.false_eq_true, if_false]
  exact congrArg _ (modRing_congr (by simp [hnext]))

/-! ### What a feeder has read (R214) -/

theorem reads_getD {g : Ring} {s : State} {pa n i : Nat} (h : i < n) :
    (g.reads s pa n).getD i 0 = s.byte (pa + i) ∨ g.got ≠ [] ∧ (g.reads s pa n).getD i 0 = g.got.getD i 0 := by
  unfold Ring.reads
  cases hgot : g.got with
  | nil => exact .inl (by simp [State.bytes, h])
  | cons b l =>
    cases hbit : Config.freeBit s.drawn i with
    | true => exact .inl (by simp [h, hbit])
    | false => exact .inr ⟨by simp, by simp [h, hbit]⟩

/-! ### The header of a tile on the ring (Table 09-1) -/

theorem ofNat_leVal_leList (x : Nat) : BitVec.ofNat 32 (leVal (leList 4 x)) = BitVec.ofNat 32 x := by
  rw [leVal_leList]
  exact BitVec.eq_of_toNat_eq (by simp)

section
variable (g : Ring) (t : List W8)

/-- The bytes after the first cell are the image's. -/
theorem onWire_drop : (g.onWire t).drop 64 = t.drop 64 := rfl

theorem onWire_tag : tileNum (g.onWire t) 0 = tileNum t 0 := (ofNat_leVal_leList _).trans (BitVec.ofNat_toNat _ _)
theorem onWire_version : tileNum (g.onWire t) 4 = tileNum t 4 := (ofNat_leVal_leList _).trans (BitVec.ofNat_toNat _ _)
theorem onWire_kind : tileAt (g.onWire t) 8 = tileAt t 8 := BitVec.ofNat_toNat _ _
theorem onWire_width : tileW (g.onWire t) = tileW t := congrArg BitVec.toNat (BitVec.ofNat_toNat 8 (tileAt t 9))
theorem onWire_sgn : tileAt (g.onWire t) 10 = tileAt t 10 := BitVec.ofNat_toNat _ _
theorem onWire_segment : tileAt (g.onWire t) 11 = BitVec.ofNat 8 g.seg := rfl
theorem onWire_rev : tileNum (g.onWire t) 12 = g.rev := (ofNat_leVal_leList _).trans (BitVec.ofNat_toNat _ _)
theorem onWire_position : tileNum (g.onWire t) 16 = BitVec.ofNat 32 g.cell := ofNat_leVal_leList _

end

/-! ### FEEDER_INSERT (R200, R201, R205) -/

/-- `u` is `v` once a feeder has stalled: idle cells stand in its place, or none. -/
def State.Stalls (v u : State) : Prop :=
  ∃ k, u = if k = 0 then v.draw else v.draw.modRing (fun g => { g with cell := g.cell + k, items := g.items ++ [.idle g.seg] })

theorem feedIdle_stalls (v : State) : v.Stalls v.feedIdle := ⟨Config.freeNat v.drawn 1, rfl⟩

section
variable {s : State} (hrun : s.job.ring.running = true)
include hrun

theorem feederInsert_gap {c : Nat} (he : s.job.ring.table[s.job.ring.pos]? = some (.gap c)) :
    exec (.feederInsert false) s = .next (s.modRing (fun g => { g with
      pos := g.pos + 1, cell := g.cell + c, got := [], items := g.items ++ [.gap g.rev g.seg g.cell c] })) := by
  show execFeederInsert false s = _
  simp only [execFeederInsert, hrun, he, Bool.not_true, Bool.false_eq_true, if_false]
  rfl

theorem feederInsert_segment {k : Nat} (he : s.job.ring.table[s.job.ring.pos]? = some (.segment k)) :
    exec (.feederInsert false) s = .next (s.modRing (fun g => { g with pos := g.pos + 1, got := [], seg := k })) := by
  show execFeederInsert false s = _
  simp only [execFeederInsert, hrun, he, Bool.not_true, Bool.false_eq_true, if_false, Ring.step, Nat.add_zero, List.append_nil]

section
variable {pa w : Nat} (he : s.job.ring.table[s.job.ring.pos]? = some (.tile pa w))
include he

/-- A commit whose point has come puts the first read of a tile off (R282). -/
theorem feederInsert_put_off (hgot : s.job.ring.got = []) (hst : s.stalled pa = true) :
    exec (.feederInsert false) s = .next s.feedIdle := by
  show execFeederInsert false s = _
  simp only [execFeederInsert, hrun, he, hgot, hst, Bool.not_true, Bool.false_eq_true, if_false, List.isEmpty_nil, Bool.and_self,
    if_true]

/-- A tile is read on, or goes on the ring with its header filled. -/
theorem feederInsert_tile (hst : s.job.ring.got = [] → s.stalled pa = false) {z : List W8}
    (hz : s.job.ring.reads s pa (64 * tileCells w) = z) (hkind : tileAt z 8 = 0) (hw : tileW z = w) :
    exec (.feederInsert false) s =
      .next (if Config.freeBit s.drawn (64 * tileCells w) then (s.draw.modRing (fun g => { g with got := z })).feedIdle
        else s.draw.modRing (fun g => { g with
          pos := g.pos + 1, cell := g.cell + tileCells w, got := []
          items := g.items ++ [.tile g.rev g.seg g.cell g.pos (g.onWire z)] })) := by
  have hread : (s.job.ring.got.isEmpty && s.stalled pa) = false := by
    cases hgot : s.job.ring.got with
    | nil => simp [hst hgot]
    | cons b l => rfl
  have hgood : (false || tileAt z 8 != 0 || tileW z != w) = false := by simp [hkind, hw]
  show execFeederInsert false s = _
  simp only [execFeederInsert, hrun, he, hread, hz, hgood, Bool.not_true, Bool.false_eq_true, if_false]
  split <;> rfl

end
end

end Sys2Proof.Machine
end

section
/-! SUPPORT. The items of the ring pass the dies (R202, R206): what a passage leaves of a die and of the ring, and the errors that
the stations of a tile log. -/

namespace Sys2Proof.Machine

/-! ### The end of a passage -/

/-- Die d stands as `y` and has seen one item more; what die 3 has seen leaves the ring. -/
def State.passedAs (s : State) (d : Nat) (y : Die) : State :=
  (s.setDie d { y with ringPos := y.ringPos + 1 }).modRing (fun g =>
    if d = 3 then { g with items := g.items.drop 1, base := g.base + 1 } else g)

theorem passed_eq (s : State) (d : Nat) : s.passed d = s.passedAs d (s.die d) := by
  unfold State.passed State.passedAs
  by_cases hd : d = 3
  · simp only [hd, if_true]
    rfl
  · simp only [hd, if_false]
    rfl

theorem passed_modDie (s : State) (d : Nat) (f : Die → Die) : (s.modDie d f).passed d = s.passedAs d (f (s.die d)) := by
  rw [passed_eq, modDie_die_same, State.modDie, State.passedAs, setDie_setDie]
  rfl

/-- What a passage leaves of the job depends on the job alone. -/
theorem passed_job_congr {u v : State} (h : u.job = v.job) (d : Nat) : (u.passed d).job = (v.passed d).job := by
  cases u
  cases v
  cases h
  unfold State.passed
  split <;> rfl

theorem passed_dev (s : State) (d : Nat) : (s.passed d).dev = s.dev := by
  rw [passed_eq]
  rfl

/-! ### Errors at the stations (R202) -/

/-- The event of a station of unit u of a source, at some time. -/
def IsRingError (u idx : Nat) (rev : W32) (y : Evt) : Prop := ∃ clk, y = ringEvt (0x8000 + 16 * u + 14) idx rev clk

/-- The units whose stations a tile passes before compute die 0, or behind die 3. -/
def farUnits (d : Nat) : List Nat := if d = 0 then [1, 2, 3, 4] else if d = 3 then [0] else []

section
variable (s : State) (idx : Nat) (rev : W32)

theorem mem_ringError_raised (u : Nat) (y : Evt) : y ∈ (s.ringError u idx rev).dev.raised ↔
    y ∈ s.dev.raised ∨ y = ringEvt (0x8000 + 16 * u + 14) idx rev (s.unitClk (0x8000 + 16 * u + 14)) := by
  simp [State.ringError, State.raise]

theorem foldl_ringError (p : Nat → Bool) (l : List Nat) :
    let t := l.foldl (fun t u => if p u then t.ringError u idx rev else t) s
    t.job = s.job ∧ (∀ y ∈ s.dev.raised, y ∈ t.dev.raised) ∧
      ∀ y ∈ t.dev.raised, y ∈ s.dev.raised ∨ ∃ u ∈ l, IsRingError u idx rev y := by
  induction l generalizing s with
  | nil => exact ⟨rfl, fun _ hy => hy, fun _ hy => .inl hy⟩
  | cons u l ih =>
    intro t
    obtain ⟨hjob, hkept, hnew⟩ := ih (if p u then s.ringError u idx rev else s)
    have hfirst : (if p u then s.ringError u idx rev else s).job = s.job := by split <;> rfl
    refine ⟨hjob.trans hfirst, fun y hy => hkept y ?_, fun y hy => ?_⟩
    · split
      · exact (mem_ringError_raised s idx rev u y).2 (.inl hy)
      · exact hy
    · rcases hnew y hy with hold | ⟨v, hv, herr⟩
      · split at hold
        · rcases (mem_ringError_raised s idx rev u y).1 hold with hold | rfl
          · exact .inl hold
          · exact .inr ⟨u, List.mem_cons_self, _, rfl⟩
        · exact .inl hold
      · exact .inr ⟨v, List.mem_cons_of_mem _ hv, herr⟩

theorem farStations_job (d : Nat) : (s.farStations d idx rev).job = s.job :=
  (foldl_ringError s idx rev (Config.eccError s.drawn) (farUnits d)).1

theorem raised_farStations (d : Nat) {y : Evt} (h : y ∈ s.dev.raised) : y ∈ (s.farStations d idx rev).dev.raised :=
  (foldl_ringError s idx rev (Config.eccError s.drawn) (farUnits d)).2.1 y h

theorem farStations_raised (d : Nat) {y : Evt} (h : y ∈ (s.farStations d idx rev).dev.raised) :
    y ∈ s.dev.raised ∨ ∃ u ∈ farUnits d, IsRingError u idx rev y :=
  (foldl_ringError s idx rev (Config.eccError s.drawn) (farUnits d)).2.2 y h

end

theorem mem_farUnits {d u : Nat} : u ∈ farUnits d ↔ (d = 0 ∧ 1 ≤ u ∧ u ≤ 4) ∨ (d = 3 ∧ u = 0) := by
  unfold farUnits
  split
  · simp only [List.mem_cons, List.not_mem_nil, or_false]
    omega
  · split
    · simp only [List.mem_cons, List.not_mem_nil, or_false]
      omega
    · simp only [List.not_mem_nil, false_iff]
      omega

/-- What the stations of a tile log as it passes die d, which finds it `bad` or not. -/
def State.tileLogged (s : State) (d idx : Nat) (rev : W32) (bad : Bool) : State :=
  (if bad then s.ringError (5 + d) idx rev else s).farStations d idx rev

section
variable (s : State) (d idx : Nat) (rev : W32) (bad : Bool)

theorem tileLogged_job : (s.tileLogged d idx rev bad).job = s.job := by
  unfold State.tileLogged
  rw [farStations_job]
  split <;> rfl

theorem tileLogged_bad : ∃ y ∈ (s.tileLogged d idx rev true).dev.raised, IsRingError (5 + d) idx rev y :=
  ⟨_, raised_farStations _ idx rev d ((mem_ringError_raised s idx rev (5 + d) _).2 (.inr rfl)), _, rfl⟩

theorem tileLogged_raised {y : Evt} (h : y ∈ (s.tileLogged d idx rev bad).dev.raised) :
    y ∈ s.dev.raised ∨ (bad = true ∧ IsRingError (5 + d) idx rev y) ∨ ∃ q ∈ farUnits d, IsRingError q idx rev y := by
  rcases farStations_raised _ _ _ _ h with hold | hfar
  · split at hold
    · rename_i hbad
      rcases (mem_ringError_raised ..).1 hold with hold | rfl
      · exact .inl hold
      · exact .inr (.inl ⟨hbad, _, rfl⟩)
    · exact .inl hold
  · exact .inr (.inr hfar)

end

/-- Where no row has a record no row has a peg. -/
theorem passDie_of_no_rows {s : State} (h : s.job.rows = []) (t : List W8) (bad : Bool) (d : Nat) : passDie t bad d s = s := by
  have hrow (n : Nat) : s.row n = .reset := by rw [State.row, h, tget_nil]
  unfold passDie
  split
  · rfl
  · refine List.foldl_fixed' (fun k => ?_) _
    dsimp only
    rw [hrow]
    rfl

/-! ### TILE_PASS (R206) -/

section
variable {s : State} {d : Nat} {bad : Bool}

/-- The die before has not passed the item on. -/
theorem tilePass_behind (hd : d ≠ 0) (h : (s.die (d - 1)).ringPos ≤ (s.die d).ringPos) : exec (.tilePass d bad) s = .next s := by
  show execTilePass d bad s = _
  simp [execTilePass, hd, h]

/-- The item that die d passes next. -/
def State.NextItem (s : State) (d : Nat) (i : RingItem) : Prop :=
  s.job.ring.items[(s.die d).ringPos - s.job.ring.base]? = some i ∧ (d = 0 ∨ (s.die d).ringPos < (s.die (d - 1)).ringPos)

theorem State.NextItem.ahead {i : RingItem} (h : s.NextItem d i) :
    (decide (d ≠ 0) && decide ((s.die (d - 1)).ringPos ≤ (s.die d).ringPos)) = false := by
  rcases h.2 with hd | hd
  · simp [hd]
  · simp [hd]

theorem tilePass_marker {rev : W32} (h : s.NextItem d (.marker rev)) : exec (.tilePass d bad) s =
    .next (s.passedAs d { s.die d with ringRev := rev, ringSeg := 0, ringMark := (s.die d).clk }) := by
  show execTilePass d bad s = _
  simp only [execTilePass, h.ahead, h.1, Bool.false_eq_true, if_false, passed_modDie]

theorem tilePass_gap {rev : W32} {k p c : Nat} (h : s.NextItem d (.gap rev k p c)) : exec (.tilePass d bad) s =
    .next (s.passedAs d { s.die d with ringSeg := BitVec.ofNat 8 k }) := by
  show execTilePass d bad s = _
  simp only [execTilePass, h.ahead, h.1, Bool.false_eq_true, if_false, passed_modDie]

theorem tilePass_idle {k : Nat} (h : s.NextItem d (.idle k)) : exec (.tilePass d bad) s =
    .next (s.passedAs d { s.die d with ringSeg := BitVec.ofNat 8 k }) := by
  show execTilePass d bad s = _
  simp only [execTilePass, h.ahead, h.1, Bool.false_eq_true, if_false, passed_modDie]

/-- The segment that die d has seen last. -/
def State.inSegment (s : State) (d k : Nat) : State := s.modDie d (fun x => { x with ringSeg := BitVec.ofNat 8 k })

theorem tilePass_exec_tile {rev : W32} {k p idx : Nat} {t : List W8} (h : s.NextItem d (.tile rev k p idx t))
    (hrows : s.job.rows = []) :
    exec (.tilePass d bad) s = .next (((s.inSegment d k).tileLogged d idx (s.die d).ringRev bad).passed d) := by
  have hpass : passDie t bad d (s.inSegment d k) = s.inSegment d k := passDie_of_no_rows (s := s.inSegment d k) hrows t bad d
  unfold State.inSegment at hpass
  show execTilePass d bad s = _
  simp only [execTilePass, h.ahead, h.1, hpass, Bool.false_eq_true, if_false]
  rfl

/-- A tile where no row has a record: the die's segment, the item passed, and what the stations log. -/
theorem tilePass_tile {rev : W32} {k p idx : Nat} {t : List W8} (h : s.NextItem d (.tile rev k p idx t)) (hrows : s.job.rows = []) :
    ∃ u, exec (.tilePass d bad) s = .next u ∧ u.job = (s.passedAs d { s.die d with ringSeg := BitVec.ofNat 8 k }).job ∧
      (bad = true → ∃ y ∈ u.dev.raised, IsRingError (5 + d) idx (s.die d).ringRev y) ∧
      ∀ y ∈ u.dev.raised, y ∈ s.dev.raised ∨ (bad = true ∧ IsRingError (5 + d) idx (s.die d).ringRev y) ∨
        ∃ q ∈ farUnits d, IsRingError q idx (s.die d).ringRev y := by
  refine ⟨_, tilePass_exec_tile h hrows, ?_, ?_, fun y hy => ?_⟩
  · rw [passed_job_congr (tileLogged_job _ _ _ _ _), State.inSegment, passed_modDie]
  · rintro rfl
    rw [passed_dev]
    exact tileLogged_bad _ d idx _
  · rw [passed_dev] at hy
    exact tileLogged_raised (s.inSegment d k) d idx _ bad hy

end

end Sys2Proof.Machine
end

section
/-! SUPPORT. Pegs and fires (R207 to R211, R218, R248): an entry's test of a tile, the pieces of a fire and its end, and the wait of
PEGW with its watchdog. -/

namespace Sys2Proof.Machine

/-! ### The test of a tile (R208) -/

/-- Entry i of a row is armed, not named by an UNPEG that waits, and matches a tile. -/
def Row.PegHit (r : Row) (i : Nat) (t : List W8) : Prop :=
  (r.pegAt i).st = .armed ∧ r.pegHeld i = false ∧ (tileNum t 0 ^^^ (r.pegAt i).tag) &&& (r.pegAt i).mask = 0

section
variable {s : State} {n i : Nat} {t : List W8} {bad : Bool}

theorem pegHit_iff {r : Row} : ((r.pegAt i).st != .armed || r.pegHeld i ||
    (tileNum t 0 ^^^ (r.pegAt i).tag) &&& (r.pegAt i).mask != 0) = false ↔ r.PegHit i t := by
  simp only [Row.PegHit, Bool.or_eq_false_iff, bne_eq_false_iff_eq, and_assoc]

theorem pegTest_no_hit (h : ¬ (s.row n).PegHit i t) : pegTest t bad n i s = s := by
  have hcond := Bool.of_not_eq_false (mt pegHit_iff.1 h)
  simp only [pegTest, hcond, if_true]

section
variable (h : (s.row n).PegHit i t)
include h

theorem pegTest_stale (hv : (tileNum t 4).toNat < ((s.row n).pegAt i).minver.toNat) : pegTest t bad n i s =
    s.setRow n { s.row n with csr := { (s.row n).csr with pegstale := (s.row n).csr.pegstale + 1 } } := by
  have hult : (tileNum t 4).ult ((s.row n).pegAt i).minver = true := decide_eq_true hv
  simp only [pegTest, pegHit_iff.2 h, hult, Bool.false_eq_true, if_false, if_true]

section
variable (hv : ¬ (tileNum t 4).toNat < ((s.row n).pegAt i).minver.toNat)
include hv

theorem pegTest_miss (htake : s.canTake n ((s.row n).pegAt i) = false) (hb : (s.row n).mat.banked = false) :
    pegTest t bad n i s =
      s.setRow n { s.row n with csr := { (s.row n).csr with pegmiss := (s.row n).csr.pegmiss + 1 } } := by
  have hult : (tileNum t 4).ult ((s.row n).pegAt i).minver = false := decide_eq_false hv
  simp only [pegTest, pegHit_iff.2 h, hult, htake, hb, Bool.not_false, Bool.or_true, Bool.and_false, Bool.false_eq_true, if_false,
    if_true]

/-- A fire into the shadow latch begins. -/
theorem pegTest_fires (htake : s.canTake n ((s.row n).pegAt i) = true) (hside : ((s.row n).pegAt i).side = false) :
    pegTest t false n i s = s.setRow n { (s.row n).setPeg i { (s.row n).pegAt i with
        count := ((s.row n).pegAt i).count - 1
        fires := ((s.row n).pegAt i).fires ++ [⟨t, [], ((s.row n).pegAt i).count == 1⟩] } with
      shadow := { Latch.reset with st := .filling }, mat := (s.row n).mat.use (s.rowClk n) } := by
  have hult : (tileNum t 4).ult ((s.row n).pegAt i).minver = false := decide_eq_false hv
  simp only [pegTest, pegHit_iff.2 h, hult, htake, hside, Bool.not_true, Bool.or_self, Bool.false_eq_true, if_false]
  rfl

end
end
end

/-! ### The end of a fire (R209) -/

/-- The entry after a fire of it has ended. -/
def Peg.afterFire (e : Peg) (f : Fire) (rest : List Fire) : Peg :=
  { e with lastver := tileNum f.bytes 4, unc := min 255 (e.unc + 1), fires := rest, st := if f.last then .spent else e.st }

section
variable (r : Row) (i : Nat) (e : Peg) (f : Fire) (rest : List Fire)

/-- The row after a fire has ended, its flag not yet cleared. -/
def Row.fired : Row :=
  if e.side then r.setPeg i (e.afterFire f rest)
  else { r.setPeg i (e.afterFire f rest) with shadow := r.shadowNext (tileLatch f.bytes) }

theorem fireEnd_eq : r.fireEnd i e f rest = if f.last then (r.fired i e f rest).pegFlag e else r.fired i e f rest := rfl

/-- A part of the row that the flag of an entry does not touch. -/
theorem fireEnd_keeps {β : Type} {p : Row → β} (harm : ∀ r a, p { r with arm := a } = p r)
    (hother : ∀ r o, p { r with other := o } = p r) : p (r.fireEnd i e f rest) = p (r.fired i e f rest) := by
  rw [fireEnd_eq]
  split
  · exact pegFlag_keeps harm hother _ e
  · rfl

theorem fireEnd_pegAt : (r.fireEnd i e f rest).pegAt i = e.afterFire f rest := by
  have hpeg := fireEnd_keeps r i e f rest (p := Row.peg) (fun _ _ => rfl) (fun _ _ => rfl)
  rw [Row.pegAt, hpeg, Row.fired]
  split <;> exact setPeg_pegAt_same r i _

theorem fireEnd_shadow : (r.fireEnd i e f rest).shadow = if e.side then r.shadow
    else if r.wldWaits then { Latch.reset with st := .filling } else tileLatch f.bytes := by
  rw [fireEnd_keeps r i e f rest (p := Row.shadow) (fun _ _ => rfl) (fun _ _ => rfl), Row.fired]
  split <;> rfl

end

/-! ### The pieces of a fire (R248) -/

theorem land_byte (s : State) (n i a : Nat) (l : List W8) (x : Nat) :
    (s.land n i a l).byte x = if a ≤ x ∧ x < a + l.length then l.getD (x - a) 0 else s.byte x := by
  induction l generalizing s a with
  | nil =>
    rw [if_neg (by simp only [List.length_nil]; omega)]
    rfl
  | cons b l ih =>
    rw [State.land, ih, setByte_byte, modRow_byte]
    by_cases hx : x = a
    · subst hx
      simp
    · by_cases hin : a + 1 ≤ x ∧ x < a + 1 + l.length
      · have hsucc : x - a = (x - (a + 1)) + 1 := by omega
        rw [if_pos hin, if_pos (by simp only [List.length_cons]; omega), hsucc, List.getD_cons_succ]
      · rw [if_neg hin, if_neg hx, if_neg (by simp only [List.length_cons]; omega)]

/-- The 8 bytes of piece k of a fire's image. -/
def tilePiece (t : List W8) (k : Nat) : List W8 := (List.range 8).map (fun b => tileSide t (8 * k + b))

theorem tilePiece_length (t : List W8) (k : Nat) : (tilePiece t k).length = 8 := by simp [tilePiece]

theorem tilePiece_getD (t : List W8) {k b : Nat} (h : b < 8) : (tilePiece t k).getD b 0 = tileSide t (8 * k + b) := by
  simp [tilePiece, h]

/-- A byte that a fire of entry i has landed, where `s` stood before the piece and `u` stands after it. -/
def LandedBetween (s u : State) (i unc : Nat) (y : Landed) : Prop :=
  y.peg = i ∧ y.ahead = unc ∧ y.taken = none ∧ y.old = s.byte y.addr ∧ y.new = u.byte y.addr

/-- The bytes of a piece are put before those that have landed, and nothing else of the row changes. -/
theorem land_row (s : State) (n i a : Nat) (l : List W8) : ∃ ys : List Landed, ys.length = l.length ∧
    (s.land n i a l).row n = { s.row n with landed := ys ++ (s.row n).landed } ∧
    ∀ y ∈ ys, a ≤ y.addr ∧ LandedBetween s (s.land n i a l) i ((s.row n).pegAt i).unc y := by
  induction l generalizing s a with
  | nil => exact ⟨[], rfl, rfl, fun y hy => absurd hy List.not_mem_nil⟩
  | cons b l ih =>
    let x : Landed := ⟨i, ((s.row n).pegAt i).unc, none, a, s.byte a, b⟩
    obtain ⟨ys, hlen, hrow, hys⟩ := ih ((s.modRow n (fun r => { r with landed := x :: r.landed })).setByte a b) (a + 1)
    rw [setByte_row, modRow_row_same] at hrow
    refine ⟨ys ++ [x], by simp [hlen], ?_, fun y hy => ?_⟩
    · rw [List.append_assoc]
      exact hrow
    · rcases List.mem_append.1 hy with hy | hy
      · obtain ⟨hle, hpeg, hahead, htaken, hold, hnew⟩ := hys y hy
        rw [setByte_row, modRow_row_same] at hahead
        rw [setByte_byte, if_neg (by omega), modRow_byte] at hold
        exact ⟨by omega, hpeg, hahead, htaken, hold, hnew⟩
      · obtain rfl := List.mem_singleton.1 hy
        refine ⟨le_rfl, rfl, rfl, rfl, rfl, ?_⟩
        rw [land_byte, if_pos ⟨le_rfl, by simp [x]⟩]
        simp [x]

/-! ### PEG_FIRE_COMPLETE -/

section
variable {s : State} {n i : Nat} {f : Fire} {rest : List Fire} (hf : ((s.row n).pegAt i).fires = f :: rest)
include hf

theorem pegFireComplete_ends (hleft : f.left = []) : exec (.pegFireComplete n i) s =
    .next (s.modRow n (fun r => (r.fireEnd i ((s.row n).pegAt i) f rest).matRest (s.rowClk n))) := by
  show execPegFireComplete n i s = _
  simp only [execPegFireComplete, hf, hleft]

theorem pegFireComplete_end_row (hleft : f.left = []) : ∃ u, exec (.pegFireComplete n i) s = .next u ∧
    (u.row n).pegAt i = ((s.row n).pegAt i).afterFire f rest ∧
    (u.row n).shadow = (if ((s.row n).pegAt i).side then (s.row n).shadow
      else if (s.row n).wldWaits then { Latch.reset with st := .filling } else tileLatch f.bytes) ∧
    (∀ m, m ≠ n → u.row m = s.row m) ∧ ∀ x, u.byte x = s.byte x := by
  refine ⟨_, pegFireComplete_ends hf hleft, ?_, ?_, fun m hm => modRow_row_ne _ _ hm, fun x => modRow_byte _ _ _ x⟩
  · rw [modRow_row_same, matRest_keeps (f := fun r => r.pegAt i) (fun _ _ => rfl), fireEnd_pegAt]
  · rw [modRow_row_same, matRest_keeps (f := Row.shadow) (fun _ _ => rfl), fireEnd_shadow]

theorem pegFireComplete_lands (hleft : f.left ≠ []) : ∃ k ∈ f.left, exec (.pegFireComplete n i) s =
    .next ((s.land n i (((s.row n).pegAt i).target.toNat + 8 * k) (tilePiece f.bytes k)).draw.modRow n (fun r =>
      r.setPeg i { (s.row n).pegAt i with fires := { f with left := f.left.erase k } :: rest })) := by
  have hlt : Config.freeNat s.drawn 0 % f.left.length < f.left.length := Nat.mod_lt _ (List.length_pos_iff.2 hleft)
  refine ⟨f.left.getD (Config.freeNat s.drawn 0 % f.left.length) 0, ?_, ?_⟩
  · rw [List.getD_eq_getElem _ _ hlt]
    exact List.getElem_mem hlt
  · show execPegFireComplete n i s = _
    simp only [execPegFireComplete, hf]
    split
    · exact absurd ‹_› hleft
    · rfl

end

/-! ### PEGW (R218) -/

section
variable {s : State} {n i id : Nat} {arm : ArmId} {lim since : W64}

section
variable {flag : Option Nat} (hops : (s.row n).ops = [⟨id, arm, flag, .pegw i lim since⟩])
  (hlife : (s.row n).life = .running) (hhalt : (s.die (n / 128)).halted = false) (hlim : lim ≠ 0)
  (hlate : lim.toNat ≤ (s.clkOf n - since).toNat)
include hops hlife hhalt hlim hlate

theorem pegwLate_alone : s.pegwLate n i = some ⟨id, arm, flag, .pegw i lim since⟩ := by
  have hlive : s.live n = true := by simp [State.live, dieOf, hlife, hhalt]
  simpa [-BitVec.toNat_sub, State.pegwLate, hlive, hops, hlate] using hlim

/-- Nothing but what is due at this clk comes before a wait that is past its limit. -/
theorem ringWatchdog_due (hi : i < 16) : Move.event (.ringWatchdog n i) ∈ s.dueMoves := by
  obtain ⟨e, he, rfl⟩ := mem_rows_of_running hlife
  have hmoves : Instr.ringWatchdog e.1 i ∈ s.lateMoves e.1 := by
    simp [State.lateMoves, hi, pegwLate_alone hops hlife hhalt hlim hlate]
  unfold State.dueMoves
  exact List.mem_append_right _ (List.mem_map_of_mem (List.mem_append_left _ (List.mem_flatMap.2 ⟨e, he, hmoves⟩)))

theorem ringWatchdog_defers (hd : (s.row n).deferred = []) : ∃ u, exec (.ringWatchdog n i) s = .next u ∧
    u.row n = { s.row n with
      ops := [⟨id, arm, flag, .pegw i lim (s.clkOf n)⟩], deferred := [⟨cRingWatchdog, BitVec.ofNat 64 i⟩] } := by
  have hexec : exec (.ringWatchdog n i) s = .next ((s.modRow n (fun r => r.setOp id (.pegw i lim (s.clkOf n)))).defer n
      cRingWatchdog (BitVec.ofNat 64 i)) := by
    show execRingWatchdog n i s = _
    simp only [execRingWatchdog, pegwLate_alone hops hlife hhalt hlim hlate]
  have hd' : ((s.modRow n (fun r => r.setOp id (.pegw i lim (s.clkOf n)))).row n).deferred = [] := by
    rw [modRow_row_same]
    exact hd
  refine ⟨_, hexec, ?_⟩
  rw [defer_first hd', modRow_row_same, modRow_row_same, Row.setOp, hops]
  simp

end

theorem endOp_alone {r : Row} {o : Op} (hops : r.ops = [o]) (hflag : o.flag = none) : r.endOp o = { r with ops := [] } := by
  simp [Row.endOp, hflag, hops]

/-- The only operation of a row, a PEGW on an entry with a fire for it, or on one that is armed no more, may complete. -/
theorem pegwEnd_alone {r : Row} (hops : r.ops = [⟨id, arm, none, .pegw i lim since⟩])
    (h : 0 < (r.pegAt i).unc ∨ (r.pegAt i).st ≠ .armed) : ∃ q, r.pegwEnd ⟨id, arm, none, .pegw i lim since⟩ i = some q ∧
      q.ops = [] ∧ (q.pegAt i).unc = (if (r.pegAt i).st = .free then (r.pegAt i).unc else (r.pegAt i).unc - 1) ∧
      (q.pegAt i).st = (r.pegAt i).st := by
  have hend : r.endOp ⟨id, arm, none, .pegw i lim since⟩ = { r with ops := [] } := endOp_alone hops rfl
  have hfirst : r.pegws i = [⟨id, arm, none, .pegw i lim since⟩] := by simp [Row.pegws, hops]
  by_cases hfree : (r.pegAt i).st = .free
  · refine ⟨{ r with ops := [] }, ?_, rfl, (if_pos hfree).symm, rfl⟩
    simp [Row.pegwEnd, hfree, hend]
  · have hfree' : ((r.pegAt i).st == .free) = false := beq_false_of_ne hfree
    by_cases hunc : 0 < (r.pegAt i).unc
    · have htaken : (r.takeFire i id).ops = [⟨id, arm, none, .pegw i lim since⟩] := hops
      have hpeg : (r.takeFire i id).pegAt i = { r.pegAt i with unc := (r.pegAt i).unc - 1 } := setPeg_pegAt_same r i _
      refine ⟨{ r.takeFire i id with ops := [] }, ?_, rfl, ?_, ?_⟩
      · simp [Row.pegwEnd, hfree', hunc, hfirst, endOp_alone htaken rfl]
      · rw [if_neg hfree]
        exact congrArg Peg.unc hpeg
      · exact (congrArg Peg.st hpeg).trans rfl
    · have hspent : (r.pegAt i).st = .spent := by
        cases hst : (r.pegAt i).st with
        | free => exact absurd hst hfree
        | armed => exact absurd hst (h.resolve_left hunc)
        | spent => rfl
      refine ⟨{ r with ops := [] }, ?_, rfl, ?_, rfl⟩
      · simp [Row.pegwEnd, hunc, hspent, hend]
      · rw [if_neg hfree, Nat.eq_zero_of_not_pos hunc]
        exact Nat.eq_zero_of_not_pos hunc

section
variable (hops : (s.row n).ops = [⟨id, arm, none, .pegw i lim since⟩]) (hhalt : (s.die (n / 128)).halted = false)
include hops hhalt

theorem operationComplete_pegw : exec (.operationComplete n id 0 false) s =
    .next (((s.row n).pegwEnd ⟨id, arm, none, .pegw i lim since⟩ i).elim s (s.setRow n)) := by
  have hfind : (s.row n).findOp id = some ⟨id, arm, none, .pegw i lim since⟩ := by simp [Row.findOp, hops]
  show execOperationComplete n id 0 false s = _
  simp only [execOperationComplete, hfind, opStep, dieOf, hhalt, Bool.false_eq_true, if_false]
  cases (s.row n).pegwEnd ⟨id, arm, none, .pegw i lim since⟩ i <;> rfl

theorem pegw_ends (h : 0 < ((s.row n).pegAt i).unc ∨ ((s.row n).pegAt i).st ≠ .armed) :
    ∃ u, exec (.operationComplete n id 0 false) s = .next u ∧ (u.row n).ops = [] ∧
      ((u.row n).pegAt i).unc = (if ((s.row n).pegAt i).st = .free then ((s.row n).pegAt i).unc else ((s.row n).pegAt i).unc - 1) ∧
      ((u.row n).pegAt i).st = ((s.row n).pegAt i).st ∧ ∀ x, u.byte x = s.byte x := by
  obtain ⟨q, hq, hdone, hunc, hst⟩ := pegwEnd_alone hops h
  refine ⟨s.setRow n q, ?_, ?_⟩
  · rw [operationComplete_pegw hops hhalt, hq]
    rfl
  · rw [setRow_row_same]
    exact ⟨hdone, hunc, hst, fun x => rfl⟩

theorem pegw_stands (hunc : ((s.row n).pegAt i).unc = 0) (hst : ((s.row n).pegAt i).st = .armed) :
    exec (.operationComplete n id 0 false) s = .next s := by
  have hnone : (s.row n).pegwEnd ⟨id, arm, none, .pegw i lim since⟩ i = none := by simp [Row.pegwEnd, hunc, hst]
  rw [operationComplete_pegw hops hhalt, hnone]
  rfl

end
end

/-! ### COMMIT_POINT (R282) -/

theorem modJob_same {s : State} {f : Job → Job} (h : f s.job = s.job) : s.modJob f = s := by
  simp only [State.modJob, h]

theorem commitPoint_between_reads {s : State} (hgot : s.job.ring.got = []) : exec .commitPoint s = .next (s.modJob (fun j =>
    { j with commit := j.commit.map (fun b => if b.targets.length = 4 then { b with fixed := true } else b) })) := by
  show execCommitPoint s = _
  simp only [execCommitPoint, hgot, List.isEmpty_nil, Bool.not_true, Bool.false_eq_true, if_false]

theorem commitPoint_in_read {s : State} (hgot : s.job.ring.got ≠ []) : exec .commitPoint s = .next s := by
  show execCommitPoint s = _
  simp [execCommitPoint, hgot]

/-- No commit, or one whose targets are not all translated, stands. -/
theorem commitPoint_stands {s : State} (h : ∀ b, s.job.commit = some b → b.targets.length ≠ 4) : exec .commitPoint s = .next s := by
  by_cases hgot : s.job.ring.got = []
  · rw [commitPoint_between_reads hgot, modJob_same]
    cases hb : s.job.commit with
    | none => rw [Option.map_none, ← hb]
    | some b => rw [Option.map_some, if_neg (h b hb), ← hb]
  · exact commitPoint_in_read hgot

theorem commitPoint_fixes {s : State} {b : Commit} (hb : s.job.commit = some b) (hgot : s.job.ring.got = [])
    (h4 : b.targets.length = 4) :
    exec .commitPoint s = .next (s.modJob (fun j => { j with commit := some { b with fixed := true } })) := by
  rw [commitPoint_between_reads hgot, modJob_congr]
  rw [hb, Option.map_some, if_pos h4]

end Sys2Proof.Machine
end

section
/-! SUPPORT. The ring as a whole: what one die, the feeders and a row's pegs make of an item, put together for R200 to R211, R218
and R282. -/

namespace Sys2Proof.Machine

/-- A feeder whose next entry is a good tile reads on and stalls, or puts the tile on the ring under a header of its own. -/
theorem feederInsert_tile_cases {s : State} {pa w : Nat} {z : List W8} (hrun : s.job.ring.running = true)
    (he : s.job.ring.table[s.job.ring.pos]? = some (.tile pa w)) (hst : s.job.ring.got = [] → s.stalled pa = false)
    (hz : s.job.ring.reads s pa (64 * (3 + 64 * w)) = z) (hkind : tileAt z 8 = 0) (hw : tileW z = w) :
    (∃ u, exec (.feederInsert false) s = .next u ∧ (s.draw.modRing (fun g => { g with got := z })).Stalls u) ∨
    ∃ wire : List W8, exec (.feederInsert false) s = .next (s.draw.modRing (fun g => { g with
        pos := g.pos + 1, cell := g.cell + (3 + 64 * w), got := []
        items := g.items ++ [.tile g.rev g.seg g.cell g.pos wire] })) ∧
      wire.drop 64 = z.drop 64 ∧ tileNum wire 0 = tileNum z 0 ∧ tileNum wire 4 = tileNum z 4 ∧ tileW wire = w ∧
      tileAt wire 8 = 0 ∧ tileAt wire 10 = tileAt z 10 ∧ tileAt wire 11 = BitVec.ofNat 8 s.job.ring.seg ∧
      tileNum wire 12 = s.job.ring.rev ∧ tileNum wire 16 = BitVec.ofNat 32 s.job.ring.cell := by
  have hexec := feederInsert_tile hrun he hst (z := z) hz hkind hw
  cases hbit : Config.freeBit s.drawn (64 * tileCells w) with
  | true => exact .inl ⟨_, hexec.trans (by rw [hbit, if_pos rfl]), feedIdle_stalls _⟩
  | false =>
    refine .inr ⟨s.job.ring.onWire z, ?_, onWire_drop _ z, onWire_tag _ z, onWire_version _ z, (onWire_width _ z).trans hw,
      (onWire_kind _ z).trans hkind, onWire_sgn _ z, onWire_segment _ z, onWire_rev _ z, onWire_position _ z⟩
    rw [hexec, hbit, if_neg Bool.false_ne_true]
    exact congrArg _ (modRing_congr rfl)

/-- The next piece of a fire: its bytes, the row's record of what they replaced, and the pieces that are left. -/
theorem pegFireComplete_piece {s : State} {n i : Nat} {f : Fire} {rest : List Fire}
    (hf : ((s.row n).pegAt i).fires = f :: rest) (hleft : f.left ≠ []) (a : Nat) :
    ∃ u, ∃ k ∈ f.left, exec (.pegFireComplete n i) s = .next u ∧
      ((u.row n).pegAt i).fires = { f with left := f.left.erase k } :: rest ∧
      (u.byte a = if ((s.row n).pegAt i).target.toNat + 8 * k ≤ a ∧ a < ((s.row n).pegAt i).target.toNat + 8 * k + 8
        then tileSide f.bytes (a - ((s.row n).pegAt i).target.toNat) else s.byte a) ∧
      (u.row n).landed.drop 8 = (s.row n).landed ∧
      ∀ y ∈ (u.row n).landed.take 8, LandedBetween s u i ((s.row n).pegAt i).unc y := by
  obtain ⟨k, hk, hexec⟩ := pegFireComplete_lands hf hleft
  obtain ⟨ys, hlen, hrow, hys⟩ := land_row s n i (((s.row n).pegAt i).target.toNat + 8 * k) (tilePiece f.bytes k)
  rw [tilePiece_length] at hlen
  generalize hu : (s.land n i (((s.row n).pegAt i).target.toNat + 8 * k) (tilePiece f.bytes k)) = u at hexec hrow hys
  have hlanded : ∀ e, ((u.draw.modRow n (fun r => r.setPeg i e)).row n).landed = ys ++ (s.row n).landed := fun e => by
    rw [modRow_row_same, draw_row, hrow]
    rfl
  refine ⟨_, k, hk, hexec, ?_, ?_, ?_, ?_⟩
  · rw [modRow_row_same, setPeg_pegAt_same]
  · rw [modRow_byte, draw_byte, ← hu, land_byte, tilePiece_length]
    by_cases hin : ((s.row n).pegAt i).target.toNat + 8 * k ≤ a ∧ a < ((s.row n).pegAt i).target.toNat + 8 * k + 8
    · rw [if_pos hin, if_pos hin, tilePiece_getD _ (by omega)]
      congr 1
      omega
    · rw [if_neg hin, if_neg hin]
  · rw [hlanded, List.drop_left' hlen]
  · rw [hlanded, List.take_left' hlen]
    intro y hy
    obtain ⟨-, hpeg, hahead, htaken, hold, hnew⟩ := hys y hy
    exact ⟨hpeg, hahead, htaken, hold, by rw [modRow_byte, draw_byte, hnew]⟩

/-- Settles O44: each move of the ring by its cases, a tile's passage by what its stations log, and a piece of a fire by induction
on its bytes. -/
theorem ringFlow : Obligations.RingFlow := by
  unfold Obligations.RingFlow
  refine ⟨fun s d pa w c k j i rv t => ?_, fun s n i id a t bad f rest lim since arm flag b => ?_⟩
  · refine ⟨revolutionStart_again, fun hrun => ⟨feederInsert_gap hrun, feederInsert_segment hrun, reads_getD,
      fun he hst hkind hw => feederInsert_tile_cases hrun he hst rfl hkind hw,
      fun he hgot hst => ⟨_, feederInsert_put_off hrun he hgot hst, feedIdle_stalls s⟩⟩,
      fun _ hnext => tilePass_marker hnext, ?_, ?_, tilePass_behind⟩
    · rintro - (hnext | hnext)
      · exact tilePass_gap hnext
      · exact tilePass_idle hnext
    · intro bad hd hnext hrows
      obtain ⟨u, hexec, hjob, hbad, hraised⟩ := tilePass_tile (bad := bad) hnext hrows
      refine ⟨u, hexec, fun m => ?_, ?_, ?_, hbad, fun y hy => ?_⟩
      · exact congrArg (fun j : Job => tget .reset j.dies m) hjob
      · exact (congrArg Job.ring hjob).trans rfl
      · exact (congrArg Job.rows hjob).trans hrows
      · rcases hraised y hy with hold | hfound | ⟨q, hq, herr⟩
        · exact .inl hold
        · exact .inr (.inl hfound)
        · rcases mem_farUnits.1 hq with ⟨hd0, hlo, hhi⟩ | ⟨hd3, rfl⟩
          · exact .inr (.inr (.inl ⟨hd0, q, hlo, hhi, herr⟩))
          · exact .inr (.inr (.inr ⟨hd3, herr⟩))
  · refine ⟨fun h => ?_, fun h hv => ?_, fun h hv htake hb => ?_, fun h hv hbad htake hside => ?_, fun hf hleft => ?_,
      fun hf hleft => pegFireComplete_piece hf hleft a, fun hops hlife hhalt hlim hlate hd hi =>
        ⟨ringWatchdog_due hops hlife hhalt hlim hlate hi, ringWatchdog_defers hops hlife hhalt hlim hlate hd⟩,
      fun hops hhalt => ⟨pegw_ends hops hhalt, pegw_stands hops hhalt⟩, commitPoint_fixes, ?_, ?_⟩
    · exact congrArg (State.row · n) (pegTest_no_hit h)
    · exact (congrArg (State.row · n) (pegTest_stale h hv)).trans (setRow_row_same ..)
    · exact (congrArg (State.row · n) (pegTest_miss h hv htake hb)).trans (setRow_row_same ..)
    · subst hbad
      exact (congrArg (State.row · n) (pegTest_fires h hv htake hside)).trans (setRow_row_same ..)
    · exact pegFireComplete_end_row hf hleft
    · rintro (hnone | hgot)
      · exact commitPoint_stands fun b' hb' => by rw [hnone] at hb'; cases hb'
      · exact commitPoint_in_read hgot
    · intro hb h4
      exact commitPoint_stands fun b' hb' => by rw [hb] at hb'; cases hb'; exact h4

end Sys2Proof.Machine
end

section
/-! SUPPORT. The invariant of memory through the operations that every meaning uses: the parts of the machine, exceptions, and
the frame of an issued word. -/

namespace Sys2Proof.Machine

/-! ### What an outcome and a body keep -/

/-- The invariant holds of the next state, where there is one. -/
def KeepsInv (o : Host.Outcome State Fault Refusal) : Prop := ∀ t, o = .next t → t.Inv

@[simp] theorem keepsInv_next {t : State} : KeepsInv (.next t) ↔ t.Inv :=
  ⟨fun h => h t rfl, fun h _ e => by cases e; exact h⟩

/-- The invariant holds of the state that a body comes to. -/
def Res.Inv : Res → Prop
  | .done s | .jump s _ | .trap _ _ s | .wait _ s | .halt s => s.Inv

@[simp] theorem Res.inv_done {s : State} : (Res.done s).Inv ↔ s.Inv := Iff.rfl
@[simp] theorem Res.inv_jump {s : State} {b : Bool} : (Res.jump s b).Inv ↔ s.Inv := Iff.rfl
@[simp] theorem Res.inv_trap {s : State} {c : W8} {x : W64} : (Res.trap c x s).Inv ↔ s.Inv := Iff.rfl
@[simp] theorem Res.inv_wait {s : State} {w : Wait} : (Res.wait w s).Inv ↔ s.Inv := Iff.rfl
@[simp] theorem Res.inv_halt {s : State} : (Res.halt s).Inv ↔ s.Inv := Iff.rfl

/-! ### Updates that leave every memory alone -/

section
variable (s : State)

@[simp] theorem inv_setRow (n : Nat) (x : Row) : (s.setRow n x).Inv ↔ s.Inv := Iff.rfl
@[simp] theorem inv_modRow (n : Nat) (f : Row → Row) : (s.modRow n f).Inv ↔ s.Inv := Iff.rfl
@[simp] theorem inv_setDie (d : Nat) (x : Die) : (s.setDie d x).Inv ↔ s.Inv := Iff.rfl
@[simp] theorem inv_modDie (d : Nat) (f : Die → Die) : (s.modDie d f).Inv ↔ s.Inv := Iff.rfl
@[simp] theorem inv_setDom (d : Nat) (x : Domain) : (s.setDom d x).Inv ↔ s.Inv := Iff.rfl
@[simp] theorem inv_modDom (d : Nat) (f : Domain → Domain) : (s.modDom d f).Inv ↔ s.Inv := Iff.rfl
@[simp] theorem inv_draw : s.draw.Inv ↔ s.Inv := Iff.rfl
@[simp] theorem inv_raise (e : Evt) : (s.raise e).Inv ↔ s.Inv := Iff.rfl
@[simp] theorem inv_setOwner (a : Nat) (o : BitVec 10) : (s.setOwner a o).Inv ↔ s.Inv := Iff.rfl
@[simp] theorem inv_setFar (d a : Nat) (x : Option FarByte) : (s.setFar d a x).Inv ↔ s.Inv := Iff.rfl
@[simp] theorem inv_modCmds (f : Cmd → Cmd) : (s.modCmds f).Inv ↔ s.Inv := Iff.rfl
@[simp] theorem inv_setBuf (d b : Nat) (x : CBuf) : (s.setBuf d b x).Inv ↔ s.Inv := Iff.rfl
@[simp] theorem inv_setPort (p : Nat) (x : Port) : (s.setPort p x).Inv ↔ s.Inv := Iff.rfl
@[simp] theorem inv_modPort (p : Nat) (f : Port → Port) : (s.modPort p f).Inv ↔ s.Inv := Iff.rfl
@[simp] theorem inv_setPl (p : Pl) : (s.setPl p).Inv ↔ s.Inv := Iff.rfl
@[simp] theorem inv_setEng (d e : Nat) (g : Engine) : (s.setEng d e g).Inv ↔ s.Inv := Iff.rfl
@[simp] theorem inv_modEng (d e : Nat) (f : Engine → Engine) : (s.modEng d e f).Inv ↔ s.Inv := Iff.rfl
@[simp] theorem inv_modCmd (d e : Nat) (f : Cmd → Cmd) : (s.modCmd d e f).Inv ↔ s.Inv := Iff.rfl
@[simp] theorem inv_modRing (f : Ring → Ring) : (s.modRing f).Inv ↔ s.Inv := Iff.rfl
@[simp] theorem inv_setTq (d q : Nat) (x : TQueue) : (s.setTq d q x).Inv ↔ s.Inv := Iff.rfl
@[simp] theorem inv_waitFor (n : Nat) (w : Wait) : (s.waitFor n w).Inv ↔ s.Inv := Iff.rfl
@[simp] theorem inv_charge (n u c : Nat) : (s.charge n u c).Inv ↔ s.Inv := Iff.rfl

/-- The job changed elsewhere than in its memory. -/
@[simp] theorem inv_modJob {f : Job → Job} (hf : (f s.job).mem = s.job.mem) : (s.modJob f).Inv ↔ s.Inv := by
  simp [State.Inv, State.modJob, hf]

/-- The device changed elsewhere than in its checkpoints and the SRAM on X. -/
@[simp] theorem inv_modDev {f : Dev → Dev} (ht : (f s.dev).tierStore = s.dev.tierStore) (hc : (f s.dev).ckpt = s.dev.ckpt)
    (hs : (f s.dev).sram = s.dev.sram) : (s.modDev f).Inv ↔ s.Inv := by
  simp [State.Inv, State.modDev, ht, hc, hs]

@[simp] theorem inv_ite {c : Prop} [Decidable c] (t : State) : (if c then s else t).Inv ↔ if c then s.Inv else t.Inv := by
  split <;> rfl

end

/-! ### Exceptions (R334 to R340) -/

section
variable {s : State} (h : s.Inv) (n : Nat)
include h

@[simp] theorem State.Inv.trap (c : W8) (x : W64) (epc : Va) (held : Clause) : (s.trap n c x epc held).Inv := by
  fun_cases State.trap s n c x epc held <;> simp [h]

@[simp] theorem State.Inv.trapHere (c : W8) (x : W64) : (s.trapHere n c x).Inv := h.trap n c x _ _

@[simp] theorem State.Inv.defer (c : W8) (x : W64) : (s.defer n c x).Inv := by
  fun_cases State.defer s n c x <;> simp [h]

@[simp] theorem State.Inv.takeDeferred (d : Deferred) : (s.takeDeferred n d).Inv :=
  State.Inv.trapHere (s := s.modRow n _) h n d.cause d.tval

@[simp] theorem State.Inv.takeDue : (s.takeDue n).Inv := by
  fun_cases State.takeDue s n <;> simp [h]

end

/-! ### The frame of an issued word -/

/-- A body keeps the invariant. -/
def BodyInv (body : State → Nat → Row → Res) : Prop := ∀ s n v, s.Inv → (body s n v).Inv

theorem onRow_inv (f : Row → Row → Row) : BodyInv (onRow f) := fun _ _ _ h => h

theorem Res.Inv.after {r : Res} (h : r.Inv) {f : State → State} (hf : ∀ s, s.Inv → (f s).Inv) : (r.after f).Inv := by
  cases r with
  | done s => exact hf s h
  | jump s _ => exact hf s h
  | halt s => exact hf s h
  | trap _ _ s => exact h
  | wait _ s => exact h

theorem settle_inv {r : Res} (h : r.Inv) (n : Nat) (y : Bool) : KeepsInv (settle n y r) := by
  cases r with
  | trap c x s => exact keepsInv_next.2 (State.Inv.trapHere h n c x)
  | done s => exact keepsInv_next.2 h
  | jump s _ => exact keepsInv_next.2 h
  | wait _ s => exact keepsInv_next.2 h
  | halt s => exact keepsInv_next.2 h

section
variable {body : State → Nat → Row → Res} (hb : BodyInv body) {s : State} (h : s.Inv)
include hb h

theorem issueWord_inv (p : Plan) (go : Row → Bool) : KeepsInv (issueWord p go body s) := by
  have hs : (if p.fp then s.draw.modRow s.cur (Row.useFp (s.draw.rowClk s.cur)) else s.draw).Inv := by simp [h]
  fun_cases issueWord p go body s
  case case9 =>
    refine settle_inv (.after (hb _ _ _ hs) fun t ht => ?_) _ _
    exact ht
  all_goals
    refine settle_inv ?_ _ _
    exact h

theorem issueQ_inv (p : Plan) (g : Guard) : KeepsInv (issueQ p g body s) := issueWord_inv hb h p _
theorem issueL_inv (p : Plan) (g : Guard) : KeepsInv (issueL p g body s) := issueWord_inv hb h p _
theorem issueAll_inv (p : Plan) : KeepsInv (issueAll p body s) := issueWord_inv hb h p _

end

end Sys2Proof.Machine
end

section
/-! SUPPORT. The invariant of memory through a row's accesses: each element performed, and the words that issue them. -/

namespace Sys2Proof.Machine

/-! ### Elements performed -/

/-- The invariant holds of the state that an operation may answer with. -/
def AllInv (o : Option State) : Prop := ∀ t, o = some t → t.Inv

@[simp] theorem allInv_none : AllInv none := fun _ e => nomatch e
@[simp] theorem allInv_some {t : State} : AllInv (some t) ↔ t.Inv :=
  ⟨fun h => h t rfl, fun h _ e => by cases e; exact h⟩

theorem AllInv.getD {o : Option State} (ho : AllInv o) {s : State} (h : s.Inv) : (o.getD s).Inv := by
  cases o with
  | none => exact h
  | some t => exact ho t rfl

theorem AllInv.bind {o : Option State} (ho : AllInv o) {f : State → Option State} (hf : ∀ t, t.Inv → AllInv (f t)) :
    AllInv (o.bind f) := by
  cases o with
  | none => exact allInv_none
  | some t => exact hf t (ho t rfl)

section
variable {s : State} (h : s.Inv)
include h

theorem State.Inv.fillLoad (d a n : Nat) : (s.fillLoad d a n).Inv := by
  unfold State.fillLoad
  split
  · exact (h.flushFor d a n).fillFor d a n
  · exact h.fillFor d a n

theorem State.Inv.acquired (n : Nat) (o : AccKind) : (s.acquired n o).Inv := by
  fun_cases State.acquired s n o
  · exact h.acquireAt _ _
  · exact h
  · exact h

theorem performLoad_inv (n id i : Nat) (ecc : Bool) : AllInv (performLoad s n id i ecc) := by
  fun_cases performLoad s n id i ecc
  all_goals simp +zetaDelta [h, State.Inv.fillLoad, State.Inv.flushFor]

theorem performStore_inv (n id i : Nat) (ecc : Bool) : AllInv (performStore s n id i ecc) := by
  fun_cases performStore s n id i ecc
  all_goals grind [allInv_none, allInv_some, inv_modRow, State.Inv.releaseAt, State.Inv.flushFor, State.Inv.storeBytes, State.Inv.defer]

theorem performAtomic_inv (n id i : Nat) (ecc : Bool) : AllInv (performAtomic s n id i ecc) := by
  fun_cases performAtomic s n id i ecc
  all_goals grind [allInv_none, allInv_some, inv_modRow, State.Inv.releaseAt, State.Inv.flushFor, State.Inv.storeBytes,
    State.Inv.codeLands, State.Inv.acquired, State.Inv.defer]

theorem performElem_inv (n id i : Nat) (ecc : Bool) : AllInv (performElem s n id i ecc) := by
  fun_cases performElem s n id i ecc
  · exact performLoad_inv h n id i ecc
  · exact performStore_inv h n id i ecc
  · exact performAtomic_inv h n id i ecc
  · exact allInv_none

end

theorem performEach_inv (n id : Nat) (l : List Nat) (s : State) (h : s.Inv) : AllInv (performEach n id l s) := by
  fun_induction performEach n id l s with
  | case1 s => exact allInv_some.2 h
  | case2 i l s _ ih => exact (performElem_inv h n id i _).bind ih
  | case3 i l s _ ih => exact ih h

section
variable {s : State} (h : s.Inv) (n : Nat)
include h

theorem performChecked_inv (id : Nat) : AllInv (performChecked s n id) := by
  fun_cases performChecked s n id
  · exact performEach_inv n id _ s h
  · exact allInv_some.2 h

theorem issueOp_inv (flag : Option Nat) (k : OpKind) : (issueOp s n flag k).Inv := by
  fun_cases issueOp s n flag k
  case case2 t e => exact performChecked_inv (s := s.modRow n _) h n _ t e
  all_goals exact h

end

/-! ### Loads and stores at issue -/

theorem loadBody_inv (g : Guard) (dst : Dst) (E : Nat) (sx : Bool) (ord : AccKind) (fs : Bool) (addr : Row → Nat → W64) :
    BodyInv (loadBody g dst E sx ord fs addr) := by
  intro s n v h
  fun_cases loadBody g dst E sx ord fs addr s n v
  · exact h
  · exact issueOp_inv h n _ _

theorem storeBody_inv (g : Guard) (d : VReg) (m : Mem) (E : Nat) (ord : AccKind) : BodyInv (storeBody g d m E ord) := by
  intro s n v h
  fun_cases storeBody g d m E ord s n v
  case case4 => exact issueOp_inv h n _ _
  case case5 => exact issueOp_inv h n _ _
  all_goals exact h

section
variable {s : State} (h : s.Inv)
include h

theorem execSld_inv (g : Guard) (d : SReg) (m : Mem) (vol fs : Bool) : KeepsInv (execSld g d m vol fs s) := by
  refine issueQ_inv (fun s n v h => ?_) h _ _
  dsimp only
  split
  · exact h
  · exact issueOp_inv h n _ _

theorem execLdm_inv (g : Guard) (d : PReg) (base : SReg) (off : BitVec 12) (fs : Bool) :
    KeepsInv (execLdm g d base off fs s) := by
  refine issueAll_inv (fun s n v h => ?_) h _
  dsimp only
  split
  · exact h
  · exact issueOp_inv h n _ _

theorem execSst_inv (g : Guard) (d : SReg) (m : Mem) (vol : Bool) : KeepsInv (execSst g d m vol s) := by
  refine issueQ_inv (fun s n v h => ?_) h _ _
  dsimp only
  split
  · exact h
  · split
    · exact h
    · exact issueOp_inv h n _ _

/-! ### Fences and ownership -/

theorem State.Inv.fenceEffect (d : Nat) (k : FKind) (sc : Sys2Proof.Scope) : (fenceEffect s d k sc).Inv := by
  cases k with
  | full => exact (h.releaseAt d sc).acquireAt d sc
  | rel => exact h.releaseAt d sc
  | acq => exact h.acquireAt d sc

end

theorem ownBody_inv (d base : SReg) (off : BitVec 12) (many : Bool) {act : State → Nat → List W64 → Res}
    (ha : ∀ s n l, s.Inv → (act s n l).Inv) : BodyInv (ownBody d base off many act) := by
  intro s n v h
  fun_cases ownBody d base off many act s n v
  case case3 => exact ha _ _ _ h
  all_goals exact h

section
variable {s : State} (h : s.Inv)
include h

theorem execOwn_inv (g : Guard) (d base : SReg) (off : BitVec 12) (many : Bool) : KeepsInv (execOwn g d base off many s) := by
  refine issueQ_inv (ownBody_inv d base off many fun s n l h => ?_) h _ _
  split
  · exact h
  · refine State.Inv.acquireAt (.foldl ?_ l h) _ _
    exact fun _ _ h => h

theorem execDisown_inv (g : Guard) (d base : SReg) (off : BitVec 12) (many : Bool) :
    KeepsInv (execDisown g d base off many s) := by
  refine issueQ_inv (ownBody_inv d base off many fun s n l h => ?_) h _ _
  split
  · exact h
  · exact State.Inv.foldl (fun s a h => by split <;> exact h) l (h.releaseAt _ _)

/-! ### Atomics at issue -/

theorem State.Inv.atomKey (n E : Nat) (o : AOrd) (a : W64) : (atomKey n E o s a).2.Inv := by
  have ht := h.translate (dieOf n) a.toNat .atomic
  fun_cases Machine.atomKey n E o s a <;> grind

end

theorem State.Inv.atomKeys (n E : Nat) (o : AOrd) (l : List W64) {s : State} (h : s.Inv) : (atomKeys n E o s l).2.Inv := by
  induction l generalizing s with
  | nil => exact h
  | cons a l ih => grind [Machine.atomKeys, State.Inv.atomKey]

theorem atomBody_inv (fn : AFn) (E : Nat) (o : AOrd) (dst : Dst) (ret : Bool) (flag : Option Nat) (passes : Nat)
    (lanes : List (Nat × W64 × W64 × W64)) {s : State} (h : s.Inv) (n : Nat) :
    (atomBody fn E o dst ret flag passes lanes s n).Inv := by
  have hk := h.atomKeys n E o (lanes.map (fun l => l.2.1))
  fun_cases atomBody fn E o dst ret flag passes lanes s n
  all_goals grind [Res.Inv, issueOp_inv]

end Sys2Proof.Machine
end

section
/-! SUPPORT. The invariant of memory through the words that change nothing but their row, and through ports, circular buffers,
barriers and groups. -/

namespace Sys2Proof.Machine

/-! ### Words of the row alone -/

section
variable {s : State} (h : s.Inv)
include h

theorem scalarTo_inv (g : Guard) (d : SReg) (f : Row → W64) : KeepsInv (scalarTo g d f s) := issueQ_inv (onRow_inv _) h _ g
theorem vectorTo_inv (p : Plan) (g : Guard) (d : VReg) (f : Row → Nat → W32) : KeepsInv (vectorTo p g d f s) :=
  issueL_inv (onRow_inv _) h _ g
theorem floatTo_inv (p : Plan) (g : Guard) (d : VReg) (f : Row → Nat → W32 × Flags) : KeepsInv (floatTo p g d f s) :=
  issueL_inv (onRow_inv _) h _ g

theorem execSalu_inv (g : Guard) (op : SaluOp) (d a b : SReg) : KeepsInv (execSalu g op d a b s) := by
  refine issueQ_inv (fun s n v h => ?_) h _ g
  dsimp only
  split <;> exact h

theorem execSmovv_inv (g : Guard) (d : SReg) (a : VReg) (m : Amod) (b : SReg) (first sx : Bool) :
    KeepsInv (execSmovv g d a m b first sx s) := by
  refine issueQ_inv (fun s n v h => ?_) h _ g
  dsimp only
  split
  · exact h
  · split <;> exact h

theorem execVfclassTrap_inv (g : Guard) (t : FTy) (k : Half) (a : VReg) (m : Amod) (b : SReg) :
    KeepsInv (execVfclassTrap g t k a m b s) := by
  refine issueL_inv (fun s n v h => ?_) h _ g
  split <;> exact h

theorem execPlop_inv (g : Guard) (q : Bool) (fn : BitVec 4) (d a b : PReg) : KeepsInv (execPlop g q fn d a b s) := by
  unfold execPlop
  split
  · exact issueQ_inv (onRow_inv _) h _ g
  · exact issueL_inv (onRow_inv _) h _ g

theorem execPmov_inv (g : Guard) (f : PmovForm) : KeepsInv (execPmov g f s) := by
  cases f with
  | pv | vp | pp => exact issueL_inv (onRow_inv _) h _ g
  | qs | sq | qq | get | set | any | all => exact issueQ_inv (onRow_inv _) h _ g

end

theorem csrBody_inv (c : Csr) (m : CsrMode) (a : SReg) (d : Option SReg) : BodyInv (csrBody c m a d) := by
  intro s n v h
  fun_cases csrBody c m a d s n v <;> exact h

/-! ### Control flow -/

section
variable {s : State} (h : s.Inv)
include h

theorem resumed_inv (n : Nat) (r : Row) : (resumed s n r).Inv := by
  fun_cases resumed s n r <;> exact h

theorem callTo_inv (n : Nat) (t : Va) : (callTo s n t).Inv := by
  fun_cases callTo s n t <;> exact h

theorem branch_inv (n : Nat) (t : Va) : (branch s n t).Inv := h

theorem execEmset_inv (g : Guard) (a : PReg) : KeepsInv (execEmset g a s) := by
  refine issueL_inv (fun s n v h => ?_) h _ g
  dsimp only
  split
  · exact resumed_inv h n _
  · exact h

theorem execBr_inv (g : Guard) (c : BrCond) (pr : PReg) (off : BitVec 33) : KeepsInv (execBr g c pr off s) := by
  refine issueQ_inv (fun s n v h => ?_) h _ g
  split <;> exact h

theorem execBrv_inv (g : Guard) (pr : PReg) (neg : Bool) (off : BitVec 33) : KeepsInv (execBrv g pr neg off s) := by
  refine issueL_inv (fun s n v h => ?_) h _ g
  dsimp only
  repeat' split
  all_goals exact h

theorem execJoin_inv (g : Guard) (off : BitVec 33) : KeepsInv (execJoin g off s) := by
  refine issueQ_inv (fun s n v h => ?_) h _ g
  dsimp only
  repeat' split
  case h_1 => exact resumed_inv h n _
  all_goals exact h

theorem leaveLoop_inv (g : Guard) (pr : PReg) (neg : Bool) (f : Mask → Token → Token) : KeepsInv (leaveLoop g pr neg f s) := by
  refine issueL_inv (fun s n v h => ?_) h _ g
  dsimp only
  grind [Res.Inv, resumed_inv, inv_setRow]

theorem execLoops_inv (g : Guard) (off : BitVec 33) : KeepsInv (execLoops g off s) := by
  refine issueQ_inv (fun s n v h => ?_) h _ g
  dsimp only
  split <;> exact h

theorem execCall_inv (g : Guard) (off : BitVec 33) : KeepsInv (execCall g off s) :=
  issueQ_inv (fun _ n _ h => callTo_inv h n _) h _ g

theorem execRet_inv (g : Guard) : KeepsInv (execRet g s) := by
  refine issueQ_inv (fun s n v h => ?_) h _ g
  dsimp only
  repeat' split
  all_goals exact h

theorem execJmpr_inv (g : Guard) (a : SReg) : KeepsInv (execJmpr g a s) := by
  refine issueQ_inv (fun s n v h => ?_) h _ g
  dsimp only
  split <;> exact h

theorem execJmprCall_inv (g : Guard) (a : SReg) : KeepsInv (execJmprCall g a s) := by
  refine issueQ_inv (fun s n v h => ?_) h _ g
  dsimp only
  split
  · exact callTo_inv h n _
  · exact h

theorem execLexit_inv (g : Guard) : KeepsInv (execLexit g s) := by
  refine issueL_inv (fun s n v h => ?_) h _ g
  dsimp only
  repeat' split
  case isFalse.isTrue => exact resumed_inv h n _
  all_goals exact h

end

/-! ### Circular buffers -/

theorem bufInstr_inv (g : Guard) (die : BitVec 2) (buf : BitVec 6) (producer : Bool) (hold : Row → Bool)
    {body : State → Nat → Row → CBuf → Res} (hb : ∀ s n v c, s.Inv → (body s n v c).Inv) {s : State} (h : s.Inv) :
    KeepsInv (bufInstr g die buf producer hold body s) := by
  refine issueQ_inv (fun s n v h => ?_) h _ g
  split
  · exact h
  · exact hb _ _ _ _ h

section
variable {s : State} (h : s.Inv)
include h

theorem execCbacq_inv (g : Guard) (a b : SReg) (die : BitVec 2) (buf : BitVec 6) : KeepsInv (execCbacq g a b die buf s) := by
  refine bufInstr_inv g die buf _ _ (fun s n v c h => ?_) h
  grind [Res.Inv, inv_modRow, inv_setBuf, State.Inv.acquireAt]

theorem execCbrel_inv (g : Guard) (a : SReg) (die : BitVec 2) (buf : BitVec 6) : KeepsInv (execCbrel g a die buf s) := by
  refine bufInstr_inv g die buf _ _ (fun s n v c h => ?_) h
  grind [Res.Inv, inv_setBuf, State.Inv.releaseAt]

theorem execCbpub_inv (g : Guard) (a b : SReg) (fin : Bool) (die : BitVec 2) (buf : BitVec 6) :
    KeepsInv (execCbpub g a b fin die buf s) := by
  refine bufInstr_inv g die buf _ _ (fun s n v c h => ?_) h
  grind [Res.Inv, inv_setBuf, State.Inv.releaseAt]

theorem execCbpubGet_inv (g : Guard) (a : SReg) (die : BitVec 2) (buf : BitVec 6) :
    KeepsInv (execCbpubGet g a die buf s) := by
  refine bufInstr_inv g die buf _ _ (fun s n v c h => ?_) h
  grind [Res.Inv, inv_modRow, inv_setBuf, State.Inv.acquireAt]

/-! ### Ports and edges -/

theorem State.Inv.pushSouth (n : Nat) (es : List PEntry) : (s.pushSouth n es).Inv := by
  fun_cases State.pushSouth s n es
  case case4 => exact h.defer n _ _
  all_goals exact h

theorem State.Inv.sealSouth (n : Nat) : (s.sealSouth n).Inv := by
  fun_cases State.sealSouth s n <;> exact h

theorem State.Inv.dropNorth (n k : Nat) : (s.dropNorth n k).Inv := by
  fun_cases State.dropNorth s n k
  case case2 => exact State.Inv.releaseAt (s := s.modRow n _) h _ _
  all_goals exact h

theorem State.Inv.releaseSouth (n : Nat) : (s.releaseSouth n).Inv := h.releaseAt _ _
theorem State.Inv.acquireNorth (n : Nat) : (s.acquireNorth n).Inv := h.acquireAt _ _

theorem State.Inv.popInto (n : Nat) (v : Row) (g : Guard) (d : VReg) (pv : PReg) (k : Nat) :
    (popInto s n v g d pv k).Inv := by
  fun_cases Machine.popInto s n v g d pv k
  · exact h
  · exact State.Inv.acquireNorth (.dropNorth (s := s.modRow n _) h n k) n

theorem execPwr_inv (g : Guard) (a : VReg) (m : Amod) : KeepsInv (execPwr g a m s) := by
  refine issueAll_inv (fun s n v h => ?_) h _
  grind [Res.Inv, State.Inv.releaseSouth, State.Inv.pushSouth]

theorem execPrd_inv (g : Guard) (d : VReg) (pv : PReg) : KeepsInv (execPrd g d pv s) := by
  refine issueAll_inv (fun s n v h => ?_) h _
  grind [Res.Inv, State.Inv.popInto]

theorem execPrdn_inv (g : Guard) (d : VReg) (pv qt qs : PReg) : KeepsInv (execPrdn g d pv qt qs s) := by
  refine issueAll_inv (fun s n v h => ?_) h _
  grind [Res.Inv, State.Inv.popInto, inv_modRow]

theorem execPseal_inv (g : Guard) : KeepsInv (execPseal g s) := by
  refine issueQ_inv (fun s n v h => ?_) h _ g
  split
  · exact h
  · exact h.sealSouth n

theorem execPxfer_inv (g : Guard) (qs : PReg) (n : BitVec 5) : KeepsInv (execPxfer g qs n s) := by
  refine issueQ_inv (fun s i v h => ?_) h _ g
  grind [Res.Inv, inv_modRow, State.Inv.dropNorth, State.Inv.acquireNorth, State.Inv.releaseSouth, State.Inv.pushSouth,
    State.Inv.sealSouth]

theorem execPortWaitEnd_inv (n : Nat) : KeepsInv (execPortWaitEnd n s) := by
  fun_cases execPortWaitEnd n s
  · exact keepsInv_next.2 (h.takeDue n)
  · exact keepsInv_next.2 h
  · exact keepsInv_next.2 h

theorem execPortStarved_inv (n : Nat) : KeepsInv (execPortStarved n s) := by
  fun_cases execPortStarved n s <;> simp [h]

theorem State.Inv.edgeSouth (n b : Nat) : (edgeSouth s n b).Inv := by
  fun_cases Machine.edgeSouth s n b
  all_goals grind [inv_modRow, inv_setBuf, State.Inv.setBytes, State.Inv.releaseAt, State.Inv.acquireAt]

theorem State.Inv.edgeNorth (n b : Nat) : (edgeNorth s n b).Inv := by
  fun_cases Machine.edgeNorth s n b
  all_goals grind [inv_modRow, inv_setBuf, State.Inv.releaseAt, State.Inv.acquireAt]

theorem execCbEdgeTransfer_inv (n : Nat) (south : Bool) : KeepsInv (execCbEdgeTransfer n south s) := by
  fun_cases execCbEdgeTransfer n south s
  case case2 b _ =>
    cases south
    · exact keepsInv_next.2 (h.edgeNorth n b)
    · exact keepsInv_next.2 (h.edgeSouth n b)
  all_goals exact keepsInv_next.2 h

/-! ### Groups and placements -/

theorem State.Inv.endTransfers (pl : Nat) (g : BitVec 8) (keep : Option Nat) : (s.endTransfers pl g keep).Inv := by
  unfold State.endTransfers
  refine State.Inv.foldl (fun s d h => ?_) _ h
  exact h

theorem State.Inv.laggard (p : Pl) (g : Group) : (s.laggard p g).1.Inv := by
  fun_cases State.laggard s p g
  all_goals grind [State.transfer, inv_modDom, State.Inv.endTransfers]

theorem State.Inv.settleGroup (p : Pl) (g : Group) : (s.settleGroup p g).Inv := by
  have := h.laggard p g
  fun_cases State.settleGroup s p g <;> grind [inv_setPl]

theorem State.Inv.arrive (n : Nat) (p : Pl) (g : Group) (o : BarOp) (v : W32) (bar : Option Va) :
    (s.arrive n p g o v bar).Inv := (h.releaseAt _ _).settleGroup p _

theorem State.Inv.leaveGroup (n pl g : Nat) : (s.leaveGroup n pl g).Inv := by
  fun_cases State.leaveGroup s n pl g
  case case4 => exact h.settleGroup _ _
  all_goals exact h

theorem State.Inv.wake : s.wake.Inv := by
  refine State.Inv.foldl (fun s p h => ?_) _ h
  repeat' split
  all_goals exact h

theorem State.Inv.enterQueues : s.enterQueues.Inv := by
  refine List.foldlRecOn (motive := fun acc : State × List (Nat × Nat) => acc.1.Inv) _ _ h fun acc h p _ => ?_
  dsimp only
  split
  · refine State.Inv.foldl (fun s q h => ?_) _ (s := acc.1.setPl _) h
    exact h
  · exact h

theorem State.Inv.pump : s.pump.Inv := h.wake.enterQueues

theorem State.Inv.releaseEarly (num : Nat) : (s.releaseEarly num).Inv := by
  fun_cases State.releaseEarly s num
  case case2 => exact State.Inv.pump (s := s.setPl _) h
  all_goals exact h

/-! ### Barriers, triggers and waits for flags -/

theorem barWait_inv (n : Nat) (p : Pl) (g : Group) (d : SReg) (fin : Row → Row) : (barWait s n p g d fin).Inv := by
  fun_cases barWait s n p g d fin
  case case2 => exact State.Inv.acquireAt (s := s.setPl _) h _ _
  all_goals exact h

theorem execBar_inv (g : Guard) (d b : SReg) (op : BarOp) (grp : BitVec 8) : KeepsInv (execBar g d b op grp s) := by
  refine issueWord_inv (fun s n v h => ?_) h _ _
  grind [Res.Inv, barWait_inv, resumed_inv, State.Inv.arrive]

theorem execBara_inv (g : Guard) (b : SReg) (op : BarOp) (grp : BitVec 8) : KeepsInv (execBara g b op grp s) := by
  refine issueQ_inv (fun s n v h => ?_) h _ g
  grind [Res.Inv, State.Inv.arrive]

theorem execBarw_inv (g : Guard) (d : SReg) (grp : BitVec 8) : KeepsInv (execBarw g d grp s) := by
  refine issueQ_inv (fun s n v h => ?_) h _ g
  grind [Res.Inv, barWait_inv]

theorem execTrig_inv (g : Guard) : KeepsInv (execTrig g s) := by
  refine issueQ_inv (fun s n v h => ?_) h _ g
  grind [Res.Inv, inv_modRow, State.Inv.releaseAt, State.Inv.releaseEarly]

theorem execFlwait_inv (g : Guard) (all : Bool) (mask : BitVec 12) : KeepsInv (execFlwait g all mask s) := by
  refine issueQ_inv (fun s n v h => ?_) h _ g
  split <;> exact h

end
end Sys2Proof.Machine
end

section
/-! SUPPORT. The invariant of memory through the matrix array and its images, the Mangle, what happens to a row between its
instructions, and the system instructions. -/

namespace Sys2Proof.Machine

/-! ### The matrix array -/

theorem whenRunning_inv {body : State → Nat → Row → Res} (hb : BodyInv body) : BodyInv (whenRunning body) := by
  intro s n v h
  fun_cases whenRunning body s n v
  case case3 => exact hb _ _ _ h
  all_goals exact h

section
variable {s : State} (h : s.Inv)
include h

theorem execWld_inv (g : Guard) (a : VReg) (n : BitVec 8) (fmt : BitVec 3) (sa : Bool) (ss : SReg) (fs : Bool) :
    KeepsInv (execWld g a n fmt sa ss fs s) := by
  refine issueQ_inv (whenRunning_inv fun s n v h => ?_) h _ g
  dsimp only
  split
  · exact h
  · split <;> exact h

theorem execWswap_inv (g : Guard) : KeepsInv (execWswap g s) := by
  refine issueQ_inv (whenRunning_inv fun s n v h => ?_) h _ g
  dsimp only
  repeat' split
  all_goals exact h

theorem execMmac_inv (g : Guard) (f : MmacF) : KeepsInv (execMmac g f s) := by
  refine issueQ_inv (whenRunning_inv fun s n v h => ?_) h _ g
  dsimp only
  repeat' split
  all_goals exact h

theorem execAccwr_inv (g : Guard) (d : VReg) (a : SReg) (k : BitVec 2) (e : BitVec 7) : KeepsInv (execAccwr g d a k e s) := by
  refine issueL_inv (fun s n v h => ?_) h _ g
  dsimp only
  split <;> exact h

theorem State.Inv.fillOperand (d a n : Nat) : (s.fillOperand d a n).Inv :=
  State.Inv.foldl (fun _ _ h => h.fillLoad d _ _) _ h

theorem State.Inv.vectorOperand (n : Nat) (id : Option Nat) (f : MmacF) (sA sB sc : W64) (j : Nat) :
    (vectorOperand s n id f sA sB sc j).2.2.Inv := by
  have hf : ((List.range (blockBytes f.fmt.toNat / 32)).foldl
      (fun s c => s.fillOperand (dieOf n) (blockAddr sA sB j (32 * c)) 32) s).Inv :=
    State.Inv.foldl (fun _ _ h => h.fillOperand _ _ _) _ h
  fun_cases Machine.vectorOperand s n id f sA sB sc j
  all_goals grind [inv_draw, State.Inv.fillOperand]

theorem execVectorEnter_inv (n : Nat) : KeepsInv (execVectorEnter n s) := by
  fun_cases execVectorEnter n s
  all_goals grind [keepsInv_next, inv_modRow, State.Inv.vectorOperand, State.Inv.dropNorth, State.Inv.acquireNorth]

theorem State.Inv.endMmac (n seq : Nat) : (s.endMmac n seq).Inv := by
  fun_cases State.endMmac s n seq <;> exact h

theorem execVectorWrite_writeVector_inv (n : Nat) (x : VecFlight) (xs : List VecFlight) :
    (execVectorWrite.writeVector s n x xs).Inv := by
  fun_cases execVectorWrite.writeVector s n x xs
  grind [inv_modRow, State.Inv.endMmac, State.Inv.releaseSouth, State.Inv.pushSouth]

theorem execVectorWrite_inv (n : Nat) : KeepsInv (execVectorWrite n s) := by
  have hf : ∀ (l : List Nat) (t : State), t.Inv → (l.foldl (fun s q => s.endMmac n q) t).Inv :=
    fun l t ht => State.Inv.foldl (fun _ _ h => h.endMmac n _) l ht
  fun_cases execVectorWrite n s
  all_goals grind [keepsInv_next, inv_modRow, execVectorWrite_writeVector_inv, State.Inv.releaseSouth, State.Inv.pushSouth]

theorem execSwapPoint_inv (n : Nat) : KeepsInv (execSwapPoint n s) := by
  fun_cases execSwapPoint n s <;> exact keepsInv_next.2 h

theorem execShadowFillStart_inv (n : Nat) : KeepsInv (execShadowFillStart n s) := by
  fun_cases execShadowFillStart n s <;> exact keepsInv_next.2 h

theorem State.Inv.wldStep (n : Nat) (o : Op) (ecc : Bool) : (wldStep s n o ecc).Inv := by
  have hf : ∀ (l : List Nat), (l.foldl (fun s a => s.fillOperand (dieOf n) a 32) s).Inv :=
    fun l => State.Inv.foldl (fun _ _ h => h.fillOperand _ _ _) l h
  fun_cases Machine.wldStep s n o ecc
  all_goals grind [inv_modRow, inv_draw, State.Inv.fillOperand, State.Inv.defer]

theorem execArrayPortStop_inv (n : Nat) (ecc : Option Nat) : KeepsInv (execArrayPortStop n ecc s) := by
  fun_cases execArrayPortStop n ecc s <;> simp [h]

theorem execArrayWatchdog_inv (n : Nat) : KeepsInv (execArrayWatchdog n s) := by
  fun_cases execArrayWatchdog n s <;> simp [h]

/-! ### Array images (R197) -/

theorem imageInstr_inv (g : Guard) (a : SReg) (stores : Bool) {act : State → Nat → Nat → Res}
    (ha : ∀ s n x, s.Inv → (act s n x).Inv) : KeepsInv (imageInstr g a stores act s) := by
  refine issueQ_inv (fun s n v h => ?_) h _ g
  dsimp only
  repeat' split
  case h_2.isFalse.isFalse.isFalse.isFalse => exact (ha _ _ _ h).after fun _ ht => ht
  all_goals exact h

theorem State.Inv.endSpent (n : Nat) : (s.endSpent n).Inv := by
  unfold State.endSpent
  split
  · exact State.Inv.foldl (fun _ _ h => h.endMmac n _) _ h
  · exact h

theorem State.Inv.loadImage (n : Nat) (get : Nat → W8) : (s.loadImage n get).Inv :=
  State.Inv.endSpent (s := s.modRow n _) h n

theorem State.Inv.drainBytes (n x k : Nat) : (s.drainBytes n x k).Inv := h.storeBytes n _ true x _

theorem execMdrain_inv (g : Guard) (a : SReg) : KeepsInv (execMdrain g a s) :=
  imageInstr_inv h g a true fun _ n x h => h.drainBytes n x imageSize

theorem State.Inv.abandonDrain (n k : Nat) : (s.abandonDrain n k).Inv := by
  fun_cases State.abandonDrain s n k
  case case1 t e =>
    refine imageInstr_inv (s := { s with cur := n }) h _ _ true (fun s n x h => ?_) t e
    exact h.drainBytes n x _
  all_goals exact h

theorem execMfill_inv (g : Guard) (a : SReg) : KeepsInv (execMfill g a s) := by
  refine imageInstr_inv h g a false fun s n x h => ?_
  dsimp only
  split
  · exact h
  · exact h.loadImage n _

/-! ### The Mangle -/

theorem execPeg_inv (g : Guard) (a b c : SReg) (flag : BitVec 4) (act : Bool) (i : BitVec 4) :
    KeepsInv (execPeg g a b c flag act i s) := by
  refine issueQ_inv (fun s n v h => ?_) h _ g
  grind [Res.Inv, inv_modRow]

theorem execUnpeg_inv (g : Guard) (mask : BitVec 16) : KeepsInv (execUnpeg g mask s) := by
  refine issueQ_inv (fun s n v h => ?_) h _ g
  dsimp only
  split <;> exact h

theorem execPegw_inv (g : Guard) (a : SReg) (i : BitVec 4) (fs : Bool) : KeepsInv (execPegw g a i fs s) := by
  refine issueQ_inv (fun s n v h => ?_) h _ g
  split <;> exact h

theorem execRevolutionStart_inv : KeepsInv (execRevolutionStart s) := by
  fun_cases execRevolutionStart s <;> exact keepsInv_next.2 h

theorem State.Inv.feedIdle : s.feedIdle.Inv := by
  fun_cases State.feedIdle s <;> exact h

theorem execFeederInsert_inv (ecc : Bool) : KeepsInv (execFeederInsert ecc s) := by
  fun_cases execFeederInsert ecc s
  all_goals grind [keepsInv_next, inv_modRing, inv_draw, inv_raise, State.Inv.feedIdle]

theorem State.Inv.pegTest (t : List W8) (bad : Bool) (n i : Nat) : (pegTest t bad n i s).Inv := by
  fun_cases Machine.pegTest t bad n i s
  case case4 => exact h.defer n _ _
  all_goals exact h

theorem State.Inv.passDie (t : List W8) (bad : Bool) (d : Nat) : (passDie t bad d s).Inv := by
  unfold Machine.passDie
  split
  · exact h
  · refine State.Inv.foldl (fun s k h => ?_) _ h
    dsimp only
    split
    · exact h
    · exact State.Inv.foldl (fun _ i h => h.pegTest t bad _ i) _ h

theorem State.Inv.passed (d : Nat) : (s.passed d).Inv := by
  fun_cases State.passed s d <;> exact h

theorem State.Inv.farStations (d idx : Nat) (rev : W32) : (s.farStations d idx rev).Inv := by
  refine State.Inv.foldl (fun t u h => ?_) _ h
  split <;> exact h

theorem execTilePass_inv (d : Nat) (bad : Bool) : KeepsInv (execTilePass d bad s) := by
  fun_cases execTilePass d bad s
  all_goals grind [keepsInv_next, inv_modDie, State.Inv.passed, State.Inv.passDie, State.ringError, inv_raise, State.Inv.farStations]

end

theorem State.Inv.land (n i a : Nat) (l : List W8) {s : State} (h : s.Inv) : (s.land n i a l).Inv := by
  induction l generalizing s a with
  | nil => exact h
  | cons b l ih => exact ih (a + 1) (State.Inv.setByte (s := s.modRow n _) h a b)

section
variable {s : State} (h : s.Inv)
include h

theorem execPegFireComplete_inv (n i : Nat) : KeepsInv (execPegFireComplete n i s) := by
  fun_cases execPegFireComplete n i s
  all_goals grind [keepsInv_next, inv_modRow, inv_draw, State.Inv.land]

theorem execRingWatchdog_inv (n i : Nat) : KeepsInv (execRingWatchdog n i s) := by
  fun_cases execRingWatchdog n i s <;> simp [h]

theorem execCommitPoint_inv : KeepsInv (execCommitPoint s) := by
  fun_cases execCommitPoint s <;> simp [h]

/-! ### Between a row's instructions -/

theorem State.Inv.reenter (n : Nat) : (s.reenter n).Inv := by
  fun_cases State.reenter s n
  all_goals grind [inv_modRow, State.Inv.fetchClause, State.Inv.trapHere]

theorem execClauseIssue_inv (n : Nat) : KeepsInv (execClauseIssue n s) := by
  fun_cases execClauseIssue n s
  all_goals grind [keepsInv_next, inv_modRow, inv_waitFor, State.Inv.reenter, State.Inv.fetchClause, State.Inv.trapHere,
    State.Inv.takeDeferred]

theorem State.Inv.opStep (n : Nat) (o : Op) (sel : Nat) (ecc : Bool) : (opStep s n o sel ecc).Inv := by
  fun_cases Machine.opStep s n o sel ecc
  all_goals grind [inv_modRow, inv_setRow, State.Inv.acquired, AllInv.getD, performLoad_inv, State.Inv.fenceEffect,
    State.Inv.wldStep, State.Inv.acquireAt]

theorem execOperationComplete_inv (n id sel : Nat) (ecc : Bool) : KeepsInv (execOperationComplete n id sel ecc s) := by
  fun_cases execOperationComplete n id sel ecc s
  · exact keepsInv_next.2 (h.opStep n _ sel ecc)
  · exact keepsInv_next.2 h

/-! ### System instructions -/

theorem execTrap_inv (g : Guard) (code : BitVec 16) : KeepsInv (execTrap g code s) := by
  refine issueQ_inv (fun s n v h => ?_) h _ g
  exact h.trap n _ _ _ _

theorem State.Inv.eret (n : Nat) : (s.eret n).Inv := by
  fun_cases State.eret s n
  all_goals grind [inv_modRow, State.Inv.fetchClause]

theorem execEret_inv (g : Guard) : KeepsInv (execEret g s) := by
  refine issueQ_inv (fun s n v h => ?_) h _ g
  split
  · exact h.eret n
  · exact h

theorem execIdem_inv (g : Guard) (m : SReg) : KeepsInv (execIdem g m s) := by
  refine issueQ_inv (fun s n v h => ?_) h _ g
  dsimp only
  repeat' split
  all_goals exact h

theorem execIdend_inv (g : Guard) : KeepsInv (execIdend g s) := by
  refine issueQ_inv (fun s n v h => ?_) h _ g
  split <;> exact h

end
end Sys2Proof.Machine
end

section
/-! SUPPORT. The invariant of memory through the copy engines: faults, reads and writes in pieces, and each command. -/

namespace Sys2Proof.Machine

/-! ### Faults, reads and writes -/

section
variable {s : State} (h : s.Inv)
include h

theorem State.Inv.tellRow (n d e : Nat) : (s.tellRow n d e).Inv := by
  refine State.Inv.foldl (fun s o h => ?_) _ h
  repeat' split
  case h_1.isTrue => exact State.Inv.defer (s := s.modRow n _) h n _ _
  all_goals exact h

theorem State.Inv.tellAll (d e : Nat) : (s.tellAll d e).Inv := State.Inv.foldl (fun _ x h => h.tellRow x.1 d e) _ h

theorem State.Inv.untell (d e : Nat) : (s.untell d e).Inv := h

theorem State.Inv.codeSettled (d e : Nat) : (s.codeSettled d e).Inv := by
  fun_cases State.codeSettled s d e
  · exact h.codeDone _
  · exact h

theorem State.Inv.engFault (d e cause : Nat) (a : W64) : (s.engFault d e cause a).Inv := by
  refine State.Inv.tellAll ?_ d e
  exact h.codeSettled d e

theorem State.Inv.piece (d e n : Nat) : (s.piece d e n).Inv := h

theorem State.Inv.engKey (d e u : Nat) (a : W64) (use : Use) : (s.engKey d e u a use).2.Inv :=
  h.same (engKey_mem s d e u a use).1 (engKey_mem s d e u a use).2

end

/-- The invariant holds of the state that a write comes to, where it does not fail. -/
def OkInv {ε : Type} (x : Except ε State) : Prop := ∀ t, x = .ok t → t.Inv

theorem OkInv.map {ε : Type} {x : Except ε State} (hx : OkInv x) {f : State → State} (hf : ∀ t, t.Inv → (f t).Inv) :
    OkInv (x.map f) := by
  cases x with
  | error _ => exact fun _ e => nomatch e
  | ok t => exact fun _ e => by cases e; exact hf t (hx t rfl)

section
variable {s : State} (h : s.Inv)
include h

theorem engWrite_inv (d e u : Nat) (a : W64) (bs : List W8) : OkInv (s.engWrite d e u a bs) := fun _ => h.engWrite d e u a bs

theorem State.Inv.engDo (d e : Nat) {x : Except (Nat × W64) State} (hx : OkInv x) : (engDo s d e x).Inv := by
  cases x with
  | ok t => exact hx t rfl
  | error x => exact h.engFault d e x.1 x.2

/-- A write of an engine and what follows it. -/
theorem State.Inv.engWriteThen (d e u : Nat) (a : W64) (bs : List W8) {f : State → State} (hf : ∀ t, t.Inv → (f t).Inv)
    {t : State} (ht : t.Inv) : (Machine.engDo t d e ((s.engWrite d e u a bs).map f)).Inv :=
  ht.engDo d e ((engWrite_inv h d e u a bs).map hf)

/-! ### The words that drive an engine -/

theorem ctail_inv (g : Guard) {f : State → Nat → Row → Res} (hf : BodyInv f) : KeepsInv (ctail g f s) := by
  refine issueQ_inv (fun s n v h => ?_) h _ g
  split
  · exact h
  · exact hf _ _ _ (h.releaseAt _ _)

theorem execDesc_inv (g : Guard) (a b : SReg) : KeepsInv (execDesc g a b s) := by
  refine issueQ_inv (fun s n v h => ?_) h _ g
  grind [Res.Inv, inv_draw, inv_modJob, State.Inv.fillFor]

theorem execCtail_inv (g : Guard) (a : SReg) (die : BitVec 2) (eng : BitVec 3) : KeepsInv (execCtail g a die eng s) :=
  ctail_inv h g fun _ _ _ h => h

theorem execCtailRetry_inv (g : Guard) (die : BitVec 2) (eng : BitVec 3) : KeepsInv (execCtailRetry g die eng s) := by
  refine ctail_inv h g fun s n v h => ?_
  dsimp only
  split <;> exact h

theorem execCtailSkip_inv (g : Guard) (die : BitVec 2) (eng : BitVec 3) : KeepsInv (execCtailSkip g die eng s) := by
  refine ctail_inv h g fun s n v h => ?_
  dsimp only
  split <;> exact h

theorem execCtailStart_inv (g : Guard) (a b : SReg) (die : BitVec 2) (eng : BitVec 3) :
    KeepsInv (execCtailStart g a b die eng s) := by
  refine ctail_inv h g fun s n v h => ?_
  dsimp only
  split <;> exact h

theorem execCwait_inv (g : Guard) (b : SReg) (die : BitVec 2) (eng : BitVec 3) (fs : Bool) :
    KeepsInv (execCwait g b die eng fs s) := by
  refine issueQ_inv (fun s n v h => ?_) h _ g
  split
  · exact h
  · exact State.Inv.tellRow (s := s.modRow n _) h n _ _

/-! ### A command's beginning, its pieces and its end -/

theorem execEngineCommandStart_inv (d e : Nat) (ecc : Bool) : KeepsInv (execEngineCommandStart d e ecc s) := by
  have hr := (h.acquireAt d .device).engRead d e d (s.eng d e).head 128 ecc
  fun_cases execEngineCommandStart d e ecc s
  all_goals grind [keepsInv_next, inv_setEng, State.Inv.engFault, State.Inv.acquireAt]

theorem execEngineCommandComplete_inv (d e : Nat) : KeepsInv (execEngineCommandComplete d e s) := by
  fun_cases execEngineCommandComplete d e s
  all_goals grind [keepsInv_next, inv_setEng, State.Inv.codeSettled, State.Inv.releaseAt]

theorem engStep_inv (kind d e : Nat) {f : State → Engine → Cmd → State} (hf : ∀ s g c, s.Inv → (f s g c).Inv) :
    KeepsInv (engStep kind d e f s) := by
  fun_cases engStep kind d e f s
  · exact keepsInv_next.2 (hf _ _ _ h)
  · exact keepsInv_next.2 h
  · exact keepsInv_next.2 h

end

theorem State.Inv.unitStep (d e : Nat) (at_ : Cmd → W64) {f : State → Cmd → State} (hf : ∀ s c, s.Inv → (f s c).Inv)
    (k : Nat) (s : State) (h : s.Inv) : (unitStep d e at_ f k s).Inv := by
  fun_induction Machine.unitStep d e at_ f k s with
  | case4 s k c hc s1 c1 h1 hcond ih => exact ih (hf _ _ h)
  | _ => first | exact h | exact hf _ _ h

theorem State.Inv.copyKeys (d e n : Nat) (a b : W64) (s : State) (h : s.Inv) : (s.copyKeys d e n a b).2.2.Inv := by
  induction n generalizing s a b with
  | zero => exact h
  | succ n ih => grind [State.copyKeys, State.Inv.engKey]

section
variable {s : State} (h : s.Inv)
include h

theorem boxStep_inv (kind d e : Nat) {f : State → Cmd → State} (hf : ∀ s c, s.Inv → (f s c).Inv) :
    KeepsInv (boxStep kind d e f s) := by
  unfold boxStep
  exact engStep_inv h kind d e fun s g c h => State.Inv.unitStep d e _ hf 8 s h

/-! ### Data commands -/

theorem execCopy_inv (d e : Nat) (ecc : Bool) : KeepsInv (execCopy d e ecc s) := by
  refine engStep_inv h 1 d e fun s g c h => ?_
  grind [inv_modCmd, State.Inv.copyKeys, State.Inv.engPut, State.Inv.engFault]

theorem State.Inv.moveElem (d e : Nat) (ecc : Bool) (c : Cmd) (p q : Desc) (src : List Nat → List Nat) :
    (moveElem d e ecc s c p q src).Inv := by
  have hr := h.engRead d e d (p.byteAddr (src (q.at_ c.pos).1) (q.at_ c.pos).2) q.piece (s.badRead ecc (2 * c.pos))
  fun_cases Machine.moveElem d e ecc s c p q src
  all_goals grind [State.Inv.engFault, State.Inv.engWriteThen, State.Inv.piece]

theorem execTile_inv (d e : Nat) (ecc : Bool) : KeepsInv (execTile d e ecc s) :=
  boxStep_inv h 2 d e fun _ c h => h.moveElem d e ecc c _ _ _

theorem execGather_inv (d e : Nat) (ecc : Bool) : KeepsInv (execGather d e ecc s) := by
  refine boxStep_inv h 3 d e fun s c h => ?_
  grind [inv_modCmd, State.Inv.engRead, State.Inv.engFault, State.Inv.moveElem]

theorem execTranspose_inv (d e : Nat) (ecc : Bool) : KeepsInv (execTranspose d e ecc s) :=
  boxStep_inv h 4 d e fun _ c h => h.moveElem d e ecc c _ _ _

theorem execFill_inv (d e : Nat) : KeepsInv (execFill d e s) :=
  boxStep_inv h 5 d e fun _ _ h => h.engWriteThen d e _ _ _ (fun _ ht => ht.piece d e _) h

/-! ### Paired commit (R282) -/

theorem State.Inv.commitRead (d e : Nat) (c : Cmd) (k : Nat) (ecc : Bool) : (commitRead s d e c k ecc).2.Inv := by
  fun_cases Machine.commitRead s d e c k ecc
  all_goals grind [State.Inv.engRead]

end

theorem State.Inv.commitCheck (d e : Nat) (c : Cmd) (ecc : Bool) (k : Nat) (l : List (List W8)) (s : State) (h : s.Inv) :
    (commitCheck d e c ecc k l s).2.Inv := by
  induction l generalizing s k with
  | nil => exact h
  | cons b l ih => grind [Machine.commitCheck, State.Inv.engRead]

theorem State.Inv.commitKeys (d e : Nat) (c : Cmd) (k : Nat) (l : List (List W8)) (s : State) (h : s.Inv) :
    (commitKeys d e c k l s).2.Inv := by
  induction l generalizing s k with
  | nil => exact h
  | cons b l ih => grind [Machine.commitKeys, State.Inv.engKeys]

section
variable {s : State} (h : s.Inv)
include h

theorem execPairedCommit_inv (d e : Nat) (ecc : Bool) : KeepsInv (execPairedCommit d e ecc s) := by
  refine engStep_inv h 6 d e fun s g c h => ?_
  grind [inv_modJob, State.Inv.commitRead, State.Inv.commitCheck, State.Inv.commitKeys, State.Inv.engFault, State.Inv.engPut,
    State.Inv.piece]

/-! ### Circular-buffer commands (R280, R292) -/

theorem State.Inv.drainFree (d e b : Nat) (c : Cmd) : (drainFree s d e b c).Inv := by
  fun_cases Machine.drainFree s d e b c
  all_goals grind [inv_modCmd, inv_setBuf, State.Inv.engFault, State.Inv.releaseAt]

theorem execEdgeFeed_inv (d e : Nat) (ecc : Bool) : KeepsInv (execEdgeFeed d e ecc s) := by
  dsimp only [execEdgeFeed]
  refine engStep_inv h 7 d e fun s g c h => ?_
  refine State.Inv.unitStep d e _ (fun s c h => ?_) 8 s h
  grind [inv_modCmd, inv_setBuf, State.Inv.engFault, State.Inv.engRead, State.Inv.engWriteThen, State.Inv.acquireAt,
    State.Inv.releaseAt, State.Inv.piece]

theorem execEdgeDrain_inv (d e : Nat) : KeepsInv (execEdgeDrain d e s) := by
  dsimp only [execEdgeDrain]
  refine engStep_inv h 8 d e fun s g c h => ?_
  refine State.Inv.unitStep d e _ (fun s c h => ?_) 8 s h
  grind [inv_modCmd, inv_setBuf, State.Inv.engFault, State.Inv.engRead, State.Inv.engWriteThen, State.Inv.acquireAt,
    State.Inv.drainFree]

theorem execBufferSetUp_inv (d e : Nat) : KeepsInv (execBufferSetUp d e s) := by
  refine engStep_inv h 9 d e fun s g c h => ?_
  dsimp only
  split
  · exact h.engFault d e _ _
  · exact h

theorem execFollowOnMmac_inv (d e : Nat) : KeepsInv (execFollowOnMmac d e s) := by
  fun_cases execFollowOnMmac d e s
  all_goals grind [keepsInv_next, inv_modCmd, inv_modRow, State.Inv.engFault]

theorem execNopCommand_inv (d e : Nat) : KeepsInv (execNopCommand d e s) := engStep_inv h 0 d e fun _ _ _ h => h.piece d e 0

end
end Sys2Proof.Machine
end

section
/-! SUPPORT. The invariant of memory through links: messages, the column chain across devices, cells, and the link commands. -/

namespace Sys2Proof.Machine

/-! ### Messages -/

section
variable (s : State)

@[simp] theorem inv_send (x : Msg) : (s.send x).Inv ↔ s.Inv := Iff.rfl
@[simp] theorem inv_takeMsg (f : Msg → Bool) : (s.takeMsg f).Inv ↔ s.Inv := Iff.rfl
@[simp] theorem inv_voidRx (f : Msg → Bool) : (s.voidRx f).Inv ↔ s.Inv := Iff.rfl

end

section
variable {s : State} (h : s.Inv)
include h

/-- Messages sent one for each of a list. -/
theorem State.Inv.sends {α : Type} (f : α → Msg) (l : List α) : (l.foldl (fun s x => s.send (f x)) s).Inv := by
  refine State.Inv.foldl (fun s x h => ?_) l h
  exact h

/-- Messages taken one for each of a list. -/
theorem State.Inv.takes {α : Type} (f : α → Msg → Bool) (l : List α) : (l.foldl (fun s x => s.takeMsg (f x)) s).Inv := by
  refine State.Inv.foldl (fun s x h => ?_) l h
  exact h

theorem State.Inv.takeBlock (c : Cmd) (peer : Nat) (kinds : List Nat) (b : Nat) : (s.takeBlock c peer kinds b).Inv :=
  h.takes _ _

theorem State.Inv.sendBlock (c : Cmd) (peer kind b : Nat) (x : Nat × List W8) : (s.sendBlock c peer kind b x).Inv :=
  h.sends _ _

/-! ### The end of link commands (R359, R360) -/

theorem State.Inv.linkStop (first : Bool) (d e cause : Nat) (a : W64) (c : Cmd) :
    (Machine.State.linkStop first s d e cause a c).Inv := by
  have h1 : (if c.fill = 0 then s.modJob (fun j => { j with linkStarts := j.linkStarts + 1 }) else s).Inv := by
    split <;> exact h
  exact (h1.sends _ _).engFault d e cause a

theorem State.Inv.abortAll (f : Cmd → Bool) : (s.abortAll f).Inv :=
  State.Inv.foldl (fun _ _ h => h.linkStop _ _ _ _ _ _) _ h

theorem State.Inv.linkEnd (d e cause : Nat) (a : W64) (c : Cmd) : (s.linkEnd d e cause a c).Inv :=
  (h.linkStop true d e cause a c).abortAll _

/-! ### The steps of a link command -/

theorem State.Inv.linkPass (d e goal n : Nat) : (linkPass s d e goal n).Inv := h
theorem State.Inv.linkBuf (d e : Nat) (b : List W8) : (linkBuf s d e b).Inv := h
theorem State.Inv.linkExp (d e : Nat) (x : Nat × List W8) : (linkExp s d e x).Inv := h

theorem State.Inv.linkRead (d e : Nat) (c : Cmd) (a : W64) (n : Nat) (ecc : Bool) {f : State → List W8 → State}
    (hf : ∀ s b, s.Inv → (f s b).Inv) : (linkRead s d e c a n ecc f).Inv := by
  have hr := h.engRead d e 4 a n ecc
  fun_cases Machine.linkRead s d e c a n ecc f <;> grind [State.Inv.linkEnd]

end

/-- The invariant holds of the state that a match of announcements comes to, whether they agree or not. -/
def MatchInv : Option (Except State (State × List (Nat × Nat))) → Prop
  | none => True
  | some (.error t) => t.Inv
  | some (.ok x) => x.1.Inv

theorem matchAll_inv (c : Cmd) (m : Comm) (l : List (Nat × Bool)) (s : State) (k : List (Nat × Nat)) (h : s.Inv) :
    MatchInv (matchAll c m s l k) := by
  fun_induction matchAll c m s l k with
  | case1 s k => exact h
  | case2 => trivial
  | case3 s k r l x hx s1 hc ih => exact ih h
  | case4 => exact h

section
variable {s : State} (h : s.Inv)
include h

theorem linkStep_inv (kind d e : Nat) {work after : State → Cmd → Comm → Nat → State}
    (hw : ∀ s c m n, s.Inv → (work s c m n).Inv) (ha : ∀ s c m n, s.Inv → (after s c m n).Inv) :
    KeepsInv (linkStep kind d e work after s) := by
  refine engStep_inv h kind d e fun s g c h => ?_
  have hm := matchAll_inv c (s.comm c.comm) (c.roles (s.comm c.comm)) s [] h
  have hs := State.Inv.sends (s := s.modJob (fun j => { j with linkStarts := j.linkStarts + 1 })) h
    (fun r : Nat × Bool => Cmd.msg { c with fill := 1, ser := s.job.linkStarts } r.1 0 (c.also (s.comm c.comm)) [] 0)
    (c.roles (s.comm c.comm))
  grind [MatchInv, inv_modCmd, State.Inv.linkEnd, State.Inv.acquireAt, State.Inv.engWrite]

theorem noAfter_inv (c : Cmd) (m : Comm) (n : Nat) : (noAfter s c m n).Inv := h

theorem execSend_inv (d e : Nat) (ecc : Bool) : KeepsInv (execSend d e ecc s) := by
  refine linkStep_inv h 0x10 d e (fun s c m n h => ?_) fun _ c m n h => noAfter_inv h c m n
  dsimp only
  split
  · exact h.linkRead d e c _ _ ecc fun _ b h => (h.sendBlock c _ _ _ _).linkPass d e _ _
  · exact h.linkRead d e c _ _ ecc fun _ b h => h

theorem execRecv_inv (d e : Nat) : KeepsInv (execRecv d e s) := by
  refine linkStep_inv h 0x11 d e (fun s c m n h => ?_) fun _ c m n h => noAfter_inv h c m n
  split
  · split
    · exact h
    · exact (h.takeBlock c _ _ _).linkExp d e _
  · split <;> exact h

theorem partialIn_inv {c : Cmd} {m : Comm} {first : Bool} {b : Nat} {l : List Nat} {t : State}
    (e : partialIn s c m first b = some (l, t)) : t.Inv := by
  revert e
  fun_cases partialIn s c m first b <;> rintro ⟨⟩
  · exact h
  · exact h.takeBlock c _ _ _

theorem execReduceStep_inv (d e : Nat) (ecc : Bool) : KeepsInv (execReduceStep d e ecc s) := by
  refine linkStep_inv h 0x12 d e (fun s c m n h => ?_) fun s c m n h => ?_
  · dsimp only
    split
    · exact h
    · rename_i hp
      refine (partialIn_inv h hp).linkRead d e c _ _ ecc fun s b h => ?_
      split
      · exact h
      · exact (h.sendBlock c _ _ _ _).linkPass d e _ _
  · split
    · exact h.sendBlock c _ _ _ _
    · exact h

theorem execXorReduce_inv (d e : Nat) (ecc : Bool) : KeepsInv (execXorReduce d e ecc s) := by
  refine linkStep_inv h 0x13 d e (fun s c m n h => ?_) fun _ c m n h => noAfter_inv h c m n
  have ht (l : List Nat) : (l.foldl (fun s r => s.takeMsg (Msg.at_ c r [1] (c.pos / 64))) s).Inv := h.takes _ l
  dsimp only
  repeat' split
  · exact h
  · exact (ht _).linkRead d e c _ _ ecc fun _ b h => h
  · exact (ht _).linkBuf d e _
  · exact h.linkRead d e c _ _ ecc fun _ b h => h

end

theorem State.Inv.sourceSum (d e : Nat) (c : Cmd) (o : Nat) (ecc : Bool) (l : List W64) (acc : List Nat)
    {f : State → List Nat → State} (hf : ∀ s b, s.Inv → (f s b).Inv) {s : State} (h : s.Inv) :
    (sourceSum d e c o ecc s l acc f).Inv := by
  induction l generalizing s acc with
  | nil => exact hf _ _ h
  | cons a l ih => exact h.linkRead d e c _ _ _ fun _ b h => ih _ h

section
variable {s : State} (h : s.Inv)
include h

theorem execAllreduce_inv (d e : Nat) (ecc : Bool) : KeepsInv (execAllreduce d e ecc s) := by
  refine linkStep_inv h 0x14 d e (fun s c m n h => ?_) fun s c m n h => ?_
  · dsimp only
    split
    · split
      · exact h
      · rename_i hp
        refine State.Inv.sourceSum d e c _ ecc _ _ (fun s b h => ?_) (partialIn_inv h hp)
        split
        · exact h
        · exact (h.sendBlock c _ _ _ _).linkPass d e _ _
    · split
      · exact h
      · split
        · exact h
        · exact (h.takeBlock c _ _ _).linkExp d e _
  · dsimp only
    split
    · exact h.sendBlock c _ _ _ _
    · exact h

/-! ### Cells on their way (R24, R25, R27) -/

theorem State.Inv.pumpMsgs : s.pumpMsgs.Inv := by
  unfold State.pumpMsgs
  refine State.Inv.foldl (fun t x h => ?_) _ (s := s.modJob _) h
  repeat' split
  all_goals exact h

theorem chainTake_inv {l : List Cell} {t : State} {n : Nat} (e : s.chainTake l = some (t, n)) : t.Inv := by
  revert e
  fun_cases State.chainTake s l <;> rintro ⟨⟩
  case case3 => split <;> exact h
  all_goals exact h

end

theorem State.Inv.sendChain (p k : Nat) (s : State) (h : s.Inv) : (s.sendChain p k).Inv := by
  fun_induction State.sendChain p k s with
  | case2 k s x e rest _ _ ih => exact ih h
  | _ => exact h

theorem State.Inv.chainPast (k : Nat) (s : State) (h : s.Inv) : (s.chainPast k).Inv := by
  fun_induction State.chainPast k s with
  | case2 k s t n e ih =>
    have ht := chainTake_inv h e
    exact ih ht
  | _ => exact h

theorem State.Inv.chainDeliver (p k : Nat) (s : State) (h : s.Inv) : (s.chainDeliver p k).Inv := by
  fun_induction State.chainDeliver p k s with
  | case3 k s x _ t n e ih =>
    have ht := chainTake_inv h e
    exact ih ht
  | _ => exact h

section
variable {s : State} (h : s.Inv)
include h

theorem State.Inv.chainMove (p : Nat) : (s.chainMove p).Inv := State.Inv.chainDeliver p _ s h

theorem State.Inv.chainBack : s.chainBack.Inv := by
  unfold State.chainBack
  split
  · exact h
  · exact State.Inv.chainPast _ s h

theorem State.Inv.chainShut (p : Nat) : (s.chainShut p).Inv := by
  unfold State.chainShut
  split
  · exact h
  · refine State.Inv.chainBack ?_
    exact h

theorem State.Inv.pumpLinks : s.pumpLinks.Inv := by
  unfold State.pumpLinks
  refine State.Inv.foldl (fun s p h => ?_) _ h.pumpMsgs.chainBack
  grind [inv_modPort, State.Inv.sendChain, State.Inv.chainMove]

/-! ### Ports that fail, aborts and replays -/

theorem State.Inv.portDown (p : Nat) : (s.portDown p).Inv := by
  unfold State.portDown
  refine State.Inv.chainShut (State.Inv.foldl (fun s c h => h.linkEnd _ _ _ _ _) _ ?_) p
  exact h

theorem State.Inv.linkFails (p : Nat) : (s.linkFails p).Inv := by
  unfold State.linkFails
  split
  · exact h.portDown p
  · exact h

theorem State.Inv.abort (comm tag rank ser : Nat) : (s.abort comm tag rank ser).Inv := by
  unfold State.abort
  split
  · exact h
  · exact (State.Inv.abortAll ((inv_modJob s rfl).2 h) _).sends _ _

theorem State.Inv.takeAbort (comm tag rank ser : Nat) (on : Bool) : (s.takeAbort comm tag rank ser on).Inv := by
  unfold State.takeAbort
  dsimp only
  split
  · exact h.abort _ _ _ _
  · exact State.Inv.abortAll ((inv_modJob s rfl).2 h) _

theorem execLinkAbort_inv (comm tag : Nat) : KeepsInv (execLinkAbort comm tag s) :=
  keepsInv_next.2 (State.Inv.abort ((inv_modJob s rfl).2 h) comm tag _ _)

theorem State.Inv.replay (p : Nat) (q : BitVec 16) : (s.replay p q).Inv := by
  fun_cases State.replay s p q
  case case4 => exact h.linkFails p
  all_goals exact h

theorem State.Inv.takeNums (p vc : Nat) (c : Cell) : (s.takeNums p vc c).Inv := by
  fun_cases State.takeNums s p vc c
  case case1 => exact h.takeAbort _ _ _ _ _
  case case3 => exact h.replay p _
  all_goals exact h

theorem takeCell_inv (p : Nat) (c : Cell) : AllInv (takeCell s p c) := by
  fun_cases takeCell s p c
  case case1 => exact allInv_some.2 (h.takeNums p _ c)
  case case2 => exact allInv_none
  case case3 => exact allInv_some.2 (State.Inv.chainMove (s := s.setPort p _) h p)
  case case4 => exact allInv_some.2 h
  case case5 => exact allInv_some.2 (State.Inv.foldl (fun _ _ h => h.takeNums p _ _) _ (s := s.setPort p _) h)

theorem execAdyanCell_inv (p : Nat) (c : Cell) : KeepsInv (execAdyanCell p c s) := by
  have ht := takeCell_inv h p c
  fun_cases execAdyanCell p c s
  all_goals grind [AllInv, keepsInv_next, inv_setPort, inv_modPort, State.Inv.linkFails]

end
end Sys2Proof.Machine
end

section
/-! SUPPORT. The invariant of memory through placements and tasks. -/

namespace Sys2Proof.Machine

/-! ### Placements -/

section
variable {s : State} (h : s.Inv)
include h

theorem State.Inv.newChain (b : Bind) : (s.newChain b).Inv := by
  fun_cases State.newChain s b <;> exact h

theorem State.Inv.emptyChain (n : Nat) : (s.emptyChain n).Inv := by
  fun_cases State.emptyChain s n <;> exact h

theorem State.Inv.dropChain (n : Nat) : (s.dropChain n).Inv := by
  fun_cases State.dropChain s n
  · exact h.emptyChain n
  · exact h

theorem State.Inv.endChains : s.endChains.Inv := by
  refine (inv_modDev _ rfl rfl rfl).2 ?_
  exact State.Inv.foldl (fun _ e h => h.dropChain e.1) _ h

theorem State.Inv.startPlaced (p : Pl) (n : Nat) : (s.startPlaced p n).Inv := by
  unfold State.startPlaced
  grind [inv_setRow, inv_modPort, State.Inv.newChain]

theorem State.Inv.secure (d : Nat) (p : Pl) (rows : List Nat) : (s.secure d p rows).Inv := by
  refine State.Inv.pump ?_
  refine (inv_modDie _ _ _).2 ((inv_setPl _ _).2 (State.Inv.foldl (fun s m h => ?_) _ h))
  split <;> exact h

theorem execPartSecure_inv (d : Nat) : KeepsInv (execPartSecure d s) := by
  fun_cases execPartSecure d s
  case case2 => exact keepsInv_next.2 (h.secure d _ _)
  all_goals exact keepsInv_next.2 h

theorem execGangStart_inv (pl : Nat) : KeepsInv (execGangStart pl s) := by
  fun_cases execGangStart pl s
  case case2 p _ _ _ =>
    have h1 := State.Inv.foldl (f := fun s d => s.acquireAt d .device) (fun _ d h => h.acquireAt d _) p.dies
      (s := s.setPl { p with st := .running }) h
    exact keepsInv_next.2 (State.Inv.foldl (fun _ n h => h.startPlaced p n) _ h1)
  all_goals exact keepsInv_next.2 h

theorem State.Inv.freeOwned (n : Nat) : (s.freeOwned n).Inv := h

theorem State.Inv.endPlacement (num : Nat) : (s.endPlacement num).Inv := by
  fun_cases State.endPlacement s num
  case case2 p _ _ _ _ =>
    refine State.Inv.pump ?_
    refine (inv_raise _ _).2 ((inv_setPl _ _).2 (State.Inv.foldl (fun s n h => ?_) _ ?_))
    · exact (h.freeOwned n).dropChain n
    · exact (State.Inv.foldl (fun _ d h => h.writeBack d) p.dies h).newChain _
  all_goals exact h

theorem State.Inv.endLate (n : Nat) : (s.endLate n).Inv := by
  fun_cases State.endLate s n
  · exact h.endPlacement _
  · exact h

theorem execRowRetire_inv (n : Nat) : KeepsInv (execRowRetire n s) := by
  fun_cases execRowRetire n s
  case case6 =>
    refine keepsInv_next.2 (.endPlacement (.releaseEarly (.foldl (fun _ g h => h.leaveGroup n _ g) _ ?_) _) _)
    grind [inv_modRow, State.Inv.releaseAt, State.Inv.sealSouth, State.Inv.edgeSouth, State.Inv.emptyChain]
  all_goals grind [keepsInv_next, inv_modRow, State.Inv.endLate, State.Inv.releaseAt, State.Inv.freeOwned, State.Inv.sealSouth,
    State.Inv.edgeSouth, State.Inv.emptyChain]

/-! ### SPAWN (R326) -/

theorem spawnSend_inv (n : Nat) (w : Spawn) : (spawnSend s n w).Inv := by
  fun_cases spawnSend s n w
  · exact h
  · grind [Res.Inv, inv_modRow, inv_modDie, State.Inv.releaseAt, State.Inv.atomicAdd]

theorem execSpawn_inv (g : Guard) (a b c : SReg) (inc : Bool) (pri : BitVec 2) (vf : VReg) (nargs : BitVec 4) (va : VReg) :
    KeepsInv (execSpawn g a b c inc pri vf nargs va s) := by
  refine issueWord_inv (fun s n v h => ?_) h _ _
  grind [Res.Inv, inv_setTq, State.Inv.atomKey, spawnSend_inv]

theorem execTaskEnqueue_inv (d : Nat) : KeepsInv (execTaskEnqueue d s) := by
  fun_cases execTaskEnqueue d s
  · exact keepsInv_next.2 h
  · refine keepsInv_next.2 (State.Inv.foldl (fun _ t h => h.enqueue d _ t) _ ?_)
    exact h

end

/-! ### TJOIN (R327, R414) -/

theorem State.Inv.joinKeys (n : Nat) (l : List (Nat × W64)) (s : State) (h : s.Inv) : (joinKeys n s l).2.Inv := by
  induction l generalizing s with
  | nil => exact h
  | cons x l ih => grind [Machine.joinKeys, State.Inv.atomKey]

theorem joinReserve_inv (n num : Nat) (l : List (Nat × W64 × Nat)) (s : State) (h : s.Inv) : (joinReserve n num s l).Inv := by
  fun_induction joinReserve n num s l with
  | case3 s l j k rest _ ih => exact ih h
  | _ => exact h

theorem State.Inv.joinAgain (n : Nat) (l : List (Nat × W64)) (s : State) (h : s.Inv) : (joinAgain n s l).2.Inv := by
  induction l generalizing s with
  | nil => exact h
  | cons x l ih => grind [Machine.joinAgain, State.Inv.lookup]

section
variable {s : State} (h : s.Inv)
include h

theorem execTjoin_inv (g : Guard) (a : SReg) : KeepsInv (execTjoin g a s) := by
  refine issueWord_inv (fun s n v h => ?_) h _ _
  grind [Res.Inv, State.Inv.joinKeys, State.Inv.joinAgain, joinReserve_inv]

theorem State.Inv.contRead (n : Nat) (j : W64) (key : Nat) : (contRead s n j key).2.Inv := by
  unfold Machine.contRead
  grind [inv_draw, State.Inv.translate]

theorem State.Inv.joinStep (n id : Nat) (j : W64) (key : Nat) : (joinStep n id s j key).Inv := by
  fun_cases Machine.joinStep n id s j key
  all_goals grind [inv_modDie, State.Inv.releaseAt, State.Inv.atomicAdd, State.Inv.acquireAt, State.Inv.contRead]

end

theorem State.Inv.joinFollow (n : Nat) (l : List (Nat × W64 × Nat)) (s : State) (h : s.Inv) : (joinFollow n l s).Inv := by
  fun_induction Machine.joinFollow n l s with
  | case3 l j k rest s _ ih => exact ih (State.Inv.joinStep ((inv_modRow _ n _).2 ((inv_modDie s _ _).2 h)) n _ j k)
  | _ => exact h

section
variable {s : State} (h : s.Inv)
include h

theorem execJoinDecrement_inv (n : Nat) : KeepsInv (execJoinDecrement n s) := by
  have hj (l : List (Nat × Nat × W64 × Nat)) :
      (l.foldl (fun s x => joinStep n x.1 (s.modRow n (fun r => r.dropOp x.1)) x.2.2.1 x.2.2.2) s).Inv :=
    State.Inv.foldl (fun s x h => State.Inv.joinStep (s := s.modRow n _) h n _ _ _) l h
  fun_cases execJoinDecrement n s
  all_goals grind [keepsInv_next, inv_charge, State.Inv.joinFollow]

theorem execContinuationEnqueue_inv (d pri : Nat) : KeepsInv (execContinuationEnqueue d pri s) := by
  fun_cases execContinuationEnqueue d pri s
  case case3 => exact keepsInv_next.2 (State.Inv.enqueue (s := s.modDie d _) h d pri _)
  all_goals exact keepsInv_next.2 h

/-! ### TARG, TEND, waves and steals -/

theorem execTarg_inv (g : Guard) (d : VReg) (k : BitVec 4) : KeepsInv (execTarg g d k s) := by
  refine issueWord_inv (fun s n v h => ?_) h _ _
  split <;> exact h

theorem execTend_inv (g : Guard) : KeepsInv (execTend g s) := by
  refine issueQ_inv (fun s n v h => ?_) h _ g
  split <;> exact h

theorem execWindowFill_inv (d : Nat) : KeepsInv (execWindowFill d s) := by
  fun_cases execWindowFill d s
  all_goals grind [keepsInv_next, inv_modDie, State.Inv.dequeue]

theorem execWaveDispatch_inv (d n : Nat) : KeepsInv (execWaveDispatch d n s) := by
  fun_cases execWaveDispatch d n s
  · exact keepsInv_next.2 h
  · refine keepsInv_next.2 ?_
    exact State.Inv.acquireAt (s := s.modDie d _) h d _

theorem execStealRequest_inv (d : Nat) : KeepsInv (execStealRequest d s) := by
  fun_cases execStealRequest d s <;> exact keepsInv_next.2 h

end
end Sys2Proof.Machine
end

section
/-! SUPPORT. The invariant of memory through pre-emption, Mbabo and the commands on a job. -/

namespace Sys2Proof.Machine

/-- What the delivery of an event leaves of the device. -/
theorem Dev.deliver_keeps (d : Dev) (e : Evt) :
    (d.deliver e).tierStore = d.tierStore ∧ (d.deliver e).ckpt = d.ckpt ∧ (d.deliver e).sram = d.sram := by
  fun_cases Dev.deliver d e <;> exact ⟨rfl, rfl, rfl⟩

/-! ### The halt and the hamper (R348 to R354) -/

section
variable {s : State} (h : s.Inv)
include h

theorem State.Inv.unspawn (n : Nat) : (s.unspawn n).Inv := by
  fun_cases State.unspawn s n <;> exact h

theorem State.Inv.haltRow (n : Nat) : (s.haltRow n).Inv := by
  fun_cases State.haltRow s n
  all_goals grind [inv_modRow, inv_draw, State.Inv.unspawn, State.Inv.takeDue, State.Inv.abandonDrain]

theorem State.Inv.haltDie (d : Nat) : (s.haltDie d).Inv := by
  unfold State.haltDie
  split
  · exact h
  · refine State.Inv.foldl (fun s i h => ?_) _ (s := s.modDie d _) h
    exact h

theorem execPreemptArrive_inv (d : Nat) : KeepsInv (execPreemptArrive d s) := by
  fun_cases execPreemptArrive d s
  · exact keepsInv_next.2 h
  · refine keepsInv_next.2 (State.Inv.haltDie ?_ d)
    exact State.Inv.foldl (fun _ i h => h.haltRow _) _ h

theorem State.Inv.writeBackAll : s.writeBackAll.Inv := by
  unfold State.writeBackAll
  exact State.Inv.foldl (fun _ d h => h.writeBack d) _ h

theorem State.Inv.finishHalt : s.finishHalt.Inv := by
  unfold State.finishHalt
  split
  · exact (inv_modDev _ rfl rfl rfl).2 ((inv_modJob _ rfl).2 h.writeBackAll)
  · exact h

theorem execHamperSave_inv (n : Nat) : KeepsInv (execHamperSave n s) := by
  fun_cases execHamperSave n s
  case case3 =>
    have hw := h.writeBackAll.writeHamper n
    generalize s.writeBackAll.writeHamper n = t at hw ⊢
    exact keepsInv_next.2 (State.Inv.finishHalt ((inv_modJob t rfl).2 hw))
  all_goals exact keepsInv_next.2 h

theorem State.Inv.resumed : (s.modJob (fun j => { j with pre := .none, saved := [] })).Inv := h
theorem State.Inv.openedAgain : (s.modDev (fun d => { d with jobSt := .opened })).Inv := h

theorem State.Inv.resumeAll : s.resumeAll.Inv := by
  unfold State.resumeAll
  extract_lets s1 s2 s3
  have h1 : s1.Inv := State.Inv.foldl (fun t n h => State.Inv.endSpent (s := t.modRow n _) h n) _ h
  have h2 : s2.Inv := by
    refine State.Inv.resumed (State.Inv.foldl (fun s n h => ?_) _ h1)
    exact h
  have h3 : s3.Inv := by
    refine State.Inv.foldl (fun s n h => ?_) _ h2
    exact h
  refine State.Inv.chainBack (State.Inv.openedAgain (State.Inv.foldl (fun s n h => ?_) _ h3))
  exact h

/-! ### Starts and the end of a job's data -/

theorem State.Inv.reboot (k : Nat) : (s.reboot k).Inv := by
  obtain ⟨_, hstore, _, _⟩ := h
  exact ⟨rfl, hstore, fun k hk => (Option.not_mem_none k hk).elim, rfl⟩

theorem execStart_inv : KeepsInv (execStart s) := by
  fun_cases execStart s
  · exact keepsInv_next.2 h
  · refine keepsInv_next.2 ((inv_modDev s (f := fun _ => _) ?_ ?_ ?_).2 h)
    all_goals
      dsimp only
      repeat' split
      all_goals rfl

theorem State.Inv.haltAll : s.haltAll.Inv := by
  unfold State.haltAll
  exact State.Inv.foldl (fun _ d h => h.haltDie d) _ h

theorem State.Inv.quiesce : s.quiesce.Inv := by
  unfold State.quiesce
  extract_lets s1
  have h1 : s1.Inv := by
    refine State.Inv.foldl (fun s n h => ?_) _ h
    exact h
  refine State.Inv.foldl (fun s n h => ?_) _ h1
  exact h

theorem execFatal_inv (cause : BitVec 8) : KeepsInv (execFatal cause s) := by
  have hq := h.haltAll.quiesce.rekey 0
  unfold execFatal
  dsimp only
  generalize s.haltAll.quiesce.rekey 0 = t at hq ⊢
  split
  · exact keepsInv_next.2 h
  · exact keepsInv_next.2 hq

/-! ### Events -/

theorem nextEvent_inv {e : Evt} {t : State} (he : s.nextEvent = some (e, t)) : t.Inv := by
  revert he
  fun_cases State.nextEvent s <;> rintro ⟨⟩ <;> exact h

theorem execEventDeliver_inv : KeepsInv (execEventDeliver s) := by
  have hc : s.correctSome.Inv := h
  fun_cases execEventDeliver s
  · exact keepsInv_next.2 h
  · exact keepsInv_next.2 hc
  · rename_i e t he
    have ht : t.Inv := nextEvent_inv hc he
    obtain ⟨h1, h2, h3⟩ := Dev.deliver_keeps t.dev { e with ns := t.dev.ns }
    refine keepsInv_next.2 ((inv_modDev _ h1 h2 h3).2 ?_)
    exact ht

/-! ### The command ring -/

theorem scanSlot_inv (i : Nat) : (scanSlot s i).Inv := by
  fun_cases scanSlot s i <;> exact h

theorem execCmdTail_inv (r : CmdRec) (v : Nat) : KeepsInv (execCmdTail r v s) := by
  fun_cases execCmdTail r v s
  · exact keepsInv_next.2 h
  · refine keepsInv_next.2 (.foldl (fun _ i h => scanSlot_inv h i) _ ?_)
    exact h

theorem State.Inv.finish (a b : Nat) (x : W64) : (s.finish a b x).Inv := by
  obtain ⟨hm, hstore, _, hs⟩ := h
  exact ⟨hm, hstore, fun k hk => (Option.not_mem_none k hk).elim, hs⟩

end

/-- The invariant holds of the state that a command answers with. -/
def Ans.Inv : Ans → Prop
  | .refuse _ => True
  | .done _ s | .more s => s.Inv

@[simp] theorem Ans.inv_refuse {k : Nat} : (Ans.refuse k).Inv := trivial

section
variable {s : State} (h : s.Inv)
include h

theorem State.Inv.answer {a : Ans} (ha : a.Inv) : (s.answer a).Inv := by
  cases a with
  | refuse k => exact h.finish 1 k 0
  | done x t => exact State.Inv.finish ha 0 0 x
  | more t => exact ha

theorem command_inv (code : Nat) {f : State → CmdRec → Ans} (hf : ∀ s r, s.Inv → (f s r).Inv) :
    KeepsInv (command code f s) := by
  have h1 := h.finishHalt
  fun_cases command code f s
  case case3 => exact keepsInv_next.2 (h1.answer trivial)
  case case5 => exact keepsInv_next.2 (h1.answer trivial)
  case case6 => exact keepsInv_next.2 (h1.answer (hf _ _ h1))
  all_goals exact keepsInv_next.2 h1

theorem execPreempt_inv : KeepsInv (execPreempt s) := by
  have h1 := h.finishHalt
  fun_cases execPreempt s
  case case2 => exact keepsInv_next.2 (h.answer trivial)
  case case4 => exact keepsInv_next.2 (h.answer trivial)
  case case5 => 
    refine keepsInv_next.2 ?_
    split
    · exact h1
    · exact h1.answer (a := .done 0 _) h1
  all_goals exact keepsInv_next.2 h

theorem execFeatures_inv : KeepsInv (execFeatures s) := by
  refine command_inv h 0x01 fun s r h => ?_
  split
  · trivial
  · exact h

theorem execAttest_inv (ecc : Bool) : KeepsInv (execAttest ecc s) := by
  refine command_inv h 0x02 fun s r h => ?_
  have hp (l : List (W8 × Nat)) : (l.foldl (fun s (x : W8 × Nat) => s.setPa (r.w2.toNat + x.2) x.1) s).Inv :=
    State.Inv.foldl (fun _ x h => h.setPa _ _) l h
  dsimp only
  repeat' split
  case h_2.isFalse => exact hp _
  all_goals trivial

theorem execStatus_inv : KeepsInv (execStatus s) := command_inv h 0x03 fun _ _ h => h

/-! ### Commands on a job -/

end

theorem State.Inv.vaKeys (n : Nat) (a : W64) (s : State) (h : s.Inv) : (vaKeys n s a).2.Inv := by
  induction n generalizing s a with
  | zero => exact h
  | succ n ih => grind [Machine.vaKeys, State.Inv.translate]

section
variable {s : State} (h : s.Inv)
include h

theorem State.Inv.vaRead (a : W64) (n : Nat) (ecc : Bool) : (s.vaRead a n ecc).2.Inv := by
  have := State.Inv.vaKeys n a s h
  fun_cases State.vaRead s a n ecc <;> grind

theorem vaRead_inv {a : W64} {n : Nat} {ecc : Bool} {b : Option (List W8)} {t : State} (e : s.vaRead a n ecc = (b, t)) :
    t.Inv := by
  have := h.vaRead a n ecc
  rwa [e] at this

/-- Another job in place of this one, with a canonical memory. -/
theorem State.Inv.newJob {j : Job} (hj : Memory.wf j.mem) : (s.modJob (fun _ => j)).Inv := ⟨hj, h.2⟩

theorem execJobOpen_inv : KeepsInv (execJobOpen s) := by
  refine command_inv h 0x10 fun s r h => ?_
  have hj : Memory.wf (s.job.mem.filter (fun e => e.1 < sideBase)) := h.1.filter _
  dsimp only
  repeat' split
  case h_2 => exact ⟨hj, h.2⟩
  all_goals trivial

theorem execJobClose_inv : KeepsInv (execJobClose s) := by
  refine command_inv h 0x11 fun s r h => ?_
  have hk := h.endChains.rekey 0
  have hh := h.haltAll
  dsimp only
  generalize s.endChains.rekey 0 = t at hk ⊢
  generalize s.haltAll = u at hh ⊢
  split
  · exact hh
  · exact hk

theorem execAllocSet_inv (ecc : Bool) : KeepsInv (execAllocSet ecc s) := by
  refine command_inv h 0x12 fun s r h => ?_
  dsimp only
  repeat' split
  case h_2 => exact h
  all_goals trivial

theorem execSideCheck_inv : KeepsInv (execSideCheck s) := by
  refine command_inv h 0x13 fun s r h => ?_
  extract_lets a n p
  split
  · trivial
  · rename_i inRun s1 _
    have h1 : s1.Inv := State.Inv.foldl (fun s d h => h.flushIf d _) _ h
    clear_value s1
    exact (inv_modJob s1 rfl).2 h1

theorem execXlateInval_inv : KeepsInv (execXlateInval s) := command_inv h 0x14 fun _ _ h => h

theorem State.Inv.accept (p : Pl) : (s.accept p).Inv := by
  fun_cases State.accept s p
  case case6 => exact State.Inv.pump ((inv_modJob s rfl).2 h)
  all_goals trivial

theorem execPlace_inv (ecc : Bool) : KeepsInv (execPlace ecc s) := by
  refine command_inv h 0x20 fun s r h => ?_
  split
  · trivial
  split
  · trivial
  rename_i b s1 e1
  have h1 := vaRead_inv h e1
  extract_lets link
  split
  · trivial
  split
  · trivial
  split
  · trivial
  split
  · split
    · trivial
    rename_i t s2 e2
    have h2 := vaRead_inv h1 e2
    split
    · trivial
    rename_i l s3 e3
    split
    · trivial
    exact (vaRead_inv h2 e3).accept _
  · trivial

theorem execPoolBind_inv (ecc : Bool) : KeepsInv (execPoolBind ecc s) := by
  refine command_inv h 0x21 fun s r h => ?_
  split
  · trivial
  split
  · trivial
  extract_lets d cls weight rows ks doms
  split
  · trivial
  split
  · trivial
  split
  · trivial
  split
  · trivial
  split
  · trivial
  split
  · trivial
  rename_i s1 s2 s3 _ _ _ _ _ _
  have h1 : s1.Inv := by
    refine State.Inv.foldl (fun s x h => ?_) _ h
    split <;> exact h
  have h2 : s2.Inv := by
    refine State.Inv.foldl (fun s m h => ?_) _ h1
    exact h
  have h3 : s3.Inv := by
    refine State.Inv.foldl (fun s n h => ?_) _ h2
    exact h
  exact (inv_ite _ _).2 (by split <;> exact h3)

theorem execPoolUnbind_inv : KeepsInv (execPoolUnbind s) := by
  refine command_inv h 0x22 fun s r h => ?_
  refine State.Inv.foldl (fun s n h => ?_) _ h
  repeat' split
  all_goals exact h

theorem execResume_inv (ecc : Bool) : KeepsInv (execResume ecc s) := by
  refine command_inv h 0x31 fun s r h => ?_
  repeat' split
  case isFalse.isFalse => exact h.resumeAll
  all_goals trivial

end
end Sys2Proof.Machine
end

section
/-! SUPPORT. The invariant of memory through checkpoints, the ring's table, links, the management port and power. -/

namespace Sys2Proof.Machine

/-! ### Checkpoints (R409) -/

section
variable {s : State} (h : s.Inv)
include h

theorem parityStep_inv {c b : Nat} {x : Stream} {y : State × List W8} (e : s.parityStep c x b = some y) : y.1.Inv := by
  unfold State.parityStep at e
  extract_lets m q cells own others part at e
  clear_value cells
  split at e
  · rw [← Option.some.inj e]
    exact State.Inv.sends h _ _
  · split at e
    · rw [← Option.some.inj e]
      exact h
    · cases e

/-- A stream stored holds a canonical memory. -/
theorem State.Inv.store {x : Stream} (hx : Memory.wf x.job.mem) (p : Option Shard) : (s.modDev (fun d => d.store x p)).Inv := by
  obtain ⟨hm, hstore, hck, hs⟩ := h
  refine ⟨hm, fun y hy => ?_, hck, hs⟩
  obtain hy | rfl := List.mem_append.1 hy |>.imp_right List.mem_singleton.1
  · exact hstore y (List.mem_of_mem_filter hy)
  · exact hx

/-- A checkpoint under way holds a canonical memory, where it holds one. -/
theorem State.Inv.setCkpt {k : Ckpt} (hk : ∀ j ∈ k.job, Memory.wf j.mem) : (s.modDev (fun d => { d with ckpt := some k })).Inv := by
  obtain ⟨hm, hstore, _, hs⟩ := h
  refine ⟨hm, hstore, fun k' e => ?_, hs⟩
  cases e
  exact hk

theorem streams_inv (r : CmdRec) {k : Ckpt} (hk : ∀ j ∈ k.job, Memory.wf j.mem) : (s.streams r k).Inv := by
  have hj : Memory.wf (k.job.getD s.job).mem := by
    cases e : k.job with
    | none => exact h.1
    | some j => exact hk j e
  have hs : ∀ j ∈ some (k.job.getD s.job), Memory.wf j.mem := fun j e => by cases e; exact hj
  unfold State.streams
  dsimp only
  split
  · exact h.store hj _
  · split
    · exact h.setCkpt hs
    · rename_i s1 l e
      refine State.Inv.setCkpt (s := s1) ?_ hs
      split at e
      · exact parityStep_inv h e
      · cases e

theorem execCheckpoint_inv (ecc : Bool) : KeepsInv (execCheckpoint ecc s) := by
  refine command_inv h 0x32 fun s r h => ?_
  split
  · rename_i k e
    exact streams_inv h r (h.2.2.1 k e)
  · extract_lets par n
    split
    · trivial
    split
    · trivial
    rename_i key _
    have hn : ∀ j ∈ (⟨key, none, 0, []⟩ : Ckpt).job, Memory.wf j.mem := fun j hj => (Option.not_mem_none j hj).elim
    extract_lets k
    split
    · trivial
    split
    · exact State.Inv.finishHalt (State.Inv.setCkpt ((inv_modJob s rfl).2 h) hn)
    split
    · exact h.setCkpt hn
    · exact streams_inv h r hn

/-- A job that the device takes up has its stream's memory. -/
theorem State.Inv.takeUp {j : Job} (hj : Memory.wf j.mem) :
    ((s.draw.modJob (fun _ => s.restored j)).modDev (fun d => { d with jobSt := .halted })).Inv := ⟨hj, h.2⟩

theorem execRestore_inv (ecc : Bool) : KeepsInv (execRestore ecc s) := by
  refine command_inv h 0x33 fun s r h => ?_
  split
  · trivial
  split
  · trivial
  split
  · trivial
  split
  · trivial
  extract_lets who take
  split
  · rename_i x e
    split
    · trivial
    · exact h.takeUp (h.2.1 x (List.mem_of_find?_eq_some e))
  · split
    · trivial
    split
    · split
      · exact h.takeUp ‹_›
      · trivial
    · trivial

/-! ### The ring's table, links and communicators -/

end

theorem State.Inv.ringEntries (b : List W8) (n m : Nat) (s : State) (h : s.Inv) : (ringEntries b n m s).2.Inv := by
  induction m generalizing s with
  | zero => exact h
  | succ m ih =>
    unfold Machine.ringEntries
    extract_lets i w0 w1 kind x ent
    have he : ent.2.Inv := by grind [State.Inv.translate]
    clear_value ent
    grind

section
variable {s : State} (h : s.Inv)
include h

theorem ringEntries_inv {b : List W8} {n m : Nat} {o : Option (List RingEnt)} {t : State} (e : ringEntries b n m s = (o, t)) :
    t.Inv := by
  have := State.Inv.ringEntries b n m s h
  rwa [e] at this

theorem execRingLoad_inv (ecc : Bool) : KeepsInv (execRingLoad ecc s) := by
  refine command_inv h 0x40 fun s r h => ?_
  extract_lets n
  split
  · trivial
  split
  · trivial
  rename_i s1 e1
  split
  · trivial
  rename_i s2 e2
  split
  · trivial
  · have h2 := ringEntries_inv (vaRead_inv h e1) e2
    exact h2

theorem execLinkUp_inv : KeepsInv (execLinkUp s) := by
  refine command_inv h 0x50 fun s r h => ?_
  extract_lets p e
  split
  · trivial
  split
  · trivial
  refine (inv_draw _).2 ((inv_setPort _ _ _).2 (State.Inv.foldl (fun s q h => ?_) _ h))
  split <;> exact h

theorem execCommLoad_inv (ecc : Bool) : KeepsInv (execCommLoad ecc s) := by
  refine command_inv h 0x51 fun s r h => ?_
  dsimp only
  repeat' split
  case h_2 => exact h
  all_goals trivial

theorem execPowerSet_inv : KeepsInv (execPowerSet s) := by
  refine command_inv h 0x60 fun s r h => ?_
  split
  · trivial
  refine State.Inv.foldl (fun s d h => ?_) _ h
  split <;> exact h

theorem execFeaturesTimeout_inv : KeepsInv (execFeaturesTimeout s) := by
  fun_cases execFeaturesTimeout s <;> exact keepsInv_next.2 h

/-! ### Power (R376 to R384) -/

end

theorem State.Inv.grantAll (d : Nat) (s : State) (l : List Req) (h : s.Inv) : (grantAll d s l).1.Inv := by
  fun_induction Machine.grantAll d s l <;> grind [inv_modRow, inv_modDom]

section
variable {s : State} (h : s.Inv)
include h

theorem State.Inv.rebase (d : Nat) : (s.rebase d).Inv := by
  unfold State.rebase
  dsimp only
  split
  · refine State.Inv.foldl (fun s n h => ?_) _ h
    exact h
  · exact h

theorem State.Inv.lapse (d : Nat) : (s.lapse d).Inv := by
  unfold State.lapse
  refine State.Inv.foldl (fun s n h => ?_) _ h
  exact h

/-- Moves put on the agenda. -/
theorem State.Inv.setAgenda (l : List Move) : State.Inv { s with agenda := l } := h

theorem execAllowanceTick_inv (dom : Nat) : KeepsInv (execAllowanceTick dom s) := by
  unfold execAllowanceTick
  split
  · exact keepsInv_next.2 h
  extract_lets s1 s2
  have h2 : s2.Inv := State.Inv.lapse (s := s1.modDom dom _) h dom
  have h3 := State.Inv.grantAll dom s2 (s2.grantOrder dom) h2
  generalize grantAll dom s2 (s2.grantOrder dom) = g at h3 ⊢
  obtain ⟨s3, granted, short⟩ := g
  dsimp -zeta only
  extract_lets s4 s5
  have h4 : s4.Inv := by
    refine (inv_ite _ _).2 ?_
    split
    · refine State.Inv.foldl (fun s q h => ?_) _ h3
      exact h
    · exact h3
  have h5 : s5.Inv := (inv_modDom _ _ _).2 (h4.rebase dom)
  exact keepsInv_next.2 (h5.setAgenda _)

theorem execThermal_inv (dom : Nat) (reading : BitVec 16) : KeepsInv (execThermal dom reading s) := by
  fun_cases execThermal dom reading s
  · exact keepsInv_next.2 h
  · refine keepsInv_next.2 ((inv_ite _ _).2 ?_)
    split <;> exact h

theorem execBank_inv (n : Nat) (fp : Bool) : KeepsInv (execBank n fp s) := by
  fun_cases execBank n fp s <;> exact keepsInv_next.2 h

theorem execStokeRequest_inv (n : Nat) (fp : Bool) : KeepsInv (execStokeRequest n fp s) := by
  fun_cases execStokeRequest n fp s <;> exact keepsInv_next.2 h

theorem execInrushGrant_inv (d : Nat) : KeepsInv (execInrushGrant d s) := by
  fun_cases execInrushGrant d s <;> exact keepsInv_next.2 h

theorem execStokeComplete_inv (n : Nat) (fp : Bool) : KeepsInv (execStokeComplete n fp s) := by
  fun_cases execStokeComplete n fp s <;> exact keepsInv_next.2 h

end
end Sys2Proof.Machine
end

section
/-! SUPPORT. The invariant of memory through every instruction and event, and through one step. -/

namespace Sys2Proof.Machine

section
variable {s : State} (h : s.Inv)
include h

theorem execClearStart_inv : KeepsInv (execClearStart s) := by
  unfold execClearStart
  exact keepsInv_next.2 (h.reboot 0)

theorem execMgmtReset_inv : KeepsInv (execMgmtReset s) := by
  unfold execMgmtReset
  exact keepsInv_next.2 (h.reboot _)

theorem State.Inv.mgmt (l : List W64) : (s.mgmt l).Inv := h

theorem execMgmtReadEvents_inv : KeepsInv (execMgmtReadEvents s) := by
  unfold execMgmtReadEvents
  exact keepsInv_next.2 (h.mgmt _)

/-- Every instruction and every event keeps the invariant. -/
theorem exec_inv (i : Instr) : KeepsInv (exec i s) := by
  cases i with
  | nop g => exact show KeepsInv (execNop g s) from issueAll_inv (fun _ _ _ h => by exact h) h _
  | salu g op d a b => exact execSalu_inv h g op d a b
  | saddi | sandi | sori | sxori | sshli | sshri | ssrai | sli | slui | slhi | sadda =>
    exact scalarTo_inv h _ _ _
  | smovv g d a m b first sx => exact execSmovv_inv h g d a m b first sx
  | scsr g d c => exact show KeepsInv (execScsr g d c s) from issueQ_inv (fun _ _ _ h => by exact h) h _ g
  | scsw g a mode c => exact show KeepsInv (execScsw g a mode c s) from issueQ_inv (csrBody_inv c mode a _) h _ g
  | scsx g d a mode c => exact show KeepsInv (execScsx g d a mode c s) from issueQ_inv (csrBody_inv c mode a _) h _ g
  | sld g d m vol fs => exact execSld_inv h g d m vol fs
  | sst g d m vol => exact execSst_inv h g d m vol
  | vialu g op w d a m b => exact show KeepsInv (execVialu g op w d a m b s) from vectorTo_inv h _ g d _
  | vialus g op w d a m b => exact show KeepsInv (execVialus g op w d a m b s) from vectorTo_inv h _ g d _
  | vaddi g d a imm => exact show KeepsInv (execVaddi g d a imm s) from vectorTo_inv h _ g d _
  | vandi g d a imm => exact show KeepsInv (execVandi g d a imm s) from vectorTo_inv h _ g d _
  | vori g d a imm => exact show KeepsInv (execVori g d a imm s) from vectorTo_inv h _ g d _
  | vxori g d a imm => exact show KeepsInv (execVxori g d a imm s) from vectorTo_inv h _ g d _
  | vshli g d a n => exact show KeepsInv (execVshli g d a n s) from vectorTo_inv h _ g d _
  | vshri g d a n => exact show KeepsInv (execVshri g d a n s) from vectorTo_inv h _ g d _
  | vsrai g d a n => exact show KeepsInv (execVsrai g d a n s) from vectorTo_inv h _ g d _
  | vli g d imm => exact show KeepsInv (execVli g d imm s) from vectorTo_inv h _ g d _
  | vmad g op w d a m b => exact show KeepsInv (execVmad g op w d a m b s) from vectorTo_inv h _ g d _
  | vsel g c d a m b => exact show KeepsInv (execVsel g c d a m b s) from vectorTo_inv h _ g d _
  | vidx g d a imm => exact show KeepsInv (execVidx g d a imm s) from vectorTo_inv h _ g d _
  | vbcast g d a hi => exact show KeepsInv (execVbcast g d a hi s) from vectorTo_inv h _ g d _
  | vmov g d a m => exact show KeepsInv (execVmov g d a m s) from vectorTo_inv h _ g d _
  | vred g op d a m seg => exact show KeepsInv (execVred g op d a m seg s) from vectorTo_inv h _ g d _
  | vscan g op excl d a m seg => exact show KeepsInv (execVscan g op excl d a m seg s) from vectorTo_inv h _ g d _
  | vperm g d a b inn seg => exact show KeepsInv (execVperm g d a b inn seg s) from vectorTo_inv h _ g d _
  | vfalu g op t r d a m b => exact show KeepsInv (execVfalu g op t r d a m b s) from floatTo_inv h _ g d _
  | vfma g op t r d a m b => exact show KeepsInv (execVfma g op t r d a m b s) from floatTo_inv h _ g d _
  | vfmas g op t r d a m b => exact show KeepsInv (execVfmas g op t r d a m b s) from floatTo_inv h _ g d _
  | vfun g op t r d a m => exact show KeepsInv (execVfun g op t r d a m s) from floatTo_inv h _ g d _
  | vfdiv g t r d a m b => exact show KeepsInv (execVfdiv g t r d a m b s) from floatTo_inv h _ g d _
  | vfclass g t half d a m b => exact show KeepsInv (execVfclass g t half d a m b s) from issueL_inv (onRow_inv _) h _ g
  | vfclassTrap g t half a m b => exact execVfclassTrap_inv h g t half a m b
  | vfred g op t r d a m seg => exact show KeepsInv (execVfred g op t r d a m seg s) from issueL_inv (onRow_inv _) h _ g
  | vcvt g st dt r sgn ed es d a m => exact show KeepsInv (execVcvt g st dt r sgn ed es d a m s) from floatTo_inv h _ g d _
  | vsrnd g bf k d a m b => exact show KeepsInv (execVsrnd g bf k d a m b s) from issueL_inv (onRow_inv _) h _ g
  | vqnt g j r sgn w d a m b => exact show KeepsInv (execVqnt g j r sgn w d a m b s) from issueL_inv (onRow_inv _) h _ g
  | vdqnt g j sgn d a b => exact show KeepsInv (execVdqnt g j sgn d a b s) from floatTo_inv h _ g d _
  | vreq g sto k sgn w d a b => exact show KeepsInv (execVreq g sto k sgn w d a b s) from issueL_inv (onRow_inv _) h _ g
  | vbmax g sgn w d a m => exact show KeepsInv (execVbmax g sgn w d a m s) from issueWord_inv (onRow_inv _) h _ _
  | vpln g sgn w d a => exact show KeepsInv (execVpln g sgn w d a s) from issueL_inv (onRow_inv _) h _ g
  | vupln g sgn w d a => exact show KeepsInv (execVupln g sgn w d a s) from issueL_inv (onRow_inv _) h _ g
  | vfli g form k d => exact show KeepsInv (execVfli g form k d s) from floatTo_inv h _ g d _
  | vicmp g pt pf a m b sb c ty k => exact show KeepsInv (execVicmp g pt pf a m b sb c ty k s) from issueL_inv (onRow_inv _) h _ g
  | vfcmp g pt pf a m b sb c ty k => exact show KeepsInv (execVfcmp g pt pf a m b sb c ty k s) from issueL_inv (onRow_inv _) h _ g
  | sicmp g pt pf a b c ty k => exact show KeepsInv (execSicmp g pt pf a b c ty k s) from issueQ_inv (onRow_inv _) h _ g
  | plop g q fn d a b => exact execPlop_inv h g q fn d a b
  | pmov g f => exact execPmov_inv h g f
  | plive g mask => exact show KeepsInv (execPlive g mask s) from issueQ_inv (onRow_inv _) h _ g
  | emset g a => exact execEmset_inv h g a
  | emsetAll g => exact show KeepsInv (execEmsetAll g s) from issueWord_inv (onRow_inv _) h _ _
  | emget g d sel => exact show KeepsInv (execEmget g d sel s) from issueAll_inv (onRow_inv _) h _
  | br g c pr off => exact execBr_inv h g c pr off
  | brv g pr neg off => exact execBrv_inv h g pr neg off
  | join g off => exact execJoin_inv h g off
  | brk g pr neg => exact show KeepsInv (execBrk g pr neg s) from leaveLoop_inv h g pr neg _
  | cont g pr neg => exact show KeepsInv (execCont g pr neg s) from leaveLoop_inv h g pr neg _
  | loops g off => exact execLoops_inv h g off
  | call g off => exact execCall_inv h g off
  | ret g => exact execRet_inv h g
  | jmpr g a => exact execJmpr_inv h g a
  | jmprCall g a => exact execJmprCall_inv h g a
  | lexit g => exact execLexit_inv h g
  | exit g => exact show KeepsInv (execExit g s) from issueQ_inv (fun _ _ _ h => by exact h) h _ g
  | pwr g a m => exact execPwr_inv h g a m
  | prd g d pv => exact execPrd_inv h g d pv
  | prdn g d pv qt qs => exact execPrdn_inv h g d pv qt qs
  | pseal g => exact execPseal_inv h g
  | pstat g d south => exact show KeepsInv (execPstat g d south s) from issueQ_inv (fun _ _ _ h => by exact h) h _ g
  | pxfer g qs n => exact execPxfer_inv h g qs n
  | wld g a n fmt sa ss fs => exact execWld_inv h g a n fmt sa ss fs
  | wswap g => exact execWswap_inv h g
  | mmac g f => exact execMmac_inv h g f
  | accrd g d a k e => exact show KeepsInv (execAccrd g d a k e s) from issueL_inv (onRow_inv _) h _ g
  | accwr g d a k e => exact execAccwr_inv h g d a k e
  | accz g f cnt => exact show KeepsInv (execAccz g f cnt s) from issueQ_inv (onRow_inv _) h _ g
  | mdrain g a => exact execMdrain_inv h g a
  | mfill g a => exact execMfill_inv h g a
  | mstat g d f => exact show KeepsInv (execMstat g d f s) from issueQ_inv (fun _ _ _ h => by exact h) h _ g
  | ldv g d m fs => exact show KeepsInv (execLdv g d m fs s) from issueAll_inv (loadBody_inv g _ _ _ _ fs _) h _
  | stv g d m => exact show KeepsInv (execStv g d m s) from issueAll_inv (storeBody_inv g d m _ _) h _
  | ldx g d m fs => exact show KeepsInv (execLdx g d m fs s) from issueAll_inv (loadBody_inv g _ _ _ _ fs _) h _
  | stx g d m => exact show KeepsInv (execStx g d m s) from issueAll_inv (storeBody_inv g d m _ _) h _
  | ldt g d m fs => exact show KeepsInv (execLdt g d m fs s) from issueAll_inv (loadBody_inv g _ _ _ _ fs _) h _
  | ldm g d base off fs => exact execLdm_inv h g d base off fs
  | ldvol g d m fs => exact show KeepsInv (execLdvol g d m fs s) from issueAll_inv (loadBody_inv g _ _ _ _ fs _) h _
  | stvol g d m => exact show KeepsInv (execStvol g d m s) from issueAll_inv (storeBody_inv g d m _ _) h _
  | fence g k sc => exact show KeepsInv (execFence g k sc s) from issueQ_inv (fun _ _ _ h => by exact h) h _ g
  | ldacq g d m fs => exact show KeepsInv (execLdacq g d m fs s) from issueAll_inv (loadBody_inv g _ _ _ _ fs _) h _
  | strel g d m => exact show KeepsInv (execStrel g d m s) from issueAll_inv (storeBody_inv g d m _ _) h _
  | amo g d base idx sc fn ret o fs => exact show KeepsInv (execAmo g d base idx sc fn ret o fs s) from issueWord_inv (fun _ n v h => atomBody_inv fn _ o _ _ _ _ _ h n) h _ _
  | red g d base idx sc fn o => exact show KeepsInv (execRed g d base idx sc fn o s) from issueWord_inv (fun _ n v h => atomBody_inv fn _ o _ _ _ _ _ h n) h _ _
  | amos g d base wide fn ret o fs => exact show KeepsInv (execAmos g d base wide fn ret o fs s) from issueQ_inv (fun _ n v h => atomBody_inv fn _ o _ _ _ _ _ h n) h _ g
  | own g d base off many => exact execOwn_inv h g d base off many
  | disown g d base off many => exact execDisown_inv h g d base off many
  | peg g a b c flag act n => exact execPeg_inv h g a b c flag act n
  | unpeg g mask => exact execUnpeg_inv h g mask
  | pegw g a n fs => exact execPegw_inv h g a n fs
  | pegq g d tag n => exact show KeepsInv (execPegq g d tag n s) from issueQ_inv (fun _ _ _ h => by exact h) h _ g
  | rpos g d f => exact show KeepsInv (execRpos g d f s) from issueQ_inv (fun _ _ _ h => by exact h) h _ g
  | ctail g a die eng => exact execCtail_inv h g a die eng
  | ctailRetry g die eng => exact execCtailRetry_inv h g die eng
  | ctailSkip g die eng => exact execCtailSkip_inv h g die eng
  | ctailStart g a b die eng => exact execCtailStart_inv h g a b die eng
  | cseq g d f die eng => exact show KeepsInv (execCseq g d f die eng s) from issueQ_inv (fun _ _ _ h => by exact h) h _ g
  | cwait g b die eng fs => exact execCwait_inv h g b die eng fs
  | cbacq g a b die buf => exact execCbacq_inv h g a b die buf
  | cbrel g a die buf => exact execCbrel_inv h g a die buf
  | cbpub g a b fin die buf => exact execCbpub_inv h g a b fin die buf
  | cbpubGet g a die buf => exact execCbpubGet_inv h g a die buf
  | spawn g a b c inc pri vf nargs va => exact execSpawn_inv h g a b c inc pri vf nargs va
  | tjoin g a => exact execTjoin_inv h g a
  | targ g d k => exact execTarg_inv h g d k
  | tend g => exact execTend_inv h g
  | desc g a b => exact execDesc_inv h g a b
  | bar g d b op grp => exact execBar_inv h g d b op grp
  | bara g b op grp => exact execBara_inv h g b op grp
  | barw g d grp => exact execBarw_inv h g d grp
  | trig g => exact execTrig_inv h g
  | flwait g all mask => exact execFlwait_inv h g all mask
  | trap g code => exact execTrap_inv h g code
  | eret g => exact execEret_inv h g
  | idem g m => exact execIdem_inv h g m
  | idend g => exact execIdend_inv h g
  | phint g wake units n => exact show KeepsInv (execPhint g wake units n s) from issueQ_inv (fun _ _ _ h => by exact h) h _ g
  | yield g => exact show KeepsInv (execYield g s) from issueQ_inv (fun _ _ _ h => by exact h) h _ g
  | rdcyc g d run => exact show KeepsInv (execRdcyc g d run s) from issueQ_inv (fun _ _ _ h => by exact h) h _ g
  | halt g code => exact show KeepsInv (execHalt g code s) from issueQ_inv (fun _ _ _ h => by exact h) h _ g
  | clauseIssue row => exact execClauseIssue_inv h row
  | deferredTrap row => exact show KeepsInv (execDeferredTrap row s) from keepsInv_next.2 (h.takeDue row)
  | operationComplete row id sel ecc => exact execOperationComplete_inv h row id sel ecc
  | storePerform row id sel ecc => exact show KeepsInv (execStorePerform row id sel ecc s) from keepsInv_next.2 ((performStore_inv h row id sel ecc).getD h)
  | atomicPerform row id sel ecc => exact show KeepsInv (execAtomicPerform row id sel ecc s) from keepsInv_next.2 ((performAtomic_inv h row id sel ecc).getD h)
  | rowRetire row => exact execRowRetire_inv h row
  | portEntryArrive row => exact show KeepsInv (execPortEntryArrive row s) from keepsInv_next.2 h
  | portWaitEnd row => exact execPortWaitEnd_inv h row
  | portStarved row => exact execPortStarved_inv h row
  | cbEdgeTransfer row south => exact execCbEdgeTransfer_inv h row south
  | vectorEnter row => exact execVectorEnter_inv h row
  | vectorWrite row => exact execVectorWrite_inv h row
  | swapPoint row => exact execSwapPoint_inv h row
  | shadowFillStart row => exact execShadowFillStart_inv h row
  | arrayPortStop row ecc => exact execArrayPortStop_inv h row ecc
  | arrayWatchdog row => exact execArrayWatchdog_inv h row
  | revolutionStart => exact execRevolutionStart_inv h
  | feederInsert ecc => exact execFeederInsert_inv h ecc
  | tilePass die bad => exact execTilePass_inv h die bad
  | pegFireComplete row n => exact execPegFireComplete_inv h row n
  | ringWatchdog row n => exact execRingWatchdog_inv h row n
  | commitPoint => exact execCommitPoint_inv h
  | engineCommandStart die eng ecc => exact execEngineCommandStart_inv h die eng ecc
  | engineCommandComplete die eng => exact execEngineCommandComplete_inv h die eng
  | nopCommand die eng => exact execNopCommand_inv h die eng
  | copy die eng ecc => exact execCopy_inv h die eng ecc
  | tile die eng ecc => exact execTile_inv h die eng ecc
  | gather die eng ecc => exact execGather_inv h die eng ecc
  | transpose die eng ecc => exact execTranspose_inv h die eng ecc
  | fill die eng => exact execFill_inv h die eng
  | pairedCommit die eng ecc => exact execPairedCommit_inv h die eng ecc
  | edgeFeed die eng ecc => exact execEdgeFeed_inv h die eng ecc
  | edgeDrain die eng => exact execEdgeDrain_inv h die eng
  | bufferSetUp die eng => exact execBufferSetUp_inv h die eng
  | followOnMmac die eng => exact execFollowOnMmac_inv h die eng
  | send die eng ecc => exact execSend_inv h die eng ecc
  | recv die eng => exact execRecv_inv h die eng
  | reduceStep die eng ecc => exact execReduceStep_inv h die eng ecc
  | xorReduce die eng ecc => exact execXorReduce_inv h die eng ecc
  | allreduce die eng ecc => exact execAllreduce_inv h die eng ecc
  | linkAbort comm tag => exact execLinkAbort_inv h comm tag
  | adyanCell port c => exact execAdyanCell_inv h port c
  | replay port seq => exact show KeepsInv (execReplay port seq s) from keepsInv_next.2 (h.replay port seq)
  | windowFill die => exact execWindowFill_inv h die
  | waveDispatch die row => exact execWaveDispatch_inv h die row
  | stealRequest die => exact execStealRequest_inv h die
  | taskEnqueue die => exact execTaskEnqueue_inv h die
  | joinDecrement row => exact execJoinDecrement_inv h row
  | continuationEnqueue die pri => exact execContinuationEnqueue_inv h die pri
  | partSecure die => exact execPartSecure_inv h die
  | domainReassign dom => exact show KeepsInv (execDomainReassign dom s) from keepsInv_next.2 h
  | gangStart pl => exact execGangStart_inv h pl
  | allowanceTick dom => exact execAllowanceTick_inv h dom
  | thermal dom reading => exact execThermal_inv h dom reading
  | laggardTransferEnd dom => exact show KeepsInv (execLaggardTransferEnd dom s) from keepsInv_next.2 h
  | bank row fp => exact execBank_inv h row fp
  | stokeRequest row fp => exact execStokeRequest_inv h row fp
  | inrushGrant die => exact execInrushGrant_inv h die
  | stokeComplete row fp => exact execStokeComplete_inv h row fp
  | preemptArrive die => exact execPreemptArrive_inv h die
  | hamperSave row => exact execHamperSave_inv h row
  | start => exact execStart_inv h
  | featuresTimeout => exact execFeaturesTimeout_inv h
  | fatal cause => exact execFatal_inv h cause
  | eventDeliver => exact execEventDeliver_inv h
  | cmdTail r v => exact execCmdTail_inv h r v
  | evtHead v => exact show KeepsInv (execEvtHead v s) from keepsInv_next.2 h
  | windowWrite off v => exact show KeepsInv (execWindowWrite off v s) from keepsInv_next.2 h
  | features => exact execFeatures_inv h
  | attest ecc => exact execAttest_inv h ecc
  | status => exact execStatus_inv h
  | jobOpen => exact execJobOpen_inv h
  | jobClose => exact execJobClose_inv h
  | allocSet ecc => exact execAllocSet_inv h ecc
  | sideCheck => exact execSideCheck_inv h
  | xlateInval => exact execXlateInval_inv h
  | place ecc => exact execPlace_inv h ecc
  | poolBind ecc => exact execPoolBind_inv h ecc
  | poolUnbind => exact execPoolUnbind_inv h
  | preempt => exact execPreempt_inv h
  | resume ecc => exact execResume_inv h ecc
  | checkpoint ecc => exact execCheckpoint_inv h ecc
  | restore ecc => exact execRestore_inv h ecc
  | ringLoad ecc => exact execRingLoad_inv h ecc
  | linkUp => exact execLinkUp_inv h
  | commLoad ecc => exact execCommLoad_inv h ecc
  | powerSet => exact execPowerSet_inv h
  | clearStart => exact execClearStart_inv h
  | mgmtStatus => exact show KeepsInv (execMgmtStatus s) from keepsInv_next.2 h
  | mgmtAttest => exact show KeepsInv (execMgmtAttest s) from keepsInv_next.2 h
  | mgmtReadStart => exact show KeepsInv (execMgmtReadStart s) from keepsInv_next.2 h
  | mgmtReadEvents => exact execMgmtReadEvents_inv h
  | mgmtReset => exact execMgmtReset_inv h

/-! ### One step -/

theorem issueNext_inv (n : Nat) : KeepsInv (issueNext n s) := by
  fun_cases issueNext n s
  case case3 => exact keepsInv_next.2 (State.Inv.takeDeferred (s := { s with cur := n }) h n _)
  case case4 => exact keepsInv_next.2 (State.Inv.trapHere (s := { s with cur := n }) h n _ _)
  case case5 => exact exec_inv (s := { s with cur := n }) h _
  all_goals exact keepsInv_next.2 h

theorem runMove_inv (m : Move) : KeepsInv (runMove m s) := by
  fun_cases runMove m s
  case case1 => exact issueNext_inv h _
  case case3 => exact exec_inv h _
  all_goals exact keepsInv_next.2 h

theorem State.Inv.evict (d : Nat) : (evict s d).Inv := by
  fun_cases Machine.evict s d
  case case1 => exact h.flushIf d _
  all_goals exact h

theorem State.Inv.seePops (n : Nat) : (seePops s n).Inv := h

theorem State.Inv.transfersEnd : (Machine.endTransfers s).Inv := by
  unfold Machine.endTransfers
  refine State.Inv.foldl (fun s e h => ?_) _ h
  split <;> exact h

theorem State.Inv.prefetch : (prefetch s).Inv := by
  unfold Machine.prefetch
  extract_lets s1
  have h1 : s1.Inv := by
    unfold s1
    split
    · exact h.lookup _ _
    · exact h
  split
  · exact h1.readClause _ _
  · exact h1

theorem State.Inv.passClk (d : Nat) : (s.passClk d).Inv := by
  unfold State.passClk
  dsimp only
  split
  · refine State.Inv.foldl (fun s m h => ?_) _ (s := s.modDie d _) h
    exact h
  · exact h

/-- A turn of the free schedule's clocks. -/
theorem State.Inv.passTime : (passTime s).Inv := by
  unfold Machine.passTime
  extract_lets t s1
  have ht : t.Inv := h
  have h1 : s1.Inv := by
    refine State.Inv.foldl (fun s d h => State.Inv.evict ?_ d) _ ht
    split
    · exact h.passClk d
    · exact h
  exact State.Inv.prefetch (State.Inv.foldl (fun s n h => h.seePops n) _ h1.pumpLinks.transfersEnd)

theorem State.Inv.turnTo (n : Nat) : (s.turnTo n).Inv := by
  unfold State.turnTo
  refine (inv_modRow _ n _).2 ?_
  exact State.Inv.foldl (fun s d h => h.passClk d) _ h

theorem State.Inv.drawMove : (drawMove s).Inv := by
  have hp := h.passTime
  unfold Machine.drawMove
  extract_lets k n mine t
  have ht : t.Inv := by
    unfold t
    split
    · exact hp.turnTo n
    · exact hp
  clear_value t
  exact ht

theorem step_inv : KeepsInv (step s) := by
  unfold step
  split
  · exact keepsInv_next.2 h.drawMove
  · rename_i m rest _
    exact runMove_inv (h.setAgenda rest) m

end

/-- Settles O7: each instruction and each event keeps the canonical form of every memory, and so does the passing of time between
two moves. -/
theorem stepKeepsInvariant : Obligations.StepKeepsInvariant := by
  unfold Obligations.StepKeepsInvariant
  intro s t h e
  exact step_inv h t e

/-- Settles O8. -/
theorem resetInvariant : Obligations.ResetInvariant := by
  unfold Obligations.ResetInvariant
  exact ⟨rfl, fun x hx => (List.not_mem_nil hx).elim, fun k hk => (Option.not_mem_none k hk).elim, rfl⟩

end Sys2Proof.Machine
end

section
/-! SUPPORT. Loads and stores at issue (R224, R232 to R241). -/

namespace Sys2Proof.Machine

/-! ### The address of an element (R224, R234) -/

theorem extract_high_eq_zero {a : W64} : a.extractLsb' 56 8 = 0 ↔ a.toNat < 2 ^ 56 := by
  rw [← BitVec.toNat_inj, BitVec.extractLsb'_toNat, Nat.shiftRight_eq_div_pow]
  have := a.isLt
  simp only [BitVec.ofNat_eq_ofNat, BitVec.toNat_ofNat]
  omega

theorem getLsbD_side {a : W64} (h : a.toNat < 2 ^ 56) : a.getLsbD 55 = decide (2 ^ 55 ≤ a.toNat) := by
  rw [BitVec.getLsbD, Nat.testBit_eq_decide_div_mod_eq]
  exact decide_eq_decide.2 (by omega)

theorem sideFault_of_high {a : W64} (h : 2 ^ 56 ≤ a.toNat) : sideFault a = some cBounds := by
  have hne : a.extractLsb' 56 8 ≠ 0 := fun h0 => by have := extract_high_eq_zero.1 h0; omega
  rw [sideFault, if_pos (bne_iff_ne.2 hne)]

theorem sideFault_of_low {a : W64} (h : a.toNat < 2 ^ 55) : sideFault a = some cProt := by
  have h56 : a.toNat < 2 ^ 56 := by omega
  have hbit : a.getLsbD 55 = false := by rw [getLsbD_side h56]; exact decide_eq_false (by omega)
  rw [sideFault, extract_high_eq_zero.2 h56, hbit]
  rfl

/-- In side memory the bits 54:34 and 31:29 decide. -/
theorem sideFault_of_side {a : W64} (h : 2 ^ 55 ≤ a.toNat) (h56 : a.toNat < 2 ^ 56) :
    sideFault a = if a.extractLsb' 34 21 ≠ 0 ∨ a.extractLsb' 29 3 ≠ 0 then some cBounds else none := by
  have hbit : a.getLsbD 55 = true := by rw [getLsbD_side h56]; exact decide_eq_true h
  rw [sideFault, extract_high_eq_zero.2 h56, hbit]
  simp

theorem elemFault_of_sideFault {s : State} {n E : Nat} {a : W64} {c : W8} (h : sideFault a = some c) :
    s.elemFault n E a = some c := by
  simp [State.elemFault, h]

theorem elemFault_of_fine {s : State} {n E : Nat} {a : W64} (h : sideFault a = none) :
    s.elemFault n E a = if a.toNat % E ≠ 0 then some cMisalign else if s.denied n a.toNat then some cOwner else none := by
  simp [State.elemFault, h]

theorem denied_iff {s : State} {n a : Nat} :
    s.denied n a = true ↔ s.checked a = true ∧ s.owner a ≠ noOwner ∧ s.owner a ≠ BitVec.ofNat 10 n := by
  simp [State.denied, and_assoc]

theorem not_denied {s : State} {n a : Nat}
    (h : s.checked a = false ∨ s.owner a = noOwner ∨ s.owner a = BitVec.ofNat 10 n) : s.denied n a = false := by
  rw [Bool.eq_false_iff, Ne, denied_iff]
  rintro ⟨hc, hn, ho⟩
  obtain h | h | h := h
  · rw [hc] at h; cases h
  · exact hn h
  · exact ho h

@[simp] theorem draw_elemFault (s : State) (n E : Nat) (a : W64) : s.draw.elemFault n E a = s.elemFault n E a := rfl
@[simp] theorem draw_checked (s : State) (a : Nat) : s.draw.checked a = s.checked a := rfl

/-! ### The check of an instruction's elements -/

/-- Where an element fails its check the first does, with its address; otherwise `x`. -/
def State.checkedThen (s : State) (n E : Nat) (as : List W64) (x : Res) : Res :=
  (s.firstFault n E as).elim x (fun y => .trap y.1 y.2 s)

theorem checkedThen_fine {s : State} {n E : Nat} {as : List W64} {x : Res} (h : ∀ a ∈ as, s.elemFault n E a = none) :
    s.checkedThen n E as x = x := by
  have hf : s.firstFault n E as = none := by
    rw [State.firstFault, List.findSome?_eq_none_iff]
    intro a ha
    rw [h a ha, Option.map_none]
  rw [State.checkedThen, hf, Option.elim_none]

/-- The lowest of the acting lanes that gives anything decides. -/
theorem findSome?_actLanes {β : Type} {r : Row} {g : Guard} {f : Nat → Option β} {j : Nat} {y : β} (hj : j ∈ r.actLanes g)
    (hf : f j = some y) (hlow : ∀ k ∈ r.actLanes g, k < j → f k = none) : (r.actLanes g).findSome? f = some y := by
  have hfind : (r.actLanes g).find? (fun l => (f l).isSome) = some j :=
    find?_actLanes hj (by rw [hf]; rfl) fun k hk hkj => by rw [hlow k hk hkj]; rfl
  obtain ⟨_, as, bs, happ, hnone⟩ := List.find?_eq_some_iff_append.1 hfind
  exact List.findSome?_eq_some_iff.2 ⟨as, j, bs, happ, hf, fun k hk => by simpa using hnone k hk⟩

theorem checkedThen_fault {s : State} {r : Row} {g : Guard} {n E j : Nat} {a : Nat → W64} {c : W8} {x : Res}
    (hj : j ∈ r.actLanes g) (hc : s.elemFault n E (a j) = some c)
    (hlow : ∀ l ∈ r.actLanes g, l < j → s.elemFault n E (a l) = none) :
    s.checkedThen n E ((r.actLanes g).map a) x = .trap c (a j) s := by
  have hf : s.firstFault n E ((r.actLanes g).map a) = some (c, a j) := by
    rw [State.firstFault, List.findSome?_map]
    exact findSome?_actLanes hj (by simp [hc]) fun k hk hkj => by simp [hlow k hk hkj]
  rw [State.checkedThen, hf, Option.elim_some]

theorem checkedThen_single {s : State} {n E : Nat} {a : W64} {c : W8} {x : Res} (hc : s.elemFault n E a = some c) :
    s.checkedThen n E [a] x = .trap c a s := by
  simp [State.checkedThen, State.firstFault, hc]

/-! ### An operation of unchecked pages issues -/

theorem addOp_findOp {r : Row} (h : r.ops = []) (flag : Option Nat) (k : OpKind) :
    (r.addOp flag k).findOp r.nextId = some ⟨r.nextId, r.armId, flag, k⟩ := by
  cases flag <;> simp [Row.addOp, Row.findOp, h]

theorem Row.Quiet.operandsHold {r : Row} (h : r.Quiet) (k : OpKind) : r.operandsHold k = false := by
  obtain ⟨hops, hqueue, _⟩ := h
  simp [Row.operandsHold, Row.operandMeets, Row.mmacMeets, hops, hqueue]

theorem Row.Quiet.bufferUse {r : Row} (h : r.Quiet) : r.bufferUse = 0 := by simp [Row.bufferUse, h.1]

/-- No element of an operation lies in a checked page. -/
def OpKind.Unchecked (s : State) (k : OpKind) : Prop := ∀ a ∈ k.addrs, sideBase ≤ a → s.checked a = false

theorem checkedElems_unchecked {s : State} {k : OpKind} (h : k.Unchecked s) : checkedElems s k = [] := by
  have hnone : k.addrs.zipIdx.filter (fun x => sideBase ≤ x.1 && s.checked x.1) = [] := by
    refine List.filter_eq_nil_iff.2 fun x hx => ?_
    simp only [Bool.and_eq_true, decide_eq_true_eq, not_and, Bool.not_eq_true]
    exact h x.1 (List.fst_mem_of_mem_zipIdx hx)
  simp [checkedElems, hnone]

theorem issueOp_unchecked {s : State} {n : Nat} {k : OpKind} (flag : Option Nat) (hq : (s.row n).Quiet)
    (hk : k.Unchecked s) : issueOp s n flag k = .done (s.modRow n (fun r => r.addOp flag k)) := by
  have hfind : ((s.modRow n (fun r => r.addOp flag k)).row n).findOp (s.row n).nextId =
      some ⟨(s.row n).nextId, (s.row n).armId, flag, k⟩ := by
    rw [modRow_row_same]
    exact addOp_findOp hq.1 flag k
  have hnone : checkedElems (s.modRow n (fun r => r.addOp flag k)) k = [] := checkedElems_unchecked hk
  have hdone : performChecked (s.modRow n (fun r => r.addOp flag k)) n (s.row n).nextId =
      some (s.modRow n (fun r => r.addOp flag k)) := by
    unfold performChecked
    rw [hfind]
    exact congrArg (performEach n (s.row n).nextId · (s.modRow n (fun r => r.addOp flag k))) hnone
  simp only [issueOp, hq.operandsHold, hdone, Bool.false_eq_true, if_false]

section
variable {i : Instr} {s : State} {k : OpKind} {flag : Option Nat}

/-- A word whose body comes to the issue of an operation. -/
theorem ComesTo.issues (h : ComesTo i s (issueOp s.draw s.cur flag k)) (hq : (s.row s.cur).Quiet) (hk : k.Unchecked s) :
    Completes i s (s.now (fun r => r.addOp flag k)) := by
  have hdone := issueOp_unchecked (s := s.draw) flag hq hk
  rw [hdone] at h
  exact h.completes_now

end

/-! ### Loads (R232 to R236, R238, R239) -/

theorem actLanes_isEmpty (r : Row) (g : Guard) : (r.actLanes g).isEmpty = !r.anyActs g := by
  rw [Row.anyActs, Bool.not_not]

/-- The operation of a load: in each acting lane an element, or, for its place in the order, one of no bytes. -/
def Row.loadOp (r : Row) (g : Guard) (dst : Dst) (E : Nat) (sx mask : Bool) (ord : AccKind) (a : Nat → W64) : OpKind :=
  if ord.scope = none ∨ r.anyActs g = true then
    .load dst E sx mask ord ((r.actLanes g).map (fun l => ⟨l, (a l).toNat, none, false⟩))
  else .load .none 0 false false ord [⟨0, 0, none, false⟩]

theorem loadOp_ordinary (r : Row) (g : Guard) (dst : Dst) (E : Nat) (sx mask : Bool) (a : Nat → W64) :
    r.loadOp g dst E sx mask .ordinary a =
      .load dst E sx mask .ordinary ((r.actLanes g).map (fun l => ⟨l, (a l).toNat, none, false⟩)) := if_pos (.inl rfl)

theorem loadOp_unchecked {s : State} {r : Row} {g : Guard} {dst : Dst} {E : Nat} {sx mask : Bool} {ord : AccKind} {a : Nat → W64}
    (h : ∀ l ∈ r.actLanes g, s.checked (a l).toNat = false) : (r.loadOp g dst E sx mask ord a).Unchecked s := by
  unfold Row.loadOp
  split
  · intro x hx _
    simp only [OpKind.addrs, List.map_map, List.mem_map, Function.comp_apply] at hx
    obtain ⟨l, hl, rfl⟩ := hx
    exact h l hl
  · intro x hx hside
    simp only [OpKind.addrs, List.map_cons, List.map_nil, List.mem_singleton] at hx
    subst hx
    exact absurd hside (by decide)

theorem loadBody_eq (g : Guard) (dst : Dst) (E : Nat) (sx : Bool) (ord : AccKind) (fs : Bool) (addr : Row → Nat → W64)
    (s : State) (n : Nat) (r : Row) : loadBody g dst E sx ord fs addr s n r =
      s.checkedThen n E ((r.actLanes g).map (addr r)) (issueOp s n (r.flagSel fs) (r.loadOp g dst E sx false ord (addr r))) := by
  have hop : r.loadOp g dst E sx false ord (addr r) =
      if ord.marks (r.actLanes g).isEmpty then .load .none 0 false false ord [⟨0, 0, none, false⟩]
      else .load dst E sx false ord ((r.actLanes g).map (fun l => ⟨l, (addr r l).toNat, none, false⟩)) := by
    rw [Row.loadOp, AccKind.marks, actLanes_isEmpty]
    cases ord.scope <;> cases r.anyActs g <;> rfl
  rw [hop, loadBody, State.checkedThen]
  cases s.firstFault n E ((r.actLanes g).map (addr r)) <;> rfl

/-- The address of the byte of a predicate that lane l loads (R239). -/
def Row.maskAddr (r : Row) (base : SReg) (off : BitVec 12) (l : Nat) : W64 := r.baseAddr base off 1 + BitVec.ofNat 64 (l / 8)

theorem execLdm_eq (g : Guard) (d : PReg) (base : SReg) (off : BitVec 12) (fs : Bool) (s : State) :
    execLdm g d base off fs s =
      issueAll { hold := fun r => r.pendP d.toNat, access := true, units := 3, cycles := Row.passes } (fun s n r =>
        s.checkedThen n 1 ((r.actLanes g).map (r.maskAddr base off))
          (issueOp s n (r.flagSel fs) (r.loadOp g (.preg d.toNat) 1 false true .ordinary (r.maskAddr base off)))) s := by
  unfold execLdm
  congr 1
  funext s n r
  delta Row.maskAddr
  rw [loadOp_ordinary, State.checkedThen]
  dsimp only
  cases s.firstFault n 1 ((r.actLanes g).map (fun l => r.baseAddr base off 1 + BitVec.ofNat 64 (l / 8))) <;> rfl

section
variable {i : Instr} {s : State} {g : Guard} {k : OpKind} {flag : Option Nat} {E j : Nat} {c : W8} {a : Nat → W64} {x : Res}

/-- A lane-class access raises the cause of its first failing lane. -/
theorem ComesTo.raises_first (h : ComesTo i s (s.draw.checkedThen s.cur E (((s.row s.cur).actLanes g).map a) x))
    (hj : j ∈ (s.row s.cur).actLanes g) (hc : s.elemFault s.cur E (a j) = some c)
    (hlow : ∀ l ∈ (s.row s.cur).actLanes g, l < j → s.elemFault s.cur E (a l) = none) : Raises i s c (a j) := by
  rw [checkedThen_fault (s := s.draw) hj hc hlow] at h
  exact h.raises

/-- It comes to what follows the check where each acting lane passes. -/
theorem ComesTo.passes (h : ComesTo i s (s.draw.checkedThen s.cur E (((s.row s.cur).actLanes g).map a) x))
    (hfine : ∀ l ∈ (s.row s.cur).actLanes g, s.elemFault s.cur E (a l) = none) : ComesTo i s x := by
  rwa [checkedThen_fine (s := s.draw) (List.forall_mem_map.2 hfine)] at h

end

section
variable {i : Instr} {s : State} {g : Guard} {d : VReg} {m : Mem} {dst : Dst} {E j : Nat} {sx fs : Bool} {ord : AccKind}
  {addr : Row → Nat → W64} {c : W8}

theorem load_comesTo (he : exec i s = issueAll (planLoad d m) (loadBody g dst E sx ord fs addr) s)
    (hq : (s.row s.cur).Quiet) (hr : (s.row s.cur).Has (memRegs d m)) :
    ComesTo i s (s.draw.checkedThen s.cur E (((s.row s.cur).actLanes g).map (addr (s.row s.cur)))
      (issueOp s.draw s.cur ((s.row s.cur).flagSel fs) ((s.row s.cur).loadOp g dst E sx false ord (addr (s.row s.cur))))) := by
  rw [← loadBody_eq]
  exact comesTo_issueAll he hq (Plan.clear_lanes rfl hr rfl rfl rfl (hq.holdV d.toNat) rfl) rfl

theorem ldm_comesTo (pd : PReg) (base : SReg) (off : BitVec 12) (hq : (s.row s.cur).Quiet) :
    ComesTo (.ldm g pd base off fs) s
      (s.draw.checkedThen s.cur 1 (((s.row s.cur).actLanes g).map ((s.row s.cur).maskAddr base off))
        (issueOp s.draw s.cur ((s.row s.cur).flagSel fs)
          ((s.row s.cur).loadOp g (.preg pd.toNat) 1 false true .ordinary ((s.row s.cur).maskAddr base off)))) :=
  comesTo_issueAll (i := .ldm g pd base off fs) (execLdm_eq g pd base off fs s) hq ⟨rfl, rfl, rfl, rfl, hq.pendP pd.toNat, rfl⟩ rfl

end

/-- What a lane-class load does, whose lanes have these addresses. -/
theorem ComesTo.loads {i : Instr} {s : State} {g : Guard} {dst : Dst} {E j : Nat} {sx mask fs : Bool} {ord : AccKind}
    {a : Nat → W64} {c : W8} (h : ComesTo i s (s.draw.checkedThen s.cur E (((s.row s.cur).actLanes g).map a)
      (issueOp s.draw s.cur ((s.row s.cur).flagSel fs) ((s.row s.cur).loadOp g dst E sx mask ord a))))
    (hq : (s.row s.cur).Quiet) :
    ((∀ l ∈ (s.row s.cur).actLanes g, s.elemFault s.cur E (a l) = none ∧ s.checked (a l).toNat = false) →
      Completes i s (s.now (fun r => r.addOp (r.flagSel fs) ((s.row s.cur).loadOp g dst E sx mask ord a)))) ∧
    (j ∈ (s.row s.cur).actLanes g → s.elemFault s.cur E (a j) = some c →
      (∀ l ∈ (s.row s.cur).actLanes g, l < j → s.elemFault s.cur E (a l) = none) → Raises i s c (a j)) := by
  refine ⟨fun hfine => ?_, fun hj hc hlow => h.raises_first hj hc hlow⟩
  exact (h.passes fun l hl => (hfine l hl).1).issues hq (loadOp_unchecked fun l hl => (hfine l hl).2)

theorem execSld_eq (g : Guard) (d : SReg) (m : Mem) (vol fs : Bool) (s : State) :
    execSld g d m vol fs s =
      issueQ { hold := fun r => r.pendS d.toNat, access := true, units := 1 } g (fun s n r =>
        s.checkedThen n (szSize m.sz) [r.baseAddr m.base m.off (szSize m.sz)] (issueOp s n (r.flagSel fs)
          (.load (r.dstS d.toNat) (szSize m.sz) (szSigned m.sz) false (if vol then .volatile else .ordinary)
            [⟨0, (r.baseAddr m.base m.off (szSize m.sz)).toNat, none, false⟩]))) s := by
  unfold execSld
  congr 1
  funext s n r
  rw [State.checkedThen]
  dsimp only
  cases s.firstFault n (szSize m.sz) [r.baseAddr m.base m.off (szSize m.sz)] <;> rfl

section
variable {s : State} {g : Guard} {d : SReg} {m : Mem} {vol fs : Bool} {c : W8}

theorem sld_comesTo (h : s.ready g) : ComesTo (.sld g d m vol fs) s
    (s.draw.checkedThen s.cur (szSize m.sz) [(s.row s.cur).baseAddr m.base m.off (szSize m.sz)]
      (issueOp s.draw s.cur ((s.row s.cur).flagSel fs)
        (.load ((s.row s.cur).dstS d.toNat) (szSize m.sz) (szSigned m.sz) false (if vol then .volatile else .ordinary)
          [⟨0, ((s.row s.cur).baseAddr m.base m.off (szSize m.sz)).toNat, none, false⟩]))) :=
  comesTo_issueQ (i := .sld g d m vol fs) (execSld_eq g d m vol fs s) h ⟨rfl, rfl, rfl, rfl, h.1.pendS d.toNat, rfl⟩ rfl

/-- The one element of a scalar access passes its check. -/
theorem ComesTo.single {i : Instr} {E : Nat} {a : W64} {x : Res} (h : ComesTo i s (s.draw.checkedThen s.cur E [a] x))
    (hfine : s.elemFault s.cur E a = none) : ComesTo i s x := by
  rwa [checkedThen_fine (s := s.draw) (List.forall_mem_singleton.2 hfine)] at h

theorem ComesTo.single_raises {i : Instr} {E : Nat} {a : W64} {x : Res} (h : ComesTo i s (s.draw.checkedThen s.cur E [a] x))
    (hc : s.elemFault s.cur E a = some c) : Raises i s c a := by
  rw [checkedThen_single (s := s.draw) hc] at h
  exact h.raises

end

/-- The runs form (Table 10-6): each run of 32 lanes from the address of its first. -/
theorem runAddr_eq (r : Row) (m : Mem) (E l : Nat) : r.runAddr m E l =
    r.baseAddr m.base m.off E + (r.vreg m.idx.toNat (l / 32 * 32)).signExtend 64 <<< m.sc.toNat + BitVec.ofNat 64 (l % 32 * E) := by
  have hmod : l - l / 32 * 32 = l % 32 := by omega
  rw [Row.runAddr, hmod]

/-! ### Of elements that meet, only the highest lane's (R237) -/

theorem highestOnly_sublist (E : Nat) (l : List StoreElem) : (highestOnly E l).Sublist l := by
  induction l with
  | nil => exact List.Sublist.slnil
  | cons e l ih =>
    unfold highestOnly
    split
    · exact ih.cons e
    · exact ih.cons_cons e

theorem highestOnly_pairwise (E : Nat) (l : List StoreElem) :
    (highestOnly E l).Pairwise (fun x y => meets x.addr E y.addr E = false) := by
  induction l with
  | nil => exact List.Pairwise.nil
  | cons e l ih =>
    unfold highestOnly
    split
    · exact ih
    · rename_i hnone
      refine List.pairwise_cons.2 ⟨fun y hy => ?_, ih⟩
      by_contra hmeets
      exact hnone (List.any_eq_true.2 ⟨y, (highestOnly_sublist E l).subset hy, by simpa using hmeets⟩)

/-- An element that no later one meets is kept. -/
theorem mem_highestOnly {E : Nat} {x : StoreElem} {b : List StoreElem} (hb : ∀ y ∈ b, meets x.addr E y.addr E = false)
    (a : List StoreElem) : x ∈ highestOnly E (a ++ x :: b) := by
  induction a with
  | nil =>
    have hnone : b.any (fun y => meets x.addr E y.addr E) = false := by
      rw [List.any_eq_false]
      intro y hy
      rw [hb y hy]
      exact Bool.false_ne_true
    rw [List.nil_append, highestOnly, hnone, if_neg Bool.false_ne_true]
    exact List.mem_cons_self
  | cons e a ih =>
    rw [List.cons_append, highestOnly]
    split
    · exact ih
    · exact List.mem_cons_of_mem e ih

/-! ### Stores (R232 to R237, R240, R241) -/

theorem Row.passes_le {r : Row} (hL : r.L ≤ 1024) : r.passes ≤ 32 := by
  have hcount := List.countP_le_length (p := fun k => (r.arm.em >>> (32 * k)).setWidth 32 != (0 : W32)) (l := List.range (r.L / 32))
  rw [List.length_range] at hcount
  unfold Row.passes
  omega

/-- What a store writes in each acting lane. -/
def Row.storeElems (r : Row) (g : Guard) (d : VReg) (m : Mem) (E : Nat) : List StoreElem :=
  (r.actLanes g).map (fun l => ⟨l, (r.elemAddr m E l).toNat, (r.vreg d.toNat l).setWidth 64, false⟩)

theorem storeElems_isEmpty (r : Row) (g : Guard) (d : VReg) (m : Mem) (E : Nat) :
    (r.storeElems g d m E).isEmpty = !r.anyActs g := by
  rw [Row.storeElems, List.isEmpty_map, actLanes_isEmpty]

/-- The elements of a store that enter the store buffer. -/
def Row.storedElems (r : Row) (g : Guard) (d : VReg) (m : Mem) (E : Nat) (ord : AccKind) : List StoreElem :=
  if ord == .volatile then r.storeElems g d m E else highestOnly E (r.storeElems g d m E)

theorem storedElems_sublist (r : Row) (g : Guard) (d : VReg) (m : Mem) (E : Nat) (ord : AccKind) :
    (r.storedElems g d m E ord).Sublist (r.storeElems g d m E) := by
  unfold Row.storedElems
  split
  · exact List.Sublist.refl _
  · exact highestOnly_sublist E _

/-- What a store whose lanes have passed their check comes to. -/
def storeIssue (g : Guard) (d : VReg) (m : Mem) (E : Nat) (ord : AccKind) (s : State) (n : Nat) (r : Row) : Res :=
  if (r.storeElems g d m E).isEmpty && !ord.marks true then .done s
  else if 32 < (s.row n).bufferUse + r.passes then .wait .memory s
  else if (r.storeElems g d m E).isEmpty then issueOp s n none (.store 0 r.passes ord [⟨0, 0, 0, false⟩])
  else issueOp s n none (.store E r.passes ord (r.storedElems g d m E ord))

theorem storeBody_eq (g : Guard) (d : VReg) (m : Mem) (E : Nat) (ord : AccKind) (s : State) (n : Nat) (r : Row) :
    storeBody g d m E ord s n r =
      s.checkedThen n E ((r.actLanes g).map (r.elemAddr m E)) (storeIssue g d m E ord s n r) := by
  rw [storeBody, State.checkedThen]
  cases s.firstFault n E ((r.actLanes g).map (r.elemAddr m E)) <;> rfl

section
variable {i : Instr} {s : State} {g : Guard} {d : VReg} {m : Mem} {E j : Nat} {ord : AccKind} {c : W8}

theorem store_comesTo (he : exec i s = issueAll (planStore d m) (storeBody g d m E ord) s)
    (hq : (s.row s.cur).Quiet) (hr : (s.row s.cur).Has (memRegs d m)) :
    ComesTo i s (s.draw.checkedThen s.cur E (((s.row s.cur).actLanes g).map ((s.row s.cur).elemAddr m E))
      (storeIssue g d m E ord s.draw s.cur (s.row s.cur))) := by
  rw [← storeBody_eq]
  exact comesTo_issueAll he hq (Plan.clear_lanes rfl hr rfl rfl rfl rfl rfl) rfl

theorem storedElems_unchecked (p : Nat)
    (h : ∀ l ∈ (s.row s.cur).actLanes g, s.checked ((s.row s.cur).elemAddr m E l).toNat = false) :
    (OpKind.store E p ord ((s.row s.cur).storedElems g d m E ord)).Unchecked s := by
  intro x hx _
  obtain ⟨e, he, rfl⟩ := List.mem_map.1 hx
  obtain ⟨l, hl, rfl⟩ := List.mem_map.1 ((storedElems_sublist _ g d m E ord).subset he)
  exact h l hl

/-- What a lane-class store does. -/
theorem store_gives (he : exec i s = issueAll (planStore d m) (storeBody g d m E ord) s) (hq : (s.row s.cur).Quiet)
    (hr : (s.row s.cur).Has (memRegs d m)) (hL : (s.row s.cur).L ≤ 1024) :
    ((∀ l ∈ (s.row s.cur).actLanes g, s.elemFault s.cur E ((s.row s.cur).elemAddr m E l) = none ∧
        s.checked ((s.row s.cur).elemAddr m E l).toNat = false) →
      ((s.row s.cur).anyActs g = true → Completes i s (s.now (fun r =>
        r.addOp none (.store E (s.row s.cur).passes ord ((s.row s.cur).storedElems g d m E ord))))) ∧
      ((s.row s.cur).anyActs g = false → Completes i s
        (if ord.scope = none then s
          else s.now (fun r => r.addOp none (.store 0 (s.row s.cur).passes ord [⟨0, 0, 0, false⟩]))))) ∧
    (j ∈ (s.row s.cur).actLanes g → s.elemFault s.cur E ((s.row s.cur).elemAddr m E j) = some c →
      (∀ l ∈ (s.row s.cur).actLanes g, l < j → s.elemFault s.cur E ((s.row s.cur).elemAddr m E l) = none) →
      Raises i s c ((s.row s.cur).elemAddr m E j)) := by
  have hcome := store_comesTo he hq hr
  have hroom : ¬ 32 < (s.draw.row s.cur).bufferUse + (s.row s.cur).passes := by
    rw [draw_row, hq.bufferUse, Nat.zero_add]
    exact Nat.not_lt.2 (Row.passes_le hL)
  refine ⟨fun hfine => ?_, fun hj hc hlow => hcome.raises_first hj hc hlow⟩
  have hpass := hcome.passes fun l hl => (hfine l hl).1
  rw [storeIssue, storeElems_isEmpty, if_neg hroom] at hpass
  refine ⟨fun hact => ?_, fun hact => ?_⟩
  · rw [hact] at hpass
    exact hpass.issues hq (storedElems_unchecked _ fun l hl => (hfine l hl).2)
  · rw [hact] at hpass
    cases hscope : ord.scope with
    | none =>
      simp only [AccKind.marks, hscope] at hpass
      exact hpass.completes_draw
    | some sc =>
      simp only [AccKind.marks, hscope] at hpass
      refine hpass.issues hq fun x hx hside => ?_
      obtain rfl : x = 0 := by simpa [OpKind.addrs] using hx
      exact absurd hside (by decide)

end

theorem execSst_eq (g : Guard) (d : SReg) (m : Mem) (vol : Bool) (s : State) :
    execSst g d m vol s = issueQ { access := true } g (fun s n r =>
      s.checkedThen n (szSize m.sz) [r.baseAddr m.base m.off (szSize m.sz)]
        (if 32 < (s.row n).bufferUse + 1 then .wait .memory s
        else issueOp s n none (.store (szSize m.sz) 1 (if vol then .volatile else .ordinary)
          [⟨0, (r.baseAddr m.base m.off (szSize m.sz)).toNat, r.sreg d.toNat, false⟩]))) s := by
  unfold execSst
  congr 1
  funext s n r
  rw [State.checkedThen]
  dsimp only
  cases s.firstFault n (szSize m.sz) [r.baseAddr m.base m.off (szSize m.sz)] <;> rfl

theorem sst_comesTo {s : State} {g : Guard} {d : SReg} {m : Mem} {vol : Bool} (h : s.ready g) : ComesTo (.sst g d m vol) s
    (s.draw.checkedThen s.cur (szSize m.sz) [(s.row s.cur).baseAddr m.base m.off (szSize m.sz)]
      (issueOp s.draw s.cur none (.store (szSize m.sz) 1 (if vol then .volatile else .ordinary)
        [⟨0, ((s.row s.cur).baseAddr m.base m.off (szSize m.sz)).toNat, (s.row s.cur).sreg d.toNat, false⟩]))) := by
  have hcome := comesTo_issueQ (i := .sst g d m vol) (execSst_eq g d m vol s) h ⟨rfl, rfl, rfl, rfl, rfl, rfl⟩ rfl
  have hroom : ¬ 32 < (s.draw.row s.cur).bufferUse + 1 := by
    rw [draw_row, h.1.bufferUse]
    decide
  rwa [if_neg hroom] at hcome

/-- Settles O34: the address by its ranges, a load and a store by what the check of their lanes leaves of their body, and the
elements of a store by the recursion that keeps the highest lanes'. -/
theorem accessesIssue : Obligations.AccessesIssue := by
  unfold Obligations.AccessesIssue
  refine ⟨fun s n E a => ⟨fun h => ?_, fun h => ?_, fun hlow hhigh => ?_⟩, fun s g d m fs vol sd base pd off j c hq hr => ?_,
    fun s g d sd m vol j c hq hL hr => ?_⟩
  · exact elemFault_of_sideFault (sideFault_of_high h)
  · exact elemFault_of_sideFault (sideFault_of_low h)
  · have hside := sideFault_of_side hlow hhigh
    refine ⟨fun hole => elemFault_of_sideFault (by rw [hside, if_pos hole]), fun hole hmis => ?_,
      fun hole hal hck hno ho => ?_, fun hole hal hfree => ?_⟩
    all_goals rw [if_neg hole] at hside; rw [elemFault_of_fine hside]
    · exact if_pos hmis
    · rw [if_neg (not_not.2 hal), if_pos (denied_iff.2 ⟨hck, hno, ho⟩)]
    · rw [if_neg (not_not.2 hal), not_denied hfree, if_neg Bool.false_ne_true]
  · intro r b lane A R op gives E sx
    have hrun (E : Nat) : r.runAddr m E = R E := funext (runAddr_eq r m E)
    have hload {i : Instr} {E : Nat} {sx : Bool} {ord : AccKind} {addr : Row → Nat → W64}
        (he : exec i s = issueAll (planLoad d m) (loadBody g (.vreg d.toNat) E sx ord fs addr) s) :
        gives i (.vreg d.toNat) E sx false ord (addr r) := (load_comesTo he hq hr).loads hq
    refine ⟨hload (addr := fun v l => v.elemAddr m E l) rfl, hload (addr := fun v l => v.elemAddr m E l) rfl,
      hrun E ▸ hload (addr := fun v l => v.runAddr m E l) rfl, hload (addr := fun v l => v.elemAddr m E l) rfl,
      hload (addr := fun v l => v.elemAddr m 4 l) rfl, (ldm_comesTo pd base off hq).loads hq,
      fun hg => ⟨fun hfine hck => ?_, fun hc => ?_⟩⟩
    · refine ((sld_comesTo ⟨hq, hg⟩).single hfine).issues hq fun x hx _ => ?_
      obtain rfl := List.mem_singleton.1 hx
      exact hck
    · exact (sld_comesTo ⟨hq, hg⟩).single_raises hc
  · intro r b A es gives E
    have hstore {i : Instr} {E : Nat} {ord : AccKind} (he : exec i s = issueAll (planStore d m) (storeBody g d m E ord) s) :
        gives i E ord (r.storedElems g d m E ord) := store_gives he hq hr hL
    refine ⟨hstore rfl, hstore rfl, hstore rfl, hstore rfl,
      fun n l => ⟨highestOnly_sublist n l, highestOnly_pairwise n l, fun x a b hl hb => ?_⟩,
      fun hg => ⟨fun hfine hck => ?_, fun hc => ?_⟩⟩
    · exact hl ▸ mem_highestOnly hb a
    · refine ((sst_comesTo ⟨hq, hg⟩).single hfine).issues hq fun x hx _ => ?_
      obtain rfl := List.mem_singleton.1 hx
      exact hck
    · exact (sst_comesTo ⟨hq, hg⟩).single_raises hc

end Sys2Proof.Machine
end

section
/-! SUPPORT. The release that DISOWN makes (R241, R245): what it leaves in the far cache bears the number of the values drawn by
then, which is what refutes O36. -/

namespace Sys2Proof.Machine

/-! ### Giving up granules -/

/-- A step that leaves a die alone leaves it alone along a list. -/
theorem foldl_die {α : Type} {f : State → α → State} {d : Nat} (hf : ∀ t x, (f t x).die d = t.die d) (l : List α) (s : State) :
    (l.foldl f s).die d = s.die d :=
  List.foldlRecOn (motive := fun t : State => t.die d = s.die d) l f rfl fun t ht x _ => (hf t x).trans ht

@[simp] theorem setOwner_die (s : State) (a : Nat) (o : BitVec 10) (d : Nat) : (s.setOwner a o).die d = s.die d := rfl

/-- A granule given up, where row n holds it. -/
def State.giveUp (s : State) (n : Nat) (a : W64) : State :=
  if s.owner a.toNat == BitVec.ofNat 10 n then s.setOwner a.toNat noOwner else s

theorem giveUp_die (s : State) (n : Nat) (a : W64) (d : Nat) : (s.giveUp n a).die d = s.die d := by
  unfold State.giveUp
  split <;> rfl

/-- DISOWN of one granule that passes R245's checks releases to the device and gives the granule up. -/
theorem disown_comesTo {s : State} {g : Guard} {d base : SReg} {off : BitVec 12} (h : s.ready g) (ho : (s.row s.cur).outside)
    (hfine : ownFault s s.cur ((s.row s.cur).baseAddr base off 1) 1 = none) :
    ComesTo (.disown g d base off false) s (.done ((ownAddrs ((s.row s.cur).baseAddr base off 1) 1).foldl
      (fun t a => t.giveUp s.cur a) (s.draw.releaseAt (dieOf s.cur) .device))) := by
  have he : exec (.disown g d base off false) s = execDisown g d base off false s := rfl
  unfold execDisown at he
  have hcome := comesTo_issueQ he h ⟨rfl, rfl, ho.nest, rfl, rfl, rfl⟩ rfl
  have hfine' : ownFault s.draw s.cur ((s.row s.cur).baseAddr base off 1) 1 = none := hfine
  have hone : (1 : W64).toNat = 1 := rfl
  simp only [ownBody, Bool.false_and, Bool.false_eq_true, if_false, hone, hfine',
    draw_row, h.1.drained, Bool.not_true] at hcome
  exact hcome

/-- The one byte of a far cache, dirty before a release to the device, shows the value drawn at the word's issue. -/
theorem releaseAt_draw_die_ne {s : State} {d a k : Nat} {v : W8} (hfar : (s.die d).far = [(a, some ⟨v, true, k⟩)]) :
    (s.draw.releaseAt d .device).die d ≠ (s.releaseAt d .device).die d := by
  intro h
  have hat : (s.draw.writeBack d).farAt d a = (s.writeBack d).farAt d a := congrArg (fun y : Die => tget none y.far a) h
  rw [writeBack_farAt hfar, writeBack_farAt (s := s.draw) hfar] at hat
  simp at hat

/-- Row 0 of die 0, idle, with the address of a granule of page 1, which is checked, in s1, and with one dirty byte in the die's far
cache. -/
def dirtyOwner : State :=
  { State.reset with
    job := { State.reset.job with
      rows := [(0, { Row.reset with s := [(1, BitVec.ofNat 64 (sideBase + 65536))] })]
      dies := [(0, dirtyDie)], checked := [(1, true)] } }

theorem dirtyOwner_ready : dirtyOwner.ready always := ⟨⟨rfl, rfl, rfl⟩, rfl⟩

theorem dirtyOwner_fine : ownFault dirtyOwner dirtyOwner.cur ((dirtyOwner.row dirtyOwner.cur).baseAddr 1 0 1) 1 = none := by
  decide +kernel

/-- The address that the word names. -/
def dirtyOwnerAddr : W64 := BitVec.ofNat 64 (sideBase + 65536)

theorem dirtyOwner_addr : (dirtyOwner.row dirtyOwner.cur).sreg 1 + BitVec.signExtend 64 (0 : BitVec 12) = dirtyOwnerAddr := by
  decide +kernel

theorem dirtyOwner_granule : dirtyOwnerAddr.toNat % 64 = 0 ∧ sideFault dirtyOwnerAddr = none ∧
    dirtyOwner.checked dirtyOwnerAddr.toNat = true ∧ dirtyOwner.owner dirtyOwnerAddr.toNat = noOwner := by
  decide +kernel

/-- Refutes O36: by its clause on granules that pass R245's checks DISOWN leaves the state that releases without a value drawn. In
`dirtyOwner` the release leaves the byte that it writes home in the far cache with the number of the draw, and the word's issue has
drawn one before, so that die 0 differs. -/
theorem not_fencesAndOwnership : ¬ Obligations.FencesAndOwnership := by
  unfold Obligations.FencesAndOwnership
  intro h
  obtain ⟨-, -, -, hown, -⟩ := h dirtyOwner always .full .device 0 1 0 0 0 .single
  obtain ⟨hal, hside, hck, hfree⟩ := dirtyOwner_granule
  obtain ⟨-, -, -, hdone⟩ := hown dirtyOwner_ready (.inl rfl) false
    ⟨fun hm => Bool.noConfusion hm, dirtyOwner_addr ▸ hal, fun y hy => by
      obtain ⟨i, hi, rfl⟩ := List.mem_map.1 hy
      obtain rfl : i = 0 := by simpa using hi
      rw [Nat.mul_zero, BitVec.add_zero]
      exact dirtyOwner_addr ▸ ⟨hside, hck, .inl hfree⟩⟩
  have hdie := (disown_comesTo dirtyOwner_ready (.inl rfl) dirtyOwner_fine).die_of_completes hdone 0
  rw [foldl_die (fun t a => giveUp_die t _ a 0), foldl_die (fun t a => by split <;> rfl)] at hdie
  exact releaseAt_draw_die_ne (s := dirtyOwner) (d := 0) rfl hdie

end Sys2Proof.Machine
end

section
/-! SUPPORT. A row of a die that PREEMPT has reached, as its order stands (R260, R273), which is what refutes O35: where two of its
operations bear one number, the order may find the second of them, and OPERATION_COMPLETE the first. -/

namespace Sys2Proof.Machine

/-- A load of 4 bytes at the lowest address of side memory, into lane 0 of v1. -/
def openLoad : List LoadElem := [⟨0, sideBase, none, false⟩]

/-- Row 0 of a halted die, with a CWAIT and a load outstanding that bear one number. -/
def sharedNumber : State :=
  { State.reset with
    job := { State.reset.job with
      rows := [(0, { Row.reset with ops :=
        [⟨0, .single, none, .cwait 0 0 0 false⟩, ⟨0, .single, none, .load (.vreg 1) 4 false false .ordinary openLoad⟩] })]
      dies := [(0, { Die.reset with halted := true })] } }

/-- In its order only the load stands. -/
theorem sharedNumber_orderRow : (sharedNumber.orderRow 0).findOp 0 =
    some ⟨0, .single, none, .load (.vreg 1) 4 false false .ordinary openLoad⟩ := rfl

theorem sharedNumber_ready : (sharedNumber.orderRow 0).loadReady 0 .ordinary 4 openLoad 0 = true := by
  decide +kernel

/-- The CWAIT stands until RESUME, so that nothing happens. -/
theorem sharedNumber_stands : exec (.operationComplete 0 0 0 false) sharedNumber = .next sharedNumber := rfl

/-- Refutes O35: by its clause on an element that is not barred, OPERATION_COMPLETE puts the load's value in place. In
`sharedNumber` the load may be performed in the row's order, which passes over the CWAIT, but the operation that the event finds by
its number is the CWAIT, and the row stands. -/
theorem not_accessesPerform : ¬ Obligations.AccessesPerform := by
  unfold Obligations.AccessesPerform
  rintro ⟨hload, -⟩
  obtain ⟨-, -, hfree, -⟩ := hload sharedNumber 0 0 0 .single none (.vreg 1) 4 false false openLoad ⟨0, sideBase, none, false⟩
    sharedNumber_orderRow rfl sharedNumber_ready
  obtain ⟨⟨t, ht, -, -, hrow⟩, -⟩ := hfree (by decide +kernel)
  obtain rfl := Host.Outcome.next.inj (sharedNumber_stands.symm.trans ht)
  have hreads := congrArg (fun r : Row => r.ops.map (fun o => o.kind.reads)) hrow
  exact absurd hreads (by decide +kernel)

end Sys2Proof.Machine
end

section
/-! SUPPORT. Words that release at the device (R241): what the release writes home it leaves in the far cache under the number of
the values drawn by then, so that a state which is said without the value that the word's issue draws is not the one that it leaves. -/

namespace Sys2Proof.Machine

/-- The one byte of a far cache, dirty before a release to the device, shows the number of the values drawn by then. -/
theorem releaseAt_far_ne {s t : State} {d a k : Nat} {v : W8} (hs : (s.die d).far = [(a, some ⟨v, true, k⟩)])
    (ht : (t.die d).far = [(a, some ⟨v, true, k⟩)]) (hne : t.drawn ≠ s.drawn) :
    ((t.releaseAt d .device).die d).far ≠ ((s.releaseAt d .device).die d).far := by
  intro h
  have hat : (t.writeBack d).farAt d a = (s.writeBack d).farAt d a := congrArg (fun f => tget none f a) h
  rw [writeBack_farAt hs, writeBack_farAt ht] at hat
  simp [hne] at hat

/-- A word that releases with a value drawn does not complete in a state that has released without it. -/
theorem ComesTo.not_completes_of_released {i : Instr} {s u w t : State} {d a k : Nat} {v : W8} (h : ComesTo i s (.done w))
    (hs : (s.die d).far = [(a, some ⟨v, true, k⟩)]) (ht : (t.die d).far = [(a, some ⟨v, true, k⟩)]) (hne : t.drawn ≠ s.drawn)
    (hw : (w.die d).far = ((t.releaseAt d .device).die d).far) (hu : (u.die d).far = ((s.releaseAt d .device).die d).far) :
    ¬ Completes i s u := fun hc =>
  releaseAt_far_ne hs ht hne (hw.symm.trans ((congrArg Die.far (h.die_of_completes hc d)).trans hu))

/-! ### CBREL -/

/-- Die 0 with one dirty byte in its far cache, and a buffer whose one slot a consumer has taken. -/
def takenDie : Die :=
  { dirtyDie with bufs := [(0, { CBuf.reset with n := 1, slots := [(0, .taken)], setUp := true })] }

/-- Row 0 of that die, idle. -/
def takenSlot : State :=
  { State.reset with job := { State.reset.job with rows := [(0, Row.reset)], dies := [(0, takenDie)] } }

theorem takenSlot_ready : takenSlot.ready always := ⟨⟨rfl, rfl, rfl⟩, rfl⟩

theorem takenSlot_free : bufFault takenSlot 0 0 false = none := rfl

theorem takenSlot_find : (takenSlot.buf 0 0).find 0 .taken = some 0 := rfl

/-- CBREL of a taken slot releases and frees the slot. -/
theorem cbrel_comesTo {s : State} {g : Guard} {a : SReg} {die : BitVec 2} {buf : BitVec 6} {i : Nat} (h : s.ready g)
    (ho : (s.row s.cur).outside) (hfree : bufFault s die.toNat buf.toNat false = none)
    (hi : (s.buf die.toNat buf.toNat).find ((s.row s.cur).sreg a.toNat) .taken = some i) :
    ComesTo (.cbrel g a die buf) s (.done ((s.draw.releaseAt (dieOf s.cur) .device).setBuf die.toNat buf.toNat
      ((s.buf die.toNat buf.toNat).release i))) := by
  have he : exec (.cbrel g a die buf) s = execCbrel g a die buf s := rfl
  unfold execCbrel bufInstr at he
  have hcome := comesTo_issueQ he h ⟨rfl, rfl, ho.nest, rfl, rfl, rfl⟩ rfl
  have hfree' : bufFault s.draw die.toNat buf.toNat false = none := hfree
  have hi' : (s.draw.buf die.toNat buf.toNat).find ((s.row s.cur).sreg a.toNat) .taken = some i := hi
  simp only [hfree', hi', draw_row, h.1.drained, Bool.not_true, Bool.false_eq_true, if_false] at hcome
  exact hcome

/-- Refutes O29: by its clause on a slot that a consumer has taken CBREL leaves the state that releases without a value drawn. In
`takenSlot` the release leaves the byte that it writes home in the far cache with the number of the draw, and the word's issue has
drawn one before. -/
theorem not_bufferSlots : ¬ Obligations.BufferSlots := by
  unfold Obligations.BufferSlots
  intro h
  obtain ⟨-, -, -, hopen, -⟩ := h takenSlot always 0 0 false 0 0 0 takenSlot_ready (.inl rfl)
  obtain ⟨-, -, -, hrel, -⟩ := hopen rfl rfl
  have hcome := cbrel_comesTo (a := 0) (die := 0) (buf := 0) takenSlot_ready (.inl rfl) takenSlot_free takenSlot_find
  exact hcome.not_completes_of_released (d := 0) (t := takenSlot.draw) (u := (takenSlot.releaseAt 0 .device).setBuf 0 0
    ((takenSlot.buf 0 0).setSlot 0 .free)) rfl rfl (Nat.succ_ne_self _) rfl rfl (hrel takenSlot_find)

end Sys2Proof.Machine
end

section
/-! SUPPORT. CTAIL, TRIG and SPAWN by what their bodies come to (R288, R312, R326), where the far cache holds a dirty byte, which refutes
O42, O46 and O50. -/

namespace Sys2Proof.Machine

/-! ### CTAIL -/

theorem ctail_comesTo {s : State} {g : Guard} {a : SReg} {die : BitVec 2} {eng : BitVec 3} (h : s.ready g)
    (ho : (s.row s.cur).outside) :
    ComesTo (.ctail g a die eng) s (.done ((s.draw.releaseAt (dieOf s.cur) .device).modEng die.toNat eng.toNat
      (fun x => x.issued s.cur ((s.draw.releaseAt (dieOf s.cur) .device).row s.cur) ((s.row s.cur).sreg a.toNat)))) := by
  have he : exec (.ctail g a die eng) s = execCtail g a die eng s := rfl
  unfold execCtail Machine.ctail at he
  have hcome := comesTo_issueQ he h ⟨rfl, rfl, ho.nest, rfl, rfl, rfl⟩ rfl
  simp only [draw_row, h.1.drained, Bool.not_true, Bool.false_eq_true, if_false] at hcome
  exact hcome

/-- Refutes O46: by its first clause CTAIL leaves the state that releases without a value drawn. In `dirtyOwner` the release
leaves the byte that it writes home in the far cache with the number of the draw, and the word's issue has drawn one before. -/
theorem not_engineControl : ¬ Obligations.EngineControl := by
  unfold Obligations.EngineControl
  intro h
  obtain ⟨htail, -⟩ := h dirtyOwner always 0 0 0 0 0 false .f0 0 0 0 dirtyOwner_ready (.inl rfl)
  exact (ctail_comesTo dirtyOwner_ready (.inl rfl)).not_completes_of_released (d := 0)
    (t := dirtyOwner.draw) (u := (dirtyOwner.releaseAt 0 .device).setEng 0 0 ((dirtyOwner.eng 0 0).issued 0 (dirtyOwner.row 0) 0))
    rfl rfl (Nat.succ_ne_self _) rfl rfl htail

/-! ### TRIG -/

/-- TRIG of a row that is in no placement's band and has not triggered. -/
theorem trig_comesTo {s : State} {g : Guard} (h : s.ready g) (ho : (s.row s.cur).outside)
    (hpool : (s.row s.cur).pool = none) (htrig : (s.row s.cur).triggered = false) (hpl : (s.row s.cur).pl = none) :
    ComesTo (.trig g) s (.done ((s.draw.releaseAt (dieOf s.cur) .device).modRow s.cur (fun r => { r with triggered := true }))) := by
  have he : exec (.trig g) s = execTrig g s := rfl
  unfold execTrig at he
  have hcome := comesTo_issueQ he h ⟨rfl, rfl, ho.nest, rfl, rfl, rfl⟩ rfl
  simp only [draw_row, hpool, htrig, hpl, h.1.drained, Option.isSome_none, Bool.not_true, Bool.false_eq_true, if_false] at hcome
  exact hcome

/-- Refutes O42: by its clause on a row of no placement TRIG leaves the state that releases without a value drawn. In `dirtyOwner`
the release leaves the byte that it writes home in the far cache with the number of the draw, and the word's issue has drawn one
before. -/
theorem not_barriers : ¬ Obligations.Barriers := by
  unfold Obligations.Barriers
  rintro ⟨h, -⟩
  obtain ⟨-, -, -, -, -, -, htrig, -⟩ :=
    h dirtyOwner always 0 0 BarOp.none 0 oneRowPl ⟨0, 0, [], 0, 0, [], none, none, 0, 0⟩ false 0 0 none dirtyOwner_ready (.inl rfl)
  have hcome := trig_comesTo dirtyOwner_ready (.inl rfl) rfl rfl rfl
  exact hcome.not_completes_of_released (d := 0)
    (t := dirtyOwner.draw) (u := (dirtyOwner.releaseAt 0 .device).modRow 0 (fun r => { r with triggered := true })) rfl rfl
    (Nat.succ_ne_self _) rfl rfl ((htrig rfl rfl).2 rfl)

/-! ### SPAWN -/

/-- Die 0 with one dirty byte in its far cache, and a task queue of 128 slots. -/
def queueDie : Die := { dirtyDie with queues := [(0, { TQueue.reset with k := 7 })] }

/-- Row 0 of that die, with lane 0 enabled. -/
def spawner : State :=
  { State.reset with job := { State.reset.job with
      rows := [(0, { Row.reset with arm := { Arm.reset with em := 1 } })], dies := [(0, queueDie)] } }

theorem spawner_acting : spawner.acting always := ⟨⟨rfl, rfl, rfl⟩, by decide +kernel⟩

theorem dieOf_spawner : dieOf spawner.cur = 0 := rfl

theorem spawner_fits : ((spawner.row 0).actLanes always).length + 64 ≤ (spawner.tq 0 0).free := by decide +kernel

/-- Slots of a queue reserved. -/
def State.reserveTq (s : State) (d q k : Nat) : State := s.setTq d q { s.tq d q with reserved := (s.tq d q).reserved + k }

/-- SPAWN without a join counter, of no registers: the slots are reserved, and after the release the records go on their way. -/
theorem spawn_comesTo {s : State} {g : Guard} (h : s.acting g) (ho : (s.row s.cur).outside)
    (hsp : (s.row s.cur).spawn = none) (hE : (s.row s.cur).sreg 0 = 0)
    (hfits : ((s.row s.cur).actLanes g).length + 64 ≤ (s.tq (dieOf s.cur) 0).free) :
    ComesTo (.spawn g 0 0 0 false 0 0 0 0) s
      (spawnSend (s.draw.reserveTq (dieOf s.cur) 0 ((s.row s.cur).actLanes g).length)
      s.cur ⟨0, none, ((s.row s.cur).actLanes g).map (spawnRec (s.row s.cur) 0 0 0 0 0 0)⟩) := by
  have he : exec (.spawn g 0 0 0 false 0 0 0 0) s = execSpawn g 0 0 0 false 0 0 0 0 s := rfl
  unfold execSpawn at he
  have hcome := comesTo_issueWord he h.1 ⟨rfl, rfl, ho.nest, rfl, rfl, rfl⟩ (by rw [h.2, Bool.or_true])
  have htq : s.draw.tq (dieOf s.cur) 0 = s.tq (dieOf s.cur) 0 := rfl
  have hpri : (0 : BitVec 2).toNat = 0 := rfl
  have hs0 : (0 : SReg).toNat = 0 := rfl
  simp only [Plan.start, Bool.false_eq_true, if_false, draw_row, hsp, hs0, hE, hpri, htq] at hcome
  rw [if_neg (by decide), if_neg (by decide), if_neg (by decide), if_neg (by omega)] at hcome
  exact hcome

theorem spawnSend_drained {s : State} {n : Nat} {w : Spawn} (h : (s.row n).drained = true) (hk : w.key = none) :
    spawnSend s n w = .done (((s.releaseAt (dieOf n) .device).modDie (dieOf n)
      (fun y => { y with arriving := y.arriving ++ [⟨w.pri, w.recs⟩] })).modRow n (fun r => { r with spawn := none })) := by
  simp only [spawnSend, h, hk, Bool.not_true, Bool.false_eq_true, if_false]

/-- Refutes O50: by its clause on a SPAWN without inc that fits, the word leaves the state that releases without a value drawn. In
`spawner` the release leaves the byte that it writes home in the far cache with the number of the draw, and the word's issue has
drawn one before. -/
theorem not_spawnAndJoin : ¬ Obligations.SpawnAndJoin := by
  unfold Obligations.SpawnAndJoin
  rintro ⟨-, h, -⟩
  obtain ⟨hspawn, -⟩ := h spawner always 0 0 0 0 0 0 0 0 0 0 spawner_acting (.inl rfl) rfl (fun _ hx => absurd hx List.not_mem_nil)
  have hdone := (hspawn (fun hne => hne rfl) rfl rfl).1 spawner_fits
  have hcome := spawn_comesTo spawner_acting (.inl rfl) rfl rfl spawner_fits
  rw [spawnSend_drained (show ((spawner.draw.reserveTq _ _ _).row _).drained = true from spawner_acting.1.drained) rfl] at hcome
  refine hcome.not_completes_of_released (d := 0)
    (t := spawner.draw.reserveTq 0 0 ((spawner.row 0).actLanes always).length) rfl rfl (Nat.succ_ne_self _) ?_ ?_ hdone
  · simp only [modRow_die, dieOf_spawner, modDie_die_same]
    rfl
  · simp only [show spawner.cur / 128 = 0 from rfl, modDie_die_same, State.setTq]

end Sys2Proof.Machine
end

section
/-! SUPPORT. ERET whose clause has to be read again (R340): the walk of the page table leaves the entry that it reads in the TLB, which
refutes O31. -/

namespace Sys2Proof.Machine

theorem eret_comesTo {s : State} {g : Guard} (h : s.ready g) (hh : (s.row s.cur).handler = true) :
    ComesTo (.eret g) s (.jump (s.draw.eret s.cur) false) := by
  have he : exec (.eret g) s = execEret g s := rfl
  unfold execEret at he
  have hcome := comesTo_issueQ he h (Plan.clear_default _) rfl
  rw [draw_row, if_pos hh] at hcome
  exact hcome

theorem Acted.tlb {u t : State} (h : Acted u t) : t.job.tlb = u.job.tlb := by
  have htlb : t.rest.tlb = u.rest.tlb := congrArg Job.tlb h.rest
  exact htlb

/-- Row 0 in handler mode. Its trap stood at the header at 0, so that no words of the clause are at hand, and csr.epc is at the
clause's first word. -/
def headerTrap : State :=
  { State.reset with job := { State.reset.job with
      rows := [(0, { Row.reset with handler := true, csr := { Csrs.reset with epc := 8 } })] } }

theorem headerTrap_ready : headerTrap.ready always := ⟨⟨rfl, rfl, rfl⟩, rfl⟩

/-- The walk for address 0 leaves its first entry in the TLB. -/
theorem headerTrap_eret_tlb : (headerTrap.draw.eret headerTrap.cur).job.tlb ≠ headerTrap.job.tlb := by decide +kernel

/-- Refutes O31: by its clause on ERET in a handler nothing changes but the row's mode. In `headerTrap` the clause has to be read
again, and the walk leaves an entry in the TLB, which holds none. -/
theorem not_trapAndReturn : ¬ Obligations.TrapAndReturn := by
  unfold Obligations.TrapAndReturn
  intro h
  obtain ⟨-, -, heret⟩ := h headerTrap always 0 headerTrap_ready
  obtain ⟨t, ht, hacted, -⟩ := heret rfl
  obtain ⟨u, hu, hleaves, -⟩ := (eret_comesTo headerTrap_ready rfl).jump_stays rfl
  obtain rfl := Host.Outcome.next.inj (ht.symm.trans hu)
  refine headerTrap_eret_tlb ?_
  rw [← hleaves.tlb, hacted.tlb]
  rfl

end Sys2Proof.Machine
end

section
/-! SUPPORT. A row whose outstanding operations are CWAIT and PEGW alone (R347): no register stands pending, so that the next one is
counted before its issue. -/

namespace Sys2Proof.Machine

/-- An operation that only waits for a count (R347). -/
def OpKind.counts : OpKind → Prop
  | .cwait .. | .pegw .. => True
  | _ => False

theorem OpKind.counts_iff (k : OpKind) : k.counts ↔ (∃ e x t y, k = .cwait e x t y) ∨ ∃ i l c, k = .pegw i l c := by
  cases k <;> simp [OpKind.counts]

theorem OpKind.counts.results {k : OpKind} (h : k.counts) : k.results = [] := by
  obtain ⟨e, x, t, y, rfl⟩ | ⟨i, l, c, rfl⟩ := (OpKind.counts_iff k).1 h <;> rfl

theorem Row.waitOps_of_counts {r : Row} (h : ∀ o ∈ r.ops, o.kind.counts) : r.waitOps = r.ops.length := by
  refine List.countP_eq_length.2 fun o ho => ?_
  obtain ⟨e, x, t, y, hk⟩ | ⟨i, l, c, hk⟩ := (OpKind.counts_iff _).1 (h o ho) <;> rw [hk]

/-- What such a row reads is what stands in its registers. -/
theorem Row.view_of_counts {r : Row} (h : ∀ o ∈ r.ops, o.kind.counts) (hf : r.inflight = []) (k : Nat) : r.view k = r := by
  have hops : ∀ (l : List (Op × Nat)) (q : Row), (∀ x ∈ l, x.1.kind.counts) →
      l.foldl (fun q (x : Op × Nat) => (x.1.kind.results).foldl (fun q (y : Nat × W64) =>
        if Config.freeBit k (1024 * x.2 + y.1) then q.putDst x.1.kind.dst y.1 y.2 else q) q) q = q := by
    intro l
    induction l with
    | nil => exact fun q _ => rfl
    | cons x l ih =>
      intro q hl
      rw [List.foldl_cons, (hl x List.mem_cons_self).results, List.foldl_nil]
      exact ih q fun y hy => hl y (List.mem_cons_of_mem x hy)
  have hzip : ∀ x ∈ r.ops.zipIdx, x.1.kind.counts := fun x hx => h x.1 (List.fst_mem_of_mem_zipIdx hx)
  rw [Row.view, hf]
  exact hops r.ops.zipIdx r hzip

/-- A word that has no interlock of its own reaches its body, whatever is outstanding, where its row reads what stands there. -/
theorem comesTo_issueQ_of_view {i : Instr} {p : Plan} {g : Guard} {body : State → Nat → Row → Res} {s : State}
    (he : exec i s = issueQ p g body s) (hv : (s.row s.cur).view s.drawn = s.row s.cur) (hg : (s.row s.cur).guardQ g = true)
    (hp : p.Clear (s.row s.cur)) (ha : p.access = false) (hf : p.fp = false) :
    ComesTo i s (body s.draw s.cur (s.row s.cur)) := by
  refine ⟨p.units, p.cycles (s.row s.cur), he.trans ?_⟩
  unfold issueQ issueWord
  simp only [hv, hp.legal, hp.regs, hg, hp.nest, hp.priv, hp.hold, ha, hf, Bool.false_and, Bool.not_true, Bool.false_eq_true,
    if_false]

/-! ### Deferring a trap, by case (R336) -/

theorem defer_merged {s : State} {n : Nat} {c : W8} {x : W64} (h : ⟨c, x⟩ ∈ (s.row n).deferred) : s.defer n c x = s :=
  if_pos (List.contains_iff_mem.2 h)

theorem defer_kept {s : State} {n : Nat} {c : W8} {x : W64} (h : ⟨c, x⟩ ∉ (s.row n).deferred)
    (hl : (s.row n).deferred.length < 8) :
    s.defer n c x = s.setRow n { s.row n with deferred := (s.row n).deferred ++ [⟨c, x⟩] } :=
  (if_neg (mt List.contains_iff_mem.1 h)).trans (if_pos hl)

theorem defer_lost {s : State} {n : Nat} {c : W8} {x : W64} (h : ⟨c, x⟩ ∉ (s.row n).deferred)
    (hl : 8 ≤ (s.row n).deferred.length) :
    s.defer n c x = s.raise ⟨7, n, c.setWidth 32, x, none, s.clkOf n, 0, 0⟩ :=
  (if_neg (mt List.contains_iff_mem.1 h)).trans (if_neg (Nat.not_lt.2 hl))

/-- What the body leaves, with the values drawn by then. -/
theorem ComesTo.completes_self {i : Instr} {s u : State} (h : ComesTo i s (.done u)) (hu : u.cur = s.cur) : Completes i s u :=
  h.completes u.drawn hu

theorem State.defer_ops (s : State) (n : Nat) (c : W8) (x : W64) :
    ((s.defer n c x).row n).ops = (s.row n).ops ∧ (s.defer n c x).cur = s.cur := by
  by_cases h : ⟨c, x⟩ ∈ (s.row n).deferred
  · rw [defer_merged h]
    exact ⟨rfl, rfl⟩
  · by_cases hl : (s.row n).deferred.length < 8
    · rw [defer_kept h hl, setRow_row_same]
      exact ⟨rfl, rfl⟩
    · rw [defer_lost h (Nat.not_lt.1 hl)]
      exact ⟨rfl, rfl⟩

/-! ### CWAIT and PEGW -/

/-- COPY_FAULT for the CWAITs of a faulted engine neither ends nor begins an operation. -/
theorem State.tellRow_keeps (s : State) (n d e : Nat) :
    ((s.tellRow n d e).row n).ops.length = (s.row n).ops.length ∧ (s.tellRow n d e).cur = s.cur := by
  unfold State.tellRow
  refine List.foldlRecOn (motive := fun t : State => (t.row n).ops.length = (s.row n).ops.length ∧ t.cur = s.cur)
    _ _ ⟨rfl, rfl⟩ fun t ht o _ => ?_
  split
  · split
    · refine ⟨?_, (State.defer_ops ..).2.trans ht.2⟩
      rw [(State.defer_ops ..).1, modRow_row_same]
      exact (List.length_map _).trans ht.1
    · exact ht
  · exact ht

theorem Row.addOp_ops (r : Row) (f : Option Nat) (k : OpKind) : (r.addOp f k).ops.length = r.ops.length + 1 := by
  unfold Row.addOp
  cases f <;> exact List.length_append

section
variable {s : State} {g : Guard} (hk : ∀ o ∈ (s.row s.cur).ops, o.kind.counts) (hf : (s.row s.cur).inflight = [])
  (hg : (s.row s.cur).guardQ g = true) (ho : (s.row s.cur).outside)
include hk hf hg ho

theorem cwait_comesTo (b : SReg) (d : BitVec 2) (n : BitVec 3) (fs : Bool) : ComesTo (.cwait g b d n fs) s
    (if 16 ≤ (s.row s.cur).ops.length then .wait .opLimit s.draw
     else .done ((s.draw.modRow s.cur (fun r => r.addOp ((s.row s.cur).flagSel fs)
      (.cwait d.toNat n.toNat (((s.row s.cur).sreg b.toNat).setWidth 48) false))).tellRow s.cur d.toNat n.toNat)) := by
  have he : exec (.cwait g b d n fs) s = execCwait g b d n fs s := rfl
  unfold execCwait at he
  have hcome := comesTo_issueQ_of_view he (Row.view_of_counts hk hf _) hg ⟨rfl, rfl, ho.nest, rfl, rfl, rfl⟩ rfl rfl
  rw [← Row.waitOps_of_counts hk]
  exact hcome

theorem pegw_comesTo (a : SReg) (i : BitVec 4) (fs : Bool) : ComesTo (.pegw g a i fs) s
    (if 16 ≤ (s.row s.cur).ops.length then .wait .opLimit s.draw
     else .done (s.draw.modRow s.cur (fun r => r.addOp ((s.row s.cur).flagSel fs)
      (.pegw i.toNat ((s.row s.cur).sreg a.toNat) (s.clkOf s.cur))))) := by
  have he : exec (.pegw g a i fs) s = execPegw g a i fs s := rfl
  unfold execPegw at he
  have hcome := comesTo_issueQ_of_view he (Row.view_of_counts hk hf _) hg ⟨rfl, rfl, ho.nest, rfl, rfl, rfl⟩ rfl rfl
  rw [← Row.waitOps_of_counts hk]
  exact hcome

end

/-- Settles O45: with 16 such operations each word waits at its body's count, with fewer its body adds one operation. -/
theorem waitLimit : Obligations.WaitLimit := by
  intro s g a b d n i fs r hops _ hf hg ho
  have hk : ∀ o ∈ r.ops, o.kind.counts := fun o hmem => (OpKind.counts_iff _).2 (hops o hmem)
  have hcwait := cwait_comesTo hk hf hg ho b d n fs
  have hpegw := pegw_comesTo hk hf hg ho a i fs
  refine ⟨fun hfull => ?_, fun hfew => ?_⟩
  · rw [if_pos hfull] at hcwait hpegw
    exact ⟨hcwait.waits, hpegw.waits⟩
  · rw [if_neg (Nat.not_le.2 hfew)] at hcwait hpegw
    refine ⟨⟨_, hcwait.completes_self (State.tellRow_keeps _ _ _ _).2, ?_⟩, ⟨_, hpegw.completes_self rfl, ?_⟩⟩
    · rw [(State.tellRow_keeps _ _ _ _).1, modRow_row_same, Row.addOp_ops, draw_row]
    · rw [modRow_row_same, Row.addOp_ops, draw_row]

end Sys2Proof.Machine
end

section
/-! SUPPORT. Words that handler mode refuses (R335, R341), each by what its plan says. -/

namespace Sys2Proof.Machine

/-! ### Failure in handler mode -/

/-- A row in handler mode fails, and the operating system is told (R335). -/
theorem trap_handler {s : State} {n : Nat} (h : (s.row n).handler = true) (c : W8) (x : W64) (e : Va) (k : Clause) :
    s.trap n c x e k = (s.setRow n ((s.row n).fail c x (s.row n).arm.pc)).raise
      ⟨1, n, c.setWidth 32, x, some ((s.row n).arm.pc.setWidth 64), s.clkOf n, 0, 0⟩ :=
  if_pos h

/-! ### PRIV -/

/-- A word whose plan says `priv` raises PRIV in handler mode where it would act. -/
theorem raises_priv {i : Instr} {p : Plan} {go : Row → Bool} {body : State → Nat → Row → Res} {s : State}
    (he : exec i s = issueWord p go body s) (hq : (s.row s.cur).Quiet) (hh : (s.row s.cur).handler = true)
    (hgo : go (s.row s.cur) = true) (hp : p.priv = true) (hl : p.illegal (s.row s.cur) = false)
    (hr : (s.row s.cur).badReg (p.regs ++ p.regsOf (s.row s.cur)) = none) : Raises i s cPriv 0 := by
  refine he.trans ?_
  unfold issueWord
  simp only [hq.view, hl, hr, hgo, hh, hp, Bool.not_true, Bool.and_false, Bool.and_self, Bool.false_eq_true, if_false, if_true]
  rfl

theorem Row.still_handler (r : Row) : r.still.handler = r.handler := by
  unfold Row.still
  split
  · rfl
  · split <;> rfl

theorem Acted.handler {u t : State} (h : Acted u t) : (t.row u.cur).handler = (u.row u.cur).handler := by
  rw [← Row.still_handler, h.row, Row.still_handler]

section
variable {s : State} {g : Guard} (hq : (s.row s.cur).Quiet) (hh : (s.row s.cur).handler = true)
include hq hh

theorem raises_priv_scalar (hg : (s.row s.cur).guardQ g = true) (off : BitVec 33) (a : SReg) (code : BitVec 16) :
    ∀ i ∈ [Instr.join g off, .loops g off, .call g off, .ret g, .jmprCall g a, .trap g code, .idem g a, .idend g, .yield g],
      Raises i s cPriv 0 := by
  have hpriv {i : Instr} {p : Plan} {body : State → Nat → Row → Res} (he : exec i s = issueQ p g body s) (hp : p.priv = true)
      (hl : p.illegal (s.row s.cur) = false) (hr : (s.row s.cur).badReg (p.regs ++ p.regsOf (s.row s.cur)) = none) :
      Raises i s cPriv 0 := raises_priv (go := fun r => r.guardQ g) he hq hh hg hp hl hr
  simp only [List.forall_mem_cons, List.not_mem_nil, false_implies, implies_true, and_true]
  refine ⟨hpriv (show exec (.join g off) s = execJoin g off s from rfl) ?_ ?_ ?_,
    hpriv (show exec (.loops g off) s = execLoops g off s from rfl) ?_ ?_ ?_,
    hpriv (show exec (.call g off) s = execCall g off s from rfl) ?_ ?_ ?_,
    hpriv (show exec (.ret g) s = execRet g s from rfl) ?_ ?_ ?_,
    hpriv (show exec (.jmprCall g a) s = execJmprCall g a s from rfl) ?_ ?_ ?_,
    hpriv (show exec (.trap g code) s = execTrap g code s from rfl) ?_ ?_ ?_,
    hpriv (show exec (.idem g a) s = execIdem g a s from rfl) ?_ ?_ ?_,
    hpriv (show exec (.idend g) s = execIdend g s from rfl) ?_ ?_ ?_,
    hpriv (show exec (.yield g) s = execYield g s from rfl) ?_ ?_ ?_⟩ <;> rfl

theorem raises_priv_lanes (hg : (s.row s.cur).anyActs g = true) (p pa : PReg) (neg : Bool) (off : BitVec 33) :
    ∀ i ∈ [Instr.brv g p neg off, .brk g p neg, .cont g p neg, .lexit g, .emset g pa], Raises i s cPriv 0 := by
  have hpriv {i : Instr} {p : Plan} {body : State → Nat → Row → Res} (he : exec i s = issueL p g body s) (hp : p.priv = true)
      (hl : p.illegal (s.row s.cur) = false) (hr : (s.row s.cur).badReg (p.regs ++ p.regsOf (s.row s.cur)) = none) :
      Raises i s cPriv 0 := raises_priv (go := fun r => r.anyActs g) he hq hh hg hp hl hr
  simp only [List.forall_mem_cons, List.not_mem_nil, false_implies, implies_true, and_true]
  refine ⟨hpriv (show exec (.brv g p neg off) s = execBrv g p neg off s from rfl) ?_ ?_ ?_,
    hpriv (show exec (.brk g p neg) s = leaveLoop g p neg (fun m t => { t with park := t.park ||| m }) s from rfl) ?_ ?_ ?_,
    hpriv (show exec (.cont g p neg) s = leaveLoop g p neg (fun m t => { t with wait := t.wait ||| m }) s from rfl) ?_ ?_ ?_,
    hpriv (show exec (.lexit g) s = execLexit g s from rfl) ?_ ?_ ?_,
    hpriv (show exec (.emset g pa) s = execEmset g pa s from rfl) ?_ ?_ ?_⟩ <;> rfl

theorem emsetAll_raises_priv (hm : (s.row s.cur).guardMask g ≠ 0) : Raises (.emsetAll g) s cPriv 0 :=
  have he : exec (.emsetAll g) s = execEmsetAll g s := rfl
  raises_priv he hq hh (bne_iff_ne.2 hm) rfl rfl rfl

/-- A branch is not refused: it leaves the row in its handler. -/
theorem br_keeps_handler (hg : (s.row s.cur).guardQ g = true) (off : BitVec 33) :
    ∃ t, exec (.br g .always 0 off) s = .next t ∧ (t.row s.cur).handler = true := by
  obtain ⟨t, ht, hacted, -⟩ := br_taken (c := .always) (p := 0) off ⟨hq, hg⟩ rfl
  exact ⟨t, ht, hacted.handler.trans hh⟩

end

/-- Settles O30: entry and failure are the two cases of `State.trap`, the refused words have `priv` in their plans, and a deferred
trap merges, is kept or is lost. -/
theorem trapEntry : Obligations.TrapEntry := by
  refine ⟨fun s n m c x e k => ⟨fun hm => trap_row_ne s c x e k hm, fun a => trap_byte s n c x e k a, fun hh => ?_, fun hh => ?_⟩,
    fun s g p neg off a code pa hq hh => ⟨fun hg => raises_priv_scalar hq hh hg off a code,
      fun hg => raises_priv_lanes hq hh hg p pa neg off, emsetAll_raises_priv hq hh, fun hg => br_keeps_handler hq hh hg off⟩,
    fun s n c x => ⟨defer_merged, fun hx hl => ?_, fun hx hl => ?_⟩⟩
  · rw [trap_row_normal s n c x e k hh, trap_dev_normal s n c x e k hh]
    exact ⟨rfl, rfl, rfl, rfl, rfl, rfl, rfl, rfl, rfl, rfl, rfl, rfl, rfl, rfl, rfl, rfl⟩
  · rw [trap_handler hh c x e k, State.raise, modDev_row, setRow_row_same]
    exact ⟨rfl, rfl, rfl, rfl, hh, rfl, rfl, rfl⟩
  · rw [defer_kept hx hl]
    exact ⟨setRow_row_same _ _ _, fun m hm => setRow_row_ne _ _ hm, rfl⟩
  · rw [defer_lost hx hl]
    exact ⟨fun _ => rfl, rfl⟩

end Sys2Proof.Machine
end

section
/-! SUPPORT. A wave's instructions (R329, R330): TARG, and the two words that end a row thread. -/

namespace Sys2Proof.Machine

/-- A body after which the row stops or retires. -/
theorem ComesTo.halts {i : Instr} {s u : State} (k : Nat) (h : ComesTo i s (.halt { u with drawn := k })) (hu : u.cur = s.cur) :
    Completes i s u := by
  obtain ⟨units, cycles, he⟩ := h
  obtain ⟨t, ht, hacted⟩ := settle_halt { u with drawn := k } s.cur units cycles (s.row s.cur).arm.clause.y hu
  exact ⟨t, he.trans ht, hacted.drawn⟩

/-! ### TARG -/

/-- What stands before TARG's body. -/
def targPlan (d : VReg) : Plan :=
  { regs := [d.toNat], nest := true, hold := fun r => r.pool.isSome && r.holdV d.toNat, cycles := Row.passes }

/-- Where TARG acts: in a row that is not a pool row, wherever its guard holds. -/
def targActs (g : Guard) (r : Row) : Bool := if r.pool.isNone then (List.range r.L).any (r.guardL g) else r.anyActs g

/-- TARG's effect, or its trap. -/
def targBody (g : Guard) (d : VReg) (k : BitVec 4) (s : State) (n : Nat) (v : Row) : Res :=
  if v.pool.isNone then .trap cProt 0 s
  else .done (s.modRow n (fun r => r.setLanes d.toNat (v.actLanes g) (fun l => (tget .zero v.taskBuf l).word k.toNat)))

theorem exec_targ (g : Guard) (d : VReg) (k : BitVec 4) (s : State) :
    exec (.targ g d k) s = issueWord (targPlan d) (targActs g) (targBody g d k) s := rfl

theorem exec_tend (g : Guard) (s : State) : exec (.tend g) s = execTend g s := rfl
theorem exec_exit (g : Guard) (s : State) : exec (.exit g) s = execExit g s := rfl

section
variable {s : State} {g : Guard} (hq : (s.row s.cur).Quiet) (ho : (s.row s.cur).outside)
include hq ho

theorem targPlan_clear {d : VReg} (hr : (s.row s.cur).Has [d.toNat]) : (targPlan d).Clear (s.row s.cur) :=
  ⟨rfl, Row.Has.badReg (l := [d.toNat] ++ []) hr, ho.nest, rfl, by simp [targPlan, hq.holdV], rfl⟩

theorem targ_comesTo {d : VReg} (k : BitVec 4) (hr : (s.row s.cur).Has [d.toNat]) (hg : targActs g (s.row s.cur) = true) :
    ComesTo (.targ g d k) s (targBody g d k s.draw s.cur (s.row s.cur)) :=
  comesTo_issueWord (exec_targ g d k s) hq (targPlan_clear hq ho hr) hg

/-- In a pool row TARG writes the word of each acting lane's record. -/
theorem targ_writes {d : VReg} (k : BitVec 4) (hr : (s.row s.cur).Has [d.toNat]) (hp : (s.row s.cur).pool.isNone = false)
    (hg : (s.row s.cur).anyActs g = true) :
    WritesV (.targ g d k) s s d.toNat
      ((s.row s.cur).inActs g (fun l => (tget .zero (s.row s.cur).taskBuf l).word k.toNat)) := by
  have hcome := targ_comesTo hq ho k hr (g := g) (by rw [targActs, hp, if_neg Bool.false_ne_true, hg])
  rw [targBody, hp, if_neg Bool.false_ne_true] at hcome
  exact WritesV.lanes (hcome.completes (s.drawn + 1) rfl)

theorem targ_idle {d : VReg} (k : BitVec 4) (hr : (s.row s.cur).Has [d.toNat]) (hp : (s.row s.cur).pool.isNone = false)
    (hg : (s.row s.cur).anyActs g = false) : Completes (.targ g d k) s s := by
  obtain ⟨t, ht, hacted⟩ := issueWord_idle (body := targBody g d k) (targPlan_clear hq ho hr).legal
    (targPlan_clear hq ho hr).regs (go := targActs g) (s := s)
    (by rw [hq.view, targActs, hp, if_neg Bool.false_ne_true, hg])
  exact ⟨t, (exec_targ g d k s).trans ht, hacted⟩

/-- In another row TARG traps wherever its guard holds, whatever em holds (R329). -/
theorem targ_raises {d : VReg} (k : BitVec 4) (hr : (s.row s.cur).Has [d.toNat]) (hp : (s.row s.cur).pool.isNone = true)
    (hg : ∃ l, l < (s.row s.cur).L ∧ (s.row s.cur).guardL g l = true) : Raises (.targ g d k) s cProt 0 := by
  obtain ⟨l, hl, hgl⟩ := hg
  have hcome := targ_comesTo hq ho k hr (g := g)
    (by rw [targActs, if_pos hp]; exact List.any_eq_true.2 ⟨l, List.mem_range.2 hl, hgl⟩)
  rw [targBody, if_pos hp] at hcome
  exact hcome.raises

/-! ### TEND and EXIT -/

theorem exit_completes (hg : (s.row s.cur).guardQ g = true) :
    Completes (.exit g) s (s.now (fun r => (r.exitLanes (laneMask r.L)).retiring)) := by
  have he := exec_exit g s
  unfold execExit at he
  exact (comesTo_issueQ he ⟨hq, hg⟩ ⟨rfl, rfl, ho.nest, rfl, rfl, rfl⟩ rfl).halts (s.drawn + 1) rfl

theorem tend_comesTo (hg : (s.row s.cur).guardQ g = true) : ComesTo (.tend g) s
    (if (s.row s.cur).pool.isNone then .trap cProt 0 s.draw
     else .halt (s.draw.modRow s.cur (fun r => (r.exitLanes (laneMask r.L)).retiring))) := by
  have he := exec_tend g s
  unfold execTend at he
  exact comesTo_issueQ he ⟨hq, hg⟩ ⟨rfl, rfl, ho.nest, rfl, rfl, rfl⟩ rfl

theorem tend_completes (hg : (s.row s.cur).guardQ g = true) (hp : (s.row s.cur).pool.isNone = false) :
    Completes (.tend g) s (s.now (fun r => (r.exitLanes (laneMask r.L)).retiring)) := by
  have hcome := tend_comesTo hq ho hg
  rw [hp, if_neg Bool.false_ne_true] at hcome
  exact hcome.halts (s.drawn + 1) rfl

theorem tend_raises (hg : (s.row s.cur).guardQ g = true) (hp : (s.row s.cur).pool.isNone = true) :
    Raises (.tend g) s cProt 0 := by
  have hcome := tend_comesTo hq ho hg
  rw [if_pos hp] at hcome
  exact hcome.raises

end

/-- Settles O49: each word by the outcome of its body, in a pool row and in another. -/
theorem waveInstructions : Obligations.WaveInstructions := by
  intro s g d k hq ho _ hr r
  have hin (hp : r.pool ≠ none) : r.pool.isNone = false := Option.isNone_eq_false_iff.2 (Option.isSome_iff_ne_none.2 hp)
  have hout (hp : r.pool = none) : r.pool.isNone = true := Option.isNone_iff_eq_none.2 hp
  refine ⟨fun hp hg => targ_writes hq ho k hr (hin hp) hg, fun hp hg => targ_idle hq ho k hr (hin hp) hg,
    fun hp hg => targ_raises hq ho k hr (hout hp) hg, fun hg => ⟨fun hp => ?_, fun hp => tend_raises hq ho hg (hout hp)⟩⟩
  simp only [List.forall_mem_cons, List.not_mem_nil, false_implies, implies_true, and_true]
  exact ⟨tend_completes hq ho hg (hin hp), exit_completes hq ho hg⟩

end Sys2Proof.Machine
end

section
/-! SUPPORT. The end of a clause in handler mode (R99): issue stays with the arm that trapped whatever y holds, which refutes
O32. -/

namespace Sys2Proof.Machine

/-- A word that passes on leaves its row advanced. -/
theorem ComesTo.done_row {i : Instr} {s w : State} (h : ComesTo i s (.done w)) :
    ∃ t, exec i s = .next t ∧ t.row s.cur = ((w.row s.cur).paid.advance).ready := by
  obtain ⟨units, cycles, he⟩ := h
  refine ⟨_, he, ?_⟩
  rw [modRow_row_same, charge_row_same]

theorem nop_comesTo {s : State} (g : Guard) (hq : (s.row s.cur).Quiet) : ComesTo (.nop g) s (.done s.draw) :=
  have he : exec (.nop g) s = execNop g s := rfl
  comesTo_issueAll he hq (Plan.clear_default _) rfl

/-- An arm at the one word of a clause with y set. -/
def lastWord : Arm := { Arm.reset with pc := 8, clause := { Clause.none with y := true, words := [0] } }

/-- Row 0 in handler mode, its T arm at the last word of a clause with y set, and its F arm running. -/
def splitHandler : State :=
  { State.reset with job := { State.reset.job with
      rows := [(0, { Row.reset with
        handler := true, armId := .t, other := some .reset, arm := lastWord })] } }

theorem splitHandler_stays : ((splitHandler.row splitHandler.cur).paid.advance).armId = .t := rfl

theorem splitHandler_switches : ((splitHandler.row splitHandler.cur).arm.clause.y &&
    (splitHandler.row splitHandler.cur).arm.atLast && (splitHandler.row splitHandler.cur).otherRuns) = true := rfl

/-- Refutes O32: by its clause on NOP issue passes to the other arm at the end of each clause with y set. In `splitHandler` the row
is in handler mode, and its T arm goes on. -/
theorem not_systemInstructions : ¬ Obligations.SystemInstructions := by
  unfold Obligations.SystemInstructions
  rintro ⟨-, h, -⟩
  obtain ⟨-, hpass⟩ := h splitHandler always
  obtain ⟨t, ht, -, harm⟩ := hpass ⟨rfl, rfl, rfl⟩
  obtain ⟨u, hu, hrow⟩ := (nop_comesTo (s := splitHandler) always ⟨rfl, rfl, rfl⟩).done_row
  obtain rfl := Host.Outcome.next.inj (ht.symm.trans hu)
  rw [hrow, if_pos splitHandler_switches] at harm
  have hstays : (splitHandler.draw.row splitHandler.cur).paid.advance.ready.armId = .t := splitHandler_stays
  have hother : (splitHandler.row splitHandler.cur).otherId = .f := rfl
  rw [hstays, hother] at harm
  cases harm

end Sys2Proof.Machine
end

section
/-! SUPPORT. What an open idempotent region refuses (R345), each word by what its plan says, and IDEM and IDEND (R344, R346). -/

namespace Sys2Proof.Machine

/-- A word whose plan says `nest` raises IDEM_NEST 1 in an open region, outside a handler, where it would act. -/
theorem raises_nest {i : Instr} {p : Plan} {go : Row → Bool} {body : State → Nat → Row → Res} {s : State} {x : Region}
    (hq : (s.row s.cur).Quiet) (hh : (s.row s.cur).handler = false) (hreg : (s.row s.cur).region = some x)
    (hgo : go (s.row s.cur) = true) (he : exec i s = issueWord p go body s) (hn : p.nest = true)
    (hl : p.illegal (s.row s.cur) = false) (hr : (s.row s.cur).badReg (p.regs ++ p.regsOf (s.row s.cur)) = none) :
    Raises i s cIdemNest 1 := by
  refine he.trans ?_
  unfold issueWord
  simp only [hq.view, hl, hr, hgo, hh, hn, hreg, Option.isSome_some, Bool.not_true, Bool.not_false, Bool.and_self,
    Bool.false_eq_true, if_false, if_true]
  rfl

theorem raises_nest_lanes {i : Instr} {p : Plan} {g : Guard} {body : State → Nat → Row → Res} {s : State} {x : Region}
    (hq : (s.row s.cur).Quiet) (hh : (s.row s.cur).handler = false) (hreg : (s.row s.cur).region = some x)
    (ha : (s.row s.cur).anyActs g = true) (he : exec i s = issueL p g body s) (hn : p.nest = true)
    (hl : p.illegal (s.row s.cur) = false) (hr : (s.row s.cur).badReg (p.regs ++ p.regsOf (s.row s.cur)) = none) :
    Raises i s cIdemNest 1 :=
  raises_nest (go := fun r => r.anyActs g) hq hh hreg ha he hn hl hr

theorem raises_nest_all {i : Instr} {p : Plan} {body : State → Nat → Row → Res} {s : State} {x : Region}
    (hq : (s.row s.cur).Quiet) (hh : (s.row s.cur).handler = false) (hreg : (s.row s.cur).region = some x)
    (he : exec i s = issueAll p body s) (hn : p.nest = true)
    (hl : p.illegal (s.row s.cur) = false) (hr : (s.row s.cur).badReg (p.regs ++ p.regsOf (s.row s.cur)) = none) :
    Raises i s cIdemNest 1 :=
  raises_nest (go := fun _ => true) hq hh hreg rfl he hn hl hr

theorem Row.below_region {r : Row} {x : Region} (hh : r.handler = false) (hreg : r.region = some x) {k : Nat} (hk : k ≤ x.depth) :
    r.below k = true := by
  simp [Row.below, hh, hreg, hk]

/-- No lane acts under an empty mask. -/
theorem Row.em_ne_zero_of_anyActs {r : Row} {g : Guard} (h : r.anyActs g = true) (hL : r.L ≤ 1024) : r.arm.em ≠ 0 := by
  have hlanes : (r.actLanes g).isEmpty = false := Bool.not_eq_true' _ ▸ h
  obtain ⟨l, hl⟩ := List.isEmpty_eq_false_iff_exists_mem.1 hlanes
  obtain ⟨hlL, hacts⟩ := List.mem_filter.1 hl
  exact Mask.ne_zero_iff.2 ⟨l, Nat.lt_of_lt_of_le (List.mem_range.1 hlL) hL, (Bool.and_eq_true_iff.1 hacts).1⟩

section
variable {s : State} {g : Guard} {x : Region} (hq : (s.row s.cur).Quiet) (hh : (s.row s.cur).handler = false)
  (hreg : (s.row s.cur).region = some x)
include hq hh hreg

/-! ### The scalar class -/

section
variable (hg : (s.row s.cur).guardQ g = true)
include hg

theorem imageInstr_nests {i : Instr} {a : SReg} {stores : Bool} {act : State → Nat → Nat → Res}
    (he : exec i s = imageInstr g a stores act s) : Raises i s cIdemNest 1 := by
  unfold imageInstr at he
  exact raises_nest (go := fun r => r.guardQ g) hq hh hreg hg he rfl rfl rfl

theorem ctail_nests {i : Instr} {f : State → Nat → Row → Res} (he : exec i s = Machine.ctail g f s) : Raises i s cIdemNest 1 := by
  unfold Machine.ctail at he
  exact raises_nest (go := fun r => r.guardQ g) hq hh hreg hg he rfl rfl rfl

theorem bufInstr_nests {i : Instr} {die : BitVec 2} {buf : BitVec 6} {producer : Bool} {hold : Row → Bool}
    {body : State → Nat → Row → CBuf → Res} (he : exec i s = bufInstr g die buf producer hold body s) :
    Raises i s cIdemNest 1 := by
  unfold bufInstr at he
  exact raises_nest (go := fun r => r.guardQ g) hq hh hreg hg he rfl rfl rfl

variable (a b c : SReg) (q : PReg) (d : VReg) (i4 n4 : BitVec 4) (n2 : BitVec 2)
  (n3 : BitVec 3) (n5 : BitVec 5) (f7 g7 : BitVec 7) (n8 : BitVec 8) (n12 : BitVec 12) (n16 : BitVec 16) (n24 : BitVec 24)
  (f1 f2 : Bool) (fr : Form3) (fn : AFn) (o : AOrd) (op : BarOp) (die2 : BitVec 2) (eng3 : BitVec 3) (buf6 : BitVec 6)

theorem raises_nest_scalar : ∀ i ∈ [Instr.trap g n16, .halt g n16, .exit g, .yield g, .pseal g, .pstat g a f1, .pxfer g q n5,
    .wld g d n8 n3 f1 b f2, .wswap g, .accz g f7 g7, .mdrain g a, .mfill g a, .mstat g a fr, .amos g a b f1 fn f2 o f1,
    .own g a b n12 f1, .disown g a b n12 f1], Raises i s cIdemNest 1 := by
  have hnest {i : Instr} {p : Plan} {body : State → Nat → Row → Res} (he : exec i s = issueQ p g body s) :=
    raises_nest (go := fun r => r.guardQ g) hq hh hreg hg he
  have himage {i : Instr} {a : SReg} {stores : Bool} {act : State → Nat → Nat → Res}
    (he : exec i s = imageInstr g a stores act s) := imageInstr_nests hq hh hreg hg he
  simp only [List.forall_mem_cons, List.not_mem_nil, false_implies, implies_true, and_true]
  exact ⟨hnest (show exec (.trap g n16) s = execTrap g n16 s from rfl) rfl rfl rfl,
    hnest (show exec (.halt g n16) s = execHalt g n16 s from rfl) rfl rfl rfl,
    hnest (show exec (.exit g) s = execExit g s from rfl) rfl rfl rfl,
    hnest (show exec (.yield g) s = execYield g s from rfl) rfl rfl rfl,
    hnest (show exec (.pseal g) s = execPseal g s from rfl) rfl rfl rfl,
    hnest (show exec (.pstat g a f1) s = execPstat g a f1 s from rfl) rfl rfl rfl,
    hnest (show exec (.pxfer g q n5) s = execPxfer g q n5 s from rfl) rfl rfl rfl,
    hnest (show exec (.wld g d n8 n3 f1 b f2) s = execWld g d n8 n3 f1 b f2 s from rfl) rfl rfl rfl,
    hnest (show exec (.wswap g) s = execWswap g s from rfl) rfl rfl rfl,
    hnest (show exec (.accz g f7 g7) s = execAccz g f7 g7 s from rfl) rfl rfl rfl,
    himage (show exec (.mdrain g a) s = execMdrain g a s from rfl),
    himage (show exec (.mfill g a) s = execMfill g a s from rfl),
    hnest (show exec (.mstat g a fr) s = execMstat g a fr s from rfl) rfl rfl rfl,
    hnest (show exec (.amos g a b f1 fn f2 o f1) s = execAmos g a b f1 fn f2 o f1 s from rfl) rfl rfl rfl,
    hnest (show exec (.own g a b n12 f1) s = execOwn g a b n12 f1 s from rfl) rfl rfl rfl,
    hnest (show exec (.disown g a b n12 f1) s = execDisown g a b n12 f1 s from rfl) rfl rfl rfl⟩

/-- The words of the peg table and of a copy engine. -/
theorem raises_nest_engine : ∀ i ∈ [Instr.peg g a b c i4 f1 n4, .unpeg g n16, .pegw g a i4 f1, .pegq g a f1 i4,
    .rpos g a fr, .cseq g a fr die2 eng3, .cwait g b die2 eng3 f1], Raises i s cIdemNest 1 := by
  have hnest {i : Instr} {p : Plan} {body : State → Nat → Row → Res} (he : exec i s = issueQ p g body s) :=
    raises_nest (go := fun r => r.guardQ g) hq hh hreg hg he
  simp only [List.forall_mem_cons, List.not_mem_nil, false_implies, implies_true, and_true]
  exact ⟨hnest (show exec (.peg g a b c i4 f1 n4) s = execPeg g a b c i4 f1 n4 s from rfl) rfl rfl rfl,
    hnest (show exec (.unpeg g n16) s = execUnpeg g n16 s from rfl) rfl rfl rfl,
    hnest (show exec (.pegw g a i4 f1) s = execPegw g a i4 f1 s from rfl) rfl rfl rfl,
    hnest (show exec (.pegq g a f1 i4) s = execPegq g a f1 i4 s from rfl) rfl rfl rfl,
    hnest (show exec (.rpos g a fr) s = execRpos g a fr s from rfl) rfl rfl rfl,
    hnest (show exec (.cseq g a fr die2 eng3) s = execCseq g a fr die2 eng3 s from rfl) rfl rfl rfl,
    hnest (show exec (.cwait g b die2 eng3 f1) s = execCwait g b die2 eng3 f1 s from rfl) rfl rfl rfl⟩

/-- CTAIL and the words of a circular buffer. -/
theorem raises_nest_buffer : ∀ i ∈ [Instr.ctail g a die2 eng3, .ctailRetry g die2 eng3, .ctailSkip g die2 eng3,
    .ctailStart g a b die2 eng3, .cbacq g a b die2 buf6, .cbrel g a die2 buf6, .cbpub g a b f1 die2 buf6,
    .cbpubGet g a die2 buf6], Raises i s cIdemNest 1 := by
  have hctail {i : Instr} {f : State → Nat → Row → Res} (he : exec i s = Machine.ctail g f s) := ctail_nests hq hh hreg hg he
  have hbuf {i : Instr} {die : BitVec 2} {buf : BitVec 6} {producer : Bool} {hold : Row → Bool}
    {body : State → Nat → Row → CBuf → Res} (he : exec i s = bufInstr g die buf producer hold body s) :=
    bufInstr_nests hq hh hreg hg he
  simp only [List.forall_mem_cons, List.not_mem_nil, false_implies, implies_true, and_true]
  exact ⟨hctail (show exec (.ctail g a die2 eng3) s = execCtail g a die2 eng3 s from rfl),
    hctail (show exec (.ctailRetry g die2 eng3) s = execCtailRetry g die2 eng3 s from rfl),
    hctail (show exec (.ctailSkip g die2 eng3) s = execCtailSkip g die2 eng3 s from rfl),
    hctail (show exec (.ctailStart g a b die2 eng3) s = execCtailStart g a b die2 eng3 s from rfl),
    hbuf (show exec (.cbacq g a b die2 buf6) s = execCbacq g a b die2 buf6 s from rfl),
    hbuf (show exec (.cbrel g a die2 buf6) s = execCbrel g a die2 buf6 s from rfl),
    hbuf (show exec (.cbpub g a b f1 die2 buf6) s = execCbpub g a b f1 die2 buf6 s from rfl),
    hbuf (show exec (.cbpubGet g a die2 buf6) s = execCbpubGet g a die2 buf6 s from rfl)⟩

/-- The words of a group, a wave and the power predictors. -/
theorem raises_nest_group : ∀ i ∈ [Instr.desc g a b, .bar g a b op n8, .bara g b op n8, .barw g a n8, .trig g, .tend g,
    .phint g f1 n2 n24], Raises i s cIdemNest 1 := by
  have hnest {i : Instr} {p : Plan} {body : State → Nat → Row → Res} (he : exec i s = issueQ p g body s) :=
    raises_nest (go := fun r => r.guardQ g) hq hh hreg hg he
  have hbar {i : Instr} {p : Plan} {body : State → Nat → Row → Res}
      (he : exec i s = issueWord p (fun r => r.guardQ g || r.barForced) body s) :=
    raises_nest (go := fun r => r.guardQ g || r.barForced) hq hh hreg (by rw [hg, Bool.true_or]) he
  simp only [List.forall_mem_cons, List.not_mem_nil, false_implies, implies_true, and_true]
  exact ⟨hnest (show exec (.desc g a b) s = execDesc g a b s from rfl) rfl rfl rfl,
    hbar (show exec (.bar g a b op n8) s = execBar g a b op n8 s from rfl) rfl rfl rfl,
    hnest (show exec (.bara g b op n8) s = execBara g b op n8 s from rfl) rfl rfl rfl,
    hnest (show exec (.barw g a n8) s = execBarw g a n8 s from rfl) rfl rfl rfl,
    hnest (show exec (.trig g) s = execTrig g s from rfl) rfl rfl rfl,
    hnest (show exec (.tend g) s = execTend g s from rfl) rfl rfl rfl,
    hnest (show exec (.phint g f1 n2 n24) s = execPhint g f1 n2 n24 s from rfl) rfl rfl rfl⟩

end

theorem mmac_raises_nest (hg : (s.row s.cur).guardQ g = true) {fm : MmacF} (hl : mmacIllegal fm (s.row s.cur) = false)
    (hr : (s.row s.cur).Has (mmacRegs fm (s.row s.cur))) : Raises (.mmac g fm) s cIdemNest 1 :=
  have he : exec (.mmac g fm) s = execMmac g fm s := rfl
  raises_nest (go := fun r => r.guardQ g) hq hh hreg hg he rfl hl hr.badReg

/-- A JOIN or RET whose token stands at the region's depth or below. -/
theorem join_ret_raise_nest (hg : (s.row s.cur).guardQ g = true) (off : BitVec 33) (hd : (s.row s.cur).tokdepth ≠ 0)
    (hx : (s.row s.cur).tokdepth ≤ x.depth) : Raises (.join g off) s cIdemNest 5 ∧ Raises (.ret g) s cIdemNest 5 := by
  have hbelow := Row.below_region hh hreg hx
  have hjoin := comesTo_issueQ (exec_join g off s) ⟨hq, hg⟩ (Plan.clear_priv hh _) rfl
  have hret := comesTo_issueQ (exec_ret g s) ⟨hq, hg⟩ (Plan.clear_priv hh _) rfl
  simp only [draw_row, hd, hbelow, ne_eq, not_false_eq_true, decide_true, Bool.and_self, if_true, if_false] at hjoin hret
  exact ⟨hjoin.raises, hret.raises⟩

/-! ### The lane class -/

section
variable (ha : (s.row s.cur).anyActs g = true)
include ha

theorem lexit_tjoin_raise_nest (a : SReg) : Raises (.lexit g) s cIdemNest 1 ∧ Raises (.tjoin g a) s cIdemNest 1 :=
  have hlexit : exec (.lexit g) s = execLexit g s := rfl
  have htjoin : exec (.tjoin g a) s = execTjoin g a s := rfl
  ⟨raises_nest_lanes hq hh hreg ha hlexit rfl rfl rfl,
    raises_nest hq hh hreg (by rw [ha, Bool.or_true]) htjoin rfl rfl rfl⟩

theorem spawn_raises_nest (a b c : SReg) (f1 : Bool) (n2 : BitVec 2) {v w : VReg} {n4 : BitVec 4}
    (hr : (s.row s.cur).Has ((List.range n4.toNat).map (fun j => w.toNat + j) ++ (if v = 0 then [] else [v.toNat]))) :
    Raises (.spawn g a b c f1 n2 v n4 w) s cIdemNest 1 :=
  have he : exec (.spawn g a b c f1 n2 v n4 w) s = execSpawn g a b c f1 n2 v n4 w s := rfl
  raises_nest hq hh hreg (by rw [ha, Bool.or_true]) he rfl rfl ((congrArg _ (List.append_nil _)).trans hr.badReg)

theorem acc_raise_nest {d : VReg} (hr : (s.row s.cur).Has [d.toNat]) (a : SReg) (n2 : BitVec 2) (f7 : BitVec 7) :
    Raises (.accrd g d a n2 f7) s cIdemNest 1 ∧ Raises (.accwr g d a n2 f7) s cIdemNest 1 :=
  have hrd : exec (.accrd g d a n2 f7) s = execAccrd g d a n2 f7 s := rfl
  have hwr : exec (.accwr g d a n2 f7) s = execAccwr g d a n2 f7 s := rfl
  ⟨raises_nest_lanes hq hh hreg ha hrd rfl rfl hr.badReg,
    raises_nest_lanes hq hh hreg ha hwr rfl rfl hr.badReg⟩

theorem atomics_raise_nest (hL : (s.row s.cur).L ≤ 1024) {d v : VReg} {fn : AFn} (hr : (s.row s.cur).Has (atomRegs fn d v))
    (a : SReg) (n3 : BitVec 3) (f1 f2 : Bool) (o : AOrd) :
    Raises (.amo g d a v n3 fn f1 o f2) s cIdemNest 1 ∧ Raises (.red g d a v n3 fn o) s cIdemNest 1 :=
  have hamo : exec (.amo g d a v n3 fn f1 o f2) s = execAmo g d a v n3 fn f1 o f2 s := rfl
  have hred : exec (.red g d a v n3 fn o) s = execRed g d a v n3 fn o s := rfl
  have hgo : ((s.row s.cur).arm.em != 0) = true := bne_iff_ne.2 (Row.em_ne_zero_of_anyActs ha hL)
  have hacts : ((s.row s.cur).view s.drawn).anyActs g = true := by rw [hq.view, ha]
  have hregs : (s.row s.cur).badReg (atomRegs fn d v ++ []) = none := (congrArg _ (List.append_nil _)).trans hr.badReg
  ⟨raises_nest hq hh hreg hgo hamo hacts rfl hregs, raises_nest hq hh hreg hgo hred hacts rfl hregs⟩

/-- A BRV that would split the row's arms. -/
theorem brv_raises_nest {p : PReg} {neg : Bool} {M : Mask} (off : BitVec 33) (hM : (s.row s.cur).moving g p neg = M)
    (hM0 : M ≠ 0) (hF : (s.row s.cur).arm.em &&& ~~~M ≠ 0) (hd : (s.row s.cur).tokdepth = 0) :
    Raises (.brv g p neg off) s cIdemNest 5 := by
  have hcome := brv_comesTo off ⟨hq, ha⟩ hh hM rfl
  rw [if_neg (mt beq_iff_eq.1 hM0), if_neg (mt beq_iff_eq.1 hF), if_pos hd, hreg, hh] at hcome
  exact hcome.raises

theorem leaveLoop_raises_nest {i : Instr} {p : PReg} {neg : Bool} {f : Mask → Token → Token}
    (he : exec i s = leaveLoop g p neg f s) (hM0 : (s.row s.cur).moving g p neg ≠ 0) {k : Nat}
    (hk : anyLoop (s.row s.cur).arm.toks = some k) (hx : (s.row s.cur).tokdepth - k ≤ x.depth) : Raises i s cIdemNest 5 := by
  unfold leaveLoop at he
  have hcome := comesTo_issueL he ⟨hq, ha⟩ (Plan.clear_priv hh _) rfl
  dsimp only at hcome
  rw [if_neg (mt beq_iff_eq.1 hM0), draw_row, hk, if_pos (Row.below_region hh hreg hx)] at hcome
  exact hcome.raises

end

/-! ### Words with an effect whatever their lanes hold -/

theorem ports_raise_nest {d : VReg} (hr : (s.row s.cur).Has [d.toNat]) (p q k : PReg) :
    Raises (.prd g d p) s cIdemNest 1 ∧ Raises (.prdn g d p q k) s cIdemNest 1 :=
  have hprd : exec (.prd g d p) s = execPrd g d p s := rfl
  have hprdn : exec (.prdn g d p q k) s = execPrdn g d p q k s := rfl
  ⟨raises_nest_all hq hh hreg hprd rfl rfl hr.badReg,
    raises_nest_all hq hh hreg hprdn rfl rfl hr.badReg⟩

theorem pwr_raises_nest {d : VReg} (hr : (s.row s.cur).Has [d.toNat]) {m : Amod} (hm : (s.row s.cur).Fits m) :
    Raises (.pwr g d m) s cIdemNest 1 :=
  have he : exec (.pwr g d m) s = execPwr g d m s := rfl
  raises_nest_all hq hh hreg he rfl hm.amodWide hr.badReg

theorem targ_raises_nest {d : VReg} (hr : (s.row s.cur).Has [d.toNat]) (k : BitVec 4) (hgo : targActs g (s.row s.cur) = true) :
    Raises (.targ g d k) s cIdemNest 1 :=
  raises_nest hq hh hreg hgo (exec_targ g d k s) rfl rfl hr.badReg

end

/-- The innermost LOOP token, by its place. -/
theorem anyLoop_of_first {l : List Token} {i : Nat} {t : Token} (ht : l[i]? = some t) (hk : t.kind = .loop)
    (hfirst : ∀ j u, j < i → l[j]? = some u → u.kind ≠ .loop) : anyLoop l = some i := by
  obtain ⟨hi, rfl⟩ := List.getElem?_eq_some_iff.1 ht
  refine List.findIdx?_eq_some_iff_getElem.2 ⟨hi, beq_iff_eq.2 hk, fun j hj hloop => ?_⟩
  exact hfirst j _ hj (List.getElem?_eq_getElem _) (beq_iff_eq.1 hloop)

/-- Where some lane acts, TARG acts in a row of any kind. -/
theorem targActs_of_anyActs {r : Row} {g : Guard} (h : r.anyActs g = true) : targActs g r = true := by
  unfold targActs
  split
  · have hlanes : (r.actLanes g).isEmpty = false := Bool.not_eq_true' _ ▸ h
    obtain ⟨l, hl⟩ := List.isEmpty_eq_false_iff_exists_mem.1 hlanes
    obtain ⟨hlL, hacts⟩ := List.mem_filter.1 hl
    exact List.any_eq_true.2 ⟨l, hlL, (Bool.and_eq_true_iff.1 hacts).2⟩
  · exact h

/-! ### IDEM and IDEND -/

section
variable {s : State} {g : Guard} (h : s.ready g) (hh : (s.row s.cur).handler = false)
include h hh

theorem idem_comesTo (m : SReg) : ComesTo (.idem g m) s
    (if (s.row s.cur).region.isSome then .trap cIdemNest 2 s.draw
     else if (s.row s.cur).other.isSome then .trap cIdemNest 4 s.draw
     else .done (s.draw.setRow s.cur { s.row s.cur with region := some ((s.row s.cur).snapshot m) })) :=
  have he : exec (.idem g m) s = execIdem g m s := rfl
  comesTo_issueQ he h (Plan.clear_priv hh _) rfl

theorem idend_comesTo : ComesTo (.idend g) s
    (if (s.row s.cur).region.isSome then .done (s.draw.modRow s.cur (fun r => { r with region := none }))
     else .trap cIdemNest 3 s.draw) :=
  have he : exec (.idend g) s = execIdend g s := rfl
  comesTo_issueQ he h (Plan.clear_priv hh _) rfl

theorem idem_opens (m : SReg) (hr : (s.row s.cur).region = none) (ho : (s.row s.cur).other = none) :
    Completes (.idem g m) s (s.now (fun r => { r with region := some ((s.row s.cur).snapshot m) })) := by
  have hcome := idem_comesTo h hh m
  rw [hr, ho] at hcome
  exact hcome.completes_setRow

theorem idem_split (m : SReg) (hr : (s.row s.cur).region = none) (ho : (s.row s.cur).other ≠ none) :
    Raises (.idem g m) s cIdemNest 4 := by
  have hcome := idem_comesTo h hh m
  rw [hr, if_neg (by decide), if_pos (Option.isSome_iff_ne_none.2 ho)] at hcome
  exact hcome.raises

theorem idem_nested (m : SReg) (hr : (s.row s.cur).region ≠ none) : Raises (.idem g m) s cIdemNest 2 := by
  have hcome := idem_comesTo h hh m
  rw [if_pos (Option.isSome_iff_ne_none.2 hr)] at hcome
  exact hcome.raises

theorem idend_ends (hr : (s.row s.cur).region ≠ none) :
    Completes (.idend g) s (s.now (fun r => { r with region := none })) := by
  have hcome := idend_comesTo h hh
  rw [if_pos (Option.isSome_iff_ne_none.2 hr)] at hcome
  exact hcome.completes (s.drawn + 1) rfl

theorem idend_outside (hr : (s.row s.cur).region = none) : Raises (.idend g) s cIdemNest 3 := by
  have hcome := idend_comesTo h hh
  rw [hr] at hcome
  exact hcome.raises

end

/-- Settles O33: the words that an open region refuses by their plans, those that would leave or split its tokens by their bodies, and
IDEM and IDEND by theirs. -/
theorem idempotentRegion : Obligations.IdempotentRegion := by
  refine ⟨?_, fun s g m h hh => ⟨fun hr ho => ⟨_, idem_opens h hh m hr ho, rfl, rfl, rfl, rfl, rfl, rfl, rfl, rfl, rfl, rfl, rfl⟩,
    idem_split h hh m, fun hr => ⟨idem_nested h hh m hr, idend_ends h hh hr⟩, idend_outside h hh⟩⟩
  intro s g x a b c d v w p q k am i4 n4 n2 n3 n5 f7 g7 n8 n12 n16 n24 off f1 f2 fm fr fn o op die2 eng3 buf6 M i t hq hh hreg hL r
  refine ⟨fun hg => ⟨?_, ?_, fun hl hr => mmac_raises_nest hq hh hreg hg hl hr, fun hd hx => ?_⟩,
    fun ha => ⟨(lexit_tjoin_raise_nest hq hh hreg ha a).1, (lexit_tjoin_raise_nest hq hh hreg ha a).2,
      fun hr => spawn_raises_nest hq hh hreg ha a b c f1 n2 hr, fun hr => ?_,
      fun hr => atomics_raise_nest hq hh hreg ha hL hr a n3 f1 f2 o⟩,
    fun hr => ⟨(ports_raise_nest hq hh hreg hr p q k).1, (ports_raise_nest hq hh hreg hr p q k).2,
      fun hm => pwr_raises_nest hq hh hreg hr hm, fun hp hgl => ?_⟩,
    fun ha hM0 hM => ?_⟩
  · exact raises_nest_scalar hq hh hreg hg a b q d n3 n5 f7 g7 n8 n12 n16 f1 f2 fr fn o
  · have hengine := raises_nest_engine hq hh hreg hg a b c i4 n4 n16 f1 fr die2 eng3
    have hbuffer := raises_nest_buffer hq hh hreg hg a b f1 die2 eng3 buf6
    have hgroup := raises_nest_group hq hh hreg hg a b n2 n8 n24 f1 op
    simp only [List.forall_mem_cons, List.not_mem_nil, false_implies, implies_true, and_true] at hengine hbuffer hgroup ⊢
    simp only [hengine, hbuffer, hgroup, and_self]
  · exact join_ret_raise_nest hq hh hreg hg off hd hx
  · simp only [List.forall_mem_cons, List.not_mem_nil, false_implies, implies_true, and_true]
    exact ⟨(acc_raise_nest hq hh hreg ha hr a n2 f7).1, (acc_raise_nest hq hh hreg ha hr a n2 f7).2,
      targ_raises_nest hq hh hreg hr i4 (targActs_of_anyActs ha)⟩
  · obtain ⟨l, hl, hgl⟩ := hgl
    refine targ_raises_nest hq hh hreg hr i4 ?_
    rw [targActs, if_pos (Option.isNone_iff_eq_none.2 hp)]
    exact List.any_eq_true.2 ⟨l, List.mem_range.2 hl, hgl⟩
  · have hmoving : r.moving g p f1 = M := Row.moving_eq hL hM
    have hloop : exec (.brk g p f1) s = leaveLoop g p f1 (fun m t => { t with park := t.park ||| m }) s := rfl
    have hcont : exec (.cont g p f1) s = leaveLoop g p f1 (fun m t => { t with wait := t.wait ||| m }) s := rfl
    refine ⟨fun hF hd => brv_raises_nest hq hh hreg ha off hmoving hM0 hF hd, fun ht hk hfirst hx => ?_⟩
    have hany := anyLoop_of_first ht hk hfirst
    exact ⟨leaveLoop_raises_nest hq hh hreg ha hloop (hmoving ▸ hM0) hany hx,
      leaveLoop_raises_nest hq hh hreg ha hcont (hmoving ▸ hM0) hany hx⟩

end Sys2Proof.Machine
end

section
/-! SUPPORT. No state stops the machine (R334): every word and every event comes to a next state. -/

namespace Sys2Proof.Machine

/-- A next state follows. -/
def Answers (o : Host.Outcome State Fault Refusal) : Prop := ∃ t, o = .next t

theorem Answers.next (t : State) : Answers (.next t) := ⟨t, rfl⟩

theorem Answers.ite {c : Prop} [Decidable c] {x y : Host.Outcome State Fault Refusal} (hx : Answers x) (hy : Answers y) :
    Answers (if c then x else y) := by
  split
  · exact hx
  · exact hy

/-! ### Words -/

theorem answers_settle (n : Nat) (y : Bool) (x : Res) : Answers (settle n y x) := by
  cases x <;> exact ⟨_, rfl⟩

theorem answers_issueWord (p : Plan) (go : Row → Bool) (body : State → Nat → Row → Res) (s : State) :
    Answers (issueWord p go body s) := by
  unfold issueWord
  refine .ite (answers_settle ..) ?_
  split
  · exact answers_settle ..
  · exact .ite (answers_settle ..) (.ite (answers_settle ..) (.ite (answers_settle ..) (.ite (answers_settle ..)
      (.ite (answers_settle ..) (.ite (answers_settle ..) (answers_settle ..))))))

theorem answers_issueQ (p : Plan) (g : Guard) (body : State → Nat → Row → Res) (s : State) : Answers (issueQ p g body s) :=
  answers_issueWord ..
theorem answers_issueL (p : Plan) (g : Guard) (body : State → Nat → Row → Res) (s : State) : Answers (issueL p g body s) :=
  answers_issueWord ..
theorem answers_issueAll (p : Plan) (body : State → Nat → Row → Res) (s : State) : Answers (issueAll p body s) :=
  answers_issueWord ..
theorem answers_scalarTo (g : Guard) (d : SReg) (f : Row → W64) (s : State) : Answers (scalarTo g d f s) := answers_issueQ ..
theorem answers_vectorTo (p : Plan) (g : Guard) (d : VReg) (f : Row → Nat → W32) (s : State) : Answers (vectorTo p g d f s) :=
  answers_issueL ..
theorem answers_floatTo (p : Plan) (g : Guard) (d : VReg) (f : Row → Nat → W32 × Flags) (s : State) :
    Answers (floatTo p g d f s) := answers_issueL ..
theorem answers_leaveLoop (g : Guard) (p : PReg) (neg : Bool) (f : Mask → Token → Token) (s : State) :
    Answers (leaveLoop g p neg f s) := answers_issueL ..
theorem answers_bufInstr (g : Guard) (die : BitVec 2) (buf : BitVec 6) (producer : Bool) (hold : Row → Bool)
    (body : State → Nat → Row → CBuf → Res) (s : State) : Answers (bufInstr g die buf producer hold body s) := answers_issueQ ..
theorem answers_ctail (g : Guard) (f : State → Nat → Row → Res) (s : State) : Answers (Machine.ctail g f s) := answers_issueQ ..
theorem answers_imageInstr (g : Guard) (a : SReg) (stores : Bool) (act : State → Nat → Nat → Res) (s : State) :
    Answers (imageInstr g a stores act s) := answers_issueQ ..

/-! ### Engines and commands -/

theorem answers_engStep (kind d e : Nat) (f : State → Engine → Cmd → State) (s : State) : Answers (engStep kind d e f s) := by
  unfold engStep
  dsimp only
  split
  · exact .ite (.next _) (.next _)
  · exact .next _

theorem answers_boxStep (kind d e : Nat) (f : State → Cmd → State) (s : State) : Answers (boxStep kind d e f s) :=
  answers_engStep ..
theorem answers_linkStep (kind d e : Nat) (work after : State → Cmd → Comm → Nat → State) (s : State) :
    Answers (linkStep kind d e work after s) := answers_engStep ..

theorem answers_command (code : Nat) (f : State → CmdRec → Ans) (s : State) : Answers (command code f s) := by
  unfold command
  refine .ite (.next _) (.ite (.next _) (.ite (.next _) (.ite (.next _) ?_)))
  split <;> exact .next _

theorem plop_answers (g : Guard) (q : Bool) (fn : BitVec 4) (d a b : PReg) (s : State) : Answers (execPlop g q fn d a b s) :=
  .ite (answers_issueQ ..) (answers_issueL ..)

theorem pmov_answers (g : Guard) (f : PmovForm) (s : State) : Answers (execPmov g f s) := by
  cases f with
  | pv | vp | pp => exact answers_issueL ..
  | qs | sq | qq | get | set | any | all => exact answers_issueQ ..

/-! ### Every instruction and every event -/

theorem exec_answers (i : Instr) (s : State) : Answers (exec i s) := by
  cases i with
  | nop g => exact show Answers (execNop g s) from answers_issueAll _ _ _
  | salu g op d a b => exact show Answers (execSalu g op d a b s) from answers_issueQ _ _ _ _
  | saddi g d a imm => exact show Answers (execSaddi g d a imm s) from answers_scalarTo _ _ _ _
  | sandi g d a imm => exact show Answers (execSandi g d a imm s) from answers_scalarTo _ _ _ _
  | sori g d a imm => exact show Answers (execSori g d a imm s) from answers_scalarTo _ _ _ _
  | sxori g d a imm => exact show Answers (execSxori g d a imm s) from answers_scalarTo _ _ _ _
  | sshli g d a n => exact show Answers (execSshli g d a n s) from answers_scalarTo _ _ _ _
  | sshri g d a n => exact show Answers (execSshri g d a n s) from answers_scalarTo _ _ _ _
  | ssrai g d a n => exact show Answers (execSsrai g d a n s) from answers_scalarTo _ _ _ _
  | sli g d imm => exact show Answers (execSli g d imm s) from answers_scalarTo _ _ _ _
  | slui g d a imm => exact show Answers (execSlui g d a imm s) from answers_scalarTo _ _ _ _
  | slhi g d a imm => exact show Answers (execSlhi g d a imm s) from answers_scalarTo _ _ _ _
  | sadda g d a b a56 w sh => exact show Answers (execSadda g d a b a56 w sh s) from answers_scalarTo _ _ _ _
  | smovv g d a m b first sx => exact show Answers (execSmovv g d a m b first sx s) from answers_issueQ _ _ _ _
  | scsr g d c => exact show Answers (execScsr g d c s) from answers_issueQ _ _ _ _
  | scsw g a mode c => exact show Answers (execScsw g a mode c s) from answers_issueQ _ _ _ _
  | scsx g d a mode c => exact show Answers (execScsx g d a mode c s) from answers_issueQ _ _ _ _
  | sld g d m vol fs => exact show Answers (execSld g d m vol fs s) from answers_issueQ _ _ _ _
  | sst g d m vol => exact show Answers (execSst g d m vol s) from answers_issueQ _ _ _ _
  | vialu g op w d a m b => exact show Answers (execVialu g op w d a m b s) from answers_vectorTo _ _ _ _ _
  | vialus g op w d a m b => exact show Answers (execVialus g op w d a m b s) from answers_vectorTo _ _ _ _ _
  | vaddi g d a imm => exact show Answers (execVaddi g d a imm s) from answers_vectorTo _ _ _ _ _
  | vandi g d a imm => exact show Answers (execVandi g d a imm s) from answers_vectorTo _ _ _ _ _
  | vori g d a imm => exact show Answers (execVori g d a imm s) from answers_vectorTo _ _ _ _ _
  | vxori g d a imm => exact show Answers (execVxori g d a imm s) from answers_vectorTo _ _ _ _ _
  | vshli g d a n => exact show Answers (execVshli g d a n s) from answers_vectorTo _ _ _ _ _
  | vshri g d a n => exact show Answers (execVshri g d a n s) from answers_vectorTo _ _ _ _ _
  | vsrai g d a n => exact show Answers (execVsrai g d a n s) from answers_vectorTo _ _ _ _ _
  | vli g d imm => exact show Answers (execVli g d imm s) from answers_vectorTo _ _ _ _ _
  | vmad g op w d a m b => exact show Answers (execVmad g op w d a m b s) from answers_vectorTo _ _ _ _ _
  | vsel g c d a m b => exact show Answers (execVsel g c d a m b s) from answers_vectorTo _ _ _ _ _
  | vidx g d a imm => exact show Answers (execVidx g d a imm s) from answers_vectorTo _ _ _ _ _
  | vbcast g d a hi => exact show Answers (execVbcast g d a hi s) from answers_vectorTo _ _ _ _ _
  | vmov g d a m => exact show Answers (execVmov g d a m s) from answers_vectorTo _ _ _ _ _
  | vred g op d a m seg => exact show Answers (execVred g op d a m seg s) from answers_vectorTo _ _ _ _ _
  | vscan g op excl d a m seg => exact show Answers (execVscan g op excl d a m seg s) from answers_vectorTo _ _ _ _ _
  | vperm g d a b inn seg => exact show Answers (execVperm g d a b inn seg s) from answers_vectorTo _ _ _ _ _
  | vfalu g op t r d a m b => exact show Answers (execVfalu g op t r d a m b s) from answers_floatTo _ _ _ _ _
  | vfma g op t r d a m b => exact show Answers (execVfma g op t r d a m b s) from answers_floatTo _ _ _ _ _
  | vfmas g op t r d a m b => exact show Answers (execVfmas g op t r d a m b s) from answers_floatTo _ _ _ _ _
  | vfun g op t r d a m => exact show Answers (execVfun g op t r d a m s) from answers_floatTo _ _ _ _ _
  | vfdiv g t r d a m b => exact show Answers (execVfdiv g t r d a m b s) from answers_floatTo _ _ _ _ _
  | vfclass g t half d a m b => exact show Answers (execVfclass g t half d a m b s) from answers_issueL _ _ _ _
  | vfclassTrap g t half a m b => exact show Answers (execVfclassTrap g t half a m b s) from answers_issueL _ _ _ _
  | vfred g op t r d a m seg => exact show Answers (execVfred g op t r d a m seg s) from answers_issueL _ _ _ _
  | vcvt g st dt r sgn ed es d a m => exact show Answers (execVcvt g st dt r sgn ed es d a m s) from answers_floatTo _ _ _ _ _
  | vsrnd g bf k d a m b => exact show Answers (execVsrnd g bf k d a m b s) from answers_issueL _ _ _ _
  | vqnt g j r sgn w d a m b => exact show Answers (execVqnt g j r sgn w d a m b s) from answers_issueL _ _ _ _
  | vdqnt g j sgn d a b => exact show Answers (execVdqnt g j sgn d a b s) from answers_floatTo _ _ _ _ _
  | vreq g sto k sgn w d a b => exact show Answers (execVreq g sto k sgn w d a b s) from answers_issueL _ _ _ _
  | vbmax g sgn w d a m => exact show Answers (execVbmax g sgn w d a m s) from answers_issueWord _ _ _ _
  | vpln g sgn w d a => exact show Answers (execVpln g sgn w d a s) from answers_issueL _ _ _ _
  | vupln g sgn w d a => exact show Answers (execVupln g sgn w d a s) from answers_issueL _ _ _ _
  | vfli g form h d => exact show Answers (execVfli g form h d s) from answers_floatTo _ _ _ _ _
  | vicmp g pt pf a m b sb c ty k => exact show Answers (execVicmp g pt pf a m b sb c ty k s) from answers_issueL _ _ _ _
  | vfcmp g pt pf a m b sb c ty k => exact show Answers (execVfcmp g pt pf a m b sb c ty k s) from answers_issueL _ _ _ _
  | sicmp g pt pf a b c ty k => exact show Answers (execSicmp g pt pf a b c ty k s) from answers_issueQ _ _ _ _
  | plop g q fn d a b => exact plop_answers g q fn d a b s
  | pmov g f => exact pmov_answers g f s
  | plive g mask => exact show Answers (execPlive g mask s) from answers_issueQ _ _ _ _
  | emset g a => exact show Answers (execEmset g a s) from answers_issueL _ _ _ _
  | emsetAll g => exact show Answers (execEmsetAll g s) from answers_issueWord _ _ _ _
  | emget g d sel => exact show Answers (execEmget g d sel s) from answers_issueAll _ _ _
  | br g c pr off => exact show Answers (execBr g c pr off s) from answers_issueQ _ _ _ _
  | brv g pr neg off => exact show Answers (execBrv g pr neg off s) from answers_issueL _ _ _ _
  | join g off => exact show Answers (execJoin g off s) from answers_issueQ _ _ _ _
  | brk g pr neg => exact show Answers (execBrk g pr neg s) from answers_leaveLoop _ _ _ _ _
  | cont g pr neg => exact show Answers (execCont g pr neg s) from answers_leaveLoop _ _ _ _ _
  | loops g off => exact show Answers (execLoops g off s) from answers_issueQ _ _ _ _
  | call g off => exact show Answers (execCall g off s) from answers_issueQ _ _ _ _
  | ret g => exact show Answers (execRet g s) from answers_issueQ _ _ _ _
  | jmpr g a => exact show Answers (execJmpr g a s) from answers_issueQ _ _ _ _
  | jmprCall g a => exact show Answers (execJmprCall g a s) from answers_issueQ _ _ _ _
  | lexit g => exact show Answers (execLexit g s) from answers_issueL _ _ _ _
  | exit g => exact show Answers (execExit g s) from answers_issueQ _ _ _ _
  | pwr g a m => exact show Answers (execPwr g a m s) from answers_issueAll _ _ _
  | prd g d pv => exact show Answers (execPrd g d pv s) from answers_issueAll _ _ _
  | prdn g d pv qt qs => exact show Answers (execPrdn g d pv qt qs s) from answers_issueAll _ _ _
  | pseal g => exact show Answers (execPseal g s) from answers_issueQ _ _ _ _
  | pstat g d south => exact show Answers (execPstat g d south s) from answers_issueQ _ _ _ _
  | pxfer g qs n => exact show Answers (execPxfer g qs n s) from answers_issueQ _ _ _ _
  | wld g a n fmt sa ss fs => exact show Answers (execWld g a n fmt sa ss fs s) from answers_issueQ _ _ _ _
  | wswap g => exact show Answers (execWswap g s) from answers_issueQ _ _ _ _
  | mmac g f => exact show Answers (execMmac g f s) from answers_issueQ _ _ _ _
  | accrd g d a h e => exact show Answers (execAccrd g d a h e s) from answers_issueL _ _ _ _
  | accwr g d a h e => exact show Answers (execAccwr g d a h e s) from answers_issueL _ _ _ _
  | accz g f cnt => exact show Answers (execAccz g f cnt s) from answers_issueQ _ _ _ _
  | mdrain g a => exact show Answers (execMdrain g a s) from answers_imageInstr _ _ _ _ _
  | mfill g a => exact show Answers (execMfill g a s) from answers_imageInstr _ _ _ _ _
  | mstat g d f => exact show Answers (execMstat g d f s) from answers_issueQ _ _ _ _
  | ldv g d m fs => exact show Answers (execLdv g d m fs s) from answers_issueAll _ _ _
  | stv g d m => exact show Answers (execStv g d m s) from answers_issueAll _ _ _
  | ldx g d m fs => exact show Answers (execLdx g d m fs s) from answers_issueAll _ _ _
  | stx g d m => exact show Answers (execStx g d m s) from answers_issueAll _ _ _
  | ldt g d m fs => exact show Answers (execLdt g d m fs s) from answers_issueAll _ _ _
  | ldm g d base off fs => exact show Answers (execLdm g d base off fs s) from answers_issueAll _ _ _
  | ldvol g d m fs => exact show Answers (execLdvol g d m fs s) from answers_issueAll _ _ _
  | stvol g d m => exact show Answers (execStvol g d m s) from answers_issueAll _ _ _
  | fence g k sc => exact show Answers (execFence g k sc s) from answers_issueQ _ _ _ _
  | ldacq g d m fs => exact show Answers (execLdacq g d m fs s) from answers_issueAll _ _ _
  | strel g d m => exact show Answers (execStrel g d m s) from answers_issueAll _ _ _
  | amo g d base idx sc fn ret o fs => exact show Answers (execAmo g d base idx sc fn ret o fs s) from answers_issueWord _ _ _ _
  | red g d base idx sc fn o => exact show Answers (execRed g d base idx sc fn o s) from answers_issueWord _ _ _ _
  | amos g d base wide fn ret o fs => exact show Answers (execAmos g d base wide fn ret o fs s) from answers_issueQ _ _ _ _
  | own g d base off many => exact show Answers (execOwn g d base off many s) from answers_issueQ _ _ _ _
  | disown g d base off many => exact show Answers (execDisown g d base off many s) from answers_issueQ _ _ _ _
  | peg g a b c flag act n => exact show Answers (execPeg g a b c flag act n s) from answers_issueQ _ _ _ _
  | unpeg g mask => exact show Answers (execUnpeg g mask s) from answers_issueQ _ _ _ _
  | pegw g a n fs => exact show Answers (execPegw g a n fs s) from answers_issueQ _ _ _ _
  | pegq g d tag n => exact show Answers (execPegq g d tag n s) from answers_issueQ _ _ _ _
  | rpos g d f => exact show Answers (execRpos g d f s) from answers_issueQ _ _ _ _
  | ctail g a die eng => exact show Answers (execCtail g a die eng s) from answers_ctail _ _ _
  | ctailRetry g die eng => exact show Answers (execCtailRetry g die eng s) from answers_ctail _ _ _
  | ctailSkip g die eng => exact show Answers (execCtailSkip g die eng s) from answers_ctail _ _ _
  | ctailStart g a b die eng => exact show Answers (execCtailStart g a b die eng s) from answers_ctail _ _ _
  | cseq g d f die eng => exact show Answers (execCseq g d f die eng s) from answers_issueQ _ _ _ _
  | cwait g b die eng fs => exact show Answers (execCwait g b die eng fs s) from answers_issueQ _ _ _ _
  | cbacq g a b die buf => exact show Answers (execCbacq g a b die buf s) from answers_bufInstr _ _ _ _ _ _ _
  | cbrel g a die buf => exact show Answers (execCbrel g a die buf s) from answers_bufInstr _ _ _ _ _ _ _
  | cbpub g a b fin die buf => exact show Answers (execCbpub g a b fin die buf s) from answers_bufInstr _ _ _ _ _ _ _
  | cbpubGet g a die buf => exact show Answers (execCbpubGet g a die buf s) from answers_bufInstr _ _ _ _ _ _ _
  | spawn g a b c inc pri vf nargs va => exact show Answers (execSpawn g a b c inc pri vf nargs va s) from answers_issueWord _ _ _ _
  | tjoin g a => exact show Answers (execTjoin g a s) from answers_issueWord _ _ _ _
  | targ g d k => exact show Answers (execTarg g d k s) from answers_issueWord _ _ _ _
  | tend g => exact show Answers (execTend g s) from answers_issueQ _ _ _ _
  | desc g a b => exact show Answers (execDesc g a b s) from answers_issueQ _ _ _ _
  | bar g d b op grp => exact show Answers (execBar g d b op grp s) from answers_issueWord _ _ _ _
  | bara g b op grp => exact show Answers (execBara g b op grp s) from answers_issueQ _ _ _ _
  | barw g d grp => exact show Answers (execBarw g d grp s) from answers_issueQ _ _ _ _
  | trig g => exact show Answers (execTrig g s) from answers_issueQ _ _ _ _
  | flwait g all mask => exact show Answers (execFlwait g all mask s) from answers_issueQ _ _ _ _
  | trap g code => exact show Answers (execTrap g code s) from answers_issueQ _ _ _ _
  | eret g => exact show Answers (execEret g s) from answers_issueQ _ _ _ _
  | idem g m => exact show Answers (execIdem g m s) from answers_issueQ _ _ _ _
  | idend g => exact show Answers (execIdend g s) from answers_issueQ _ _ _ _
  | phint g wake units n => exact show Answers (execPhint g wake units n s) from answers_issueQ _ _ _ _
  | yield g => exact show Answers (execYield g s) from answers_issueQ _ _ _ _
  | rdcyc g d run => exact show Answers (execRdcyc g d run s) from answers_issueQ _ _ _ _
  | halt g code => exact show Answers (execHalt g code s) from answers_issueQ _ _ _ _
  | clauseIssue row =>
    show Answers (execClauseIssue row s)
    fun_cases execClauseIssue row s <;> exact .next _
  | deferredTrap row => exact show Answers (execDeferredTrap row s) from .next _
  | operationComplete row id sel ecc =>
    show Answers (execOperationComplete row id sel ecc s)
    fun_cases execOperationComplete row id sel ecc s <;> exact .next _
  | storePerform row id sel ecc => exact show Answers (execStorePerform row id sel ecc s) from .next _
  | atomicPerform row id sel ecc => exact show Answers (execAtomicPerform row id sel ecc s) from .next _
  | rowRetire row =>
    show Answers (execRowRetire row s)
    fun_cases execRowRetire row s <;> exact .next _
  | portEntryArrive row => exact show Answers (execPortEntryArrive row s) from .next _
  | portWaitEnd row => exact show Answers (execPortWaitEnd row s) from .ite (.next _) (.ite (.next _) (.next _))
  | portStarved row =>
    show Answers (execPortStarved row s)
    fun_cases execPortStarved row s <;> exact .next _
  | cbEdgeTransfer row south =>
    show Answers (execCbEdgeTransfer row south s)
    fun_cases execCbEdgeTransfer row south s <;> exact .next _
  | vectorEnter row =>
    show Answers (execVectorEnter row s)
    fun_cases execVectorEnter row s <;> exact .next _
  | vectorWrite row =>
    show Answers (execVectorWrite row s)
    fun_cases execVectorWrite row s <;> exact .next _
  | swapPoint row =>
    show Answers (execSwapPoint row s)
    fun_cases execSwapPoint row s <;> exact .next _
  | shadowFillStart row =>
    show Answers (execShadowFillStart row s)
    fun_cases execShadowFillStart row s <;> exact .next _
  | arrayPortStop row ecc =>
    show Answers (execArrayPortStop row ecc s)
    fun_cases execArrayPortStop row ecc s <;> exact .next _
  | arrayWatchdog row =>
    show Answers (execArrayWatchdog row s)
    fun_cases execArrayWatchdog row s <;> exact .next _
  | revolutionStart => exact show Answers (execRevolutionStart s) from .ite (.next _) (.next _)
  | feederInsert ecc =>
    show Answers (execFeederInsert ecc s)
    fun_cases execFeederInsert ecc s <;> exact .next _
  | tilePass die bad =>
    show Answers (execTilePass die bad s)
    fun_cases execTilePass die bad s <;> exact .next _
  | pegFireComplete row n =>
    show Answers (execPegFireComplete row n s)
    fun_cases execPegFireComplete row n s <;> exact .next _
  | ringWatchdog row n =>
    show Answers (execRingWatchdog row n s)
    fun_cases execRingWatchdog row n s <;> exact .next _
  | commitPoint => exact show Answers (execCommitPoint s) from .ite (.next _) (.next _)
  | engineCommandStart die eng ecc =>
    show Answers (execEngineCommandStart die eng ecc s)
    fun_cases execEngineCommandStart die eng ecc s <;> exact .next _
  | engineCommandComplete die eng =>
    show Answers (execEngineCommandComplete die eng s)
    fun_cases execEngineCommandComplete die eng s <;> exact .next _
  | nopCommand die eng => exact show Answers (execNopCommand die eng s) from answers_engStep _ _ _ _ _
  | copy die eng ecc => exact show Answers (execCopy die eng ecc s) from answers_engStep _ _ _ _ _
  | tile die eng ecc => exact show Answers (execTile die eng ecc s) from answers_boxStep _ _ _ _ _
  | gather die eng ecc => exact show Answers (execGather die eng ecc s) from answers_boxStep _ _ _ _ _
  | transpose die eng ecc => exact show Answers (execTranspose die eng ecc s) from answers_boxStep _ _ _ _ _
  | fill die eng => exact show Answers (execFill die eng s) from answers_boxStep _ _ _ _ _
  | pairedCommit die eng ecc => exact show Answers (execPairedCommit die eng ecc s) from answers_engStep _ _ _ _ _
  | edgeFeed die eng ecc =>
    show Answers (execEdgeFeed die eng ecc s)
    unfold execEdgeFeed
    exact answers_engStep _ _ _ _ _
  | edgeDrain die eng =>
    show Answers (execEdgeDrain die eng s)
    unfold execEdgeDrain
    exact answers_engStep _ _ _ _ _
  | bufferSetUp die eng => exact show Answers (execBufferSetUp die eng s) from answers_engStep _ _ _ _ _
  | followOnMmac die eng =>
    show Answers (execFollowOnMmac die eng s)
    fun_cases execFollowOnMmac die eng s <;> exact .next _
  | send die eng ecc => exact show Answers (execSend die eng ecc s) from answers_linkStep _ _ _ _ _ _
  | recv die eng => exact show Answers (execRecv die eng s) from answers_linkStep _ _ _ _ _ _
  | reduceStep die eng ecc => exact show Answers (execReduceStep die eng ecc s) from answers_linkStep _ _ _ _ _ _
  | xorReduce die eng ecc => exact show Answers (execXorReduce die eng ecc s) from answers_linkStep _ _ _ _ _ _
  | allreduce die eng ecc => exact show Answers (execAllreduce die eng ecc s) from answers_linkStep _ _ _ _ _ _
  | linkAbort comm tag => exact show Answers (execLinkAbort comm tag s) from .next _
  | adyanCell port c =>
    show Answers (execAdyanCell port c s)
    fun_cases execAdyanCell port c s <;> exact .next _
  | replay port seq => exact show Answers (execReplay port seq s) from .next _
  | windowFill die =>
    show Answers (execWindowFill die s)
    fun_cases execWindowFill die s <;> exact .next _
  | waveDispatch die row => exact show Answers (execWaveDispatch die row s) from .ite (.next _) (.next _)
  | stealRequest die =>
    show Answers (execStealRequest die s)
    fun_cases execStealRequest die s <;> exact .next _
  | taskEnqueue die =>
    show Answers (execTaskEnqueue die s)
    fun_cases execTaskEnqueue die s <;> exact .next _
  | joinDecrement row =>
    show Answers (execJoinDecrement row s)
    fun_cases execJoinDecrement row s <;> exact .next _
  | continuationEnqueue die pri =>
    show Answers (execContinuationEnqueue die pri s)
    fun_cases execContinuationEnqueue die pri s <;> exact .next _
  | partSecure die =>
    show Answers (execPartSecure die s)
    fun_cases execPartSecure die s <;> exact .next _
  | domainReassign dom => exact show Answers (execDomainReassign dom s) from .next _
  | gangStart pl =>
    show Answers (execGangStart pl s)
    fun_cases execGangStart pl s <;> exact .next _
  | allowanceTick dom => exact show Answers (execAllowanceTick dom s) from .ite (.next _) (.next _)
  | thermal dom reading => exact show Answers (execThermal dom reading s) from .ite (.next _) (.next _)
  | laggardTransferEnd dom => exact show Answers (execLaggardTransferEnd dom s) from .next _
  | bank row fp => exact show Answers (execBank row fp s) from .ite (.next _) (.next _)
  | stokeRequest row fp => exact show Answers (execStokeRequest row fp s) from .ite (.next _) (.next _)
  | inrushGrant die => exact show Answers (execInrushGrant die s) from .ite (.next _) (.next _)
  | stokeComplete row fp =>
    show Answers (execStokeComplete row fp s)
    fun_cases execStokeComplete row fp s <;> exact .next _
  | preemptArrive die => exact show Answers (execPreemptArrive die s) from .ite (.next _) (.next _)
  | hamperSave row => exact show Answers (execHamperSave row s) from .ite (.next _) (.ite (.next _) (.next _))
  | start => exact show Answers (execStart s) from .ite (.next _) (.next _)
  | featuresTimeout => exact show Answers (execFeaturesTimeout s) from .ite (.next _) (.next _)
  | fatal cause => exact show Answers (execFatal cause s) from .ite (.next _) (.next _)
  | eventDeliver =>
    show Answers (execEventDeliver s)
    fun_cases execEventDeliver s <;> exact .next _
  | cmdTail r v => exact show Answers (execCmdTail r v s) from .ite (.next _) (.next _)
  | evtHead v => exact show Answers (execEvtHead v s) from .next _
  | windowWrite off v => exact show Answers (execWindowWrite off v s) from .next _
  | features => exact show Answers (execFeatures s) from answers_command _ _ _
  | attest ecc => exact show Answers (execAttest ecc s) from answers_command _ _ _
  | status => exact show Answers (execStatus s) from answers_command _ _ _
  | jobOpen => exact show Answers (execJobOpen s) from answers_command _ _ _
  | jobClose => exact show Answers (execJobClose s) from answers_command _ _ _
  | allocSet ecc => exact show Answers (execAllocSet ecc s) from answers_command _ _ _
  | sideCheck => exact show Answers (execSideCheck s) from answers_command _ _ _
  | xlateInval => exact show Answers (execXlateInval s) from answers_command _ _ _
  | place ecc => exact show Answers (execPlace ecc s) from answers_command _ _ _
  | poolBind ecc => exact show Answers (execPoolBind ecc s) from answers_command _ _ _
  | poolUnbind => exact show Answers (execPoolUnbind s) from answers_command _ _ _
  | preempt =>
    show Answers (execPreempt s)
    fun_cases execPreempt s <;> exact .next _
  | resume ecc => exact show Answers (execResume ecc s) from answers_command _ _ _
  | checkpoint ecc => exact show Answers (execCheckpoint ecc s) from answers_command _ _ _
  | restore ecc => exact show Answers (execRestore ecc s) from answers_command _ _ _
  | ringLoad ecc => exact show Answers (execRingLoad ecc s) from answers_command _ _ _
  | linkUp => exact show Answers (execLinkUp s) from answers_command _ _ _
  | commLoad ecc => exact show Answers (execCommLoad ecc s) from answers_command _ _ _
  | powerSet => exact show Answers (execPowerSet s) from answers_command _ _ _
  | clearStart => exact show Answers (execClearStart s) from .next _
  | mgmtStatus => exact show Answers (execMgmtStatus s) from .next _
  | mgmtAttest => exact show Answers (execMgmtAttest s) from .next _
  | mgmtReadStart => exact show Answers (execMgmtReadStart s) from .next _
  | mgmtReadEvents => exact show Answers (execMgmtReadEvents s) from .next _
  | mgmtReset => exact show Answers (execMgmtReset s) from .next _

theorem issueNext_answers (n : Nat) (s : State) : Answers (issueNext n s) := by
  fun_cases issueNext n s
  case case5 => exact exec_answers _ _
  all_goals exact .next _

theorem runMove_answers (m : Move) (s : State) : Answers (runMove m s) := by
  fun_cases runMove m s
  case case1 => exact issueNext_answers _ _
  case case3 => exact exec_answers _ _
  all_goals exact .next _

/-- Settles O6: a step draws a move, or runs one, and each word and each event comes to a next state. -/
theorem stepTotal : Obligations.StepTotal := by
  intro s
  unfold step
  split
  · exact ⟨_, rfl⟩
  · exact runMove_answers _ _

end Sys2Proof.Machine
end

section
/-! SUPPORT. Securing rows and starting a placement (R304, R375, R23): which part is secured next, and a row of a placement at its
start. -/

namespace Sys2Proof.Machine

/-! ### The part that is secured next -/

section
variable {s : State} {d : Nat} {p h : Pl} {rows : List Nat} {l : List Pl}

theorem nextSecure_of_none (hl : s.parts d = []) : s.nextSecure d = none := by
  simp only [State.nextSecure, hl]

/-- The head's lowest free position, where it has one. -/
theorem nextSecure_of_head {q : List Nat} (hl : s.parts d = h :: l)
    (hq : (s.positions h d).find? (fun x => x.all (s.freeFor h.cls)) = some q) : s.nextSecure d = some (h, q) := by
  simp only [State.nextSecure, hl, hq]

/-- Otherwise the first later part that may go before it. -/
theorem nextSecure_of_later (hl : s.parts d = h :: l)
    (hq : (s.positions h d).find? (fun x => x.all (s.freeFor h.cls)) = none) :
    s.nextSecure d = l.findSome? (fun p => ((s.positions p d).find? (fun x =>
      x.all (s.freeFor p.cls) && backfills d h (s.positions h d) p x)).map (fun x => (p, x))) := by
  simp only [State.nextSecure, hl, hq]

/-- What is secured next is the head's, or a later part's that may go before the head. -/
theorem nextSecure_some (hs : s.nextSecure d = some (p, rows)) :
    rows ∈ s.positions p d ∧ (∀ n ∈ rows, s.freeFor p.cls n = true) ∧
      ∃ h l, s.parts d = h :: l ∧ (p = h ∨ (p ∈ l ∧ backfills d h (s.positions h d) p rows = true)) := by
  cases hl : s.parts d with
  | nil => simp [nextSecure_of_none hl] at hs
  | cons h l =>
    cases hq : (s.positions h d).find? (fun x => x.all (s.freeFor h.cls)) with
    | some q =>
      obtain ⟨rfl, rfl⟩ := Prod.mk.inj (Option.some.inj ((nextSecure_of_head hl hq).symm.trans hs))
      have hfree := List.find?_some hq
      exact ⟨List.mem_of_find?_eq_some hq, fun n hn => List.all_eq_true.1 hfree n hn, h, l, rfl, .inl rfl⟩
    | none =>
      rw [nextSecure_of_later hl hq] at hs
      obtain ⟨e, he, hpart⟩ := List.exists_of_findSome?_eq_some hs
      obtain ⟨x, hx, hpair⟩ := Option.map_eq_some_iff.1 hpart
      obtain ⟨rfl, rfl⟩ := Prod.mk.inj hpair
      have hboth := List.find?_some hx
      obtain ⟨hfree, hback⟩ := Bool.and_eq_true_iff.1 hboth
      exact ⟨List.mem_of_find?_eq_some hx, fun n hn => List.all_eq_true.1 hfree n hn, h, l, rfl, .inr ⟨he, hback⟩⟩

/-- What a part behind the head must keep clear of. -/
theorem backfills_iff {ps : List (List Nat)} : backfills d h ps p rows = true ↔
    (∀ e ∈ p.dies, e ≠ d → e ∈ p.secured) ∧ ∀ n ∈ rows, ∀ q ∈ ps, n ∉ q ∧ (p.cls ≠ h.cls → ∀ m ∈ q, m / 32 ≠ n / 32) := by
  simp only [backfills, domOf, Bool.and_eq_true, List.all_eq_true, List.mem_filter, bne_iff_ne, List.contains_iff_mem,
    Bool.not_eq_true', List.any_eq_false, Bool.or_eq_true, List.any_eq_true, beq_iff_eq, not_or, not_and, not_exists, and_imp]

theorem nextSecure_exists (hl : s.parts d = p :: l) (hr : rows ∈ s.positions p d)
    (hfree : ∀ n ∈ rows, s.freeFor p.cls n = true) : ∃ q, s.nextSecure d = some (p, q) := by
  obtain ⟨q, hq⟩ := Option.isSome_iff_exists.1
    (List.find?_isSome (p := fun x : List Nat => x.all (s.freeFor p.cls)).2 ⟨rows, hr, List.all_eq_true.2 hfree⟩)
  exact ⟨q, nextSecure_of_head hl hq⟩

end

theorem exec_partSecure {s : State} {d : Nat} (hh : (s.die d).halted = false) {p : Pl} {rows : List Nat}
    (hs : s.nextSecure d = some (p, rows)) : exec (.partSecure d) s = .next (s.secure d p rows) := by
  show execPartSecure d s = _
  simp only [execPartSecure, hh, hs, Bool.false_eq_true, if_false]

theorem exec_partSecure_idle {s : State} {d : Nat} (hs : s.nextSecure d = none) : exec (.partSecure d) s = .next s := by
  show execPartSecure d s = _
  simp only [execPartSecure, hs, ite_self]

/-- A reassignment ends with the class changed. -/
theorem exec_domainReassign {s : State} {k c : Nat} (hc : (s.dom k).reassign = some c) :
    ∃ t, exec (.domainReassign k) s = .next t ∧ t.dom k = { s.dom k with cls := c, reassign := none } ∧
      (∀ m, m ≠ k → t.dom m = s.dom m) ∧ ∀ n, t.row n = s.row n := by
  refine ⟨_, rfl, ?_, fun m hm => setDom_dom_ne _ _ hm, fun n => rfl⟩
  rw [modDom_dom_same, hc]

/-! ### A row of a placement at its start -/

/-- What Table 01-3 gives row n of a placement at its start, in a state. -/
def StartsAt (s : State) (p : Pl) (n : Nat) (r : Row) : Prop :=
  r.life = .running ∧ r.L = p.width ∧ r.arm.pc = p.entry ∧ r.arm.em = laneMask p.width ∧ r.exited = 0 ∧
    r.other = none ∧ r.armsTok = none ∧ r.arm.toks = [] ∧ r.arm.flags = 0 ∧ r.handler = false ∧ r.region = none ∧
    r.sreg 1 = p.param ∧ r.sreg 2 = BitVec.ofNat 64 (n - p.first) ∧ r.sreg 3 = BitVec.ofNat 64 p.rows ∧
    (∀ j, 4 ≤ j → j < 32 → r.sreg j = 0) ∧ (∀ j, 1 ≤ j → j < 8 → r.preg j = 0 ∧ r.qreg j = false) ∧
    r.csr.fflags = 0 ∧ r.csr.mflags = 0 ∧ r.csr.rng = 1 ∧ r.csr.plive = 0xFF ∧ r.csr.tvec = s.job.tvec ∧
    r.v = (s.row n).v ∧ r.ac = (s.row n).ac ∧ r.active.st = .empty ∧ r.shadow.st = .empty ∧ r.pl = some p.num ∧
    r.north.entries = [] ∧ (∀ k, n = p.first → p.north = .link k →
      r.north.sealAt = if (s.port k).up then .none else .present) ∧
    (n = p.first → r.nbind = p.north) ∧ (n ≠ p.first → r.nbind = .row) ∧
    (n = p.first + p.rows - 1 → r.sbind = p.south) ∧ (n ≠ p.first + p.rows - 1 → r.sbind = .row)

/-- Two states in which a start gives the same to rows that stand alike: csr.tvec and the links that are up. -/
def SameStart (s t : State) : Prop := t.job.tvec = s.job.tvec ∧ ∀ k, (t.port k).up = (s.port k).up

theorem SameStart.refl (s : State) : SameStart s s := ⟨rfl, fun _ => rfl⟩

theorem SameStart.trans {s t u : State} (h : SameStart s t) (h' : SameStart t u) : SameStart s u :=
  ⟨h'.1.trans h.1, fun k => (h'.2 k).trans (h.2 k)⟩

theorem modPort_up (s : State) (p : Nat) {f : Port → Port} (hf : (f (s.port p)).up = (s.port p).up) (k : Nat) :
    ((s.modPort p f).port k).up = (s.port k).up := by
  have hport : (s.modPort p f).port k = if k = p then f (s.port p) else s.port k := tget_tset _ _ _ _ _
  rw [hport]
  split
  next he => rw [he, hf]
  next => rfl

theorem sameStart_newChain (s : State) (b : Bind) : SameStart s (s.newChain b) ∧ ∀ m, (s.newChain b).row m = s.row m := by
  cases b with
  | link p => exact ⟨⟨rfl, fun k => modPort_up (s.modJob _) p rfl k⟩, fun m => rfl⟩
  | _ => exact ⟨SameStart.refl s, fun _ => rfl⟩

/-- A north end whose link is down. -/
def State.deadNorth (s : State) (p : Pl) (n : Nat) : Bool :=
  n == p.first && (match p.north with | .link k => !(s.port k).up | _ => false)

/-- The ports once row n has started. -/
def State.startPorts (s : State) (p : Pl) (n : Nat) : State :=
  let s1 := match p.north with | .link k => if s.deadNorth p n then s.modPort k (fun x => { x with chainIn := [] }) else s | _ => s
  if n == p.first + p.rows - 1 then s1.newChain p.south else s1

theorem sameStart_startPorts (s : State) (p : Pl) (n : Nat) :
    SameStart s (s.startPorts p n) ∧ ∀ m, (s.startPorts p n).row m = s.row m := by
  have hnorth : ∀ b : Bind, let u := (match b with
      | .link k => if s.deadNorth p n then s.modPort k (fun x => { x with chainIn := [] }) else s | _ => s)
      SameStart s u ∧ ∀ m, u.row m = s.row m := by
    intro b
    cases b with
    | link k =>
      dsimp only
      split
      · exact ⟨⟨rfl, fun j => modPort_up s k rfl j⟩, fun _ => rfl⟩
      · exact ⟨SameStart.refl s, fun _ => rfl⟩
    | _ => exact ⟨SameStart.refl s, fun _ => rfl⟩
  unfold State.startPorts
  dsimp only
  split
  · obtain ⟨hsame, hrow⟩ := sameStart_newChain (match p.north with
      | .link k => if s.deadNorth p n then s.modPort k (fun x => { x with chainIn := [] }) else s | _ => s) p.south
    exact ⟨(hnorth p.north).1.trans hsame, fun m => (hrow m).trans ((hnorth p.north).2 m)⟩
  · exact hnorth p.north

/-- The row as it starts. -/
def State.placedRow (s : State) (p : Pl) (n : Nat) : Row :=
  let r := s.freshRow n p.width p.entry
  { r with
    north := { Fifo.reset with sealAt := if s.deadNorth p n then .present else .none }
    s := tsets 0 [] [(1, p.param), (2, BitVec.ofNat 64 (n - p.first)), (3, BitVec.ofNat 64 p.rows)]
    csr := { r.csr with
      placement := BitVec.ofNat 64 (p.num + p.pri * 2 ^ 32), groups := groupsCsr p n
      pclass := BitVec.ofNat 2 p.cls, pweight := BitVec.ofNat 4 p.weight }
    pl := some p.num, nbind := if n == p.first then p.north else .row
    sbind := if n == p.first + p.rows - 1 then p.south else .row }

theorem startPlaced_eq (s : State) (p : Pl) (n : Nat) :
    s.startPlaced p n = (s.startPorts p n).setRow n (s.placedRow p n) := rfl

theorem startPlaced_row_ne (s : State) (p : Pl) {n m : Nat} (hm : m ≠ n) : (s.startPlaced p n).row m = s.row m := by
  rw [startPlaced_eq, setRow_row_ne _ _ hm, (sameStart_startPorts s p n).2]

theorem startPlaced_sameStart (s : State) (p : Pl) (n : Nat) : SameStart s (s.startPlaced p n) :=
  (sameStart_startPorts s p n).1

theorem startPlaced_row_same (s : State) (p : Pl) (n : Nat) : (s.startPlaced p n).row n = s.placedRow p n := by
  rw [startPlaced_eq, setRow_row_same]

theorem placedRow_sreg (s : State) (p : Pl) (n : Nat) {j : Nat} (hj : 0 < j) : (s.placedRow p n).sreg j =
    if j = 3 then BitVec.ofNat 64 p.rows else if j = 2 then BitVec.ofNat 64 (n - p.first) else if j = 1 then p.param else 0 := by
  have hs : (s.placedRow p n).sreg j =
      tget 0 (tsets 0 [] [(1, p.param), (2, BitVec.ofNat 64 (n - p.first)), (3, BitVec.ofNat 64 p.rows)]) j := by
    simp only [Row.sreg, if_neg (Nat.pos_iff_ne_zero.1 hj)]
    rfl
  simp only [hs, tsets, List.foldl_cons, List.foldl_nil, tget_tset]
  rfl

theorem placedRow_startsAt (s : State) (p : Pl) (n : Nat) : StartsAt s p n (s.placedRow p n) := by
  refine ⟨rfl, rfl, rfl, rfl, rfl, rfl, rfl, rfl, rfl, rfl, rfl, placedRow_sreg s p n (by decide),
    placedRow_sreg s p n (by decide), placedRow_sreg s p n (by decide), fun j h4 _ => ?_, fun j h1 h8 => ⟨if_neg (by omega), ?_⟩,
    rfl, rfl, rfl, rfl, rfl, rfl, rfl, rfl, rfl, rfl, rfl, fun k hn hk => ?_, fun hn => if_pos (beq_iff_eq.2 hn),
    fun hn => if_neg (mt beq_iff_eq.1 hn), fun hn => if_pos (beq_iff_eq.2 hn), fun hn => if_neg (mt beq_iff_eq.1 hn)⟩
  · rw [placedRow_sreg s p n (by omega), if_neg (by omega), if_neg (by omega), if_neg (by omega)]
  · have hq : (s.placedRow p n).q = 0 := rfl
    simp [Row.qreg, hq, Nat.pos_iff_ne_zero.1 h1]
  · show (if s.deadNorth p n then Seal.present else .none) = _
    simp only [State.deadNorth, hn, hk, beq_self_eq_true, Bool.true_and]
    cases (s.port k).up <;> rfl

/-- What a row starts with goes by csr.tvec, the links and the row's own registers alone. -/
theorem StartsAt.of_same {s t : State} {p : Pl} {n : Nat} {r : Row} (h : StartsAt t p n r) (hs : SameStart s t)
    (hr : t.row n = s.row n) : StartsAt s p n r := by
  unfold StartsAt at h ⊢
  simpa only [hr, hs.1, hs.2] using h

/-- The rows of a list of distinct rows start one after another, and no other row changes. -/
theorem foldl_startPlaced (p : Pl) : ∀ (l : List Nat) (s : State), l.Nodup →
    (∀ n, n ∉ l → (l.foldl (fun s n => s.startPlaced p n) s).row n = s.row n) ∧
      ∀ n ∈ l, StartsAt s p n ((l.foldl (fun s n => s.startPlaced p n) s).row n)
  | [], s, _ => ⟨fun _ _ => rfl, fun _ hn => absurd hn List.not_mem_nil⟩
  | a :: l, s, hnd => by
    obtain ⟨ha, hl⟩ := List.nodup_cons.1 hnd
    obtain ⟨hother, hstart⟩ := foldl_startPlaced p l (s.startPlaced p a) hl
    refine ⟨fun n hn => ?_, fun n hn => ?_⟩
    · obtain ⟨hna, hnl⟩ := not_or.1 (mt List.mem_cons.2 hn)
      exact (hother n hnl).trans (startPlaced_row_ne s p hna)
    · rcases List.mem_cons.1 hn with rfl | hnl
      · rw [List.foldl_cons, hother n ha, startPlaced_row_same]
        exact placedRow_startsAt s p n
      · have hne : n ≠ a := fun he => ha (he ▸ hnl)
        exact (hstart n hnl).of_same (startPlaced_sameStart s p a) (startPlaced_row_ne s p hne)

theorem Pl.band_nodup (p : Pl) : p.band.Nodup :=
  List.nodup_range.map fun _ _ h => Nat.add_left_cancel h

/-- The acquire of each die before the start (R313) changes no row, no link and no vector. -/
theorem acquireAt_sameStart (s : State) (d : Nat) (sc : Sys2Proof.Scope) :
    SameStart s (s.acquireAt d sc) ∧ ∀ m, (s.acquireAt d sc).row m = s.row m := by
  unfold State.acquireAt
  split
  · exact ⟨⟨rfl, fun _ => rfl⟩, fun _ => rfl⟩
  · exact ⟨SameStart.refl s, fun _ => rfl⟩

theorem foldl_acquireAt_sameStart (l : List Nat) (sc : Sys2Proof.Scope) (s : State) :
    SameStart s (l.foldl (fun s d => s.acquireAt d sc) s) ∧ ∀ m, (l.foldl (fun s d => s.acquireAt d sc) s).row m = s.row m :=
  List.foldlRecOn (motive := fun t : State => SameStart s t ∧ ∀ m, t.row m = s.row m) l _ ⟨SameStart.refl s, fun _ => rfl⟩
    fun t ht d _ => ⟨ht.1.trans (acquireAt_sameStart t d sc).1, fun m => ((acquireAt_sameStart t d sc).2 m).trans (ht.2 m)⟩

/-- Once every part has its rows, all rows of the placement start in one step. -/
theorem exec_gangStart {s : State} {k : Nat} {p : Pl} (hp : s.findPl k = some p) (hg : s.gangReady p = true) :
    ∃ t, exec (.gangStart k) s = .next t ∧ (∀ n, n ∉ p.band → t.row n = s.row n) ∧
      ∀ n ∈ p.band, StartsAt s p n (t.row n) := by
  have he : exec (.gangStart k) s = execGangStart k s := rfl
  simp only [execGangStart, hp, hg, if_true] at he
  obtain ⟨hsame, hrow⟩ := foldl_acquireAt_sameStart p.dies .device (s.setPl { p with st := .running })
  obtain ⟨hother, hstart⟩ := foldl_startPlaced p p.band (p.dies.foldl (fun s d => s.acquireAt d .device)
    (s.setPl { p with st := .running })) p.band_nodup
  exact ⟨_, he, fun n hn => (hother n hn).trans (hrow n), fun n hn => (hstart n hn).of_same (s := s) hsame (hrow n)⟩

/-- Settles O53: the part secured next by the head's search and the later parts', and the start by a fold over the band's rows. -/
theorem placements : Obligations.Placements := by
  refine ⟨fun s d k c p h rows l => ⟨fun hl hs => ?_, fun hs => ?_, fun hl hr => nextSecure_exists hl hr.1 hr.2,
    fun hh hs => exec_partSecure hh hs, exec_partSecure_idle, exec_domainReassign⟩, fun s k n p hp => ⟨fun hg => ?_, fun hg => ?_⟩⟩
  · obtain ⟨-, -, h', l', hl', hpart⟩ := nextSecure_some hs
    obtain ⟨rfl, rfl⟩ := List.cons.inj (hl.symm.trans hl')
    exact hpart.imp_right fun hback => ⟨hback.1, backfills_iff.1 hback.2⟩
  · obtain ⟨hrows, hfree, h', l', hl', hpart⟩ := nextSecure_some hs
    refine ⟨?_, hrows, hfree⟩
    rw [hl']
    rcases hpart with rfl | hpart
    · exact List.mem_cons_self
    · exact List.mem_cons_of_mem _ hpart.1
  · obtain ⟨t, ht, hother, hstart⟩ := exec_gangStart hp hg
    exact ⟨t, ht, hother n, hstart n⟩
  · show execGangStart k s = _
    simp only [execGangStart, hp, hg, Bool.false_eq_true, if_false]

end Sys2Proof.Machine
end

section
/-! SUPPORT. A command of Mbabo: where it runs, what completing it and refusing it leave, and the alignment tests of its operands. -/

namespace Sys2Proof.Machine

/-! ### Alignment tests -/

theorem and_low_eq_zero {n : Nat} (k : Nat) (x m : BitVec n) (hm : m.toNat = 2 ^ k - 1) :
    x &&& m = 0 ↔ x.toNat % 2 ^ k = 0 := by
  rw [← BitVec.toNat_inj, BitVec.toNat_and, hm, Nat.and_two_pow_sub_one_eq_mod]
  exact Iff.rfl

theorem and_7 (x : W64) : x &&& 7 = 0 ↔ x.toNat % 8 = 0 := and_low_eq_zero 3 x 7 rfl
theorem and_15 (x : W64) : x &&& 15 = 0 ↔ x.toNat % 16 = 0 := and_low_eq_zero 4 x 15 rfl
theorem and_63 (x : W64) : x &&& 63 = 0 ↔ x.toNat % 64 = 0 := and_low_eq_zero 6 x 63 rfl
theorem and_1023 (x : W64) : x &&& 0x3FF = 0 ↔ x.toNat % 1024 = 0 := and_low_eq_zero 10 x 0x3FF rfl
theorem and_65535 (x : W64) : x &&& 0xFFFF = 0 ↔ x.toNat % 65536 = 0 := and_low_eq_zero 16 x 0xFFFF rfl
theorem and_27bits (x : W64) : x &&& 0x7FFFFFF = 0 ↔ x.toNat % 2 ^ 27 = 0 := and_low_eq_zero 27 x 0x7FFFFFF rfl

/-! ### A command that runs -/

theorem finishHalt_of_ne {s : State} (h : s.job.pre ≠ .asked) : s.finishHalt = s := by
  unfold State.finishHalt
  rw [if_neg]
  simp only [Bool.and_eq_true, beq_iff_eq]
  exact fun hh => h hh.1.1

theorem finishHalt_of_busy {s : State} (h : s.atRest = false) : s.finishHalt = s := by
  unfold State.finishHalt
  rw [if_neg]
  simp [h]

theorem cmdMask_of_not_refused {d : Dev} {r : CmdRec} (h : d.refuses r = none) : (cmdMask (cmdCode r)).isNone = false := by
  cases hm : cmdMask (cmdCode r) with
  | some m => rfl
  | none => simp [Dev.refuses, hm] at h

/-- A command that runs does what its body says. -/
theorem command_runs {s : State} {code : Nat} {r : CmdRec} (h : Runs s code r) (f : State → CmdRec → Ans) :
    command code f s = .next (s.answer (f s r)) := by
  obtain ⟨hpre, hup, hne, hslot, hcode, href⟩ := h
  simp only [command, finishHalt_of_ne hpre, hslot]
  simp [hup, hne, hpre, hcode ▸ cmdMask_of_not_refused href, hcode, href]

/-- The command completes with a result, and what is claimed holds after it. -/
def DoneWith (i : Instr) (s : State) (z : W64) (p : State → Prop) : Prop :=
  ∃ t, exec i s = .next t ∧ AnsweredWith s t 0 0 z ∧ p t

/-- The command is refused for a reason, without an effect. -/
def RefusedWith (i : Instr) (s : State) (k : Nat) : Prop :=
  ∃ t, exec i s = .next t ∧ AnsweredWith s t 1 k 0 ∧ t.job = s.job

theorem answeredWith_finish {s t : State} (hh : t.dev.cmdHead = s.dev.cmdHead) (ht : t.dev.cmdTail = s.dev.cmdTail)
    (st k : Nat) (z : W64) : AnsweredWith s (t.finish st k z) st k z := by
  have hs : (t.finish st k z).dev.slot s.dev.cmdHead = { t.dev.slot t.dev.cmdHead with
      w6 := z, w7 := BitVec.ofNat 64 (st + 256 * k) + (z <<< 32) } := by
    rw [← hh]
    exact tget_tset_same ..
  exact ⟨by rw [hs], by rw [hs], congrArg (fun n => (n + 1) % 256) hh, ht⟩

theorem refusedWith {s : State} {i : Instr} {k : Nat} (he : exec i s = .next (s.answer (.refuse k))) : RefusedWith i s k :=
  ⟨_, he, answeredWith_finish rfl rfl 1 k 0, rfl⟩

theorem doneWith {s u : State} {i : Instr} {z : W64} {p : State → Prop} (he : exec i s = .next (s.answer (.done z u)))
    (hh : u.dev.cmdHead = s.dev.cmdHead) (ht : u.dev.cmdTail = s.dev.cmdTail) (hp : p (u.finish 0 0 z)) : DoneWith i s z p :=
  ⟨_, he, answeredWith_finish hh ht 0 0 z, hp⟩

/-! ### Reads of physical memory -/

theorem paOk_of_paRead {s : State} {a : W64} {n : Nat} {b : List W8} (h : s.paRead a n false = some b) :
    s.paOk a.toNat n = true ∧ b = (List.range n).map (fun i => s.paByte (a.toNat + i)) := by
  simp only [State.paRead, Bool.false_or, Bool.not_eq_true'] at h
  split at h
  · cases h
  · rename_i hok
    exact ⟨by simpa using hok, (Option.some.inj h).symm⟩

end Sys2Proof.Machine
end

section
/-! SUPPORT. The commands that give a job work (R298 to R303, R318, R319, R203, R357, R358): what a translation changes, folds over rows,
ports and domains, and each command's end. -/

namespace Sys2Proof.Machine

/-! ### What a translation leaves -/

/-- `t` is `s` but for what translation units hold and the free values drawn. -/
def Translated (s t : State) : Prop := t = { s with job := { s.job with tlb := t.job.tlb }, drawn := t.drawn }

section
variable {s t u : State}

theorem Translated.refl (s : State) : Translated s s := rfl

theorem Translated.trans (h : Translated s t) (k : Translated t u) : Translated s u := by
  unfold Translated at *
  rw [k, h]

theorem Translated.dev (h : Translated s t) : t.dev = s.dev := by rw [h]
theorem Translated.row (h : Translated s t) (n : Nat) : t.row n = s.row n := by rw [h]; rfl
theorem Translated.pls (h : Translated s t) : t.job.pls = s.job.pls := by rw [h]
theorem Translated.nextPl (h : Translated s t) : t.job.nextPl = s.job.nextPl := by rw [h]
end

theorem entryAt_translated (s : State) (u lo va k : Nat) : Translated s (s.entryAt u lo va k).2 := by
  unfold State.entryAt
  split <;> rfl

theorem walk_translated (u va : Nat) (l : List PtLevel) (table : Nat) (s : State) : Translated s (walk u va l table s).2 := by
  induction l generalizing table s with
  | nil => exact Translated.refl s
  | cons x l ih =>
    have h := entryAt_translated s u x.lo va (table + 8 * (va / 2 ^ x.lo % 2 ^ x.bits))
    rw [walk]
    generalize s.entryAt u x.lo va (table + 8 * (va / 2 ^ x.lo % 2 ^ x.bits)) = q at h
    obtain ⟨e, t⟩ := q
    dsimp only at h ⊢
    repeat' split
    all_goals first
      | exact h
      | exact h.trans (ih _ t)

theorem translate_translated (s : State) (u va : Nat) (use : Use) : Translated s (s.translate u va use).2 := by
  have h : Translated s (s.lookup u va).2 := (walk_translated u va ptLevels s.job.root s).trans rfl
  unfold State.translate
  generalize s.lookup u va = q at h
  obtain ⟨e, t⟩ := q
  cases e with
  | none => exact h
  | some e => dsimp only; split <;> exact h

theorem translate_state {s t : State} {u va : Nat} {use : Use} {x : Except W8 Nat} (e : s.translate u va use = (x, t)) :
    Translated s t := by
  have h := translate_translated s u va use
  rwa [e] at h

theorem vaKeys_translated (n : Nat) (s : State) (a : W64) : Translated s (vaKeys n s a).2 := by
  induction n generalizing s a with
  | zero => exact Translated.refl s
  | succ n ih =>
    rw [vaKeys]
    have h := translate_translated s 4 a.toNat .read
    split
    · exact Translated.refl s
    · generalize s.translate 4 a.toNat .read = q at h
      obtain ⟨e, t⟩ := q
      cases e with
      | error _ => exact h
      | ok k =>
        have h' := h.trans (ih t (a + 1))
        dsimp only
        generalize vaKeys n t (a + 1) = q at h'
        obtain ⟨_ | l, t'⟩ := q <;> exact h'

theorem vaRead_translated {s t : State} {a : W64} {n : Nat} {ecc : Bool} {b : Option (List W8)}
    (e : s.vaRead a n ecc = (b, t)) : Translated s t := by
  have h := vaKeys_translated n s a
  unfold State.vaRead at e
  generalize vaKeys n s a = q at h e
  obtain ⟨_ | l, t'⟩ := q <;> · obtain ⟨-, rfl⟩ := Prod.mk.inj e; exact h

theorem ringEntries_translated (b : List W8) (n m : Nat) (s : State) : Translated s (ringEntries b n m s).2 := by
  fun_induction ringEntries b n m s
  case case1 => exact Translated.refl _
  all_goals
    rename Option (Option RingEnt) × State => ent
    refine Translated.trans (t := ent.2) ?_ ?_
    · simp only [ent]
      repeat' split
      all_goals first
        | exact Translated.refl _
        | exact translate_state ‹_›
    · clear_value ent
      grind [Translated.refl]

/-! ### Folds that change each part once -/

/-- A fold whose step at k changes part k alone changes each part of its list once. -/
theorem foldl_part {α : Type} {f : State → Nat → State} {obs : State → Nat → α} {g : Nat → α → α}
    (hsame : ∀ t n, obs (f t n) n = g n (obs t n)) (hother : ∀ t n m, m ≠ n → obs (f t n) m = obs t m) (l : List Nat)
    (hl : l.Nodup) (s : State) (m : Nat) : obs (l.foldl f s) m = if m ∈ l then g m (obs s m) else obs s m := by
  induction l generalizing s with
  | nil => rfl
  | cons n l ih =>
    obtain ⟨hn, hl⟩ := List.nodup_cons.1 hl
    rw [List.foldl_cons, ih hl]
    by_cases hm : m = n
    · subst hm
      rw [if_neg hn, if_pos List.mem_cons_self, hsame]
    · simp only [hother _ _ _ hm, List.mem_cons, hm, false_or]

/-- What no step of a fold changes. -/
theorem foldl_keeps {α β γ : Type} {f : α → β → α} {obs : α → γ} (h : ∀ t x, obs (f t x) = obs t) (l : List β) (s : α) :
    obs (l.foldl f s) = obs s :=
  List.foldlRecOn (motive := fun t => obs t = obs s) l f rfl fun t ht x _ => (h t x).trans ht

theorem maskRows_nodup (d m : Nat) : (maskRows d m).Nodup :=
  (List.nodup_range.filter _).map fun _ _ h => by simpa using h

/-! ### PLACE -/

/-- A placement alone in the table, with nothing to wait for, enters its queues at once. -/
theorem pump_single {s : State} {p : Pl} (hp : s.job.pls = [p]) (hst : p.st = .waiting) (hdeps : p.deps = [])
    (hq : ∀ d ∈ p.dies, s.plq d p.pri = []) :
    s.pump.job.pls = [{ p with st := .queued }] ∧ s.pump.job.nextPl = s.job.nextPl ∧ (∀ n, s.pump.row n = s.row n) ∧
      s.pump.dev = s.dev := by
  have hmet : p.deps.all s.depMet = true := by simp [hdeps]
  have hw : s.wake = (s.setPl { p with st := .ready s.job.readySerial }).modJob
      (fun j => { j with readySerial := j.readySerial + 1 }) := by
    simp [State.wake, hp, hst, hmet]
  have hwp : s.wake.job.pls = [{ p with st := .ready s.job.readySerial }] := by
    rw [hw]; simp [State.setPl, State.modJob, hp]
  have hro : s.wake.readyOrder = [{ p with st := .ready s.job.readySerial }] := by
    simp [State.readyOrder, hwp, sortKey, insertKey]
  have hneed : (p.dies.map fun d => (d, p.pri)).all (fun q => !([] : List (Nat × Nat)).contains q &&
      decide ((s.wake.plq q.1 q.2).length < 64)) = true := by
    simp only [List.all_map, List.all_eq_true]
    intro d hd
    have : s.wake.plq d p.pri = [] := by rw [hw]; exact hq d hd
    simp [this]
  have hdies : Pl.dies { p with st := .ready s.job.readySerial } = p.dies := rfl
  have hpump : s.pump = (p.dies.map fun d => (d, p.pri)).foldl (fun s q => s.modDie q.1 (fun x =>
      { x with plq := tset [] x.plq q.2 (tget [] x.plq q.2 ++ [p.num]) })) (s.wake.setPl { p with st := .queued }) := by
    simp only [State.pump, State.enterQueues, hro, List.foldl_cons, List.foldl_nil, hdies, hneed, if_true]
  have keeps {γ : Type} (obs : State → γ) (ho : ∀ t d f, obs (State.modDie t d f) = obs t) :
      obs s.pump = obs (s.wake.setPl { p with st := .queued }) := by
    rw [hpump]
    exact foldl_keeps (fun (t : State) (q : Nat × Nat) => ho t q.1 _) _ _
  refine ⟨(keeps (fun t => t.job.pls) fun _ _ _ => rfl).trans ?_, (keeps (fun t => t.job.nextPl) fun _ _ _ => rfl).trans ?_,
    fun n => (keeps (fun t => t.row n) fun _ _ _ => rfl).trans ?_, (keeps State.dev fun _ _ _ => rfl).trans ?_⟩
  · simp [State.setPl, State.modJob, hwp]
  all_goals rw [hw]; rfl

section
variable {s s1 s2 s3 : State} {r : CmdRec} {b t1 l1 h : List W8} {n m : Bind}

theorem place_badRecord (hr : Runs s 0x20 r) (h : 2 ^ 32 ≤ s.job.nextPl ∨ r.w1.toNat % 64 ≠ 0) :
    RefusedWith (.place false) s 0x03 := by
  have he := (show exec (.place false) s = execPlace false s from rfl).trans (command_runs hr _)
  have hbad : (decide (2 ^ 32 ≤ s.job.nextPl) || r.w1 &&& 63 != 0) = true := by
    rcases h with h | h
    · simp only [h, decide_true, Bool.true_or]
    · simp only [bne_iff_ne.2 (mt (and_63 _).1 h), Bool.or_true]
  simp only [hbad, if_true] at he
  exact refusedWith he

theorem place_badRange (hr : Runs s 0x20 r) (ha : r.w1.toNat % 64 = 0) (hb : s.vaRead r.w1 64 false = (some b, s1))
    (hres : placeReserved b = false) (hrange : placeRange b = true) (hacc : s.dev.accepted.getLsbD 4 = true) :
    RefusedWith (.place false) s 0x03 := by
  have hdev := (vaRead_translated hb).dev
  by_cases hn : 2 ^ 32 ≤ s.job.nextPl
  · exact place_badRecord hr (.inl hn)
  · have he := (show exec (.place false) s = execPlace false s from rfl).trans (command_runs hr _)
    simp only [hn, (and_63 _).2 ha, hb, hdev, hacc, hres, hrange, decide_false, bne_self_eq_false, Bool.or_false, Bool.not_true,
      Bool.false_and, Bool.false_eq_true, if_false, if_true] at he
    exact refusedWith he

/-- A record and its tables in order: PLACE goes on to accept the placement that they name. -/
theorem place_accepts (hr : Runs s 0x20 r) (ha : r.w1.toNat % 64 = 0) (hb : s.vaRead r.w1 64 false = (some b, s1))
    (hres : placeReserved b = false) (hrange : placeRange b = false) (hacc : s.dev.accepted.getLsbD 4 = true)
    (hn : s.job.nextPl < 2 ^ 32) (hnorth : edgeOf (b.getD 24 0) = some n) (hsouth : edgeOf (b.getD 25 0) = some m)
    (hdeps : recNum b 28 2 = 0) (ht : s1.vaRead (recW b 32) (72 * recNum b 26 2) false = (some t1, s2))
    (hl : s2.vaRead (recW b 40) 0 false = (some l1, s3)) (hz : ∀ i, i < recNum b 26 2 → recNum t1 (72 * i + 1) 7 = 0) :
    exec (.place false) s = .next (s.answer (s3.accept (plOf s3 b t1 l1 n m))) := by
  have hdev := (vaRead_translated hb).dev
  have hz' : (List.range (recNum b 26 2)).any (fun i => decide (recNum t1 (72 * i + 1) 7 ≠ 0)) = false := by
    simpa using hz
  have he := (show exec (.place false) s = execPlace false s from rfl).trans (command_runs hr _)
  simp only [not_le.2 hn, (and_63 _).2 ha, hb, hdev, hacc, hres, hrange, hnorth, hsouth, hdeps, ht, Nat.mul_zero, hl, hz',
    List.range_zero, List.any_nil, decide_false, bne_self_eq_false, Bool.or_false, Bool.not_true,
    Bool.false_and, Bool.false_eq_true, if_false] at he
  exact he

theorem accept_groupsBad {p : Pl} (h : groupsBad p.groups p.rows = true) : s.accept p = .refuse 0x04 := if_pos h

/-- The one placement of a job, without dependencies, is accepted and stands in its queues. -/
theorem accept_first {p : Pl} (hg : groupsBad p.groups p.rows = false) (hnorth : s.edgeBad p true = false)
    (hsouth : s.edgeBad p false = false) (htwo : p.twoLinks = false) (hpls : s.job.pls = []) (hdeps : p.deps = [])
    (hst : p.st = .waiting) (hq : ∀ d ∈ p.dies, s.plq d p.pri = []) :
    ∃ t, s.accept p = .done (BitVec.ofNat 64 p.num) t ∧ t.job.nextPl = s.job.nextPl + 1 ∧ t.job.pls = [{ p with st := .queued }] ∧
      (∀ k, t.row k = s.row k) ∧ t.dev = s.dev := by
  obtain ⟨hp, hnext, hrow, hdev⟩ := pump_single (p := p)
    (s := s.modJob (fun j => { j with pls := j.pls ++ [p], nextPl := j.nextPl + 1 })) (by simp [State.modJob, hpls]) hst hdeps hq
  have hroom : p.dies.any (fun d => decide (64 ≤ (s.plq d p.pri).length)) = false := by
    simp only [List.any_eq_false, decide_eq_true_eq]
    intro d hd
    simp [hq d hd]
  have hout : ¬ 4096 < ([{ p with st := .queued }] : List Pl).countP Pl.outside := by simp [Pl.outside]
  refine ⟨_, ?_, hnext, hp, hrow, hdev⟩
  have hnone (q : Nat × Bool → Bool) : p.deps.any q = false := by rw [hdeps]; rfl
  simp only [State.accept, hg, hnorth, hsouth, htwo, hnone, hroom, Bool.and_false, Bool.or_false, Bool.false_eq_true, if_false]
  exact if_neg (by rw [hp]; exact hout)
end

/-! ### POOL_BIND and POOL_UNBIND -/

theorem domOf_pool {s : State} {rows : List Nat} {cls : Nat} (h : ∀ k ∈ rows, s.domClass (domOf k) = cls) :
    ((rows.map domOf).eraseDups).any (fun m => s.domClass m != cls && !s.domIdle m) = false := by
  simp only [List.any_eq_false, Bool.and_eq_true, bne_iff_ne, not_and]
  intro m hm hne
  obtain ⟨k, hk, rfl⟩ := List.mem_map.1 (List.mem_eraseDups.1 hm)
  exact absurd (h k hk) hne

/-- The row as POOL_BIND leaves it. -/
def Row.pooled (d cls weight : Nat) (r : Row) : Row :=
  { r with pool := some d, unbind := false, resident := []
           csr := { r.csr with pclass := BitVec.ofNat 2 cls, pweight := BitVec.ofNat 4 weight } }

/-- A pool record that configures no queue of a die whose queues are configured. -/
structure JoinsPool (s : State) (r : CmdRec) (b : List W8) : Prop where
  runs : Runs s 0x21 r
  aligned : r.w1.toNat % 64 = 0
  read : s.paRead r.w1 64 false = some b
  zeros : poolReserved b = false
  weight : 0 < recNum b 18 1
  sizes : ∀ q, q < 4 → (poolQueue b q).1 = 0
  bases : ∀ q, q < 4 → (poolQueue b q).2.getLsbD 55 = false
  queues : (s.die (recNum b 16 1)).queues ≠ []

theorem poolReserved_fields {b : List W8} (h : poolReserved b = false) :
    recNum b 16 1 % 4 = recNum b 16 1 ∧ recNum b 17 1 % 4 = recNum b 17 1 ∧ recNum b 18 1 % 16 = recNum b 18 1 := by
  simp only [poolReserved, Bool.or_eq_false_iff, decide_eq_false_iff_not] at h
  omega

/-- The rows named have joined the die's pool. -/
def State.joinPool (s : State) (d cls weight : Nat) (rows : List Nat) : State :=
  rows.foldl (fun s n => s.modRow n (Row.pooled d cls weight))
    ((rows.map domOf).eraseDups.foldl (fun s m => s.modDom m (fun x => { x with cls := cls, reassign := none })) s)

theorem joinPool_row (s : State) (d cls weight e m i : Nat) : (s.joinPool d cls weight (maskRows e m)).row i =
    if i ∈ maskRows e m then (s.row i).pooled d cls weight else s.row i := by
  refine (foldl_part (obs := State.row) (g := fun _ => Row.pooled d cls weight) (fun t n => modRow_row_same ..)
    (fun t n k hk => modRow_row_ne _ _ hk) _ (maskRows_nodup e m) _ i).trans ?_
  rw [foldl_keeps (obs := fun t : State => t.row i) (f := fun (s : State) m => s.modDom m fun x =>
    { x with cls := cls, reassign := none }) fun _ _ => rfl]

theorem joinPool_dev (s : State) (d cls weight : Nat) (rows : List Nat) : (s.joinPool d cls weight rows).dev = s.dev :=
  (foldl_keeps (f := fun (s : State) n => s.modRow n (Row.pooled d cls weight)) (obs := State.dev) (fun _ _ => rfl) _ _).trans
    (foldl_keeps (f := fun (s : State) m => s.modDom m fun x => { x with cls := cls, reassign := none }) (obs := State.dev)
      (fun _ _ => rfl) _ _)

section
variable {s : State} {r : CmdRec} {b : List W8} (h : JoinsPool s r b)
include h

/-- What is left to test: that the rows are free, and their domains of the pool's class or idle. -/
theorem JoinsPool.tests : exec (.poolBind false) s = .next (s.answer (
    let rows := maskRows (recNum b 16 1) (recNum b 0 16)
    if rows.any (fun n => !s.rowFree n) then .refuse 0x02
    else if (rows.map domOf).eraseDups.any (fun m => s.domClass m != recNum b 17 1 && !s.domIdle m) then .refuse 0x0B
    else .done (BitVec.ofNat 64 (recNum b 16 1 + 1))
      (if rows.isEmpty then s.joinPool (recNum b 16 1) (recNum b 17 1) (recNum b 18 1) rows
        else (s.joinPool (recNum b 16 1) (recNum b 17 1) (recNum b 18 1) rows).modJob
          (fun j => { j with poolPar := tset 0 j.poolPar (recNum b 16 1) (recW b 24) })))) := by
  have he := (show exec (.poolBind false) s = execPoolBind false s from rfl).trans (command_runs h.runs _)
  obtain ⟨hd, hc, hw⟩ := poolReserved_fields h.zeros
  have hq : (s.die (recNum b 16 1)).queues.isEmpty = false := by simpa using h.queues
  have hweight : recNum b 18 1 ≠ 0 := h.weight.ne'
  simp only [(and_63 _).2 h.aligned, h.read, h.zeros, hd, hc, hw, hq, hweight, List.map_cons, List.map_nil, List.any_cons, List.any_nil,
    List.foldl_cons, List.foldl_nil, h.sizes 0 (by decide), h.sizes 1 (by decide), h.sizes 2 (by decide), h.sizes 3 (by decide),
    h.bases 0 (by decide), h.bases 1 (by decide), h.bases 2 (by decide), h.bases 3 (by decide), ne_eq, not_true_eq_false,
    decide_false, Bool.false_and, Bool.or_self, bne_self_eq_false, Bool.false_eq_true, if_false, if_true] at he
  exact he

theorem JoinsPool.rowTaken (hrow : ∃ k ∈ maskRows (recNum b 16 1) (recNum b 0 16), s.rowFree k = false) :
    RefusedWith (.poolBind false) s 0x02 := by
  refine refusedWith (h.tests.trans ?_)
  dsimp only
  rw [if_pos (by simpa using hrow)]

theorem JoinsPool.binds (i : Nat) (hrow : ∀ k ∈ maskRows (recNum b 16 1) (recNum b 0 16),
      s.rowFree k = true ∧ s.domClass (domOf k) = recNum b 17 1) :
    DoneWith (.poolBind false) s (BitVec.ofNat 64 (recNum b 16 1 + 1)) (fun t => t.row i =
      if i ∈ maskRows (recNum b 16 1) (recNum b 0 16) then (s.row i).pooled (recNum b 16 1) (recNum b 17 1) (recNum b 18 1)
      else s.row i) := by
  have hfree : (maskRows (recNum b 16 1) (recNum b 0 16)).any (fun n => !s.rowFree n) = false := by
    simpa using fun k hk => (hrow k hk).1
  have he := h.tests
  simp only [hfree, domOf_pool fun k hk => (hrow k hk).2, Bool.false_eq_true, if_false] at he
  have hdev := joinPool_dev s (recNum b 16 1) (recNum b 17 1) (recNum b 18 1) (maskRows (recNum b 16 1) (recNum b 0 16))
  split at he <;>
    exact doneWith he (congrArg Dev.cmdHead hdev) (congrArg Dev.cmdTail hdev) (joinPool_row ..)
end

/-- The row as POOL_UNBIND leaves it. -/
def Row.unpooled (r : Row) : Row :=
  if r.pool.isNone then r
  else if r.life == .idle then { r with pool := none, unbind := false, csr := { r.csr with taskpool := 0 } }
  else { r with unbind := true }

/-- One row of POOL_UNBIND. -/
def State.unbindRow (s : State) (n : Nat) : State :=
  if (s.row n).pool.isNone then s
  else if (s.row n).life == .idle then
    (s.freeOwned n).modRow n (fun r => { r with pool := none, unbind := false, csr := { r.csr with taskpool := 0 } })
  else s.modRow n (fun r => { r with unbind := true })

theorem unbindRow_same (s : State) (n : Nat) : (s.unbindRow n).row n = (s.row n).unpooled := by
  unfold State.unbindRow Row.unpooled
  split
  · rfl
  · split <;> exact modRow_row_same ..

theorem unbindRow_ne (s : State) {n m : Nat} (h : m ≠ n) : (s.unbindRow n).row m = s.row m := by
  unfold State.unbindRow
  split
  · rfl
  · split <;> exact modRow_row_ne _ _ h

theorem unbindRow_dev (s : State) (n : Nat) : (s.unbindRow n).dev = s.dev := by
  unfold State.unbindRow
  split
  · rfl
  · split <;> rfl

theorem poolUnbind_done {s : State} {r : CmdRec} (hr : Runs s 0x22 r) (i : Nat) : DoneWith .poolUnbind s 0 (fun t => t.row i =
    if i ∈ maskRows r.w1.toNat (r.w2.toNat + 2 ^ 64 * r.w3.toNat) then (s.row i).unpooled else s.row i) := by
  have he := (show exec .poolUnbind s = execPoolUnbind s from rfl).trans (command_runs hr _)
  have hdev := foldl_keeps (obs := State.dev) unbindRow_dev (maskRows r.w1.toNat (r.w2.toNat + 2 ^ 64 * r.w3.toNat)) s
  exact doneWith he (congrArg Dev.cmdHead hdev) (congrArg Dev.cmdTail hdev)
    (foldl_part (obs := State.row) (g := fun _ => Row.unpooled) unbindRow_same (fun t _ _ h => unbindRow_ne t h) _ (maskRows_nodup ..) s i)

/-! ### RING_LOAD -/

section
variable {s s1 s2 : State} {r : CmdRec} {b : List W8} {es : List RingEnt} (hr : Runs s 0x40 r) (ha : r.w1.toNat % 16 = 0)
  (h0 : 0 < r.w2.toNat) (hmax : r.w2.toNat ≤ 1048576) (hb : s.vaRead r.w1 (16 * r.w2.toNat) false = (some b, s1))
include hr ha h0 hmax hb

theorem ringLoad_loads (he : ringEntries b r.w2.toNat r.w2.toNat s1 = (some es, s2)) (hne : es ≠ []) :
    DoneWith (.ringLoad false) s (BitVec.ofNat 64 (ringT es)) (fun t => t.job.ring = { s2.job.ring with next := some es }) := by
  have hx := (show exec (.ringLoad false) s = execRingLoad false s from rfl).trans (command_runs hr _)
  have hemp : es.isEmpty = false := by simpa using hne
  simp only [(and_15 _).2 ha, h0.ne', not_lt.2 hmax, hb, he, hemp, bne_self_eq_false, decide_false, Bool.or_self, Bool.false_and,
    Bool.false_eq_true, if_false] at hx
  have ht := ringEntries_translated b r.w2.toNat r.w2.toNat s1
  rw [he] at ht
  have hdev := ((vaRead_translated hb).trans ht).dev
  exact doneWith hx (congrArg Dev.cmdHead hdev) (congrArg Dev.cmdTail hdev) rfl

theorem ringLoad_badTable (he : ringEntries b r.w2.toNat r.w2.toNat s1 = (none, s2)) : RefusedWith (.ringLoad false) s 0x09 := by
  have hx := (show exec (.ringLoad false) s = execRingLoad false s from rfl).trans (command_runs hr _)
  simp only [(and_15 _).2 ha, h0.ne', not_lt.2 hmax, hb, he, bne_self_eq_false, decide_false, Bool.or_self, Bool.false_and,
    Bool.false_eq_true, if_false] at hx
  exact refusedWith hx
end

/-! ### LINK_UP -/

/-- A port that was the chain's end is not any longer, where another becomes it. -/
def Port.unchained (e : Nat) (x : Port) : Port := if e ≠ 0 && x.chainEnd = e then { x with chainEnd := 0 } else x
def State.unchain (s : State) (e q : Nat) : State :=
  if e ≠ 0 && (s.port q).chainEnd = e then s.setPort q { s.port q with chainEnd := 0 } else s

theorem unchained_ne {e : Nat} (he : e ≠ 0) (x : Port) : (x.unchained e).chainEnd ≠ e := by
  unfold Port.unchained
  split
  · exact he.symm
  · next h => exact fun hc => h (by simp [he, hc])

theorem setPort_port_same (s : State) (p : Nat) (x : Port) : (s.setPort p x).port p = x := tget_tset_same ..
theorem setPort_port_ne (s : State) {p q : Nat} (x : Port) (h : q ≠ p) : (s.setPort p x).port q = s.port q := tget_tset_ne _ _ _ h

theorem unchain_same (s : State) (e q : Nat) : (s.unchain e q).port q = (s.port q).unchained e := by
  unfold State.unchain Port.unchained
  split
  · exact setPort_port_same ..
  · rfl

theorem unchain_ne (s : State) (e : Nat) {q p : Nat} (h : p ≠ q) : (s.unchain e q).port p = s.port p := by
  unfold State.unchain
  split
  · exact setPort_port_ne _ _ h
  · rfl

theorem unchain_keeps {γ : Type} {obs : State → γ} (h : ∀ t p x, obs (State.setPort t p x) = obs t) (e : Nat) (l : List Nat) (s : State) :
    obs (l.foldl (fun s q => s.unchain e q) s) = obs s := by
  refine foldl_keeps (fun t q => ?_) l s
  unfold State.unchain
  split
  · exact h ..
  · rfl

/-- A port just trained, with each end's buffers advertised. -/
def Port.trained (id : BitVec 17) (lat : W32) (e : Nat) : Port :=
  { Port.reset with
    up := true, peer := id, latency := lat, chainEnd := e
    credit := tabulate 0 4 (Config.linkBuffers false), room := tabulate 0 4 (Config.linkBuffers true) }

section
variable {s : State} {r : CmdRec} (hr : Runs s 0x50 r)
include hr

theorem linkUp_badEnd (h : 2 < r.w2.toNat) : RefusedWith .linkUp s 0x03 := by
  have hx := (show exec .linkUp s = execLinkUp s from rfl).trans (command_runs hr _)
  simp only [h, if_true] at hx
  exact refusedWith hx

theorem linkUp_noPeer (h : r.w2.toNat ≤ 2) (hw : s.dev.wired.getLsbD r.w1.toNat = false) : RefusedWith .linkUp s 0x0A := by
  have hx := (show exec .linkUp s = execLinkUp s from rfl).trans (command_runs hr _)
  simp only [not_lt.2 h, hw, Bool.not_false, if_true, if_false] at hx
  exact refusedWith hx

theorem linkUp_trains (h : r.w2.toNat ≤ 2) (hw : s.dev.wired.getLsbD r.w1.toNat = true) : ∃ z id lat, DoneWith .linkUp s z (fun t =>
    t.port r.w1.toNat = Port.trained id lat r.w2.toNat ∧
      (∀ i, i ≠ r.w1.toNat → i < 16 → t.port i = (s.port i).unchained r.w2.toNat) ∧ t.job = s.job) := by
  have hx := (show exec .linkUp s = execLinkUp s from rfl).trans (command_runs hr _)
  simp only [not_lt.2 h, hw, Bool.not_true, Bool.false_eq_true, if_false] at hx
  generalize Config.linkProbe s.drawn r.w1.toNat = q at hx
  obtain ⟨id, lat⟩ := q
  have hhead := unchain_keeps (obs := fun t => t.dev.cmdHead) (fun _ _ _ => rfl) r.w2.toNat (List.range 16) s
  have htail := unchain_keeps (obs := fun t => t.dev.cmdTail) (fun _ _ _ => rfl) r.w2.toNat (List.range 16) s
  have hjob := unchain_keeps (obs := State.job) (fun _ _ _ => rfl) r.w2.toNat (List.range 16) s
  have hport := foldl_part (obs := State.port) (g := fun _ => Port.unchained r.w2.toNat)
    (fun t n => unchain_same t r.w2.toNat n) (fun t n m hm => unchain_ne t r.w2.toNat hm) (List.range 16) List.nodup_range s
  change exec .linkUp s = .next (s.answer (.done _ ((((List.range 16).foldl (fun s q => s.unchain r.w2.toNat q) s).setPort
    r.w1.toNat (.trained id lat r.w2.toNat)).draw))) at hx
  generalize (List.range 16).foldl (fun s q => s.unchain r.w2.toNat q) s = u at hx hhead htail hjob hport
  refine ⟨_, id, lat, doneWith hx hhead htail ⟨setPort_port_same u r.w1.toNat (.trained id lat r.w2.toNat), fun i hi hlt => ?_, hjob⟩⟩
  exact (setPort_port_ne u (.trained id lat r.w2.toNat) hi).trans ((hport i).trans (if_pos (List.mem_range.2 hlt)))
end

/-! ### COMM_LOAD -/

section
variable {s : State} {r : CmdRec} {b h : List W8} (hr : Runs s 0x51 r) (hc : r.w1.toNat ≤ 63) (ha : r.w2.toNat % 8 = 0)
  (hh : s.paRead r.w2 32 false = some h) (hsize : recNum h 0 8 < 2 ^ 18) (hrank : recNum h 8 8 < 2 ^ 17) (hlow : 2 ≤ recNum h 0 4)
  (hhigh : recNum h 0 4 ≤ 131072) (hmore : recNum h 24 8 ≤ 4096) (hin : recNum h 8 8 < recNum h 0 4) (hz : recNum h 20 4 = 0)
  (hb : s.paRead r.w2 ((32 + 4 * recNum h 0 4 + 7) / 8 * 8 + 8 * recNum h 24 8) false = some b)
include hr hc ha hh hsize hrank hlow hhigh hmore hin hz hb

/-- A table that reads in order gives a communicator, or its reason. -/
theorem commLoad_tests : exec (.commLoad false) s = .next (s.answer (match commOf s b with
    | .error k => .refuse k
    | .ok c => .done 0 (s.modJob (fun j => { j with comms := tset .reset j.comms r.w1.toNat c })))) := by
  have hx := (show exec (.commLoad false) s = execCommLoad false s from rfl).trans (command_runs hr _)
  simp only [not_lt.2 hc, (and_7 _).2 ha, hh, not_le.2 hsize, not_le.2 hrank, not_lt.2 hlow, not_lt.2 hhigh, not_lt.2 hmore,
    not_le.2 hin, hz, hb, ne_eq, not_true_eq_false, bne_self_eq_false, decide_false, Bool.or_self, Bool.false_eq_true, if_false] at hx
  exact hx.trans (by cases commOf s b <;> rfl)

theorem commLoad_loads {c : Comm} (he : commOf s b = .ok c) : DoneWith (.commLoad false) s 0 (fun t => t.comm r.w1.toNat = c ∧
    ∀ k, k ≠ r.w1.toNat → t.comm k = s.comm k) := by
  have hx := commLoad_tests hr hc ha hh hsize hrank hlow hhigh hmore hin hz hb
  rw [he] at hx
  exact doneWith hx rfl rfl ⟨tget_tset_same .., fun k hk => tget_tset_ne _ _ _ hk⟩

theorem commLoad_badTable {k : Nat} (he : commOf s b = .error k) : RefusedWith (.commLoad false) s k := by
  have hx := commLoad_tests hr hc ha hh hsize hrank hlow hhigh hmore hin hz hb
  rw [he] at hx
  exact refusedWith hx
end

/-- Settles O60, each command from the tests that its record passes and what its last step leaves. -/
theorem workCommands : Obligations.WorkCommands := by
  intro s s1 s2 s3 r b t1 l1 h n m es c i
  refine ⟨place_badRecord, fun hr ha hb => ⟨place_badRange hr ha hb, fun hres hrange hacc hn hnorth hsouth hdeps ht hl hz => ?_⟩,
    fun hr ha hb hres hw hk h55 hq => ?_, fun hr => ?_, fun hr ha h0 hmax hb => ⟨ringLoad_loads hr ha h0 hmax hb,
      ringLoad_badTable hr ha h0 hmax hb⟩, fun hr => ⟨linkUp_noPeer hr, fun he hw => ?_, linkUp_badEnd hr⟩,
    fun hr hc ha hh h1 h2 h3 h4 h5 h6 h7 hb => ⟨commLoad_loads hr hc ha hh h1 h2 h3 h4 h5 h6 h7 hb,
      fun k => commLoad_badTable hr hc ha hh h1 h2 h3 h4 h5 h6 h7 hb⟩⟩
  · have hx := place_accepts hr ha hb hres hrange hacc hn hnorth hsouth hdeps ht hl hz
    have hsame := ((vaRead_translated hb).trans (vaRead_translated ht)).trans (vaRead_translated hl)
    refine ⟨fun hbad => refusedWith (hx.trans (by rw [accept_groupsBad hbad])), fun hg hno hso htwo hpls hq => ?_⟩
    obtain ⟨t, hacc, hnext, hp, hrow, hdev⟩ := accept_first hg hno hso htwo (hsame.pls.trans hpls)
      (show (plOf s3 b t1 l1 n m).deps = [] by simp [plOf, hdeps]) rfl hq
    rw [hacc, show (plOf s3 b t1 l1 n m).num = s.job.nextPl from hsame.nextPl] at hx
    have hd := hdev.trans hsame.dev
    exact doneWith hx (congrArg Dev.cmdHead hd) (congrArg Dev.cmdTail hd)
      ⟨hnext.trans (congrArg (· + 1) hsame.nextPl), ⟨_, hp, rfl⟩, fun k => (hrow k).trans (hsame.row k)⟩
  · have h : JoinsPool s r b := ⟨hr, ha, hb, hres, hw, hk, h55, hq⟩
    refine ⟨h.rowTaken, fun hrow => ?_⟩
    obtain ⟨t, hx, hans, ht⟩ := h.binds i hrow
    refine ⟨t, hx, hans, fun hi => ?_, fun hi => ht.trans (if_neg hi)⟩
    rw [ht, if_pos hi]
    exact ⟨rfl, rfl, rfl⟩
  · obtain ⟨t, hx, hans, ht⟩ := poolUnbind_done hr i
    refine ⟨t, hx, hans, fun hi hp hl => ?_, fun hi hp hl => ?_, fun hi => ?_⟩
    · rw [ht, if_pos hi]
      simp [Row.unpooled, hp, hl]
    · rw [ht, if_pos hi]
      simp [Row.unpooled, hp, hl]
    · rw [ht]
      split
      · next hin => simp [Row.unpooled, hi.resolve_left (not_not.2 hin)]
      · rfl
  · obtain ⟨z, id, lat, t, hx, hans, hp, hother, hj⟩ := linkUp_trains hr he hw
    refine ⟨z, t, hx, hans, ?_⟩
    beta_reduce
    rw [hp]
    refine ⟨rfl, rfl, rfl, rfl, fun hi => ⟨tget_tabulate _ _ hi, tget_tabulate _ _ hi⟩, fun hi hlt hne => ?_, hj⟩
    rw [hother i hi hlt]
    exact unchained_ne (fun h0 => hne (BitVec.eq_of_toNat_eq h0)) _

end Sys2Proof.Machine
end

section
/-! SUPPORT. The commands on a job as a whole (R407, R408, R348, R353): a new job, the end of one, the halt over, and a job run on. -/

namespace Sys2Proof.Machine

/-! ### Tables -/

theorem tget_map {α β : Type} {d : α} {d' : β} (f : Nat → α → β) (t : Tbl α) (k : Nat) (h : f k d = d') :
    tget d' (t.map (fun e => (e.1, f e.1 e.2))) k = f k (tget d t k) := by
  induction t with
  | nil => exact h.symm
  | cons e t ih =>
    simp only [List.map_cons, tget]
    split
    · next hk => rw [hk]
    · exact ih

theorem tget_filter {α : Type} (d : α) (p : Nat → Bool) (t : Tbl α) (k : Nat) :
    tget d (t.filter (fun e => p e.1)) k = if p k then tget d t k else d := by
  induction t with
  | nil => simp [tget]
  | cons e t ih =>
    by_cases hk : k = e.1
    · subst hk
      cases hp : p e.1
      · simpa [hp] using ih
      · simp [hp, tget]
    · cases hp : p e.1 <;> simp [hp, tget, hk, ih]

/-! ### Bytes of a job -/

theorem Job.byte_filter {j k : Job} (a : Nat) (hm : k.mem = j.mem.filter (fun e => e.1 < sideBase)) (he : k.era = j.era) :
    k.byte a = if a < sideBase then j.byte a else 0 := by
  unfold Job.byte Job.unwritten
  rw [hm, he, tget_filter (p := fun x => decide (x < sideBase))]
  by_cases ha : a < sideBase
  · simp only [ha, decide_true, if_true]
  · simp [ha, Nat.le_of_not_lt ha]

theorem Job.byte_side {j : Job} {a : Nat} (hm : j.mem = []) (ha : sideBase ≤ a) : j.byte a = 0 := by
  simp [Job.byte, Job.unwritten, hm, ha]

/-! ### JOB_OPEN -/

/-- The job that JOB_OPEN begins, before its hamper region is pinned. -/
def State.opening (s : State) (r : CmdRec) : State :=
  s.modJob (fun _ => { s.blankJob (s.job.mem.filter (fun e => e.1 < sideBase)) with
    root := r.w1.toNat, tvec := r.w2.setWidth 56, hamper := r.w4.setWidth 56, tier := r.w3 })

theorem opening_byte (s : State) (r : CmdRec) (a : Nat) : (s.opening r).byte a = if a < sideBase then s.byte a else 0 :=
  Job.byte_filter (j := s.job) (k := (s.opening r).job) a rfl rfl

section
variable {s : State} {r : CmdRec} {pins : Tbl Nat} (hr : Runs s 0x10 r)
include hr

theorem jobOpen_misaligned (h : r.w1.toNat % 1024 ≠ 0 ∨ r.w2.toNat % 8 ≠ 0 ∨ r.w4.toNat % 2 ^ 27 ≠ 0) :
    RefusedWith .jobOpen s 0x03 := by
  have hx := (show exec .jobOpen s = execJobOpen s from rfl).trans (command_runs hr _)
  have hbad : (r.w1 &&& 0x3FF != 0 || r.w2 &&& 7 != 0 || r.w4 &&& 0x7FFFFFF != 0) = true := by
    simpa only [Bool.or_eq_true, bne_iff_ne, ne_eq, and_1023, and_7, and_27bits, or_assoc] using h
  simp only [hbad, if_true] at hx
  exact refusedWith hx

variable (h1 : r.w1.toNat % 1024 = 0) (h2 : r.w2.toNat % 8 = 0) (h4 : r.w4.toNat % 2 ^ 27 = 0)
include h1 h2 h4

theorem jobOpen_unreadable (h : 2 ^ 39 ≤ r.w1.toNat ∨ s.dev.readBad = true) : RefusedWith .jobOpen s 0x0F := by
  have hx := (show exec .jobOpen s = execJobOpen s from rfl).trans (command_runs hr _)
  have hbad : (decide (2 ^ 39 ≤ r.w1.toNat) || s.dev.readBad) = true := by
    simpa only [Bool.or_eq_true, decide_eq_true_eq] using h
  simp only [(and_1023 _).2 h1, (and_7 _).2 h2, (and_27bits _).2 h4, bne_self_eq_false, Bool.or_self, Bool.false_eq_true, if_false,
    hbad, if_true] at hx
  exact refusedWith hx

/-- JOB_OPEN with its hamper region mapped: what holds of the new job, whatever its pinned pages, and of the device. -/
theorem jobOpen_opens (h55 : r.w4.getLsbD 55 = false) (hlow : r.w1.toNat < 2 ^ 39) (hbad : s.dev.readBad = false)
    (hp : pinPages (s.opening r) r.w4.toNat 2048 = some pins) {p : State → Prop}
    (h : ∀ t : State, t.job = { (s.opening r).job with pinned := pins.filter (fun e => e.2 ≠ 0) } → t.dev.jobSt = .opened →
      t.dev.jobKey = Config.randomKey s.drawn → p t) : DoneWith .jobOpen s 0 p := by
  have hx := (show exec .jobOpen s = execJobOpen s from rfl).trans (command_runs hr _)
  unfold State.opening at hp
  simp only [(and_1023 _).2 h1, (and_7 _).2 h2, (and_27bits _).2 h4, bne_self_eq_false, Bool.or_self, Bool.false_eq_true, if_false,
    not_le.2 hlow, hbad, decide_false, h55, hp] at hx
  exact doneWith hx rfl rfl (h _ rfl rfl rfl)
end

/-! ### JOB_CLOSE -/

theorem haltDie_keeps {γ : Type} {obs : State → γ} (hd : ∀ t d x, obs (State.setDie t d x) = obs t)
    (hm : ∀ t d x, obs (State.setDom t d x) = obs t) (s : State) (d : Nat) : obs (s.haltDie d) = obs s := by
  unfold State.haltDie
  split
  · rfl
  · exact (foldl_keeps (fun (t : State) i => hm t _ _) _ _).trans (hd ..)

theorem haltDie_die (s : State) (d m : Nat) : ((s.haltDie d).die m).halted = if m = d then true else (s.die m).halted := by
  unfold State.haltDie
  split
  · next h =>
    split
    · next hm => rw [hm, h]
    · rfl
  · have h := foldl_keeps (f := fun (t : State) i => t.modDom (4 * d + i) (fun x => { x with haltAt := x.clk }))
      (obs := fun t => t.die m) (fun _ _ => rfl) (List.range 4) (s.modDie d (fun y => { y with halted := true, haltAt := y.clk }))
    refine (congrArg Die.halted h).trans ?_
    rw [State.modDie, setDie_die]
    split <;> rfl

theorem haltAll_halted (s : State) {d : Nat} (hd : d < 4) : (s.haltAll.die d).halted = true := by
  have hin : d ∈ ([0, 1, 2, 3] : List Nat) := by simp; omega
  have h := foldl_part (f := State.haltDie) (obs := fun t d => (t.die d).halted) (g := fun _ _ => true)
    (fun t n => by simp [haltDie_die]) (fun t n m hm => by simp [haltDie_die, hm]) [0, 1, 2, 3] (by decide) s d
  exact h.trans (if_pos hin)

theorem haltAll_keeps {γ : Type} {obs : State → γ} (hd : ∀ t d x, obs (State.setDie t d x) = obs t)
    (hm : ∀ t d x, obs (State.setDom t d x) = obs t) (s : State) : obs s.haltAll = obs s :=
  foldl_keeps (fun t d => haltDie_keeps hd hm t d) _ s

theorem jobClose_halts {s : State} {r : CmdRec} (hr : Runs s 0x11 r) (h : s.dev.jobSt ≠ .closing) :
    ∃ t, exec .jobClose s = .next t ∧ t.dev.jobSt = .closing ∧ (∀ d, d < 4 → (t.die d).halted = true) ∧
      t.dev.cmdHead = s.dev.cmdHead ∧ ∀ m, t.row m = s.row m := by
  have hx := (show exec .jobClose s = execJobClose s from rfl).trans (command_runs hr _)
  simp only [bne_iff_ne.2 h, if_true] at hx
  have hhalt (d : Nat) (hd : d < 4) := haltAll_halted s hd
  have hdev := haltAll_keeps (obs := State.dev) (fun _ _ _ => rfl) (fun _ _ _ => rfl) s
  have hrow (m : Nat) := haltAll_keeps (obs := fun t => t.row m) (fun _ _ _ => rfl) (fun _ _ _ => rfl) s
  generalize s.haltAll = u at hx hhalt hdev hrow
  exact ⟨_, hx, rfl, hhalt, (congrArg Dev.cmdHead hdev :), hrow⟩

/-- `t` is `s` but for the ports and what an earlier link of row 0 has left. -/
def Unlinked (s t : State) : Prop :=
  t = { s with job := { s.job with chainOld := t.job.chainOld }, dev := { s.dev with ports := t.dev.ports } }

theorem Unlinked.trans {s t u : State} (h : Unlinked s t) (k : Unlinked t u) : Unlinked s u := by
  unfold Unlinked at *
  rw [k, h]

theorem dropChain_unlinked (s : State) (n : Nat) : Unlinked s (s.dropChain n) := by
  unfold State.dropChain
  split
  · next h => simp only [State.emptyChain, h]; rfl
  · rfl

theorem endChains_unlinked (s : State) : Unlinked s s.endChains :=
  Unlinked.trans (List.foldlRecOn (motive := Unlinked s) s.job.rows _ (show Unlinked s s from rfl) fun t ht e _ => ht.trans (dropChain_unlinked t e.1)) rfl

theorem rekey_of_same {s : State} {k : BitVec 512} (h : s.dev.jobKey = k) :
    s.rekey k = (s.modJob (fun j => { j with mem := j.mem.filter (fun e => e.1 < sideBase) })).modDev (fun d => { d with jobKey := k }) := by
  unfold State.rekey
  rw [if_pos h]

theorem rekey_of_other {s : State} {k : BitVec 512} (h : s.dev.jobKey ≠ k) :
    s.rekey k = ((s.modJob (fun j => { j with mem := [], era := s.drawn + 1 })).draw).modDev (fun d => { d with jobKey := k }) := by
  unfold State.rekey
  rw [if_neg h]

theorem rekey_byte_of_same {s : State} {k : BitVec 512} (h : s.dev.jobKey = k) (a : Nat) :
    (s.rekey k).byte a = if a < sideBase then s.byte a else 0 :=
  have hm : (s.rekey k).job.mem = s.job.mem.filter (fun e => e.1 < sideBase) := by rw [rekey_of_same h]; rfl
  have he : (s.rekey k).job.era = s.job.era := by rw [rekey_of_same h]; rfl
  Job.byte_filter a hm he

theorem rekey_byte_side (s : State) (k : BitVec 512) {a : Nat} (ha : sideBase ≤ a) : (s.rekey k).byte a = 0 := by
  by_cases h : s.dev.jobKey = k
  · exact (rekey_byte_of_same h a).trans (if_neg (not_lt.2 ha))
  · rw [rekey_of_other h]
    exact Job.byte_side rfl ha

theorem rekey_key (s : State) (k : BitVec 512) : (s.rekey k).dev = { s.dev with jobKey := k } := by
  unfold State.rekey
  split <;> rfl

/-- The job that JOB_CLOSE leaves. -/
def State.closed (s : State) : State :=
  let t := s.endChains.rekey 0
  (t.modJob (fun j => t.blankJob j.mem)).modDev (fun d => { d with
    jobSt := .none, ports := d.ports.map (fun e => (e.1, { e.2 with out := [] })) })

section
variable (s : State)

theorem closed_mem : s.closed.job.mem = (s.endChains.rekey 0).job.mem := rfl
theorem closed_era : s.closed.job.era = (s.endChains.rekey 0).job.era := rfl
theorem closed_byte (a : Nat) : s.closed.byte a = (s.endChains.rekey 0).byte a := rfl

theorem closed_key : s.closed.dev.jobKey = 0 := congrArg Dev.jobKey (rekey_key s.endChains 0)

theorem closed_out (d : Nat) : (s.closed.port d).out = [] :=
  congrArg Port.out (tget_map (d := Port.reset) (d' := Port.reset) (fun _ x => { x with out := [] }) (s.endChains.rekey 0).dev.ports d rfl)

theorem closed_rekeyed (h : s.dev.jobKey ≠ 0) : s.closed.job.mem = [] ∧ s.closed.job.era = s.drawn + 1 := by
  have hk : s.endChains.dev.jobKey ≠ 0 := by rwa [endChains_unlinked s]
  have hd : s.endChains.drawn = s.drawn := by rw [endChains_unlinked s]
  rw [closed_mem, closed_era, rekey_of_other hk, ← hd]
  exact ⟨rfl, rfl⟩

theorem closed_byte_kept (h : s.dev.jobKey = 0) {a : Nat} (ha : a < sideBase) : s.closed.byte a = s.byte a := by
  have hk : s.endChains.dev.jobKey = 0 := by rwa [endChains_unlinked s]
  rw [closed_byte, rekey_byte_of_same hk, if_pos ha, endChains_unlinked s]
  rfl

theorem closed_byte_side {a : Nat} (ha : sideBase ≤ a) : s.closed.byte a = 0 := rekey_byte_side s.endChains 0 ha
theorem closed_row (n : Nat) : s.closed.row n = .reset := rfl
theorem closed_pls : s.closed.job.pls = [] := rfl

theorem closed_ring : s.closed.dev.cmdHead = s.dev.cmdHead ∧ s.closed.dev.cmdTail = s.dev.cmdTail := by
  have h1 : s.closed.dev.cmdHead = (s.endChains.rekey 0).dev.cmdHead := rfl
  have h2 : s.closed.dev.cmdTail = (s.endChains.rekey 0).dev.cmdTail := rfl
  rw [h1, h2, rekey_key, endChains_unlinked s]
  exact ⟨rfl, rfl⟩
end

theorem jobClose_closes {s : State} {r : CmdRec} (hr : Runs s 0x11 r) (h : s.dev.jobSt = .closing) :
    DoneWith .jobClose s 0 (fun t => t.job = s.closed.job ∧ t.dev.jobSt = .none ∧ t.dev.jobKey = 0 ∧ ∀ d, (t.port d).out = []) := by
  have hx := (show exec .jobClose s = execJobClose s from rfl).trans (command_runs hr _)
  simp only [h, bne_self_eq_false, Bool.false_eq_true, if_false] at hx
  change exec .jobClose s = .next (s.answer (.done 0 s.closed)) at hx
  have hst : s.closed.dev.jobSt = .none := rfl
  have hring := closed_ring s
  have hkey := closed_key s
  have hout := closed_out s
  generalize s.closed = u at hx hst hring hkey hout ⊢
  exact doneWith hx hring.1 hring.2 ⟨rfl, hst, hkey, hout⟩

/-! ### PREEMPT at the head -/

section
variable {s : State} (hup : s.dev.phase = .up) (hne : s.dev.cmdHead ≠ s.dev.cmdTail)
  (hcode : cmdCode (s.dev.slot s.dev.cmdHead) = 0x30)
include hup hne hcode

theorem preempt_refused (h : 2 ≤ tget 0 s.dev.preAns s.dev.cmdHead) :
    RefusedWith .preempt s (tget 0 s.dev.preAns s.dev.cmdHead - 1) := by
  refine refusedWith ((show exec .preempt s = execPreempt s from rfl).trans ?_)
  simp [execPreempt, hup, hne, hcode, h, cmdMask]

variable (hone : tget 0 s.dev.preAns s.dev.cmdHead = 1)
include hone

theorem preempt_done (h : s.job.pre = .halted) {p : State → Prop} (hp : p (s.finish 0 0 0)) : DoneWith .preempt s 0 p := by
  have hf : s.finishHalt = s := finishHalt_of_ne (by rw [h]; decide)
  refine doneWith (u := s) ((show exec .preempt s = execPreempt s from rfl).trans ?_) rfl rfl hp
  simp [execPreempt, hup, hne, hcode, hone, cmdMask, hf, h]

theorem preempt_waits (h : s.job.pre = .asked) (hrest : s.atRest = false) : exec .preempt s = .next s := by
  refine (show exec .preempt s = execPreempt s from rfl).trans ?_
  simp [execPreempt, hup, hne, hcode, hone, cmdMask, finishHalt_of_busy hrest, h]
end

end Sys2Proof.Machine
end

section
/-! SUPPORT. RESUME (R353): a job run on, by what each of its steps leaves. -/

namespace Sys2Proof.Machine

section
variable {γ : Type} {obs : State → γ} (hrow : ∀ t n x, obs (State.setRow t n x) = obs t)
include hrow

theorem endMmac_keeps (hdie : ∀ t d x, obs (State.setDie t d x) = obs t) (s : State) (n q : Nat) : obs (s.endMmac n q) = obs s := by
  unfold State.endMmac
  split
  · dsimp only
    split
    · exact (hdie ..).trans (hrow ..)
    · exact (hrow ..).trans (hrow ..)
  · rfl

theorem endSpent_keeps (hdie : ∀ t d x, obs (State.setDie t d x) = obs t) (s : State) (n : Nat) : obs (s.endSpent n) = obs s := by
  unfold State.endSpent
  split
  · exact foldl_keeps (fun t q => endMmac_keeps hrow hdie t n q) _ s
  · rfl

theorem chainTake_keeps {s t : State} {l : List Cell} {k : Nat} (h : s.chainTake l = some (t, k)) : obs t = obs s := by
  revert h
  fun_cases State.chainTake s l <;> simp only [Option.some.injEq, Prod.mk.injEq, reduceCtorEq, false_imp_iff, and_imp] <;>
    rintro rfl -
  case case3 =>
    split
    · rfl
    · exact hrow ..
  case case8 => exact hrow ..
  all_goals rfl

theorem chainPast_keeps (hold : ∀ (t : State) (l : List Cell), obs (t.modJob fun j => { j with chainOld := l }) = obs t) (k : Nat) (s : State) :
    obs (State.chainPast k s) = obs s := by
  induction k generalizing s with
  | zero => rfl
  | succ k ih =>
    rw [State.chainPast]
    split
    · next t n ht => exact (ih _).trans ((hold ..).trans (chainTake_keeps hrow ht))
    · rfl

theorem chainBack_keeps (hold : ∀ (t : State) (l : List Cell), obs (t.modJob fun j => { j with chainOld := l }) = obs t) (s : State) :
    obs s.chainBack = obs s := by
  unfold State.chainBack
  split
  · rfl
  · exact chainPast_keeps hrow hold _ s
end

/-- Every row restored from its hamper, and the banks of the others reset. -/
def State.restoredRows (s : State) : State :=
  (List.range 512).foldl (fun t n => t.modRow n (fun r => if r.life == .idle then
    { r with deficit := 0, mat := .resumed (s.rowClk n), fp := .resumed (s.rowClk n) } else r))
    (s.threads.foldl (fun t n => (t.modRow n (fun r => r.restore (s.hamperGet n) (s.rowClk n) (s.clkOf n))).endSpent n) s)

/-- The dies of a job that runs on. -/
def State.resumedDies (s : State) : State :=
  ([0, 1, 2, 3] : List Nat).foldl (fun s d => s.modDie d Die.resume) (s.restoredRows.modJob (fun j => { j with pre := .none, saved := [] }))

/-- Its domains, with their allowances full. -/
def State.refilled (s : State) : State :=
  (List.range 16).foldl (fun s d => s.modDom d (fun x => { x with A := x.cap, due := [], transfers := [] })) s

theorem resumeAll_eq (s : State) : s.resumeAll = (s.resumedDies.refilled.modDev (fun d => { d with jobSt := .opened })).chainBack := rfl

theorem refilled_keeps {γ : Type} {obs : State → γ} (hdom : ∀ t d x, obs (State.setDom t d x) = obs t) (s : State) :
    obs s.refilled = obs s :=
  foldl_keeps (fun (t : State) n => hdom t n _) _ _

theorem refilled_dom (s : State) {d : Nat} (hd : d < 16) : (s.refilled.dom d).A = (s.dom d).cap := by
  have h := foldl_part (f := fun (s : State) d => s.modDom d (fun x => { x with A := x.cap, due := [], transfers := [] }))
    (obs := State.dom) (g := fun _ x => { x with A := x.cap, due := [], transfers := [] })
    (fun t n => modDom_dom_same ..) (fun t n m hm => by rw [State.modDom, setDom_dom_ne _ _ hm]) (List.range 16) List.nodup_range s d
  rw [if_pos (List.mem_range.2 hd)] at h
  exact congrArg Domain.A h

section
variable {γ : Type} {obs : State → γ}

theorem restoredRows_keeps (hrow : ∀ t n x, obs (State.setRow t n x) = obs t) (hdie : ∀ t d x, obs (State.setDie t d x) = obs t)
    (s : State) : obs s.restoredRows = obs s :=
  (foldl_keeps (fun (t : State) n => hrow t n _) _ _).trans
    (foldl_keeps (fun (_ : State) n => (endSpent_keeps hrow hdie _ n).trans (hrow ..)) _ s)

theorem resumedDies_keeps (hrow : ∀ t n x, obs (State.setRow t n x) = obs t) (hdie : ∀ t d x, obs (State.setDie t d x) = obs t)
    (hpre : ∀ t : State, obs (t.modJob fun j => { j with pre := .none, saved := [] }) = obs t) (s : State) :
    obs s.resumedDies = obs s :=
  (foldl_keeps (fun (t : State) n => hdie t n _) _ _).trans ((hpre _).trans (restoredRows_keeps hrow hdie s))

/-- What neither a row, nor a die, nor a domain, nor the halt enters is as it was. -/
theorem resumeAll_keeps (hrow : ∀ t n x, obs (State.setRow t n x) = obs t) (hdie : ∀ t d x, obs (State.setDie t d x) = obs t)
    (hpre : ∀ t : State, obs (t.modJob fun j => { j with pre := .none, saved := [] }) = obs t)
    (hdom : ∀ t d x, obs (State.setDom t d x) = obs t)
    (hold : ∀ (t : State) (l : List Cell), obs (t.modJob fun j => { j with chainOld := l }) = obs t)
    (hdev : ∀ t : State, obs (t.modDev fun d => { d with jobSt := .opened }) = obs t) (s : State) : obs s.resumeAll = obs s := by
  rw [resumeAll_eq, chainBack_keeps hrow hold, hdev, refilled_keeps hdom, resumedDies_keeps hrow hdie hpre]
end

section
variable (s : State)

theorem resumeAll_byte (a : Nat) : s.resumeAll.byte a = s.byte a :=
  resumeAll_keeps (obs := fun t => t.byte a) (fun _ _ _ => rfl) (fun _ _ _ => rfl) (fun _ => rfl) (fun _ _ _ => rfl) (fun _ _ => rfl)
    (fun _ => rfl) s

theorem resumeAll_pre : s.resumeAll.job.pre = .none := by
  rw [resumeAll_eq, chainBack_keeps (obs := fun t => t.job.pre) (fun _ _ _ => rfl) (fun _ _ => rfl), modDev_job,
    refilled_keeps (obs := fun t => t.job.pre) (fun _ _ _ => rfl), State.resumedDies,
    foldl_keeps (f := fun (t : State) d => t.modDie d Die.resume) (obs := fun t => t.job.pre) (fun _ _ => rfl)]
  generalize s.restoredRows = t
  rfl

theorem resumeAll_dev : s.resumeAll.dev = { s.dev with jobSt := .opened } := by
  rw [resumeAll_eq, chainBack_keeps (obs := State.dev) (fun _ _ _ => rfl) (fun _ _ => rfl), State.modDev,
    refilled_keeps (obs := State.dev) (fun _ _ _ => rfl),
    resumedDies_keeps (obs := State.dev) (fun _ _ _ => rfl) (fun _ _ _ => rfl) (fun _ => rfl)]

theorem resumeAll_runs {d : Nat} (hd : d < 4) : (s.resumeAll.die d).halted = false := by
  have hin : d ∈ ([0, 1, 2, 3] : List Nat) := by simp; omega
  rw [resumeAll_eq, chainBack_keeps (obs := fun t => t.die d) (fun _ _ _ => rfl) (fun _ _ => rfl), modDev_die,
    refilled_keeps (obs := fun t => t.die d) (fun _ _ _ => rfl)]
  exact (foldl_part (f := fun (t : State) d => t.modDie d Die.resume) (obs := fun t d => (t.die d).halted) (g := fun _ _ => false)
    (fun t n => by rw [modDie_die_same]; rfl) (fun t n m hm => by rw [State.modDie, setDie_die_ne _ _ hm]) [0, 1, 2, 3] (by decide)
    (s.restoredRows.modJob (fun j => { j with pre := .none, saved := [] })) d).trans (if_pos hin)

theorem resumeAll_full {d : Nat} (hd : d < 16) : (s.resumeAll.dom d).A = (s.dom d).cap := by
  rw [resumeAll_eq, chainBack_keeps (obs := fun t => t.dom d) (fun _ _ _ => rfl) (fun _ _ => rfl), modDev_dom, refilled_dom _ hd,
    resumedDies_keeps (obs := fun t => t.dom d) (fun _ _ _ => rfl) (fun _ _ _ => rfl) (fun _ => rfl)]
end

section
variable {s : State} {r : CmdRec} (hr : Runs s 0x31 r)
include hr

theorem resume_resumes (h : ∀ m ∈ s.threads, hamperBad (s.row m) (s.hamperGet m) = false) :
    DoneWith (.resume false) s 0 (fun t => t.dev.jobSt = .opened ∧ t.job = s.resumeAll.job) := by
  have hx := (show exec (.resume false) s = execResume false s from rfl).trans (command_runs hr _)
  have hbad : s.threads.any (fun n => hamperBad (s.row n) (s.hamperGet n)) = false := by simpa using h
  simp only [hbad, Bool.false_eq_true, if_false] at hx
  have hdev := resumeAll_dev s
  generalize s.resumeAll = u at hx hdev ⊢
  exact doneWith hx (by rw [hdev]) (by rw [hdev]) ⟨congrArg Dev.jobSt hdev, rfl⟩

theorem resume_badHamper (h : ∃ m ∈ s.threads, hamperBad (s.row m) (s.hamperGet m) = true) : RefusedWith (.resume false) s 0x08 := by
  have hx := (show exec (.resume false) s = execResume false s from rfl).trans (command_runs hr _)
  have hbad : s.threads.any (fun n => hamperBad (s.row n) (s.hamperGet n)) = true := by simpa using h
  simp only [hbad, Bool.false_eq_true, if_false, if_true] at hx
  exact refusedWith hx
end

end Sys2Proof.Machine
end

section
/-! SUPPORT. CHECKPOINT (R371, R368): a job's streams stored, and its group's parity stream formed block by block. -/

namespace Sys2Proof.Machine

theorem comm_field (x : W64) : (x.extractLsb' 0 6).toNat = x.toNat % 64 := by
  simp [BitVec.extractLsb'_toNat]

theorem eq_holderOf_iff (m : Comm) (j : W64) : m.rank = m.holderOf j ↔ m.rank % 8 = j.toNat % 8 := by
  unfold Comm.holderOf Comm.octet
  omega

/-- Every rank of a list is reached, by ports that are up. -/
def State.Paths (s : State) (m : Comm) (l : List Nat) : Prop := ∀ k ∈ l, m.mask k ≠ 0 ∧ s.pathUp (m.mask k) = true

theorem parityPath_iff (s : State) (c : Nat) (j : W64) : s.parityPath c j = true ↔ s.Paths (s.comm c) ((s.comm c).parityPeers j) := by
  simp [State.parityPath, State.Paths]

section
variable {s : State} {r : CmdRec} {k : Ckpt}

theorem checkpoint_runs (hr : Runs s 0x32 r) (h : s.dev.ckpt = some k) : exec (.checkpoint false) s = .next (s.answer (s.streams r k)) := by
  have hx := (show exec (.checkpoint false) s = execCheckpoint false s from rfl).trans (command_runs hr _)
  simp only [h] at hx
  exact hx

/-- The device's own stream of the job as it stood at the halt. -/
def State.ownStream (s : State) (r : CmdRec) (k : Ckpt) : Stream := ⟨s.job.tier, s.dev.ident, r.w4, k.key, k.job.getD s.job⟩
/-- The parity stream of its group. -/
def State.parityShard (s : State) (r : CmdRec) (k : Ckpt) : Shard :=
  ⟨r.w5.setWidth 17, (s.comm (r.w3.toNat % 64)).eight, r.w4, k.parity⟩

/-- The streams are stored: without a parity stream at once, with one once its blocks have been exchanged. -/
theorem streams_stored (h : r.w3.getLsbD 6 = true ∨ streamBlocks ≤ k.blocks) :
    s.streams r k = .done (BitVec.ofNat 64 (streamBlocks * sealedBytes)) (s.modDev (fun d => d.store (s.ownStream r k)
      (if !r.w3.getLsbD 6 && (s.comm (r.w3.toNat % 64)).rank == (s.comm (r.w3.toNat % 64)).holderOf r.w4 then
        some (s.parityShard r k) else none))) := by
  have hend : (!(!r.w3.getLsbD 6) || decide (streamBlocks ≤ k.blocks)) = true := by
    rcases h with h | h <;> simp [h]
  unfold State.streams
  simp only [hend, if_true, comm_field]
  rfl

theorem own_mem_store (d : Dev) (x : Stream) (par : Option Shard) : x ∈ (d.store x par).tierStore := by
  simp [Dev.store]

theorem other_mem_store {d : Dev} {x z : Stream} (par : Option Shard) (hz : z ∈ d.tierStore)
    (h : z.tier ≠ x.tier ∨ z.ident ≠ x.ident ∨ z.num ≠ x.num) : z ∈ (d.store x par).tierStore := by
  refine List.mem_append_left _ (List.mem_filter.2 ⟨hz, ?_⟩)
  simp only [Bool.not_eq_true', Bool.and_eq_false_iff, beq_eq_false_iff_ne, ne_eq]
  tauto

theorem shard_mem_store (d : Dev) (x : Stream) (p : Shard) : p ∈ (d.store x (some p)).shards := by
  simp [Dev.store]

/-- Blocks are still to be exchanged. -/
theorem streams_exchange (h6 : r.w3.getLsbD 6 = false) (hb : k.blocks < streamBlocks) : s.streams r k =
    match (if s.parityPath (r.w3.toNat % 64) r.w4 then s.parityStep (r.w3.toNat % 64) (s.ownStream r k) k.blocks else none) with
    | none => .more (s.modDev (fun d => { d with ckpt := some { k with job := some (k.job.getD s.job) } }))
    | some (s1, l) => .more (s1.modDev (fun d => { d with ckpt := some { k with job := some (k.job.getD s.job), blocks := k.blocks + 1, parity := k.parity ++ l } })) := by
  unfold State.streams
  simp only [h6, not_le.2 hb, Bool.not_false, Bool.not_true, decide_false, Bool.or_self, Bool.false_eq_true, if_false, comm_field]
  rfl
end

/-! ### A step of the exchange -/

theorem foldl_send {ι : Type} (f : ι → Msg) (l : List ι) (s : State) :
    l.foldl (fun s i => s.send (f i)) s = s.modJob (fun j => { j with linkTx := j.linkTx ++ l.map f }) := by
  induction l generalizing s with
  | nil => simp [State.modJob]
  | cons i l ih =>
    rw [List.foldl_cons, ih]
    simp [State.send, State.modJob]

/-- A member that is not the holder sends its own block. -/
theorem parityStep_sends {s : State} {c : Nat} {x : Stream} {b : Nat} (h : (s.comm c).rank ≠ (s.comm c).holderOf x.num) :
    s.parityStep c x b = some (s.modJob (fun j => { j with linkTx := j.linkTx ++ (List.range blockCells).map (fun i =>
      parityMsg c ((s.comm c).holderOf x.num) x.num b i (((x.block b).drop (64 * i)).take 64)) }), []) := by
  unfold State.parityStep
  simp only [h, ne_eq, not_false_eq_true, if_true, foldl_send]

/-- The ranks whose blocks the holder takes. -/
def Comm.others (m : Comm) : List Nat := m.ranks8.filter (· != m.rank)

/-- The block of a rank, from its cells. -/
def State.partOf (s : State) (c : Nat) (x : Stream) (b r : Nat) : List W8 :=
  ((List.range blockCells).flatMap (fun i => (((s.parityRx c r x.num b i).map Msg.data).getD []))).take sealedBytes

theorem parityStep_waits {s : State} {c : Nat} {x : Stream} {b : Nat} (h : (s.comm c).rank = (s.comm c).holderOf x.num)
    (hmiss : ∃ k ∈ (s.comm c).others, ∃ i < blockCells, s.parityRx c k x.num b i = none) : s.parityStep c x b = none := by
  have hall : (s.comm c).others.all (fun r => (List.range blockCells).all (fun i => (s.parityRx c r x.num b i).isSome)) = false := by
    obtain ⟨k, hk, i, hi, hn⟩ := hmiss
    refine List.all_eq_false.2 ⟨k, hk, ?_⟩
    rw [Bool.not_eq_true]
    exact List.all_eq_false.2 ⟨i, List.mem_range.2 hi, by simp [hn]⟩
  unfold State.parityStep
  unfold Comm.others at hall
  simp only [h, ne_eq, not_true_eq_false, if_false, h ▸ hall, Bool.false_eq_true]

theorem parityStep_combines {s : State} {c : Nat} {x : Stream} {b : Nat} (h : (s.comm c).rank = (s.comm c).holderOf x.num)
    (hall : ∀ k ∈ (s.comm c).others, ∀ i < blockCells, (s.parityRx c k x.num b i).isSome) :
    s.parityStep c x b = some (s.voidRx (fun y => y.kind == 5 && y.comm == c && y.tag == x.num.setWidth 32 && y.ser == b),
      ((s.comm c).others.map (s.partOf c x b)).foldl (fun a p => a.zipWith (· ^^^ ·) p) (x.block b)) := by
  have hall' : (s.comm c).others.all (fun r => (List.range blockCells).all (fun i => (s.parityRx c r x.num b i).isSome)) = true := by
    simpa using hall
  unfold State.parityStep
  unfold Comm.others at hall' ⊢
  simp only [h, ne_eq, not_true_eq_false, if_false, h ▸ hall', if_true]
  rfl

/-! ### The XOR of blocks -/

theorem foldl_xor_length {n : Nat} (l : List (List W8)) (a : List W8) (ha : a.length = n) (hl : ∀ p ∈ l, p.length = n) :
    (l.foldl (fun a p => a.zipWith (· ^^^ ·) p) a).length = n := by
  refine List.foldlRecOn (motive := fun a : List W8 => a.length = n) l _ ha fun a ha p hp => ?_
  simp [ha, hl p hp]

theorem foldl_xor_getD {n i : Nat} (hi : i < n) (l : List (List W8)) (a : List W8) (ha : a.length = n) (hl : ∀ p ∈ l, p.length = n) :
    (l.foldl (fun a p => a.zipWith (· ^^^ ·) p) a).getD i 0 = l.foldl (fun x p => x ^^^ p.getD i 0) (a.getD i 0) := by
  induction l generalizing a with
  | nil => rfl
  | cons p l ih =>
    have hp := hl p List.mem_cons_self
    have hz : (List.zipWith (· ^^^ ·) a p).getD i 0 = a.getD i 0 ^^^ p.getD i 0 := by
      simp [List.getD_eq_getElem?_getD, ha, hp, hi]
    rw [List.foldl_cons, ih _ (by simp [ha, hp]) fun q hq => hl q (List.mem_cons_of_mem _ hq), hz]
    rfl

/-- Parts of one length laid end to end. -/
theorem flatMap_parts (f : Nat → List W8) (w n : Nat) (h : ∀ i < n, (f i).length = w) :
    ((List.range n).flatMap f).length = w * n ∧ ∀ i < w * n, ((List.range n).flatMap f).getD i 0 = (f (i / w)).getD (i % w) 0 := by
  induction n with
  | zero => simp
  | succ n ih =>
    obtain ⟨hlen, hget⟩ := ih fun i hi => h i (by omega)
    have hn := h n (by omega)
    rw [List.range_succ, List.flatMap_append, List.flatMap_cons, List.flatMap_nil, List.append_nil]
    refine ⟨by rw [List.length_append, hlen, hn]; ring, fun i hi => ?_⟩
    by_cases hlt : i < w * n
    · rw [List.getD_append _ _ _ _ (by omega), hget i hlt]
    · have hw : 0 < w := Nat.pos_of_ne_zero fun h0 => by simp [h0] at hi
      obtain ⟨k, rfl⟩ := Nat.exists_eq_add_of_le (Nat.le_of_not_lt hlt)
      have hk : k < w := by rw [Nat.mul_succ] at hi; omega
      rw [List.getD_append_right _ _ _ _ (by omega), hlen, Nat.add_sub_cancel_left, Nat.mul_add_div hw, Nat.div_eq_of_lt hk,
        Nat.mul_add_mod, Nat.mod_eq_of_lt hk, Nat.add_zero]

theorem sealedBytes_lt : sealedBytes < 64 * blockCells := by decide

section
variable {s : State} {c : Nat} {x : Stream} {b : Nat}

theorem block_length (x : Stream) (b : Nat) : (x.block b).length = sealedBytes := by simp [Stream.block]

theorem partOf_spec {r : Nat} (h : ∀ i < blockCells, ∃ z, s.parityRx c r x.num b i = some z ∧ z.data.length = 64) :
    (s.partOf c x b r).length = sealedBytes ∧ ∀ i < sealedBytes, (s.partOf c x b r).getD i 0 =
      ((s.parityRx c r x.num b (i / 64)).map (fun z => z.data.getD (i % 64) 0)).getD 0 := by
  obtain ⟨hlen, hget⟩ := flatMap_parts (fun i => ((s.parityRx c r x.num b i).map Msg.data).getD []) 64 blockCells fun i hi => by
    obtain ⟨z, hz, hl⟩ := h i hi
    simp [hz, hl]
  have hlt := sealedBytes_lt
  refine ⟨by rw [State.partOf, List.length_take, hlen]; omega, fun i hi => ?_⟩
  have htake (l : List W8) : (l.take sealedBytes).getD i 0 = l.getD i 0 := by
    simp [List.getD_eq_getElem?_getD, hi]
  rw [State.partOf, htake, hget i (by omega)]
  cases s.parityRx c r x.num b (i / 64) <;> rfl

/-- The XOR of the eight blocks. -/
theorem combined_spec (h : ∀ k ∈ (s.comm c).others, ∀ i < blockCells, ∃ z, s.parityRx c k x.num b i = some z ∧ z.data.length = 64) :
    let l := ((s.comm c).others.map (s.partOf c x b)).foldl (fun a p => a.zipWith (· ^^^ ·) p) (x.block b)
    l.length = sealedBytes ∧ ∀ i, i < sealedBytes → l.getD i 0 = (s.comm c).others.foldl (fun a k =>
      a ^^^ (((s.parityRx c k x.num b (i / 64)).map (fun z => z.data.getD (i % 64) 0)).getD 0)) ((x.block b).getD i 0) := by
  have hlen : ∀ p ∈ (s.comm c).others.map (s.partOf c x b), p.length = sealedBytes := by
    intro p hp
    obtain ⟨k, hk, rfl⟩ := List.mem_map.1 hp
    exact (partOf_spec (h k hk)).1
  refine ⟨foldl_xor_length _ _ (block_length x b) hlen, fun i hi => ?_⟩
  rw [foldl_xor_getD hi _ _ (block_length x b) hlen, List.foldl_map]
  refine List.foldl_ext _ _ _ fun a k hk => ?_
  rw [(partOf_spec (h k hk)).2 i hi]
end

end Sys2Proof.Machine
end

section
/-! SUPPORT. CHECKPOINT's tests and moves, and RESTORE (R371, R368, R409, R400). -/

namespace Sys2Proof.Machine

/-! ### CHECKPOINT, before its tests -/

/-- What of row 0's chain rests with no hamper written rests all the same. -/
theorem chainRests_of_unsaved {s u : State} (hrow : u.row 0 = s.row 0) (hport : ∀ p, u.port p = s.port p) (hsaved : u.job.saved = [])
    (h : u.chainRests = true) : s.chainRests = true := by
  cases hb : (s.row 0).nbind with
  | link p =>
    simp only [State.chainRests, hrow, hb, hport, hsaved, tget, Bool.or_false] at h ⊢
    rw [h, Bool.true_or]
  | _ => simp only [State.chainRests, hb]

/-- Asking for a halt brings nothing to rest. -/
theorem atRest_asked {s : State} (c : Option Ckpt) (h : s.atRest = false) :
    ((s.modJob (fun j => { j with pre := .asked, saved := [] })).modDev (fun d => { d with ckpt := c })).atRest = false := by
  rw [← Bool.not_eq_true] at h ⊢
  refine mt (fun hu => ?_) h
  obtain ⟨hdies, hchain⟩ := Bool.and_eq_true_iff.1 (show (_ && _) = true from hu)
  refine Bool.and_eq_true_iff.2 ⟨hdies, ?_⟩
  refine chainRests_of_unsaved ?_ ?_ ?_ hchain
  · rfl
  · exact fun _ => rfl
  · rfl

section
variable {s : State} {r : CmdRec} {key : List W8} (hr : Runs s 0x32 r) (hck : s.dev.ckpt = none)
include hr hck

theorem checkpoint_badGroup (h6 : r.w3.getLsbD 6 = false) (h : (s.comm (r.w3.toNat % 64)).n % 8 ≠ 0 ∨ (s.comm (r.w3.toNat % 64)).n = 0) :
    RefusedWith (.checkpoint false) s 0x03 := by
  have hx := (show exec (.checkpoint false) s = execCheckpoint false s from rfl).trans (command_runs hr _)
  have hbad : (decide ((s.comm (r.w3.toNat % 64)).n = 0) || decide ((s.comm (r.w3.toNat % 64)).n % 8 ≠ 0)) = true := by
    simpa using h.symm
  simp only [hck, comm_field, h6, Bool.not_false, Bool.true_and, hbad, Bool.or_true, Bool.true_or, if_true] at hx
  exact refusedWith hx

variable (hw : r.w2 ≠ 0) (hkey : s.paRead r.w1 32 false = some key)
include hw hkey

section
variable (h6 : r.w3.getLsbD 6 = true) (hw5 : r.w5 = 0) (hports : s.portsUp r.w2 = true)
include h6 hw5 hports

theorem checkpoint_halted (hst : s.dev.jobSt = .halted) :
    exec (.checkpoint false) s = .next (s.answer (s.streams r ⟨key, none, 0, []⟩)) := by
  have hx := (show exec (.checkpoint false) s = execCheckpoint false s from rfl).trans (command_runs hr _)
  simp only [hck, h6, beq_eq_false_iff_ne.2 hw, hw5, hkey, hports, hst, show (JobSt.halted == JobSt.opened) = false from rfl, Bool.not_true, Bool.false_and,
    Bool.or_self, bne_self_eq_false, Bool.and_false, Bool.false_eq_true, if_false] at hx
  exact hx

/-- A job that runs is asked to halt. -/
theorem checkpoint_asks (hst : s.dev.jobSt = .opened) (hrest : s.atRest = false) : exec (.checkpoint false) s =
    .next ((s.modJob (fun j => { j with pre := .asked, saved := [] })).modDev (fun d => { d with ckpt := some ⟨key, none, 0, []⟩ })) := by
  have hx := (show exec (.checkpoint false) s = execCheckpoint false s from rfl).trans (command_runs hr _)
  simp only [hck, h6, beq_eq_false_iff_ne.2 hw, hw5, hkey, hports, hst, beq_self_eq_true, Bool.not_true, Bool.false_and,
    Bool.or_self, bne_self_eq_false, Bool.and_false, Bool.false_eq_true, if_false, if_true] at hx
  refine hx.trans (congrArg Host.Outcome.next (finishHalt_of_busy ?_))
  exact atRest_asked _ hrest
end

section
variable (h6 : r.w3.getLsbD 6 = false) (hn : (s.comm (r.w3.toNat % 64)).n % 8 = 0) (hn0 : (s.comm (r.w3.toNat % 64)).n ≠ 0)
include h6 hn hn0

theorem checkpoint_noPath (h : s.portsUp r.w2 = false ∨ ¬ s.Paths (s.comm (r.w3.toNat % 64)) ((s.comm (r.w3.toNat % 64)).parityPeers r.w4)) :
    RefusedWith (.checkpoint false) s 0x0A := by
  have hx := (show exec (.checkpoint false) s = execCheckpoint false s from rfl).trans (command_runs hr _)
  have hbad : (!s.portsUp r.w2 || !s.parityPath (r.w3.toNat % 64) r.w4) = true := by
    rw [← parityPath_iff, Bool.not_eq_true] at h
    rcases h with h | h <;> simp [h]
  simp only [hck, comm_field, h6, beq_eq_false_iff_ne.2 hw, hn, hn0, hkey, hbad, Bool.not_false, Bool.true_and, ne_eq, not_true_eq_false,
    decide_false, Bool.or_self, Bool.not_true, Bool.false_and, Bool.false_eq_true, if_false, if_true] at hx
  exact refusedWith hx

theorem checkpoint_begins (hports : s.portsUp r.w2 = true)
    (hp : s.Paths (s.comm (r.w3.toNat % 64)) ((s.comm (r.w3.toNat % 64)).parityPeers r.w4)) (hst : s.dev.jobSt = .halted) :
    exec (.checkpoint false) s = .next (s.modDev (fun d => { d with ckpt := some ⟨key, none, 0, []⟩ })) := by
  have hx := (show exec (.checkpoint false) s = execCheckpoint false s from rfl).trans (command_runs hr _)
  simp only [hck, comm_field, h6, beq_eq_false_iff_ne.2 hw, hn, hn0, hkey, hports, (parityPath_iff ..).2 hp, hst,
    show (JobSt.halted == JobSt.opened) = false from rfl, Bool.not_false, Bool.true_and, ne_eq,
    not_true_eq_false, decide_false, Bool.or_self, Bool.not_true, Bool.false_and, Bool.false_eq_true, if_false, if_true] at hx
  exact hx
end
end

/-! ### CHECKPOINT, once its tests are passed -/

section
variable {s : State} {r : CmdRec} {k : Ckpt} (hr : Runs s 0x32 r) (hck : s.dev.ckpt = some k)
include hr hck

/-- The streams are stored. -/
theorem checkpoint_stores (h : r.w3.getLsbD 6 = true ∨ streamBlocks ≤ k.blocks) {p : State → Prop}
    (hp : ∀ t : State, t.job = s.job → t.dev.jobSt = s.dev.jobSt → t.dev.tierStore = (s.dev.store (s.ownStream r k) none).tierStore →
      t.dev.shards = (if !r.w3.getLsbD 6 && (s.comm (r.w3.toNat % 64)).rank == (s.comm (r.w3.toNat % 64)).holderOf r.w4 then
        (s.dev.store (s.ownStream r k) (some (s.parityShard r k))).shards else s.dev.shards) → p t) :
    DoneWith (.checkpoint false) s (BitVec.ofNat 64 (streamBlocks * sealedBytes)) p := by
  have hx := checkpoint_runs hr hck
  rw [streams_stored h] at hx
  refine doneWith hx rfl rfl (hp _ rfl rfl rfl ?_)
  show Dev.shards (s.dev.store (s.ownStream r k) (if _ then _ else _)) = _
  split <;> rfl

section
variable (h6 : r.w3.getLsbD 6 = false) (hb : k.blocks < streamBlocks)
include h6 hb

/-- What the exchange of a block comes to. -/
theorem checkpoint_exchange :
    (s.parityPath (r.w3.toNat % 64) r.w4 = false ∨ s.parityStep (r.w3.toNat % 64) (s.ownStream r k) k.blocks = none →
      exec (.checkpoint false) s = .next (s.modDev (fun d => { d with ckpt := some { k with job := some (k.job.getD s.job) } }))) ∧
    (∀ s1 l, s.parityPath (r.w3.toNat % 64) r.w4 = true →
      s.parityStep (r.w3.toNat % 64) (s.ownStream r k) k.blocks = some (s1, l) →
      exec (.checkpoint false) s = .next (s1.modDev (fun d =>
        { d with ckpt := some { k with job := some (k.job.getD s.job), blocks := k.blocks + 1, parity := k.parity ++ l } }))) := by
  have hx := checkpoint_runs hr hck
  rw [streams_exchange h6 hb] at hx
  refine ⟨fun h => ?_, fun s1 l hp hs => ?_⟩
  · have hnone : (if s.parityPath (r.w3.toNat % 64) r.w4 then s.parityStep (r.w3.toNat % 64) (s.ownStream r k) k.blocks else none) =
        none := by
      rcases h with h | h <;> simp [h]
    rw [hnone] at hx
    exact hx
  · rw [hp, if_pos rfl, hs] at hx
    exact hx
end
end

/-! ### RESTORE -/

theorem kept_true (b : Bind) : b.kept true = b := by cases b <;> rfl

section
variable (s : State) (j : Job)

theorem restored_pls (h : s.dev.accepted.getLsbD 4 = true) : (s.restored j).pls = j.pls := by
  refine (List.map_congr_left (g := id) fun p _ => ?_).trans (List.map_id _)
  rw [h, kept_true, kept_true]
  rfl

theorem restored_row_v (n : Nat) : (tget .reset (s.restored j).rows n).v = (tget .reset j.rows n).v := by
  have hin : tget .reset (j.within s.dev.accepted).rows n = _ := tget_map (d := Row.reset) (d' := Row.reset) (fun _ r => { r with
      nbind := r.nbind.kept (s.dev.accepted.getLsbD 4), sbind := r.sbind.kept (s.dev.accepted.getLsbD 4)
      pool := if s.dev.accepted.getLsbD 1 || r.life != .idle then r.pool else none
      unbind := r.unbind || (!s.dev.accepted.getLsbD 1 && r.pool.isSome) }) j.rows n (by
    cases s.dev.accepted.getLsbD 1 <;> cases s.dev.accepted.getLsbD 4 <;> rfl)
  have hout := tget_map (d := Row.reset) (d' := Row.reset) (fun n r => if r.life == .idle then r else
    { r with csr := { r.csr with hamper := s.job.hamper + BitVec.ofNat 56 (2 ^ 18 * n) } }) (j.within s.dev.accepted).rows n rfl
  have hv (x : Row) (c : Csrs) : (if x.life == .idle then x else { x with csr := c }).v = x.v := by split <;> rfl
  exact (congrArg Row.v hout).trans ((hv _ _).trans ((congrArg Row.v hin).trans rfl))

theorem restored_dom {d : Nat} (hd : d < 16) :
    (tget .reset (s.restored j).doms d).refill = (s.dom d).refill ∧ (tget .reset (s.restored j).doms d).cap = (s.dom d).cap := by
  have h := tget_tsets_map Domain.reset id (fun d => { (s.dom d).cleared with
    cls := (tget .reset (j.within s.dev.accepted).doms d).cls, reassign := (tget .reset (j.within s.dev.accepted).doms d).reassign })
    (List.range 16) [] d (List.mem_range.2 hd) fun _ _ _ _ h => h
  exact ⟨(congrArg Domain.refill h).trans rfl, (congrArg Domain.cap h).trans rfl⟩

/-- A die without what bits 0 and 1 govern, where they are not accepted. -/
def Die.within (mangle pools : Bool) (y : Die) : Die :=
  let x := if mangle then y else { y with ringRev := 0, ringSeg := 0, ringMark := 0, ringPos := 0 }
  if pools then x else { x with queues := [], window := [], cont := [], arriving := [], steal := ⟨0, none⟩ }

theorem restored_die {d : Nat} (hd : d < 4) : (tget .reset (s.restored j).dies d).halted = true ∧
    (tget .reset (s.restored j).dies d).queues = (if s.dev.accepted.getLsbD 1 then (tget .reset j.dies d).queues else []) ∧
    (tget .reset (s.restored j).dies d).ringRev = (if s.dev.accepted.getLsbD 0 then (tget .reset j.dies d).ringRev else 0) := by
  have hmem : d ∈ ([0, 1, 2, 3] : List Nat) := by simp; omega
  have hout := tget_tsets_map Die.reset id (fun d =>
    { tget .reset (j.within s.dev.accepted).dies d with clk := (s.die d).clk, inrush := [], halted := true }) [0, 1, 2, 3] [] d hmem
    fun _ _ _ _ h => h
  have hin : tget .reset (j.within s.dev.accepted).dies d = _ := tget_map (d := Die.reset) (d' := Die.reset)
    (fun _ => Die.within (s.dev.accepted.getLsbD 0) (s.dev.accepted.getLsbD 1)) j.dies d (by
      cases s.dev.accepted.getLsbD 0 <;> cases s.dev.accepted.getLsbD 1 <;> rfl)
  refine ⟨(congrArg Die.halted hout).trans rfl, (congrArg Die.queues hout).trans ((congrArg Die.queues hin).trans ?_),
    (congrArg Die.ringRev hout).trans ((congrArg Die.ringRev hin).trans ?_)⟩
  all_goals
    unfold Die.within
    cases s.dev.accepted.getLsbD 0 <;> cases s.dev.accepted.getLsbD 1 <;> rfl

theorem tget_foldl_true {l : List (Nat × Row)} {k : Nat} (h : k ∈ l.map Prod.fst) (t : Tbl Bool) :
    tget false (l.foldl (fun t e => tset false t e.1 true) t) k = true := by
  have hkeep : ∀ (l : List (Nat × Row)) (t : Tbl Bool), tget false t k = true →
      tget false (l.foldl (fun t e => tset false t e.1 true) t) k = true := by
    intro l t ht
    refine List.foldlRecOn (motive := fun t => tget false t k = true) l _ ht fun t ht e _ => ?_
    rw [tget_tset]
    split
    · rfl
    · exact ht
  induction l generalizing t with
  | nil => simp at h
  | cons e l ih =>
    rcases List.mem_cons.1 h with rfl | h
    · exact hkeep l _ (tget_tset_same ..)
    · exact ih h _

theorem restored_saved {k : Nat} (h : k ∈ ((s.restored j).rows.filter (fun e => e.2.life != .idle)).map (fun e => e.1)) :
    tget false (s.restored j).saved k = true := by
  obtain ⟨e, he, rfl⟩ := List.mem_map.1 h
  obtain ⟨hin, hlife⟩ := List.mem_filter.1 he
  obtain ⟨e', hin', rfl⟩ := List.mem_map.1 hin
  refine tget_foldl_true (List.mem_map.2 ⟨e', List.mem_filter.2 ⟨hin', ?_⟩, rfl⟩) []
  revert hlife
  dsimp only
  split
  · exact id
  · exact id
end

theorem find_own {s : State} {r : CmdRec} {x : Stream} (hstore : s.dev.tierStore = [x]) (htier : x.tier = s.job.tier)
    (hident : x.ident = s.dev.ident) (hnum : x.num = r.w3) :
    s.dev.tierStore.find? (fun x => x.tier == s.job.tier && x.ident == s.dev.ident && x.num == r.w3) = some x := by
  simp [hstore, htier, hident, hnum]

section
variable {s : State} {r : CmdRec} {key : List W8} (hr : Runs s 0x33 r) (hpls : s.job.pls = []) (hkey : s.paRead r.w1 32 false = some key)
  (hports : s.portsUp r.w2 = true) (hown : r.w4.getLsbD 17 = false)
include hr hpls hkey hports hown

/-- The device's own stream under a name that its tier holds, with its key. -/
theorem restore_tests {o : Option Stream}
    (ho : s.dev.tierStore.find? (fun x => x.tier == s.job.tier && x.ident == s.dev.ident && x.num == r.w3) = o) :
    exec (.restore false) s = .next (s.answer (match o with
      | some x => if x.key != key then .refuse 0x0D
        else .done 0 ((s.draw.modJob (fun _ => s.restored x.job)).modDev (fun d => { d with jobSt := .halted }))
      | none => .refuse 0x0D)) := by
  have hx := (show exec (.restore false) s = execRestore false s from rfl).trans (command_runs hr _)
  have hkey' : s.paRead r.w1 32 (false && !Config.freeBit s.drawn 0) = some key := hkey
  simp only [hpls, hkey', hports, hown, ho, List.any_nil, Bool.not_true, Bool.false_eq_true, if_false] at hx
  cases o with
  | some x => exact hx
  | none =>
    simp only [beq_self_eq_true, if_true] at hx
    exact hx

section
variable {x : Stream} (hstore : s.dev.tierStore = [x]) (htier : x.tier = s.job.tier) (hident : x.ident = s.dev.ident) (hnum : x.num = r.w3)
include hstore htier hident hnum

theorem restore_takes (hk : x.key = key) {p : State → Prop}
    (hp : ∀ t : State, t.job = s.restored x.job → t.dev.jobSt = .halted → p t) : DoneWith (.restore false) s 0 p := by
  have hx := restore_tests hr hpls hkey hports hown (find_own hstore htier hident hnum)
  simp only [hk, bne_self_eq_false, Bool.false_eq_true, if_false] at hx
  exact doneWith hx rfl rfl (hp _ rfl rfl)

theorem restore_otherKey (hk : x.key ≠ key) : RefusedWith (.restore false) s 0x0D := by
  have hx := restore_tests hr hpls hkey hports hown (find_own hstore htier hident hnum)
  simp only [bne_iff_ne.2 hk, if_true] at hx
  exact refusedWith hx
end

theorem restore_missing (h : ∀ z ∈ s.dev.tierStore, z.tier ≠ s.job.tier ∨ z.ident ≠ s.dev.ident ∨ z.num ≠ r.w3) :
    RefusedWith (.restore false) s 0x0D := by
  refine refusedWith (restore_tests hr hpls hkey hports hown (o := none) (List.find?_eq_none.2 fun z hz => ?_))
  simp only [Bool.and_eq_true, beq_iff_eq, not_and]
  rintro ⟨h1, h2⟩ h3
  exact (h z hz).elim (· h1) (Or.elim · (· h2) (· h3))
end

end Sys2Proof.Machine
end

section
/-! SUPPORT. The obligations on Mbabo's commands on a job as a whole, from each command's lemmas. -/

namespace Sys2Proof.Machine

section
variable {s t : State} (h : t.job = s.job)
include h

theorem row_of_job (n : Nat) : t.row n = s.row n := by rw [State.row, h]; rfl
theorem die_of_job (d : Nat) : t.die d = s.die d := by rw [State.die, h]; rfl
theorem dom_of_job (d : Nat) : t.dom d = s.dom d := by rw [State.dom, h]; rfl
theorem byte_of_job (a : Nat) : t.byte a = s.byte a := by rw [State.byte, h]; rfl
end

/-- Settles O59, each command's completion with the state that its lemmas give. -/
theorem jobCommandsComplete : Obligations.JobCommandsComplete := by
  intro s r pins key x
  refine ⟨fun hr h1 h2 h4 h55 hlow hbad hp => ?_, fun hr hst => ?_, fun hr hst => ?_, fun hup hne hcode hone hpre => ?_,
    fun hr hbad => ?_, fun hr hck hst => ?_, fun hr hpls hkey hports hown hs ht hi hn hk => ?_, fun hr he hw => ?_⟩
  · exact jobOpen_opens hr h1 h2 h4 h55 hlow hbad hp fun t hj hst _ => ⟨hst, by rw [hj]; rfl, by rw [hj]; rfl⟩
  · obtain ⟨t, hx, hst', hhalt, hhead, -⟩ := jobClose_halts hr hst
    exact ⟨t, hx, hst', hhead, hhalt⟩
  · obtain ⟨t, hx, hans, hj, hst', -, -⟩ := jobClose_closes hr hst
    exact ⟨t, hx, hans, hst', (congrArg Job.pls hj).trans (closed_pls s), fun hk => by rw [hj]; exact closed_rekeyed s hk⟩
  · exact preempt_done hup hne hcode hone hpre ⟨rfl, rfl⟩
  · obtain ⟨t, hx, hans, hst, hj⟩ := resume_resumes hr hbad
    exact ⟨t, hx, hans, hst, fun d hd => (congrArg Die.halted (die_of_job hj d)).trans (resumeAll_runs s hd)⟩
  · rcases hck with ⟨hnone, hw2, h6, hw5, hkey, hports⟩ | ⟨c, hsome, hend⟩
    · have hx := checkpoint_halted hr hnone hw2 hkey h6 hw5 hports hst
      rw [streams_stored (.inl h6)] at hx
      exact doneWith hx rfl rfl ⟨rfl, hst⟩
    · exact checkpoint_stores hr hsome hend fun t hj hjs _ _ => ⟨hj, hjs.trans hst⟩
  · exact restore_takes hr hpls hkey hports hown hs ht hi hn hk fun t hj hst => ⟨hst, by rw [hj]; rfl⟩
  · obtain ⟨z, id, lat, t, hx, hans, hp, -, -⟩ := linkUp_trains hr he hw
    exact ⟨z, t, hx, hans, congrArg Port.up hp, congrArg Port.chainEnd hp⟩

/-- The new job: nothing in it, and HBM as it was. -/
theorem opened_job {s t : State} {r : CmdRec} {pins : Tbl Nat} {n a : Nat}
    (hj : t.job = { (s.opening r).job with pinned := pins }) : t.job.root = r.w1.toNat ∧
      t.job.tvec = r.w2.setWidth 56 ∧ t.row n = .reset ∧ t.job.pls = [] ∧ (sideBase ≤ a → t.byte a = 0) ∧
      (a < sideBase → t.byte a = s.byte a) ∧ t.job.alloc = [] ∧ t.job.desc = [] ∧ t.job.checked = [] ∧ t.job.tlb = [] := by
  have hbyte : t.byte a = if a < sideBase then s.byte a else 0 := (congrArg (fun j => j.byte a) hj).trans (opening_byte s r a)
  have hrow : t.row n = .reset := congrArg (fun j : Job => tget Row.reset j.rows n) hj
  refine ⟨congrArg Job.root hj, congrArg Job.tvec hj, hrow, congrArg Job.pls hj, fun ha => hbyte.trans (if_neg (not_lt.2 ha)),
    fun ha => hbyte.trans (if_pos ha), congrArg Job.alloc hj, congrArg Job.desc hj, congrArg Job.checked hj, congrArg Job.tlb hj⟩

theorem checkpoint_storesHalted {s : State} {r : CmdRec} {key : List W8} (hr : Runs s 0x32 r) (hck : s.dev.ckpt = none) (hw : r.w2 ≠ 0)
    (hkey : s.paRead r.w1 32 false = some key) (h6 : r.w3.getLsbD 6 = true) (hw5 : r.w5 = 0) (hports : s.portsUp r.w2 = true)
    (hst : s.dev.jobSt = .halted) : DoneWith (.checkpoint false) s (BitVec.ofNat 64 (streamBlocks * sealedBytes)) (fun t => t.job = s.job ∧
      ⟨s.job.tier, s.dev.ident, r.w4, key, s.job⟩ ∈ t.dev.tierStore ∧ t.dev.shards = s.dev.shards ∧
      ∀ z ∈ s.dev.tierStore, z.tier ≠ s.job.tier ∨ z.ident ≠ s.dev.ident ∨ z.num ≠ r.w4 → z ∈ t.dev.tierStore) := by
  have hx := checkpoint_halted hr hck hw hkey h6 hw5 hports hst
  rw [streams_stored (.inl h6), h6, Bool.not_true, Bool.false_and, if_neg Bool.false_ne_true] at hx
  exact doneWith hx rfl rfl ⟨rfl, own_mem_store _ _ none, rfl, fun z hz h => other_mem_store none hz h⟩

/-- The job that RESTORE takes up. -/
theorem restored_job {s t : State} {j : Job} {d n : Nat} (hj : t.job = s.restored j) :
    t.job.mem = j.mem ∧ t.job.era = j.era ∧ t.job.pre = .halted ∧ (∀ k ∈ t.threads, tget false t.job.saved k = true) ∧
      (s.dev.accepted.getLsbD 4 = true → t.job.pls = j.pls) ∧
      (t.job.ring = if s.dev.accepted.getLsbD 0 then j.ring else .reset) ∧
      (t.job.comms = if s.dev.accepted.getLsbD 2 then j.comms else []) ∧
      (t.job.checked = if s.dev.accepted.getLsbD 3 then j.checked else []) ∧
      (d < 4 → (t.die d).halted = true ∧
        ((t.die d).queues = if s.dev.accepted.getLsbD 1 then (tget .reset j.dies d).queues else []) ∧
        ((t.die d).ringRev = if s.dev.accepted.getLsbD 0 then (tget .reset j.dies d).ringRev else 0)) ∧
      t.job.root = s.job.root ∧ (t.row n).v = (tget .reset j.rows n).v ∧
      (d < 16 → (t.dom d).refill = (s.dom d).refill ∧ (t.dom d).cap = (s.dom d).cap) := by
  have hthreads : t.threads = (((s.restored j).rows.filter (fun e => e.2.life != .idle)).map (fun e => e.1)) := by
    unfold State.threads
    rw [hj]
  have hrow : t.row n = tget .reset (s.restored j).rows n := congrArg (fun j : Job => tget Row.reset j.rows n) hj
  have hdie : t.die d = tget .reset (s.restored j).dies d := congrArg (fun j : Job => tget Die.reset j.dies d) hj
  have hdom : t.dom d = tget .reset (s.restored j).doms d := congrArg (fun j : Job => tget Domain.reset j.doms d) hj
  rw [hrow, hdie, hdom, hthreads, hj]
  exact ⟨rfl, rfl, rfl, fun k hk => restored_saved s j hk, restored_pls s j, rfl, rfl, rfl, fun hd => restored_die s j hd, rfl,
    restored_row_v s j n, fun hd => restored_dom s j hd⟩

theorem peers_eq (m : Comm) (j : W64) : m.parityPeers j =
    if m.rank = m.rank / 8 * 8 + j.toNat % 8 then ((List.range 8).map (fun i => m.rank / 8 * 8 + i)).filter (· != m.rank)
      else [m.rank / 8 * 8 + j.toNat % 8] := rfl

theorem others_eq (m : Comm) : m.others = ((List.range 8).map (fun i => m.rank / 8 * 8 + i)).filter (· != m.rank) := rfl

theorem mem_others {m : Comm} {k : Nat} : k ∈ m.others ↔ k ∈ (List.range 8).map (fun i => m.rank / 8 * 8 + i) ∧ k ≠ m.rank := by
  rw [others_eq, List.mem_filter, bne_iff_ne]

/-- CHECKPOINT with a parity stream: its tests, the streams stored at the end, and each move of the exchange. -/
theorem parity_checkpoint {s : State} {r : CmdRec} {key : List W8} (hr : Runs s 0x32 r) (h6 : r.w3.getLsbD 6 = false) :
    let c := r.w3.toNat % 64
    let m := s.comm c
    let holder : Prop := m.rank % 8 = r.w4.toNat % 8
    let own (j : Option Job) : Stream := ⟨s.job.tier, s.dev.ident, r.w4, key, j.getD s.job⟩
    let goes (f : State → Prop) : Prop := ∃ t, exec (.checkpoint false) s = .next t ∧ f t
    let octet : List Nat := (List.range 8).map (fun i => m.rank / 8 * 8 + i)
    let waits (j : Option Job) (b : Nat) (par : List W8) : Prop :=
      goes (fun t => t.job = s.job ∧ t.dev = { s.dev with ckpt := some ⟨key, some (j.getD s.job), b, par⟩ })
    (s.dev.ckpt = none → r.w2 ≠ 0 →
      (m.n % 8 ≠ 0 ∨ m.n = 0 → RefusedWith (.checkpoint false) s 0x03) ∧
      (m.n % 8 = 0 → m.n ≠ 0 → s.paRead r.w1 32 false = some key →
        (s.portsUp r.w2 = false ∨ ¬ s.Paths m (m.parityPeers r.w4) → RefusedWith (.checkpoint false) s 0x0A) ∧
        (s.portsUp r.w2 = true → s.Paths m (m.parityPeers r.w4) → s.dev.jobSt = .halted →
          goes (fun t => t.job = s.job ∧ t.dev = { s.dev with ckpt := some ⟨key, none, 0, []⟩ })))) ∧
    (∀ j b par, s.dev.ckpt = some ⟨key, j, b, par⟩ → 526400 ≤ b → ∃ z, DoneWith (.checkpoint false) s z (fun t => t.job = s.job ∧
      own j ∈ t.dev.tierStore ∧
      (holder → ⟨r.w5.setWidth 17, octet.map (tget 0 m.idents), r.w4, par⟩ ∈ t.dev.shards) ∧
      (¬ holder → t.dev.shards = s.dev.shards))) ∧
    (∀ j b par, s.dev.ckpt = some ⟨key, j, b, par⟩ → b < 526400 →
      (¬ s.Paths m (m.parityPeers r.w4) → waits j b par) ∧
      (¬ holder → s.Paths m [m.rank / 8 * 8 + r.w4.toNat % 8] → goes (fun t =>
        t.dev.ckpt = some ⟨key, some (j.getD s.job), b + 1, par⟩ ∧ t.job.linkTx = s.job.linkTx ++ (List.range blockCells).map (fun i =>
          parityMsg c (m.rank / 8 * 8 + r.w4.toNat % 8) r.w4 b i ((((own j).block b).drop (64 * i)).take 64)))) ∧
      (holder → s.Paths m (octet.filter (· != m.rank)) →
        ((∃ k ∈ octet, k ≠ m.rank ∧ ∃ i < blockCells, s.parityRx c k r.w4 b i = none) → waits j b par) ∧
        ((∀ k ∈ octet, k ≠ m.rank → ∀ i < blockCells, ∃ z, s.parityRx c k r.w4 b i = some z ∧ z.data.length = 64) →
          goes (fun t => t.job.linkTx = s.job.linkTx ∧ ∃ l, t.dev.ckpt = some ⟨key, some (j.getD s.job), b + 1, par ++ l⟩ ∧
            l.length = sealedBytes ∧ ∀ i, i < sealedBytes → l.getD i 0 = (octet.filter (· != m.rank)).foldl (fun a k =>
              a ^^^ (((s.parityRx c k r.w4 b (i / 64)).map (fun z => z.data.getD (i % 64) 0)).getD 0)) (((own j).block b).getD i 0))))) := by
  intro c m holder own goes octet waits
  refine ⟨fun hck hw => ⟨checkpoint_badGroup hr hck h6, fun hn hn0 hkey => ⟨checkpoint_noPath hr hck hw hkey h6 hn hn0,
    fun hports hp hst => ⟨_, checkpoint_begins hr hck hw hkey h6 hn hn0 hports hp hst, rfl, rfl⟩⟩⟩,
    fun j b par hck hb => ⟨_, checkpoint_stores hr hck (.inr hb) fun t hj _ hown hsh => ⟨hj, ?_, fun hh => ?_, fun hh => ?_⟩⟩,
    fun j b par hck hb => ?_⟩
  · rw [hown]
    exact own_mem_store s.dev _ none
  · have heq := (eq_holderOf_iff m r.w4).2 hh
    rw [hsh, if_pos (by rw [h6, Bool.not_false, Bool.true_and, beq_iff_eq]; exact heq)]
    exact shard_mem_store s.dev _ _
  · have heq := mt (eq_holderOf_iff m r.w4).1 hh
    rw [hsh, if_neg (by rw [h6, Bool.not_false, Bool.true_and, beq_iff_eq]; exact heq)]
  · obtain ⟨hwait, hmove⟩ := checkpoint_exchange hr hck h6 hb
    refine ⟨fun hp => ⟨_, hwait (.inl (by rwa [← parityPath_iff, Bool.not_eq_true] at hp)), rfl, rfl⟩, fun hh hp => ?_, fun hh hp => ⟨fun hmiss => ?_, fun hall => ?_⟩⟩
    · have hne := mt (eq_holderOf_iff m r.w4).1 hh
      have hpath : s.parityPath c r.w4 = true := (parityPath_iff ..).2 (((peers_eq m r.w4).trans (if_neg hne)) ▸ hp)
      exact ⟨_, hmove _ _ hpath (parityStep_sends hne), by rw [List.append_nil]; rfl, rfl⟩
    · have heq := (eq_holderOf_iff m r.w4).2 hh
      obtain ⟨k, hk, hne, hi⟩ := hmiss
      exact ⟨_, hwait (.inr (parityStep_waits heq ⟨k, mem_others.2 ⟨hk, hne⟩, hi⟩)), rfl, rfl⟩
    · have heq := (eq_holderOf_iff m r.w4).2 hh
      have hpath : s.parityPath c r.w4 = true := (parityPath_iff ..).2 (((peers_eq m r.w4).trans (if_pos heq)) ▸ hp)
      have hrx : ∀ k ∈ m.others, ∀ i < blockCells, ∃ z, s.parityRx c k r.w4 b i = some z ∧ z.data.length = 64 :=
        fun k hk => hall k (mem_others.1 hk).1 (mem_others.1 hk).2
      have hstep := parityStep_combines (x := s.ownStream r ⟨key, j, b, par⟩) (b := b) heq fun k hk i hi =>
        (hrx k hk i hi).elim fun z hz => by rw [show s.parityRx c k (s.ownStream r ⟨key, j, b, par⟩).num b i = some z from hz.1]; rfl
      exact ⟨_, hmove _ _ hpath hstep, rfl, _, rfl, combined_spec (x := s.ownStream r ⟨key, j, b, par⟩) hrx⟩

/-- Settles O58, from the same lemmas, and the exchange of a parity block from what one step of it comes to. -/
theorem jobCommands : Obligations.JobCommands := by
  intro s r pins key x d n a
  refine ⟨fun hr => ⟨fun h1 h2 h4 h55 hlow hbad hp => ?_, jobOpen_misaligned hr, jobOpen_unreadable hr⟩,
    fun hr => ⟨fun hst => ?_, fun hst => ?_⟩,
    fun hup hne hcode hone => ⟨fun hpre => preempt_done hup hne hcode hone hpre rfl, preempt_waits hup hne hcode hone⟩,
    preempt_refused, fun hr => ⟨fun hbad => ?_, resume_badHamper hr⟩,
    fun hr hck hw hw5 hkey hports h6 => ⟨fun hst => ?_, fun hst _ hrest => ⟨_, checkpoint_asks hr hck hw hkey h6 hw5 hports hst hrest, rfl, rfl⟩⟩,
    fun hr h6 => ?_, fun hr hpls hkey hports hown => ⟨fun hs ht hi hn => ⟨fun hk => ?_, restore_otherKey hr hpls hkey hports hown hs ht hi hn⟩,
      restore_missing hr hpls hkey hports hown⟩⟩
  · refine jobOpen_opens hr h1 h2 h4 h55 hlow hbad hp fun t hj hst hk => ⟨hst, hk, ?_⟩
    exact opened_job hj
  · obtain ⟨t, hx, hst', hhalt, hhead, hrow⟩ := jobClose_halts hr hst
    exact ⟨t, hx, hst', hhalt d, hhead, hrow⟩
  · obtain ⟨t, hx, hans, hj, hst', hkey, hout⟩ := jobClose_closes hr hst
    exact ⟨t, hx, hans, hst', hkey, fun ha => (byte_of_job hj a).trans (closed_byte_side s ha), fun hk => by rw [hj]; exact closed_rekeyed s hk,
      fun hk ha => (byte_of_job hj a).trans (closed_byte_kept s hk ha), hout d, (row_of_job hj n).trans (closed_row s n)⟩
  · obtain ⟨t, hx, hans, hst, hj⟩ := resume_resumes hr hbad
    exact ⟨t, hx, hans, hst, (congrArg Job.pre hj).trans (resumeAll_pre s),
      fun hd => (congrArg Die.halted (die_of_job hj d)).trans (resumeAll_runs s hd),
      fun hd => (congrArg Domain.A (dom_of_job hj d)).trans (resumeAll_full s hd), fun a => (byte_of_job hj a).trans (resumeAll_byte s a)⟩
  · exact ⟨_, checkpoint_storesHalted hr hck hw hkey h6 hw5 hports hst⟩
  · exact parity_checkpoint hr h6
  · exact restore_takes hr hpls hkey hports hown hs ht hi hn hk fun t hj hst => ⟨hst, restored_job hj⟩

end Sys2Proof.Machine
end

section
/-! SUPPORT. The command ring (R398 to R401): what every command does with the record at the head, the tests that refuse one, and the
fields of STATUS (R406). -/

namespace Sys2Proof.Machine

/-! ### The end of a halt -/

theorem writeBackAll_keeps {γ : Type} {obs : State → γ} (hbyte : ∀ u a v, obs (State.setByte u a v) = obs u)
    (hfar : ∀ u d a x, obs (State.setFar u d a x) = obs u) (hdraw : ∀ u, obs (State.draw u) = obs u) (s : State) :
    obs s.writeBackAll = obs s :=
  foldl_keeps (fun t d => writeBack_keeps hbyte hfar hdraw t d) _ s

/-- What neither memory, nor a far cache, nor the halt enters is as it was. -/
theorem finishHalt_keeps {γ : Type} {obs : State → γ} (hbyte : ∀ u a v, obs (State.setByte u a v) = obs u)
    (hfar : ∀ u d a x, obs (State.setFar u d a x) = obs u) (hdraw : ∀ u, obs (State.draw u) = obs u)
    (hpre : ∀ u : State, obs (u.modJob fun j => { j with pre := .halted }) = obs u)
    (hst : ∀ u : State, obs (u.modDev fun d => { d with jobSt := .halted }) = obs u) (s : State) : obs s.finishHalt = obs s := by
  unfold State.finishHalt
  split
  · exact (hst _).trans ((hpre _).trans (writeBackAll_keeps hbyte hfar hdraw s))
  · rfl

/-- Mbabo's phase, the ring and the record at its head, after the end of a halt as before it. -/
theorem finishHalt_ring (s : State) : s.finishHalt.dev.phase = s.dev.phase ∧ s.finishHalt.dev.cmdHead = s.dev.cmdHead ∧
    s.finishHalt.dev.cmdTail = s.dev.cmdTail ∧ s.finishHalt.dev.slot s.dev.cmdHead = s.dev.slot s.dev.cmdHead :=
  ⟨finishHalt_keeps (obs := fun t => t.dev.phase) (fun _ _ _ => rfl) (fun _ _ _ _ => rfl) (fun _ => rfl) (fun _ => rfl) (fun _ => rfl) s,
    finishHalt_keeps (obs := fun t => t.dev.cmdHead) (fun _ _ _ => rfl) (fun _ _ _ _ => rfl) (fun _ => rfl) (fun _ => rfl) (fun _ => rfl) s,
    finishHalt_keeps (obs := fun t => t.dev.cmdTail) (fun _ _ _ => rfl) (fun _ _ _ _ => rfl) (fun _ => rfl) (fun _ => rfl) (fun _ => rfl) s,
    finishHalt_keeps (obs := fun t => t.dev.slot s.dev.cmdHead) (fun _ _ _ => rfl) (fun _ _ _ _ => rfl) (fun _ => rfl) (fun _ => rfl)
      (fun _ => rfl) s⟩

/-! ### What every command does with the record at the head -/

section
variable {s : State} (code : Nat) (f : State → CmdRec → Ans)

/-- No record is at the head, Mbabo does not run, or a halt is still to come. -/
theorem command_idle (h : s.dev.cmdHead = s.dev.cmdTail ∨ s.dev.phase ≠ .up ∨ s.finishHalt.job.pre = .asked) :
    command code f s = .next s.finishHalt := by
  obtain ⟨hphase, hhead, htail, -⟩ := finishHalt_ring s
  unfold command
  simp only [hphase, hhead, htail]
  rcases h with h | h | h <;> simp [h]

section
variable (hup : s.dev.phase = .up) (hne : s.dev.cmdHead ≠ s.dev.cmdTail) (hpre : s.finishHalt.job.pre ≠ .asked)
include hup hne hpre

theorem command_unknown (h : cmdMask (cmdCode (s.dev.slot s.dev.cmdHead)) = none) :
    command code f s = .next (s.finishHalt.finish 1 1 0) := by
  obtain ⟨hphase, hhead, htail, hslot⟩ := finishHalt_ring s
  unfold command
  simp only [hslot, hphase, hhead, htail, hup, h, bne_self_eq_false, beq_eq_false_iff_ne.2 hne, beq_eq_false_iff_ne.2 hpre, Bool.or_self, Bool.false_eq_true,
    if_false, Option.isNone_none, if_true]
  rfl

theorem command_other (h : cmdMask (cmdCode (s.dev.slot s.dev.cmdHead)) ≠ none) (hc : cmdCode (s.dev.slot s.dev.cmdHead) ≠ code) :
    command code f s = .next s.finishHalt := by
  obtain ⟨hphase, hhead, htail, hslot⟩ := finishHalt_ring s
  unfold command
  simp only [hslot, hphase, hhead, htail, hup, Option.isNone_eq_false_iff.2 (Option.isSome_iff_ne_none.2 h), hc, bne_self_eq_false, beq_eq_false_iff_ne.2 hne,
    beq_eq_false_iff_ne.2 hpre, Bool.or_self, Bool.false_eq_true, if_false, ne_eq, not_false_eq_true, if_true]
end

/-- A record of the command's code that R401 refuses. -/
theorem command_refused {k : Nat} (hpre : s.job.pre ≠ .asked) (hup : s.dev.phase = .up) (hne : s.dev.cmdHead ≠ s.dev.cmdTail)
    (hc : cmdCode (s.dev.slot s.dev.cmdHead) = code) (href : s.dev.refuses (s.dev.slot s.dev.cmdHead) = some k) :
    command code f s = .next (s.finish 1 k 0) := by
  have hf := finishHalt_of_ne hpre
  cases hm : cmdMask (cmdCode (s.dev.slot s.dev.cmdHead)) with
  | none =>
    have hk : k = 1 := by
      simp only [Dev.refuses, hm, Option.some.injEq] at href
      exact href.symm
    rw [command_unknown code f hup hne (by rwa [hf]) hm, hf, hk]
  | some m =>
    unfold command
    simp only [hf, hup, hc, href, bne_self_eq_false, beq_eq_false_iff_ne.2 hne, beq_eq_false_iff_ne.2 hpre, Bool.or_self,
      Bool.false_eq_true, if_false, ne_eq, not_true_eq_false, hc ▸ hm, Option.isNone_some]
    rfl
end

/-- Each command of Table 20-3 but PREEMPT is `command` at its code. -/
theorem exec_command {i : Instr} {code : Nat} (h : (i, code) ∈ commandsOfMbabo) : ∃ f, ∀ s, exec i s = command code f s := by
  simp only [commandsOfMbabo, List.mem_cons, Prod.mk.injEq, List.not_mem_nil, or_false] at h
  rcases h with ⟨rfl, rfl⟩ | ⟨rfl, rfl⟩ | ⟨rfl, rfl⟩ | ⟨rfl, rfl⟩ | ⟨rfl, rfl⟩ | ⟨rfl, rfl⟩ | ⟨rfl, rfl⟩ | ⟨rfl, rfl⟩ | ⟨rfl, rfl⟩ |
    ⟨rfl, rfl⟩ | ⟨rfl, rfl⟩ | ⟨rfl, rfl⟩ | ⟨rfl, rfl⟩ | ⟨rfl, rfl⟩ | ⟨rfl, rfl⟩ | ⟨rfl, rfl⟩ | ⟨rfl, rfl⟩ | ⟨rfl, rfl⟩
  exacts [
    ⟨_, fun s => show execFeatures s = command _ _ s from rfl⟩,
    ⟨_, fun s => show execAttest false s = command _ _ s from rfl⟩,
    ⟨_, fun s => show execStatus s = command _ _ s from rfl⟩,
    ⟨_, fun s => show execJobOpen s = command _ _ s from rfl⟩,
    ⟨_, fun s => show execJobClose s = command _ _ s from rfl⟩,
    ⟨_, fun s => show execAllocSet false s = command _ _ s from rfl⟩,
    ⟨_, fun s => show execSideCheck s = command _ _ s from rfl⟩,
    ⟨_, fun s => show execXlateInval s = command _ _ s from rfl⟩,
    ⟨_, fun s => show execPlace false s = command _ _ s from rfl⟩,
    ⟨_, fun s => show execPoolBind false s = command _ _ s from rfl⟩,
    ⟨_, fun s => show execPoolUnbind s = command _ _ s from rfl⟩,
    ⟨_, fun s => show execResume false s = command _ _ s from rfl⟩,
    ⟨_, fun s => show execCheckpoint false s = command _ _ s from rfl⟩,
    ⟨_, fun s => show execRestore false s = command _ _ s from rfl⟩,
    ⟨_, fun s => show execRingLoad false s = command _ _ s from rfl⟩,
    ⟨_, fun s => show execLinkUp s = command _ _ s from rfl⟩,
    ⟨_, fun s => show execCommLoad false s = command _ _ s from rfl⟩,
    ⟨_, fun s => show execPowerSet s = command _ _ s from rfl⟩]

/-- Where a record of another command is at the head, PREEMPT does nothing. -/
theorem preempt_other {s : State} (h : cmdMask (cmdCode (s.dev.slot s.dev.cmdHead)) ≠ none)
    (hc : cmdCode (s.dev.slot s.dev.cmdHead) ≠ 0x30) : exec .preempt s = .next s := by
  refine (show exec .preempt s = execPreempt s from rfl).trans ?_
  simp [execPreempt, h, hc]

/-! ### R401's first four reasons -/

theorem cmdMask_of_notMem {c : Nat} (h : c ∉ [0x01, 0x02, 0x03, 0x10, 0x11, 0x12, 0x13, 0x14, 0x20, 0x21, 0x22, 0x30, 0x31, 0x32, 0x33,
    0x40, 0x50, 0x51, 0x60]) : cmdMask c = none := by
  simp only [List.mem_cons, List.not_mem_nil, or_false, not_or] at h
  fun_cases cmdMask c <;> first | rfl | omega

section
variable (d : Dev) (r : CmdRec) (m : List W64)

/-- A bit of a record is set that its code reserves. -/
def reservedSet : Bool := r.w0.extractLsb' 16 16 != 0
  || ([r.w1, r.w2, r.w3, r.w4, r.w5].zipIdx.any (fun (w, i) => w &&& ~~~(m.getD i 0) != 0))
/-- The device's mode refuses a code. -/
def Dev.modeBars (c : Nat) : Bool :=
  (match d.mode with
    | .fatal => decide (c ≠ 2 ∧ c ≠ 3)
    | .minimal => !(decide (c = 1) || decide (c = 2) || decide (c = 3))
    | _ => !d.featDone && !(decide (c = 1) || decide (c = 2) || decide (c = 3))) || (decide (c = 1) && d.featDone)
/-- The code needs a feature bit that has not been accepted. -/
def Dev.featureBars (c : Nat) : Bool := match cmdFeature c with | some b => !d.accepted.getLsbD b | none => false

theorem refuses_of_mask (h : cmdMask (cmdCode r) = some m) : d.refuses r =
    if reservedSet r m then some 0x01 else if d.modeBars (cmdCode r) then some 0x02
    else if d.featureBars (cmdCode r) then some 0x0C else if !cmdState (cmdCode r) d.jobSt then some 0x02 else none := by
  unfold Dev.refuses reservedSet Dev.modeBars Dev.featureBars
  rw [h]
  cases d.mode <;> cases cmdFeature (cmdCode r) <;> simp

theorem reservedSet_iff : reservedSet r m = true ↔ r.w0.extractLsb' 16 16 ≠ 0 ∨ r.w1 &&& ~~~(m.getD 0 0) ≠ 0 ∨
    r.w2 &&& ~~~(m.getD 1 0) ≠ 0 ∨ r.w3 &&& ~~~(m.getD 2 0) ≠ 0 ∨ r.w4 &&& ~~~(m.getD 3 0) ≠ 0 ∨ r.w5 &&& ~~~(m.getD 4 0) ≠ 0 := by
  simp only [reservedSet, List.zipIdx_cons, List.zipIdx_nil, List.any_cons, List.any_nil, Bool.or_false, Bool.or_eq_true,
    bne_iff_ne, Nat.zero_add, Nat.reduceAdd]

theorem modeBars_iff (c : Nat) : d.modeBars c = true ↔ (d.mode = .fatal ∧ c ≠ 2 ∧ c ≠ 3) ∨ (d.mode = .minimal ∧ c ∉ [0x01, 0x02, 0x03]) ∨
    (d.mode ≠ .fatal ∧ d.featDone = false ∧ c ∉ [0x01, 0x02, 0x03]) ∨ (c = 1 ∧ d.featDone = true) := by
  unfold Dev.modeBars
  cases d.mode <;> cases d.featDone <;> simp <;> omega

theorem featureBars_iff (c : Nat) : d.featureBars c = true ↔
    ∃ b, (c, b) ∈ [(0x40, 0), (0x21, 1), (0x50, 2), (0x51, 2), (0x13, 3)] ∧ d.accepted.getLsbD b = false := by
  have hf : ∀ b, cmdFeature c = some b ↔ (c, b) ∈ [(0x40, 0), (0x21, 1), (0x50, 2), (0x51, 2), (0x13, 3)] := by
    intro b
    simp only [List.mem_cons, Prod.mk.injEq, List.not_mem_nil, or_false]
    fun_cases cmdFeature c
    case case6 h0 h1 h2 h3 h4 => simp [imp_false.1 h0, imp_false.1 h1, imp_false.1 h2, imp_false.1 h3, imp_false.1 h4]
    all_goals
      simp only [Option.some.injEq, true_and]
      omega
  unfold Dev.featureBars
  simp only [← hf]
  cases cmdFeature c with
  | none => simp
  | some b => simp

theorem cmdState_iff {c : Nat} (j : JobSt) (h : c ∈ [0x01, 0x02, 0x03, 0x10, 0x11, 0x12, 0x13, 0x14, 0x20, 0x21, 0x22, 0x30, 0x31, 0x32,
    0x33, 0x40, 0x50, 0x51, 0x60]) : (!cmdState c j) = true ↔ (c = 0x10 ∧ j ≠ .none) ∨ (c = 0x31 ∧ j ≠ .halted) ∨
      (c = 0x11 ∧ j = .none) ∨ (c ∈ [0x12, 0x13, 0x14, 0x20, 0x21, 0x22, 0x30, 0x32, 0x33, 0x40, 0x51] ∧ j ≠ .opened ∧ j ≠ .halted) := by
  simp only [List.mem_cons, List.not_mem_nil, or_false] at h
  rcases h with rfl | rfl | rfl | rfl | rfl | rfl | rfl | rfl | rfl | rfl | rfl | rfl | rfl | rfl | rfl | rfl | rfl | rfl | rfl <;>
    cases j <;> decide
end

/-! ### STATUS (Table 20-11) -/

section
variable {d : Dev}

theorem status_toNat (h : d.failCount < 256) : d.status.toNat = modeCode d.mode + 4 * d.featDone.toNat + 8 * jobCode d.jobSt +
    256 * d.failCount + 2 ^ 16 * d.lastReason.toNat + 2 ^ 24 * d.fatalCause.toNat := by
  have hm : modeCode d.mode < 4 := by cases d.mode <;> decide
  have hj : jobCode d.jobSt < 4 := by cases d.jobSt <;> decide
  have hf := Bool.toNat_lt d.featDone
  have hr := d.lastReason.isLt
  have hc := d.fatalCause.isLt
  rw [Dev.status, BitVec.toNat_ofNat]
  exact Nat.mod_eq_of_lt (by omega)

theorem status_field (h : d.failCount < 256) (lo n : Nat) : (d.status.extractLsb' lo n).toNat =
    (modeCode d.mode + 4 * d.featDone.toNat + 8 * jobCode d.jobSt + 256 * d.failCount + 2 ^ 16 * d.lastReason.toNat +
      2 ^ 24 * d.fatalCause.toNat) / 2 ^ lo % 2 ^ n := by
  rw [BitVec.extractLsb'_toNat, status_toNat h, Nat.shiftRight_eq_div_pow]

theorem status_fields (h : d.failCount < 256) :
    d.status.extractLsb' 0 2 = (match d.mode with | .normal => 0 | .minimal => 1 | .fatal => 2 | .starting => 3) ∧
    d.status.getLsbD 2 = d.featDone ∧
    d.status.extractLsb' 3 3 = (match d.jobSt with | .none => 0 | .opened => 1 | .halted => 2 | .closing => 3) ∧
    d.status.extractLsb' 6 2 = 0 ∧ (d.status.extractLsb' 8 8).toNat = d.failCount ∧ d.status.extractLsb' 16 8 = d.lastReason ∧
    d.status.extractLsb' 24 8 = d.fatalCause ∧ d.status.extractLsb' 32 32 = 0 := by
  have hm : modeCode d.mode < 4 := by cases d.mode <;> decide
  have hj : jobCode d.jobSt < 4 := by cases d.jobSt <;> decide
  have hf := Bool.toNat_lt d.featDone
  have hr := d.lastReason.isLt
  have hc := d.fatalCause.isLt
  have field := status_field h
  refine ⟨BitVec.eq_of_toNat_eq ?_, ?_, BitVec.eq_of_toNat_eq ?_, BitVec.eq_of_toNat_eq ?_, ?_, BitVec.eq_of_toNat_eq ?_,
    BitVec.eq_of_toNat_eq ?_, BitVec.eq_of_toNat_eq ?_⟩
  · have hv : (match d.mode with | .normal => 0 | .minimal => 1 | .fatal => 2 | .starting => 3 : BitVec 2).toNat = modeCode d.mode := by
      cases d.mode <;> rfl
    rw [field, hv]
    omega
  · have h2 : d.status.getLsbD 2 = (d.status.extractLsb' 2 1).getLsbD 0 := by simp
    rw [h2, BitVec.getLsbD, field, Nat.testBit_zero]
    cases d.featDone <;> simp at hf ⊢ <;> omega
  · have hv : (match d.jobSt with | .none => 0 | .opened => 1 | .halted => 2 | .closing => 3 : BitVec 3).toNat = jobCode d.jobSt := by
      cases d.jobSt <;> rfl
    rw [field, hv]
    omega
  all_goals
    rw [field]
    first | omega | (simp only [BitVec.toNat_zero, BitVec.ofNat_eq_ofNat]; omega)
end

end Sys2Proof.Machine
end

section
/-! SUPPORT. The commands on the device (R397, R400, R404 to R406, R243, R231, R376): what each leaves. -/

namespace Sys2Proof.Machine

/-! ### FEATURES, STATUS and ATTEST -/

section
variable {s : State} {r : CmdRec}

theorem features_accepts (hr : Runs s 0x01 r) (h : r.w1 &&& ~~~s.dev.offered = 0) :
    DoneWith .features s s.dev.offered (fun t => t.dev.accepted = r.w1 ∧ t.dev.featDone = true ∧
      (s.dev.mode = .starting → t.dev.mode = .normal) ∧ (s.dev.mode = .starting → t.dev.failCount = 0) ∧ t.job = s.job) := by
  have hx := (show exec .features s = execFeatures s from rfl).trans (command_runs hr _)
  simp only [h, bne_self_eq_false, Bool.false_eq_true, if_false] at hx
  refine doneWith hx rfl rfl ⟨rfl, rfl, fun hm => ?_, fun hm => ?_, rfl⟩
  · show (if s.dev.mode == .starting then Mode.normal else s.dev.mode) = _
    rw [hm]
    rfl
  · show (if s.dev.mode == .minimal then s.dev.failCount else 0) = _
    rw [hm]
    rfl

theorem features_notOffered (hr : Runs s 0x01 r) (h : r.w1 &&& ~~~s.dev.offered ≠ 0) : RefusedWith .features s 0x0C := by
  have hx := (show exec .features s = execFeatures s from rfl).trans (command_runs hr _)
  simp only [bne_iff_ne.2 h, if_true] at hx
  exact refusedWith hx

theorem status_done (hr : Runs s 0x03 r) : DoneWith .status s s.dev.status (fun t => t.job = s.job) :=
  doneWith ((show exec .status s = execStatus s from rfl).trans (command_runs hr _)) rfl rfl rfl

theorem paByte_low {a : Nat} (h : a < 2 ^ 39) : s.paByte a = s.byte a := by
  unfold State.paByte
  exact if_pos h

theorem paOk_low {a n : Nat} (h : a + n ≤ 2 ^ 39) (hmin : s.dev.minimal = false) : s.paOk a n = true := by
  rw [State.paOk, decide_eq_true h, hmin]
  rfl

theorem paRead_low {a : W64} {n : Nat} (h : a.toNat + n ≤ 2 ^ 39) (hmin : s.dev.minimal = false) :
    s.paRead a n false = some ((List.range n).map (fun i => s.byte (a.toNat + i))) := by
  simp only [State.paRead, paOk_low h hmin, Bool.not_true, Bool.or_self, Bool.false_eq_true, if_false]
  refine congrArg some (List.map_congr_left fun i hi => paByte_low ?_)
  have := List.mem_range.1 hi
  omega

/-- Bytes stored one by one in HBM. -/
theorem foldl_setPa (l : List W8) (a k : Nat) (s : State) (h : a + k + l.length ≤ 2 ^ 39) :
    (l.zipIdx k).foldl (fun s (x : W8 × Nat) => s.setPa (a + x.2) x.1) s = s.setBytes (a + k) l := by
  induction l generalizing s k with
  | nil => rfl
  | cons b l ih =>
    rw [List.length_cons] at h
    rw [List.zipIdx_cons, List.foldl_cons, ih _ _ (by omega), State.setBytes]
    have hset : s.setPa (a + k) b = s.setByte (a + k) b := by
      unfold State.setPa
      exact if_pos (by omega)
    rw [← hset]
    rfl

/-- The report that ATTEST stores: its first 8,192 bytes. -/
def State.attested (s : State) (r : CmdRec) : List W8 :=
  (s.dev.attestation ((List.range 64).map (fun i => s.byte (r.w1.toNat + i)))).take 8192

theorem attest_stores (hr : Runs s 0x02 r) (ha : r.w2.toNat % 64 = 0) (hlen : 8192 ≤ r.w3.toNat) (h1 : r.w1.toNat + 64 ≤ 2 ^ 39)
    (h2 : r.w2.toNat + r.w3.toNat ≤ 2 ^ 39) (hmin : s.dev.minimal = false) :
    DoneWith (.attest false) s (BitVec.ofNat 64 (s.attested r).length) (fun t => ∀ a, t.byte a =
      if r.w2.toNat ≤ a ∧ a < r.w2.toNat + (s.attested r).length then (s.attested r).getD (a - r.w2.toNat) 0 else s.byte a) := by
  have hx := (show exec (.attest false) s = execAttest false s from rfl).trans (command_runs hr _)
  have hfits : (s.attested r).length ≤ 8192 := by simp [State.attested]
  simp only [(and_63 _).2 ha, not_lt.2 hlen, paRead_low h1 hmin, paOk_low h2 hmin, bne_self_eq_false, decide_false, Bool.or_self, Bool.not_true,
    Bool.false_eq_true, if_false] at hx
  have hset := foldl_setPa (s.attested r) r.w2.toNat 0 s (by omega)
  rw [Nat.add_zero] at hset
  change exec _ s = .next (s.answer (.done (BitVec.ofNat 64 (s.attested r).length)
    ((s.attested r).zipIdx.foldl (fun s (x : W8 × Nat) => s.setPa (r.w2.toNat + x.2) x.1) s))) at hx
  rw [hset] at hx
  have hbytes := setBytes_byte s r.w2.toNat (s.attested r)
  have hdev := setBytes_dev s r.w2.toNat (s.attested r)
  generalize s.setBytes r.w2.toNat (s.attested r) = u at hx hbytes hdev
  exact doneWith hx (congrArg Dev.cmdHead hdev) (congrArg Dev.cmdTail hdev) hbytes
end

/-! ### ALLOC_SET and SIDE_CHECK -/

section
variable {s : State} {r : CmdRec} {b : List W8}

section
variable (hr : Runs s 0x12 r) (ha : r.w1.toNat % 16 = 0) (hn : r.w2.toNat ≤ 256) (hb : s.paRead r.w1 (16 * r.w2.toNat) false = some b)
include hr ha hn hb

theorem allocSet_tests : exec (.allocSet false) s = .next (s.answer (match rangesOf b r.w2.toNat with
    | .error k => .refuse k
    | .ok rs => .done 0 (s.modJob (fun j => { j with alloc := rs })).checkDescs)) := by
  have hx := (show exec (.allocSet false) s = execAllocSet false s from rfl).trans (command_runs hr _)
  simp only [(and_15 _).2 ha, not_lt.2 hn, hb, bne_self_eq_false, decide_false, Bool.or_self, Bool.false_eq_true, if_false] at hx
  exact hx.trans (by cases rangesOf b r.w2.toNat <;> rfl)

theorem allocSet_badTable {k : Nat} (he : rangesOf b r.w2.toNat = .error k) : RefusedWith (.allocSet false) s k := by
  have hx := allocSet_tests hr ha hn hb
  rw [he] at hx
  exact refusedWith hx

/-- The table is taken, and no descriptor stays valid whose span it does not hold. -/
theorem allocSet_takes {rs : List Machine.Range} (he : rangesOf b r.w2.toNat = .ok rs) :
    DoneWith (.allocSet false) s 0 (fun t => t.job.alloc = rs ∧ ∀ h, (t.desc h).valid = true →
      (s.desc h).valid = true ∧ t.inAlloc (s.desc h).span.1 (s.desc h).span.2 (s.desc h).isDst = none) := by
  have hx := allocSet_tests hr ha hn hb
  rw [he] at hx
  refine doneWith hx rfl rfl ⟨rfl, fun h hv => ?_⟩
  let u := s.modJob (fun j => { j with alloc := rs })
  have hd : u.checkDescs.desc h = if (u.inAlloc (s.desc h).span.1 (s.desc h).span.2 (s.desc h).isDst).isSome then
      { s.desc h with valid := false } else s.desc h :=
    tget_map (d := Desc.reset) (d' := Desc.reset) (fun _ q => if (u.inAlloc q.span.1 q.span.2 q.isDst).isSome then
      { q with valid := false } else q) s.job.desc h (by split <;> rfl)
  have hv' : (u.checkDescs.desc h).valid = true := hv
  rw [hd] at hv'
  split at hv'
  · cases hv'
  · next hnone => exact ⟨hv', Option.not_isSome_iff_eq_none.1 hnone⟩
end

theorem writeBackIf_empty {d : Nat} (f : Nat → Bool) (h : (s.die d).far = []) : s.writeBackIf d f = s.draw := by
  unfold State.writeBackIf
  rw [h]
  rfl

/-- With empty far caches a flush changes no byte, no owner and no far cache. -/
theorem foldl_flushIf (f : Nat → Bool) (l : List Nat) (s : State) (h : ∀ k ∈ l, (s.die k).far = []) :
    let t := l.foldl (fun s d => s.flushIf d f) s
    t.job.mem = s.job.mem ∧ t.job.era = s.job.era ∧ t.job.checked = s.job.checked ∧ t.job.owner = s.job.owner ∧ t.dev = s.dev := by
  induction l generalizing s with
  | nil => exact ⟨rfl, rfl, rfl, rfl, rfl⟩
  | cons d l ih =>
    have hflush : s.flushIf d f = s.draw.dropIf d f := by
      rw [State.flushIf, writeBackIf_empty f (h d List.mem_cons_self)]
    have hfar : ∀ k ∈ l, ((s.draw.dropIf d f).die k).far = [] := by
      intro k hk
      have hk' := h k (List.mem_cons_of_mem _ hk)
      unfold State.dropIf State.modDie
      rw [setDie_die]
      split
      · next he =>
        subst he
        show List.filter _ (s.die k).far = []
        rw [hk']
        rfl
      · exact hk'
    have h' := ih _ hfar
    rw [List.foldl_cons, hflush]
    exact h'

theorem granuleOf_page (a : Nat) : granuleOf a / 1024 = sidePage a := by
  unfold granuleOf
  omega

theorem sideCheck_checks {q a : Nat} (hr : Runs s 0x13 r) (ha : r.w1.toNat % 65536 = 0) (hside : sideFault r.w1 = none) (hn : 0 < r.w2.toNat)
    (hfit : sidePage r.w1.toNat + r.w2.toNat ≤ 32768) (hfar : ∀ k, k < 4 → (s.die k).far = []) :
    DoneWith .sideCheck s 0 (fun t =>
      tget false t.job.checked q = (if sidePage r.w1.toNat ≤ q ∧ q < sidePage r.w1.toNat + r.w2.toNat then r.w3.getLsbD 0
        else tget false s.job.checked q) ∧
      (sidePage r.w1.toNat ≤ sidePage a → sidePage a < sidePage r.w1.toNat + r.w2.toNat → t.owner a = noOwner) ∧
      ∀ z, t.byte z = s.byte z) := by
  have hx := (show exec .sideCheck s = execSideCheck s from rfl).trans (command_runs hr _)
  have hmax : ¬ 32768 < r.w2.toNat := by omega
  simp only [(and_65535 _).2 ha, hside, hn.ne', hmax, not_lt.2 hfit, Option.isSome_none, bne_self_eq_false, decide_false, Bool.or_self,
    Bool.false_eq_true, if_false] at hx
  generalize sidePage r.w1.toNat = p at hx ⊢
  generalize r.w2.toNat = n at hx ⊢
  obtain ⟨hmem, hera, hchk, -, hdev⟩ := foldl_flushIf (fun x => decide (p ≤ sidePage x) && decide (sidePage x < p + n)) [0, 1, 2, 3] s
    fun k hk => hfar k (by simp at hk; omega)
  generalize ([0, 1, 2, 3] : List Nat).foldl (fun s d => s.flushIf d (fun x => decide (p ≤ sidePage x) && decide (sidePage x < p + n))) s = u
    at hx hmem hera hchk hdev
  refine doneWith hx (congrArg Dev.cmdHead hdev) (congrArg Dev.cmdTail hdev) ⟨?_, fun h1 h2 => ?_, fun z => ?_⟩
  · show tget false (tsets false u.job.checked ((List.range n).map (fun i => (p + i, r.w3.getLsbD 0)))) q = _
    rw [hchk]
    split
    · next hq =>
      obtain ⟨i, rfl⟩ := Nat.exists_eq_add_of_le hq.1
      exact tget_tsets_map false (p + ·) (fun _ => r.w3.getLsbD 0) (List.range n) s.job.checked i (List.mem_range.2 (by omega))
        fun _ _ _ _ h => Nat.add_left_cancel h
    · next hq =>
      refine tget_tsets_ne false _ _ _ fun e he => ?_
      obtain ⟨i, hi, rfl⟩ := List.mem_map.1 he
      have := List.mem_range.1 hi
      dsimp only
      omega
  · have hg := tget_filter noOwner (fun x => !(decide (p ≤ x / 1024) && decide (x / 1024 < p + n))) u.job.owner (granuleOf a)
    simp only [granuleOf_page, h1, h2, decide_true, Bool.and_self, Bool.not_true, Bool.false_eq_true, if_false] at hg
    exact hg
  · show tget 0 u.job.mem z ^^^ u.job.unwritten z = _
    unfold Job.unwritten
    rw [hmem, hera]
    rfl
end

/-! ### XLATE_INVAL and POWER_SET -/

section
variable {s : State} {r : CmdRec}

theorem xlateInval_done (hr : Runs s 0x14 r) : DoneWith .xlateInval s 0 (fun t => t.job = { s.job with tlb := [] }) :=
  doneWith ((show exec .xlateInval s = execXlateInval s from rfl).trans (command_runs hr _)) rfl rfl rfl

/-- One domain of POWER_SET. -/
def State.setPower (s : State) (r : CmdRec) (d : Nat) : State :=
  if r.w1.getLsbD d then s.modDom d (fun x => { x with refill := r.w2.toNat, cap := r.w3.toNat, cut := 0 }) else s

theorem setPower_same (s : State) (r : CmdRec) (d : Nat) : (s.setPower r d).dom d =
    if r.w1.getLsbD d then { s.dom d with refill := r.w2.toNat, cap := r.w3.toNat, cut := 0 } else s.dom d := by
  unfold State.setPower
  split
  · exact modDom_dom_same ..
  · rfl

theorem setPower_ne (s : State) (r : CmdRec) {d e : Nat} (h : e ≠ d) : (s.setPower r d).dom e = s.dom e := by
  unfold State.setPower
  split
  · exact setDom_dom_ne _ _ h
  · rfl

theorem setPower_dev (s : State) (r : CmdRec) (d : Nat) : (s.setPower r d).dev = s.dev := by
  unfold State.setPower
  split <;> rfl

theorem powerSet_sets (hr : Runs s 0x60 r) {d : Nat} (hd : d < 16) (h2 : 0 < r.w2.toNat) (h2' : r.w2.toNat ≤ 65535) (h3 : 0 < r.w3.toNat)
    (h3' : r.w3.toNat ≤ 0x100000) : DoneWith .powerSet s 0 (fun t => t.dom d =
      if r.w1.getLsbD d then { s.dom d with refill := r.w2.toNat, cap := r.w3.toNat, cut := 0 } else s.dom d) := by
  have hx := (show exec .powerSet s = execPowerSet s from rfl).trans (command_runs hr _)
  have hz {x : W64} (h : 0 < x.toNat) : (x == 0) = false := beq_eq_false_iff_ne.2 fun h0 => by simp [h0] at h
  have hu {x y : W64} (h : x.toNat ≤ y.toNat) : BitVec.ult y x = false := by simp [BitVec.ult, h]
  simp only [hz h2, hz h3, hu (y := 65535) h2', hu (y := 0x100000) h3', Bool.or_self, Bool.false_eq_true, if_false] at hx
  change exec _ s = .next (s.answer (.done 0 ((List.range 16).foldl (fun s d => s.setPower r d) s))) at hx
  have hdom := foldl_part (f := fun s d => State.setPower s r d) (obs := State.dom)
    (g := fun d x => if r.w1.getLsbD d then { x with refill := r.w2.toNat, cap := r.w3.toNat, cut := 0 } else x)
    (fun t n => setPower_same t r n) (fun t n m hm => setPower_ne t r hm) (List.range 16) List.nodup_range s d
  have hdev := foldl_keeps (f := fun s d => State.setPower s r d) (obs := State.dev) (fun t n => setPower_dev t r n) (List.range 16) s
  rw [if_pos (List.mem_range.2 hd)] at hdom
  generalize (List.range 16).foldl (fun s d => s.setPower r d) s = u at hx hdom hdev
  exact doneWith hx (congrArg Dev.cmdHead hdev) (congrArg Dev.cmdTail hdev) hdom

theorem powerSet_noRefill (hr : Runs s 0x60 r) (h : r.w2 = 0) : RefusedWith .powerSet s 0x03 := by
  have hx := (show exec .powerSet s = execPowerSet s from rfl).trans (command_runs hr _)
  simp only [h, beq_self_eq_true, Bool.true_or, if_true] at hx
  exact refusedWith hx
end

/-- Settles O57: the ring from what every command does with its head, R401's reasons from their tests, and each command. -/
theorem deviceCommands : Obligations.DeviceCommands := by
  refine ⟨fun s i code k hi => ?_, fun d r m => ⟨rfl, fun hc => ?_, fun hc hm => ?_, fun hf => status_fields hf⟩,
    fun s r b rs q d a => ⟨fun hr => ⟨features_accepts hr, features_notOffered hr⟩, status_done, fun hr ha hlen h1 h2 hmin => ?_,
      fun hr ha hn hb => ⟨allocSet_takes hr ha hn hb, fun k => allocSet_badTable hr ha hn hb⟩,
      fun hr ha hside hn hfit hfar => sideCheck_checks hr ha hside hn hfit hfar, xlateInval_done,
      fun hr hd => ⟨powerSet_sets hr hd, powerSet_noRefill hr⟩⟩⟩
  · obtain ⟨f, hf⟩ := exec_command hi
    obtain ⟨-, hhead, htail, -⟩ := finishHalt_ring s
    refine ⟨fun hpre hup hne hc href => ⟨_, (hf s).trans (command_refused code f hpre hup hne hc href), answeredWith_finish rfl rfl 1 k 0, rfl, rfl⟩,
      fun h => (hf s).trans (command_idle code f h), fun hup hne hpre => ⟨fun hm => ⟨_, (hf s).trans (command_unknown code f hup hne hpre hm),
        answeredWith_finish hhead htail 1 1 0, rfl⟩, fun hm hc => (hf s).trans (command_other code f hup hne hpre hm hc)⟩,
      preempt_other, fun h => h.elim finishHalt_of_busy finishHalt_of_ne⟩
  · unfold Dev.refuses
    rw [cmdMask_of_notMem hc]
  · have href := refuses_of_mask d r m hm
    rw [href]
    refine ⟨fun h => ?_, fun h h1 => ?_, fun h h1 h2 => ?_, fun h h1 h2 h3 => ?_, fun h h1 h2 h3 => ?_⟩
    · rw [if_pos ((reservedSet_iff r m).2 h)]
    all_goals rw [if_neg (mt (reservedSet_iff r m).1 h)]
    · rw [if_pos ((modeBars_iff d _).2 h1)]
    all_goals rw [if_neg (mt (modeBars_iff d _).1 h1)]
    · rw [if_pos ((featureBars_iff d _).2 h2)]
    all_goals rw [if_neg (mt (featureBars_iff d _).1 h2)]
    · rw [if_pos ((cmdState_iff _ hc).2 h3)]
    · rw [if_neg (mt (cmdState_iff _ hc).1 h3)]
  · obtain ⟨t, hx, hans, hbyte⟩ := attest_stores hr ha hlen h1 h2 hmin
    refine ⟨t, hx, hans, fun i hi => ?_, fun hout => ?_⟩
    · rw [hbyte, if_pos ⟨Nat.le_add_right _ _, Nat.add_lt_add_left hi _⟩, Nat.add_sub_cancel_left]
      rfl
    · rw [hbyte]
      exact if_neg fun hin => hout.elim (fun h => absurd hin.1 (not_le.2 h)) fun h => absurd hin.2 (not_lt.2 h)

end Sys2Proof.Machine
end

section
/-! SUPPORT. Starts, FATAL, the rings of Mbabo and the management port (R395, R396, R399, R410 to R412). -/

namespace Sys2Proof.Machine

/-! ### Starts -/

theorem mboxPlace_fits (n : Nat) : mboxFits (mboxPlace n) = true := by
  unfold mboxPlace
  split
  · assumption
  · decide

/-- Places that fit lie within 52 bits. -/
theorem mboxFits_lt {x : Nat × Nat × Nat} (h : mboxFits x = true) : x.1 < 2 ^ 52 ∧ x.2.1 < 2 ^ 52 ∧ x.2.2 < 2 ^ 52 := by
  simp only [mboxFits, Bool.and_eq_true, decide_eq_true_eq, and_assoc] at h
  omega

theorem mboxPlace_words (n : Nat) : mboxFits ((BitVec.ofNat 64 (mboxPlace n).1).toNat, (BitVec.ofNat 64 (mboxPlace n).2.1).toNat,
    (BitVec.ofNat 64 (mboxPlace n).2.2).toNat) = true := by
  have h := mboxPlace_fits n
  obtain ⟨h1, h2, h3⟩ := mboxFits_lt h
  simp only [BitVec.toNat_ofNat]
  rw [Nat.mod_eq_of_lt (by omega), Nat.mod_eq_of_lt (by omega), Nat.mod_eq_of_lt (by omega)]
  exact h

section
variable {s : State}

theorem start_notOff (h : s.dev.phase ≠ .off) : exec .start s = .next s := by
  refine (show exec .start s = execStart s from rfl).trans ?_
  unfold execStart
  rw [if_pos (bne_iff_ne.2 h)]

/-- The device as a start finds it: Mbabo's image read. -/
def Dev.starting (x : Dev) : Dev :=
  { x.readMbabo x.starts with
    starts := x.starts + 1, offered := Config.offered &&& 0x1F, ident := Config.ident, accepted := 0, featDone := false
    fatalCause := 0, mode := .starting, evtDrop := 0, ns := 0 }

/-- The device after a start with fewer than three failures before it, by the first step that fails. -/
def Dev.started (x : Dev) : Dev :=
  let ok (k : Nat) : Bool := Config.startStep x.starts k
  let o := x.starting.readOs x.starts
  { (if !ok 1 then x.starting.startFails 0x81 else if !ok 2 then x.starting.startFails 0x84 else if !ok 3 then x.starting.startFails 0x83
      else if !ok 4 then o.startFails 0x82 else o.handOver x.starts) with failCount := x.failCount + 1 }

/-- The device after a start in minimal mode. -/
def Dev.startedMinimal (x : Dev) : Dev :=
  let ok (k : Nat) : Bool := Config.startStep x.starts k
  let o := x.starting.readOs x.starts
  if !ok 1 then x.starting.startFails 0x81
  else if !ok 4 then { o.startFails 0x82 with mode := .minimal, minimal := true }
  else { o.handOver x.starts with mode := .minimal, minimal := true }

theorem start_starts (h : s.dev.phase = .off) (hf : s.dev.failCount < 3) : exec .start s = .next { s with dev := s.dev.started } := by
  refine (show exec .start s = execStart s from rfl).trans ?_
  have hd : (s.dev.readMbabo s.dev.starts).failCount < 3 := hf
  simp only [execStart, h, bne_self_eq_false, Bool.false_eq_true, if_false]
  rw [if_pos hd]
  refine congrArg (fun d => Host.Outcome.next { s with dev := d }) ?_
  unfold Dev.started
  dsimp only
  split_ifs <;> rfl

theorem start_minimal (h : s.dev.phase = .off) (hf : 3 ≤ s.dev.failCount) :
    exec .start s = .next { s with dev := s.dev.startedMinimal } := by
  refine (show exec .start s = execStart s from rfl).trans ?_
  have hd : ¬ (s.dev.readMbabo s.dev.starts).failCount < 3 := not_lt.2 hf
  simp only [execStart, h, bne_self_eq_false, Bool.false_eq_true, if_false]
  rw [if_neg hd]
  rfl

/-- What every start with fewer than three failures before it leaves. -/
theorem started_fields (x : Dev) : x.started.failCount = x.failCount + 1 ∧ x.started.accepted = 0 ∧ x.started.mode = .starting ∧
    x.started.minimal = x.minimal ∧ x.started.featDone = false ∧ x.started.ns = 0 := by
  unfold Dev.started
  dsimp only
  split_ifs <;> exact ⟨rfl, rfl, rfl, rfl, rfl, rfl⟩

section
variable (x : Dev)

theorem started_step1 (h1 : Config.startStep x.starts 1 = false) : x.started.phase = .failed ∧ x.started.lastReason = 0x81 := by
  simp only [Dev.started, h1, Bool.not_false, if_true]
  exact ⟨rfl, rfl⟩

theorem started_step2 (h1 : Config.startStep x.starts 1 = true) (h2 : Config.startStep x.starts 2 = false) :
    x.started.phase = .failed ∧ x.started.lastReason = 0x84 := by
  simp only [Dev.started, h1, h2, Bool.not_false, Bool.not_true, Bool.false_eq_true, if_false, if_true]
  exact ⟨rfl, rfl⟩

theorem started_step3 (h1 : Config.startStep x.starts 1 = true) (h2 : Config.startStep x.starts 2 = true)
    (h3 : Config.startStep x.starts 3 = false) : x.started.phase = .failed ∧ x.started.lastReason = 0x83 := by
  simp only [Dev.started, h1, h2, h3, Bool.not_false, Bool.not_true, Bool.false_eq_true, if_false, if_true]
  exact ⟨rfl, rfl⟩

variable (h1 : Config.startStep x.starts 1 = true) (h2 : Config.startStep x.starts 2 = true) (h3 : Config.startStep x.starts 3 = true)
include h1 h2 h3

theorem started_step4 (h4 : Config.startStep x.starts 4 = false) : x.started.phase = .failed ∧ x.started.lastReason = 0x82 := by
  simp only [Dev.started, h1, h2, h3, h4, Bool.not_false, Bool.not_true, Bool.false_eq_true, if_false, if_true]
  exact ⟨rfl, rfl⟩

theorem started_up (h4 : Config.startStep x.starts 4 = true) : x.started.phase = .up ∧ x.started.lastReason = x.lastReason ∧
    x.started.mbaboDigest = Config.sha3 (Config.mbaboImage x.starts) ∧ x.started.osDigest = Config.sha3 (Config.osImage x.starts) ∧
    mboxFits (x.started.a0.toNat, x.started.cmdRing.toNat, x.started.evtRing.toNat) = true := by
  have hd : x.started = { (x.starting.readOs x.starts).handOver x.starts with failCount := x.failCount + 1 } := by
    simp only [Dev.started, h1, h2, h3, h4, Bool.not_true, Bool.false_eq_true, if_false]
  rw [hd]
  exact ⟨rfl, rfl, rfl, rfl, mboxPlace_words x.starts⟩
end

section
variable (x : Dev)

theorem startedMinimal_step1 (h1 : Config.startStep x.starts 1 = false) :
    x.startedMinimal.phase = .failed ∧ x.startedMinimal.lastReason = 0x81 := by
  simp only [Dev.startedMinimal, h1, Bool.not_false, if_true]
  exact ⟨rfl, rfl⟩

theorem startedMinimal_step4 (h1 : Config.startStep x.starts 1 = true) (h4 : Config.startStep x.starts 4 = false) :
    x.startedMinimal.phase = .failed ∧ x.startedMinimal.lastReason = 0x82 := by
  simp only [Dev.startedMinimal, h1, h4, Bool.not_false, Bool.not_true, Bool.false_eq_true, if_false, if_true]
  exact ⟨rfl, rfl⟩

theorem startedMinimal_up (h1 : Config.startStep x.starts 1 = true) (h4 : Config.startStep x.starts 4 = true) :
    x.startedMinimal.phase = .up ∧ x.startedMinimal.mode = .minimal ∧ x.startedMinimal.minimal = true := by
  have hd : x.startedMinimal = { (x.starting.readOs x.starts).handOver x.starts with mode := .minimal, minimal := true } := by
    simp only [Dev.startedMinimal, h1, h4, Bool.not_true, Bool.false_eq_true, if_false]
  rw [hd]
  exact ⟨rfl, rfl, rfl⟩
end

theorem startedMinimal_failCount (x : Dev) : x.startedMinimal.failCount = x.failCount := by
  unfold Dev.startedMinimal
  dsimp only
  split_ifs <;> rfl

theorem featuresTimeout_fails (h : s.dev.phase = .up) (hf : s.dev.featDone = false) (hm : s.dev.mode ≠ .fatal) :
    exec .featuresTimeout s = .next (s.modDev (fun d => d.startFails 0x85)) := by
  refine (show exec .featuresTimeout s = execFeaturesTimeout s from rfl).trans ?_
  unfold execFeaturesTimeout
  rw [if_pos (by simp [h, hf, hm])]

theorem featuresTimeout_late (hf : s.dev.featDone = true) : exec .featuresTimeout s = .next s := by
  refine (show exec .featuresTimeout s = execFeaturesTimeout s from rfl).trans ?_
  unfold execFeaturesTimeout
  rw [if_neg (by simp [hf])]
end

/-! ### FATAL -/

/-- A row with nothing under way that would be written. -/
def Row.quieted (r : Row) : Row :=
  { r with
    ops := [], tjoinLeft := [], spawn := none, edgeOut := [], edgeSlot := none, edgeFill := 0, landed := []
    peg := r.peg.map (fun x => (x.1, { x.2 with fires := [] })) }
/-- A die whose far cache and engines are empty. -/
def Die.quieted (y : Die) : Die :=
  { y with far := [], engines := y.engines.map (fun x => (x.1, { x.2 with cmd := none, fault := 0, head := x.2.tail })) }

theorem quiesce_eq (s : State) : s.quiesce = ([0, 1, 2, 3] : List Nat).foldl (fun s d => s.modDie d Die.quieted)
    (s.job.rows.foldl (fun t e => t.modRow e.1 Row.quieted) s) := rfl

/-- What no row and no die enters, the end of what rows and engines have under way leaves alone. -/
theorem quiesce_keeps {γ : Type} {obs : State → γ} (hrow : ∀ t n x, obs (State.setRow t n x) = obs t)
    (hdie : ∀ t d x, obs (State.setDie t d x) = obs t) (s : State) : obs s.quiesce = obs s := by
  rw [quiesce_eq, foldl_keeps (obs := obs) (f := fun (s : State) d => s.modDie d Die.quieted) fun t d => hdie t d _]
  exact foldl_keeps (fun (t : State) (e : Nat × Row) => hrow t e.1 _) _ _

theorem quiesce_die (s : State) {d : Nat} (hd : d < 4) : s.quiesce.die d = (s.die d).quieted := by
  have hin : d ∈ ([0, 1, 2, 3] : List Nat) := by simp; omega
  have hrows := foldl_keeps (f := fun (t : State) (e : Nat × Row) => t.modRow e.1 Row.quieted) (obs := fun t => t.die d)
    (fun t e => modRow_die ..) s.job.rows s
  rw [quiesce_eq]
  generalize s.job.rows.foldl (fun t e => t.modRow e.1 Row.quieted) s = u at hrows ⊢
  rw [← hrows]
  exact (foldl_part (f := fun (s : State) d => s.modDie d Die.quieted) (obs := State.die) (g := fun _ => Die.quieted)
    (fun t n => modDie_die_same ..) (fun t n m hm => setDie_die_ne _ _ hm) [0, 1, 2, 3] (by decide) u d).trans (if_pos hin)

/-- The state that FATAL leaves the job's key and data of: halted, with nothing under way. -/
def State.stilled (s : State) : State := s.haltAll.quiesce

theorem stilled_keeps {γ : Type} {obs : State → γ} (hrow : ∀ t n x, obs (State.setRow t n x) = obs t)
    (hdie : ∀ t d x, obs (State.setDie t d x) = obs t) (hdom : ∀ t d x, obs (State.setDom t d x) = obs t) (s : State) :
    obs s.stilled = obs s :=
  (quiesce_keeps hrow hdie _).trans (haltAll_keeps hdie hdom s)


theorem stilled_die (s : State) {d : Nat} (hd : d < 4) : (s.stilled.die d).far = [] ∧ (s.stilled.die d).halted = true := by
  rw [State.stilled, quiesce_die _ hd]
  exact ⟨rfl, haltAll_halted s hd⟩

/-- The device that FATAL leaves. -/
def Dev.fatal (d : Dev) (cause : BitVec 8) : Dev :=
  { d with
    jobKey := 0, mode := .fatal, fatalCause := cause, lastReason := if d.featDone then d.lastReason else 0x86
    raised := d.raised ++ [⟨9, 0x8000, cause.setWidth 32, 0, none, tget 0 d.clks 0, 0, 0⟩] }

theorem fatal_ends {s : State} {cause : BitVec 8} (h : s.dev.phase = .up) (hm : s.dev.mode ≠ .fatal) (hc : cause.toNat ∈ [1, 2, 3]) :
    ∃ t, exec (.fatal cause) s = .next t ∧ t.dev = s.dev.fatal cause ∧ t.job = { (s.stilled.rekey 0).job with pre := .none } := by
  have hcause : cause ≠ 0 ∧ cause.toNat ≤ 3 := by
    simp only [List.mem_cons, List.not_mem_nil, or_false] at hc
    exact ⟨fun h0 => by simp [h0] at hc, by omega⟩
  have hx : exec (.fatal cause) s = _ := show exec (.fatal cause) s = execFatal cause s from rfl
  simp only [execFatal, h, bne_self_eq_false, beq_eq_false_iff_ne.2 hm, beq_eq_false_iff_ne.2 hcause.1, not_lt.2 hcause.2, decide_false,
    Bool.or_self, Bool.false_eq_true, if_false] at hx
  have hdev : (s.stilled.rekey 0).dev = { s.dev with jobKey := 0 } := by
    rw [rekey_key, stilled_keeps (obs := State.dev) (fun _ _ _ => rfl) (fun _ _ _ => rfl) (fun _ _ _ => rfl)]
  change exec (.fatal cause) s = .next ((((s.stilled.rekey 0).modJob _).modDev _).raise _) at hx
  generalize s.stilled.rekey 0 = u at hx hdev ⊢
  refine ⟨_, hx, ?_, rfl⟩
  simp only [State.raise, modDev_dev, modJob_dev, hdev]
  rfl

/-- What FATAL leaves of the device and of memory. -/
theorem fatal_spec {s : State} {cause : BitVec 8} {d a : Nat} (h : s.dev.phase = .up) (hm : s.dev.mode ≠ .fatal)
    (hc : cause.toNat ∈ [1, 2, 3]) : ∃ t, exec (.fatal cause) s = .next t ∧
      t.dev.mode = .fatal ∧ t.dev.minimal = s.dev.minimal ∧ t.dev.fatalCause = cause ∧ t.dev.jobKey = 0 ∧ t.job.pre = .none ∧
      (sideBase ≤ a → t.byte a = 0) ∧ (s.dev.jobKey ≠ 0 → t.job.mem = [] ∧ t.job.era = s.drawn + 1) ∧
      (s.dev.jobKey = 0 → a < sideBase → t.byte a = s.byte a) ∧ (d < 4 → (t.die d).far = []) ∧ (d < 4 → (t.die d).halted = true) ∧
      (s.dev.featDone = false → t.dev.lastReason = 0x86) ∧
      t.dev.raised = s.dev.raised ++ [⟨9, 0x8000, cause.setWidth 32, 0, none, tget 0 s.dev.clks 0, 0, 0⟩] := by
  obtain ⟨t, hx, hdev, hj⟩ := fatal_ends h hm hc
  have hkey : s.stilled.dev.jobKey = s.dev.jobKey := stilled_keeps (obs := fun t => t.dev.jobKey) (fun _ _ _ => rfl) (fun _ _ _ => rfl) (fun _ _ _ => rfl) s
  have hdrawn : s.stilled.drawn = s.drawn := stilled_keeps (obs := State.drawn) (fun _ _ _ => rfl) (fun _ _ _ => rfl) (fun _ _ _ => rfl) s
  have hbyte : s.stilled.byte a = s.byte a := stilled_keeps (obs := fun t => t.byte a) (fun _ _ _ => rfl) (fun _ _ _ => rfl) (fun _ _ _ => rfl) s
  have hfar (hd : d < 4) := stilled_die s hd
  generalize s.stilled = u at hj hkey hdrawn hbyte hfar
  have htbyte : t.byte a = (u.rekey 0).byte a := (congrArg (fun j : Job => j.byte a) hj).trans rfl
  have htdie : t.die d = u.die d := (congrArg (fun j : Job => tget Die.reset j.dies d) hj).trans (by unfold State.rekey; split <;> rfl)
  refine ⟨t, hx, congrArg Dev.mode hdev, (congrArg Dev.minimal hdev).trans rfl, congrArg Dev.fatalCause hdev, congrArg Dev.jobKey hdev, congrArg Job.pre hj,
    fun ha => htbyte.trans (rekey_byte_side u 0 ha), fun hk => ?_, fun hk ha => ?_, fun hd => htdie ▸ (hfar hd).1,
    fun hd => htdie ▸ (hfar hd).2, fun hf => ?_, (congrArg Dev.raised hdev).trans rfl⟩
  · rw [hj, rekey_of_other (hkey ▸ hk), ← hdrawn]
    exact ⟨rfl, rfl⟩
  · rw [htbyte, rekey_byte_of_same (hkey.trans hk), if_pos ha, hbyte]
  · rw [hdev]
    show (if s.dev.featDone then s.dev.lastReason else 0x86) = _
    rw [hf]
    rfl

/-! ### The management port -/

theorem evtSlot_length (d : Dev) (i : Nat) : (d.evtSlot i).length = 4 := by simp [Dev.evtSlot]

/-- Parts of one length laid end to end: their length, and each of them. -/
theorem flatMap_slots {f : Nat → List W64} {w : Nat} (h : ∀ i, (f i).length = w) (n : Nat) :
    ((List.range n).flatMap f).length = w * n ∧ ∀ i < n, (((List.range n).flatMap f).drop (w * i)).take w = f i := by
  induction n with
  | zero => simp
  | succ n ih =>
    obtain ⟨hlen, hget⟩ := ih
    rw [List.range_succ, List.flatMap_append, List.flatMap_cons, List.flatMap_nil, List.append_nil]
    refine ⟨by rw [List.length_append, hlen, h n, Nat.mul_succ], fun i hi => ?_⟩
    rcases Nat.lt_succ_iff_lt_or_eq.1 hi with hlt | rfl
    · have hroom : w * i + w ≤ w * n := by rw [← Nat.mul_succ]; exact Nat.mul_le_mul_left w hlt
      rw [List.drop_append_of_le_length (by omega), List.take_append_of_le_length (by rw [List.length_drop]; omega)]
      exact hget i hlt
    · rw [List.drop_append, hlen, Nat.sub_self, List.drop_zero, List.drop_eq_nil_of_le (by omega), List.nil_append]
      exact List.take_of_length_le (h i).le

theorem mgmtReadEvents_answers (s : State) : ∃ l, (∃ t, exec .mgmtReadEvents s = .next t ∧ t.dev.mgmtOut = l ∧ t.job = s.job) ∧
    l.length = 4 * 4096 ∧ ∀ i, i < 4096 → (l.drop (4 * i)).take 4 = s.dev.evtSlot i := by
  have h := flatMap_slots (evtSlot_length s.dev) 4096
  generalize hl : (List.range 4096).flatMap s.dev.evtSlot = l at h
  refine ⟨l, ⟨s.mgmt l, ?_, rfl, rfl⟩, h⟩
  rw [← hl]
  rfl

/-! ### The command ring -/

theorem scanSlot_keeps {γ : Type} {obs : State → γ} (hdev : ∀ (t : State) (l : Tbl Nat), obs (t.modDev fun d => { d with preAns := l }) = obs t)
    (hjob : ∀ t : State, obs (t.modJob fun j => { j with pre := .asked, saved := [] }) = obs t) (s : State) (i : Nat) :
    obs (scanSlot s i) = obs s := by
  unfold scanSlot
  dsimp only
  split
  · rfl
  · split
    · exact hdev s _
    · split
      · exact (hjob _).trans (hdev s _)
      · exact hdev s _

section
variable {s : State} {r : CmdRec} {v : Nat}

/-- The record in slot CMD_TAIL. -/
def State.written (s : State) (r : CmdRec) : State := s.modDev (fun d => { d with cmds := tset CmdRec.zero d.cmds d.cmdTail r })

theorem cmdTail_stays (h : v ≠ (s.dev.cmdTail + 1) % 256 ∨ v = s.dev.cmdHead) : exec (.cmdTail r v) s = .next (s.written r) := by
  refine (show exec (.cmdTail r v) s = execCmdTail r v s from rfl).trans ?_
  unfold execCmdTail
  refine if_pos ?_
  rcases h with h | h <;> simp [h]

theorem cmdTail_moves (hup : s.dev.phase = .up) (hv : v = (s.dev.cmdTail + 1) % 256) (hne : v ≠ s.dev.cmdHead) :
    exec (.cmdTail r v) s = .next ((slotsFrom s.dev.cmdHead v).foldl scanSlot ((s.written r).modDev (fun d => { d with cmdTail := v }))) := by
  refine (show exec (.cmdTail r v) s = execCmdTail r v s from rfl).trans ?_
  unfold execCmdTail
  refine if_neg ?_
  simp [hup, ← hv, hne]

theorem cmdTail_enters (hup : s.dev.phase = .up) (hv : v = (s.dev.cmdTail + 1) % 256) (hne : v ≠ s.dev.cmdHead) :
    ∃ t, exec (.cmdTail r v) s = .next t ∧ t.dev.cmdTail = v ∧ t.dev.slot s.dev.cmdTail = r ∧ t.dev.cmdHead = s.dev.cmdHead ∧
      (∀ k, k ≠ s.dev.cmdTail → t.dev.slot k = s.dev.slot k) ∧ t.job.rows = s.job.rows := by
  have keeps {γ : Type} (obs : State → γ) (hdev : ∀ (t : State) (l : Tbl Nat), obs (t.modDev fun d => { d with preAns := l }) = obs t)
      (hjob : ∀ t : State, obs (t.modJob fun j => { j with pre := .asked, saved := [] }) = obs t) :=
    foldl_keeps (scanSlot_keeps hdev hjob) (slotsFrom s.dev.cmdHead v) ((s.written r).modDev (fun d => { d with cmdTail := v }))
  have htail := keeps (fun t => t.dev.cmdTail) (fun _ _ => rfl) fun _ => rfl
  have hhead := keeps (fun t => t.dev.cmdHead) (fun _ _ => rfl) fun _ => rfl
  have hslot (k : Nat) := keeps (fun t => t.dev.slot k) (fun _ _ => rfl) fun _ => rfl
  have hrows := keeps (fun t => t.job.rows) (fun _ _ => rfl) fun _ => rfl
  exact ⟨_, cmdTail_moves hup hv hne, htail, (hslot _).trans (tget_tset_same ..), hhead,
    fun k hk => (hslot k).trans (tget_tset_ne _ _ _ hk), hrows⟩

/-- A doorbell on an empty ring scans the one slot that was filled. -/
theorem slotsFrom_one {a : Nat} (h : a < 256) : slotsFrom a ((a + 1) % 256) = [a] := by
  have h1 : ((a + 1) % 256 + 256 - a) % 256 = 1 := by omega
  simp [slotsFrom, h1, Nat.mod_eq_of_lt h]

/-- A PREEMPT that R401 refuses, as its scan answers it. -/
theorem scanSlot_refused {u : State} {i k : Nat} (hslot : u.dev.slot i = r) (hcode : cmdCode r = 0x30) (hans : tget 0 u.dev.preAns i = 0)
    (href : u.dev.refuses r = some k) : scanSlot u i = u.modDev (fun d => { d with preAns := tset 0 d.preAns i (k + 1) }) := by
  simp only [scanSlot, hslot, hcode, hans, href, ne_eq, not_true_eq_false, decide_false, Bool.or_self, Bool.false_eq_true, if_false]

/-- One that it accepts asks the job to halt. -/
theorem scanSlot_asks {u : State} {i : Nat} (hslot : u.dev.slot i = r) (hcode : cmdCode r = 0x30) (hans : tget 0 u.dev.preAns i = 0)
    (href : u.dev.refuses r = none) (hst : u.dev.jobSt = .opened) (hpre : u.job.pre = .none) : scanSlot u i =
    (u.modDev (fun d => { d with preAns := tset 0 d.preAns i 1 })).modJob (fun j => { j with pre := .asked, saved := [] }) := by
  simp only [scanSlot, hslot, hcode, hans, href, hst, hpre, beq_self_eq_true, Bool.and_self, if_true, ne_eq, not_true_eq_false,
    decide_false, Bool.or_self, Bool.false_eq_true, if_false]

section
variable (hup : s.dev.phase = .up) (hempty : s.dev.cmdHead = s.dev.cmdTail) (hlt : s.dev.cmdTail < 256) (hv : v = (s.dev.cmdTail + 1) % 256)
include hup hempty hlt hv

/-- A record at an empty ring is met by the scan at once. -/
theorem cmdTail_scans : exec (.cmdTail r v) s = .next (scanSlot ((s.written r).modDev (fun d => { d with cmdTail := v })) s.dev.cmdTail) := by
  have hx := cmdTail_moves (r := r) hup hv (by omega)
  rwa [hempty, hv, slotsFrom_one hlt, ← hv, List.foldl_cons, List.foldl_nil] at hx

variable (hcode : cmdCode r = 0x30) (hans : tget 0 s.dev.preAns s.dev.cmdTail = 0)
include hcode hans

theorem cmdTail_asks (href : s.dev.refuses r = none) (hst : s.dev.jobSt = .opened) (hpre : s.job.pre = .none) :
    ∃ t, exec (.cmdTail r v) s = .next t ∧ t.job.pre = .asked :=
  ⟨_, (cmdTail_scans hup hempty hlt hv).trans (congrArg Host.Outcome.next
    (scanSlot_asks (tget_tset_same ..) hcode hans href hst hpre)), rfl⟩

theorem cmdTail_refuses {k : Nat} (href : s.dev.refuses r = some k) :
    ∃ t, exec (.cmdTail r v) s = .next t ∧ t.job.pre = s.job.pre ∧ tget 0 t.dev.preAns s.dev.cmdTail = k + 1 :=
  ⟨_, (cmdTail_scans hup hempty hlt hv).trans (congrArg Host.Outcome.next
    (scanSlot_refused (tget_tset_same ..) hcode hans href)), rfl, (tget_tset_same 0 s.dev.preAns s.dev.cmdTail (k + 1) :)⟩
end
end

/-! ### The window and events -/

theorem windowRead_at (x : Dev) (off : Nat) : off % 8 = 0 → x.windowRead off = match off with
    | 0x00 => x.cmdRing | 0x08 => BitVec.ofNat 64 x.cmdTail | 0x10 => BitVec.ofNat 64 x.cmdHead | 0x18 => x.evtRing
    | 0x20 => BitVec.ofNat 64 x.evtTail | 0x28 => BitVec.ofNat 64 x.evtHead | 0x30 => x.evtDrop | _ => 0 := by
  intro h
  obtain ⟨k, rfl⟩ := Nat.dvd_of_mod_eq_zero h
  have hk : 8 * k / 8 = k := by omega
  unfold Dev.windowRead
  rw [hk]
  by_cases hlt : k < 7
  · interval_cases k <;> rfl
  · obtain ⟨j, rfl⟩ := Nat.exists_eq_add_of_le' (Nat.le_of_not_lt hlt)
    have h8 : 8 * (j + 7) = (8 * j + 7) + 49 := by ring
    rw [h8]
    rfl

theorem evtSlot_writeEvt (d : Dev) (i : Nat) (e : Evt) : (d.writeEvt i e).evtSlot i = e.words := by
  have hget (j : Nat) (hj : j < 4) : tget 0 (d.writeEvt i e).evts (4 * i + j) = e.words.getD j 0 :=
    tget_tsets_map 0 (4 * i + ·) (fun j => e.words.getD j 0) [0, 1, 2, 3] d.evts j (by simp; omega) fun _ _ _ _ h => Nat.add_left_cancel h
  unfold Dev.evtSlot
  rw [List.map_congr_left fun j hj => hget j (List.mem_range.1 hj)]
  rfl

theorem evtSlot_writeEvt_ne (d : Dev) {i j : Nat} (e : Evt) (h : j ≠ i) : (d.writeEvt i e).evtSlot j = d.evtSlot j := by
  unfold Dev.evtSlot
  refine List.map_congr_left fun k hk => tget_tsets_ne 0 _ _ _ fun x hx => ?_
  have hk4 := List.mem_range.1 hk
  simp only [Evt.words, List.zipIdx_cons, List.zipIdx_nil, List.map_cons, List.map_nil, List.mem_cons, List.not_mem_nil, or_false] at hx
  rcases hx with rfl | rfl | rfl | rfl <;> dsimp only <;> omega

section
variable {d : Dev} {e : Evt} {w : W64}

theorem deliver_one (h : e.second = none) (hroom : d.evtRoom ≠ 0) : d.deliver e =
    { d.writeEvt d.evtTail { e with dropped := min 255 d.dropRun } with
      evtTail := (d.evtTail + 1) % 4096, dropRun := 0, irqs := d.irqs + 1 } := by
  simp only [Dev.deliver, h, hroom, if_false]

theorem deliver_dropped (h : e.second = none) (hroom : d.evtRoom = 0) :
    d.deliver e = { d with evtDrop := d.evtDrop + 1, dropRun := d.dropRun + 1 } := by
  simp only [Dev.deliver, h, hroom, if_true]

/-- An event of two records takes two slots. -/
theorem deliver_two (h : e.second = some w) (hroom : 2 ≤ d.evtRoom) (_ : d.evtTail < 4096) :
    (d.deliver e).evtTail = (d.evtTail + 2) % 4096 ∧
      (d.deliver e).evtSlot d.evtTail = ({ e with dropped := min 255 d.dropRun } : Evt).words ∧
      (d.deliver e).evtSlot ((d.evtTail + 1) % 4096) = ({ e with kind := 10, extra := w, dropped := 0 } : Evt).words := by
  have hd : d.deliver e = { (d.writeEvt d.evtTail { e with dropped := min 255 d.dropRun }).writeEvt ((d.evtTail + 1) % 4096)
      { e with kind := 10, extra := w, dropped := 0 } with
      evtTail := ((d.evtTail + 1) % 4096 + 1) % 4096, dropRun := 0, irqs := d.irqs + 2 } := by
    simp only [Dev.deliver, h, not_lt.2 hroom, if_false]
  rw [hd]
  refine ⟨by show ((d.evtTail + 1) % 4096 + 1) % 4096 = _; omega, ?_, evtSlot_writeEvt ..⟩
  exact (evtSlot_writeEvt_ne _ _ (by omega)).trans (evtSlot_writeEvt ..)

theorem words_fields (hk : e.kind < 256) (hs : e.source < 65536) (hd : e.dropped < 256) : ∃ h, e.words = [h, e.clk, e.ns, e.extra] ∧
    (h.extractLsb' 0 8).toNat = e.kind ∧ (h.extractLsb' 8 16).toNat = e.source ∧ (h.extractLsb' 24 8).toNat = e.dropped ∧
    h.extractLsb' 32 32 = e.payload := by
  have hp := e.payload.isLt
  have field (lo n : Nat) : ((BitVec.ofNat 64 (e.kind + 256 * e.source + 2 ^ 24 * e.dropped + 2 ^ 32 * e.payload.toNat)).extractLsb' lo n).toNat =
      (e.kind + 256 * e.source + 2 ^ 24 * e.dropped + 2 ^ 32 * e.payload.toNat) / 2 ^ lo % 2 ^ n := by
    have hlt : e.kind + 256 * e.source + 2 ^ 24 * e.dropped + 2 ^ 32 * e.payload.toNat < 2 ^ 64 := by omega
    rw [BitVec.extractLsb'_toNat, BitVec.toNat_ofNat, Nat.mod_eq_of_lt hlt, Nat.shiftRight_eq_div_pow]
  refine ⟨_, rfl, ?_, ?_, ?_, BitVec.eq_of_toNat_eq ?_⟩
  all_goals
    rw [field]
    omega
end

section
variable {s : State} {e : Evt}

/-- With one event raised EVENT_DELIVER delivers that one, with the count of ns. -/
theorem eventDeliver_one (hup : s.dev.phase = .up) (hraised : s.dev.raised = [e]) : ∃ t, exec .eventDeliver s = .next t ∧ t.job = s.job ∧
    ∃ d : Dev, t.dev = d.deliver { e with ns := s.dev.ns } ∧ d = { s.dev with raised := [], corrected := d.corrected } := by
  have hx : exec .eventDeliver s = _ := show exec .eventDeliver s = execEventDeliver s from rfl
  have hl : s.correctSome.dev.raised = [e] := hraised
  have hnext : s.correctSome.nextEvent = some (e, s.correctSome.modDev (fun d => { d with raised := [] })) := by
    simp [State.nextEvent, hl, Nat.mod_one]
  simp only [execEventDeliver, hup, bne_self_eq_false, Bool.false_eq_true, if_false, hnext] at hx
  exact ⟨_, hx, rfl, _, rfl, rfl⟩
end

/-- Settles O56: starts from their steps, FATAL from what stills the device, and the rings slot by slot. -/
theorem starts : Obligations.Starts := by
  refine ⟨fun s cause d a => ⟨fun h hf => ⟨_, start_starts h hf, rfl, ?_⟩, fun h hf => ⟨_, start_minimal h hf, startedMinimal_failCount s.dev, ?_⟩,
    start_notOff, fun h hf hm => ⟨_, featuresTimeout_fails h hf hm, rfl, rfl, rfl⟩, featuresTimeout_late, fun h hm hc => ?_,
    ⟨_, rfl, rfl, rfl, rfl, rfl, rfl, rfl, rfl, rfl, rfl, rfl, rfl⟩, ⟨_, rfl, rfl, rfl, rfl, rfl, rfl, rfl, rfl, rfl, rfl, rfl, rfl⟩,
    ⟨_, rfl, rfl, rfl⟩, ⟨_, rfl, rfl, rfl⟩, mgmtReadEvents_answers s, ⟨_, by simp, _, rfl, rfl, rfl⟩⟩,
    fun s r v off w e d => ⟨fun hup _ hv hne => cmdTail_enters hup hv hne, fun h => ⟨_, cmdTail_stays h, rfl, rfl⟩,
    fun hup hempty hlt hv hcode hans => ⟨cmdTail_asks hup hempty hlt hv hcode hans, fun k => cmdTail_refuses hup hempty hlt hv hcode hans⟩,
    rfl, rfl, windowRead_at s.dev off, fun hup hraised hsec hlt => ?_, deliver_two, words_fields⟩⟩
  · obtain ⟨h0, h1, h2, h3, h4, h5⟩ := started_fields s.dev
    refine ⟨h0, h1, h2, h3, h4, h5, fun ⟨a1, a2, a3, a4⟩ => started_up s.dev a1 a2 a3 a4, fun hno => ?_, fun a1 => (started_step1 s.dev a1).2,
      fun a1 a2 => (started_step2 s.dev a1 a2).2, fun a1 a2 a3 => (started_step3 s.dev a1 a2 a3).2,
      fun a1 a2 a3 a4 => (started_step4 s.dev a1 a2 a3 a4).2⟩
    cases a1 : Config.startStep s.dev.starts 1 with
    | false => exact (started_step1 s.dev a1).1
    | true => cases a2 : Config.startStep s.dev.starts 2 with
      | false => exact (started_step2 s.dev a1 a2).1
      | true => cases a3 : Config.startStep s.dev.starts 3 with
        | false => exact (started_step3 s.dev a1 a2 a3).1
        | true => cases a4 : Config.startStep s.dev.starts 4 with
          | false => exact (started_step4 s.dev a1 a2 a3 a4).1
          | true => exact absurd ⟨a1, a2, a3, a4⟩ hno
  · refine ⟨fun a1 a4 => startedMinimal_up s.dev a1 a4, fun hno => ?_, fun a1 => (startedMinimal_step1 s.dev a1).2,
      fun a1 a4 => (startedMinimal_step4 s.dev a1 a4).2⟩
    cases a1 : Config.startStep s.dev.starts 1 with
    | false => exact (startedMinimal_step1 s.dev a1).1
    | true => exact (startedMinimal_step4 s.dev a1 (hno.resolve_left (by simp [a1]))).1
  · exact fatal_spec h hm hc
  · obtain ⟨t, hx, hj, y, hdev, hy⟩ := eventDeliver_one hup hraised
    have hroom : y.evtRoom = s.dev.evtRoom := by rw [hy]; rfl
    have htail : y.evtTail = s.dev.evtTail := by rw [hy]
    refine ⟨fun hne => ⟨t, hx, ?_⟩, fun hz => ⟨t, hx, ?_⟩⟩
    · rw [hdev, deliver_one (e := { e with ns := s.dev.ns }) hsec (by rwa [hroom])]
      refine ⟨by rw [hy]; rfl, by rw [← htail], ?_, rfl, hj⟩
      rw [← htail]
      exact (evtSlot_writeEvt y y.evtTail _).trans (by rw [hy])
    · rw [hdev, deliver_dropped (e := { e with ns := s.dev.ns }) hsec (by rwa [hroom]), hy]
      exact ⟨rfl, rfl, rfl, rfl, rfl⟩

end Sys2Proof.Machine
end

section
/-! SUPPORT. Task queues, waves and stealing (R318 to R324, R333). -/

namespace Sys2Proof.Machine

/-! ### A record's words and bytes (R316) -/

theorem leVal_append (l m : List W8) : leVal (l ++ m) = leVal l + 256 ^ l.length * leVal m := by
  induction l with
  | nil => simp [leVal]
  | cons b l ih =>
    simp only [leVal, List.cons_append, List.foldr_cons, List.length_cons] at ih ⊢
    rw [ih, Nat.pow_succ]
    ring

/-- Two words laid out in a row are one of twice their size. -/
theorem ofNat_leVal_pair (x y : W32) : BitVec.ofNat 64 (leVal (leList 4 x.toNat ++ leList 4 y.toNat)) = y ++ x := by
  rw [leVal_append, leVal_leList, leVal_leList, leList_length]
  apply BitVec.eq_of_toNat_eq
  rw [BitVec.toNat_ofNat, BitVec.toNat_append, ← Nat.shiftLeft_add_eq_or_of_lt x.isLt, Nat.shiftLeft_eq]
  omega

theorem extractLsb'_pair (x y : W32) : (y ++ x).extractLsb' 0 32 = x ∧ (y ++ x).extractLsb' 32 32 = y :=
  ⟨BitVec.extractLsb'_append_eq_right, BitVec.extractLsb'_append_eq_left⟩

theorem bytes_word (t : TaskRec) {j : Nat} (h : j < 16) : (t.bytes.drop (4 * j)).take 4 = leList 4 (t.word j).toNat := by
  interval_cases j <;> rfl

theorem bytes_pair (t : TaskRec) {j : Nat} (h : j < 3) :
    (t.bytes.drop (8 * j)).take 8 = leList 4 (t.word (2 * j)).toNat ++ leList 4 (t.word (2 * j + 1)).toNat := by
  interval_cases j <;> rfl

theorem bytes_length (t : TaskRec) : t.bytes.length = 64 := rfl

/-- A record laid out in memory reads back, word by word. -/
theorem recOf_bytes_word (t : TaskRec) {k : Nat} (h : k < 16) : (recOf t.bytes).word k = t.word k := by
  by_cases h6 : k < 6
  · have hp (j : Nat) (hj : j < 3) : BitVec.ofNat 64 (leVal ((t.bytes.drop (8 * j)).take 8)) = t.word (2 * j + 1) ++ t.word (2 * j) := by
      rw [bytes_pair t hj, ofNat_leVal_pair]
    have h0 : (recOf t.bytes).entry = _ := hp 0 (by omega)
    have h1 : (recOf t.bytes).frame = _ := hp 1 (by omega)
    have h2 : (recOf t.bytes).join = _ := hp 2 (by omega)
    interval_cases k
    · exact (congrArg (BitVec.extractLsb' 0 32) h0).trans (extractLsb'_pair _ _).1
    · exact (congrArg (BitVec.extractLsb' 32 32) h0).trans (extractLsb'_pair _ _).2
    · exact (congrArg (BitVec.extractLsb' 0 32) h1).trans (extractLsb'_pair _ _).1
    · exact (congrArg (BitVec.extractLsb' 32 32) h1).trans (extractLsb'_pair _ _).2
    · exact (congrArg (BitVec.extractLsb' 0 32) h2).trans (extractLsb'_pair _ _).1
    · exact (congrArg (BitVec.extractLsb' 32 32) h2).trans (extractLsb'_pair _ _).2
  · have hk : (recOf t.bytes).word k = tget 0 (recOf t.bytes).args (k - 6) := by
      simp only [TaskRec.word, show ¬k < 2 by omega, show ¬k < 4 by omega, h6, if_false]
    have hb := bytes_word t h
    rw [show 4 * k = 24 + 4 * (k - 6) by omega] at hb
    refine hk.trans ((tget_tabulate 0 _ (by omega)).trans ?_)
    dsimp only
    rw [hb, ofNat_leVal_leList, BitVec.ofNat_toNat, BitVec.setWidth_eq]

/-! ### Queues -/

section
variable {s t : State}

theorem Translated.die (h : Translated s t) (n : Nat) : t.die n = s.die n := by rw [h]; rfl
theorem Translated.byte (h : Translated s t) (a : Nat) : t.byte a = s.byte a := by rw [h]; rfl
theorem Translated.tq (h : Translated s t) (d q : Nat) : t.tq d q = s.tq d q := by rw [h]; rfl
theorem Translated.bytes (h : Translated s t) (a n : Nat) : t.bytes a n = s.bytes a n := by rw [h]; rfl
end

theorem ringSlot_translated (s : State) (d : Nat) (x : TQueue) (i : Nat) (use : Use) :
    Translated s (s.ringSlot d x i use).2 := by
  have h := translate_translated s d (x.base.toNat + 64 * (i % x.slots)) use
  unfold State.ringSlot
  generalize s.translate d (x.base.toNat + 64 * (i % x.slots)) use = r at h
  obtain ⟨e | pa, u⟩ := r <;> exact h

theorem setTq_tq (s : State) (d q k : Nat) (x : TQueue) : (s.setTq d q x).tq d k = if k = q then x else s.tq d k := by
  rw [State.tq, State.setTq, modDie_die_same]
  exact tget_tset _ _ _ _ _

/-- What a record entering its queue leaves of the state: its bytes, where its slot is mapped, and the queue's count. -/
theorem enqueue_eq (s : State) (d q : Nat) (t : TaskRec) : ∃ u, Translated s u ∧
    s.enqueue d q t = ((match (s.ringSlot d (s.tq d q) ((s.tq d q).head + (s.tq d q).count) .write).1 with
      | some pa => u.setBytes pa t.bytes
      | none => u).setTq d q { s.tq d q with count := (s.tq d q).count + 1 }).modDie d
        (fun y => { y with steal := ⟨y.steal.asked, none⟩ }) :=
  ⟨_, ringSlot_translated s d (s.tq d q) ((s.tq d q).head + (s.tq d q).count) .write, rfl⟩

section
variable (s : State) (d q : Nat) (t : TaskRec)

theorem enqueue_die_inner : ∃ y : Die, (s.enqueue d q t).die d = { y with
      queues := tset .reset y.queues q { s.tq d q with count := (s.tq d q).count + 1 }, steal := ⟨y.steal.asked, none⟩ } ∧
    y = s.die d := by
  obtain ⟨u, hu, he⟩ := enqueue_eq s d q t
  refine ⟨_, ?_, rfl⟩
  rw [he, modDie_die_same, State.setTq, modDie_die_same]
  split
  · rw [setBytes_die, hu.die]
  · rw [hu.die]

theorem enqueue_tq (k : Nat) :
    (s.enqueue d q t).tq d k = if k = q then { s.tq d q with count := (s.tq d q).count + 1 } else s.tq d k := by
  obtain ⟨y, hy, rfl⟩ := enqueue_die_inner s d q t
  rw [State.tq, hy]
  exact tget_tset _ _ _ _ _

theorem enqueue_arriving : ((s.enqueue d q t).die d).arriving = (s.die d).arriving := by
  obtain ⟨y, hy, rfl⟩ := enqueue_die_inner s d q t
  rw [hy]

theorem enqueue_row (n : Nat) : (s.enqueue d q t).row n = s.row n := by
  obtain ⟨u, hu, he⟩ := enqueue_eq s d q t
  rw [he, modDie_row, State.setTq, modDie_row]
  split
  · rw [setBytes_row, hu.row]
  · rw [hu.row]

theorem enqueue_byte {pa : Nat} (h : (s.ringSlot d (s.tq d q) ((s.tq d q).head + (s.tq d q).count) .write).1 = some pa) (z : Nat) :
    (s.enqueue d q t).byte z = if pa ≤ z ∧ z < pa + 64 then t.bytes.getD (z - pa) 0 else s.byte z := by
  obtain ⟨u, hu, he⟩ := enqueue_eq s d q t
  rw [he, modDie_byte, State.setTq, modDie_byte, h]
  dsimp only
  rw [setBytes_byte, hu.byte, bytes_length]

theorem enqueue_bytes {pa : Nat} (h : (s.ringSlot d (s.tq d q) ((s.tq d q).head + (s.tq d q).count) .write).1 = some pa) :
    (s.enqueue d q t).bytes pa 64 = t.bytes := by
  refine List.ext_getElem (by simp [State.bytes, bytes_length]) fun i hi hj => ?_
  have hj' : i < 64 := hj
  simp only [State.bytes, List.getElem_map, List.getElem_range, enqueue_byte s d q t h]
  rw [if_pos (by omega), Nat.add_sub_cancel_left, List.getD_eq_getElem?_getD, List.getElem?_eq_getElem hj, Option.getD_some]
end

/-- Records that enter a queue in turn. -/
theorem enqueues (d q : Nat) (l : List TaskRec) (s : State) :
    let u := l.foldl (fun s t => s.enqueue d q t) s
    (∀ k, u.tq d k = if k = q then { s.tq d q with count := (s.tq d q).count + l.length } else s.tq d k) ∧
      (u.die d).arriving = (s.die d).arriving ∧ ∀ n, u.row n = s.row n := by
  induction l generalizing s with
  | nil => exact ⟨fun k => by split <;> simp_all, rfl, fun _ => rfl⟩
  | cons t l ih =>
    obtain ⟨hq, ha, hr⟩ := ih (s.enqueue d q t)
    refine ⟨fun k => (hq k).trans ?_, ha.trans (enqueue_arriving s d q t), fun n => (hr n).trans (enqueue_row s d q t n)⟩
    simp only [enqueue_tq, if_true, List.length_cons]
    split
    · simp only [TQueue.mk.injEq, true_and, and_true]
      omega
    · rfl

/-- The records of one SPAWN, alone on their way, enter their queue in order. -/
theorem exec_taskEnqueue {s : State} {d : Nat} {x : Arriving} (h : (s.die d).arriving = [x]) :
    ∃ u, exec (.taskEnqueue d) s = .next u ∧
      u.tq d x.pri = { s.tq d x.pri with
        count := (s.tq d x.pri).count + x.recs.length, reserved := (s.tq d x.pri).reserved - x.recs.length } ∧ (u.die d).arriving = [] ∧
      (∀ k, k ≠ x.pri → u.tq d k = s.tq d k) ∧ ∀ n, u.row n = s.row n := by
  have he : exec (.taskEnqueue d) s = execTaskEnqueue d s := rfl
  simp only [execTaskEnqueue, h, List.length_cons, List.length_nil, Nat.zero_add, Nat.mod_one, List.getElem?_cons_zero] at he
  have herase : ([x].erase x) = [] := List.erase_cons_head ..
  rw [herase] at he
  set v := s.draw.modDie d (fun y => { y with arriving := [] }) with hv
  have hvq (k : Nat) : v.tq d k = s.tq d k := by rw [State.tq, hv, modDie_die_same]; rfl
  have hva : (v.die d).arriving = [] := by rw [hv, modDie_die_same]
  have hvr (n : Nat) : v.row n = s.row n := rfl
  obtain ⟨hq, ha, hr⟩ := enqueues d x.pri x.recs
    (v.setTq d x.pri { v.tq d x.pri with reserved := (v.tq d x.pri).reserved - x.recs.length })
  refine ⟨_, he, by rw [hq, if_pos rfl, setTq_tq, if_pos rfl, hvq], ha.trans ?_, fun k hk => ?_, fun n => (hr n).trans (hvr n)⟩
  · rw [State.setTq, modDie_die_same]
    exact hva
  · rw [hq, if_neg hk, setTq_tq, if_neg hk, hvq]

/-! ### The window (R320) -/

/-- What the oldest record leaves of its queue's die and of the rows. -/
theorem dequeue_die (s : State) (d q : Nat) : (s.dequeue d q).2.die d = { s.die d with
      queues := tset .reset (s.die d).queues q { s.tq d q with count := (s.tq d q).count - 1, head := ((s.tq d q).head + 1) % (s.tq d q).slots } } ∧
    ∀ n, (s.dequeue d q).2.row n = s.row n := by
  have h := ringSlot_translated s d (s.tq d q) (s.tq d q).head .read
  dsimp only [State.dequeue]
  generalize s.ringSlot d (s.tq d q) (s.tq d q).head .read = r at h
  obtain ⟨o, u⟩ := r
  have hd : (u.setTq d q { s.tq d q with count := (s.tq d q).count - 1, head := ((s.tq d q).head + 1) % (s.tq d q).slots }).die d = _ :=
    modDie_die_same u d _
  rw [h.die] at hd
  cases o <;> exact ⟨hd, fun n => h.row n⟩

theorem dequeue_rec {s : State} {d q pa : Nat} (h : (s.ringSlot d (s.tq d q) (s.tq d q).head .read).1 = some pa) :
    (s.dequeue d q).1 = recOf (s.bytes pa 64) := by
  have ht := ringSlot_translated s d (s.tq d q) (s.tq d q).head .read
  dsimp only [State.dequeue]
  generalize s.ringSlot d (s.tq d q) (s.tq d q).head .read = r at h ht
  obtain ⟨o, u⟩ := r
  obtain rfl : o = some pa := h
  exact congrArg recOf (ht.bytes pa 64)

/-- The queue that is served: the highest priority that holds a record. -/
theorem served_queue {f : Nat → Nat} {q : Nat} (hq : q < 4) (hup : ∀ p, q < p → p < 4 → f p = 0) (hne : f q ≠ 0) :
    [3, 2, 1, 0].find? (fun p => f p ≠ 0) = some q := by
  have h3 := hup 3
  have h2 := hup 2
  have h1 := hup 1
  interval_cases q <;> simp_all

theorem served_none {f : Nat → Nat} (h : ∀ p, p < 4 → f p = 0) : [3, 2, 1, 0].find? (fun p => f p ≠ 0) = none := by
  simp [h]

section
variable {s : State} {d q : Nat}

theorem exec_windowFill (hh : (s.die d).halted = false) (hl : (s.die d).window.length < 256) (hq : q < 4)
    (hup : ∀ p, q < p → p < 4 → (s.tq d p).count = 0) (hne : (s.tq d q).count ≠ 0) :
    ∃ u, exec (.windowFill d) s = .next u ∧
      u.tq d q = { s.tq d q with count := (s.tq d q).count - 1, head := ((s.tq d q).head + 1) % (s.tq d q).slots } ∧
      (u.die d).window = (s.die d).window ++ [⟨(s.dequeue d q).1, q, (s.die d).clk⟩] ∧
      (∀ k, k ≠ q → u.tq d k = s.tq d k) ∧ ∀ n, u.row n = s.row n := by
  have he : exec (.windowFill d) s = execWindowFill d s := rfl
  obtain ⟨hd, hr⟩ := dequeue_die s d q
  simp only [execWindowFill, hh, Bool.false_or, decide_eq_true_eq, Nat.not_le.2 hl, if_false,
    served_queue (f := fun p => (s.tq d p).count) hq hup hne] at he
  have htq (k : Nat) : ((s.dequeue d q).2.modDie d (fun y => { y with
      window := y.window ++ [⟨(s.dequeue d q).1, q, y.clk⟩] })).tq d k = if k = q then
        { s.tq d q with count := (s.tq d q).count - 1, head := ((s.tq d q).head + 1) % (s.tq d q).slots } else s.tq d k := by
    rw [State.tq, modDie_die_same, hd]
    exact tget_tset _ _ _ _ _
  refine ⟨_, he, (htq q).trans (if_pos rfl), ?_, fun k hk => (htq k).trans (if_neg hk), hr⟩
  rw [modDie_die_same, hd]

theorem exec_windowFill_none (h : (s.die d).halted = true ∨ 256 ≤ (s.die d).window.length ∨ ∀ p, p < 4 → (s.tq d p).count = 0) :
    exec (.windowFill d) s = .next s := by
  refine (show exec (.windowFill d) s = execWindowFill d s from rfl).trans ?_
  unfold execWindowFill
  rcases h with h | h | h
  · simp only [h, Bool.true_or, if_true]
  · simp only [h, decide_true, Bool.or_true, if_true]
  · rw [served_none (f := fun p => (s.tq d p).count) h]
    exact ite_self _

/-! ### Continuations (R333) -/

theorem exec_continuationEnqueue {c : Nat × TaskRec} (hc : (s.die d).cont.find? (fun x => x.1 == q) = some c) :
    ((s.tq d q).free ≠ 0 → exec (.continuationEnqueue d q) s =
      .next ((s.modDie d (fun y => { y with cont := y.cont.erase c })).enqueue d q c.2)) ∧
    ((s.tq d q).free = 0 → exec (.continuationEnqueue d q) s = .next s) := by
  have he : exec (.continuationEnqueue d q) s = execContinuationEnqueue d q s := rfl
  simp only [execContinuationEnqueue, hc] at he
  exact ⟨fun h => he.trans (if_neg h), fun h => he.trans (if_pos h)⟩

theorem exec_taskEnqueue_none (h : (s.die d).arriving = []) : exec (.taskEnqueue d) s = .next s := by
  refine (show exec (.taskEnqueue d) s = execTaskEnqueue d s from rfl).trans ?_
  unfold execTaskEnqueue
  rw [h]
  rfl
end

/-! ### Waves (R321, R322) -/

theorem le_foldl_max {α : Type} (f : α → Nat) (l : List α) (m : Nat) :
    m ≤ l.foldl (fun p x => max p (f x)) m ∧ (∀ x ∈ l, f x ≤ l.foldl (fun p x => max p (f x)) m) ∧
      (l.foldl (fun p x => max p (f x)) m = m ∨ ∃ x ∈ l, l.foldl (fun p x => max p (f x)) m = f x) := by
  induction l generalizing m with
  | nil => simp
  | cons y l ih =>
    obtain ⟨h1, h2, h3⟩ := ih (max m (f y))
    rw [List.foldl_cons]
    refine ⟨(Nat.le_max_left ..).trans h1, fun x hx => ?_, ?_⟩
    · rcases List.mem_cons.1 hx with rfl | hx
      · exact (Nat.le_max_right ..).trans h1
      · exact h2 x hx
    · rcases h3 with h3 | ⟨x, hx, h3⟩
      · rcases Nat.le_total m (f y) with h | h
        · exact .inr ⟨y, List.mem_cons_self, h3.trans (Nat.max_eq_right h)⟩
        · exact .inl (h3.trans (Nat.max_eq_left h))
      · exact .inr ⟨x, List.mem_cons_of_mem _ hx, h3⟩

/-- The highest priority in a window. -/
def topPri (l : List WinRec) : Nat := l.foldl (fun p x => max p x.pri) 0

/-- The records of the highest priority whose entry is `e`. -/
def entryGroup (l : List WinRec) (e : W64) : List WinRec :=
  (l.filter (fun x => x.pri == topPri l)).filter (fun x => x.task.entry == e)

theorem mem_entryGroup {l : List WinRec} {e : W64} {x : WinRec} :
    x ∈ entryGroup l e ↔ x ∈ l ∧ x.pri = topPri l ∧ x.task.entry = e := by
  simp [entryGroup, and_comm]

theorem exists_top {l : List WinRec} (h : l ≠ []) : ∃ x ∈ l, x.pri = topPri l := by
  rcases (le_foldl_max WinRec.pri l 0).2.2 with h0 | ⟨x, hx, h1⟩
  · obtain ⟨x, hx⟩ := List.exists_mem_of_ne_nil l h
    have hle := (le_foldl_max WinRec.pri l 0).2.1 x hx
    rw [h0] at hle
    exact ⟨x, hx, (Nat.le_zero.1 hle).trans h0.symm⟩
  · exact ⟨x, hx, h1.symm⟩

/-- The first entry with the most records, of several with some. -/
theorem find_largest {g : W64 → List WinRec} {es : List W64} (hne : es ≠ []) (hg : ∀ e ∈ es, g e ≠ []) :
    ∃ e ∈ es, es.find? (fun e => (g e).length == es.foldl (fun m e => max m (g e).length) 0) = some e := by
  obtain ⟨-, hle, hmax⟩ := le_foldl_max (fun e => (g e).length) es 0
  cases h : es.find? (fun e => (g e).length == es.foldl (fun m e => max m (g e).length) 0) with
  | some e => exact ⟨e, List.mem_of_find?_eq_some h, rfl⟩
  | none =>
    have hno : ∀ e ∈ es, ¬(g e).length = es.foldl (fun m e => max m (g e).length) 0 := by simpa using List.find?_eq_none.1 h
    rcases hmax with h0 | ⟨e, he, h1⟩
    · obtain ⟨e, he⟩ := List.exists_mem_of_ne_nil es hne
      have hz := hle e he
      rw [h0] at hz
      exact absurd (List.length_eq_zero_iff.1 (Nat.le_zero.1 hz)) (hg e he)
    · exact absurd h1.symm (hno e he)

/-- The entries among which a wave is chosen while none has stood for long: those that the row holds, or else all. -/
def waveEntries (l : List WinRec) (res : List W64) : List W64 :=
  let es := ((l.filter (fun x => x.pri == topPri l)).map (fun x => x.task.entry)).eraseDups
  let near := es.filter res.contains
  if near.isEmpty then es else near

section
variable {l : List WinRec} (h : l ≠ [])

theorem entryGroup_entry {y : WinRec} (hy : y ∈ l.filter (fun x => x.pri == topPri l)) : entryGroup l y.task.entry ≠ [] :=
  List.ne_nil_of_mem (mem_entryGroup.2 ⟨(List.mem_filter.1 hy).1, by simpa using (List.mem_filter.1 hy).2, rfl⟩)

theorem entryGroup_waveEntries {res : List W64} {e : W64} (he : e ∈ waveEntries l res) : entryGroup l e ≠ [] := by
  have hes : e ∈ ((l.filter (fun x => x.pri == topPri l)).map (fun x => x.task.entry)).eraseDups := by
    unfold waveEntries at he
    dsimp only at he
    split at he
    · exact he
    · exact (List.mem_filter.1 he).1
  obtain ⟨y, hy, rfl⟩ := List.mem_map.1 (List.mem_eraseDups.1 hes)
  exact entryGroup_entry hy

include h

theorem waveEntries_ne_nil (res : List W64) : waveEntries l res ≠ [] := by
  obtain ⟨x, hx, hp⟩ := exists_top h
  have hrs : x ∈ l.filter (fun x => x.pri == topPri l) := by simp [hx, hp]
  unfold waveEntries
  dsimp only
  split
  · exact List.ne_nil_of_mem (List.mem_eraseDups.2 (List.mem_map_of_mem hrs))
  · rwa [List.isEmpty_iff] at *

/-- A wave is the first 32 records of one such group, which is not empty. -/
theorem waveOf_eq (clk : W64) (res : List W64) :
    ∃ e, entryGroup l e ≠ [] ∧ waveOf l clk res = (entryGroup l e).take 32 := by
  obtain ⟨x, hx, hp⟩ := exists_top h
  have hrs : x ∈ l.filter (fun x => x.pri == topPri l) := by simp [hx, hp]
  obtain ⟨e, he, hf⟩ := find_largest (g := entryGroup l) (waveEntries_ne_nil h res) fun e => entryGroup_waveEntries
  have hwave : waveOf l clk res = (match l.filter (fun x => x.pri == topPri l) with
      | [] => []
      | old :: _ => if 4096 ≤ (clk - old.since).toNat then (entryGroup l old.task.entry).take 32
        else match (waveEntries l res).find? (fun e => (entryGroup l e).length ==
            (waveEntries l res).foldl (fun m e => max m (entryGroup l e).length) 0) with
          | some e => (entryGroup l e).take 32
          | none => []) := rfl
  rw [hwave, hf]
  cases hl : l.filter (fun x => x.pri == topPri l) with
  | nil => simp [hl] at hrs
  | cons old tl =>
    dsimp only
    split
    · exact ⟨old.task.entry, entryGroup_entry (by simp [hl]), rfl⟩
    · exact ⟨e, entryGroup_waveEntries he, rfl⟩

theorem waveOf_ne_nil (clk : W64) (res : List W64) : waveOf l clk res ≠ [] := by
  obtain ⟨e, hne, hw⟩ := waveOf_eq h clk res
  rw [hw]
  simpa using hne
end

/-- What a wave holds: at most 32 records of the window, of its highest priority and of one entry. -/
theorem waveOf_spec (l : List WinRec) (clk : W64) (res : List W64) :
    (waveOf l clk res).length ≤ 32 ∧ (∀ x ∈ waveOf l clk res, x ∈ l ∧ ∀ z ∈ l, z.pri ≤ x.pri) ∧
      ∀ x ∈ waveOf l clk res, ∀ z ∈ waveOf l clk res, x.task.entry = z.task.entry := by
  by_cases h : l = []
  · subst h
    simp [waveOf]
  · obtain ⟨e, -, hw⟩ := waveOf_eq h clk res
    rw [hw]
    have hmem (x : WinRec) (hx : x ∈ (entryGroup l e).take 32) : x ∈ l ∧ x.pri = topPri l ∧ x.task.entry = e :=
      mem_entryGroup.1 (List.mem_of_mem_take hx)
    refine ⟨List.length_take_le .., fun x hx => ?_, fun x hx z hz => ?_⟩
    · obtain ⟨hl, hp, -⟩ := hmem x hx
      exact ⟨hl, fun z hz => hp ▸ (le_foldl_max WinRec.pri l 0).2.1 z hz⟩
    · exact (hmem x hx).2.2.trans (hmem z hz).2.2.symm

/-! ### A wave starts its row (R322) -/

theorem tget_tsets_zipIdx {α β : Type} [DecidableEq β] (d : β) (f : α → β) (l : List α) (k i : Nat) (t : Tbl β) {x : α} (h : l[i]? = some x) :
    tget d (tsets d t ((l.zipIdx k).map (fun e => (e.2, f e.1)))) (k + i) = f x := by
  induction l generalizing k i t with
  | nil => simp at h
  | cons y l ih =>
    simp only [List.zipIdx_cons, List.map_cons, tsets, List.foldl_cons] at ih ⊢
    cases i with
    | zero =>
      obtain rfl : y = x := by simpa using h
      refine (tget_tsets_ne d _ _ _ fun e he => ?_).trans (tget_tset_same ..)
      obtain ⟨p, hp, rfl⟩ := List.mem_map.1 he
      have := List.le_snd_of_mem_zipIdx hp
      omega
    | succ i => rw [show k + (i + 1) = k + 1 + i by omega]; exact ih (k + 1) i _ (by simpa using h)

section
variable {s : State} {d n : Nat}

theorem exec_waveDispatch_none (h : (s.die d).halted = true ∨ (s.row n).life ≠ .idle ∨ (s.row n).pool = none ∨
    waveOf (s.die d).window (s.die d).clk (s.row n).resident = []) : exec (.waveDispatch d n) s = .next s := by
  refine (show exec (.waveDispatch d n) s = execWaveDispatch d n s from rfl).trans (if_pos ?_)
  rcases h with h | h | h | h <;> simp [h]

/-- A wave's row, once it has started. -/
structure WaveStarted (s : State) (n : Nat) (w : List WinRec) (q : Row) : Prop where
  running : q.life = .running
  width : q.L = 32
  em : q.arm.em = laneMask w.length
  exited : q.exited = laneMask 32 &&& ~~~(laneMask w.length)
  die : q.sreg 1 = tget 0 s.job.poolPar (n / 128)
  size : q.sreg 2 = BitVec.ofNat 64 w.length
  handler : q.handler = false
  kept : q.v = (s.row n).v ∧ q.ac = (s.row n).ac
  tasks : ∀ i x, w[i]? = some x → tget .zero q.taskBuf i = x.task ∧ q.arm.pc = x.task.entry.setWidth 56 ∧
    q.sreg 3 = BitVec.ofNat 64 x.pri

theorem startWave_started (s : State) (n : Nat) (w : List WinRec) (hentry : ∀ x ∈ w, ∀ z ∈ w, x.task.entry = z.task.entry)
    (hpri : ∀ x ∈ w, ∀ z ∈ w, x.pri = z.pri) : WaveStarted s n w ((s.startWave n w).row n) := by
  unfold State.startWave
  dsimp only
  rw [setRow_row_same]
  refine ⟨rfl, rfl, rfl, rfl, ?_, ?_, rfl, ⟨rfl, rfl⟩, fun i x hx => ?_⟩
  · simp [Row.sreg, tsets, tget_tset, dieOf]
  · simp [Row.sreg, tsets, tget_tset]
  · have hmem : x ∈ w := List.mem_of_getElem? hx
    have htask := tget_tsets_zipIdx .zero WinRec.task w 0 i [] hx
    rw [Nat.zero_add] at htask
    cases w with
    | nil => simp at hmem
    | cons y w =>
      have he := hentry x hmem y List.mem_cons_self
      have hp := hpri x hmem y List.mem_cons_self
      refine ⟨htask, ?_, ?_⟩
      · rw [he]; rfl
      · simp [Row.sreg, tsets, hp]

theorem acquireAt_keepsPool (s : State) (d : Nat) (sc : Sys2Proof.Scope) :
    (s.acquireAt d sc).job.poolPar = s.job.poolPar ∧ ∀ m, (s.acquireAt d sc).row m = s.row m := by
  refine ⟨?_, (acquireAt_sameStart s d sc).2⟩
  unfold State.acquireAt
  split <;> rfl

theorem exec_waveDispatch (hh : (s.die d).halted = false) (hi : (s.row n).life = .idle) (hp : (s.row n).pool ≠ none)
    (hu : (s.row n).unbind = false) (hw : waveOf (s.die d).window (s.die d).clk (s.row n).resident ≠ []) :
    ∃ t, exec (.waveDispatch d n) s = .next t ∧ (∀ m, m ≠ n → t.row m = s.row m) ∧
      WaveStarted s n (waveOf (s.die d).window (s.die d).clk (s.row n).resident) (t.row n) := by
  have he : exec (.waveDispatch d n) s = execWaveDispatch d n s := rfl
  obtain ⟨-, htop, hent⟩ := waveOf_spec (s.die d).window (s.die d).clk (s.row n).resident
  generalize hW : waveOf (s.die d).window (s.die d).clk (s.row n).resident = w at hw htop hent ⊢
  have hpool : (s.row n).pool.isNone = false := Option.isNone_eq_false_iff.2 (Option.isSome_iff_ne_none.2 hp)
  have hwe : w.isEmpty = false := by simpa using hw
  simp only [execWaveDispatch, hW, hh, hi, hpool, hu, hwe, bne_self_eq_false, Bool.or_self, Bool.false_eq_true, if_false] at he
  have hpri (x : WinRec) (hx : x ∈ w) (z : WinRec) (hz : z ∈ w) : x.pri = z.pri :=
    Nat.le_antisymm ((htop z hz).2 x (htop x hx).1) ((htop x hx).2 z (htop z hz).1)
  have hacq := acquireAt_keepsPool (s.modDie d (fun y => { y with window := w.foldl (fun l x => l.erase x) y.window })) d .device
  generalize (s.modDie d (fun y => { y with window := w.foldl (fun l x => l.erase x) y.window })).acquireAt d .device = u at he hacq
  obtain ⟨hpar, hrow⟩ := hacq
  have hst := startWave_started u n w hent hpri
  refine ⟨_, he, fun m hm => (setRow_row_ne _ _ hm).trans (hrow m), { hst with die := ?_, kept := ?_ }⟩
  · rw [hst.die, hpar]
    rfl
  · rw [hst.kept.1, hst.kept.2, hrow]
    exact ⟨rfl, rfl⟩
end

/-! ### Stealing (R324) -/

theorem insertKey_length {α : Type} (k : Nat) (x : α) (l : List (Nat × α)) : (insertKey k x l).length = l.length + 1 := by
  induction l with
  | nil => rfl
  | cons y l ih =>
    rw [insertKey]
    split
    · rfl
    · simp [ih]

theorem sortKey_length {α : Type} (f : α → Nat) (l : List α) : (sortKey f l).length = l.length := by
  have h (a : List (Nat × α)) : (l.foldl (fun acc x => insertKey (f x) x acc) a).length = a.length + l.length := by
    induction l generalizing a with
    | nil => rfl
    | cons x l ih => rw [List.foldl_cons, ih, insertKey_length, List.length_cons]; omega
  rw [sortKey, List.length_map, h, List.length_nil, Nat.zero_add]

/-- The records of a window by rising priority are the window's, where no priority is above 3. -/
theorem byPriority_perm {w : List WinRec} (h : ∀ x ∈ w, x.pri < 4) :
    ([0, 1, 2, 3].flatMap (fun q => (w.filter (fun x => x.pri == q)).reverse)).Perm w := by
  refine List.perm_iff_count.2 fun a => ?_
  simp only [List.flatMap_cons, List.flatMap_nil, List.append_nil, List.count_append, List.count_reverse]
  by_cases ha : a ∈ w
  · have hcount (q : Nat) : (w.filter (fun x => x.pri == q)).count a = if a.pri = q then w.count a else 0 := by
      split
      · exact List.count_filter (by simpa using ‹a.pri = q›)
      · exact List.count_eq_zero.2 fun hm => ‹a.pri ≠ q› (by simpa using (List.mem_filter.1 hm).2)
    have hlt := h a ha
    rcases (by omega : a.pri = 0 ∨ a.pri = 1 ∨ a.pri = 2 ∨ a.pri = 3) with hq | hq | hq | hq <;> simp [hcount, hq]
  · have hzero (q : Nat) : (w.filter (fun x => x.pri == q)).count a = 0 :=
      List.count_eq_zero.2 fun hm => ha (List.mem_filter.1 hm).1
    simp [hzero, List.count_eq_zero.2 ha]

theorem stolen_length {w : List WinRec} (h : ∀ x ∈ w, x.pri < 4) (k : Nat) : (stolen w k).length = min (w.length / 2) k := by
  rw [stolen, List.length_take, (byPriority_perm h).length_eq]
  omega

theorem length_erases {w l : List WinRec} (h : l.Subperm w) : (l.foldl (fun w x => w.erase x) w).length = w.length - l.length := by
  induction l generalizing w with
  | nil => rfl
  | cons x l ih =>
    have hx : l.Subperm (w.erase x) := by simpa using h.erase x
    rw [List.foldl_cons, ih hx, List.length_erase_of_mem (h.subset List.mem_cons_self), List.length_cons]
    omega

theorem exec_stealRequest_none {s : State} {d : Nat} (ha : (s.die d).steal.asked = 0) (hm : s.mayAsk d = false) :
    exec (.stealRequest d) s = .next s :=
  (show exec (.stealRequest d) s = execStealRequest d s from rfl).trans (if_pos (by simp [ha, hm]))

section
variable {s : State} {d : Nat} (hmay : (s.die d).steal.asked = 0 → s.mayAsk d = true) (ha : (s.die d).steal.asked < 3)
include hmay ha

/-- A request changes the asking die and, where records are forwarded, the die that is asked. -/
theorem exec_stealRequest :
    let y := s.die d
    let v := (d + 1 + y.steal.asked) % 4
    let z := s.die v
    let l := stolen z.window (256 - y.window.length)
    ∃ t, exec (.stealRequest d) s = .next t ∧ (∀ n, t.row n = s.row n) ∧ (∀ a, t.byte a = s.byte a) ∧
      (l ≠ [] → (t.die d).window.length = y.window.length + l.length ∧
        (t.die v).window = l.foldl (fun w x => w.erase x) z.window ∧ (t.die d).steal = ⟨0, none⟩) ∧
      (l = [] → t.die v = z ∧ (t.die d).window = y.window ∧
        (t.die d).steal = if y.steal.asked < 2 then ⟨y.steal.asked + 1, none⟩ else ⟨0, some y.clk⟩) := by
  intro y v z l
  have hne : v ≠ d := by simp only [v, y]; omega
  have he : exec (.stealRequest d) s = execStealRequest d s := rfl
  have hgo : (y.steal.asked = 0 && !s.mayAsk d) = false := by
    by_cases h0 : (s.die d).steal.asked = 0
    · simp [hmay h0]
    · simp [y, h0]
  unfold execStealRequest at he
  rw [if_neg (by simpa using hgo)] at he
  by_cases hl : l = []
  · have hnone : (!l.isEmpty) = false := by simp [hl]
    refine (if h : y.steal.asked < 2 then ?_ else ?_)
    · refine ⟨s.setDie d { y with steal := ⟨y.steal.asked + 1, none⟩ },
        he.trans ((if_neg (Bool.eq_false_iff.1 hnone)).trans (if_neg (c := 3 ≤ y.steal.asked + 1) (by omega))), fun _ => rfl, fun _ => rfl, fun hn => absurd hl hn, fun _ => ?_⟩
      rw [if_pos h, setDie_die_ne _ _ hne, setDie_die_same]
      exact ⟨rfl, rfl, rfl⟩
    · refine ⟨s.setDie d { y with steal := ⟨0, some y.clk⟩ },
        he.trans ((if_neg (Bool.eq_false_iff.1 hnone)).trans (if_pos (c := 3 ≤ y.steal.asked + 1) (by omega))), fun _ => rfl, fun _ => rfl, fun hn => absurd hl hn, fun _ => ?_⟩
      rw [if_neg h, setDie_die_ne _ _ hne, setDie_die_same]
      exact ⟨rfl, rfl, rfl⟩
  · have hsome : (!l.isEmpty) = true := by simpa using hl
    refine ⟨_, he.trans (if_pos hsome), fun _ => rfl, fun _ => rfl, fun _ => ?_, fun hn => absurd hn hl⟩
    rw [setDie_die_same, setDie_die_ne _ _ hne, setDie_die_same]
    refine ⟨?_, rfl, rfl⟩
    rw [sortKey_length, List.length_append, List.length_reverse, List.length_map]
end

theorem stolen_subperm {w : List WinRec} (h : ∀ x ∈ w, x.pri < 4) (k : Nat) : (stolen w k).Subperm w :=
  ((List.take_sublist _ _).subperm).trans (byPriority_perm h).subperm

theorem stolen_nil {w : List WinRec} (h : w.length < 2) (k : Nat) : stolen w k = [] := by
  rw [stolen, show w.length / 2 = 0 by omega, Nat.zero_min, List.take_zero]

/-- Settles O51: the queues, by `enqueues` and `dequeue_die`; waves, by the group that `waveOf` takes; stealing, by the one step of
a request. -/
theorem taskFlow : Obligations.TaskFlow := by
  unfold Obligations.TaskFlow
  refine ⟨fun s d q k z pa x t c => ⟨recOf_bytes_word t, (enqueue_tq s d q t q).trans (if_pos rfl), fun h =>
      ⟨enqueue_bytes s d q t h, fun hz => (enqueue_byte s d q t h z).trans (if_neg (by omega))⟩, dequeue_rec, fun h => ?_,
      exec_taskEnqueue_none, exec_continuationEnqueue, fun hh hl hq hup hne => ?_, exec_windowFill_none⟩,
    fun s d n i clk res l => ⟨?_, fun hh hi hp hu hw => ?_, exec_waveDispatch_none⟩, fun s d => exec_stealRequest_none,
    fun s d _ hmay ha => ?_⟩
  · obtain ⟨u, he, hown, harr, hother, hrow⟩ := exec_taskEnqueue h
    exact ⟨u, he, by rw [hown], by rw [hown], by rw [hown], harr, hother k, hrow⟩
  · obtain ⟨u, he, hown, hwin, hother, hrow⟩ := exec_windowFill hh hl hq hup hne
    exact ⟨u, he, hown, hwin, hother k, hrow⟩
  · obtain ⟨hlen, htop, hent⟩ := waveOf_spec l clk res
    exact ⟨hlen, fun h => waveOf_ne_nil h clk res, htop, hent⟩
  · obtain ⟨t, he, hother, hq⟩ := exec_waveDispatch hh hi hp hu hw
    exact ⟨t, he, hother, hq.running, hq.width, hq.em, hq.exited, hq.die, hq.size, hq.handler, hq.kept.1, hq.kept.2, hq.tasks i⟩
  · obtain ⟨t, he, hrow, hbyte, hsome, hnone⟩ := exec_stealRequest hmay ha
    refine ⟨t, he, hrow, hbyte, fun h2 hpri hroom => ?_, fun h2 => hnone (stolen_nil h2 _)⟩
    have hlen := stolen_length hpri (256 - (s.die d).window.length)
    obtain ⟨hmine, htheirs, hsteal⟩ := hsome (List.ne_nil_of_length_pos (by rw [hlen]; omega))
    refine ⟨hmine.trans (by rw [hlen]), ?_, hsteal⟩
    rw [htheirs, length_erases (stolen_subperm hpri _), hlen]

end Sys2Proof.Machine
end

section
/-! SUPPORT. Atomics (R262 to R272): the keys of their lanes, their issue, one step at an element, and the functions of
Table 11-3. -/

namespace Sys2Proof.Machine

/-! ### The keys of the lanes (R265) -/

theorem atomKey_translated (n E : Nat) (o : AOrd) (s : State) (a : W64) : Translated s (atomKey n E o s a).2 := by
  have h := translate_translated s (dieOf n) a.toNat .atomic
  unfold atomKey
  generalize s.translate (dieOf n) a.toNat .atomic = q at h
  obtain ⟨x, t⟩ := q
  split
  · split <;> exact Translated.refl s
  · cases x with
    | error c => exact h
    | ok pa =>
      dsimp only
      split
      · exact h
      · split <;> exact h

theorem atomKeys_cons (n E : Nat) (o : AOrd) (s : State) (a : W64) (l : List W64) : atomKeys n E o s (a :: l) =
    match atomKey n E o s a with
    | (.error c, t) => (.error (c, a), t)
    | (.ok k, t) => match atomKeys n E o t l with
      | (.error e, t) => (.error e, t)
      | (.ok ks, t) => (.ok (k :: ks), t) := rfl

/-- What the checks leave of the state, and how many keys they give. -/
theorem atomKeys_spec (n E : Nat) (o : AOrd) (l : List W64) (s : State) :
    Translated s (atomKeys n E o s l).2 ∧ ∀ ks, (atomKeys n E o s l).1 = .ok ks → ks.length = l.length := by
  induction l generalizing s with
  | nil => exact ⟨Translated.refl s, fun ks h => by obtain rfl := Except.ok.inj h; rfl⟩
  | cons a l ih =>
    have h := atomKey_translated n E o s a
    rw [atomKeys_cons]
    generalize atomKey n E o s a = q at h
    obtain ⟨x, t⟩ := q
    cases x with
    | error c => exact ⟨h, fun ks hk => nomatch hk⟩
    | ok k =>
      obtain ⟨ht, hlen⟩ := ih t
      dsimp only
      generalize atomKeys n E o t l = q at ht hlen
      obtain ⟨x, u⟩ := q
      cases x with
      | error e => exact ⟨h.trans ht, fun ks hk => nomatch hk⟩
      | ok ks =>
        refine ⟨h.trans ht, fun ks' hk => ?_⟩
        obtain rfl := Except.ok.inj hk
        simp [hlen ks rfl]

section
variable {n E : Nat} {o : AOrd} {s u : State} {l : List W64}

theorem atomKeys_translated {x : Except (W8 × W64) (List Nat)} (h : atomKeys n E o s l = (x, u)) : Translated s u := by
  have ht := (atomKeys_spec n E o l s).1
  rwa [h] at ht

theorem atomKeys_length {ks : List Nat} (h : atomKeys n E o s l = (.ok ks, u)) : ks.length = l.length :=
  (atomKeys_spec n E o l s).2 ks (congrArg Prod.fst h)

/-- In side memory an address is its own key. -/
theorem atomKey_side {a : W64} (hs : sideBase ≤ a.toNat) (hf : s.elemFault n E a = none) : atomKey n E o s a = (.ok a.toNat, s) := by
  have hside : (a.getLsbD 55 || a.extractLsb' 56 8 != 0) = true := by
    rw [Bool.or_eq_true, bne_iff_ne]
    by_contra hnone
    simp only [not_or, Bool.not_eq_true, not_not] at hnone
    obtain ⟨h55, htop⟩ := hnone
    have ht := congrArg BitVec.toNat htop
    rw [BitVec.getLsbD, Nat.testBit_eq_decide_div_mod_eq] at h55
    simp only [BitVec.extractLsb'_toNat, Nat.shiftRight_eq_div_pow, BitVec.ofNat_eq_ofNat, BitVec.toNat_ofNat, Nat.zero_mod] at ht
    simp only [decide_eq_false_iff_not] at h55
    have hlt := a.isLt
    unfold sideBase at hs
    omega
  unfold atomKey
  rw [if_pos hside, hf]

theorem atomKeys_side (h : ∀ y ∈ l, sideBase ≤ y.toNat ∧ s.elemFault n E y = none) :
    atomKeys n E o s l = (.ok (l.map BitVec.toNat), s) := by
  induction l with
  | nil => rfl
  | cons a l ih =>
    obtain ⟨hs, hf⟩ := h a List.mem_cons_self
    rw [atomKeys_cons, atomKey_side hs hf]
    dsimp only
    rw [ih fun y hy => h y (List.mem_cons_of_mem a hy)]
    rfl
end

/-! ### Issue (R262 to R265, R272) -/

/-- The elements of an atomic: the address and operands of each lane, at its key. -/
def atomElems (lanes : List (Nat × W64 × W64 × W64)) (ks : List Nat) : List AtomElem :=
  (lanes.zip ks).map (fun (l, k) => ⟨l.1, k, l.2.1, l.2.2.1, l.2.2.2, none, false⟩)

section
variable {i : Instr} {s u : State} {fn : AFn} {E : Nat} {o : AOrd} {dst : Dst} {ret : Bool} {flag : Option Nat} {passes : Nat}
  {lanes : List (Nat × W64 × W64 × W64)} (h : ComesTo i s (atomBody fn E o dst ret flag passes lanes s.draw s.cur))
include h

theorem ComesTo.atomic_traps {c : W8} {x : W64} (hk : atomKeys s.cur E o s.draw (lanes.map (fun l => l.2.1)) = (.error (c, x), u)) :
    exec i s = .next (u.trapHere s.cur c x) := by
  rw [atomBody, hk] at h
  exact h.traps

variable (hq : (s.row s.cur).Quiet) (hp : passes ≤ 32)
include hq hp

theorem ComesTo.atomic {ks : List Nat} (hne : lanes ≠ [])
    (hk : atomKeys s.cur E o s.draw (lanes.map (fun l => l.2.1)) = (.ok ks, u))
    (hplain : ∀ k ∈ ks, k < sideBase ∨ u.checked k = false) :
    Completes i s (u.modRow s.cur (fun r => r.addOp (if ret then flag else none)
      (.atomic fn dst E (if ret then 0 else passes) (aordKind o) (atomElems lanes ks)))) := by
  have ht := atomKeys_translated hk
  have hrow : u.row s.cur = s.row s.cur := ht.row s.cur
  have hqu : (u.row s.cur).Quiet := hrow ▸ hq
  have hroom : ¬32 < (u.row s.cur).bufferUse + passes := by rw [hqu.bufferUse]; omega
  have hlen := atomKeys_length hk
  rw [List.length_map] at hlen
  have hes : (atomElems lanes ks).isEmpty = false := by
    have : 0 < lanes.length := List.length_pos_iff.2 hne
    simp only [atomElems, List.isEmpty_map, List.isEmpty_eq_false_iff, ne_eq, ← List.length_eq_zero_iff, List.length_zip]
    omega
  have hbody : atomBody fn E o dst ret flag passes lanes s.draw s.cur = issueOp u s.cur (if ret then flag else none)
      (.atomic fn dst E (if ret then 0 else passes) (aordKind o) (atomElems lanes ks)) := by
    have hes' := hes
    unfold atomElems at hes'
    simp only [atomBody, hk, hes', AccKind.marks, hroom, Bool.and_false, Bool.false_and, decide_false, Bool.false_eq_true, if_false]
    rfl
  have hun : (OpKind.atomic fn dst E (if ret then 0 else passes) (aordKind o) (atomElems lanes ks)).Unchecked u := by
    intro a ha hside
    obtain ⟨e, he, rfl⟩ := List.mem_map.1 ha
    obtain ⟨p, hp, rfl⟩ := List.mem_map.1 he
    exact (hplain _ (List.of_mem_zip hp).2).resolve_left (Nat.not_lt.2 hside)
  rw [hbody, issueOp_unchecked _ hqu hun] at h
  exact h.completes_self (congrArg State.cur ht :)

/-- With no lane an ordered atomic keeps its place in the order. -/
theorem ComesTo.atomic_marks (hne : lanes = []) (ho : o ≠ .relaxed) :
    Completes i s (s.now (fun r => r.addOp (if ret then flag else none)
      (.atomic fn .none 0 (if ret then 0 else passes) (aordKind o) [⟨0, 0, 0, 0, 0, none, false⟩]))) := by
  subst hne
  have hroom : ¬32 < (s.draw.row s.cur).bufferUse + passes := by rw [draw_row, hq.bufferUse]; omega
  have hscope : (aordKind o).scope.isSome = true := by cases o <;> first | rfl | exact absurd rfl ho
  have hbody : atomBody fn E o dst ret flag passes [] s.draw s.cur = issueOp s.draw s.cur (if ret then flag else none)
      (.atomic fn .none 0 (if ret then 0 else passes) (aordKind o) [⟨0, 0, 0, 0, 0, none, false⟩]) := by
    simp only [atomBody, List.map_nil, atomKeys, List.zip_nil_left, AccKind.marks, hscope, List.isEmpty_nil, hroom, Bool.and_true,
      Bool.not_true, Bool.and_false, decide_false, Bool.false_eq_true, if_false, if_true]
  rw [hbody] at h
  refine h.issues hq fun x hx hside => ?_
  obtain rfl : x = 0 := by simpa [OpKind.addrs] using hx
  exact absurd hside (by decide)
end

section
variable {s : State} {g : Guard} {d idx : VReg} {base : SReg} {sc : BitVec 3} {fn : AFn} {o : AOrd} {fs ret : Bool}

theorem elemAddr_atom (r : Row) (base : SReg) (idx : VReg) (sc : BitVec 3) (l : Nat) : r.elemAddr ⟨base, idx, 2, sc, 0⟩ 4 l =
    r.sreg base.toNat + (if idx = 0 then BitVec.ofNat 64 (l * 4) else (r.vreg idx.toNat l).signExtend 64 <<< sc.toNat) := by
  have hb : r.baseAddr base 0 4 = r.sreg base.toNat := by simp [Row.baseAddr]
  unfold Row.elemAddr
  dsimp only
  rw [hb]
  split <;> rfl

theorem atomElems_lanes (r : Row) (g : Guard) (d : VReg) (base : SReg) (idx : VReg) (sc : BitVec 3) (ks : List Nat) :
    atomElems (atomLanes r g d base idx sc) ks = ((r.actLanes g).zip ks).map (fun p => ⟨p.1, p.2,
      r.sreg base.toNat + (if idx = 0 then BitVec.ofNat 64 (p.1 * 4) else (r.vreg idx.toNat p.1).signExtend 64 <<< sc.toNat),
      (r.vreg d.toNat p.1).setWidth 64, (r.vreg (d.toNat + 1) p.1).setWidth 64, none, false⟩) := by
  rw [atomElems, atomLanes, List.zip_map_left, List.map_map]
  refine List.map_congr_left fun p _ => ?_
  simp only [Function.comp_apply, Prod.map, id, elemAddr_atom]

theorem atomLanes_addrs (r : Row) (g : Guard) (d : VReg) (base : SReg) (idx : VReg) (sc : BitVec 3) :
    (atomLanes r g d base idx sc).map (fun l => l.2.1) = (r.actLanes g).map (fun l =>
      r.sreg base.toNat + (if idx = 0 then BitVec.ofNat 64 (l * 4) else (r.vreg idx.toNat l).signExtend 64 <<< sc.toNat)) := by
  rw [atomLanes, List.map_map]
  exact List.map_congr_left fun l _ => elemAddr_atom r base idx sc l

theorem atomLanes_eq_nil {r : Row} : atomLanes r g d base idx sc = [] ↔ r.anyActs g = false := by
  rw [atomLanes, List.map_eq_nil_iff, Row.anyActs, Bool.not_eq_false', List.isEmpty_iff]

section
variable (hq : (s.row s.cur).Quiet) (ho : (s.row s.cur).outside) (hr : (s.row s.cur).Has (atomRegs fn d idx))
include hq ho hr

theorem amo_comesTo (hem : (s.row s.cur).arm.em ≠ 0) : ComesTo (.amo g d base idx sc fn ret o fs) s
    (atomBody fn 4 o (if ret then .vreg d.toNat else .none) ret ((s.row s.cur).flagSel fs) (s.row s.cur).passes
      (atomLanes (s.row s.cur) g d base idx sc) s.draw s.cur) := by
  refine comesTo_issueWord (show exec _ s = execAmo g d base idx sc fn ret o fs s from rfl) hq
    ⟨rfl, ?_, ?_, rfl, ?_, rfl⟩ (bne_iff_ne.2 hem)
  · exact (List.append_nil (atomRegs fn d idx)).symm ▸ hr.badReg
  · rw [Bool.and_assoc, ho.nest, Bool.and_false]
  · exact (congrArg (ret && ·) (hq.holdV d.toNat)).trans (Bool.and_false ret)

theorem red_comesTo (hem : (s.row s.cur).arm.em ≠ 0) : ComesTo (.red g d base idx sc fn o) s
    (atomBody fn 4 o .none false none (s.row s.cur).passes (atomLanes (s.row s.cur) g d base idx sc) s.draw s.cur) := by
  refine comesTo_issueWord (show exec _ s = execRed g d base idx sc fn o s from rfl) hq
    ⟨rfl, ?_, ?_, rfl, rfl, rfl⟩ (bne_iff_ne.2 hem)
  · exact (List.append_nil (atomRegs fn d idx)).symm ▸ hr.badReg
  · rw [Bool.and_assoc, ho.nest, Bool.and_false]

/-- An AMO that acts nowhere and has no place in an order to keep only passes on. -/
theorem amo_passes (ha : (s.row s.cur).anyActs g = false) (h : (s.row s.cur).arm.em = 0 ∨ (o = .relaxed ∧ ret = false)) :
    Completes (.amo g d base idx sc fn ret o fs) s s := by
  by_cases hem : (s.row s.cur).arm.em = 0
  · show ∃ t, execAmo g d base idx sc fn ret o fs s = .next t ∧ Acted s t
    unfold execAmo
    refine issueWord_idle rfl ((List.append_nil (atomRegs fn d idx)).symm ▸ hr.badReg) ?_
    rw [hq.view]
    exact bne_eq_false_iff_eq.2 hem
  · obtain ⟨rfl, rfl⟩ := h.resolve_left hem
    have hcome := amo_comesTo (g := g) (base := base) (sc := sc) (o := .relaxed) (fs := fs) (ret := false) hq ho hr hem
    rw [atomLanes_eq_nil.2 ha] at hcome
    exact hcome.completes_draw
end

theorem amos_comesTo {sd : SReg} {wide : Bool} (hq : (s.row s.cur).Quiet) (ho : (s.row s.cur).outside)
    (hg : (s.row s.cur).guardQ g = true) : ComesTo (.amos g sd base wide fn ret o fs) s
    (atomBody fn (if wide then 8 else 4) o (if ret then (s.row s.cur).dstS sd.toNat else .none) ret ((s.row s.cur).flagSel fs) 1
      [(0, (s.row s.cur).sreg base.toNat, (s.row s.cur).sreg sd.toNat, (s.row s.cur).sreg (sd.toNat + 1))] s.draw s.cur) := by
  refine comesTo_issueQ (show exec _ s = execAmos g sd base wide fn ret o fs s from rfl) ⟨hq, hg⟩ ⟨rfl, rfl, ?_, rfl, ?_, rfl⟩ rfl
  · exact ho.nest
  · exact (congrArg (ret && ·) (hq.pendS sd.toNat)).trans (Bool.and_false ret)
end

/-! ### One step at an element (R264, R267 to R271) -/

/-- What a filter keeps is still found first. -/
theorem find?_filter_of_keeps {α : Type} {p q : α → Bool} {l : List α} {x : α} (h : l.find? q = some x) (hp : p x = true) :
    (l.filter p).find? q = some x := by
  obtain ⟨hx, as, bs, rfl, hnone⟩ := List.find?_eq_some_iff_append.1 h
  refine List.find?_eq_some_iff_append.2 ⟨hx, as.filter p, bs.filter p, ?_, fun y hy => hnone y (List.mem_filter.1 hy).1⟩
  rw [List.filter_append, List.filter_cons_of_pos hp]

section
variable {s : State} {n id : Nat}

theorem orderRow_findOp {o : Op} (h : (s.row n).findOp id = some o) (hk : ∀ a b c d e f k l, o.kind ≠ .wld a b c d e f k l)
    (hc : ∀ a b c d, o.kind ≠ .cwait a b c d) : (s.orderRow n).findOp id = some o := by
  unfold State.orderRow
  dsimp only
  split
  · refine find?_filter_of_keeps h ?_
    split
    · exact absurd ‹_› (hk _ _ _ _ _ _ _ _)
    · exact absurd ‹_› (hc _ _ _ _)
    · rfl
  · exact h

theorem setOp_findOp {r : Row} {arm : ArmId} {flag : Option Nat} {k : OpKind} (h : r.findOp id = some ⟨id, arm, flag, k⟩) (k' : OpKind) :
    (r.setOp id k').findOp id = some ⟨id, arm, flag, k'⟩ := by
  have hcomp : ((fun o : Op => o.id == id) ∘ fun o => if o.id == id then { o with kind := k' } else o) = fun o => o.id == id := by
    funext o
    dsimp only [Function.comp_apply]
    split <;> rfl
  unfold Row.findOp Row.setOp at *
  rw [List.find?_map, hcomp, h, Option.map_some, if_pos (beq_self_eq_true id)]

theorem storeBytes_none (s : State) (n k : Nat) (a : Nat) (l : List W8)
    (h : ∀ y ∈ (s.row n).landed, y.addr < a ∨ a + l.length ≤ y.addr) : s.storeBytes n k false a l = s.setBytes a l := by
  induction l generalizing s a with
  | nil => rfl
  | cons b l ih =>
    have hne : ∀ y ∈ (s.row n).landed, y.addr ≠ a := fun y hy => by
      have := h y hy
      simp only [List.length_cons] at this
      omega
    rw [State.storeBytes, State.setOwn_none s n k false a b hne, if_neg Bool.false_ne_true]
    refine ih (s.setByte a b) (a + 1) fun y hy => ?_
    have := h y hy
    simp only [List.length_cons] at this
    omega

theorem ownBytes_home {s : State} {n a len : Nat} (k : Nat) (hfar : (s.die (dieOf n)).far = [])
    (h : ∀ y ∈ (s.row n).landed, y.addr < a ∨ a + len ≤ y.addr) : s.ownBytes n k a len = s.bytes a len := by
  refine List.map_congr_left fun i hi => ?_
  have hi := List.mem_range.1 hi
  rw [State.ownByte_none s n k (a + i) fun y hy => by have := h y hy; omega, State.nearByte, State.farAt, hfar]
  exact ite_self _

theorem codeLands_keeps {γ : Type} (f : State → γ) (hf : ∀ (t : State) (j : Job), j.mem = t.job.mem → j.era = t.job.era →
    j.rows = t.job.rows → f { t with job := j } = f t) (s : State) (a n : Nat) : f (s.codeLands a n) = f s := by
  unfold State.codeLands
  split
  · exact hf s _ rfl rfl rfl
  · rfl

theorem codeLands_row (s : State) (a len m : Nat) : (s.codeLands a len).row m = s.row m :=
  codeLands_keeps (fun t => t.row m) (fun _ _ _ _ h => congrArg (tget _ · m) h) s a len

theorem codeLands_byte (s : State) (a len b : Nat) : (s.codeLands a len).byte b = s.byte b :=
  codeLands_keeps (fun t => t.byte b) (fun t j hm he _ => by
    show tget 0 j.mem b ^^^ j.unwritten b = _
    unfold Job.unwritten
    rw [hm, he]; rfl) s a len
end

/-- The elements of operation `id` of row n, an atomic that returns its values, as they now stand. -/
def State.putAtom (t : State) (n id : Nat) (fn : AFn) (dst : Dst) (sz : Nat) (l : List AtomElem) : State :=
  t.modRow n (fun r => (r.setOp id (.atomic fn dst sz 0 .ordinary l)).endAtomic id)

section
variable {s : State} {n id : Nat} {arm : ArmId} {flag : Option Nat} {fn : AFn} {dst : Dst} {sz : Nat} {e f : AtomElem}

theorem putAtom_row {t : State} {es : List AtomElem} {p : Nat} {o : AccKind} (l : List AtomElem)
    (h : (t.row n).findOp id = some ⟨id, arm, flag, .atomic fn dst sz p o es⟩) :
    (t.putAtom n id fn dst sz l).row n = (t.row n).setOp id (.atomic fn dst sz 0 .ordinary l) ∧
      ((t.putAtom n id fn dst sz l).row n).findOp id = some ⟨id, arm, flag, .atomic fn dst sz 0 .ordinary l⟩ := by
  have hset := setOp_findOp h (.atomic fn dst sz 0 .ordinary l)
  have hrow : (t.putAtom n id fn dst sz l).row n = (t.row n).setOp id (.atomic fn dst sz 0 .ordinary l) := by
    rw [State.putAtom, modRow_row_same, Row.endAtomic, hset]
    rfl
  exact ⟨hrow, hrow ▸ hset⟩

variable (hfind : (s.row n).findOp id = some ⟨id, arm, flag, .atomic fn dst sz 0 .ordinary [e, f]⟩)
  (hready : (s.orderRow n).atomReady id .ordinary sz e = true)
include hfind hready

/-- What ATOMIC_PERFORM comes to: the elements failed or changed, over the die's copies gone home. -/
theorem exec_atomicPerform (ecc : Bool) :
    let s1 := s.flushFor (dieOf n) e.addr sz
    let failed := [e, f].map (fun x => if x.addr = e.addr && x.old.isNone then { x with bad := true } else x)
    let step := atomSteps fn sz e.addr [e, f] (leVal (s1.ownBytes n id e.addr sz))
    exec (.atomicPerform n id 0 ecc) s = .next (if s.barred n e.addr then s1.putAtom n id fn dst sz failed
      else if ecc && sz != 0 then (s1.putAtom n id fn dst sz failed).defer n cEccUncorr e.va
      else ((s1.storeBytes n id false e.addr (leList sz step.2)).codeLands e.addr sz).putAtom n id fn dst sz step.1) := by
  have hf := orderRow_findOp hfind (fun _ _ _ _ _ _ _ _ h => nomatch h) (fun _ _ _ _ h => nomatch h)
  refine (show exec (.atomicPerform n id 0 ecc) s = .next ((performAtomic s n id 0 ecc).getD s) from rfl).trans ?_
  simp only [performAtomic, hf, List.getElem?_cons_zero, hready, Bool.not_true, Bool.false_eq_true, if_false, AccKind.releases,
    AccKind.acquires, State.acquired, ite_self]
  split
  · rfl
  · split <;> rfl

end

/-- With nothing in the die's far cache a flush changes no row, no byte and no far cache. -/
theorem flushFor_home {s : State} {d : Nat} (h : (s.die d).far = []) (a len : Nat) :
    (∀ m, (s.flushFor d a len).row m = s.row m) ∧ (∀ b, (s.flushFor d a len).byte b = s.byte b) ∧
      ((s.flushFor d a len).die d).far = [] := by
  rw [State.flushFor, State.flushIf, writeBackIf_empty _ h]
  refine ⟨fun _ => rfl, fun _ => rfl, ?_⟩
  rw [State.dropIf, modDie_die_same, draw_die, h]
  rfl

theorem word_of_bytes {s t : State} (h : ∀ b, t.byte b = s.byte b) (a n : Nat) : t.word a n = s.word a n :=
  congrArg leVal (List.map_congr_left fun i _ => h (a + i))

theorem defer_byte (s : State) (n : Nat) (c : W8) (x : W64) (a : Nat) : (s.defer n c x).byte a = s.byte a := by
  unfold State.defer
  dsimp only
  split
  · rfl
  · split <;> rfl

/-- The step at an element that two lanes may name: the lower lane's first. -/
theorem atomSteps_two (fn : AFn) (sz m : Nat) {e f : AtomElem} (he : e.old = none) (heb : e.bad = false) (hf : f.old = none)
    (hfb : f.bad = false) : atomSteps fn sz e.addr [e, f] m =
      if f.addr = e.addr then
        ([{ e with old := some (BitVec.ofNat 64 m) }, { f with old := some (BitVec.ofNat 64 (atomNew fn sz m e.x.toNat e.y.toNat)) }],
          atomNew fn sz (atomNew fn sz m e.x.toNat e.y.toNat) f.x.toNat f.y.toNat)
      else ([{ e with old := some (BitVec.ofNat 64 m) }, f], atomNew fn sz m e.x.toNat e.y.toNat) := by
  by_cases h : f.addr = e.addr <;> simp [atomSteps, he, heb, hf, hfb, h]

section
variable {s : State} {n id : Nat} {arm : ArmId} {flag : Option Nat} {fn : AFn} {dst : Dst} {sz : Nat} {e f : AtomElem}
  (hfind : (s.row n).findOp id = some ⟨id, arm, flag, .atomic fn dst sz 0 .ordinary [e, f]⟩)
  (hready : (s.orderRow n).atomReady id .ordinary sz e = true) (hfar : (s.die (dieOf n)).far = [])
include hfind hready hfar

theorem atomicPerform_barred (hb : s.barred n e.addr = true) (ecc : Bool) (a : Nat) :
    ∃ t, exec (.atomicPerform n id 0 ecc) s = .next t ∧ t.byte a = s.byte a := by
  have he := exec_atomicPerform hfind hready ecc
  dsimp only at he
  rw [if_pos hb] at he
  exact ⟨_, he, (flushFor_home hfar e.addr sz).2.1 a⟩

theorem atomicPerform_ecc (hb : s.barred n e.addr = false) (hsz : sz ≠ 0) (a : Nat) :
    ∃ t, exec (.atomicPerform n id 0 true) s = .next t ∧ t.byte a = s.byte a ∧
      ((s.row n).deferred = [] → (t.row n).deferred = [⟨cEccUncorr, e.va⟩]) := by
  have he := exec_atomicPerform hfind hready true
  obtain ⟨hrow, hbyte, -⟩ := flushFor_home hfar e.addr sz
  dsimp only at he
  rw [if_neg (Bool.eq_false_iff.1 hb), if_pos (by simpa using hsz)] at he
  generalize s.flushFor (dieOf n) e.addr sz = u at he hrow hbyte
  generalize [e, f].map (fun x => if x.addr = e.addr && x.old.isNone then { x with bad := true } else x) = l at he
  obtain ⟨hput, -⟩ := putAtom_row l (hrow n ▸ hfind)
  have hdef : ((u.putAtom n id fn dst sz l).row n).deferred = (s.row n).deferred := by
    rw [hput, hrow]
    rfl
  refine ⟨_, he, ?_, fun hnone => ?_⟩
  · rw [defer_byte, State.putAtom, modRow_byte, hbyte]
  · rw [hnone] at hdef
    rw [defer_kept (by rw [hdef]; exact List.not_mem_nil) (by rw [hdef]; decide), setRow_row_same, hdef]
    rfl

/-- The word at home becomes the function of its old value and the operands. -/
theorem atomicPerform_steps (hfree : ∀ y ∈ (s.row n).landed, y.addr < e.addr ∨ e.addr + sz ≤ y.addr) (hb : s.barred n e.addr = false) :
    let step := atomSteps fn sz e.addr [e, f] (s.word e.addr sz)
    ∃ t, exec (.atomicPerform n id 0 false) s = .next t ∧ (∀ k, k ≠ n → t.row k = s.row k) ∧
      (∀ a, a < e.addr ∨ e.addr + sz ≤ a → t.byte a = s.byte a) ∧ t.word e.addr sz = step.2 % 256 ^ sz ∧
      (t.row n).findOp id = some ⟨id, arm, flag, .atomic fn dst sz 0 .ordinary step.1⟩ := by
  have he := exec_atomicPerform hfind hready false
  obtain ⟨hrow, hbyte, hnone⟩ := flushFor_home hfar e.addr sz
  dsimp only at he ⊢
  rw [if_neg (Bool.eq_false_iff.1 hb), if_neg (by simp)] at he
  generalize s.flushFor (dieOf n) e.addr sz = u at he hrow hbyte hnone
  have hfree' : ∀ y ∈ (u.row n).landed, y.addr < e.addr ∨ e.addr + sz ≤ y.addr := hrow n ▸ hfree
  have hword : leVal (u.ownBytes n id e.addr sz) = s.word e.addr sz := by
    rw [ownBytes_home id hnone hfree']
    exact word_of_bytes hbyte e.addr sz
  rw [hword] at he
  generalize atomSteps fn sz e.addr [e, f] (s.word e.addr sz) = step at he ⊢
  rw [storeBytes_none u n id e.addr (leList sz step.2) (by rw [leList_length]; exact hfree')] at he
  have hfound : ((((u.setBytes e.addr (leList sz step.2)).codeLands e.addr sz)).row n).findOp id = (s.row n).findOp id := by
    rw [codeLands_row, setBytes_row, hrow]
  refine ⟨_, he, fun k hk => ?_, fun a ha => ?_, ?_, (putAtom_row step.1 (hfound.trans hfind)).2⟩
  · rw [State.putAtom, modRow_row_ne _ _ hk, codeLands_row, setBytes_row, hrow]
  · rw [State.putAtom, modRow_byte, codeLands_byte, setBytes_byte_ne _ _ _ _ (by rw [leList_length]; exact ha), hbyte]
  · exact (word_of_bytes (fun b => (modRow_byte ..).trans (codeLands_byte ..)) e.addr sz).trans (setWord_word u e.addr sz step.2)
end

/-! ### Floats at an element (R266) -/

theorem FFmt.decodeMag_inj {f : FFmt} {n k : Bool} {x y : Nat} (h : f.decodeMag n x = f.decodeMag k y)
    (hn : (f.decodeMag n x).isNan = false) : n = k ∧ x = y := by
  have hp : 0 < 2 ^ f.mb := by positivity
  have hx := Nat.div_add_mod x (2 ^ f.mb)
  have hy := Nat.div_add_mod y (2 ^ f.mb)
  have hxr := Nat.mod_lt x hp
  have hyr := Nat.mod_lt y hp
  unfold FFmt.decodeMag at h hn
  generalize x / 2 ^ f.mb = q at h hn hx
  generalize x % 2 ^ f.mb = r at h hn hx hxr
  generalize y / 2 ^ f.mb = q' at h hy
  generalize y % 2 ^ f.mb = r' at h hy hyr
  suffices n = k ∧ q = q' ∧ r = r' by
    obtain ⟨rfl, rfl, rfl⟩ := this
    exact ⟨rfl, hx.symm.trans hy⟩
  split at h
  · split at h
    · split at h
      · split at h
        · exact ⟨FVal.inf.inj h, by omega, by omega⟩
        · cases h
      · split at h <;> cases h
    · rw [if_pos ‹_›, if_neg ‹_›] at hn
      cases hn
  · split at h
    · split at h
      · split at h <;> cases h
      · split at h
        · obtain ⟨h1, h2, -⟩ := FVal.fin.inj h
          exact ⟨h1, by omega, h2⟩
        · obtain ⟨-, h2, -⟩ := FVal.fin.inj h
          omega
    · split at h
      · split at h <;> cases h
      · split at h
        · obtain ⟨-, h2, -⟩ := FVal.fin.inj h
          omega
        · obtain ⟨h1, h2, h3⟩ := FVal.fin.inj h
          exact ⟨h1, by omega, by omega⟩

/-- Encodings that decode alike, to no NaN, are one. -/
theorem FFmt.decode_inj {f : FFmt} {a b : Nat} (ha : a < 2 * f.signBit) (hb : b < 2 * f.signBit) (h : f.decode a = f.decode b)
    (hn : (f.decode a).isNan = false) : a = b := by
  rw [FFmt.decode_of_lt ha, FFmt.decode_of_lt hb] at h
  rw [FFmt.decode_of_lt ha] at hn
  obtain ⟨hs, hx⟩ := FFmt.decodeMag_inj h hn
  have hs : f.signBit ≤ a ↔ f.signBit ≤ b := decide_eq_decide.1 hs
  by_cases hle : f.signBit ≤ a
  · have hle' := hs.1 hle
    rw [Nat.mod_eq_sub_mod hle, Nat.mod_eq_sub_mod hle', Nat.mod_eq_of_lt (by omega), Nat.mod_eq_of_lt (by omega)] at hx
    omega
  · have hle' := mt hs.2 hle
    rwa [Nat.mod_eq_of_lt (by omega), Nat.mod_eq_of_lt (by omega)] at hx

section
variable {o p : Nat} (q : Nat)

theorem atomNew_fadd : atomNew .fadd 4 o p q = (fmt32.add .rne (fmt32.decode o) (fmt32.decode p)).1 := rfl

theorem fmt32_eq_of_inf {b : Bool} (ho : o < 2 ^ 32) (h : fmt32.decode o = .inf b) : fmt32.signed b fmt32.infBits = o :=
  FFmt.decode_inj (FFmt.signed_lt b (FFmt.infBits_lt_signBit fmt32_ok)) ho ((FFmt.decode_inf fmt32_ok b).trans h.symm)
    (by rw [FFmt.decode_inf fmt32_ok b]; rfl)

theorem add_nan {x y : FVal} {b : Bool} (h : x.isNan = true ∨ y.isNan = true ∨ (x = .inf b ∧ y = .inf (!b))) :
    (fmt32.add .rne x y).1 = fmt32.nanBits := by
  rcases h with h | h | ⟨rfl, rfl⟩
  · cases x with
    | nan => rfl
    | inf | fin => cases h
  · cases y with
    | nan => cases x <;> rfl
    | inf | fin => cases h
  · cases b <;> rfl

theorem add_inf {x y : FVal} {b : Bool} (h : (x = .inf b ∧ y.isNan = false ∧ y ≠ .inf (!b)) ∨ (y = .inf b ∧ x.isNan = false ∧ x ≠ .inf (!b))) :
    (fmt32.add .rne x y).1 = fmt32.signed b fmt32.infBits := by
  rcases h with ⟨rfl, hn, hne⟩ | ⟨rfl, hn, hne⟩
  · cases y with
    | nan => cases hn
    | inf c => cases b <;> cases c <;> first | rfl | exact absurd rfl hne
    | fin => rfl
  · cases x with
    | nan => cases hn
    | inf c => cases b <;> cases c <;> first | rfl | exact absurd rfl hne
    | fin => rfl

theorem atomNew_fadd_gives {X Y : ℝ} (hX : (fmt32.decode o).Is X) (hY : (fmt32.decode p).Is Y) :
    ∃ fl, fmt32.Gives .rne (X + Y) ((fmt32.decode o).neg && (fmt32.decode p).neg) (atomNew .fadd 4 o p q, fl) := by
  obtain ⟨n1, m1, e1, hx⟩ := hX.eq_fin
  obtain ⟨n2, m2, e2, hy⟩ := hY.eq_fin
  refine ⟨(fmt32.add .rne (fmt32.decode o) (fmt32.decode p)).2, ?_⟩
  rw [atomNew_fadd]
  rw [hx] at hX ⊢
  rw [hy] at hY ⊢
  refine (FFmt.add_gives fmt32_ok hX hY).zero_eq fun _ => ?_
  cases n1 <;> cases n2 <;> rfl

/-- The element's value where it is not a NaN, and the canonical NaN where it is. -/
def canonBits (v : Nat) : Nat := if (fmt32.decode v).isNan then fmt32.nanBits else v

theorem atomNew_fmin : atomNew .fmin 4 o p q = canonBits (faluVal fmt32 .min .rne o p).1 := rfl
theorem atomNew_fmax : atomNew .fmax 4 o p q = canonBits (faluVal fmt32 .max .rne o p).1 := rfl

theorem canonBits_of_not_nan {v : Nat} (h : (fmt32.decode v).isNan = false) : canonBits v = v := by
  rw [canonBits, h, if_neg Bool.false_ne_true]

section
variable (ho : (fmt32.decode o).isNan = false) (hp : (fmt32.decode p).isNan = false)
include ho hp

theorem atomNew_minmax (h : (fmt32.decode o).below (fmt32.decode p) = true) :
    atomNew .fmin 4 o p q = o ∧ atomNew .fmax 4 o p q = p := by
  obtain ⟨hmin, hmax⟩ := faluVal_min_max .rne ho hp
  rw [if_pos h] at hmin hmax
  rw [atomNew_fmin, atomNew_fmax, hmin, hmax]
  exact ⟨canonBits_of_not_nan ho, canonBits_of_not_nan hp⟩

theorem atomNew_minmax_swapped (h : (fmt32.decode o).below (fmt32.decode p) = false) :
    atomNew .fmin 4 o p q = p ∧ atomNew .fmax 4 o p q = o := by
  obtain ⟨hmin, hmax⟩ := faluVal_min_max .rne ho hp
  rw [h, if_neg Bool.false_ne_true] at hmin hmax
  rw [atomNew_fmin, atomNew_fmax, hmin, hmax]
  exact ⟨canonBits_of_not_nan hp, canonBits_of_not_nan ho⟩

/-- The left operand is the less, or both are one encoding. -/
theorem atomNew_minmax_left (ho32 : o < 2 ^ 32) (hp32 : p < 2 ^ 32)
    (h : (fmt32.decode o).below (fmt32.decode p) = true ∨ fmt32.decode o = fmt32.decode p) :
    atomNew .fmin 4 o p q = o ∧ atomNew .fmax 4 o p q = p := by
  rcases h with h | h
  · exact atomNew_minmax q ho hp h
  · obtain rfl := FFmt.decode_inj ho32 hp32 h ho
    cases hb : (fmt32.decode o).below (fmt32.decode o) with
    | true => exact atomNew_minmax q ho ho hb
    | false => exact atomNew_minmax_swapped q ho ho hb
end

theorem atomNew_minmax_nan :
    ((fmt32.decode o).isNan = true → (fmt32.decode p).isNan = true →
      atomNew .fmin 4 o p q = fmt32.nanBits ∧ atomNew .fmax 4 o p q = fmt32.nanBits) ∧
    ((fmt32.decode o).isNan = true → (fmt32.decode p).isNan = false → atomNew .fmin 4 o p q = p ∧ atomNew .fmax 4 o p q = p) ∧
    ((fmt32.decode o).isNan = false → (fmt32.decode p).isNan = true → atomNew .fmin 4 o p q = o ∧ atomNew .fmax 4 o p q = o) := by
  obtain ⟨hmin2, hminr, hminl⟩ := faluVal_minmax_nan (f := fmt32) .rne (a := o) (b := p) (op := .min) (by simp)
  obtain ⟨hmax2, hmaxr, hmaxl⟩ := faluVal_minmax_nan (f := fmt32) .rne (a := o) (b := p) (op := .max) (by simp)
  have hcanon : canonBits fmt32.nanBits = fmt32.nanBits := ite_self _
  rw [atomNew_fmin, atomNew_fmax]
  refine ⟨fun h1 h2 => ?_, fun h1 h2 => ?_, fun h1 h2 => ?_⟩
  · rw [hmin2 h1 h2, hmax2 h1 h2]
    exact ⟨hcanon, hcanon⟩
  · rw [hminr h1 h2, hmaxr h1 h2]
    exact ⟨canonBits_of_not_nan h2, canonBits_of_not_nan h2⟩
  · rw [hminl h1 h2, hmaxl h1 h2]
    exact ⟨canonBits_of_not_nan h1, canonBits_of_not_nan h1⟩
end

/-! ### Integers at an element (Table 11-3) -/

theorem atomNew_int (sz : Nat) (o p q : BitVec (8 * sz)) :
    let f (fn : AFn) : BitVec (8 * sz) := BitVec.ofNat (8 * sz) (atomNew fn sz o.toNat p.toNat q.toNat)
    f .add = o + p ∧ f .and = o &&& p ∧ f .or = o ||| p ∧ f .xor = o ^^^ p ∧ f .swap = p ∧
      f .cas = (if o = p then q else o) ∧ f .min = (if o.toInt ≤ p.toInt then o else p) ∧
      f .max = (if o.toInt ≤ p.toInt then p else o) ∧ f .minn = (if o.toNat ≤ p.toNat then o else p) ∧
      f .maxn = (if o.toNat ≤ p.toNat then p else o) := by
  simp only [atomNew, BitVec.ofNat_toNat, BitVec.setWidth_eq, true_and, BitVec.slt_iff_toInt_lt, BitVec.ult_iff_toNat_lt]
  have hint : o.toInt = p.toInt → o = p := BitVec.eq_of_toInt_eq
  have hnat : o.toNat = p.toNat → o = p := BitVec.eq_of_toNat_eq
  exact ⟨by split <;> simp, ite_lt_eq_ite_le hint, ite_lt_eq_ite_le fun h => (hint h).symm, ite_lt_eq_ite_le hnat,
    ite_lt_eq_ite_le fun h => (hnat h).symm⟩

/-- Settles O37: the issue of each form by its lanes' keys, the step at an element by the lanes that name it, and the functions of
Table 11-3 by the order of the operands. -/
theorem atomics : Obligations.Atomics := by
  unfold Obligations.Atomics
  refine ⟨fun s u g d idx sd base sc fn o fs wide ret ks c x hq hL ho hr => ?_,
    fun s n id arm flag fn dst sz e f a hfind hready hf hfb hsz hfar hfree => ?_,
    fun w o p q sz hw => by subst hw; exact atomNew_int sz o p q, fun o p q b ho hp => ?_⟩
  · intro r E A w es plain op keys key
    have hpass : r.passes ≤ 32 := Row.passes_le hL
    have haddr := atomLanes_addrs r g d base idx sc
    refine ⟨fun ha hk hplain => ?_, fun ha hk => ?_, fun hg k hk hplain => ?_, fun ha hem hord => ?_,
      fun ha h => amo_passes hq ho hr ha h, fun l hl => atomKeys_side hl⟩
    · have hem := Row.em_ne_zero_of_anyActs ha hL
      have hne : atomLanes r g d base idx sc ≠ [] := mt atomLanes_eq_nil.1 (by rw [ha]; decide)
      have hk' : atomKeys s.cur 4 o s.draw ((atomLanes r g d base idx sc).map (fun l => l.2.1)) = (.ok ks, u) := haddr ▸ hk
      have hes := atomElems_lanes r g d base idx sc ks
      have hamo (ret : Bool) := (amo_comesTo (ret := ret) (fs := fs) hq ho hr hem).atomic hq hpass hne hk' hplain
      rw [hes] at hamo
      have hred := (red_comesTo hq ho hr hem).atomic hq hpass hne hk' hplain
      rw [hes] at hred
      exact ⟨hamo true, hamo false, hred⟩
    · have hem := Row.em_ne_zero_of_anyActs ha hL
      have hk' : atomKeys s.cur 4 o s.draw ((atomLanes r g d base idx sc).map (fun l => l.2.1)) = (.error (c, x), u) := haddr ▸ hk
      exact ⟨(amo_comesTo hq ho hr hem).atomic_traps hk', (red_comesTo hq ho hr hem).atomic_traps hk'⟩
    · exact (amos_comesTo hq ho hg).atomic hq (by decide) (List.cons_ne_nil _ _) hk hplain
    · have hne : atomLanes r g d base idx sc = [] := atomLanes_eq_nil.2 ha
      have hamo (ret : Bool) := (amo_comesTo (ret := ret) (fs := fs) hq ho hr hem).atomic_marks hq hpass hne hord
      exact ⟨hamo true, hamo false, (red_comesTo hq ho hr hem).atomic_marks hq hpass hne hord⟩
  · intro old m second e'
    have hold : e.old = none ∧ e.bad = false := by
      simp only [Row.atomReady, Bool.and_eq_true, Option.isNone_iff_eq_none, Bool.not_eq_true'] at hready
      obtain ⟨⟨⟨⟨h1, h2⟩, -⟩, -⟩, -⟩ := hready
      exact ⟨h1, h2⟩
    have hsz0 : sz ≠ 0 := by omega
    refine ⟨?_, fun hb => atomicPerform_barred hfind hready hfar hb false a, fun hb => ?_⟩
    · cases hb : s.barred n e.addr with
      | true =>
        obtain ⟨t, he, hbyte⟩ := atomicPerform_barred hfind hready hfar hb true a
        exact ⟨t, he, hbyte, fun h => nomatch h⟩
      | false =>
        obtain ⟨t, he, hbyte, hdef⟩ := atomicPerform_ecc hfind hready hfar hb hsz0 a
        exact ⟨t, he, hbyte, fun _ => hdef⟩
    · obtain ⟨t, he, hrow, hbyte, hword, hfound⟩ := atomicPerform_steps hfind hready hfar hfree hb
      rw [atomSteps_two fn sz old hold.1 hold.2 hf hfb] at hword hfound
      refine ⟨t, he, hrow, hbyte a, fun hne => ?_, fun heq => ?_⟩
      · rw [if_neg hne] at hword hfound
        exact ⟨hword, hfound⟩
      · rw [if_pos heq] at hword hfound
        exact ⟨hword, hfound⟩
  · intro x y new nan ordered
    have hp32 : p < 2 * fmt32.signBit := hp
    have ho32 : o < 2 * fmt32.signBit := ho
    obtain ⟨hnan2, hnanr, hnanl⟩ := atomNew_minmax_nan (o := o) (p := p) q
    refine ⟨fun h => add_nan h, fun hx hy hne => (add_inf (.inl ⟨hx, hy, hne⟩)).trans (fmt32_eq_of_inf ho hx),
      fun hy hx hne => (add_inf (.inr ⟨hy, hx, hne⟩)).trans (fmt32_eq_of_inf hp hy), fun X Y hX hY => atomNew_fadd_gives q hX hY,
      hnan2, hnanr, hnanl, fun hx hy => ⟨fun h => ?_, fun h => ?_, fun X Y hX hY => ⟨fun h => ?_, fun h => ?_, fun hXY hxn hyn => ?_⟩⟩⟩
    · exact atomNew_minmax_left q hx hy ho hp (FVal.below_of_inf hx hy h)
    · exact atomNew_minmax_swapped q hx hy (FVal.not_below_of_inf hx hy h)
    · exact atomNew_minmax_left q hx hy ho hp (FFmt.below_or_eq fmt32_ok hX hY h)
    · exact atomNew_minmax_swapped q hx hy (FVal.not_below hX hY h)
    · subst hXY
      have heq := FFmt.decode_unique fmt32_ok hX hY (hxn.trans hyn.symm)
      obtain ⟨hmin, hmax⟩ := atomNew_minmax_left q hx hy ho hp (.inr heq)
      exact ⟨hmin, hmax.trans (FFmt.decode_inj hp32 ho32 heq.symm hy)⟩

end Sys2Proof.Machine
end

section
/-! SUPPORT. Copy engines (R275 to R287): what an engine reads and writes in side memory, the pieces of its data commands, and how
a command starts and ends. -/

namespace Sys2Proof.Machine

/-! ### Engines and their commands in the state -/

theorem setEng_eng (s : State) (d e : Nat) (g : Engine) : (s.setEng d e g).eng d e = g := by
  rw [State.eng, State.setEng, modDie_die_same]
  exact tget_tset_same ..

theorem modEng_eng (s : State) (d e : Nat) (f : Engine → Engine) : (s.modEng d e f).eng d e = f (s.eng d e) := setEng_eng ..

theorem Engine.with_cmd {g : Engine} {c : Cmd} (h : g.cmd = some c) : { g with cmd := some c } = g := by rw [← h]

/-- Only the command of an engine is changed. -/
theorem modCmd_eng {s : State} {d e : Nat} {c : Cmd} (h : (s.eng d e).cmd = some c) (f : Cmd → Cmd) :
    (s.modCmd d e f).eng d e = { s.eng d e with cmd := some (f c) } := by
  rw [State.modCmd, modEng_eng, h, Option.map_some]

theorem modCmd_keeps (s : State) (d e : Nat) (f : Cmd → Cmd) : (∀ m, (s.modCmd d e f).row m = s.row m) ∧
    (∀ z, (s.modCmd d e f).byte z = s.byte z) ∧ (s.modCmd d e f).job.checked = s.job.checked ∧
    ((s.modCmd d e f).die d).halted = (s.die d).halted := by
  refine ⟨fun _ => rfl, fun _ => rfl, rfl, ?_⟩
  unfold State.modCmd State.modEng State.setEng
  rw [modDie_die_same]

/-! ### Bytes written at keys -/

/-- Bytes written in turn. -/
def State.putAll (s : State) (l : List (Nat × W8)) : State := l.foldl (fun s x => s.setByte x.1 x.2) s

theorem putAll_keeps {γ : Type} {f : State → γ} (hbyte : ∀ t a v, f (State.setByte t a v) = f t) (l : List (Nat × W8)) (s : State) :
    f (s.putAll l) = f s :=
  foldl_keeps (f := fun (s : State) (x : Nat × W8) => s.setByte x.1 x.2) (obs := f) (fun t x => hbyte t x.1 x.2) l s

theorem putAll_byte_ne {l : List (Nat × W8)} {z : Nat} (h : ∀ x ∈ l, x.1 ≠ z) (s : State) : (s.putAll l).byte z = s.byte z := by
  induction l generalizing s with
  | nil => rfl
  | cons x l ih =>
    rw [State.putAll, List.foldl_cons, ← State.putAll, ih fun y hy => h y (List.mem_cons_of_mem x hy), setByte_byte,
      if_neg (h x List.mem_cons_self).symm]

/-- A key that is written with one value only reads it. -/
theorem putAll_byte_mem {l : List (Nat × W8)} {z : Nat} {v : W8} (hmem : (z, v) ∈ l) (h : ∀ x ∈ l, x.1 = z → x.2 = v) (s : State) :
    (s.putAll l).byte z = v := by
  induction l generalizing s with
  | nil => exact absurd hmem List.not_mem_nil
  | cons x l ih =>
    rw [State.putAll, List.foldl_cons, ← State.putAll]
    by_cases hlater : ∃ y ∈ l, y.1 = z
    · obtain ⟨y, hy, rfl⟩ := hlater
      obtain rfl := h y (List.mem_cons_of_mem x hy) rfl
      exact ih hy (fun w hw => h w (List.mem_cons_of_mem x hw)) _
    · simp only [not_exists, not_and] at hlater
      have hx : (z, v) = x := (List.mem_cons.1 hmem).resolve_right fun hm => hlater _ hm rfl
      rw [putAll_byte_ne hlater, setByte_byte, ← hx, if_pos rfl]

theorem putAll_append (s : State) (l m : List (Nat × W8)) : s.putAll (l ++ m) = (s.putAll l).putAll m := List.foldl_append

/-- What a write leaves depends on the bytes alone. -/
theorem putAll_congr {s t : State} (h : ∀ z, t.byte z = s.byte z) (l : List (Nat × W8)) (z : Nat) :
    (t.putAll l).byte z = (s.putAll l).byte z := by
  induction l generalizing s t with
  | nil => exact h z
  | cons x l ih =>
    refine ih (s := s.setByte x.1 x.2) (t := t.setByte x.1 x.2) fun z => ?_
    rw [setByte_byte, setByte_byte, h z]

/-! ### Side memory as an engine reaches it (R244) -/

/-- The key of byte i of a range in side memory. -/
def sideKey (a : W64) (i : Nat) : Nat := (a + BitVec.ofNat 64 i).toNat

/-- Each of n bytes lies in a page of side memory that is not checked. -/
def State.Reaches (s : State) (a : W64) (n : Nat) : Prop := ∀ i, i < n → sideFault (a + BitVec.ofNat 64 i) = none ∧
  s.checked (a + BitVec.ofNat 64 i).toNat = false

theorem sideBase_le_of_fine {a : W64} (h : sideFault a = none) : sideBase ≤ a.toNat := by
  by_contra hlow
  rw [sideFault_of_low (Nat.not_le.1 hlow)] at h
  cases h

theorem getLsbD_of_fine {a : W64} (h : sideFault a = none) : a.getLsbD 55 = true := by
  unfold sideFault at h
  by_contra hbit
  rw [Bool.not_eq_true] at hbit
  rw [hbit] at h
  split at h <;> cases h

theorem sideKey_inj {a : W64} {i j : Nat} (hi : i < 2 ^ 64) (hj : j < 2 ^ 64) (h : sideKey a i = sideKey a j) : i = j := by
  have h := congrArg BitVec.toNat (add_left_cancel (BitVec.eq_of_toNat_eq h))
  rwa [BitVec.toNat_ofNat, BitVec.toNat_ofNat, Nat.mod_eq_of_lt hi, Nat.mod_eq_of_lt hj] at h

theorem sideKey_zero (a : W64) : sideKey a 0 = a.toNat := congrArg BitVec.toNat (BitVec.add_zero a)

theorem add_ofNat_succ (a : W64) (i : Nat) : a + BitVec.ofNat 64 (i + 1) = a + 1 + BitVec.ofNat 64 i := by
  rw [Nat.add_comm, BitVec.ofNat_add, ← BitVec.add_assoc]
  rfl

section
variable {s : State} {d e u n : Nat} {a : W64}

theorem engKey_side (use : Use) (hf : sideFault a = none) (hc : s.checked a.toNat = false) :
    s.engKey d e u a use = (.ok a.toNat, s) := by
  simp [State.engKey, State.reach, getLsbD_of_fine hf, hf, State.denied, hc]

theorem Reaches.tail (h : s.Reaches a (n + 1)) : s.Reaches (a + 1) n := fun i hi => by
  have hi := h (i + 1) (Nat.succ_lt_succ hi)
  rwa [add_ofNat_succ] at hi

theorem engKeys_side (use : Use) (h : s.Reaches a n) : s.engKeys d e u use n a = (.ok ((List.range n).map (sideKey a)), s) := by
  induction n generalizing a with
  | zero => rfl
  | succ n ih =>
    obtain ⟨hf, hc⟩ := h 0 n.succ_pos
    rw [BitVec.add_zero] at hf hc
    have hrest := ih (Reaches.tail h)
    have hkeys : (List.range n).map (sideKey (a + 1)) = (List.range n).map (fun i => sideKey a (i + 1)) :=
      List.map_congr_left fun i _ => congrArg BitVec.toNat (add_ofNat_succ a i).symm
    rw [State.engKeys, engKey_side use hf hc]
    dsimp only
    rw [hrest, hkeys, List.range_succ_eq_map, List.map_cons, List.map_map]
    refine congrArg (fun k => (Except.ok (k :: _), s)) ?_
    rw [sideKey, BitVec.add_zero]

theorem engRead_side (h : s.Reaches a n) :
    s.engRead d e u a n false = (.ok ((List.range n).map (fun i => s.byte (sideKey a i))), s) := by
  rw [State.engRead, engKeys_side .read h]
  simp [Function.comp_def]

theorem engWrite_side {bs : List W8} (h : s.Reaches a bs.length) :
    s.engWrite d e u a bs = .ok (s.engPut d e ((List.range bs.length).map (sideKey a)) bs) := by
  rw [State.engWrite, engKeys_side .write h]

theorem Reaches.keys (h : s.Reaches a n) : ∀ k ∈ (List.range n).map (sideKey a), sideBase ≤ k := by
  intro k hk
  obtain ⟨i, hi, rfl⟩ := List.mem_map.1 hk
  exact sideBase_le_of_fine (h i (List.mem_range.1 hi)).1

/-- Of side memory nothing is remembered for instruction fetch. -/
theorem record_side {ks : List Nat} (h : ∀ k ∈ ks, sideBase ≤ k) (c : Cmd) : Cmd.record s ks c = c := by
  have hu (u : Tbl (Option (Nat × W8))) : ks.foldl (fun u k => if k < sideBase && (tget none u k).isNone then
      tset none u k (some ((s.undoAt k).foldl (fun m x => max m x.1) 0 + 1, s.byte k)) else u) u = u := by
    induction ks generalizing u with
    | nil => rfl
    | cons k ks ih =>
      have hk := h k List.mem_cons_self
      rw [List.foldl_cons, decide_eq_false (Nat.not_lt.2 hk), Bool.false_and, if_neg Bool.false_ne_true]
      exact ih (fun x hx => h x (List.mem_cons_of_mem k hx)) u
  rw [Cmd.record, hu]
end

/-! ### What a piece of work leaves -/

/-- `t` is `s` with bytes written and the command of an engine changed, as far as data commands see the state. -/
structure EngWrote (s t : State) (d e : Nat) (l : List (Nat × W8)) (c : Cmd) : Prop where
  rows : ∀ m, t.row m = s.row m
  eng : t.eng d e = { s.eng d e with cmd := some c }
  bytes : ∀ z, t.byte z = (s.putAll l).byte z
  checked : t.job.checked = s.job.checked
  halted : (t.die d).halted = (s.die d).halted

section
variable {s t u : State} {d e : Nat} {l m : List (Nat × W8)} {c c' : Cmd}

theorem EngWrote.trans (h : EngWrote s t d e l c) (k : EngWrote t u d e m c') : EngWrote s u d e (l ++ m) c' where
  rows n := (k.rows n).trans (h.rows n)
  eng := by rw [k.eng, h.eng]
  bytes z := by rw [k.bytes, putAll_append]; exact putAll_congr h.bytes m z
  checked := k.checked.trans h.checked
  halted := k.halted.trans h.halted

theorem EngWrote.reaches (h : EngWrote s t d e l c) {a : W64} {n : Nat} (hr : s.Reaches a n) : t.Reaches a n := by
  intro i hi
  rw [State.checked, h.checked]
  exact hr i hi

/-- Bytes put in side memory, and the command gone on. -/
theorem engPut_wrote {ks : List Nat} {bs : List W8} (hc : (s.eng d e).cmd = some c) (hk : ∀ k ∈ ks, sideBase ≤ k) (f : Cmd → Cmd) :
    EngWrote s ((s.engPut d e ks bs).modCmd d e f) d e (ks.zip bs) (f c) := by
  obtain ⟨hrow, hbyte, hch, hhalt⟩ := modCmd_keeps s d e (Cmd.record s ks)
  obtain ⟨hrow', hbyte', hch', hhalt'⟩ := modCmd_keeps (s.engPut d e ks bs) d e f
  have hput {γ : Type} (o : State → γ) (ho : ∀ t a v, o (State.setByte t a v) = o t) :
      o (s.engPut d e ks bs) = o (s.modCmd d e (Cmd.record s ks)) := putAll_keeps ho _ _
  have heng : (s.engPut d e ks bs).eng d e = s.eng d e := by
    rw [hput (fun t => t.eng d e) fun _ _ _ => rfl, modCmd_eng hc, record_side hk]
    exact Engine.with_cmd hc
  exact {
    rows := fun n => (hrow' n).trans ((hput (fun t => t.row n) fun _ _ _ => rfl).trans (hrow n))
    eng := by rw [modCmd_eng (by rw [heng]; exact hc), heng]
    bytes := fun z => (hbyte' z).trans (putAll_congr hbyte _ z)
    checked := hch'.trans ((hput (fun t => t.job.checked) fun _ _ _ => rfl).trans hch)
    halted := hhalt'.trans ((hput (fun t => (t.die d).halted) fun _ _ _ => rfl).trans hhalt) }
end

/-! ### Steps of a command -/

/-- An engine that is at work on a command of a kind. -/
structure EngRuns (s : State) (d e kind : Nat) (c : Cmd) : Prop where
  cmd : (s.eng d e).cmd = some c
  fault : (s.eng d e).fault = 0
  halted : (s.die d).halted = false
  phase : c.phase = 0
  kind : c.kind = kind

section
variable {s : State} {d e kind : Nat} {c : Cmd}

theorem engStep_runs (h : EngRuns s d e kind c) (f : State → Engine → Cmd → State) :
    engStep kind d e f s = .next (f s.draw (s.eng d e) c) := by
  unfold engStep
  simp only [h.cmd, h.fault, h.halted, h.phase, h.kind, decide_true, Bool.not_false, Bool.true_or, Bool.and_self, if_true]

theorem boxStep_runs (h : EngRuns s d e kind c) (f : State → Cmd → State) :
    boxStep kind d e f s = .next (unitStep d e (fun c => c.into.pieceAddr c.pos) f 8 s.draw) := engStep_runs h _

variable {at_ : Cmd → W64} {f : State → Cmd → State} {c' : Cmd} (k : Nat)

theorem unitStep_eq (hc : (s.eng d e).cmd = some c) (hc' : ((f s c).eng d e).cmd = some c') : unitStep d e at_ f (k + 1) s =
    if ((f s c).eng d e).fault = 0 && c'.phase = 0 && c'.pos != c.pos && (at_ c') >>> 3 == (at_ c) >>> 3
        && (!((f s c).die d).halted || (f s c).midBlock d c') then unitStep d e at_ f k (f s c) else f s c := by
  rw [unitStep]
  simp only [hc, hc']

/-- The command's data are written, its place has not moved, or the next piece lies in another unit. -/
theorem unitStep_stops (hc : (s.eng d e).cmd = some c) (hc' : ((f s c).eng d e).cmd = some c')
    (h : c'.phase ≠ 0 ∨ c'.pos = c.pos ∨ (at_ c') >>> 3 ≠ (at_ c) >>> 3) : unitStep d e at_ f (k + 1) s = f s c := by
  rw [unitStep_eq k hc hc', if_neg]
  rcases h with h | h | h <;> simp [h]

theorem unitStep_goes (hc : (s.eng d e).cmd = some c) (hc' : ((f s c).eng d e).cmd = some c') (hf : ((f s c).eng d e).fault = 0)
    (hp : c'.phase = 0) (hpos : c'.pos ≠ c.pos) (hu : (at_ c') >>> 3 = (at_ c) >>> 3) (hh : ((f s c).die d).halted = false) :
    unitStep d e at_ f (k + 1) s = unitStep d e at_ f k (f s c) := by
  rw [unitStep_eq k hc hc', if_pos]
  simp [hf, hp, hpos, hu, hh]
end

/-- One piece further. -/
def Cmd.pieceOn (c : Cmd) (total : Nat) : Cmd := { c with pos := c.pos + 1, phase := if total ≤ c.pos + 1 then 1 else 0 }

/-- The next piece of a box lies in another aligned unit, or there is none. -/
def Cmd.alone (c : Cmd) : Prop :=
  c.into.work ≤ c.pos + 1 ∨ c.into.pieceAddr (c.pos + 1) >>> 3 ≠ c.into.pieceAddr c.pos >>> 3

section
variable {s : State} {d e kind : Nat} {c : Cmd} {l : List (Nat × W8)}

/-- A unit of one piece. -/
theorem boxStep_alone (h : EngRuns s d e kind c) (ha : c.alone) {f : State → Cmd → State}
    (hf : EngWrote s.draw (f s.draw c) d e l (c.pieceOn c.into.work)) : boxStep kind d e f s = .next (f s.draw c) := by
  refine (boxStep_runs h f).trans (congrArg Host.Outcome.next (unitStep_stops (s := s.draw) 7 h.cmd (by rw [hf.eng]) ?_))
  rcases ha with ha | ha
  · exact .inl (by simp [Cmd.pieceOn, ha])
  · exact .inr (.inr ha)

variable {a : W64} {bs : List W8}

/-- A piece written to side memory. -/
theorem writePiece_wrote (hc : (s.eng d e).cmd = some c) (hr : s.Reaches a bs.length) (w : Nat) :
    EngWrote s (engDo s d e ((s.engWrite d e d a bs).map (fun t => t.piece d e w))) d e
      (((List.range bs.length).map (sideKey a)).zip bs) (c.pieceOn w) := by
  rw [engWrite_side hr]
  exact engPut_wrote hc (Reaches.keys hr) _

variable {p q : Desc} {src : List Nat → List Nat}

/-- A piece of the box's interior. -/
theorem moveElem_inner (hc : (s.eng d e).cmd = some c) (hi : q.isInner (q.at_ c.pos).1 = true)
    (hd : s.Reaches (q.pieceAddr c.pos) q.piece) (hs : s.Reaches (p.byteAddr (src (q.at_ c.pos).1) (q.at_ c.pos).2) q.piece) :
    EngWrote s (moveElem d e false s c p q src) d e (((List.range q.piece).map (sideKey (q.pieceAddr c.pos))).zip
      ((List.range q.piece).map (fun b => s.byte (sideKey (p.byteAddr (src (q.at_ c.pos).1) (q.at_ c.pos).2) b)))) (c.pieceOn q.work) := by
  have hlen : ((List.range q.piece).map (fun b => s.byte (sideKey (p.byteAddr (src (q.at_ c.pos).1) (q.at_ c.pos).2) b))).length = q.piece := by
    rw [List.length_map, List.length_range]
  have hw := writePiece_wrote hc (hlen.symm ▸ hd) q.work
  rw [hlen] at hw
  have he : moveElem d e false s c p q src = engDo s d e ((s.engWrite d e d (q.pieceAddr c.pos)
      ((List.range q.piece).map (fun b => s.byte (sideKey (p.byteAddr (src (q.at_ c.pos).1) (q.at_ c.pos).2) b)))).map
        (fun t => t.piece d e q.work)) := by
    simp only [moveElem, hi, if_true, State.badRead, Bool.false_and, engRead_side hs]
  rwa [he]

/-- A piece of the padding. -/
theorem moveElem_pad (hc : (s.eng d e).cmd = some c) (hi : q.isInner (q.at_ c.pos).1 = false)
    (hd : s.Reaches (q.pieceAddr c.pos) q.piece) :
    EngWrote s (moveElem d e false s c p q src) d e (((List.range q.piece).map (sideKey (q.pieceAddr c.pos))).zip
      (fillBytes q.fmt (q.pad.setWidth 64) (q.at_ c.pos).2 q.piece)) (c.pieceOn q.work) := by
  have hlen : (fillBytes q.fmt (q.pad.setWidth 64) (q.at_ c.pos).2 q.piece).length = q.piece := by
    rw [fillBytes, List.length_map, List.length_range]
  have hw := writePiece_wrote hc (hlen.symm ▸ hd) q.work
  rw [hlen] at hw
  have he : moveElem d e false s c p q src = engDo s d e ((s.engWrite d e d (q.pieceAddr c.pos)
      (fillBytes q.fmt (q.pad.setWidth 64) (q.at_ c.pos).2 q.piece)).map (fun t => t.piece d e q.work)) := by
    simp only [moveElem, hi, Bool.false_eq_true, if_false]
  rwa [he]
end

/-- What a data command leaves after a piece of n bytes at an address: those bytes, no other, and its engine gone on. -/
def WrotePiece (s : State) (i : Instr) (d e : Nat) (a : W64) (n : Nat) (f : Nat → W8) (next : Cmd) : Prop := ∃ t, exec i s = .next t ∧
  (∀ j, j < n → t.byte (sideKey a j) = f j) ∧ (∀ z, (∀ j, j < n → sideKey a j ≠ z) → t.byte z = s.byte z) ∧
  (t.eng d e).cmd = some next ∧ (t.eng d e).seq = (s.eng d e).seq ∧ (t.eng d e).head = (s.eng d e).head ∧ ∀ m, t.row m = s.row m

theorem mem_zip_side {n : Nat} {a : W64} {bs : List W8} (hlen : bs.length = n) {x : Nat × W8} :
    x ∈ ((List.range n).map (sideKey a)).zip bs ↔ ∃ j < n, (sideKey a j, bs.getD j 0) = x := by
  have hzip : ((List.range n).map (sideKey a)).zip bs = (List.range n).map (fun j => (sideKey a j, bs.getD j 0)) := by
    refine List.ext_getElem (by simp [hlen]) fun j h1 h2 => ?_
    simp only [List.length_zip, List.length_map, List.length_range] at h1
    simp [List.getD_eq_getElem?_getD, List.getElem?_eq_getElem (show j < bs.length by omega)]
  simp [hzip]

theorem EngWrote.piece {s t : State} {i : Instr} {d e n : Nat} {a : W64} {bs : List W8} {c : Cmd} (he : exec i s = .next t) (hn : n < 2 ^ 64)
    (hlen : bs.length = n) (h : EngWrote s.draw t d e (((List.range n).map (sideKey a)).zip bs) c) :
    WrotePiece s i d e a n (fun j => bs.getD j 0) c := by
  refine ⟨t, he, fun j hj => (h.bytes _).trans (putAll_byte_mem ((mem_zip_side hlen).2 ⟨j, hj, rfl⟩) (fun x hx hxz => ?_) s.draw),
    fun z hz => (h.bytes z).trans (putAll_byte_ne (fun x hx => ?_) s.draw), by rw [h.eng], by rw [h.eng]; rfl, by rw [h.eng]; rfl, h.rows⟩
  · obtain ⟨k, hk, rfl⟩ := (mem_zip_side hlen).1 hx
    rw [sideKey_inj (by omega) (by omega) hxz]
  · obtain ⟨k, hk, rfl⟩ := (mem_zip_side hlen).1 hx
    exact hz k hk

theorem WrotePiece.congr {s : State} {i : Instr} {d e n : Nat} {a : W64} {f f' : Nat → W8} {c : Cmd} (h : WrotePiece s i d e a n f c)
    (hf : ∀ j < n, f j = f' j) : WrotePiece s i d e a n f' c := by
  obtain ⟨t, he, hnew, hrest⟩ := h
  exact ⟨t, he, fun j hj => (hnew j hj).trans (hf j hj), hrest⟩

theorem getD_map_range (f : Nat → W8) {n j : Nat} (h : j < n) : ((List.range n).map f).getD j 0 = f j := by
  simp [List.getD_eq_getElem?_getD, h]

/-! ### COPY, FILL, TILE, TRANSPOSE and GATHER (R279, R284, R285) -/

theorem Desc.piece_pos (q : Desc) : 0 < q.piece := by
  have hE : 0 < q.E := by
    unfold Desc.E fmtBytes
    split
    · positivity
    · split <;> omega
  unfold Desc.piece
  omega

theorem Desc.piece_lt (q : Desc) : q.piece < 2 ^ 64 := Nat.lt_of_le_of_lt (Nat.min_le_right _ _) (by decide)

section
variable {s : State} {d e : Nat} {c : Cmd}

theorem copyKeys_side {n : Nat} {a b : W64} (ha : s.Reaches a n) (hb : s.Reaches b n) :
    s.copyKeys d e n a b = ((List.range n).map (fun i => (sideKey a i, sideKey b i)), none, s) := by
  induction n generalizing a b with
  | zero => rfl
  | succ n ih =>
    obtain ⟨haf, hac⟩ := ha 0 n.succ_pos
    obtain ⟨hbf, hbc⟩ := hb 0 n.succ_pos
    rw [BitVec.add_zero] at haf hac hbf hbc
    have hkey (x : W64) (i : Nat) : sideKey (x + 1) i = sideKey x (i + 1) := congrArg BitVec.toNat (add_ofNat_succ x i).symm
    rw [State.copyKeys, engKey_side .read haf hac]
    dsimp only
    rw [engKey_side .write hbf hbc]
    dsimp only
    rw [ih (Reaches.tail ha) (Reaches.tail hb), List.range_succ_eq_map, List.map_cons, List.map_map]
    simp only [hkey, Function.comp_def, Nat.succ_eq_add_one, sideKey_zero]

/-- COPY: the bytes up to the destination's next 8-byte boundary. -/
theorem copy_wrote (h : EngRuns s d e 1 c) {n : Nat} {a b : W64} (ha' : c.word 3 + BitVec.ofNat 64 c.pos = a)
    (hb' : c.word 2 + BitVec.ofNat 64 c.pos = b) (hn' : min (8 - a.toNat % 8) ((c.word 4).toNat - c.pos) = n)
    (ha : s.Reaches a n) (hb : s.Reaches b n) : WrotePiece s (.copy d e false) d e a n (fun j => s.byte (sideKey b j))
      { c with pos := c.pos + n, phase := if (c.word 4).toNat ≤ c.pos + n then 1 else 0 } := by
  have hkeys : s.draw.copyKeys d e n b a = _ := copyKeys_side (s := s.draw) hb ha
  have hbad : (List.range ((List.range n).map (fun i => (sideKey b i, sideKey a i))).length).find?
      (fun i => s.draw.badRead false (c.pos + i)) = none := List.find?_eq_none.2 fun i _ => by simp [State.badRead]
  have he : exec (.copy d e false) s = execCopy d e false s := rfl
  unfold execCopy at he
  rw [engStep_runs h] at he
  simp only [ha', hb', hn', hkeys, hbad] at he
  have hbytes : ((List.range n).map (fun i => (sideKey b i, sideKey a i))).map (fun x => s.draw.byte x.1) =
      (List.range n).map (fun i => s.byte (sideKey b i)) := by rw [List.map_map]; rfl
  have hkeys' : ((List.range n).map (fun i => (sideKey b i, sideKey a i))).map Prod.snd = (List.range n).map (sideKey a) := by
    rw [List.map_map]; rfl
  rw [hbytes, hkeys'] at he
  have hwrote := engPut_wrote (s := s.draw) (bs := (List.range n).map (fun i => s.byte (sideKey b i))) h.cmd
    (Reaches.keys (s := s) ha) (fun x => { x with pos := x.pos + n, phase := if (c.word 4).toNat ≤ x.pos + n then 1 else 0 })
  exact (hwrote.piece he (by omega) (by simp)).congr fun j hj => getD_map_range _ hj

/-- One piece of FILL. -/
theorem fill_step (s : State) (hc : (s.eng d e).cmd = some c) (hr : s.Reaches (c.into.pieceAddr c.pos) c.into.piece) :
    EngWrote s (engDo s d e ((s.engWrite d e d (c.into.pieceAddr c.pos)
      (fillBytes c.into.fmt (c.word 3) (c.into.at_ c.pos).2 c.into.piece)).map (fun t => t.piece d e c.into.work))) d e
      (((List.range c.into.piece).map (sideKey (c.into.pieceAddr c.pos))).zip
        (fillBytes c.into.fmt (c.word 3) (c.into.at_ c.pos).2 c.into.piece)) (c.pieceOn c.into.work) := by
  have hlen : (fillBytes c.into.fmt (c.word 3) (c.into.at_ c.pos).2 c.into.piece).length = c.into.piece := by
    rw [fillBytes, List.length_map, List.length_range]
  have hw := writePiece_wrote hc (hlen.symm ▸ hr) c.into.work
  rwa [hlen] at hw

theorem fillBytes_length (f : Nat) (x : W64) (o n : Nat) : (fillBytes f x o n).length = n := by
  rw [fillBytes, List.length_map, List.length_range]

theorem fill_wrote (h : EngRuns s d e 5 c) (ha : c.alone) (hr : s.Reaches (c.into.pieceAddr c.pos) c.into.piece) :
    WrotePiece s (.fill d e) d e (c.into.pieceAddr c.pos) c.into.piece
      (fun j => (fillBytes c.into.fmt (c.word 3) (c.into.at_ c.pos).2 c.into.piece).getD j 0) (c.pieceOn c.into.work) := by
  have hstep := fill_step s.draw h.cmd hr
  exact hstep.piece ((show exec (.fill d e) s = execFill d e s from rfl).trans (boxStep_alone h ha hstep)) c.into.piece_lt
    (fillBytes_length ..)

section
variable {kind : Nat} {i : Instr} {f : State → Cmd → State} {p : Desc} {src : List Nat → List Nat}
  (he : exec i s = boxStep kind d e f s) (h : EngRuns s d e kind c) (ha : c.alone)
  (hf : f s.draw c = moveElem d e false s.draw c p c.into src) (hd : s.Reaches (c.into.pieceAddr c.pos) c.into.piece)
include he h ha hf hd

/-- A command that moves an element of the box's interior. -/
theorem move_wrote (hi : c.into.isInner (c.into.at_ c.pos).1 = true)
    (hs : s.Reaches (p.byteAddr (src (c.into.at_ c.pos).1) (c.into.at_ c.pos).2) c.into.piece) :
    WrotePiece s i d e (c.into.pieceAddr c.pos) c.into.piece
      (fun b => s.byte (sideKey (p.byteAddr (src (c.into.at_ c.pos).1) (c.into.at_ c.pos).2) b)) (c.pieceOn c.into.work) := by
  have hstep := moveElem_inner (s := s.draw) h.cmd hi hd hs
  rw [← hf] at hstep
  exact (hstep.piece (he.trans (boxStep_alone h ha hstep)) c.into.piece_lt (by simp)).congr fun j hj => getD_map_range _ hj

/-- A command that writes a piece of the box's padding. -/
theorem pad_wrote (hi : c.into.isInner (c.into.at_ c.pos).1 = false) :
    WrotePiece s i d e (c.into.pieceAddr c.pos) c.into.piece
      (fun j => (fillBytes c.into.fmt (c.into.pad.setWidth 64) (c.into.at_ c.pos).2 c.into.piece).getD j 0) (c.pieceOn c.into.work) := by
  have hstep := moveElem_pad (s := s.draw) (p := p) (src := src) h.cmd hi hd
  rw [← hf] at hstep
  exact hstep.piece (he.trans (boxStep_alone h ha hstep)) c.into.piece_lt (fillBytes_length ..)
end

/-- A slice of GATHER whose index has been read goes on with it. -/
theorem gather_continues (hne : c.pos % c.into.pieces ≠ 0 ∨ ∃ j < 4, (c.into.at_ c.pos).1.getD j 0 ≠ c.into.lo j) :
    (c.into.isInner (c.into.at_ c.pos).1 && (c.into.at_ c.pos).2 = 0 &&
      [0, 1, 2, 3].all (fun k => (c.into.at_ c.pos).1.getD k 0 == c.into.lo k)) = false := by
  rcases hne with hne | ⟨j, hj, hne⟩
  · have ho : (c.into.at_ c.pos).2 ≠ 0 := (Nat.mul_pos c.into.piece_pos (Nat.pos_of_ne_zero hne)).ne'
    rw [decide_eq_false ho, Bool.and_false, Bool.false_and]
  · have hall : [0, 1, 2, 3].all (fun k => (c.into.at_ c.pos).1.getD k 0 == c.into.lo k) = false := by
      rw [List.all_eq_false]
      exact ⟨j, by interval_cases j <;> simp, by simpa using hne⟩
    rw [hall, Bool.and_false]
end

/-- What FILL writes as piece `p` of its box. -/
def Cmd.fillWrites (c : Cmd) (p : Nat) : List (Nat × W8) :=
  ((List.range c.into.piece).map (sideKey (c.into.pieceAddr p))).zip (fillBytes c.into.fmt (c.word 3) (c.into.at_ p).2 c.into.piece)

/-- Pieces of FILL that lie in one aligned unit, as far as the unit or `n` of them go. -/
theorem fill_unit {d e : Nat} {fill : State → Cmd → State} (hfill : ∀ (s : State) (c : Cmd), (s.eng d e).cmd = some c →
      s.Reaches (c.into.pieceAddr c.pos) c.into.piece → EngWrote s (fill s c) d e (c.fillWrites c.pos) (c.pieceOn c.into.work)) (k : Nat) :
    ∀ (n : Nat) (s : State) (c : Cmd), (s.eng d e).cmd = some c → (s.eng d e).fault = 0 → (s.die d).halted = false → k + 1 ≤ n →
      c.pos + (k + 1) ≤ c.into.work →
      (∀ j < k + 1, c.into.pieceAddr (c.pos + j) >>> 3 = c.into.pieceAddr c.pos >>> 3 ∧ s.Reaches (c.into.pieceAddr (c.pos + j)) c.into.piece) →
      (k + 1 = n ∨ c.pos + (k + 1) = c.into.work ∨ c.into.pieceAddr (c.pos + (k + 1)) >>> 3 ≠ c.into.pieceAddr c.pos >>> 3) →
      EngWrote s (unitStep d e (fun c => c.into.pieceAddr c.pos) fill n s) d e
        ((List.range (k + 1)).flatMap (fun j => c.fillWrites (c.pos + j)))
        { c with pos := c.pos + (k + 1), phase := if c.into.work ≤ c.pos + (k + 1) then 1 else 0 } := by
  induction k with
  | zero =>
    intro n s c hc hf hh hn hw hu hstop
    obtain ⟨n, rfl⟩ : ∃ m, n = m + 1 := ⟨n - 1, by omega⟩
    have hr := (hu 0 (by omega)).2
    have hstep := hfill s c hc hr
    have hend : unitStep d e (fun c => c.into.pieceAddr c.pos) fill (n + 1) s = fill s c := by
      rcases hstop with hstop | hstop | hstop
      · obtain rfl : n = 0 := by omega
        rw [unitStep_eq 0 hc (by rw [hstep.eng])]
        exact ite_self _
      · exact unitStep_stops n hc (by rw [hstep.eng]) (.inl (by simp [Cmd.pieceOn, hstop.ge]))
      · exact unitStep_stops n hc (by rw [hstep.eng]) (.inr (.inr hstop))
    rw [hend]
    simpa [Cmd.pieceOn] using hstep
  | succ k ih =>
    intro n s c hc hf hh hn hw hu hstop
    obtain ⟨n, rfl⟩ : ∃ m, n = m + 1 := ⟨n - 1, by omega⟩
    have hstep := hfill s c hc (hu 0 (by omega)).2
    have hphase : (c.pieceOn c.into.work).phase = 0 := if_neg (by omega)
    have hgo : unitStep d e (fun c => c.into.pieceAddr c.pos) fill (n + 1) s =
        unitStep d e (fun c => c.into.pieceAddr c.pos) fill n (fill s c) :=
      unitStep_goes n hc (by rw [hstep.eng]) (by rw [hstep.eng]; exact hf) hphase (Nat.succ_ne_self _) (hu 1 (by omega)).1
        (hstep.halted.trans hh)
    have hadd (j : Nat) : c.pos + 1 + j = c.pos + (j + 1) := by omega
    have hrest := ih n (fill s c) (c.pieceOn c.into.work) (by rw [hstep.eng]) (by rw [hstep.eng]; exact hf) (hstep.halted.trans hh)
      (by omega) (show c.pos + 1 + (k + 1) ≤ c.into.work by omega) (fun j hj => ?_) ?_
    · rw [hgo]
      have htrans := hstep.trans hrest
      have hlater : (fun j => c.fillWrites (c.pos + (j + 1))) = fun j => c.fillWrites (c.pos + 1 + j) := funext fun j => by rw [hadd]
      rw [List.range_succ_eq_map, List.flatMap_cons, List.flatMap_map, Nat.add_zero, ← hadd (k + 1)]
      simp only [Nat.succ_eq_add_one]
      rw [hlater]
      exact htrans
    · obtain ⟨hju, hjr⟩ := hu (j + 1) (by omega)
      have hj1 : (c.pieceOn c.into.work).pos + j = c.pos + (j + 1) := hadd j
      rw [hj1]
      exact ⟨hju.trans (hu 1 (by omega)).1.symm, hstep.reaches hjr⟩
    · have hk1 : (c.pieceOn c.into.work).pos + (k + 1) = c.pos + (k + 1 + 1) := hadd (k + 1)
      rw [hk1]
      rcases hstop with hstop | hstop | hstop
      · exact .inl (by omega)
      · exact .inr (.inl hstop)
      · exact .inr (.inr fun heq => hstop (heq.trans (hu 1 (by omega)).1))

/-! ### The shape of a box (R285) -/

theorem isInner_iff (q : Desc) (i : List Nat) :
    q.isInner i = true ↔ ∀ k, k < 5 → q.lo k ≤ i.getD k 0 ∧ i.getD k 0 < q.sz k - q.hi k := by
  unfold Desc.isInner dims
  simp only [List.all_eq_true, Bool.and_eq_true, decide_eq_true_eq]
  refine ⟨fun h k hk => h k (by interval_cases k <;> simp), fun h k hk => h k ?_⟩
  simp only [List.mem_cons, List.not_mem_nil, or_false] at hk
  omega

/-- The indices of an element are the digits of its number. -/
theorem idx_digits {q : Desc} {k : Nat} (h0 : 0 < q.sz 0) (h1 : 0 < q.sz 1) (h2 : 0 < q.sz 2) (h3 : 0 < q.sz 3) (hk : k < q.total) :
    let x := q.idx k
    (x.getD 0 0 + q.sz 0 * (x.getD 1 0 + q.sz 1 * (x.getD 2 0 + q.sz 2 * (x.getD 3 0 + q.sz 3 * x.getD 4 0))) = k) ∧
      ∀ j, j < 5 → x.getD j 0 < q.sz j := by
  intro x
  unfold Desc.total at hk
  refine ⟨?_, fun j hj => ?_⟩
  · show k % q.sz 0 + q.sz 0 * (k / q.sz 0 % q.sz 1 + q.sz 1 * (k / (q.sz 0 * q.sz 1) % q.sz 2 +
      q.sz 2 * (k / (q.sz 0 * q.sz 1 * q.sz 2) % q.sz 3 + q.sz 3 * (k / (q.sz 0 * q.sz 1 * q.sz 2 * q.sz 3))))) = k
    simp only [← Nat.div_div_eq_div_mul, Nat.mod_add_div]
  · interval_cases j
    · exact Nat.mod_lt _ h0
    · exact Nat.mod_lt _ h1
    · exact Nat.mod_lt _ h2
    · exact Nat.mod_lt _ h3
    · exact Nat.div_lt_of_lt_mul hk

end Sys2Proof.Machine
end

section
/-! SUPPORT. How a command of a copy engine starts, ends and faults (R276 to R278, R287, R290), and the commands on circular
buffers and on the array (R280 to R282, R292). -/

namespace Sys2Proof.Machine

/-! ### What leaves the engines alone -/

theorem modDie_eng {f : Die → Die} (hf : ∀ y, (f y).engines = y.engines) (s : State) (n d e : Nat) :
    (s.modDie n f).eng d e = s.eng d e := by
  unfold State.eng State.modDie
  rw [setDie_die]
  split
  · subst d
    rw [hf]
  · rfl

theorem modDie_buf {f : Die → Die} (hf : ∀ y, (f y).bufs = y.bufs) (s : State) (n d b : Nat) :
    (s.modDie n f).buf d b = s.buf d b := by
  unfold State.buf State.modDie
  rw [setDie_die]
  split
  · subst d
    rw [hf]
  · rfl

theorem acquireAt_eng (s : State) (n : Nat) (sc : Sys2Proof.Scope) (d e : Nat) : (s.acquireAt n sc).eng d e = s.eng d e := by
  unfold State.acquireAt State.dropClean State.dropIf
  split
  · exact modDie_eng (hf := by intro y; rfl) s n d e
  · rfl

theorem acquireAt_byte (s : State) (n : Nat) (sc : Sys2Proof.Scope) (z : Nat) : (s.acquireAt n sc).byte z = s.byte z := by
  unfold State.acquireAt
  split <;> rfl

theorem acquireAt_checked (s : State) (n : Nat) (sc : Sys2Proof.Scope) : (s.acquireAt n sc).job.checked = s.job.checked := by
  unfold State.acquireAt
  split <;> rfl

theorem acquireAt_buf (s : State) (n : Nat) (sc : Sys2Proof.Scope) (d b : Nat) : (s.acquireAt n sc).buf d b = s.buf d b := by
  unfold State.acquireAt State.dropClean State.dropIf
  split
  · exact modDie_buf (hf := by intro y; rfl) s n d b
  · rfl

theorem releaseAt_row (s : State) (d : Nat) (sc : Sys2Proof.Scope) (n : Nat) : (s.releaseAt d sc).row n = s.row n := by
  unfold State.releaseAt
  split
  · exact writeBack_row s d n
  · rfl

theorem modCmd_buf (s : State) (d e : Nat) (f : Cmd → Cmd) (n b : Nat) : (s.modCmd d e f).buf n b = s.buf n b := by
  unfold State.modCmd State.modEng State.setEng
  exact modDie_buf (hf := by intro y; rfl) s d n b

theorem setBuf_eng (s : State) (d b : Nat) (x : CBuf) (n e : Nat) : (s.setBuf d b x).eng n e = s.eng n e := by
  unfold State.setBuf
  exact modDie_eng (hf := by intro y; rfl) s d n e

theorem setBuf_buf (s : State) (d b : Nat) (x : CBuf) : (s.setBuf d b x).buf d b = x := by
  rw [State.buf, State.setBuf, modDie_die_same]
  exact tget_tset_same ..

/-! ### Faults (R278, R290) -/

theorem defer_keeps {γ : Type} {f : State → γ} (hrow : ∀ t n x, f (State.setRow t n x) = f t) (hraise : ∀ t x, f (State.raise t x) = f t)
    (s : State) (n : Nat) (c : W8) (x : W64) : f (s.defer n c x) = f s := by
  by_cases h : ⟨c, x⟩ ∈ (s.row n).deferred
  · rw [defer_merged h]
  · by_cases hl : (s.row n).deferred.length < 8
    · rw [defer_kept h hl, hrow]
    · rw [defer_lost h (Nat.not_lt.1 hl), hraise]

theorem tellAll_keeps {γ : Type} {f : State → γ} (hrow : ∀ t n x, f (State.setRow t n x) = f t)
    (hraise : ∀ t x, f (State.raise t x) = f t) (s : State) (d e : Nat) : f (s.tellAll d e) = f s := by
  refine foldl_keeps (fun t x => ?_) s.job.rows s
  refine foldl_keeps (fun t o => ?_) (t.row x.1).ops t
  split
  · split
    · exact (defer_keeps hrow hraise _ _ _ _).trans (hrow _ _ _)
    · rfl
  · rfl

theorem modCmds_eng (s : State) (f : Cmd → Cmd) (d e : Nat) :
    (s.modCmds f).eng d e = { s.eng d e with cmd := (s.eng d e).cmd.map f } := by
  have hdie : (s.modCmds f).die d = { s.die d with engines := (s.die d).engines.map (fun e => (e.1, { e.2 with cmd := e.2.cmd.map f })) } :=
    tget_map (d := Die.reset) (d' := Die.reset)
      (fun _ x => { x with engines := x.engines.map (fun e => (e.1, { e.2 with cmd := e.2.cmd.map f })) }) s.job.dies d rfl
  rw [State.eng, hdie]
  exact tget_map (d := Engine.reset) (d' := Engine.reset) (fun _ g => { g with cmd := g.cmd.map f }) (s.die d).engines e rfl

section
variable {s : State} {d e : Nat} {c : Cmd}

theorem codeSettled_keeps (s : State) (d e : Nat) : (∀ n, (s.codeSettled d e).row n = s.row n) ∧
    ∀ z, (s.codeSettled d e).byte z = s.byte z := by
  unfold State.codeSettled
  split
  · unfold State.codeDone
    split <;> exact ⟨fun _ => rfl, fun _ => rfl⟩
  · exact ⟨fun _ => rfl, fun _ => rfl⟩

theorem codeSettled_eng (hc : (s.eng d e).cmd = some c) :
    ∃ u, (s.codeSettled d e).eng d e = { s.eng d e with cmd := some { c with undo := u } } := by
  unfold State.codeSettled
  rw [hc]
  dsimp only
  unfold State.codeDone
  split
  · exact ⟨c.undo, (Engine.with_cmd hc).symm⟩
  · rw [modCmds_eng, hc]
    exact ⟨_, rfl⟩

theorem codeSettled_fresh (hc : (s.eng d e).cmd = some c) (hu : c.undo = []) : s.codeSettled d e = s := by
  unfold State.codeSettled
  rw [hc]
  exact if_pos (by rw [hu]; rfl)

theorem engFault_eng (x : Nat) (a : W64) : (s.engFault d e x a).eng d e =
    { (s.codeSettled d e).eng d e with fault := x, failAddr := a, failRec := ((s.codeSettled d e).eng d e).head } := by
  rw [State.engFault]
  generalize s.codeSettled d e = t
  dsimp only
  rw [tellAll_keeps (f := fun t => t.eng d e) (fun _ _ _ => rfl) (fun _ _ => rfl)]
  exact Eq.trans (b := (t.modEng d e (fun g => { g with fault := x, failAddr := a, failRec := g.head })).eng d e) rfl
    (modEng_eng t d e _)

theorem engFault_byte (x : Nat) (a : W64) (z : Nat) : (s.engFault d e x a).byte z = s.byte z := by
  rw [State.engFault]
  refine Eq.trans ?_ ((codeSettled_keeps s d e).2 z)
  generalize s.codeSettled d e = t
  rw [tellAll_keeps (f := fun t => t.byte z) (fun _ _ _ => rfl) (fun _ _ => rfl)]
  rfl
end

/-! ### Start and end of a command (R276 to R278, R287) -/

theorem toNat_byte0 (x : W64) : (x.extractLsb' 0 8).toNat = x.toNat % 256 := by simp

/-- The command that a record gives. -/
def freshCmd (s : State) (w : Nat → W64) : Cmd :=
  ⟨tabulate 0 16 w, if usesSrc ((w 0).toNat % 256) then some (s.desc (srcHandle w)) else none,
    if usesDst ((w 0).toNat % 256) then some (s.desc (dstHandle w)) else none, 0, 0, none, 0, false, [], [], 0, [], []⟩

/-- Word i of a record of 128 bytes. -/
def recordWord (b : List W8) (i : Nat) : W64 := BitVec.ofNat 64 (leVal ((b.drop (8 * i)).take 8))

/-- The command of a record, once it has been read. -/
def cmdRead (s : State) (d e : Nat) (w : Nat → W64) : State :=
  (s.acquireAt d .device).setEng d e { s.eng d e with cmd := some (freshCmd s w) }

section
variable {s : State} {d e : Nat} {c : Cmd}

/-- The record at the head is read, and its command begins or faults. -/
theorem exec_engineCommandStart (hf : (s.eng d e).fault = 0) (hh : (s.die d).halted = false) (hi : (s.eng d e).idle = false)
    (hc : (s.eng d e).cmd = none) (hal : (s.eng d e).head.toNat % 128 = 0) (hr : s.Reaches (s.eng d e).head 128) {w : Nat → W64}
    (hw : recordWord ((List.range 128).map (fun i => s.byte (sideKey (s.eng d e).head i))) = w) :
    exec (.engineCommandStart d e false) s = .next (match startFault s d w (s.desc (srcHandle w)) (s.desc (dstHandle w)) with
      | some x => (cmdRead s d e w).engFault d e x 0
      | none => if (w 0).getLsbD 8 then (cmdRead s d e w).acquireAt d (freshCmd s w).scope else cmdRead s d e w) := by
  have hal' : (s.eng d e).head.extractLsb' 0 7 = 0 := BitVec.eq_of_toNat_eq (by simpa using hal)
  have hside : sideFault (s.eng d e).head = none := by
    have := (hr 0 (by decide)).1
    rwa [BitVec.add_zero] at this
  have hread : (s.acquireAt d .device).engRead d e d (s.eng d e).head 128 false =
      (.ok ((List.range 128).map (fun i => s.byte (sideKey (s.eng d e).head i))), s.acquireAt d .device) := by
    rw [engRead_side fun i hi => by rw [State.checked, acquireAt_checked]; exact hr i hi]
    simp only [acquireAt_byte]
  refine (show exec (.engineCommandStart d e false) s = execEngineCommandStart d e false s from rfl).trans ?_
  unfold execEngineCommandStart
  simp only [hi, hf, hc, hh, hal', hside, ne_eq, not_true_eq_false, decide_false, Option.isSome_none,
    Bool.or_self, Bool.false_eq_true, if_false, bne_self_eq_false]
  generalize (List.range 128).map (fun i => s.byte (sideKey (s.eng d e).head i)) = bs at hread hw
  have hword (i : Nat) : BitVec.ofNat 64 (leVal ((bs.drop (8 * i)).take 8)) = w i := by rw [← hw, recordWord]
  rw [hread]
  dsimp only
  rw [acquireAt_eng]
  simp only [hword, toNat_byte0]
  rw [cmdRead, freshCmd]
  split <;> rename_i h <;> rw [h]

theorem cmdRead_byte (w : Nat → W64) (z : Nat) : (cmdRead s d e w).byte z = s.byte z := acquireAt_byte s d .device z

theorem cmdRead_eng (w : Nat → W64) : (cmdRead s d e w).eng d e = { s.eng d e with cmd := some (freshCmd s w) } := setEng_eng ..

theorem engineCommandStart_reads (hf : (s.eng d e).fault = 0) (hh : (s.die d).halted = false) (hi : (s.eng d e).idle = false)
    (hc : (s.eng d e).cmd = none) (hal : (s.eng d e).head.toNat % 128 = 0) (hr : s.Reaches (s.eng d e).head 128) {w : Nat → W64}
    (hw : recordWord ((List.range 128).map (fun i => s.byte (sideKey (s.eng d e).head i))) = w) :
    ∃ t, exec (.engineCommandStart d e false) s = .next t ∧ (∀ z, t.byte z = s.byte z) ∧
      (startFault s d w (s.desc (srcHandle w)) (s.desc (dstHandle w)) = none →
        t.eng d e = { s.eng d e with cmd := some (freshCmd s w) }) ∧
      ∀ x, startFault s d w (s.desc (srcHandle w)) (s.desc (dstHandle w)) = some x →
        t.eng d e = { s.eng d e with cmd := some (freshCmd s w), fault := x, failAddr := 0, failRec := (s.eng d e).head } := by
  refine ⟨_, exec_engineCommandStart hf hh hi hc hal hr hw, ?_⟩
  have hbyte := cmdRead_byte (s := s) (d := d) (e := e) w
  have heng := cmdRead_eng (s := s) (d := d) (e := e) w
  generalize cmdRead s d e w = r at hbyte heng
  cases hs : startFault s d w (s.desc (srcHandle w)) (s.desc (dstHandle w)) with
  | none =>
    refine ⟨fun z => ?_, fun _ => ?_, fun x hx => absurd hx.symm (Option.some_ne_none x)⟩
    · dsimp only
      split
      · rw [acquireAt_byte, hbyte]
      · exact hbyte z
    · dsimp only
      split
      · rw [acquireAt_eng, heng]
      · exact heng
  | some x =>
    refine ⟨fun z => (engFault_byte x 0 z).trans (hbyte z), fun h => absurd h (Option.some_ne_none x), fun y hy => ?_⟩
    obtain rfl := Option.some.inj hy
    rw [engFault_eng, codeSettled_fresh (c := freshCmd s w) (by rw [heng]) rfl, heng]

theorem engineCommandComplete_ends (hc : (s.eng d e).cmd = some c) (hf : (s.eng d e).fault = 0) (hh : (s.die d).halted = false)
    (hfo : c.fo = false) (hp : c.phase = 1) : ∃ t, exec (.engineCommandComplete d e) s = .next t ∧
      t.eng d e = { (s.eng d e).goTo (c.word 1) with cmd := none, seq := (s.eng d e).seq + 1 } ∧ ∀ m, t.row m = s.row m := by
  have he : exec (.engineCommandComplete d e) s = execEngineCommandComplete d e s := rfl
  simp only [execEngineCommandComplete, hc, hf, hh, hfo, hp, decide_true, Bool.not_false, Bool.and_self, Bool.false_eq_true, if_false,
    if_true] at he
  refine ⟨_, he, setEng_eng .., fun m => ?_⟩
  exact (releaseAt_row _ d _ m).trans ((codeSettled_keeps s d e).1 m)

/-! ### Commands without data -/

theorem nopCommand_counts (h : EngRuns s d e 0 c) : exec (.nopCommand d e) s =
    .next (s.draw.setEng d e { s.eng d e with cmd := some { c with pos := c.pos + 1, phase := 1 } }) := by
  refine (show exec (.nopCommand d e) s = execNopCommand d e s from rfl).trans ?_
  unfold execNopCommand
  refine (engStep_runs h _).trans (congrArg Host.Outcome.next ?_)
  have hc : (s.draw.eng d e).cmd = some c := h.cmd
  rw [State.piece, State.modCmd, State.modEng, hc, Option.map_some, if_pos (Nat.zero_le _)]
  rfl

theorem toNat_field (x : W64) (k n : Nat) : (x.extractLsb' k n).toNat = x.toNat / 2 ^ k % 2 ^ n := by
  rw [BitVec.extractLsb'_toNat, Nat.shiftRight_eq_div_pow]

theorem toNat_field6 (x : W64) : (x.extractLsb' 0 6).toNat = x.toNat % 64 := by
  rw [toNat_field, Nat.pow_zero, Nat.div_one]
  rfl

theorem bufferSetUp_busy (h : EngRuns s d e 9 c) (hb : s.bufBusy d ((c.word 4).toNat % 64) = true) :
    ∃ t, exec (.bufferSetUp d e) s = .next t ∧ ∃ u, t.eng d e =
      { s.eng d e with cmd := some { c with undo := u }, fault := 10, failAddr := 0, failRec := (s.eng d e).head } := by
  have he : exec (.bufferSetUp d e) s = .next (s.draw.engFault d e 10 0) := by
    refine (show exec (.bufferSetUp d e) s = execBufferSetUp d e s from rfl).trans ?_
    unfold execBufferSetUp
    refine (engStep_runs h _).trans (congrArg Host.Outcome.next ?_)
    dsimp only
    rw [toNat_field6]
    exact if_pos hb
  obtain ⟨u, hu⟩ := codeSettled_eng (s := s.draw) (d := d) (e := e) h.cmd
  exact ⟨_, he, u, by rw [engFault_eng, hu]; rfl⟩

theorem bufferSetUp_sets (h : EngRuns s d e 9 c) (hb : s.bufBusy d ((c.word 4).toNat % 64) = false) :
    ∃ t, exec (.bufferSetUp d e) s = .next t ∧ (t.eng d e).cmd = some { c with pos := c.pos + 1, phase := 1 } ∧
      t.buf d ((c.word 4).toNat % 64) =
        ⟨c.word 2, (c.word 3).toNat % 2 ^ 17, (c.word 3).toNat / 2 ^ 32 % 512, [], [], 0, 0, false, true⟩ := by
  generalize hx : (⟨c.word 2, (c.word 3).toNat % 2 ^ 17, (c.word 3).toNat / 2 ^ 32 % 512, [], [], 0, 0, false, true⟩ : CBuf) = x
  have he : exec (.bufferSetUp d e) s = .next ((s.draw.setBuf d ((c.word 4).toNat % 64) x).piece d e 0) := by
    refine (show exec (.bufferSetUp d e) s = execBufferSetUp d e s from rfl).trans ?_
    unfold execBufferSetUp
    refine (engStep_runs h _).trans (congrArg Host.Outcome.next ?_)
    dsimp only
    rw [toNat_field6, toNat_field, toNat_field, Nat.pow_zero, Nat.div_one, ← hx]
    exact if_neg (Bool.eq_false_iff.1 hb)
  have hc : ((s.draw.setBuf d ((c.word 4).toNat % 64) x).eng d e).cmd = some c := by rw [setBuf_eng]; exact h.cmd
  refine ⟨_, he, ?_, ?_⟩
  · rw [State.piece, modCmd_eng hc, if_pos (Nat.zero_le _)]
  · rw [State.piece, modCmd_buf, setBuf_buf]

/-! ### Slots of a buffer -/

theorem setSlot_slot (x : CBuf) (i : Nat) (k : SlotSt) : (x.setSlot i k).slot i = k := tget_tset_same ..

/-- A slot is taken for a command: its buffer, and the command's place in it. -/
def takeSlot (s : State) (d e b : Nat) (x : CBuf) (i : Nat) : State :=
  ((s.setBuf d b x).acquireAt d .device).modCmd d e (fun c => { c with slot := some i, fill := 0 })

theorem takeSlot_eng (hc : (s.eng d e).cmd = some c) (b : Nat) (x : CBuf) (i : Nat) :
    ((takeSlot s d e b x i).eng d e).cmd = some { c with slot := some i, fill := 0 } := by
  rw [takeSlot, modCmd_eng (c := c) (by rw [acquireAt_eng, setBuf_eng]; exact hc)]

theorem takeSlot_buf (b : Nat) (x : CBuf) (i : Nat) : (takeSlot s d e b x i).buf d b = x := by
  rw [takeSlot, modCmd_buf, acquireAt_buf, setBuf_buf]

/-- A unit that stops after its first step: the place has not moved, or the data are written. -/
theorem engStep_unit_stops {kind : Nat} (h : EngRuns s d e kind c) {at_ : Cmd → W64} {f : State → Cmd → State} {t : State} {c' : Cmd}
    (hf : f s.draw c = t) (hc' : (t.eng d e).cmd = some c') (hstop : c'.phase ≠ 0 ∨ c'.pos = c.pos) :
    engStep kind d e (fun s _ _ => unitStep d e at_ f 8 s) s = .next t := by
  subst hf
  refine (engStep_runs h _).trans (congrArg Host.Outcome.next (unitStep_stops (s := s.draw) 7 h.cmd hc' ?_))
  exact hstop.imp id .inl

theorem edgeFeed_takes (h : EngRuns s d e 7 c) (hs : c.slot = none) {b : Nat} (hb : (c.word 3).toNat % 64 = b)
    (hbad : s.bufBad d b true = false) (hfree : (s.buf d b).slot (s.buf d b).p = .free) : ∃ t, exec (.edgeFeed d e false) s = .next t ∧
      (t.eng d e).cmd = some { c with slot := some (s.buf d b).p, fill := 0 } ∧ (t.buf d b).slot (s.buf d b).p = .held := by
  have hb' : ((c.word 3).extractLsb' 0 6).toNat = b := (toNat_field6 _).trans hb
  have hfree' : (s.draw.buf d b).slot (s.draw.buf d b).p = .free := hfree
  have hbad' : s.draw.bufBad d b true = false := hbad
  generalize hx : { (s.buf d b).setSlot (s.buf d b).p .held with p := ((s.buf d b).p + 1) % (s.buf d b).n } = x
  have htake : (s.draw.buf d b).prodTake = some (x, (s.buf d b).p) := by
    rw [CBuf.prodTake, hfree', ← hx]
    rfl
  refine ⟨takeSlot s.draw d e b x (s.buf d b).p, ?_, takeSlot_eng (s := s.draw) h.cmd b x _, ?_⟩
  · refine (show exec (.edgeFeed d e false) s = execEdgeFeed d e false s from rfl).trans ?_
    unfold execEdgeFeed
    refine engStep_unit_stops h ?_ (takeSlot_eng (s := s.draw) h.cmd b x _) (.inr rfl)
    simp only [hs, hb', hbad', htake, Bool.false_eq_true, if_false]
    rfl
  · rw [takeSlot_buf, ← hx]
    exact setSlot_slot (s.buf d b) (s.buf d b).p .held

theorem edgeFeed_waits (h : EngRuns s d e 7 c) (hs : c.slot = none) {b : Nat} (hb : (c.word 3).toNat % 64 = b)
    (hbad : s.bufBad d b true = false) (hfree : (s.buf d b).slot (s.buf d b).p ≠ .free) :
    exec (.edgeFeed d e false) s = .next s.draw := by
  have hb' : ((c.word 3).extractLsb' 0 6).toNat = b := (toNat_field6 _).trans hb
  have hbad' : s.draw.bufBad d b true = false := hbad
  have htake : (s.draw.buf d b).prodTake = none := if_neg (by rwa [beq_iff_eq])
  refine (show exec (.edgeFeed d e false) s = execEdgeFeed d e false s from rfl).trans ?_
  unfold execEdgeFeed
  refine engStep_unit_stops h ?_ h.cmd (.inr rfl)
  simp only [hs, hb', hbad', htake, Bool.false_eq_true, if_false]

section
variable (h : EngRuns s d e 8 c) (hpos : c.pos / c.into.E ≤ c.into.lastInner) (hs : c.slot = none) {b : Nat}
  (hb : (c.word 3).toNat % 64 = b) (hbad : s.bufBad d b false = false)
include h hpos hs hb hbad

theorem edgeDrain_ends (hend : (s.buf d b).atEnd = true) :
    ∃ t, exec (.edgeDrain d e) s = .next t ∧ (t.eng d e).cmd = some { c with phase := 1 } := by
  have hb' : ((c.word 3).extractLsb' 0 6).toNat = b := (toNat_field6 _).trans hb
  have hbad' : s.draw.bufBad d b false = false := hbad
  have hend' : (s.draw.buf d b).atEnd = true := hend
  have hc : ((s.draw.modCmd d e (fun c => { c with phase := 1 })).eng d e).cmd = some { c with phase := 1 } := by
    rw [modCmd_eng (s := s.draw) h.cmd]
  refine ⟨_, ?_, hc⟩
  refine (show exec (.edgeDrain d e) s = execEdgeDrain d e s from rfl).trans ?_
  unfold execEdgeDrain
  refine engStep_unit_stops h ?_ hc (.inr rfl)
  simp only [hs, hb', hbad', hend', Nat.not_lt.2 hpos, Bool.false_eq_true, if_false, if_true]

theorem edgeDrain_takes (hfull : (s.buf d b).slot (s.buf d b).c = .filled) : ∃ t, exec (.edgeDrain d e) s = .next t ∧
    (t.eng d e).cmd = some { c with slot := some (s.buf d b).c, fill := 0 } ∧ (t.buf d b).slot (s.buf d b).c = .taken := by
  have hb' : ((c.word 3).extractLsb' 0 6).toNat = b := (toNat_field6 _).trans hb
  have hbad' : s.draw.bufBad d b false = false := hbad
  have hend : (s.draw.buf d b).atEnd = false := by
    have hfull' : (s.draw.buf d b).slot (s.draw.buf d b).c = .filled := hfull
    rw [CBuf.atEnd, hfull']
    simp
  generalize hx : { (s.buf d b).setSlot (s.buf d b).c .taken with c := ((s.buf d b).c + 1) % (s.buf d b).n } = x
  have htake : (s.draw.buf d b).consTake = some (x, (s.buf d b).c) := by
    rw [← hx]
    exact if_pos (by rw [beq_iff_eq]; exact hfull)
  refine ⟨takeSlot s.draw d e b x (s.buf d b).c, ?_, takeSlot_eng (s := s.draw) h.cmd b x _, ?_⟩
  · refine (show exec (.edgeDrain d e) s = execEdgeDrain d e s from rfl).trans ?_
    unfold execEdgeDrain
    refine engStep_unit_stops h ?_ (takeSlot_eng (s := s.draw) h.cmd b x _) (.inr rfl)
    simp only [hs, hb', hbad', hend, htake, Nat.not_lt.2 hpos, Bool.false_eq_true, if_false]
    rfl
  · rw [takeSlot_buf, ← hx]
    exact setSlot_slot (s.buf d b) (s.buf d b).c .taken
end

theorem pairedCommit_begins (h : EngRuns s d e 6 c) (hc : s.job.commit = none) : exec (.pairedCommit d e false) s =
    .next (s.draw.modJob (fun j => { j with commit := some ⟨d, e, [], [], false⟩ })) := by
  refine (show exec (.pairedCommit d e false) s = execPairedCommit d e false s from rfl).trans ?_
  unfold execPairedCommit
  refine (engStep_runs h _).trans ?_
  have hc' : s.draw.job.commit = none := hc
  simp only [hc']

theorem followOnMmac_queues {f : MmacF} {gd : Guard} (hc : (s.eng d e).cmd = some c) (hf : (s.eng d e).fault = 0)
    (hh : (s.die d).halted = false) (hfo : c.fo = true) (hp : c.phase = 1) (hdec : decode (c.word 12) = .ok (.mmac gd f))
    (hlife : (s.row c.row).life ≠ .idle) (hill : mmacIllegal f (s.row c.row) = false) (hreg : (s.row c.row).Has (mmacRegs f (s.row c.row)))
    (hmm : mmacFault s c.row f (c.word 13) (c.word 14) = none) (hq : (s.row c.row).queue.length < 4) :
    ∃ t, exec (.followOnMmac d e) s = .next t ∧ (t.eng d e).cmd = some { c with phase := 2 } ∧
      (t.row c.row).queue = (s.row c.row).queue ++
        [⟨(s.row c.row).nextId, .mmac (c.word 12) f (c.word 13) (c.word 14) (c.word 15) 0 (e + 1)⟩] ∧
      ∀ i, i ≠ c.row → t.row i = s.row i := by
  have he : exec (.followOnMmac d e) s = execFollowOnMmac d e s := rfl
  have hbad : (s.row c.row).badReg (mmacRegs f (s.row c.row)) = none := hreg.badReg
  have hlife' : ((s.row c.row).life == .idle) = false := by simpa using hlife
  simp only [execFollowOnMmac, hc, hf, hh, hfo, hp, hdec, hlife', hill, hbad, hmm, Nat.not_le.2 hq, decide_true, Bool.not_false, Bool.and_self,
    Bool.or_self, Option.isSome_none, Bool.false_eq_true, if_false, if_true] at he
  generalize hg : (fun r : Row => _) = g at he
  have hqueue : (g (s.row c.row)).queue = (s.row c.row).queue ++
      [⟨(s.row c.row).nextId, .mmac (c.word 12) f (c.word 13) (c.word 14) (c.word 15) 0 (e + 1)⟩] := by rw [← hg]
  refine ⟨_, he, ?_, ?_, fun i hi => ?_⟩
  · rw [modCmd_eng (s := s.modRow c.row g) (c := c) hc]
  · rw [(modCmd_keeps _ d e _).1, modRow_row_same, hqueue]
  · rw [(modCmd_keeps _ d e _).1, modRow_row_ne _ _ hi]
end

end Sys2Proof.Machine
end

section
/-! SUPPORT. The obligation on copy engines: each command, from the lemmas about its piece of work. -/

namespace Sys2Proof.Machine

section
variable {s : State} {d e : Nat} {c : Cmd}

theorem mem_fillWrites {p : Nat} {x : Nat × W8} : x ∈ c.fillWrites p ↔ ∃ b < c.into.piece, (sideKey (c.into.pieceAddr p) b,
    (fillBytes c.into.fmt (c.word 3) (c.into.at_ p).2 c.into.piece).getD b 0) = x :=
  mem_zip_side (fillBytes_length ..)

/-- FILL where k pieces lie in one unit. -/
theorem fill_wrote_unit (h : EngRuns s d e 5 c) {k : Nat} (h1 : 1 ≤ k) (h8 : k ≤ 8) (hw : c.pos + k ≤ c.into.work)
    (hu : ∀ j < k, c.into.pieceAddr (c.pos + j) >>> 3 = c.into.pieceAddr c.pos >>> 3 ∧
      s.Reaches (c.into.pieceAddr (c.pos + j)) c.into.piece)
    (hstop : k = 8 ∨ c.pos + k = c.into.work ∨ c.into.pieceAddr (c.pos + k) >>> 3 ≠ c.into.pieceAddr c.pos >>> 3) :
    ∃ t, exec (.fill d e) s = .next t ∧
      (t.eng d e).cmd = some { c with pos := c.pos + k, phase := if c.into.work ≤ c.pos + k then 1 else 0 } ∧
      (∀ z, (∀ j < k, ∀ b < c.into.piece, sideKey (c.into.pieceAddr (c.pos + j)) b ≠ z) → t.byte z = s.byte z) ∧
      ∀ j < k, ∀ b < c.into.piece, (∀ h < k, ∀ b' < c.into.piece,
          sideKey (c.into.pieceAddr (c.pos + h)) b' = sideKey (c.into.pieceAddr (c.pos + j)) b → h = j ∧ b' = b) →
        t.byte (sideKey (c.into.pieceAddr (c.pos + j)) b) =
          (fillBytes c.into.fmt (c.word 3) (c.into.at_ (c.pos + j)).2 c.into.piece).getD b 0 := by
  obtain ⟨k, rfl⟩ : ∃ m, k = m + 1 := ⟨k - 1, by omega⟩
  have hstep := fill_unit (d := d) (e := e) (fun s _ hc hr => fill_step s hc hr) k 8 s.draw c h.cmd h.fault h.halted h8 hw hu hstop
  refine ⟨_, (show exec (.fill d e) s = execFill d e s from rfl).trans (boxStep_runs h _), by rw [hstep.eng], fun z hz => ?_,
    fun j hj b hb huniq => ?_⟩
  · refine (hstep.bytes z).trans (putAll_byte_ne (fun x hx => ?_) s.draw)
    obtain ⟨j, hj, hx⟩ := List.mem_flatMap.1 hx
    obtain ⟨b, hb, rfl⟩ := mem_fillWrites.1 hx
    exact hz j (List.mem_range.1 hj) b hb
  · have hmem := mem_fillWrites (c := c) (p := c.pos + j).2 ⟨b, hb, rfl⟩
    refine (hstep.bytes _).trans (putAll_byte_mem (List.mem_flatMap.2 ⟨j, List.mem_range.2 hj, hmem⟩) (fun x hx hxz => ?_) s.draw)
    obtain ⟨h, hh, hx⟩ := List.mem_flatMap.1 hx
    obtain ⟨b', hb', rfl⟩ := mem_fillWrites.1 hx
    obtain ⟨rfl, rfl⟩ := huniq h (List.mem_range.1 hh) b' hb' hxz
    rfl

/-- The source elements of TILE and TRANSPOSE for an element of the box. -/
def tileSrc (q : Desc) (i : List Nat) : List Nat := dims.map (fun k => i.getD k 0 - q.lo k)

def transposeSrc (w : W64) (q : Desc) (i : List Nat) : List Nat :=
  dims.map (fun k => (dims.map (fun j => if permOf w j = k then i.getD j 0 - q.lo j else 0)).sum)

theorem exec_tile (s : State) (d e : Nat) : exec (.tile d e false) s =
    boxStep 2 d e (fun s c => moveElem d e false s c c.from_ c.into (tileSrc c.into)) s := rfl

theorem exec_transpose (s : State) (d e : Nat) : exec (.transpose d e false) s =
    boxStep 4 d e (fun s c => moveElem d e false s c c.from_ c.into (transposeSrc (c.word 3) c.into)) s := rfl

section
variable (ha : c.alone) (hd : s.Reaches (c.into.pieceAddr c.pos) c.into.piece)
include ha hd

theorem tile_wrote (h : EngRuns s d e 2 c) (hi : c.into.isInner (c.into.at_ c.pos).1 = true)
    (hs : s.Reaches (c.from_.byteAddr (tileSrc c.into (c.into.at_ c.pos).1) (c.into.at_ c.pos).2)
      c.into.piece) :
    WrotePiece s (.tile d e false) d e (c.into.pieceAddr c.pos) c.into.piece (fun b => s.byte (sideKey (c.from_.byteAddr
      (tileSrc c.into (c.into.at_ c.pos).1) (c.into.at_ c.pos).2) b)) (c.pieceOn c.into.work) :=
  move_wrote (exec_tile s d e) h ha rfl hd hi hs

theorem tile_padded (h : EngRuns s d e 2 c) (hi : c.into.isInner (c.into.at_ c.pos).1 = false) :
    WrotePiece s (.tile d e false) d e (c.into.pieceAddr c.pos) c.into.piece
      (fun j => (fillBytes c.into.fmt (c.into.pad.setWidth 64) (c.into.at_ c.pos).2 c.into.piece).getD j 0) (c.pieceOn c.into.work) :=
  pad_wrote (exec_tile s d e) h ha rfl hd hi

theorem transpose_wrote (h : EngRuns s d e 4 c) (hi : c.into.isInner (c.into.at_ c.pos).1 = true)
    (hs : s.Reaches (c.from_.byteAddr (transposeSrc (c.word 3) c.into (c.into.at_ c.pos).1) (c.into.at_ c.pos).2) c.into.piece) :
    WrotePiece s (.transpose d e false) d e (c.into.pieceAddr c.pos) c.into.piece
      (fun b => s.byte (sideKey (c.from_.byteAddr (transposeSrc (c.word 3) c.into (c.into.at_ c.pos).1) (c.into.at_ c.pos).2) b))
      (c.pieceOn c.into.work) :=
  move_wrote (exec_transpose s d e) h ha rfl hd hi hs

theorem transpose_padded (h : EngRuns s d e 4 c) (hi : c.into.isInner (c.into.at_ c.pos).1 = false) :
    WrotePiece s (.transpose d e false) d e (c.into.pieceAddr c.pos) c.into.piece
      (fun j => (fillBytes c.into.fmt (c.into.pad.setWidth 64) (c.into.at_ c.pos).2 c.into.piece).getD j 0) (c.pieceOn c.into.work) :=
  pad_wrote (exec_transpose s d e) h ha rfl hd hi

theorem gather_wrote (h : EngRuns s d e 3 c) (hi : c.into.isInner (c.into.at_ c.pos).1 = true)
    (hne : c.pos % c.into.pieces ≠ 0 ∨ ∃ j < 4, (c.into.at_ c.pos).1.getD j 0 ≠ c.into.lo j)
    (hs : s.Reaches (c.from_.byteAddr (dims.map (fun k => if k = 4 then c.fill else (c.into.at_ c.pos).1.getD k 0 - c.into.lo k))
      (c.into.at_ c.pos).2) c.into.piece) :
    WrotePiece s (.gather d e false) d e (c.into.pieceAddr c.pos) c.into.piece (fun b => s.byte (sideKey (c.from_.byteAddr
      (dims.map (fun k => if k = 4 then c.fill else (c.into.at_ c.pos).1.getD k 0 - c.into.lo k)) (c.into.at_ c.pos).2) b))
      (c.pieceOn c.into.work) := by
  refine move_wrote (src := fun i => dims.map (fun k => if k = 4 then c.fill else i.getD k 0 - c.into.lo k))
    (show exec (.gather d e false) s = execGather d e false s from rfl) h ha ?_ hd hi hs
  have hno := gather_continues hne
  dsimp only
  rw [hno]
  exact if_neg Bool.false_ne_true
end
end

/-- Settles O47: each data command from what a piece of its work writes, and each other one from its one step. -/
theorem engines : Obligations.Engines := by
  unfold Obligations.Engines
  refine ⟨?_, ?_⟩
  · intro s d e c k g runs reachable key wrote p q i o dst unit alone more moves
    have hruns (kind : Nat) (h : runs kind) : EngRuns s d e kind c := by
      obtain ⟨hc, hf, hh, hp, hk⟩ := h
      exact ⟨hc, hf, hh, hp, hk⟩
    refine ⟨?_, ?_, ?_, ?_, isInner_iff q i, ?_⟩
    · intro h a b n ha hb
      exact copy_wrote (hruns 1 h) rfl rfl rfl ha hb
    · intro h ha hr
      exact fill_wrote (hruns 5 h) ha hr
    · intro h h1 h8 hw hu hstop at_
      exact fill_wrote_unit (hruns 5 h) h1 h8 hw hu hstop
    · intro ha hd
      refine ⟨fun hi => ⟨fun h hs => ?_, fun h hs => ?_, fun h hne hs => ?_⟩, fun hi => ⟨fun h => ?_, fun h => ?_⟩⟩
      · exact tile_wrote ha hd (hruns 2 h) hi hs
      · exact transpose_wrote ha hd (hruns 4 h) hi hs
      · exact gather_wrote ha hd (hruns 3 h) hi hne hs
      · exact tile_padded ha hd (hruns 2 h) hi
      · exact transpose_padded ha hd (hruns 4 h) hi
    · intro h0 h1 h2 h3 _ hk
      exact idx_digits h0 h1 h2 h3 hk
  · intro s d e c f i g live runs rec_ w k fresh b cb at_
    have hruns (kind : Nat) (h : runs kind) : EngRuns s d e kind c := by
      obtain ⟨hc, ⟨hf, hh⟩, hp, hk⟩ := h
      exact ⟨hc, hf, hh, hp, hk⟩
    refine ⟨?_, ?_, ?_, ?_, ?_, ?_, ?_, ?_, ?_, ?_⟩
    · intro hl hi hc hal _ hr
      exact engineCommandStart_reads hl.1 hl.2 hi hc hal hr rfl
    · intro hc hl hfo hp
      obtain ⟨t, he, heng, hrow⟩ := engineCommandComplete_ends hc hl.1 hl.2 hfo hp
      exact ⟨t, he, heng, rfl, hrow⟩
    · exact fun h => nopCommand_counts (hruns 0 h)
    · exact fun h hb => bufferSetUp_busy (hruns 9 h) hb
    · exact fun h hb => bufferSetUp_sets (hruns 9 h) hb
    · exact fun h hs hbad hfree => edgeFeed_takes (hruns 7 h) hs rfl hbad hfree
    · exact fun h hs hbad hfree => edgeFeed_waits (hruns 7 h) hs rfl hbad hfree
    · exact fun h hpos hs hbad => ⟨edgeDrain_ends (hruns 8 h) hpos hs rfl hbad, edgeDrain_takes (hruns 8 h) hpos hs rfl hbad⟩
    · exact fun h hc => pairedCommit_begins (hruns 6 h) hc
    · intro hc hl hfo hp gd hdec r hlife hill hreg hmm hq
      obtain ⟨t, he, hcmd, hqueue, hrow⟩ := followOnMmac_queues hc hl.1 hl.2 hfo hp hdec hlife hill hreg hmm hq
      exact ⟨t, he, hcmd, hqueue, hrow i⟩

end Sys2Proof.Machine
end

section
/-! SUPPORT. Link commands (R359 to R361, R369): how one faults, and what its fault and an abort leave of the other engines. -/

namespace Sys2Proof.Machine

/-! ### Engines whose commands have forgotten what they overwrote -/

/-- An engine as it was, but for what its command remembers for instruction fetch. -/
def Engine.Settled (g g' : Engine) : Prop := ∃ k : Cmd → Cmd, (∀ c, ∃ u, k c = { c with undo := u }) ∧ g' = { g with cmd := g.cmd.map k }

theorem Engine.Settled.refl (g : Engine) : g.Settled g :=
  ⟨id, fun c => ⟨c.undo, rfl⟩, by rw [Option.map_id]; rfl⟩

theorem Engine.Settled.fault {g g' : Engine} (h : g.Settled g') : g'.fault = g.fault := by
  obtain ⟨k, -, rfl⟩ := h
  rfl

theorem Engine.Settled.cmd {g g' : Engine} (h : g.Settled g') {c : Cmd} (hc : g.cmd = some c) :
    ∃ u, g' = { g with cmd := some { c with undo := u } } := by
  obtain ⟨k, hk, rfl⟩ := h
  obtain ⟨u, hu⟩ := hk c
  exact ⟨u, by rw [hc, Option.map_some, hu]⟩

theorem codeSettled_settled (s : State) (d e n i : Nat) : (s.eng n i).Settled ((s.codeSettled d e).eng n i) := by
  unfold State.codeSettled
  split
  · unfold State.codeDone
    split
    · exact .refl _
    · rw [modCmds_eng]
      exact ⟨_, fun c => ⟨_, rfl⟩, rfl⟩
  · exact .refl _

theorem setEng_eng_ne (s : State) {d e n i : Nat} (g : Engine) (h : ¬(n = d ∧ i = e)) : (s.setEng d e g).eng n i = s.eng n i := by
  unfold State.eng State.setEng State.modDie
  rw [setDie_die]
  split
  · next hn =>
    subst hn
    exact tget_tset_ne _ _ _ fun hi => h ⟨rfl, hi⟩
  · rfl

section
variable {s : State} {d e n i : Nat}

theorem engFault_eng_ne (x : Nat) (a : W64) (h : ¬(n = d ∧ i = e)) : (s.eng n i).Settled ((s.engFault d e x a).eng n i) := by
  have hset := codeSettled_settled s d e n i
  rw [State.engFault]
  generalize s.codeSettled d e = t at hset
  rw [tellAll_keeps (f := fun t => t.eng n i) (fun _ _ _ => rfl) (fun _ _ => rfl)]
  rw [← show (t.modEng d e (fun g => { g with fault := x, failAddr := a, failRec := g.head })).eng n i = t.eng n i from
    setEng_eng_ne t _ h] at hset
  exact hset

theorem engFault_fault (x : Nat) (a : W64) : ((s.engFault d e x a).eng n i).fault = if n = d ∧ i = e then x else (s.eng n i).fault := by
  split
  · next h =>
    obtain ⟨rfl, rfl⟩ := h
    rw [engFault_eng]
  · next h => exact (engFault_eng_ne x a h).fault

/-- Each row's CWAITs are told: their operations and deferred traps alone change. -/
theorem tellAll_keeps_rows {γ : Type} {f : State → γ}
    (hrow : ∀ (t : State) n ds os, f (t.setRow n { t.row n with deferred := ds, ops := os }) = f t) (hraise : ∀ t x, f (State.raise t x) = f t)
    (s : State) (d e : Nat) : f (s.tellAll d e) = f s := by
  have hdefer (t : State) (n : Nat) (c : W8) (x : W64) : f (t.defer n c x) = f t := by
    by_cases h : ⟨c, x⟩ ∈ (t.row n).deferred
    · rw [defer_merged h]
    · by_cases hl : (t.row n).deferred.length < 8
      · rw [defer_kept h hl]
        exact hrow t n _ (t.row n).ops
      · rw [defer_lost h (Nat.not_lt.1 hl), hraise]
  refine foldl_keeps (fun t x => ?_) s.job.rows s
  refine foldl_keeps (fun t o => ?_) (t.row x.1).ops t
  split
  · split
    · exact (hdefer ..).trans (hrow t x.1 (t.row x.1).deferred _)
    · rfl
  · rfl

/-- A fault of an engine reaches rows' operations and deferred traps, the engines, and the commit. -/
theorem engFault_keeps {γ : Type} {f : State → γ}
    (hrow : ∀ (t : State) n ds os, f (t.setRow n { t.row n with deferred := ds, ops := os }) = f t) (hraise : ∀ t x, f (State.raise t x) = f t)
    (hdie : ∀ t n x, f (State.setDie t n x) = f t) (hcommit : ∀ (t : State) (x : Job → Option Commit), f (t.modJob fun j => { j with commit := x j }) = f t)
    (hcmds : ∀ (t : State) (k : Cmd → Cmd), f (t.modCmds k) = f t) (x : Nat) (a : W64) : f (s.engFault d e x a) = f s := by
  have hset : f (s.codeSettled d e) = f s := by
    unfold State.codeSettled
    split
    · unfold State.codeDone
      split
      · rfl
      · exact hcmds _ _
    · rfl
  rw [State.engFault, ← hset]
  generalize s.codeSettled d e = t
  rw [tellAll_keeps_rows (f := f) hrow hraise, hcommit]
  exact hdie _ _ _
end

/-! ### Messages of a link command -/

/-- Messages sent in turn. -/
theorem sendAll (f : Nat → Msg) (l : List Nat) (s : State) :
    l.foldl (fun s r => s.send (f r)) s = s.modJob (fun j => { j with linkTx := j.linkTx ++ l.map f }) := by
  induction l generalizing s with
  | nil => exact (modJob_same (by simp)).symm
  | cons r l ih =>
    rw [List.foldl_cons, ih]
    simp only [State.send, State.modJob, List.map_cons, List.append_assoc, List.singleton_append]

/-- The command with the serial number that its fault takes, and the state once each member that it reaches has been told. -/
def linkTold (first : Bool) (s : State) (c : Cmd) : State :=
  let ser := if c.fill = 0 then s.job.linkStarts else c.ser
  let m := s.comm c.comm
  s.modJob (fun j => { j with
    linkStarts := if c.fill = 0 then j.linkStarts + 1 else j.linkStarts
    linkTx := j.linkTx ++ m.reach.map (fun r => ⟨c.comm, r, c.tag, 4, c.kind, c.bytes, m.rank, [], if first then 1 else 0, ser⟩) })

theorem linkStop_eq (first : Bool) (s : State) (d e cause : Nat) (a : W64) (c : Cmd) :
    s.linkStop first d e cause a c = (linkTold first s c).engFault d e cause a := by
  unfold State.linkStop linkTold
  by_cases h : c.fill = 0
  · simp only [h, if_true]
    rw [sendAll]
    rfl
  · simp only [h, if_false]
    rw [sendAll]
    rfl

/-! ### Commands at work -/

section
variable {s t : State} {d e n i : Nat} {c : Cmd} {f : Cmd → Bool}

theorem mem_linkCmds {x : Nat × Nat × Cmd} : x ∈ linkCmds s f ↔ x.1 < 4 ∧ x.2.1 < 8 ∧ (s.eng x.1 x.2.1).cmd = some x.2.2 ∧
    (s.eng x.1 x.2.1).fault = 0 ∧ 0x10 ≤ x.2.2.kind ∧ x.2.2.phase = 0 ∧ f x.2.2 = true := by
  obtain ⟨d, e, c⟩ := x
  unfold linkCmds
  simp only [List.mem_filterMap, List.mem_flatMap, List.mem_map, List.mem_range]
  constructor
  · rintro ⟨⟨d', e'⟩, ⟨d'', hd, e'', he, hde⟩, hx⟩
    obtain ⟨rfl, rfl⟩ := Prod.mk.inj hde
    dsimp only at hx
    split at hx
    · next c' hc =>
      split at hx
      · next hok =>
        obtain ⟨rfl, rfl, rfl⟩ : d'' = d ∧ e'' = e ∧ c' = c := by simpa using hx
        simp only [Bool.and_eq_true, decide_eq_true_eq] at hok
        obtain ⟨⟨⟨hf, hk⟩, hp⟩, hfc⟩ := hok
        exact ⟨hd, he, hc, hf, hk, hp, hfc⟩
      · cases hx
    · cases hx
  · rintro ⟨hd, he, hc, hf, hk, hp, hfc⟩
    refine ⟨(d, e), ⟨d, hd, e, he, rfl⟩, ?_⟩
    dsimp only at hc hf hk hp hfc ⊢
    rw [hc]
    simp [hf, hk, hp, hfc]

theorem linkCmds_congr (h : ∀ d e, t.eng d e = s.eng d e) (f : Cmd → Bool) : linkCmds t f = linkCmds s f := by
  unfold linkCmds
  simp only [h]

/-! ### A link command's fault -/

theorem linkStop_eng (first : Bool) (cause : Nat) (a : W64) (hc : (s.eng d e).cmd = some c) (c' : Cmd) :
    ∃ u, (s.linkStop first d e cause a c').eng d e =
      { s.eng d e with cmd := some { c with undo := u }, fault := cause, failAddr := a, failRec := (s.eng d e).head } := by
  rw [linkStop_eq, engFault_eng]
  obtain ⟨u, hu⟩ := codeSettled_eng (s := linkTold first s c') (d := d) (e := e) hc
  exact ⟨u, by rw [hu]; rfl⟩

theorem linkStop_fault (first : Bool) (cause : Nat) (a : W64) (c : Cmd) :
    ((s.linkStop first d e cause a c).eng n i).fault = if n = d ∧ i = e then cause else (s.eng n i).fault := by
  rw [linkStop_eq, engFault_fault]
  rfl

theorem linkStop_eng_ne (first : Bool) (cause : Nat) (a : W64) (c : Cmd) (h : ¬(n = d ∧ i = e)) :
    (s.eng n i).Settled ((s.linkStop first d e cause a c).eng n i) := by
  rw [linkStop_eq]
  exact engFault_eng_ne (s := linkTold first s c) cause a h

theorem linkFault_ne_zero {x : Nat} (h : linkFault s c = some x) : x ≠ 0 := by
  rintro rfl
  unfold linkFault at h
  dsimp only at h
  split_ifs at h <;> simp at h

theorem abortCause_ne_zero (s : State) (c : Cmd) : s.abortCause c ≠ 0 := by
  unfold State.abortCause
  dsimp only
  split <;> decide

/-- Ending commands in turn leaves a fault at each of their engines, and where there was one. -/
theorem abort_faults (l : List (Nat × Nat × Cmd)) (s : State) (n i : Nat) (h : (s.eng n i).fault ≠ 0 ∨ ∃ c, (n, i, c) ∈ l) :
    ((l.foldl (fun s (d, e, c) => s.linkStop false d e (s.abortCause c) 0 c) s).eng n i).fault ≠ 0 := by
  induction l generalizing s with
  | nil => exact h.resolve_right fun ⟨_, hc⟩ => List.not_mem_nil hc
  | cons x l ih =>
    obtain ⟨d, e, c⟩ := x
    rw [List.foldl_cons]
    refine ih _ ?_
    dsimp only
    rw [linkStop_fault]
    split
    · exact .inl (abortCause_ne_zero s c)
    · next hne =>
      refine h.imp id fun ⟨c', hc'⟩ => ⟨c', (List.mem_cons.1 hc').resolve_left fun heq => hne ?_⟩
      obtain ⟨rfl, rfl, -⟩ : n = d ∧ i = e ∧ c' = c := by simpa using heq
      exact ⟨rfl, rfl⟩

/-- R369: with a command the others of its communicator and tag fault. -/
theorem linkEnd_faults {cause : Nat} (hcause : cause ≠ 0) (a : W64) {y : Nat × Nat × Cmd}
    (hy : y ∈ linkCmds s (fun x => x.comm == c.comm && x.tag == c.tag)) : ((s.linkEnd d e cause a c).eng y.1 y.2.1).fault ≠ 0 := by
  obtain ⟨n, i, b⟩ := y
  obtain ⟨hn, hi, hb, hf, hk, hp, hsame⟩ := mem_linkCmds.1 hy
  refine abort_faults _ _ n i ?_
  by_cases h : n = d ∧ i = e
  · exact .inl (by rw [linkStop_fault, if_pos h]; exact hcause)
  · obtain ⟨u, hu⟩ := (linkStop_eng_ne true cause a c h).cmd hb
    refine .inr ⟨{ b with undo := u }, mem_linkCmds.2 ⟨hn, hi, ?_⟩⟩
    dsimp only
    rw [hu]
    exact ⟨rfl, hf, hk, hp, hsame⟩

/-- Where no other command is of its communicator and tag, a command's fault is its own alone. -/
theorem linkEnd_alone {cause : Nat} (hcause : cause ≠ 0) (a : W64)
    (h : ∀ y ∈ linkCmds s (fun x => x.comm == c.comm && x.tag == c.tag), y.1 = d ∧ y.2.1 = e) :
    s.linkEnd d e cause a c = s.linkStop true d e cause a c := by
  have hnone : linkCmds (s.linkStop true d e cause a c) (fun x => x.comm == c.comm && x.tag == c.tag) = [] := by
    refine List.eq_nil_iff_forall_not_mem.2 fun y hy => ?_
    obtain ⟨n, i, b⟩ := y
    obtain ⟨hn, hi, hb, hf, hk, hp, hsame⟩ := mem_linkCmds.1 hy
    dsimp only at hn hi hb hf hk hp hsame
    by_cases hne : n = d ∧ i = e
    · rw [linkStop_fault, if_pos hne] at hf
      exact hcause hf
    · obtain ⟨k, hk', hg⟩ := linkStop_eng_ne true cause a c hne
      rw [hg] at hb hf
      obtain ⟨b', hb', rfl⟩ := Option.map_eq_some_iff.1 hb
      obtain ⟨u, hu⟩ := hk' b'
      rw [hu] at hk hp hsame
      exact hne (h (n, i, b') (mem_linkCmds.2 ⟨hn, hi, hb', hf, hk, hp, hsame⟩))
  rw [State.linkEnd, State.abortAll, hnone]
  rfl
end

end Sys2Proof.Machine
end

section
/-! SUPPORT. How a link command checks its record, starts, and meets its peers (R359 to R361). -/

namespace Sys2Proof.Machine

section
variable {s : State} {d e kind : Nat} {c : Cmd} {work after : State → Cmd → Comm → Nat → State}

/-- A link command announces itself. -/
def linkStarted (s : State) (d e : Nat) (c : Cmd) : State :=
  let m := s.comm c.comm
  (s.modJob (fun j => { j with
    linkStarts := j.linkStarts + 1
    linkTx := j.linkTx ++ (c.roles m).map (fun r => ⟨c.comm, r.1, c.tag, 0, c.kind, c.bytes, c.also m, [], 0, j.linkStarts⟩) })).modCmd d e
      (fun _ => { c with fill := 1, ser := s.job.linkStarts })

/-- A link command has written the next bytes of its buffer. -/
def linkWritten (s : State) (d e goal : Nat) (c : Cmd) : State :=
  s.modCmd d e (fun x => { x with
    pos := x.pos + min 8 c.buf.length, buf := x.buf.drop (min 8 c.buf.length)
    phase := if goal ≤ x.pos + min 8 c.buf.length then 1 else 0 })

theorem sendRoles (f : Nat × Bool → Msg) (l : List (Nat × Bool)) (s : State) :
    l.foldl (fun s r => s.send (f r)) s = s.modJob (fun j => { j with linkTx := j.linkTx ++ l.map f }) := by
  induction l generalizing s with
  | nil => exact (modJob_same (by simp)).symm
  | cons r l ih =>
    rw [List.foldl_cons, ih]
    simp only [State.send, State.modJob, List.map_cons, List.append_assoc, List.singleton_append]

theorem roles_up (hp : ∀ r ∈ c.roles (s.comm c.comm), s.pathUp ((s.comm c.comm).mask r.1) = true) :
    (c.roles (s.comm c.comm)).any (fun r => !s.pathUp ((s.comm c.comm).mask r.1)) = false := by
  rw [List.any_eq_false]
  intro r hr
  rw [hp r hr]
  decide

section
variable (h : EngRuns s d e kind c)
include h

theorem linkStep_faults (hn : c.fill = 0) {f : Nat} (hf : linkFault s c = some f) :
    linkStep kind d e work after s = .next (s.draw.linkEnd d e f 0 c) := by
  unfold linkStep
  refine (engStep_runs h _).trans (congrArg Host.Outcome.next ?_)
  have hf' : linkFault s.draw c = some f := hf
  simp only [hn, if_true, hf']

theorem linkStep_busy (hn : c.fill = 0) (hf : linkFault s c = none) (hb : s.linkBusy c = true) :
    linkStep kind d e work after s = .next s.draw := by
  unfold linkStep
  refine (engStep_runs h _).trans (congrArg Host.Outcome.next ?_)
  have hf' : linkFault s.draw c = none := hf
  have hb' : s.draw.linkBusy c = true := hb
  simp only [hn, if_true, hf', hb']

theorem linkStep_starts (hn : c.fill = 0) (hf : linkFault s c = none) (hb : s.linkBusy c = false) :
    linkStep kind d e work after s = .next (linkStarted s.draw d e c) := by
  unfold linkStep
  refine (engStep_runs h _).trans (congrArg Host.Outcome.next ?_)
  have hf' : linkFault s.draw c = none := hf
  have hb' : s.draw.linkBusy c = false := hb
  simp only [hn, if_true, hf', hb', Bool.false_eq_true, if_false]
  rw [sendRoles]
  rfl

theorem linkStep_down (hn : c.fill ≠ 0) (hp : (c.roles (s.comm c.comm)).any (fun r => !s.pathUp ((s.comm c.comm).mask r.1)) = true) :
    linkStep kind d e work after s = .next (s.draw.linkEnd d e 12 0 c) := by
  unfold linkStep
  refine (engStep_runs h _).trans (congrArg Host.Outcome.next ?_)
  dsimp only
  rw [if_neg hn]
  exact if_pos hp

section
variable (hp : ∀ r ∈ c.roles (s.comm c.comm), s.pathUp ((s.comm c.comm).mask r.1) = true)
include hp

theorem linkStep_meets (hn : c.fill = 1) : linkStep kind d e work after s = .next (if s.linkBehind c then s.draw else
    match matchAll c (s.comm c.comm) s.draw (c.roles (s.comm c.comm)) [] with
    | none => s.draw
    | some (.error s1) => s1.linkEnd d e 14 0 c
    | some (.ok (s1, l)) => (s1.acquireAt d .system).modCmd d e (fun c => { c with fill := 2, mates := l })) := by
  unfold linkStep
  refine (engStep_runs h _).trans (congrArg Host.Outcome.next ?_)
  have hup := roles_up hp
  dsimp only
  rw [if_neg (by omega)]
  refine (if_neg (Bool.eq_false_iff.1 hup)).trans ?_
  rw [if_pos hn]
  rfl

/-- The place of the command in its data. -/
theorem linkStep_data (hn : c.fill = 2) : linkStep kind d e work after s = .next
    (if c.buf.isEmpty then work s.draw c (s.comm c.comm) (if kind = 0x14 then 2 * c.bytes else c.bytes) else
      match s.draw.engWrite d e 4 (c.word 3 + BitVec.ofNat 64 (c.pos % c.bytes)) (c.buf.take (min 8 c.buf.length)) with
      | .error (f, x) => s.draw.linkEnd d e f x c
      | .ok s1 =>
        let s2 := linkWritten s1 d e (if kind = 0x14 then 2 * c.bytes else c.bytes) c
        if c.buf.length ≤ min 8 c.buf.length then after s2 c (s.comm c.comm) (c.pos + min 8 c.buf.length) else s2) := by
  unfold linkStep
  refine (engStep_runs h _).trans (congrArg Host.Outcome.next ?_)
  have hup := roles_up hp
  dsimp only
  rw [if_neg (by omega)]
  refine (if_neg (Bool.eq_false_iff.1 hup)).trans ?_
  rw [if_neg (by omega)]
  rfl
end
end
end

/-! ### The five link commands -/

theorem exec_link {s : State} {d e kind : Nat} {i : Instr} (hi : (i, kind) ∈ [(Instr.send d e false, 0x10), (.recv d e, 0x11),
    (.reduceStep d e false, 0x12), (.xorReduce d e false, 0x13), (.allreduce d e false, 0x14)]) :
    ∃ work after, exec i s = linkStep kind d e work after s := by
  simp only [List.mem_cons, List.not_mem_nil, or_false, Prod.mk.injEq] at hi
  rcases hi with ⟨rfl, rfl⟩ | ⟨rfl, rfl⟩ | ⟨rfl, rfl⟩ | ⟨rfl, rfl⟩ | ⟨rfl, rfl⟩
  · exact ⟨_, _, show exec (.send d e false) s = execSend d e false s from rfl⟩
  · exact ⟨_, _, show exec (.recv d e) s = execRecv d e s from rfl⟩
  · exact ⟨_, _, show exec (.reduceStep d e false) s = execReduceStep d e false s from rfl⟩
  · exact ⟨_, _, show exec (.xorReduce d e false) s = execXorReduce d e false s from rfl⟩
  · exact ⟨_, _, show exec (.allreduce d e false) s = execAllreduce d e false s from rfl⟩

section
variable {s : State} {d e : Nat} {c : Cmd}

/-- What a command's own fault leaves, where no other command is of its communicator and tag. -/
theorem linkEnd_leaves {cause : Nat} (hcause : cause ≠ 0) (hc : (s.eng d e).cmd = some c)
    (h : ∀ y ∈ linkCmds s (fun x => x.comm == c.comm && x.tag == c.tag), y.1 = d ∧ y.2.1 = e) :
    (∃ u, (s.linkEnd d e cause 0 c).eng d e =
      { s.eng d e with cmd := some { c with undo := u }, fault := cause, failAddr := 0, failRec := (s.eng d e).head }) ∧
    (s.linkEnd d e cause 0 c).job.linkTx = (linkTold true s c).job.linkTx ∧
    (s.linkEnd d e cause 0 c).job.linkStarts = (linkTold true s c).job.linkStarts ∧
    (s.linkEnd d e cause 0 c).job.linkRx = s.job.linkRx ∧ ∀ a, (s.linkEnd d e cause 0 c).byte a = s.byte a := by
  rw [linkEnd_alone hcause 0 h]
  refine ⟨linkStop_eng true cause 0 hc c, ?_, ?_, ?_, fun a => ?_⟩
  · rw [linkStop_eq]
    exact engFault_keeps (f := fun t => t.job.linkTx) (fun _ _ _ _ => rfl) (fun _ _ => rfl) (fun _ _ _ => rfl) (fun _ _ => rfl)
      (fun _ _ => rfl) cause 0
  · rw [linkStop_eq]
    exact engFault_keeps (f := fun t => t.job.linkStarts) (fun _ _ _ _ => rfl) (fun _ _ => rfl) (fun _ _ _ => rfl) (fun _ _ => rfl)
      (fun _ _ => rfl) cause 0
  · rw [linkStop_eq]
    exact engFault_keeps (f := fun t => t.job.linkRx) (fun _ _ _ _ => rfl) (fun _ _ => rfl) (fun _ _ _ => rfl) (fun _ _ => rfl)
      (fun _ _ => rfl) cause 0
  · rw [linkStop_eq]
    exact engFault_byte (s := linkTold true s c) cause 0 a

/-- The one peer of a command has announced itself: it is matched, or it differs. -/
theorem matchAll_one (m : Comm) (s : State) (r : Nat × Bool) : matchAll c m s [r] [] = match s.partner c r with
    | none => none
    | some x => if agrees c m r x then some (.ok (s.takeMsg (· == x), [(r.1, x.ser)])) else some (.error (s.takeMsg (· == x))) := by
  rw [matchAll]
  cases s.partner c r with
  | none => rfl
  | some x => rfl

theorem takeMsg_erase (x : Msg) : (s.takeMsg (· == x)).job.linkRx = s.job.linkRx.erase x := by
  rw [List.erase_eq_eraseP]
  refine congrArg (fun p => s.job.linkRx.eraseP p) (funext fun y => ?_)
  exact Bool.beq_comm
end

end Sys2Proof.Machine
end

section
/-! SUPPORT. The obligation's first part: a link command from its checks to its match. -/

namespace Sys2Proof.Machine

/-- The commands of a communicator and tag are those of one engine. -/
def State.AloneAt (s : State) (d e : Nat) (c : Cmd) : Prop :=
  ∀ y ∈ linkCmds s (fun x => x.comm == c.comm && x.tag == c.tag), y.1 = d ∧ y.2.1 = e

/-- What the fault of a link command leaves, and what it has told the members of its communicator. -/
def FaultsTo (s t : State) (d e : Nat) (c : Cmd) (f ser : Nat) : Prop := ∃ u,
  t.eng d e = { s.eng d e with cmd := some { c with undo := u }, fault := f, failAddr := 0, failRec := (s.eng d e).head } ∧
  t.job.linkTx = s.job.linkTx ++ (s.comm c.comm).reach.map (fun r =>
    ⟨c.comm, r, c.tag, 4, c.kind, c.bytes, (s.comm c.comm).rank, [], 1, ser⟩) ∧ ∀ a, t.byte a = s.byte a

section
variable {s : State} {d e kind : Nat} {c : Cmd} {i : Instr}

theorem modCmd_cmd {t : State} (h : (t.eng d e).cmd = some c) (f : Cmd → Cmd) : ((t.modCmd d e f).eng d e).cmd = some (f c) := by
  rw [modCmd_eng h]

theorem linkEnd_faultsTo {f : Nat} (hf : f ≠ 0) (hc : (s.eng d e).cmd = some c) (h : s.AloneAt d e c) :
    FaultsTo s (s.linkEnd d e f 0 c) d e c f (if c.fill = 0 then s.job.linkStarts else c.ser) := by
  obtain ⟨⟨u, heng⟩, htx, -, -, hbyte⟩ := linkEnd_leaves hf hc h
  exact ⟨u, heng, htx, hbyte⟩

section
variable {work after : State → Cmd → Comm → Nat → State} (he : exec i s = linkStep kind d e work after s) (h : EngRuns s d e kind c)
include he h

theorem link_faults_others (hn : c.fill = 0) {f : Nat} (hf : linkFault s c = some f) {y : Nat × Nat × Cmd}
    (hy : y ∈ linkCmds s (fun x => x.comm == c.comm && x.tag == c.tag)) : ∃ t, exec i s = .next t ∧ (t.eng y.1 y.2.1).fault ≠ 0 :=
  ⟨_, he.trans (linkStep_faults h hn hf), linkEnd_faults (s := s.draw) (linkFault_ne_zero hf) 0 hy⟩

theorem link_starts (hn : c.fill = 0) (hf : linkFault s c = none) (hb : s.linkBusy c = false) : ∃ t, exec i s = .next t ∧
    (t.eng d e).cmd = some { c with fill := 1, ser := s.job.linkStarts } ∧ t.job.linkStarts = s.job.linkStarts + 1 ∧
    t.job.linkTx = s.job.linkTx ++ (c.roles (s.comm c.comm)).map (fun r =>
      ⟨c.comm, r.1, c.tag, 0, kind, c.bytes, c.also (s.comm c.comm), [], 0, s.job.linkStarts⟩) ∧
    (∀ a, t.byte a = s.byte a) ∧ ∀ n, t.row n = s.row n := by
  refine ⟨_, he.trans (linkStep_starts h hn hf hb), ?_, rfl, ?_, fun _ => rfl, fun _ => rfl⟩
  · rw [linkStarted]
    refine modCmd_cmd (c := c) ?_ _
    exact h.cmd
  · rw [← h.kind]
    rfl

theorem link_faults (ha : s.AloneAt d e c) (hn : c.fill = 0) {f : Nat} (hf : linkFault s c = some f) : ∃ t, exec i s = .next t ∧
    FaultsTo s t d e c f s.job.linkStarts ∧ t.job.linkStarts = s.job.linkStarts + 1 := by
  have hto := linkEnd_faultsTo (s := s.draw) (linkFault_ne_zero hf) h.cmd ha
  obtain ⟨-, -, hstarts, -, -⟩ := linkEnd_leaves (s := s.draw) (linkFault_ne_zero hf) h.cmd ha
  rw [if_pos hn] at hto
  exact ⟨_, he.trans (linkStep_faults h hn hf), hto, hstarts.trans (if_pos hn)⟩

theorem link_down (ha : s.AloneAt d e c) (hn : c.fill ≠ 0) {r : Nat × Bool} (hr : c.roles (s.comm c.comm) = [r])
    (hp : s.pathUp ((s.comm c.comm).mask r.1) = false) : ∃ t, exec i s = .next t ∧ FaultsTo s t d e c 12 c.ser := by
  have hto := linkEnd_faultsTo (s := s.draw) (f := 12) (by decide) h.cmd ha
  rw [if_neg hn] at hto
  exact ⟨_, he.trans (linkStep_down h hn (by simp [hr, hp])), hto⟩

section
variable (hn : c.fill = 1) (hp : ∀ r ∈ c.roles (s.comm c.comm), s.pathUp ((s.comm c.comm).mask r.1) = true)
include hn hp

theorem link_behind (hb : s.linkBehind c = true) : exec i s = .next s.draw := by
  rw [he, linkStep_meets h hp hn, if_pos hb]

variable (hb : s.linkBehind c = false) {r : Nat × Bool} (hr : c.roles (s.comm c.comm) = [r])
include hb hr

theorem link_meets : exec i s = .next (match s.partner c r with
    | none => s.draw
    | some x => if agrees c (s.comm c.comm) r x
      then ((s.draw.takeMsg (· == x)).acquireAt d .system).modCmd d e (fun c => { c with fill := 2, mates := [(r.1, x.ser)] })
      else (s.draw.takeMsg (· == x)).linkEnd d e 14 0 c) := by
  rw [he, linkStep_meets h hp hn, hb, if_neg Bool.false_ne_true, hr, matchAll_one]
  have hpart : s.draw.partner c r = s.partner c r := rfl
  rw [hpart]
  cases s.partner c r with
  | none => rfl
  | some x =>
    cases hag : agrees c (s.comm c.comm) r x <;> simp only [hag, Bool.false_eq_true, if_true, if_false]

theorem link_matched {x : Msg} (hx : s.partner c r = some x) (hag : agrees c (s.comm c.comm) r x = true) :
    ∃ t, exec i s = .next t ∧ (t.eng d e).cmd = some { c with fill := 2, mates := [(r.1, x.ser)] } ∧
      t.job.linkRx = s.job.linkRx.erase x := by
  have hgo := link_meets he h hn hp hb hr
  rw [hx] at hgo
  dsimp only at hgo
  rw [if_pos hag] at hgo
  refine ⟨_, hgo, ?_, ?_⟩
  · rw [modCmd_eng (c := c) (by rw [acquireAt_eng]; exact h.cmd)]
  · exact takeMsg_erase (s := s.draw) x

theorem link_differs (ha : s.AloneAt d e c) {x : Msg} (hx : s.partner c r = some x) (hag : agrees c (s.comm c.comm) r x = false) :
    ∃ t, exec i s = .next t ∧ FaultsTo s t d e c 14 c.ser ∧ t.job.linkRx = s.job.linkRx.erase x := by
  have hgo := link_meets he h hn hp hb hr
  rw [hx] at hgo
  dsimp only at hgo
  rw [if_neg (Bool.eq_false_iff.1 hag)] at hgo
  have hto := linkEnd_faultsTo (s := s.draw.takeMsg (· == x)) (f := 14) (by decide) h.cmd ha
  obtain ⟨-, -, -, hrx, -⟩ := linkEnd_leaves (s := s.draw.takeMsg (· == x)) (cause := 14) (by decide) h.cmd ha
  rw [if_neg (by omega)] at hto
  exact ⟨_, hgo, hto, hrx.trans (takeMsg_erase (s := s.draw) x)⟩
end
end
end

end Sys2Proof.Machine
end

section
/-! SUPPORT. The data of a link command whose peers have started (R360 to R367): what it reads, sends, receives and writes. -/

namespace Sys2Proof.Machine

/-- A link command that has met its peers, by paths that are up. -/
structure LinkRuns (s : State) (d e kind : Nat) (c : Cmd) : Prop extends EngRuns s d e kind c where
  fill : c.fill = 2
  up : ∀ r ∈ c.roles (s.comm c.comm), s.pathUp ((s.comm c.comm).mask r.1) = true

/-- Bytes of side memory. -/
def State.sideBytes (s : State) (a : W64) (n : Nat) : List W8 := (List.range n).map (fun i => s.byte (sideKey a i))

/-- The four cells of a block. -/
def Cmd.cells (c : Cmd) (ser peer kind b : Nat) (x : Nat × List W8) : List Msg := (List.range 4).map (fun i =>
  ⟨c.comm, peer, c.tag, kind, c.kind, c.bytes, 4 * b + i, (x.2.drop (64 * i)).take 64, if i = 0 then BitVec.ofNat 32 x.1 else 0, ser⟩)

/-- n bytes further. -/
def Cmd.passed (c : Cmd) (n : Nat) : Cmd := { c with pos := c.pos + n, phase := if c.bytes ≤ c.pos + n then 1 else 0 }

/-- A unit of n bytes is done, and messages are sent. -/
def Sent (s : State) (i : Instr) (d e : Nat) (c : Cmd) (l : List Msg) (n : Nat) : Prop := ∃ t, exec i s = .next t ∧
  t.job.linkTx = s.job.linkTx ++ l ∧ (t.eng d e).cmd = some (c.passed n) ∧ ∀ a, t.byte a = s.byte a

/-- A unit leaves bytes to be written, and nothing is sent. -/
def Kept (s : State) (i : Instr) (d e : Nat) (c : Cmd) (b h : List W8) : Prop := ∃ t, exec i s = .next t ∧
  t.job.linkTx = s.job.linkTx ∧ (t.eng d e).cmd = some { c with buf := b, held := h } ∧ ∀ a, t.byte a = s.byte a

section
variable {s u : State} {d e kind n b : Nat} {c : Cmd} {i : Instr} {work after : State → Cmd → Comm → Nat → State} {l : List Msg}

theorem linkStep_work (h : LinkRuns s d e kind c) (hb : c.buf = []) : linkStep kind d e work after s =
    .next (work s.draw c (s.comm c.comm) (if kind = 0x14 then 2 * c.bytes else c.bytes)) := by
  rw [linkStep_data h.toEngRuns h.up h.fill, hb]
  rfl

theorem linkRead_side {a : W64} (h : s.Reaches a n) (f : State → List W8 → State) :
    linkRead s d e c a n false f = f s (s.sideBytes a n) := by
  rw [linkRead, engRead_side h]
  rfl

theorem sendBlock_eq (peer kind b : Nat) (x : Nat × List W8) :
    s.sendBlock c peer kind b x = s.modJob (fun j => { j with linkTx := j.linkTx ++ c.cells c.ser peer kind b x }) :=
  sendAll _ _ s

theorem sent_of (he : exec i s = .next (linkPass u d e c.bytes n)) (hu : (u.eng d e).cmd = some c)
    (htx : u.job.linkTx = s.job.linkTx ++ l) (hbyte : ∀ a, u.byte a = s.byte a) : Sent s i d e c l n :=
  ⟨_, he, htx, modCmd_cmd hu _, hbyte⟩

theorem kept_of {f : Cmd → Cmd} {x y : List W8} (he : exec i s = .next (u.modCmd d e f)) (hf : f c = { c with buf := x, held := y })
    (hu : (u.eng d e).cmd = some c) (htx : u.job.linkTx = s.job.linkTx) (hbyte : ∀ a, u.byte a = s.byte a) : Kept s i d e c x y :=
  ⟨_, he, htx, (modCmd_cmd hu _).trans (congrArg some hf), hbyte⟩

/-! ### What has arrived -/

/-- Messages taken leave all but what has arrived. -/
theorem takes_rx {α : Type} (f : α → Msg → Bool) (l : List α) (s : State) :
    ∃ rx, l.foldl (fun s x => s.takeMsg (f x)) s = s.modJob (fun j => { j with linkRx := rx }) := by
  induction l generalizing s with
  | nil => exact ⟨s.job.linkRx, (modJob_same rfl).symm⟩
  | cons x l ih =>
    obtain ⟨rx, hrx⟩ := ih (s.takeMsg (f x))
    exact ⟨rx, by rw [List.foldl_cons, hrx]; rfl⟩

theorem at_cell {ser peer kind j k blk : Nat} {kinds : List Nat} {data : List W8} {aux : W32} (hk : kinds.contains kind = true)
    (hser : ser = c.mate peer) : Msg.at_ c peer kinds (4 * blk + j) ⟨c.comm, peer, c.tag, kind, c.kind, c.bytes, 4 * blk + k, data, aux, ser⟩ =
      decide (k = j) := by
  simp only [Msg.at_, hk, hser, beq_self_eq_true, Bool.and_self, Bool.and_true, Bool.true_and]
  rw [Bool.eq_iff_iff, beq_iff_eq, decide_eq_true_eq]
  omega

theorem take_parts {q : List W8} (h : q.length = 256) :
    (q.drop 0).take 64 ++ (q.drop 64).take 64 ++ (q.drop 128).take 64 ++ (q.drop 192).take 64 = q := by
  rw [List.drop_zero, ← List.take_add, ← List.take_add, ← List.take_add]
  exact List.take_of_length_le (by omega)

/-- The cells of a block are found, each as the command's peer has sent it. -/
theorem rxBlock_cells {peer k x : Nat} {kinds : List Nat} {q : List W8} (hk : kinds.contains k = true) (hx : x < 256) (hq : q.length = 256)
    (hrx : s.job.linkRx = c.cells (c.mate peer) peer k b (x, q)) : s.rxBlock c peer kinds b = some (x, q) := by
  have haux : ((BitVec.ofNat 32 x).setWidth 8).toNat = x := by simp; omega
  unfold State.rxBlock
  rw [hrx]
  simp only [Cmd.cells, List.range_succ, List.range_zero, List.nil_append, List.cons_append, List.map_cons, List.map_nil, List.find?_cons,
    at_cell hk rfl]
  simp only [Nat.reduceEqDiff, decide_true, decide_false, if_true]
  rw [haux]
  exact congrArg (fun q => some (x, q)) (take_parts hq)

theorem rxBlock_none {peer : Nat} {kinds : List Nat} (hrx : s.job.linkRx = []) : s.rxBlock c peer kinds b = none := by
  unfold State.rxBlock
  rw [hrx]
  rfl

theorem find_cell {peer blk : Nat} {p : List W8}
    (hrx : s.job.linkRx = [⟨c.comm, peer, c.tag, 1, c.kind, c.bytes, blk, p, 0, c.mate peer⟩]) :
    s.job.linkRx.find? (Msg.at_ c peer [1] blk) = some ⟨c.comm, peer, c.tag, 1, c.kind, c.bytes, blk, p, 0, c.mate peer⟩ := by
  rw [hrx]
  exact List.find?_cons_of_pos (by simp [Msg.at_])
end

/-! ### SEND and RECV (R360, R361, R363) -/

section
variable {s : State} {d e : Nat} {c : Cmd}

theorem send_cell (h : LinkRuns s d e 0x10 c) (hb : c.buf = []) (hp : c.packed = false) {n : Nat} {a : W64}
    (ha : c.word 2 + BitVec.ofNat 64 c.pos = a) (hn : min 64 (c.bytes - c.pos) = n) (hr : s.Reaches a n) :
    Sent s (.send d e false) d e c [⟨c.comm, c.peer, c.tag, 1, c.kind, c.bytes, c.pos / 64, s.sideBytes a n, 0, c.ser⟩] n := by
  have he : exec (.send d e false) s = execSend d e false s := rfl
  unfold execSend at he
  rw [linkStep_work h hb] at he
  simp only [hp, ha, hn, Bool.false_eq_true, if_false] at he
  rw [linkRead_side (s := s.draw) hr] at he
  exact sent_of he h.cmd rfl fun _ => rfl

theorem send_block (h : LinkRuns s d e 0x10 c) (hb : c.buf = []) (hp : c.packed = true) {a : W64}
    (ha : c.word 2 + BitVec.ofNat 64 c.pos = a) (hr : s.Reaches a 1024) :
    Sent s (.send d e false) d e c (c.cells c.ser c.peer 2 (c.pos / 1024) (cmpBlock (blockVals (s.sideBytes a 1024)))) 1024 := by
  have he : exec (.send d e false) s = execSend d e false s := rfl
  unfold execSend at he
  rw [linkStep_work h hb] at he
  simp only [hp, ha, if_true] at he
  rw [linkRead_side (s := s.draw) hr, sendBlock_eq] at he
  exact sent_of he h.cmd rfl fun _ => rfl

theorem recv_cell (h : LinkRuns s d e 0x11 c) (hb : c.buf = []) (hp : c.packed = false) {p : List W8}
    (hrx : s.job.linkRx = [⟨c.comm, c.peer, c.tag, 1, c.kind, c.bytes, c.pos / 64, p, 0, c.mate c.peer⟩]) (hl : p.length = 64) :
    Kept s (.recv d e) d e c (p.take (min 64 (c.bytes - c.pos))) c.held := by
  have he : exec (.recv d e) s = execRecv d e s := rfl
  unfold execRecv at he
  rw [linkStep_work h hb] at he
  have hfind : s.draw.job.linkRx.find? (Msg.at_ c c.peer [1] (c.pos / 64)) = _ := find_cell hrx
  simp only [hp, hfind, Bool.false_eq_true, if_false] at he
  rw [List.take_append_of_le_length (by omega)] at he
  exact kept_of he rfl h.cmd rfl fun _ => rfl

theorem recv_block (h : LinkRuns s d e 0x11 c) (hb : c.buf = []) (hp : c.packed = true) {x : Nat} {q : List W8}
    (hrx : s.job.linkRx = c.cells (c.mate c.peer) c.peer 2 (c.pos / 1024) (x, q)) (hx : x < 256) (hq : q.length = 256) :
    Kept s (.recv d e) d e c (valBytes (expBlock x q)) (BitVec.ofNat 8 x :: q) := by
  have he : exec (.recv d e) s = execRecv d e s := rfl
  unfold execRecv at he
  rw [linkStep_work h hb] at he
  have hblk : s.draw.rxBlock c c.peer [2, 3] (c.pos / 1024) = some (x, q) := rxBlock_cells rfl hx hq hrx
  obtain ⟨rx, hrest⟩ := takes_rx (fun i => Msg.at_ c c.peer [2, 3] (4 * (c.pos / 1024) + i)) (List.range 4) s.draw
  simp only [hp, hblk, if_true] at he
  rw [State.takeBlock, hrest] at he
  exact kept_of he rfl h.cmd rfl fun _ => rfl

theorem recv_waits (h : LinkRuns s d e 0x11 c) (hb : c.buf = []) (hrx : s.job.linkRx = []) : exec (.recv d e) s = .next s.draw := by
  have he : exec (.recv d e) s = execRecv d e s := rfl
  unfold execRecv at he
  rw [linkStep_work h hb] at he
  have hblk : s.draw.rxBlock c c.peer [2, 3] (c.pos / 1024) = none := rxBlock_none hrx
  have hfind : s.draw.job.linkRx.find? (Msg.at_ c c.peer [1] (c.pos / 64)) = none := by
    rw [show s.draw.job.linkRx = [] from hrx]
    rfl
  simp only [hblk, hfind, ite_self] at he
  exact he

/-! ### REDUCE-STEP (R364) -/

theorem reduceStep_first (h : LinkRuns s d e 0x12 c) (hb : c.buf = []) (hl : c.last = false) (hf : c.first = true) {a : W64}
    (ha : c.word 2 + BitVec.ofNat 64 c.pos = a) (hr : s.Reaches a 1024) : Sent s (.reduceStep d e false) d e c
      (c.cells c.ser (s.comm c.comm).next 2 (c.pos / 1024) (cmpBlock (blockVals (s.sideBytes a 1024)))) 1024 := by
  have he : exec (.reduceStep d e false) s = execReduceStep d e false s := rfl
  unfold execReduceStep at he
  rw [linkStep_work h hb] at he
  simp only [partialIn, partialSum, hf, hl, ha, if_true, Bool.false_eq_true, if_false] at he
  rw [linkRead_side (s := s.draw) hr, sendBlock_eq] at he
  exact sent_of he h.cmd rfl fun _ => rfl

/-- The predecessor's partial block is taken in. -/
theorem partialIn_block {x : Nat} {q : List W8}
    (hrx : s.job.linkRx = c.cells (c.mate (s.comm c.comm).prev) (s.comm c.comm).prev 2 (c.pos / 1024) (x, q)) (hx : x < 256)
    (hq : q.length = 256) : ∃ rx, partialIn s.draw c (s.comm c.comm) false (c.pos / 1024) =
    some (expBlock x q, s.draw.modJob (fun j => { j with linkRx := rx })) := by
  have hblk : s.draw.rxBlock c (s.comm c.comm).prev [2] (c.pos / 1024) = some (x, q) := rxBlock_cells rfl hx hq hrx
  obtain ⟨rx, hrest⟩ := takes_rx (fun i => Msg.at_ c (s.comm c.comm).prev [2] (4 * (c.pos / 1024) + i)) (List.range 4) s.draw
  refine ⟨rx, ?_⟩
  simp only [partialIn, hblk, Bool.false_eq_true, if_false]
  rw [State.takeBlock, hrest]

section
variable (h : LinkRuns s d e 0x12 c) (hb : c.buf = []) (hf : c.first = false) {a : W64}
  (ha : c.word 2 + BitVec.ofNat 64 c.pos = a) (hr : s.Reaches a 1024) {x : Nat} {q : List W8}
  (hrx : s.job.linkRx = c.cells (c.mate (s.comm c.comm).prev) (s.comm c.comm).prev 2 (c.pos / 1024) (x, q)) (hx : x < 256)
  (hq : q.length = 256)
include h hb hf ha hr hrx hx hq

theorem reduceStep_next (hl : c.last = false) : Sent s (.reduceStep d e false) d e c (c.cells c.ser (s.comm c.comm).next 2 (c.pos / 1024)
      (cmpBlock (addVals (expBlock x q) (blockVals (s.sideBytes a 1024))))) 1024 := by
  have he : exec (.reduceStep d e false) s = execReduceStep d e false s := rfl
  unfold execReduceStep at he
  rw [linkStep_work h hb] at he
  obtain ⟨rx, hin⟩ := partialIn_block hrx hx hq
  simp only [hf, hin, hl, ha, partialSum, Bool.false_eq_true, if_false] at he
  rw [linkRead_side (s := s.draw.modJob (fun j => { j with linkRx := rx })) hr, sendBlock_eq] at he
  exact sent_of he h.cmd rfl fun _ => rfl

theorem reduceStep_last (hl : c.last = true) {y : Nat × List W8}
    (hy : cmpBlock (addVals (expBlock x q) (blockVals (s.sideBytes a 1024))) = y) :
    Kept s (.reduceStep d e false) d e c (valBytes (expBlock y.1 y.2)) (BitVec.ofNat 8 y.1 :: y.2) := by
  have he : exec (.reduceStep d e false) s = execReduceStep d e false s := rfl
  unfold execReduceStep at he
  rw [linkStep_work h hb] at he
  obtain ⟨rx, hin⟩ := partialIn_block hrx hx hq
  simp only [hf, hin, hl, ha, partialSum, Bool.false_eq_true, if_false, if_true] at he
  rw [linkRead_side (s := s.draw.modJob (fun j => { j with linkRx := rx })) hr] at he
  subst hy
  exact kept_of he rfl h.cmd rfl fun _ => rfl
end

/-! ### XOR-REDUCE and ALLREDUCE (R365, R366) -/

theorem xorReduce_sends (h : LinkRuns s d e 0x13 c) (hb : c.buf = []) (hne : (s.comm c.comm).rank ≠ c.holder (s.comm c.comm)) {n : Nat}
    {a : W64} (ha : c.word 2 + BitVec.ofNat 64 c.pos = a) (hn : min 64 (c.bytes - c.pos) = n) (hr : s.Reaches a n) :
    Sent s (.xorReduce d e false) d e c
      [⟨c.comm, c.holder (s.comm c.comm), c.tag, 1, c.kind, c.bytes, c.pos / 64, s.sideBytes a n, 0, c.ser⟩] n := by
  have he : exec (.xorReduce d e false) s = execXorReduce d e false s := rfl
  unfold execXorReduce at he
  rw [linkStep_work h hb] at he
  simp only [hne, ha, hn, if_false] at he
  rw [linkRead_side (s := s.draw) hr] at he
  exact sent_of he h.cmd rfl fun _ => rfl

theorem xorReduce_combines (h : LinkRuns s d e 0x13 c) (hb : c.buf = []) (heq : (s.comm c.comm).rank = c.holder (s.comm c.comm))
    {y n : Nat} {p : List W8} (hc : c.contribs (s.comm c.comm) = [(s.comm c.comm).rank, y]) (hy : y ≠ (s.comm c.comm).rank)
    {a : W64} (ha : c.word 2 + BitVec.ofNat 64 c.pos = a) (hn : min 64 (c.bytes - c.pos) = n) (hr : s.Reaches a n)
    (hrx : s.job.linkRx = [⟨c.comm, y, c.tag, 1, c.kind, c.bytes, c.pos / 64, p, 0, c.mate y⟩]) :
    Kept s (.xorReduce d e false) d e c
      ((List.range n).map (fun i => (s.sideBytes a n).getD i 0 ^^^ p.getD i 0)) c.held := by
  have he : exec (.xorReduce d e false) s = execXorReduce d e false s := rfl
  unfold execXorReduce at he
  rw [linkStep_work h hb] at he
  have hfind : s.draw.job.linkRx.find? (Msg.at_ c y [1] (c.pos / 64)) = _ := find_cell hrx
  have hothers : [(s.comm c.comm).rank, y].filter (· != (s.comm c.comm).rank) = [y] := by simp [hy]
  have hown : [(s.comm c.comm).rank, y].contains (s.comm c.comm).rank = true := by simp
  simp only [← heq, hc, hothers, hown, ha, hn, if_true, List.map_cons, List.map_nil, hfind, List.any_cons, List.any_nil, Option.isNone_some,
    Bool.or_self, Bool.false_eq_true, if_false, List.foldl_cons, List.foldl_nil] at he
  rw [linkRead_side (s := s.draw.takeMsg _) hr] at he
  exact kept_of he rfl h.cmd rfl fun _ => rfl

theorem allreduce_sums (h : LinkRuns s d e 0x14 c) (hb : c.buf = []) (hB : 1024 ≤ c.bytes) (hpos : c.pos < c.bytes) {a : W64}
    (ha : c.word 2 + BitVec.ofNat 64 c.pos = a) (hr : s.Reaches a 1024) (hsrc : c.sources = [c.word 2])
    (hplace : chunkPlace c (s.comm c.comm) (c.pos / 1024) < (s.comm c.comm).n - 1) {x : Nat} {q : List W8}
    (hin : chunkPlace c (s.comm c.comm) (c.pos / 1024) = 0 ∨ (s.job.linkRx =
      c.cells (c.mate (s.comm c.comm).prev) (s.comm c.comm).prev 2 (c.pos / 1024) (x, q) ∧ x < 256 ∧ q.length = 256)) :
    ∃ t, exec (.allreduce d e false) s = .next t ∧ t.job.linkTx = s.job.linkTx ++ c.cells c.ser (s.comm c.comm).next 2 (c.pos / 1024)
      (cmpBlock (if chunkPlace c (s.comm c.comm) (c.pos / 1024) = 0 then blockVals (s.sideBytes a 1024)
        else addVals (expBlock x q) (blockVals (s.sideBytes a 1024)))) ∧
      (t.eng d e).cmd = some { c with pos := c.pos + 1024 } ∧ ∀ z, t.byte z = s.byte z := by
  have he : exec (.allreduce d e false) s = execAllreduce d e false s := rfl
  unfold execAllreduce at he
  rw [linkStep_work h hb] at he
  have hpass (u : State) (hu : (u.eng d e).cmd = some c) :
      ((linkPass u d e (2 * c.bytes) 1024).eng d e).cmd = some { c with pos := c.pos + 1024 } := by
    rw [linkPass, modCmd_cmd hu, if_neg (by omega), ← h.phase]
  by_cases hz : chunkPlace c (s.comm c.comm) (c.pos / 1024) = 0
  · have hlast : ¬0 = (s.comm c.comm).n - 1 := by omega
    simp only [Nat.mod_eq_of_lt hpos, hpos, hz, hlast, decide_true, partialIn, partialSum, sourceSum, hsrc, ha, if_true, if_false,
      State.badRead, Bool.false_and, List.isEmpty_nil] at he ⊢
    rw [linkRead_side (s := s.draw) hr, sendBlock_eq] at he
    exact ⟨_, he, rfl, hpass _ h.cmd, fun _ => rfl⟩
  · obtain ⟨hrx, hx, hq⟩ := hin.resolve_left hz
    obtain ⟨rx, hin⟩ := partialIn_block hrx hx hq
    simp only [Nat.mod_eq_of_lt hpos, hpos, hz, hplace.ne, decide_false, hin, partialSum, sourceSum, hsrc, ha, if_true, if_false,
      State.badRead, Bool.false_and, List.isEmpty_nil, Bool.false_eq_true] at he ⊢
    rw [linkRead_side (s := s.draw.modJob (fun j => { j with linkRx := rx })) hr, sendBlock_eq] at he
    exact ⟨_, he, rfl, hpass _ h.cmd, fun _ => rfl⟩

/-! ### Writing what has been received -/

/-- The next bytes of the buffer are written. -/
theorem linkStep_writes {kind : Nat} {work after : State → Cmd → Comm → Nat → State} (h : LinkRuns s d e kind c) (hb : c.buf ≠ [])
    (hr : s.Reaches (c.word 3 + BitVec.ofNat 64 (c.pos % c.bytes)) (min 8 c.buf.length)) {a : W64} {n : Nat}
    (ha : c.word 3 + BitVec.ofNat 64 (c.pos % c.bytes) = a) (hn : min 8 c.buf.length = n) {goal : Nat}
    (hg : (if kind = 0x14 then 2 * c.bytes else c.bytes) = goal) :
    linkStep kind d e work after s = .next
      (let t := linkWritten (s.draw.engPut d e ((List.range n).map (sideKey a)) (c.buf.take n)) d e goal c
       if c.buf.length ≤ n then after t c (s.comm c.comm) (c.pos + n) else t) := by
  subst ha hn hg
  have hlen : (c.buf.take (min 8 c.buf.length)).length = min 8 c.buf.length := by simp
  rw [linkStep_data h.toEngRuns h.up h.fill, if_neg (by rwa [List.isEmpty_iff]), engWrite_side (s := s.draw) (by rw [hlen]; exact hr), hlen]

theorem linkWritten_wrote (hc : (s.eng d e).cmd = some c) {a : W64} {n : Nat} (hn : min 8 c.buf.length = n) (hr : s.Reaches a n) (goal : Nat) :
    EngWrote s (linkWritten (s.engPut d e ((List.range n).map (sideKey a)) (c.buf.take n)) d e goal c) d e
      (((List.range n).map (sideKey a)).zip (c.buf.take n))
      { c with pos := c.pos + n, buf := c.buf.drop n, phase := if goal ≤ c.pos + n then 1 else 0 } := by
  subst hn
  exact engPut_wrote hc (Reaches.keys hr) _

theorem recv_writes (h : LinkRuns s d e 0x11 c) (hb : c.buf ≠ []) {a : W64} {n : Nat}
    (ha : c.word 3 + BitVec.ofNat 64 (c.pos % c.bytes) = a) (hn : min 8 c.buf.length = n) (hr : s.Reaches a n) :
    ∃ t, exec (.recv d e) s = .next t ∧ (∀ i, i < n → t.byte (sideKey a i) = c.buf.getD i 0) ∧
      (∀ z, (∀ i, i < n → sideKey a i ≠ z) → t.byte z = s.byte z) ∧
      (t.eng d e).cmd = some { c.passed n with buf := c.buf.drop n } := by
  have he : exec (.recv d e) s = execRecv d e s := rfl
  unfold execRecv at he
  rw [linkStep_writes h hb (by rw [ha, hn]; exact hr) ha hn rfl] at he
  have hw := linkWritten_wrote (s := s.draw) h.cmd hn hr c.bytes
  have hlen : (c.buf.take n).length = n := by simp; omega
  simp only [noAfter, ite_self] at he
  obtain ⟨t, ht, hnew, hold, hcmd, -⟩ := hw.piece he (by omega) hlen
  refine ⟨t, ht, fun i hi => (hnew i hi).trans ?_, hold, hcmd⟩
  simp [List.getD_eq_getElem?_getD, hi]

theorem reduceStep_passesOn (h : LinkRuns s d e 0x12 c) (hb : c.buf ≠ []) (hlen : c.buf.length ≤ 8) {a : W64} {n : Nat}
    (ha : c.word 3 + BitVec.ofNat 64 (c.pos % c.bytes) = a) (hn : min 8 c.buf.length = n) (hr : s.Reaches a n) (hbc : c.bcast = true)
    {x : Nat} {q : List W8} (hh : c.held = BitVec.ofNat 8 x :: q) (hx : x < 256) : ∃ t, exec (.reduceStep d e false) s = .next t ∧
      t.job.linkTx = s.job.linkTx ++ c.cells c.ser (s.comm c.comm).next 3 ((c.pos + n) / 1024 - 1) (x, q) := by
  have he : exec (.reduceStep d e false) s = execReduceStep d e false s := rfl
  unfold execReduceStep at he
  rw [linkStep_writes h hb (by rw [ha, hn]; exact hr) ha hn rfl] at he
  have hblock : c.block = (x, q) := by
    rw [Cmd.block, hh]
    exact Prod.ext (by simp; omega) rfl
  have htx (u : State) (ks : List Nat) (bs : List W8) : (u.engPut d e ks bs).job.linkTx = u.job.linkTx :=
    putAll_keeps (f := fun t => t.job.linkTx) (fun _ _ _ => rfl) _ _
  simp only [show c.buf.length ≤ n by omega, if_true, hbc, hblock] at he
  rw [sendBlock_eq] at he
  exact ⟨_, he, congrArg (· ++ _) (htx s.draw _ _)⟩

/-- The values of 1,024 bytes. -/
theorem blockVals_side (a : W64) : (blockVals (s.sideBytes a 1024)).length = 256 ∧ ∀ n < 256,
    (blockVals (s.sideBytes a 1024)).getD n 0 = leVal (s.sideBytes (a + BitVec.ofNat 64 (4 * n)) 4) := by
  refine ⟨by simp [blockVals], fun n hn => ?_⟩
  have hpart : ((s.sideBytes a 1024).drop (4 * n)).take 4 = s.sideBytes (a + BitVec.ofNat 64 (4 * n)) 4 := by
    refine List.ext_getElem (by simp [State.sideBytes]; omega) fun i h1 h2 => ?_
    simp only [State.sideBytes, List.getElem_take, List.getElem_drop, List.getElem_map, List.getElem_range, sideKey]
    rw [BitVec.add_assoc, ← BitVec.ofNat_add]
  rw [blockVals, List.getD_eq_getElem?_getD, List.getElem?_map, List.getElem?_range hn, Option.map_some, Option.getD_some, hpart]
end

end Sys2Proof.Machine
end

section
/-! SUPPORT. LINK_ABORT (R369): the commands of a communicator and tag fault, and the members are told. -/

namespace Sys2Proof.Machine

section
variable {s : State} {comm tag d e : Nat} {c : Cmd}

/-- An abort of this device is noted, under its next serial number. -/
def abortNoted (s : State) (comm tag : Nat) : State := s.modJob (fun j => { j with
  linkStarts := j.linkStarts + 1, aborts := j.aborts ++ [(comm, tag, (s.comm comm).rank, s.job.linkStarts)] })

/-- What an abort tells the members that this device reaches. -/
def abortTold (s : State) (comm tag : Nat) : List Msg :=
  (s.comm comm).reach.map (fun r => ⟨comm, r, BitVec.ofNat 32 tag, 4, 0, 0, (s.comm comm).rank, [], 1, s.job.linkStarts⟩)

theorem reach_ne_rank {m : Comm} : m.reach.filter (· != m.rank) = m.reach := by
  refine List.filter_eq_self.2 fun r hr => ?_
  have hr := (List.mem_filter.1 hr).2
  simp only [Bool.and_eq_true] at hr
  exact hr.1

theorem exec_linkAbort (hnew : (comm, tag, (s.comm comm).rank, s.job.linkStarts) ∉ s.job.aborts) : exec (.linkAbort comm tag) s =
    .next ((((abortNoted s comm tag).abortAll (fun c => c.comm == comm && c.tag.toNat == tag)).modJob (fun j => { j with
      linkTx := j.linkTx ++ abortTold s comm tag })).voidRx (fun x => x.comm == comm && x.tag.toNat == tag)) := by
  refine (show exec (.linkAbort comm tag) s = execLinkAbort comm tag s from rfl).trans ?_
  unfold execLinkAbort State.abort
  have hnot : (s.modJob (fun j => { j with linkStarts := j.linkStarts + 1 })).job.aborts.contains
      (comm, tag, (s.comm comm).rank, s.job.linkStarts) = false := by
    rw [← Bool.not_eq_true, List.contains_iff_mem]
    exact hnew
  dsimp only
  rw [hnot, if_neg Bool.false_ne_true, sendAll]
  have hreach : ((s.modJob (fun j => { j with linkStarts := j.linkStarts + 1 })).comm comm).reach.filter (· != (s.comm comm).rank) =
      (s.comm comm).reach := reach_ne_rank
  rw [hreach]
  rfl

theorem mem_voidRx {f : Msg → Bool} {y : Msg} (h : y ∈ (s.voidRx f).job.linkRx) : f y = false := by
  simpa using (List.mem_filter.1 h).2

theorem abortCause_eq (s : State) (c : Cmd) : s.abortCause c =
    if c.fill = 1 ∧ ∃ r ∈ c.roles (s.comm c.comm), ∃ y, s.partner c r = some y ∧ agrees c (s.comm c.comm) r y = false then 14 else 12 := by
  unfold State.abortCause
  refine if_congr ?_ rfl rfl
  rw [Bool.and_eq_true, decide_eq_true_eq, List.any_eq_true]
  refine and_congr_right fun _ => exists_congr fun r => and_congr_right fun _ => ?_
  cases s.partner c r <;> simp

/-- The one command of the communicator and tag faults. -/
theorem linkAbort_one (hnew : (comm, tag, (s.comm comm).rank, s.job.linkStarts) ∉ s.job.aborts)
    (hhit : linkCmds s (fun c => c.comm == comm && c.tag.toNat == tag) = [(d, e, c)]) (hc : (s.eng d e).cmd = some c) {cause : Nat}
    (hcause : s.abortCause c = cause) : ∃ t u, exec (.linkAbort comm tag) s = .next t ∧
      t.eng d e = { s.eng d e with cmd := some { c with undo := u }, fault := cause, failAddr := 0, failRec := (s.eng d e).head } ∧
      ∀ y ∈ t.job.linkRx, y.comm ≠ comm ∨ y.tag.toNat ≠ tag := by
  obtain ⟨u, hu⟩ := linkStop_eng (s := abortNoted s comm tag) (d := d) (e := e) false cause 0 hc c
  refine ⟨_, u, exec_linkAbort hnew, ?_, fun y hy => ?_⟩
  · have hall : (abortNoted s comm tag).abortAll (fun c => c.comm == comm && c.tag.toNat == tag) =
        (abortNoted s comm tag).linkStop false d e cause 0 c := by
      rw [State.abortAll, linkCmds_congr (s := s) (t := abortNoted s comm tag) (fun _ _ => rfl), hhit, ← hcause]
      rfl
    rw [hall]
    generalize (abortNoted s comm tag).linkStop false d e cause 0 c = v at hu
    exact hu
  · have hy := mem_voidRx hy
    exact (Bool.and_eq_false_iff.1 hy).imp (fun h => by simpa using h) (fun h => by simpa using h)

/-- No command of this device is of the communicator and tag. -/
theorem linkAbort_none (hnew : (comm, tag, (s.comm comm).rank, s.job.linkStarts) ∉ s.job.aborts)
    (hhit : linkCmds s (fun c => c.comm == comm && c.tag.toNat == tag) = []) : ∃ t, exec (.linkAbort comm tag) s = .next t ∧
      (∀ d e, t.eng d e = s.eng d e) ∧ t.job.linkTx = s.job.linkTx ++ abortTold s comm tag ∧
      t.job.linkRx = s.job.linkRx.filter (fun y => !(y.comm == comm && y.tag.toNat == tag)) := by
  have hall : (abortNoted s comm tag).abortAll (fun c => c.comm == comm && c.tag.toNat == tag) = abortNoted s comm tag := by
    rw [State.abortAll, linkCmds_congr (s := s) (t := abortNoted s comm tag) (fun _ _ => rfl), hhit]
    rfl
  refine ⟨_, exec_linkAbort hnew, ?_⟩
  rw [hall]
  exact ⟨fun _ _ => rfl, rfl, rfl⟩
end

end Sys2Proof.Machine
end

section
/-! SUPPORT. Links (R24 to R27, R156, R357): what a port does with a cell, a replay request and a credit report, and what goes
down with it (R369). -/

namespace Sys2Proof.Machine

/-! ### Cells out of order, and replays (R27) -/

section
variable {s : State} {p i : Nat} {c : Cell} {n : BitVec 16}

/-- A cell that is what its sender gave the link. -/
def WholeCell (c : Cell) : Prop := c.crc = Config.crc24 c.payload c.tag ∧ c.tag.extractLsb' 9 7 = 0

theorem linkOn_iff : s.linkOn p = true ↔ (s.port p).up = true ∨ 16 ≤ p := by
  simp [State.linkOn, or_comm]

theorem exec_adyanCell : exec (.adyanCell p c) s = execAdyanCell p c s := rfl

theorem cell_off (h : ¬((s.port p).up = true ∨ 16 ≤ p)) : exec (.adyanCell p c) s = .next s := by
  have hoff : s.linkOn p = false := by rwa [← Bool.not_eq_true, linkOn_iff]
  rw [exec_adyanCell, execAdyanCell, hoff]
  rfl

theorem replay_off (h : ¬((s.port p).up = true ∨ 16 ≤ p)) : exec (.replay p n) s = .next s := by
  have hoff : s.linkOn p = false := by rwa [← Bool.not_eq_true, linkOn_iff]
  refine (show exec (.replay p n) s = .next (s.replay p n) from rfl).trans (congrArg _ ?_)
  unfold State.replay
  dsimp only
  split
  · rw [hoff]
    rfl
  · rfl

theorem cell_mine : (c.tag.extractLsb' 16 16 == (s.port p).rxSeq) = true ↔ c.tag.extractLsb' 16 16 = (s.port p).rxSeq := beq_iff_eq

theorem cell_whole : (c.crc == Config.crc24 c.payload c.tag && c.tag.extractLsb' 9 7 == 0) = true ↔ WholeCell c := by
  simp [WholeCell]

section
variable (hon : (s.port p).up = true ∨ 16 ≤ p)
include hon

section
variable (hbad : ¬(WholeCell c ∧ c.tag.extractLsb' 16 16 = (s.port p).rxSeq))
include hbad

theorem cell_fails : exec (.adyanCell p c) s = .next
    (if (s.port p).asked && !(c.tag.extractLsb' 16 16 == (s.port p).rxSeq) then s
     else if (s.port p).rxFails + 1 < 16 then
       s.setPort p { s.port p with rxFails := (s.port p).rxFails + 1, asked := true, ask := true }
     else s.linkFails p) := by
  have hon' := linkOn_iff.2 hon
  have hno : ((c.crc == Config.crc24 c.payload c.tag && c.tag.extractLsb' 9 7 == 0) && c.tag.extractLsb' 16 16 == (s.port p).rxSeq) = false := by
    rw [← Bool.not_eq_true, Bool.and_eq_true, cell_mine, cell_whole]
    exact hbad
  rw [exec_adyanCell, execAdyanCell]
  dsimp only
  rw [hon', hno]
  simp only [Bool.not_true, Bool.false_eq_true, if_false, Bool.not_false, if_true]
  split_ifs <;> rfl

theorem cell_dropped (ha : (s.port p).asked = true) (hm : c.tag.extractLsb' 16 16 ≠ (s.port p).rxSeq) :
    exec (.adyanCell p c) s = .next s := by
  rw [cell_fails hon hbad, if_pos (by simp [ha, hm])]

theorem cell_asks (ha : (s.port p).asked = false ∨ c.tag.extractLsb' 16 16 = (s.port p).rxSeq) (hf : (s.port p).rxFails < 15) :
    exec (.adyanCell p c) s = .next (s.setPort p { s.port p with rxFails := (s.port p).rxFails + 1, asked := true, ask := true }) := by
  rw [cell_fails hon hbad, if_neg (by rcases ha with ha | ha <;> simp [ha]), if_pos (by omega)]

theorem cell_failsLink (ha : (s.port p).asked = false ∨ c.tag.extractLsb' 16 16 = (s.port p).rxSeq) (hf : 15 ≤ (s.port p).rxFails) :
    exec (.adyanCell p c) s = .next (s.linkFails p) := by
  rw [cell_fails hon hbad, if_neg (by rcases ha with ha | ha <;> simp [ha]), if_neg (by omega)]
end

theorem replay_found (hi : (s.port p).copies.findIdx? (fun c => c.tag.extractLsb' 16 16 == n) = some i) :
    exec (.replay p n) s = .next (if i ≠ 0 then s.setPort p { s.port p with copies := (s.port p).copies.drop i, txFails := 1 }
      else if (s.port p).txFails + 1 < 16 then s.setPort p { s.port p with txFails := (s.port p).txFails + 1 } else s.linkFails p) := by
  refine (show exec (.replay p n) s = .next (s.replay p n) from rfl).trans (congrArg _ ?_)
  unfold State.replay
  simp only [hi, linkOn_iff.2 hon, Bool.not_true, Bool.false_eq_true, if_false]
end

theorem acked_drops (x : Port) (hi : x.copies.findIdx? (fun c => c.tag.extractLsb' 16 16 == n) = some i) (h : 0 < i) :
    x.acked n = { x with copies := x.copies.drop i, txFails := 0 } := by
  simp only [Port.acked, hi, h.ne', if_false]

/-! ### A cell taken (R25, R26) -/

/-- The next number is expected. -/
def cellTaken (s : State) (p : Nat) : State :=
  s.modPort p (fun x => { x with rxSeq := x.rxSeq + 1, rxFails := 0, asked := false, due := x.due + 1 })

/-- The cell is taken, and the receiver expects the next number. -/
def Told (s : State) (p : Nat) (c : Cell) (f : State → Prop) : Prop := ∃ t, exec (.adyanCell p c) s = .next t ∧
  (t.port p).rxSeq = (s.port p).rxSeq + 1 ∧ (t.port p).rxFails = 0 ∧ (t.port p).asked = false ∧ f t

theorem cellTaken_port (s : State) (p : Nat) : (cellTaken s p).port p =
    { s.port p with rxSeq := (s.port p).rxSeq + 1, rxFails := 0, asked := false, due := (s.port p).due + 1 } := setPort_port_same ..

theorem told_of {u : State} (he : exec (.adyanCell p c) s = .next (cellTaken u p)) (hseq : (u.port p).rxSeq = (s.port p).rxSeq)
    {f : State → Prop} (hf : f (cellTaken u p)) : Told s p c f := by
  refine ⟨_, he, ?_, ?_, ?_, hf⟩
  · rw [cellTaken_port, hseq]
  · rw [cellTaken_port]
  · rw [cellTaken_port]

section
variable (hw : WholeCell c) (hm : c.tag.extractLsb' 16 16 = (s.port p).rxSeq)
include hw hm

theorem cell_inside (hp : 16 ≤ p) : exec (.adyanCell p c) s = .next (cellTaken s p) := by
  have hon' : s.linkOn p = true := linkOn_iff.2 (.inr hp)
  rw [exec_adyanCell, execAdyanCell]
  dsimp only
  rw [hon', cell_mine.2 hm, cell_whole.2 hw]
  simp only [hp, Bool.not_true, Bool.false_eq_true, if_false, Bool.and_self, if_true]
  rfl

theorem cell_arrives (hu : (s.port p).up = true) (hp : p < 16) : exec (.adyanCell p c) s = .next (match takeCell s p c with
    | none => s
    | some u => cellTaken u p) := by
  have hon' : s.linkOn p = true := linkOn_iff.2 (.inl hu)
  rw [exec_adyanCell, execAdyanCell]
  dsimp only
  rw [hon', cell_mine.2 hm, cell_whole.2 hw]
  simp only [Nat.not_le.2 hp, Bool.not_true, Bool.false_eq_true, if_false, Bool.and_self]
  cases takeCell s p c <;> rfl
end
end

/-! ### What a cell that is taken does -/

section
variable {s : State} {p vc : Nat} {c : Cell}

/-- The port once a cell is in a buffer of its channel. -/
def Port.roomTaken (x : Port) (vc : Nat) : Port := { x with room := tset 0 x.room vc (tget 0 x.room vc - 1) }

section
variable (hvc : (c.tag.extractLsb' 0 2).toNat = vc) (htag : tagTraffic vc c = false)
include hvc htag

theorem takeCell_full (hroom : tget 0 (s.port p).room vc = 0) : takeCell s p c = none := by
  subst hvc
  simp only [takeCell, htag, hroom, Bool.false_eq_true, if_false, if_true]

theorem takeCell_part (hroom : tget 0 (s.port p).room vc ≠ 0) (h2 : vc ≠ 2) (hlast : c.tag.getLsbD 8 = false) : takeCell s p c =
    some (s.setPort p { (s.port p).roomTaken vc with parts := tset [] (s.port p).parts vc (tget [] (s.port p).parts vc ++ [c]) }) := by
  subst hvc
  simp only [takeCell, htag, hroom, h2, hlast, Bool.false_eq_true, if_false, Bool.not_false, if_true]
  rfl

theorem takeCell_one (hroom : tget 0 (s.port p).room vc ≠ 0) (h2 : vc ≠ 2) (hlast : c.tag.getLsbD 8 = true)
    (hparts : tget [] (s.port p).parts vc = []) : takeCell s p c = some ((s.setPort p
      ({ (s.port p).roomTaken vc with parts := tset [] (s.port p).parts vc [] }.free vc 1)).takeNums p vc c) := by
  subst hvc
  simp only [takeCell, htag, hroom, h2, hlast, hparts, Bool.false_eq_true, if_false, Bool.not_true, List.nil_append, List.foldl_cons,
    List.foldl_nil, List.length_cons, List.length_nil, Nat.zero_add]
  rfl
end

theorem tagTraffic_ne (h : vc ≠ 3) : tagTraffic vc c = false := by
  rw [tagTraffic, beq_eq_false_iff_ne.2 h, Bool.false_and]

theorem takeCell_chain (hvc : (c.tag.extractLsb' 0 2).toNat = 2) (hroom : tget 0 (s.port p).room 2 ≠ 0) : takeCell s p c =
    some ((s.setPort p { (s.port p).roomTaken 2 with chainIn := (s.port p).chainIn ++ [c] }).chainMove p) := by
  have htag : tagTraffic 2 c = false := tagTraffic_ne (by decide)
  simp only [takeCell, hvc, htag, hroom, Bool.false_eq_true, if_false, if_true]
  rfl

/-- Tag traffic takes no buffer (R25). -/
theorem takeCell_report {q a b i k : Nat} (hvc : (c.tag.extractLsb' 0 2).toNat = 3) (hn : Config.cellNums c.tag c.payload = [1, q, a, b, i, k]) :
    takeCell s p c = some (s.modPort p (fun x => ([a, b, i, k].zipIdx).foldl (fun x (k, v) => x.credited v k) (x.acked (BitVec.ofNat 16 q)))) := by
  have htag : tagTraffic 3 c = true := by rw [tagTraffic, hn]; rfl
  simp only [takeCell, hvc, htag, if_true, State.takeNums, hn]

/-- The message of eight numbers and the cell's payload. -/
def cellMsg (v : List Nat) (c : Cell) : Msg := ⟨v.getD 0 0, v.getD 1 0, BitVec.ofNat 32 (v.getD 2 0), v.getD 3 0, v.getD 4 0, v.getD 5 0,
  v.getD 6 0, (List.range 64).map (fun i => c.payload.extractLsb' (8 * i) 8), c.tag.extractLsb' 32 32, v.getD 7 0⟩

theorem takeNums_msg {v : List Nat} (h2 : vc < 2) (hlen : v.length = 8) (hv : Config.cellNums c.tag c.payload = v) : s.takeNums p vc c =
    if (cellMsg v c).ended s.job.aborts then s else s.modJob (fun j => { j with linkRx := j.linkRx ++ [cellMsg v c] }) := by
  match v, hlen with
  | [a, b, d, e, f, g, h, i], _ =>
    unfold State.takeNums
    rw [hv]
    obtain rfl | rfl : vc = 0 ∨ vc = 1 := by omega
    · rfl
    · rfl

theorem cellMsg_ended {v : List Nat} (l : List (Nat × Nat × Nat × Nat)) : (cellMsg v c).ended l = true ↔
    v.getD 3 0 ≠ 5 ∧ (v.getD 0 0, (BitVec.ofNat 32 (v.getD 2 0)).toNat, v.getD 1 0, v.getD 7 0) ∈ l := by
  rw [Msg.ended, Bool.and_eq_true, List.contains_iff_mem, bne_iff_ne]
  exact Iff.rfl

/-! ### Chain cells at row 0's north port (R163, R164, R166) -/

section
variable {l : List Cell}

theorem chainTake_sealed (hl : (s.row 0).life ≠ .idle) (hs : (s.row 0).north.sealAt ≠ .none) : s.chainTake l = none := by
  have hl' : ((s.row 0).life == .idle) = false := beq_eq_false_iff_ne.2 hl
  have hs' : ((s.row 0).north.sealAt != .none) = true := bne_iff_ne.2 hs
  unfold State.chainTake
  dsimp only
  rw [hl', hs']
  rfl

theorem chainTake_nil : s.chainTake [] = none := by
  unfold State.chainTake
  exact ite_self _

section
variable (hl : (s.row 0).life ≠ .idle) (hs : (s.row 0).north.sealAt = .none)
include hl hs

theorem chainTake_seal (hc : c.tag.extractLsb' 2 6 = Config.sealKind) : s.chainTake (c :: l) =
    some (s.modRow 0 (fun r => { r with north := { r.north with sealAt := .flying } }), 1) := by
  have hl' : ((s.row 0).life == .idle) = false := beq_eq_false_iff_ne.2 hl
  have hc' : cellSeals c = true := beq_iff_eq.2 hc
  simp only [State.chainTake, hl', hs, hc', Bool.not_false, bne_self_eq_false, Bool.and_false, Bool.false_eq_true, if_false, if_true]

variable (hc : c.tag.extractLsb' 2 6 ≠ Config.sealKind)
include hc

theorem chainTake_stray (he : c.tag.getLsbD 8 = true) : s.chainTake (c :: l) = some (s, 1) := by
  have hl' : ((s.row 0).life == .idle) = false := beq_eq_false_iff_ne.2 hl
  have hc' : cellSeals c = false := beq_eq_false_iff_ne.2 hc
  simp only [State.chainTake, hl', hs, hc', cellEnds, he, Bool.not_false, bne_self_eq_false, Bool.and_false, Bool.false_eq_true, if_false,
    if_true]

theorem chainTake_half (he : c.tag.getLsbD 8 = false) : s.chainTake [c] = none := by
  have hl' : ((s.row 0).life == .idle) = false := beq_eq_false_iff_ne.2 hl
  have hc' : cellSeals c = false := beq_eq_false_iff_ne.2 hc
  simp only [State.chainTake, hl', hs, hc', cellEnds, he, Bool.not_false, bne_self_eq_false, Bool.and_false, Bool.false_eq_true, if_false]

theorem chainTake_entry (he : c.tag.getLsbD 8 = false) (hroom : (s.row 0).north.entries.length + (s.row 0).north.flight.length < 128)
    (b : Cell) : s.chainTake (c :: b :: l) = some (s.modRow 0 (fun r => { r with
      north := { r.north with flight := r.north.flight ++ [entryOf c b] } }), 2) := by
  have hl' : ((s.row 0).life == .idle) = false := beq_eq_false_iff_ne.2 hl
  have hc' : cellSeals c = false := beq_eq_false_iff_ne.2 hc
  simp only [State.chainTake, hl', hs, hc', cellEnds, he, Nat.not_le.2 hroom, Bool.not_false, bne_self_eq_false, Bool.and_false,
    Bool.false_eq_true, if_false]
end
end

/-- Row 0's north port is at this link, and takes what comes there. -/
structure ChainAt (s : State) (p : Nat) : Prop where
  nbind : (s.row 0).nbind = .link p
  saved : tget false s.job.saved 0 = false
  old : s.job.chainOld = []

theorem chainDeliver_stays (h : s.chainTake (s.port p).chainIn = none) (k : Nat) : State.chainDeliver p k s = s := by
  cases k with
  | zero => rfl
  | succ k =>
    rw [State.chainDeliver]
    split
    · rfl
    · rw [h]

theorem chainDeliver_takes (ha : ChainAt s p) {t : State} {n : Nat} (h : s.chainTake (s.port p).chainIn = some (t, n)) (k : Nat) :
    State.chainDeliver p (k + 1) s = State.chainDeliver p k
      (t.setPort p ({ s.port p with chainIn := (s.port p).chainIn.drop n }.free 2 n)) := by
  rw [State.chainDeliver]
  dsimp only
  rw [if_neg (by simp [ha.nbind, ha.saved, ha.old]), h]
end

end Sys2Proof.Machine
end

section
/-! SUPPORT. Links: the obligation's clauses on a cell that is taken, on a link that fails, and on the chain's cells. -/

namespace Sys2Proof.Machine

theorem modJob_port (s : State) (f : Job → Job) (p : Nat) : (s.modJob f).port p = s.port p := rfl

/-- The port of a cell that is taken, from what it held before the receiver expected the next number. -/
def Port.expecting (x : Port) : Port := { x with rxSeq := x.rxSeq + 1, rxFails := 0, asked := false, due := x.due + 1 }

theorem cellTaken_at {u : State} {p : Nat} {y : Port} (h : u.port p = y) : (cellTaken u p).port p = y.expecting := by
  subst h
  exact cellTaken_port u p

/-- The port once the north port has taken all its chain cells. -/
def Port.delivered (x : Port) (n : Nat) : Port := ({ x.roomTaken 2 with chainIn := [] } : Port).free 2 n

section
variable {s u : State} {p vc : Nat} {c : Cell} {y : Port}

section
variable (hu : (s.port p).up = true) (hw : WholeCell c) (hm : c.tag.extractLsb' 16 16 = (s.port p).rxSeq) (hp : p < 16)
include hu hw hm hp

theorem told_taken (ht : takeCell s p c = some u) (hy : u.port p = y) (hseq : y.rxSeq = (s.port p).rxSeq) {f : State → Prop}
    (hf : f (cellTaken u p)) : Told s p c f :=
  told_of ((cell_arrives hw hm hu hp).trans (by rw [ht])) (hy ▸ hseq) hf

theorem told_part (hvc : (c.tag.extractLsb' 0 2).toNat = vc) (htag : tagTraffic vc c = false) (hroom : tget 0 (s.port p).room vc ≠ 0)
    (h2 : vc ≠ 2) (hlast : c.tag.getLsbD 8 = false) : Told s p c (fun t => tget 0 (t.port p).room vc = tget 0 (s.port p).room vc - 1 ∧
      tget [] (t.port p).parts vc = tget [] (s.port p).parts vc ++ [c]) := by
  refine told_taken hu hw hm hp (takeCell_part hvc htag hroom h2 hlast) (setPort_port_same ..) rfl ?_
  rw [cellTaken_at (setPort_port_same ..)]
  exact ⟨tget_tset_same .., tget_tset_same ..⟩

/-- A message acts once its last cell has come. -/
theorem told_msg (hvc : (c.tag.extractLsb' 0 2).toNat = vc) (hroom : tget 0 (s.port p).room vc ≠ 0) (h2 : vc < 2)
    (hlast : c.tag.getLsbD 8 = true) (hparts : tget [] (s.port p).parts vc = []) {v : List Nat} (hlen : v.length = 8)
    (hv : Config.cellNums c.tag c.payload = v) : Told s p c (fun t => tget 0 (t.port p).room vc = tget 0 (s.port p).room vc - 1 ∧
      t.job.linkRx = if (cellMsg v c).ended s.job.aborts then s.job.linkRx else s.job.linkRx ++ [cellMsg v c]) := by
  have ht := takeCell_one (s := s) hvc (tagTraffic_ne (by omega)) hroom (by omega) hlast hparts
  rw [takeNums_msg h2 hlen hv] at ht
  generalize hx : ({ (s.port p).roomTaken vc with parts := tset [] (s.port p).parts vc [] } : Port).free vc 1 = x at ht
  have hroom' : tget 0 x.expecting.room vc = tget 0 (s.port p).room vc - 1 := by
    rw [← hx]
    exact tget_tset_same ..
  have hseq : x.rxSeq = (s.port p).rxSeq := by rw [← hx]; rfl
  have hab : (s.setPort p x).job.aborts = s.job.aborts := rfl
  rw [hab] at ht
  split at ht
  · next hend =>
    refine told_taken hu hw hm hp ht (setPort_port_same ..) hseq ⟨?_, by rw [if_pos hend]; rfl⟩
    rw [cellTaken_at (setPort_port_same ..), hroom']
  · next hend =>
    have hport := (modJob_port (s.setPort p x) (fun j => { j with linkRx := j.linkRx ++ [cellMsg v c] }) p).trans (setPort_port_same ..)
    refine told_taken hu hw hm hp ht hport hseq ⟨?_, by rw [if_neg hend]; rfl⟩
    rw [cellTaken_at hport, hroom']

/-- A credit report returns buffers and takes none. -/
theorem told_report {q a b i k : Nat} (hvc : (c.tag.extractLsb' 0 2).toNat = 3) (hn : Config.cellNums c.tag c.payload = [1, q, a, b, i, k]) :
    Told s p c (fun t => (t.port p).room = (s.port p).room ∧
      ∀ w < 4, tget 0 (t.port p).credit w = tget 0 (s.port p).credit w + [a, b, i, k].getD w 0) := by
  have hack : ((s.port p).acked (BitVec.ofNat 16 q)).room = (s.port p).room ∧ ((s.port p).acked (BitVec.ofNat 16 q)).rxSeq = (s.port p).rxSeq ∧
      ((s.port p).acked (BitVec.ofNat 16 q)).credit = (s.port p).credit := by
    unfold Port.acked
    split
    · split <;> exact ⟨rfl, rfl, rfl⟩
    · split <;> exact ⟨rfl, rfl, rfl⟩
  obtain ⟨hroom, hseq, hcredit⟩ := hack
  have ht := takeCell_report (s := s) (p := p) hvc hn
  rw [State.modPort] at ht
  generalize (s.port p).acked (BitVec.ofNat 16 q) = z at hroom hseq hcredit ht
  generalize hx : ([a, b, i, k].zipIdx).foldl (fun x (k, v) => Port.credited x v k) z = x at ht
  have hx : (((z.credited 0 a).credited 1 b).credited 2 i).credited 3 k = x := hx
  refine told_taken hu hw hm hp ht (setPort_port_same ..) (by rw [← hx, ← hseq]; rfl) ?_
  rw [cellTaken_at (setPort_port_same ..)]
  refine ⟨by rw [← hx, ← hroom]; rfl, fun w hw => ?_⟩
  have hcr : x.expecting.credit = ((((z.credited 0 a).credited 1 b).credited 2 i).credited 3 k).credit := by rw [← hx]; rfl
  rw [hcr, ← hcredit]
  interval_cases w <;> simp [tget_tset, Port.credited]

/-! ### Chain cells that arrive -/

/-- A chain cell in a buffer of its port. -/
def chainCell (s : State) (p : Nat) (c : Cell) : State :=
  s.setPort p { (s.port p).roomTaken 2 with chainIn := (s.port p).chainIn ++ [c] }

omit hu hw hm hp in
theorem chainCell_port : (chainCell s p c).port p = { (s.port p).roomTaken 2 with chainIn := (s.port p).chainIn ++ [c] } :=
  setPort_port_same ..

omit hu hw hm hp in
theorem chainCell_at (ha : ChainAt s p) : ChainAt (chainCell s p c) p := ⟨ha.nbind, ha.saved, ha.old⟩

section
variable (hvc : (c.tag.extractLsb' 0 2).toNat = 2) (hroom : tget 0 (s.port p).room 2 ≠ 0)
include hvc hroom

/-- What a chain cell does, from the state that the north port leaves. -/
theorem told_chain {l : List Cell} {fr : Tbl Nat} (hmove : (chainCell s p c).chainMove p = u)
    (hy : u.port p = { (s.port p).roomTaken 2 with chainIn := l, freed := fr }) {g : State → Prop} (hg : g (cellTaken u p)) :
    Told s p c (fun t => tget 0 (t.port p).room 2 = tget 0 (s.port p).room 2 - 1 ∧ (t.port p).chainIn = l ∧ g t) := by
  refine told_taken hu hw hm hp ((takeCell_chain hvc hroom).trans (congrArg some hmove)) hy rfl ?_
  rw [cellTaken_at hy]
  exact ⟨tget_tset_same .., rfl, hg⟩

theorem told_chain_sealed (hl : (s.row 0).life ≠ .idle) (hs : (s.row 0).north.sealAt ≠ .none) :
    Told s p c (fun t => tget 0 (t.port p).room 2 = tget 0 (s.port p).room 2 - 1 ∧ (t.port p).chainIn = (s.port p).chainIn ++ [c] ∧
      t.row 0 = s.row 0) :=
  told_chain hu hw hm hp hvc hroom (chainDeliver_stays (s := chainCell s p c) (chainTake_sealed hl hs) _) chainCell_port
    (g := fun t => t.row 0 = s.row 0) rfl

variable (hl : (s.row 0).life ≠ .idle) (ha : ChainAt s p) (hs : (s.row 0).north.sealAt = .none)
include hl ha hs

theorem told_chain_stray (hc : c.tag.extractLsb' 2 6 ≠ Config.sealKind) (hin : (s.port p).chainIn = []) (he : c.tag.getLsbD 8 = true) :
    Told s p c (fun t => tget 0 (t.port p).room 2 = tget 0 (s.port p).room 2 - 1 ∧ (t.port p).chainIn = [] ∧ t.row 0 = s.row 0) := by
  have hport := chainCell_port (s := s) (p := p) (c := c)
  rw [hin, List.nil_append] at hport
  have htake : (chainCell s p c).chainTake ((chainCell s p c).port p).chainIn = some (chainCell s p c, 1) := by
    rw [hport]
    exact chainTake_stray hl hs hc he
  have hmove : (chainCell s p c).chainMove p = (chainCell s p c).setPort p ((s.port p).delivered 1) := by
    rw [State.chainMove, hport]
    refine (chainDeliver_takes (chainCell_at ha) htake 0).trans ?_
    rw [hport]
    rfl
  exact told_chain hu hw hm hp hvc hroom hmove (setPort_port_same ..) (g := fun t => t.row 0 = s.row 0) rfl

omit ha in
theorem told_chain_half (hc : c.tag.extractLsb' 2 6 ≠ Config.sealKind) (hin : (s.port p).chainIn = []) (he : c.tag.getLsbD 8 = false) :
    Told s p c (fun t => tget 0 (t.port p).room 2 = tget 0 (s.port p).room 2 - 1 ∧ (t.port p).chainIn = [c] ∧ t.row 0 = s.row 0) := by
  have hport := chainCell_port (s := s) (p := p) (c := c)
  rw [hin, List.nil_append] at hport
  have htake : (chainCell s p c).chainTake ((chainCell s p c).port p).chainIn = none := by
    rw [hport]
    exact chainTake_half hl hs hc he
  exact told_chain hu hw hm hp hvc hroom (chainDeliver_stays htake _) hport (g := fun t => t.row 0 = s.row 0) rfl

/-- The second cell makes a chain entry. -/
theorem told_chain_entry {h : Cell} (hin : (s.port p).chainIn = [h]) (hh : h.tag.extractLsb' 2 6 ≠ Config.sealKind)
    (he : h.tag.getLsbD 8 = false) (hfifo : (s.row 0).north.entries.length + (s.row 0).north.flight.length < 128) :
    Told s p c (fun t => tget 0 (t.port p).room 2 = tget 0 (s.port p).room 2 - 1 ∧ (t.port p).chainIn = [] ∧
      (t.row 0).north.flight = (s.row 0).north.flight ++ [entryOf h c]) := by
  have hport := chainCell_port (s := s) (p := p) (c := c)
  rw [hin] at hport
  have htake : (chainCell s p c).chainTake ((chainCell s p c).port p).chainIn = _ := (congrArg _ (by rw [hport]; rfl)).trans
    (chainTake_entry (s := chainCell s p c) (l := []) hl hs hh he hfifo c)
  generalize hv : (chainCell s p c).modRow 0 _ = v at htake
  have hmove : (chainCell s p c).chainMove p = v.setPort p ((s.port p).delivered 2) := by
    rw [State.chainMove, hport]
    refine (chainDeliver_takes (chainCell_at ha) htake 1).trans ?_
    rw [hport]
    refine chainDeliver_stays ?_ 1
    rw [setPort_port_same]
    exact chainTake_nil
  refine told_chain hu hw hm hp hvc hroom hmove (setPort_port_same ..) (g := fun t => (t.row 0).north.flight = _) ?_
  show (v.row 0).north.flight = _
  rw [← hv, modRow_row_same]
  rfl

theorem told_chain_seal (hin : (s.port p).chainIn = []) (hc : c.tag.extractLsb' 2 6 = Config.sealKind) :
    Told s p c (fun t => tget 0 (t.port p).room 2 = tget 0 (s.port p).room 2 - 1 ∧ (t.port p).chainIn = [] ∧
      (t.row 0).north.sealAt = .flying ∧ (t.row 0).north.flight = (s.row 0).north.flight) := by
  have hport := chainCell_port (s := s) (p := p) (c := c)
  rw [hin, List.nil_append] at hport
  have htake : (chainCell s p c).chainTake ((chainCell s p c).port p).chainIn = _ := (congrArg _ (by rw [hport])).trans
    (chainTake_seal (s := chainCell s p c) (l := []) hl hs hc)
  generalize hv : (chainCell s p c).modRow 0 _ = v at htake
  have hmove : (chainCell s p c).chainMove p = v.setPort p ((s.port p).delivered 1) := by
    rw [State.chainMove, hport]
    refine (chainDeliver_takes (chainCell_at ha) htake 0).trans ?_
    rw [hport]
    rfl
  refine told_chain hu hw hm hp hvc hroom hmove (setPort_port_same ..)
    (g := fun t => (t.row 0).north.sealAt = .flying ∧ (t.row 0).north.flight = _) ?_
  show (v.row 0).north.sealAt = .flying ∧ (v.row 0).north.flight = _
  rw [← hv, modRow_row_same]
  exact ⟨rfl, rfl⟩
end
end
end

end Sys2Proof.Machine
end

section
/-! SUPPORT. A link that fails (R27, R357, R369), and the cells of the chain (R24, R163, R166). -/

namespace Sys2Proof.Machine

/-! ### What the fault of a link command leaves alone -/

section
variable {γ : Type} {f : State → γ} (hrow : ∀ (t : State) n ds os, f (t.setRow n { t.row n with deferred := ds, ops := os }) = f t)
  (hraise : ∀ t x, f (State.raise t x) = f t) (hdie : ∀ t n x, f (State.setDie t n x) = f t)
  (hcommit : ∀ (t : State) (x : Job → Option Commit), f (t.modJob fun j => { j with commit := x j }) = f t)
  (hcmds : ∀ (t : State) (k : Cmd → Cmd), f (t.modCmds k) = f t) (htold : ∀ b t c, f (linkTold b t c) = f t)
include hrow hraise hdie hcommit hcmds htold

theorem linkStop_keeps (first : Bool) (s : State) (d e cause : Nat) (a : W64) (c : Cmd) : f (s.linkStop first d e cause a c) = f s := by
  rw [linkStop_eq, engFault_keeps (f := f) hrow hraise hdie hcommit hcmds, htold]

theorem linkEnd_keeps (s : State) (d e cause : Nat) (a : W64) (c : Cmd) : f (s.linkEnd d e cause a c) = f s := by
  refine (foldl_keeps (fun t x => ?_) _ _).trans (linkStop_keeps hrow hraise hdie hcommit hcmds htold true s d e cause a c)
  exact linkStop_keeps hrow hraise hdie hcommit hcmds htold false t _ _ _ _ _
end

/-! ### A port that goes down -/

/-- The commands of a port that goes down have faulted. -/
def portFaulted (s : State) (p : Nat) : State :=
  let s1 := (s.setPort p { s.port p with up := false }).raise
    ⟨5, 0x8000 + 1 + p / 4, BitVec.ofNat 32 p, 0, none, s.unitClk 0x8000, 0, 0⟩
  (linkCmds s1 (fun c => ((c.roles (s1.comm c.comm)).any (fun r => ((s1.comm c.comm).mask r.1).getLsbD p)))).foldl
    (fun s (d, e, c) => s.linkEnd d e 12 0 c) s1

theorem linkFails_outside {s : State} {p : Nat} (hp : p < 16) : s.linkFails p = (portFaulted s p).chainShut p := by
  rw [State.linkFails, if_pos hp]
  rfl

/-- What the north port's end of the chain rests on. -/
def chainFace (s : State) : Bind × Life × Fifo × Bool × List Cell :=
  ((s.row 0).nbind, (s.row 0).life, (s.row 0).north, tget false s.job.saved 0, s.job.chainOld)

section
variable {s : State} {p k : Nat}

theorem portFaulted_port : (portFaulted s p).port k = (s.setPort p { s.port p with up := false }).port k := by
  refine (foldl_keeps (obs := fun t => State.port t k) (fun t x => ?_) _ _).trans rfl
  exact linkEnd_keeps (f := fun t => t.port k) (fun _ _ _ _ => rfl) (fun _ _ => rfl) (fun _ _ _ => rfl) (fun _ _ => rfl) (fun _ _ => rfl)
    (fun _ _ _ => rfl) t _ _ _ _ _

theorem chainFace_told (t : State) (n : Nat) (ds : List Deferred) (os : List Op) :
    chainFace (t.setRow n { t.row n with deferred := ds, ops := os }) = chainFace t := by
  unfold chainFace
  rw [setRow_row]
  split
  · next h =>
    subst h
    rfl
  · rfl

theorem modCmds_row (t : State) (f : Cmd → Cmd) (n : Nat) : (t.modCmds f).row n = t.row n := rfl

theorem portFaulted_face : chainFace (portFaulted s p) = chainFace s := by
  refine (foldl_keeps (obs := chainFace) (fun t x => ?_) _ _).trans rfl
  exact linkEnd_keeps (f := chainFace) chainFace_told (fun _ _ => rfl) (fun _ _ _ => rfl) (fun _ _ => rfl) (fun _ _ => rfl)
    (fun _ _ _ => rfl) t _ _ _ _ _

/-- A port that goes down is down, and no other port is touched. -/
theorem linkFails_port (hp : p < 16) : ((s.linkFails p).port p).up = false ∧
    ((s.row 0).nbind ≠ .link p → (s.linkFails p).port p = { s.port p with up := false }) ∧
    ∀ k, k ≠ p → (s.linkFails p).port k = s.port k := by
  rw [linkFails_outside hp]
  have hport (k : Nat) := portFaulted_port (s := s) (p := p) (k := k)
  have hface := portFaulted_face (s := s) (p := p)
  generalize portFaulted s p = t at hport hface
  have hbind : (t.row 0).nbind = (s.row 0).nbind := congrArg (fun x => x.1) hface
  have hback (u : State) (k : Nat) : u.chainBack.port k = u.port k :=
    chainBack_keeps (obs := fun t => t.port k) (fun _ _ _ => rfl) (fun _ _ => rfl) u
  have hp' : t.port p = { s.port p with up := false } := (hport p).trans (setPort_port_same ..)
  have hne (k : Nat) (hk : k ≠ p) : t.port k = s.port k := (hport k).trans (setPort_port_ne _ _ hk)
  unfold State.chainShut
  split
  · exact ⟨by rw [hp'], fun _ => hp', hne⟩
  · next hb =>
    have hb : (t.row 0).nbind = .link p := by simpa using hb
    refine ⟨?_, fun h => absurd (hbind ▸ hb) h, fun k hk => ?_⟩
    · rw [hback, State.modPort, setPort_port_same, modJob_port, hp']
    · rw [hback, State.modPort, setPort_port_ne _ _ hk, modJob_port, hne k hk]

/-- The cell of a seal. -/
theorem sealCell_kind : (cellOf 2 Config.sealKind true 0 0).tag.extractLsb' 2 6 = Config.sealKind := by
  refine BitVec.eq_of_toNat_eq ?_
  have hk := Config.sealKind.isLt
  simp only [cellOf, BitVec.extractLsb'_toNat, BitVec.toNat_ofNat, Bool.toNat_true, Nat.shiftRight_eq_div_pow, BitVec.ofNat_eq_ofNat]
  omega

/-- Row 0's north port seals as its link goes down (R369). -/
theorem linkFails_seals (hp : p < 16) (ha : ChainAt s p) (hl : (s.row 0).life ≠ .idle) (hin : (s.port p).chainIn = [])
    (hs : (s.row 0).north.sealAt = .none) : ((s.linkFails p).row 0).north.sealAt = .flying ∧
      ((s.linkFails p).row 0).north.flight = (s.row 0).north.flight := by
  rw [linkFails_outside hp]
  have hport := portFaulted_port (s := s) (p := p) (k := p)
  have hface := portFaulted_face (s := s) (p := p)
  generalize portFaulted s p = t at hport hface
  have hin' : (t.port p).chainIn = [] := by rw [hport, setPort_port_same]; exact hin
  obtain ⟨hbind, hlife, hnorth, hsaved, hold⟩ : (t.row 0).nbind = (s.row 0).nbind ∧ (t.row 0).life = (s.row 0).life ∧
      (t.row 0).north = (s.row 0).north ∧ tget false t.job.saved 0 = tget false s.job.saved 0 ∧ t.job.chainOld = s.job.chainOld := by
    simpa [chainFace] using hface
  rw [State.chainShut, hbind, ha.nbind, if_neg (by simp)]
  generalize hv : ((t.modJob _).modPort p _) = v
  have hvrow : v.row 0 = t.row 0 := by rw [← hv]; rfl
  have hvold : v.job.chainOld = [cellOf 2 Config.sealKind true 0 0] := by
    rw [← hv]
    show t.job.chainOld ++ wholeCells (t.port p).chainIn ++ [_] = _
    rw [hold, ha.old, hin']
    rfl
  have hvsaved : tget false v.job.saved 0 = false := by rw [← hv]; exact hsaved.trans ha.saved
  have htake := chainTake_seal (s := v) (c := cellOf 2 Config.sealKind true 0 0) (l := []) (by rw [hvrow, hlife]; exact hl)
    (by rw [hvrow, hnorth]; exact hs) sealCell_kind
  generalize hw : v.modRow 0 _ = w at htake
  have hback : v.chainBack = w.modJob (fun j => { j with chainOld := j.chainOld.drop 1 }) := by
    rw [State.chainBack, hvsaved, if_neg Bool.false_ne_true, hvold, List.length_singleton, State.chainPast, hvold, htake]
    rfl
  rw [hback]
  show (w.row 0).north.sealAt = .flying ∧ (w.row 0).north.flight = _
  rw [← hw, modRow_row_same, hvrow, hnorth]
  exact ⟨rfl, rfl⟩
end

/-! ### The chain's cells (R24, R166) -/

section
variable (k : BitVec 6) (last : Bool) (aux : W32) (payload : BitVec 512) (q : BitVec 16)

theorem cellOf_tag_toNat : (cellOf 2 k last aux payload).tag.toNat = 2 + 4 * k.toNat + 256 * last.toNat + 2 ^ 32 * aux.toNat := by
  have hk := k.isLt
  have ha := aux.isLt
  have hl := last.toNat_le
  rw [cellOf, BitVec.toNat_ofNat, Nat.mod_eq_of_lt (by omega)]

theorem number_toNat : (q.setWidth 64 <<< 16).toNat = 2 ^ 16 * q.toNat := by
  have hq := q.isLt
  rw [BitVec.toNat_shiftLeft, BitVec.toNat_setWidth, Nat.shiftLeft_eq]
  omega

theorem extract_or {n m : Nat} (x y : W64) {z : BitVec m} (hx : x.toNat / 2 ^ n % 2 ^ m = z.toNat) (hy : y.toNat / 2 ^ n % 2 ^ m = 0) :
    (x ||| y).extractLsb' n m = z := by
  have hx' : x.extractLsb' n m = z := BitVec.eq_of_toNat_eq (by rw [toNat_field, hx])
  have hy' : y.extractLsb' n m = 0 := BitVec.eq_of_toNat_eq (by rw [toNat_field, hy]; simp)
  rw [BitVec.extractLsb'_or, hx', hy']
  exact BitVec.or_zero

theorem numberCell_payload (vc : Nat) : (numberCell (cellOf vc k last aux payload) q).payload = payload := rfl

/-- The number, the channel and the aux of a cell that has its number. -/
theorem numberCell_tag : (numberCell (cellOf 2 k last aux payload) q).tag.extractLsb' 16 16 = q ∧
    (numberCell (cellOf 2 k last aux payload) q).tag.extractLsb' 0 2 = 2 ∧
    (numberCell (cellOf 2 k last aux payload) q).tag.extractLsb' 32 32 = aux := by
  have htag := cellOf_tag_toNat k last aux payload
  have hnum := number_toNat q
  have hk := k.isLt
  have ha := aux.isLt
  have hq := q.isLt
  have hl := last.toNat_le
  refine ⟨?_, ?_, ?_⟩
  · rw [numberCell, BitVec.or_comm]
    exact extract_or _ _ (by rw [hnum]; omega) (by rw [htag]; omega)
  · exact extract_or _ _ (by rw [htag]; simp; omega) (by rw [hnum]; omega)
  · exact extract_or _ _ (by rw [htag]; omega) (by rw [hnum]; omega)
end

/-- Half of a chain entry, in the payload of its cell. -/
def halfPayload (e : PEntry) (k : Nat) : BitVec 512 :=
  bytesPayload ((List.range 16).flatMap (fun i => leList 4 (tget 0 e.words (16 * k + i)).toNat))

theorem chainCells_eq (e : PEntry) : chainCells e =
    [cellOf 2 Config.chainKind false e.valid (halfPayload e 0), cellOf 2 Config.chainKind true 0 (halfPayload e 1)] := rfl

theorem leVal_words (f : Nat → W32) (n i : Nat) (h : i < n) :
    leVal ((List.range n).flatMap (fun i => leList 4 (f i).toNat)) / 2 ^ (32 * i) % 2 ^ 32 = (f i).toNat := by
  induction n generalizing f i with
  | zero => omega
  | succ n ih =>
    rw [List.range_succ_eq_map, List.flatMap_cons, List.flatMap_map, leVal_append, leList_length, leVal_leList]
    have hlt := (f 0).isLt
    cases i with
    | zero =>
      rw [Nat.mul_zero, Nat.pow_zero, Nat.div_one]
      omega
    | succ i =>
      rw [Nat.mul_succ, Nat.pow_add, Nat.mul_comm (2 ^ (32 * i)), ← Nat.div_div_eq_div_mul]
      have hshift (x : Nat) : ((f 0).toNat % 256 ^ 4 + 256 ^ 4 * x) / 2 ^ 32 = x := by omega
      rw [hshift]
      exact ih (fun j => f (j + 1)) i (by omega)

theorem leVal_lt (l : List W8) : leVal l < 256 ^ l.length := by
  induction l with
  | nil => exact Nat.one_pos
  | cons b l ih =>
    have hb := b.isLt
    rw [List.length_cons, Nat.pow_succ, show leVal (b :: l) = b.toNat + 256 * leVal l from rfl]
    omega

theorem toNat_ofNat_lt {n x : Nat} (h : x < 2 ^ n) : (BitVec.ofNat n x).toNat = x := by
  rw [BitVec.toNat_ofNat, Nat.mod_eq_of_lt h]

theorem pow_bytes (n : Nat) : 256 ^ n = 2 ^ (8 * n) := by rw [Nat.pow_mul]

theorem halfPayload_word (e : PEntry) (k : Nat) {i : Nat} (h : i < 16) :
    (halfPayload e k).extractLsb' (32 * i) 32 = tget 0 e.words (16 * k + i) := by
  refine BitVec.eq_of_toNat_eq ?_
  have hlt := leVal_lt ((List.range 16).flatMap (fun i => leList 4 (tget 0 e.words (16 * k + i)).toNat))
  have hlen : ((List.range 16).flatMap (fun i => leList 4 (tget 0 e.words (16 * k + i)).toNat)).length = 64 := by
    simp [List.length_flatMap]
  rw [hlen, pow_bytes, show 8 * 64 = 512 from rfl] at hlt
  rw [BitVec.extractLsb'_toNat, Nat.shiftRight_eq_div_pow, halfPayload, bytesPayload, toNat_ofNat_lt hlt]
  exact leVal_words (fun i => tget 0 e.words (16 * k + i)) 16 i h

theorem tabulate_congr {α : Type} [DecidableEq α] (d : α) {n : Nat} {f g : Nat → α} (h : ∀ i < n, f i = g i) :
    tabulate d n f = tabulate d n g := by
  unfold tabulate
  rw [List.map_congr_left fun i hi => by rw [h i (List.mem_range.1 hi)]]

theorem cellWords_half (c c' : Cell) (e : PEntry) (hc : c.payload = halfPayload e 0) (hc' : c'.payload = halfPayload e 1) {i : Nat}
    (h : i < 32) : (cellWords c ++ cellWords c').getD i 0 = tget 0 e.words i := by
  have hlen (c : Cell) : (cellWords c).length = 16 := by simp [cellWords]
  have hword (c : Cell) (k : Nat) (hk : c.payload = halfPayload e k) {j : Nat} (hj : j < 16) :
      (cellWords c)[j]? = some (tget 0 e.words (16 * k + j)) := by
    rw [cellWords, List.getElem?_map, List.getElem?_range hj, Option.map_some, hk, halfPayload_word e k hj]
  rw [List.getD_eq_getElem?_getD, List.getElem?_append, hlen]
  split
  · next hi => rw [hword c 0 hc hi, Option.getD_some, Nat.mul_zero, Nat.zero_add]
  · next hi => rw [hword c' 1 hc' (j := i - 16) (by omega), Option.getD_some, show 16 * 1 + (i - 16) = i by omega]

/-- The entry of the two cells that one end makes of it. -/
theorem entryOf_chainCells (e : PEntry) (m n : BitVec 16) :
    entryOf (numberCell (cellOf 2 Config.chainKind false e.valid (halfPayload e 0)) m)
      (numberCell (cellOf 2 Config.chainKind true 0 (halfPayload e 1)) n) = ⟨tabulate 0 32 (fun i => tget 0 e.words i), e.valid⟩ := by
  obtain ⟨-, -, hvalid⟩ := numberCell_tag Config.chainKind false e.valid (halfPayload e 0) m
  rw [entryOf, hvalid]
  exact congrArg (fun t => (⟨t, e.valid⟩ : PEntry)) (tabulate_congr 0 fun i hi => cellWords_half _ _ e (numberCell_payload ..) (numberCell_payload ..) hi)

/-! ### The chain's cells are sent (R24, R163) -/

section
variable {s : State} {p : Nat}

theorem sendChain_entry {e : PEntry} {rest : List PEntry} (ho : s.job.chainOut = e :: rest) (hm : (s.port p).may p 2 2 = true) :
    ((State.sendChain p 1 s).port p).copies = (s.port p).copies ++
      ((chainCells e).zip [(s.port p).txSeq, (s.port p).txSeq + 1]).map (fun y => numberCell y.1 y.2) ∧
    (State.sendChain p 1 s).job.chainOut = rest := by
  have hsend : State.sendChain p 1 s = (s.modJob (fun j => { j with chainOut := rest })).setPort p
      { (chainCells e).foldl (fun x c => x.put 2 c) (s.port p) with trail := (s.port p).trail ++ [true, true] } := by
    rw [State.sendChain]
    simp only [ho, hm, if_true]
    rfl
  rw [hsend, setPort_port_same, chainCells_eq]
  refine ⟨?_, rfl⟩
  exact List.append_assoc _ [_] [_]

theorem sendChain_waits (ho : s.job.chainOut ≠ []) (hm : (s.port p).may p 2 2 = false) : State.sendChain p 1 s = s := by
  obtain ⟨e, rest, ho⟩ := List.exists_cons_of_ne_nil ho
  rw [State.sendChain]
  simp only [ho, hm, Bool.false_eq_true, if_false]

theorem sendChain_seal (ho : s.job.chainOut = []) (hs : s.job.chainSeal = true) (hm : (s.port p).may p 2 1 = true) :
    ((State.sendChain p 1 s).port p).copies =
      (s.port p).copies ++ [numberCell (cellOf 2 Config.sealKind true 0 0) (s.port p).txSeq] ∧
    (State.sendChain p 1 s).job.chainSeal = false := by
  have hsend : State.sendChain p 1 s = (s.modJob (fun j => { j with chainSeal := false })).setPort p
      { (s.port p).put 2 (cellOf 2 Config.sealKind true 0 0) with trail := (s.port p).trail ++ [false] } := by
    rw [State.sendChain]
    simp only [ho, hs, hm, Bool.and_self, if_true]
  rw [hsend, setPort_port_same]
  exact ⟨rfl, rfl⟩
end

end Sys2Proof.Machine
end

section
/-! SUPPORT. The obligation on links, from the lemmas about link commands, aborts, cells and ports. -/

namespace Sys2Proof.Machine

/-- The clauses on a link command from its checks to its match. -/
theorem links_start (s : State) (d e : Nat) (c : Cmd) (i : Instr) (kind : Nat) (x : Msg) (r : Nat × Bool)
    (hi : (i, kind) ∈ [(Instr.send d e false, 0x10), (.recv d e, 0x11), (.reduceStep d e false, 0x12), (.xorReduce d e false, 0x13),
      (.allreduce d e false, 0x14)]) (h : EngRuns s d e kind c) :
    let m := s.comm c.comm
    let k := s.job.linkStarts
    let faults (f ser : Nat) (p : State → Prop) : Prop := ∃ t, exec i s = .next t ∧ FaultsTo s t d e c f ser ∧ p t
    (∀ f, c.fill = 0 → linkFault s c = some f → ∀ y ∈ linkCmds s (fun x => x.comm == c.comm && x.tag == c.tag),
      ∃ t, exec i s = .next t ∧ (t.eng y.1 y.2.1).fault ≠ 0) ∧
    (s.AloneAt d e c →
      (c.fill = 0 → linkFault s c = none →
        (s.linkBusy c = true → exec i s = .next s.draw) ∧
        (s.linkBusy c = false → ∃ t, exec i s = .next t ∧ (t.eng d e).cmd = some { c with fill := 1, ser := k } ∧
          t.job.linkStarts = k + 1 ∧
          t.job.linkTx = s.job.linkTx ++ (c.roles m).map (fun r => ⟨c.comm, r.1, c.tag, 0, kind, c.bytes, c.also m, [], 0, k⟩) ∧
          (∀ a, t.byte a = s.byte a) ∧ ∀ n, t.row n = s.row n)) ∧
      (∀ f, c.fill = 0 → linkFault s c = some f → faults f k (fun t => t.job.linkStarts = k + 1)) ∧
      (c.fill = 1 → (∀ r ∈ c.roles m, s.pathUp (m.mask r.1) = true) → c.roles m = [r] →
        (s.linkBehind c = true → exec i s = .next s.draw) ∧
        (s.linkBehind c = false →
          (s.partner c r = none → exec i s = .next s.draw) ∧
          (s.partner c r = some x → agrees c m r x = true → ∃ t, exec i s = .next t ∧
            (t.eng d e).cmd = some { c with fill := 2, mates := [(r.1, x.ser)] } ∧ t.job.linkRx = s.job.linkRx.erase x) ∧
          (s.partner c r = some x → agrees c m r x = false → faults 14 c.ser (fun t => t.job.linkRx = s.job.linkRx.erase x)))) ∧
      (c.fill ≠ 0 → c.roles m = [r] → s.pathUp (m.mask r.1) = false → faults 12 c.ser (fun _ => True))) := by
  intro m k faults
  obtain ⟨work, after, he⟩ := exec_link (s := s) hi
  refine ⟨fun f hn hf y hy => link_faults_others he h hn hf hy, fun ha => ⟨fun hn hf => ⟨fun hb => ?_, link_starts he h hn hf⟩,
    fun f hn hf => link_faults he h ha hn hf, fun hn hp hr => ⟨link_behind he h hn hp, fun hb => ⟨fun hx => ?_, fun hx hag => ?_,
      fun hx hag => ?_⟩⟩, fun hn hr hp => ?_⟩⟩
  · exact he.trans (linkStep_busy h hn hf hb)
  · rw [link_meets he h hn hp hb hr, hx]
  · exact link_matched he h hn hp hb hr hx hag
  · exact link_differs he h hn hp hb hr ha hx hag
  · obtain ⟨t, ht, hto⟩ := link_down he h ha hn hr hp
    exact ⟨t, ht, hto, trivial⟩

theorem Told.imp {s : State} {p : Nat} {c : Cell} {f g : State → Prop} (h : Told s p c f) (hfg : ∀ t, f t → g t) : Told s p c g := by
  obtain ⟨t, ht, hseq, hfails, hasked, hf⟩ := h
  exact ⟨t, ht, hseq, hfails, hasked, hfg t hf⟩

/-- The clauses on a cell that is taken into a buffer of its channel. -/
theorem links_taken {s : State} {p : Nat} {c h : Cell} {v : List Nat} {vc : Nat} (hvc : (c.tag.extractLsb' 0 2).toNat = vc)
    (hu : (s.port p).up = true) (hw : WholeCell c) (hm : c.tag.extractLsb' 16 16 = (s.port p).rxSeq) (hp : p < 16)
    (hroom : tget 0 (s.port p).room vc ≠ 0) :
    let x := s.port p
    let takes (f : State → Prop) : Prop := Told s p c (fun t => tget 0 (t.port p).room vc = tget 0 x.room vc - 1 ∧ f t)
    (vc ≠ 2 → tagTraffic vc c = false → c.tag.getLsbD 8 = false → takes (fun t => tget [] (t.port p).parts vc = tget [] x.parts vc ++ [c])) ∧
    (vc < 2 → c.tag.getLsbD 8 = true → tget [] x.parts vc = [] → v.length = 8 → Config.cellNums c.tag c.payload = v →
      let ended : Prop := v.getD 3 0 ≠ 5 ∧ (v.getD 0 0, (BitVec.ofNat 32 (v.getD 2 0)).toNat, v.getD 1 0, v.getD 7 0) ∈ s.job.aborts
      (ended → takes (fun t => t.job.linkRx = s.job.linkRx)) ∧
      (¬ ended → takes (fun t => t.job.linkRx = s.job.linkRx ++ [cellMsg v c]))) ∧
    (vc = 2 → (s.row 0).north.sealAt ≠ .none → (s.row 0).life ≠ .idle →
      takes (fun t => (t.port p).chainIn = x.chainIn ++ [c] ∧ t.row 0 = s.row 0)) ∧
    (vc = 2 → (s.row 0).nbind = .link p → tget false s.job.saved 0 = false → (s.row 0).life ≠ .idle →
      s.job.chainOld = [] → (s.row 0).north.sealAt = .none →
      (c.tag.extractLsb' 2 6 ≠ Config.sealKind → x.chainIn = [] →
        takes (fun t => (t.port p).chainIn = (if c.tag.getLsbD 8 then [] else [c]) ∧ t.row 0 = s.row 0)) ∧
      (x.chainIn = [h] → h.tag.extractLsb' 2 6 ≠ Config.sealKind → h.tag.getLsbD 8 = false →
        (s.row 0).north.entries.length + (s.row 0).north.flight.length < 128 →
        takes (fun t => (t.port p).chainIn = [] ∧ (t.row 0).north.flight = (s.row 0).north.flight ++ [entryOf h c])) ∧
      (c.tag.extractLsb' 2 6 = Config.sealKind → x.chainIn = [] →
        takes (fun t => (t.port p).chainIn = [] ∧ (t.row 0).north.sealAt = .flying ∧
          (t.row 0).north.flight = (s.row 0).north.flight))) := by
  intro x takes
  refine ⟨fun h2 htag hlast => told_part hu hw hm hp hvc htag hroom h2 hlast, fun h2 hlast hparts hlen hv => ?_, fun h2 hs hl => ?_,
    fun h2 hb hsaved hl hold hs => ?_⟩
  · have hmsg := told_msg hu hw hm hp hvc hroom h2 hlast hparts hlen hv
    have hended := cellMsg_ended (c := c) (v := v) s.job.aborts
    refine ⟨fun hend => hmsg.imp fun t ⟨hr, hrx⟩ => ⟨hr, ?_⟩, fun hend => hmsg.imp fun t ⟨hr, hrx⟩ => ⟨hr, ?_⟩⟩
    · rwa [if_pos (hended.2 hend)] at hrx
    · rwa [if_neg (hended.not.2 hend)] at hrx
  · subst h2
    exact told_chain_sealed hu hw hm hp hvc hroom hl hs
  · subst h2
    have ha : ChainAt s p := ⟨hb, hsaved, hold⟩
    refine ⟨fun hc hin => ?_, fun hin hh he hfifo => ?_, fun hc hin => ?_⟩
    · cases he : c.tag.getLsbD 8 with
      | false => exact told_chain_half hu hw hm hp hvc hroom hl hs hc hin he
      | true => exact told_chain_stray hu hw hm hp hvc hroom hl ha hs hc hin he
    · exact told_chain_entry hu hw hm hp hvc hroom hl ha hs hin hh he hfifo
    · exact told_chain_seal hu hw hm hp hvc hroom hl ha hs hin hc

/-- Settles O48: a link command from its checks through its match to its data, an abort, a cell that arrives, a replay, a link that
fails, and the chain's cells. -/
theorem links : Obligations.Links := by
  unfold Obligations.Links
  refine ⟨?_, ?_, ?_, ?_, ?_, ?_⟩
  · intro s d e c i kind x r hi g m k aborts faults same hc hf hh hp hk
    have h : EngRuns s d e kind c := ⟨hc, hf, hh, hp, hk⟩
    obtain ⟨hall, hrest⟩ := links_start s d e c i kind x r hi h
    have hto {f ser : Nat} {p : State → Prop} (hx : ∃ t, exec i s = .next t ∧ FaultsTo s t d e c f ser ∧ p t) : faults f ser p := by
      obtain ⟨t, ht, ⟨u, heng, htx, hbyte⟩, hpt⟩ := hx
      rw [hk] at htx
      exact ⟨t, u, ht, heng, htx, hbyte, hpt⟩
    refine ⟨hall, fun ha => ?_⟩
    obtain ⟨hstart, hfault, hmeet, hdown⟩ := hrest ha
    refine ⟨hstart, fun f hn hfl => hto (hfault f hn hfl), fun hn hup hr => ?_, fun hn hr hup => hto (hdown hn hr hup)⟩
    obtain ⟨hbehind, hfront⟩ := hmeet hn hup hr
    refine ⟨hbehind, fun hb => ?_⟩
    obtain ⟨hnone, hmatch, hdiffer⟩ := hfront hb
    exact ⟨hnone, hmatch, fun hx hag => hto (hdiffer hx hag)⟩
  · intro s d e c q p x y n a g m runs side got src n64 pass cells gives sent kept expands own cell block dst put
    have hruns {kind : Nat} (h : runs kind) : LinkRuns s d e kind c := by
      obtain ⟨hc, hf, hh, hp, hk, hfill, hup⟩ := h
      exact ⟨⟨hc, hf, hh, hp, hk⟩, hfill, hup⟩
    have hgives (peer : Nat) (x : Nat × List W8) : gives peer x = c.cells c.ser peer 2 (c.pos / 1024) x := rfl
    have hown : own = blockVals (s.sideBytes src 1024) := rfl
    have hsent {i : Instr} {l : List Msg} {n : Nat} (h : Sent s i d e c l n) : sent i l n := h
    have hkept {i : Instr} {b h : List W8} (hk : Kept s i d e c b h) : kept i b h := hk
    have hside {a : W64} {n : Nat} (h : side a n) : s.Reaches a n := h
    refine ⟨fun hb => ⟨?_, ?_, ?_, ?_, ?_, ?_, ?_, ?_, ?_, ?_⟩, ?_, ?_, ?_⟩
    · exact fun h hp hr => send_cell (hruns h) hb hp rfl rfl hr
    · rw [hgives, hown]
      exact fun h hp hr => hsent (send_block (hruns h) hb hp rfl (hside hr))
    · exact fun h hp hrx hl => recv_cell (hruns h) hb hp hrx hl
    · intro h hp hpeer ⟨hrx, hx, hq⟩
      refine recv_block (hruns h) hb hp ?_ hx hq
      rw [hpeer]
      exact hrx
    · exact fun h hrx => recv_waits (hruns h) hb hrx
    · intro h hr hl
      rw [hgives, hgives, hown]
      refine ⟨fun hf => hsent (reduceStep_first (hruns h) hb hl hf rfl (hside hr)), fun hf ⟨hrx, hx, hq⟩ => hsent ?_⟩
      exact reduceStep_next (hruns h) hb hf rfl (hside hr) hrx hx hq hl
    · intro h hr hl hf ⟨hrx, hx, hq⟩
      rw [hown]
      exact hkept (reduceStep_last (hruns h) hb hf rfl (hside hr) hrx hx hq hl rfl)
    · exact fun h hne hr => xorReduce_sends (hruns h) hb hne rfl rfl hr
    · exact fun h heq hcon hy hr hrx => xorReduce_combines (hruns h) hb heq hcon hy rfl rfl hr hrx
    · intro h hB hpos hr hsrc hplace z hin
      rw [hgives, show z = if chunkPlace c m (c.pos / 1024) = 0 then own else addVals (expBlock x q) own from rfl, hown]
      exact allreduce_sums (hruns h) hb hB hpos rfl (hside hr) hsrc hplace hin
    · intro hb hr h
      obtain ⟨t, ht, hnew, hold, hcmd⟩ := recv_writes (hruns h) hb rfl rfl hr
      exact ⟨t, ht, hnew, hold a, hcmd⟩
    · exact fun hb hlen hr h hbc hh hx => reduceStep_passesOn (hruns h) hb hlen rfl rfl hr hbc hh hx
    · exact ⟨(blockVals_side (s := s) (c.word 2)).1, (blockVals_side (s := s) (c.word 2)).2 n⟩
  · intro s comm tag d e c m k hit g tells hnew
    refine ⟨fun hhit hc => ?_, fun hhit _ => linkAbort_none hnew hhit⟩
    have hcomm : c.comm = comm := by
      have hmem : (d, e, c) ∈ hit := by rw [hhit]; exact List.mem_singleton_self _
      obtain ⟨-, -, -, -, -, -, hsame⟩ := mem_linkCmds.1 hmem
      simp only [Bool.and_eq_true, beq_iff_eq] at hsame
      exact hsame.1
    have hcause := abortCause_eq s c
    rw [hcomm] at hcause
    refine ⟨fun hag => ?_, fun hn hdiff => ?_⟩
    · refine linkAbort_one hnew hhit hc (hcause.trans (if_neg ?_))
      rintro ⟨hn, r, hr, y, hy, hno⟩
      have hyes := hag.resolve_left (not_not_intro hn) r hr y hy
      rw [hyes] at hno
      cases hno
    · exact linkAbort_one hnew hhit hc (hcause.trans (if_pos ⟨hn, hdiff⟩))
  · intro s p i a b k q c h n v x vc on whole mine cell replay told takes
    refine ⟨fun hon => ⟨cell_off hon, replay_off hon⟩, fun hon hbad => ⟨cell_dropped hon hbad, fun ha => ⟨cell_asks hon hbad ha,
      cell_failsLink hon hbad ha⟩⟩, fun hw hm hp => told_of (cell_inside hw hm hp) rfl trivial, fun hu hw hm hp htag hroom => ?_,
      fun hu hw hm hp hroom => links_taken rfl hu hw hm hp hroom, fun hu hw hm hp hvc hn => told_report hu hw hm hp hvc hn,
      fun hi h0 => acked_drops x hi h0, fun hon hi => ?_, fun hp => if_neg (Nat.not_lt.2 hp), fun hp => ?_⟩
    · exact (cell_arrives hw hm hu hp).trans (by rw [takeCell_full rfl htag hroom])
    · have hrep := replay_found hon hi
      refine ⟨fun h0 => hrep.trans (by rw [if_pos h0.ne']), fun h0 hf => hrep.trans ?_, fun h0 hf => hrep.trans ?_⟩
      · rw [if_neg (not_not_intro h0), if_pos (Nat.succ_lt_succ hf)]
      · rw [if_neg (not_not_intro h0), if_neg (Nat.not_lt.2 (Nat.succ_le_succ hf))]
    · obtain ⟨hdown, hport, hothers⟩ := linkFails_port (s := s) hp
      exact ⟨hdown, hport, fun hb hsaved hl hold hin hs => linkFails_seals hp ⟨hb, hsaved, hold⟩ hl hin hs, fun k hk _ => hothers k hk⟩
  · intro e m n x y hxy
    rw [chainCells_eq] at hxy
    obtain ⟨rfl, rfl⟩ : _ = x ∧ _ = y := by simpa using hxy
    obtain ⟨hnum, hvc, -⟩ := numberCell_tag Config.chainKind false e.valid (halfPayload e 0) m
    exact ⟨entryOf_chainCells e m n, hnum, hvc, rfl⟩
  · exact fun s p e rest => ⟨sendChain_entry, sendChain_waits, sendChain_seal⟩

end Sys2Proof.Machine
end
